-- ==== Sys2Proof/Word.lean ====
section
/-! DEFINITION. The machine word, the byte and the sparse table type. -/

namespace Sys2Proof

/-- A 64-bit register (02_rows.md R23). -/
abbrev W := BitVec 64
/-- A byte of memory. -/
abbrev Byte := BitVec 8
/-- A sparse table: what an index does not list is the table's default. -/
abbrev Tab (α : Type) := List (Nat × α)

end Sys2Proof
end

