-- ==== Sys2Proof/Config.lean ====
section
/-! DEFINITION. What a part fixes and the manual does not give, as constants without a body (entry 2). Nothing can evaluate them, so
every statement holds whatever they are. -/

namespace Sys2Proof.Config

/-- Which interleaved 256-byte granule of HBM is the cell of each bank-linear granule (22_near_memory.md R331: fixed for each
part, not disclosed, a bijection) (entry 15). -/
opaque bankPerm : Equiv.Perm (Fin 2147483648)

/-- How another package translates an address: a physical address there, or the cause that a bar records (16_translation.md R284). -/
inductive RemoteXlat where
  | ok (pa : Nat)
  | page
  | perm
  | cow
  | stage2 (ipa : Nat) (during : Bool)
  deriving DecidableEq, Repr, Inhabited
/-- Where the issuing tenant's translation in another package puts a virtual address of that package, for a package, a tenant, an address,
a write or a read, and a cycle (18_sketches.md R313) (entry 21). -/
opaque remoteXlat : Nat → Nat → Nat → Bool → Nat → RemoteXlat

/-- Whether the permission table of another package grants a tenant a core there as a packet destination, for a package, a tenant, a core and a
cycle (09_memory_sync.md R173) (entry 59). -/
opaque remoteGrants : Nat → Nat → Nat → Nat → Bool

/-- Byte `i` of an image of a core's state, in the format of the device, for the number of its writing: the manual gives the format of no image
(20_scheduling.md R327) (entry 11). -/
opaque imageByte : Nat → Nat → BitVec 8

/-- What g2 of a leaf past the 4,096 numbered ones receives, for its place in the pre-order walk (26_combinators.md R381) (entry 104). -/
opaque unnumbered : Nat → BitVec 64

/-- Whether the ECDSA P-384 signature of a firmware image verifies (24_tenancy_boot.md R364) (entry 20). -/
opaque ecdsaOk : Nat → Bool
/-- Whether its LMS signature verifies. -/
opaque lmsOk : Nat → Bool
/-- The security version of an image. -/
opaque imageVersion : Nat → BitVec 16
/-- The SHA-384 of an image (R365). -/
opaque imageHash : Nat → BitVec 384
/-- The fuse state that a measurement report carries (R365). -/
opaque fuses : BitVec 64
/-- The two signatures of a measurement report, by P-384 and by LMS (R365): of a request and the report's contents, with a one-time key. -/
opaque signature : Nat → Nat → Option (BitVec 384) → BitVec 16 → Nat × Nat

/-- The module power, in watts, at each comparison of the power controller (R363) (entry 18). -/
opaque measuredWatts : Nat → BitVec 16

end Sys2Proof.Config
end

