-- ==== Sys2Proof/Syntax.lean ====
section
/-! DEFINITION. Every row of spec/opcode_table.json as one constructor: 240 instruction words, whose arguments are the fields of
their encoding (03_encoding.md R59) as the word holds them, and then 114 steps of the device that have no encoding. Field letters are
those of the table. A device step has no arguments here: which core, row, octet, cluster, tenant or index it is about stands in
the field sel of the state (Machine/State.lean). The words stand before the device steps, because Lean compiles no constructor
with fields whose place in its type is above 244. -/

namespace Sys2Proof

/-- The instruction words and the device steps of spec/opcode_table.json, words first. -/
inductive Instr where
  | nop  -- NOP, R100
  | texit  -- TEXIT, R101
  | yield  -- YIELD, R102
  | trap (b : BitVec 5)  -- TRAP, R264
  | tret (a : BitVec 5)  -- TRET, R265
  | fenceI  -- FENCE_I, R266
  | waitmsg  -- WAITMSG, R184
  | ssync (a : BitVec 5)  -- SSYNC, R179
  | setpri (a : BitVec 5)  -- SETPRI, R103
  | sleepuntil (a : BitVec 5)  -- SLEEPUNTIL, R185
  | hjoin (a : BitVec 5)  -- HJOIN, R106
  | chunk  -- CHUNK, R162
  | tlbinv (a b : BitVec 5)  -- TLBINV, R288
  | pgate (a : BitVec 5)  -- PGATE, R346
  | cycle (d : BitVec 5)  -- CYCLE, R107
  | mbxpop (d : BitVec 5)  -- MBXPOP, R184
  | beq (a b : BitVec 5) (o : BitVec 14)  -- BEQ, R94
  | bne (a b : BitVec 5) (o : BitVec 14)  -- BNE, R94
  | blt (a b : BitVec 5) (o : BitVec 14)  -- BLT, R94
  | bge (a b : BitVec 5) (o : BitVec 14)  -- BGE, R94
  | bltu (a b : BitVec 5) (o : BitVec 14)  -- BLTU, R94
  | bgeu (a b : BitVec 5) (o : BitVec 14)  -- BGEU, R94
  | jal (d : BitVec 5) (o : BitVec 19)  -- JAL, R95
  | jalr (d a : BitVec 5) (i : BitVec 14)  -- JALR, R95
  | ldrB (d : BitVec 5) (i : BitVec 14)  -- LDR_B, R97
  | ldrH (d : BitVec 5) (i : BitVec 14)  -- LDR_H, R97
  | ldrW (d : BitVec 5) (i : BitVec 14)  -- LDR_W, R97
  | ldrD (d : BitVec 5) (i : BitVec 14)  -- LDR_D, R97
  | ldrBu (d : BitVec 5) (i : BitVec 14)  -- LDR_BU, R97
  | ldrHu (d : BitVec 5) (i : BitVec 14)  -- LDR_HU, R97
  | ldrWu (d : BitVec 5) (i : BitVec 14)  -- LDR_WU, R97
  | strB (d : BitVec 5) (i : BitVec 14)  -- STR_B, R97
  | strH (d : BitVec 5) (i : BitVec 14)  -- STR_H, R97
  | strW (d : BitVec 5) (i : BitVec 14)  -- STR_W, R97
  | strD (d : BitVec 5) (i : BitVec 14)  -- STR_D, R97
  | hstart (d a b : BitVec 5)  -- HSTART, R105
  | ldaW (d a : BitVec 5) (c : BitVec 3)  -- LDA_W, R161
  | ldaD (d a : BitVec 5) (c : BitVec 3)  -- LDA_D, R161
  | stlW (a b : BitVec 5) (c : BitVec 3)  -- STL_W, R161
  | stlD (a b : BitVec 5) (c : BitVec 3)  -- STL_D, R161
  | stmcW (a b : BitVec 5) (c : BitVec 3)  -- STMC_W, R142
  | stmcD (a b : BitVec 5) (c : BitVec 3)  -- STMC_D, R142
  | fence (c : BitVec 3) (r : BitVec 2)  -- FENCE, R143
  | ldb (d a : BitVec 5) (i : BitVec 14)  -- LDB, R156
  | ldh (d a : BitVec 5) (i : BitVec 14)  -- LDH, R156
  | ldw (d a : BitVec 5) (i : BitVec 14)  -- LDW, R156
  | ldd (d a : BitVec 5) (i : BitVec 14)  -- LDD, R156
  | ldbu (d a : BitVec 5) (i : BitVec 14)  -- LDBU, R156
  | ldhu (d a : BitVec 5) (i : BitVec 14)  -- LDHU, R156
  | ldwu (d a : BitVec 5) (i : BitVec 14)  -- LDWU, R156
  | vld (d a : BitVec 5) (i : BitVec 14)  -- VLD, R156
  | stb (s a : BitVec 5) (i : BitVec 14)  -- STB, R156
  | sth (s a : BitVec 5) (i : BitVec 14)  -- STH, R156
  | stw (s a : BitVec 5) (i : BitVec 14)  -- STW, R156
  | std (s a : BitVec 5) (i : BitVec 14)  -- STD, R156
  | vst (s a : BitVec 5) (i : BitVec 14)  -- VST, R156
  | ldxB (d a b : BitVec 5) (k : BitVec 2)  -- LDX_B, R157
  | ldxH (d a b : BitVec 5) (k : BitVec 2)  -- LDX_H, R157
  | ldxW (d a b : BitVec 5) (k : BitVec 2)  -- LDX_W, R157
  | ldxD (d a b : BitVec 5) (k : BitVec 2)  -- LDX_D, R157
  | ldxBu (d a b : BitVec 5) (k : BitVec 2)  -- LDX_BU, R157
  | ldxHu (d a b : BitVec 5) (k : BitVec 2)  -- LDX_HU, R157
  | ldxWu (d a b : BitVec 5) (k : BitVec 2)  -- LDX_WU, R157
  | ldxV (d a b : BitVec 5) (k : BitVec 2)  -- LDX_V, R157
  | stxB (d a b : BitVec 5) (k : BitVec 2)  -- STX_B, R157
  | stxH (d a b : BitVec 5) (k : BitVec 2)  -- STX_H, R157
  | stxW (d a b : BitVec 5) (k : BitVec 2)  -- STX_W, R157
  | stxD (d a b : BitVec 5) (k : BitVec 2)  -- STX_D, R157
  | stxV (d a b : BitVec 5) (k : BitVec 2)  -- STX_V, R157
  | atomwAdd (d a b : BitVec 5) (c : BitVec 3) (r : BitVec 2)  -- ATOMW_ADD, R159
  | atomwSwap (d a b : BitVec 5) (c : BitVec 3) (r : BitVec 2)  -- ATOMW_SWAP, R159
  | atomwCas (d a b : BitVec 5) (c : BitVec 3) (r : BitVec 2)  -- ATOMW_CAS, R159
  | atomwAnd (d a b : BitVec 5) (c : BitVec 3) (r : BitVec 2)  -- ATOMW_AND, R159
  | atomwOr (d a b : BitVec 5) (c : BitVec 3) (r : BitVec 2)  -- ATOMW_OR, R159
  | atomwXor (d a b : BitVec 5) (c : BitVec 3) (r : BitVec 2)  -- ATOMW_XOR, R159
  | atomwMin (d a b : BitVec 5) (c : BitVec 3) (r : BitVec 2)  -- ATOMW_MIN, R159
  | atomwMax (d a b : BitVec 5) (c : BitVec 3) (r : BitVec 2)  -- ATOMW_MAX, R159
  | atomwMinu (d a b : BitVec 5) (c : BitVec 3) (r : BitVec 2)  -- ATOMW_MINU, R159
  | atomwMaxu (d a b : BitVec 5) (c : BitVec 3) (r : BitVec 2)  -- ATOMW_MAXU, R159
  | atomdAdd (d a b : BitVec 5) (c : BitVec 3) (r : BitVec 2)  -- ATOMD_ADD, R159
  | atomdSwap (d a b : BitVec 5) (c : BitVec 3) (r : BitVec 2)  -- ATOMD_SWAP, R159
  | atomdCas (d a b : BitVec 5) (c : BitVec 3) (r : BitVec 2)  -- ATOMD_CAS, R159
  | atomdAnd (d a b : BitVec 5) (c : BitVec 3) (r : BitVec 2)  -- ATOMD_AND, R159
  | atomdOr (d a b : BitVec 5) (c : BitVec 3) (r : BitVec 2)  -- ATOMD_OR, R159
  | atomdXor (d a b : BitVec 5) (c : BitVec 3) (r : BitVec 2)  -- ATOMD_XOR, R159
  | atomdMin (d a b : BitVec 5) (c : BitVec 3) (r : BitVec 2)  -- ATOMD_MIN, R159
  | atomdMax (d a b : BitVec 5) (c : BitVec 3) (r : BitVec 2)  -- ATOMD_MAX, R159
  | atomdMinu (d a b : BitVec 5) (c : BitVec 3) (r : BitVec 2)  -- ATOMD_MINU, R159
  | atomdMaxu (d a b : BitVec 5) (c : BitVec 3) (r : BitVec 2)  -- ATOMD_MAXU, R159
  | qpush (a b : BitVec 5)  -- QPUSH, R166
  | qpop (d b : BitVec 5)  -- QPOP, R167
  | qcntHeld (d b : BitVec 5)  -- QCNT_HELD, R169
  | qcntFree (d b : BitVec 5)  -- QCNT_FREE, R169
  | sendH (a b : BitVec 5)  -- SEND_H, R172
  | sendP (d : BitVec 5)  -- SEND_P, R172
  | sendHe (a b : BitVec 5)  -- SEND_HE, R172
  | sendPe (d : BitVec 5)  -- SEND_PE, R172
  | recv (d a : BitVec 5) (s : BitVec 4)  -- RECV, R177
  | recvDl (d a b : BitVec 5) (s : BitVec 4)  -- RECV_DL, R177
  | bar (a : BitVec 5)  -- BAR, R179
  | xcopy (d : BitVec 5) (s : BitVec 4)  -- XCOPY, R241
  | xgather (d : BitVec 5) (s : BitVec 4)  -- XGATHER, R246
  | xscatter (d : BitVec 5) (s : BitVec 4)  -- XSCATTER, R246
  | xreduce (d : BitVec 5) (s : BitVec 4)  -- XREDUCE, R247
  | sbind (d : BitVec 5) (s : BitVec 4)  -- SBIND, R254
  | sunbind (d : BitVec 5)  -- SUNBIND, R256
  | tbinit (a : BitVec 5) (t : BitVec 4)  -- TBINIT, R253
  | tbwait (a : BitVec 5) (t : BitVec 4)  -- TBWAIT, R253
  | skdef (a : BitVec 5) (s : BitVec 4)  -- SKDEF, R303
  | skupd (a : BitVec 5) (s : BitVec 4)  -- SKUPD, R304
  | skupdv (a b : BitVec 5) (s : BitVec 4)  -- SKUPDV, R304
  | skqry (d a : BitVec 5) (s : BitVec 4)  -- SKQRY, R305
  | skadd (d : BitVec 5) (s : BitVec 4)  -- SKADD, R306
  | skscl (a b : BitVec 5)  -- SKSCL, R307
  | skclr (a : BitVec 5)  -- SKCLR, R307
  | skstat (d a : BitVec 5) (c : BitVec 1)  -- SKSTAT, R308
  | gdef (d a : BitVec 5) (s : BitVec 4)  -- GDEF, R375
  | gdel (a : BitVec 5)  -- GDEL, R376
  | apply (d a b : BitVec 5)  -- APPLY, R377
  | applyq (d a b : BitVec 5)  -- APPLYQ, R377
  | nwait (d a : BitVec 5)  -- NWAIT, R387
  | nabort (a : BitVec 5)  -- NABORT, R387
  | cyield (d a : BitVec 5)  -- CYIELD, R386
  | cresume (d a b : BitVec 5)  -- CRESUME, R386
  | csrr (d : BitVec 5) (n : BitVec 12)  -- CSRR, R272
  | csrw (d a : BitVec 5) (n : BitVec 12)  -- CSRW, R272
  | csrs (d a : BitVec 5) (n : BitVec 12)  -- CSRS, R272
  | csrc (d a : BitVec 5) (n : BitVec 12)  -- CSRC, R272
  | launch (b : BitVec 5)  -- LAUNCH, R319
  | launchq (d b : BitVec 5)  -- LAUNCHQ, R319
  | signal (a : BitVec 5)  -- SIGNAL, R320
  | nbcmd (d b : BitVec 5)  -- NBCMD, R336
  | nhsend (a b : BitVec 5)  -- NHSEND, R341
  | add (d a b : BitVec 5)  -- ADD, R82
  | sub (d a b : BitVec 5)  -- SUB, R82
  | and (d a b : BitVec 5)  -- AND, R82
  | or (d a b : BitVec 5)  -- OR, R82
  | xor (d a b : BitVec 5)  -- XOR, R82
  | andn (d a b : BitVec 5)  -- ANDN, R82
  | shl (d a b : BitVec 5)  -- SHL, R82
  | shr (d a b : BitVec 5)  -- SHR, R82
  | sar (d a b : BitVec 5)  -- SAR, R82
  | rol (d a b : BitVec 5)  -- ROL, R82
  | ror (d a b : BitVec 5)  -- ROR, R82
  | min (d a b : BitVec 5)  -- MIN, R82
  | max (d a b : BitVec 5)  -- MAX, R82
  | minu (d a b : BitVec 5)  -- MINU, R82
  | maxu (d a b : BitVec 5)  -- MAXU, R82
  | slt (d a b : BitVec 5)  -- SLT, R82
  | sltu (d a b : BitVec 5)  -- SLTU, R82
  | seq (d a b : BitVec 5)  -- SEQ, R82
  | sne (d a b : BitVec 5)  -- SNE, R82
  | cmovz (d a b : BitVec 5)  -- CMOVZ, R82
  | cmovnz (d a b : BitVec 5)  -- CMOVNZ, R82
  | addw (d a b : BitVec 5)  -- ADDW, R82
  | subw (d a b : BitVec 5)  -- SUBW, R82
  | shlw (d a b : BitVec 5)  -- SHLW, R82
  | shrw (d a b : BitVec 5)  -- SHRW, R82
  | sarw (d a b : BitVec 5)  -- SARW, R82
  | mul (d a b : BitVec 5)  -- MUL, R83
  | mulh (d a b : BitVec 5)  -- MULH, R83
  | mulhu (d a b : BitVec 5)  -- MULHU, R83
  | mulw (d a b : BitVec 5)  -- MULW, R83
  | div (d a b : BitVec 5)  -- DIV, R83
  | divu (d a b : BitVec 5)  -- DIVU, R83
  | rem (d a b : BitVec 5)  -- REM, R83
  | remu (d a b : BitVec 5)  -- REMU, R83
  | clz (d a : BitVec 5)  -- CLZ, R84
  | ctz (d a : BitVec 5)  -- CTZ, R84
  | popc (d a : BitVec 5)  -- POPC, R84
  | brev (d a : BitVec 5)  -- BREV, R84
  | bswap (d a : BitVec 5)  -- BSWAP, R84
  | exts (d a : BitVec 5) (n p : BitVec 6)  -- EXTS, R85
  | extz (d a : BitVec 5) (n p : BitVec 6)  -- EXTZ, R85
  | ins (d a : BitVec 5) (n p : BitVec 6)  -- INS, R85
  | addi (d a : BitVec 5) (i : BitVec 14)  -- ADDI, R86
  | andi (d a : BitVec 5) (i : BitVec 14)  -- ANDI, R86
  | ori (d a : BitVec 5) (i : BitVec 14)  -- ORI, R86
  | xori (d a : BitVec 5) (i : BitVec 14)  -- XORI, R86
  | slti (d a : BitVec 5) (i : BitVec 14)  -- SLTI, R86
  | sltiu (d a : BitVec 5) (i : BitVec 14)  -- SLTIU, R86
  | shli (d a : BitVec 5) (m : BitVec 6)  -- SHLI, R87
  | shri (d a : BitVec 5) (m : BitVec 6)  -- SHRI, R87
  | sari (d a : BitVec 5) (m : BitVec 6)  -- SARI, R87
  | rori (d a : BitVec 5) (m : BitVec 6)  -- RORI, R87
  | lui (d : BitVec 5) (i : BitVec 19)  -- LUI, R88
  | auipc (d : BitVec 5) (i : BitVec 19)  -- AUIPC, R88
  | fadd (d a b : BitVec 5) (p : BitVec 1) (r : BitVec 3)  -- FADD, R91
  | fsub (d a b : BitVec 5) (p : BitVec 1) (r : BitVec 3)  -- FSUB, R91
  | fmul (d a b : BitVec 5) (p : BitVec 1) (r : BitVec 3)  -- FMUL, R91
  | fdiv (d a b : BitVec 5) (p : BitVec 1) (r : BitVec 3)  -- FDIV, R91
  | fsqrt (d a : BitVec 5) (p : BitVec 1) (r : BitVec 3)  -- FSQRT, R91
  | fmin (d a b : BitVec 5) (p : BitVec 1)  -- FMIN, R91
  | fmax (d a b : BitVec 5) (p : BitVec 1)  -- FMAX, R91
  | feq (d a b : BitVec 5) (p : BitVec 1)  -- FEQ, R91
  | flt (d a b : BitVec 5) (p : BitVec 1)  -- FLT, R91
  | fle (d a b : BitVec 5) (p : BitVec 1)  -- FLE, R91
  | fclass (d a : BitVec 5) (p : BitVec 1)  -- FCLASS, R91
  | fsgnj (d a b : BitVec 5) (p : BitVec 1)  -- FSGNJ, R91
  | fsgnjn (d a b : BitVec 5) (p : BitVec 1)  -- FSGNJN, R91
  | fsgnjx (d a b : BitVec 5) (p : BitVec 1)  -- FSGNJX, R91
  | ffma (d a b : BitVec 5) (p : BitVec 1) (r : BitVec 3)  -- FFMA, R92
  | ffms (d a b : BitVec 5) (p : BitVec 1) (r : BitVec 3)  -- FFMS, R92
  | fcvt (d a : BitVec 5) (s t r : BitVec 3)  -- FCVT, R93
  | vadd (d a b : BitVec 4) (y : BitVec 3)  -- VADD, R212
  | vsub (d a b : BitVec 4) (y : BitVec 3)  -- VSUB, R212
  | vmul (d a b : BitVec 4) (y : BitVec 3)  -- VMUL, R212
  | vmax (d a b : BitVec 4) (y : BitVec 3)  -- VMAX, R212
  | vmin (d a b : BitVec 4) (y : BitVec 3)  -- VMIN, R212
  | vabs (d a : BitVec 4) (y : BitVec 3)  -- VABS, R212
  | vneg (d a : BitVec 4) (y : BitVec 3)  -- VNEG, R212
  | vmov (d a : BitVec 4) (y : BitVec 3)  -- VMOV, R212
  | vfma (d a b : BitVec 4) (y : BitVec 3)  -- VFMA, R212
  | vfms (d a b : BitVec 4) (y : BitVec 3)  -- VFMS, R212
  | vand (d a b : BitVec 4) (y : BitVec 3)  -- VAND, R213
  | vor (d a b : BitVec 4) (y : BitVec 3)  -- VOR, R213
  | vxor (d a b : BitVec 4) (y : BitVec 3)  -- VXOR, R213
  | vshl (d a b : BitVec 4) (y : BitVec 3)  -- VSHL, R213
  | vshr (d a b : BitVec 4) (y : BitVec 3)  -- VSHR, R213
  | vsar (d a b : BitVec 4) (y : BitVec 3)  -- VSAR, R213
  | vcmpEq (g : BitVec 5) (a b : BitVec 4) (y : BitVec 3)  -- VCMP_EQ, R214
  | vcmpLt (g : BitVec 5) (a b : BitVec 4) (y : BitVec 3)  -- VCMP_LT, R214
  | vcmpLe (g : BitVec 5) (a b : BitVec 4) (y : BitVec 3)  -- VCMP_LE, R214
  | vsel (d a b : BitVec 4) (y : BitVec 3) (m : BitVec 5)  -- VSEL, R215
  | vredSum (g : BitVec 5) (a : BitVec 4) (y : BitVec 3)  -- VRED_SUM, R216
  | vredMax (g : BitVec 5) (a : BitVec 4) (y : BitVec 3)  -- VRED_MAX, R216
  | vredMin (g : BitVec 5) (a : BitVec 4) (y : BitVec 3)  -- VRED_MIN, R216
  | vexp2 (d a : BitVec 4) (y : BitVec 3)  -- VEXP2, R218
  | vlog2 (d a : BitVec 4) (y : BitVec 3)  -- VLOG2, R218
  | vrcp (d a : BitVec 4) (y : BitVec 3)  -- VRCP, R218
  | vrsq (d a : BitVec 4) (y : BitVec 3)  -- VRSQ, R218
  | vcvt (d a : BitVec 4) (p : BitVec 1) (s t : BitVec 3) (e u q : BitVec 1)  -- VCVT, R219
  | vquantMx (d a b : BitVec 4) (y : BitVec 3) (s : BitVec 6) (q : BitVec 2)  -- VQUANT_MX, R220
  | vquantGq (d a b : BitVec 4) (y : BitVec 3) (s : BitVec 6) (q : BitVec 2)  -- VQUANT_GQ, R220
  | vperm (d a b : BitVec 4) (y : BitVec 3)  -- VPERM, R221
  | vbcast (d : BitVec 4) (y : BitVec 3) (s : BitVec 5)  -- VBCAST, R221
  | vins (d : BitVec 4) (n : BitVec 2) (y : BitVec 3) (m : BitVec 4) (s : BitVec 5)  -- VINS, R221
  | vext (g : BitVec 5) (a : BitVec 4) (y : BitVec 3) (n : BitVec 6)  -- VEXT, R221
  | vdot (g : BitVec 5) (a b : BitVec 4) (y : BitVec 3)  -- VDOT, R217
  | vscale (d a b : BitVec 4) (y : BitVec 3)  -- VSCALE, R212
  | reset  -- RESET, R12
  | firmwareImage  -- FIRMWARE_IMAGE, R364
  | spdmRequest  -- SPDM_REQUEST, R365
  | functionReady  -- FUNCTION_READY, R366
  | functionRetire  -- FUNCTION_RETIRE, R366
  | hostAccess  -- HOST_ACCESS, R356
  | ctlMakeThread  -- CTL_MAKE_THREAD, R33
  | ctlStart  -- CTL_START, R33
  | ctlStop  -- CTL_STOP, R34
  | ctlResume  -- CTL_RESUME, R33
  | ctlMakeData  -- CTL_MAKE_DATA, R33
  | ctlFieldWrite  -- CTL_FIELD_WRITE, R33
  | ctlRedirect  -- CTL_REDIRECT, R35
  | controlRequest  -- CONTROL_REQUEST, R48
  | outsideAccess  -- OUTSIDE_ACCESS, R46
  | rowOpen  -- ROW_OPEN, R41
  | openComplete  -- OPEN_COMPLETE, R41
  | closeWriteback  -- CLOSE_WRITEBACK, R41
  | turnEnd  -- TURN_END, R42
  | priorityRise  -- PRIORITY_RISE, R44
  | openlimClose  -- OPENLIM_CLOSE, R43
  | openlimWrite  -- OPENLIM_WRITE, R43
  | turnlenWrite  -- TURNLEN_WRITE, R44
  | hpoolWrite  -- HPOOL_WRITE, R104
  | chunkCommit  -- CHUNK_COMMIT, R130
  | commitGrant  -- COMMIT_GRANT, R131
  | outboundDrain  -- OUTBOUND_DRAIN, R134
  | loadPerform  -- LOAD_PERFORM, R135
  | vectorBind  -- VECTOR_BIND, R206
  | vectorLand  -- VECTOR_LAND, R208
  | packetEntry  -- PACKET_ENTRY, R174
  | packetTimeout  -- PACKET_TIMEOUT, R175
  | barrierWordWrite  -- BARRIER_WORD_WRITE, R178
  | deadlineWake  -- DEADLINE_WAKE, R39
  | stalemateInterval  -- STALEMATE_INTERVAL, R270
  | fqtailAdvance  -- FQTAIL_ADVANCE, R262
  | rowHold  -- ROW_HOLD, R267
  | eccScrub  -- ECC_SCRUB, R271
  | tlbWalk  -- TLB_WALK, R280
  | faultIn  -- FAULT_IN, R285
  | cowService  -- COW_SERVICE, R287
  | barReentry  -- BAR_REENTRY, R250
  | migrationStart  -- MIGRATION_START, R285
  | migrationLineCopy  -- MIGRATION_LINE_COPY, R285
  | linePull  -- LINE_PULL, R285
  | commandStart  -- COMMAND_START, R238
  | engineBeat  -- ENGINE_BEAT, R238
  | commandComplete  -- COMMAND_COMPLETE, R249
  | copy  -- COPY, R244
  | pageshare  -- PAGESHARE, R245
  | pagedrop  -- PAGEDROP, R245
  | pagemove  -- PAGEMOVE, R245
  | xreduceSum  -- XREDUCE_SUM, R247
  | xreduceMax  -- XREDUCE_MAX, R247
  | xreduceMin  -- XREDUCE_MIN, R247
  | sksum  -- SKSUM, R247
  | streamRefill  -- STREAM_REFILL, R255
  | mfmt  -- MFMT, R230
  | mzero  -- MZERO, R234
  | mma  -- MMA, R231
  | mmaKblock  -- MMA_KBLOCK, R232
  | mout  -- MOUT, R233
  | mbias  -- MBIAS, R234
  | msignal  -- MSIGNAL, R235
  | sketchCounterOp  -- SKETCH_COUNTER_OP, R312
  | skqryResult  -- SKQRY_RESULT, R305
  | launchInstall  -- LAUNCH_INSTALL, R319
  | signalDelivery  -- SIGNAL_DELIVERY, R316
  | nodeDispatch  -- NODE_DISPATCH, R321
  | teamPlacement  -- TEAM_PLACEMENT, R321
  | teamEnd  -- TEAM_END, R322
  | castling  -- CASTLING, R324
  | castleRestore  -- CASTLE_RESTORE, R324
  | strideChoice  -- STRIDE_CHOICE, R326
  | switchForced  -- SWITCH_FORCED, R328
  | switchExchange  -- SWITCH_EXCHANGE, R328
  | gangTick  -- GANG_TICK, R329
  | gangSpill  -- GANG_SPILL, R329
  | gangDieLoad  -- GANG_DIE_LOAD, R329
  | gangLate  -- GANG_LATE, R329
  | gangForcedStop  -- GANG_FORCED_STOP, R329
  | gangmaskWrite  -- GANGMASK_WRITE, R330
  | ticketsWrite  -- TICKETS_WRITE, R330
  | leafEnd  -- LEAF_END, R382
  | quadGated  -- QUAD_GATED, R347
  | quadWakeDone  -- QUAD_WAKE_DONE, R347
  | powerCompare  -- POWER_COMPARE, R363
  | pwrcapWrite  -- PWRCAP_WRITE, R363
  | elevatorRetire  -- ELEVATOR_RETIRE, R350
  | packetRetry  -- PACKET_RETRY, R350
  | wavelengthDrop  -- WAVELENGTH_DROP, R352
  | flitRetry  -- FLIT_RETRY, R354
  | routeWrite  -- ROUTE_WRITE, R357
  | hfrRecord  -- HFR_RECORD, R356
  | hfrrespServiced  -- HFRRESP_SERVICED, R356
  | hfrrespFailed  -- HFRRESP_FAILED, R356
  | octownReassign  -- OCTOWN_REASSIGN, R361
  | scrubDone  -- SCRUB_DONE, R361
  | tenminWrite  -- TENMIN_WRITE, R362
  | fnmodeWrite  -- FNMODE_WRITE, R366
  | tlbcmdPage  -- TLBCMD_PAGE, R289
  | tlbcmdTenant  -- TLBCMD_TENANT, R289
  | tlbcmdIpa  -- TLBCMD_IPA, R289
  | tlbcmdAll  -- TLBCMD_ALL, R289
  | tlbcmdDone  -- TLBCMD_DONE, R289
  | nbmac  -- NBMAC, R335
  | nbred  -- NBRED, R335
  | nbfill  -- NBFILL, R335
  | nbcopy  -- NBCOPY, R335
  | nhHandlerStart  -- NH_HANDLER_START, R342
  | registerWrite  -- REGISTER_WRITE, R273
  | undecodableWord  -- UNDECODABLE_WORD, R75
  | fetchFault  -- FETCH_FAULT, R51
  | fabricRequest  -- FABRIC_REQUEST, R353
  deriving DecidableEq, Repr

end Sys2Proof
end

