-- ==== Sys2Proof/Machine/State.lean ====
section
/-! DEFINITION. Everything the manual gives the machine as plain data, and the state after reset. INVENTORY.md lists each field with
the rule that names it. Where a table lists nothing for an index, the index holds the default of its record, which is its reset
value. -/

namespace Sys2Proof.Machine

/-- The bytes of memory that differ from 0, by address: interleaved HBM, row stores, remote-form and host addresses, and the
private rows of the base-die cores (entries 1, 10, 15). -/
abbrev Mem := List Host.Cell

/-- Row states (02_rows.md R29). -/
inductive RowState where
  | null | dormant | ready | opened | blocked | sleeping | faulted | exited | held
  deriving DecidableEq, Repr, Inhabited

/-- A control entry (R28, R30). `wake` holds `LTAG` in bits 3 to 0 while `state` is NULL. -/
structure Ctl where
  state : RowState := .null
  wait : BitVec 4 := 0
  pri : BitVec 2 := 0
  h : Bool := false
  p : Bool := false
  team : BitVec 12 := 0
  wake : BitVec 36 := 0
  pc : BitVec 57 := 0
  deriving DecidableEq, Repr, Inhabited

/-- Trap, abort and fault causes (15_traps.md R258). -/
inductive Cause where
  | illegal | entry | align | access | range | promise | stalemate | uncorr | brk | queue | helper | layout | owner
  | skmismatch | nest | packet | page | perm | cow | stage2 | nbreject
  deriving DecidableEq, Repr, Inhabited

/-- One store of a chunk buffer (07_memory_model.md R128). `strong` marks an `STMC` whose entry is not forwardable (R136). -/
structure BufStore where
  pa : Nat
  bytes : List Byte
  strong : Bool
  home : Bool
  deriving DecidableEq, Repr, Inhabited

/-- A change that a chunk makes only when it commits (R79, R103, R105, R106, R174, R184, R377). -/
inductive AtCommit where
  | hstart (row : Nat) (pc : W) (arg : W)
  | join (rows : List Nat)
  | setpri (pri : BitVec 2)
  | release
  | nest (slot : Nat)
  | mbx (tag : Nat)
  | unbind (reg : Nat)
  deriving DecidableEq, Repr, Inhabited

/-- An open network packet (09_memory_sync.md R172): its send buffer, and the bundles issued since its header (R175). -/
structure OpenPacket where
  buf : Nat
  bundles : Nat
  deriving DecidableEq, Repr, Inhabited

/-- A load that is not yet performed (R135), or an atomic whose value has not returned (R137). `reg` is its destination code, `win`
the place of its value in the distance window, `seg` its segment. `own` holds the bytes its own chunk supplied. An entry with `vec` is a result of a
queued vector operation: later reads of it wait for its landing (12_vector_matrix.md R209), and its value stands in the row already. An entry with
`promise` is the read of a destination header that gives the promise of a sum of sketches its beats (13_engines.md R242): whether the command is
`SKADD`, its tag, and its promised cycle without them. -/
structure PLoad where
  id : Nat
  pa : Nat
  size : Nat
  sext : Bool
  reg : Option Nat
  win : Option Nat
  seg : Option Nat
  own : List (Nat × Byte)
  acq : Bool
  atomic : Bool
  vec : Bool := false
  promise : Option (Bool × Nat × Nat) := none
  deriving DecidableEq, Repr, Inhabited

/-- What a release asks for (R141, R143): the loads of the thread with a lower order performed, and, at a scope wider than `THREAD`, its
stores visible. -/
structure Release where
  before : Nat
  stores : Bool
  deriving DecidableEq, Repr, Inhabited

/-- A chunk (R123, R126 to R131). `steps` counts issue steps and `bundles` bundles; `row`, `pc`, `loads`,
`p`, `pkt`, `flits`, `turn` and `mid` are the checkpoint a replay returns to, and `pops` the stream elements to deliver again. -/
structure Chunk where
  live : Bool := false
  bundles : Nat := 0
  steps : Nat := 0
  limit : Nat := 256
  start : Nat := 0
  rsig : BitVec 1024 := 0
  wsig : BitVec 1024 := 0
  stores : List BufStore := []
  deferred : List AtCommit := []
  ended : Bool := false
  release : Option Release := none
  loads : List PLoad := []
  row : Mem := []
  pc : BitVec 57 := 0
  p : Bool := false
  pkt : Option OpenPacket := none
  flits : Nat := 0
  turn : Nat := 0
  mid : Bool := false
  pops : List (Nat × W) := []
  deriving DecidableEq, Repr, Inhabited

/-- What stops a row (15_traps.md R267): a pre-emption, a castling, a tenant switch, a gang switch, or the nest abort, scrub and
quad gating that close it. -/
inductive StopWhy where
  | preempt | castle | switch | gang | abort | scrub | gating
  deriving DecidableEq, Repr, Inhabited

/-- An outside access that waits for a row's boundary (02_rows.md R46, R48). -/
inductive Deferred where
  | store (pa : Nat) (bytes : List Byte)
  | control (rid word : Nat) (value : W)
  deriving DecidableEq, Repr, Inhabited

/-- What a handler row serves (R261; 26_combinators.md R388): the faulted row, and the nest record and composite of a nest
handler. -/
structure Serves where
  faulted : Nat
  nest : Option (Nat × Nat) := none
  deriving DecidableEq, Repr, Inhabited

/-- What the device holds for a thread beside its row and control entry. `waitArg` is the operand its wait is judged by: the filter of
`RECV`, the target of `TBWAIT`, the tag of `SLEEPUNTIL`, the handle of `NWAIT`, and 1 for an issue that waits for a mailbox slot.
`lockClaim` counts the range-lock entries an issue waits for (R146), and `claim` names the place that is kept for a woken row (R164;
Sync.lean), 0 for none. `mid` says that the row stands between the words of a SERIAL bundle, `closeAs` is the state to which it closes once its chunk has committed, and `movedAt` is the cycle of the last
transition that the device made of its control entry (02_rows.md R38). `riseAt` is when its effective priority last rose, `packetAt` when a packet last entered its receive queue, and `trapAt` when the row last closed by a trap. -/
structure Thr where
  chunk : Chunk := {}
  loads : List PLoad := []
  fence : Option Release := none
  packet : Option OpenPacket := none
  turn : Nat := 0
  mid : Bool := false
  closeAs : Option RowState := none
  movedAt : Option Nat := none
  readyAt : Nat := 0
  effPri : Nat := 0
  first : Bool := false
  saved : RowState := .null
  heldBy : Option StopWhy := none
  stop : Option StopWhy := none
  deferred : List Deferred := []
  mqprom : W := 0xFF00000000000000
  blockedAt : Nat := 0
  blockedCycle : Nat := 0
  waitArg : Nat := 0
  lockClaim : Nat := 0
  claim : Nat := 0
  serves : Option Serves := none
  fetchTrap : Bool := false
  bundleAt : Option (Nat × Bool) := none
  undispatched : Bool := false
  riseAt : Nat := 0
  packetAt : Nat := 0
  eccSeen : Bool := false
  eccHalf : Bool := false
  trapG3 : W := 0
  trapCause : Option Cause := none
  trapAt : Nat := 0
  nest : Option (Nat × Nat) := none
  deriving DecidableEq, Repr, Inhabited

/-- An entry of a queue, reserved or not for a row (09_memory_sync.md R168). -/
structure QItem where
  value : W
  resv : Option Nat
  deriving DecidableEq, Repr, Inhabited

/-- A core queue, link or farm queue: its entries, the rows free slots are reserved for, and lent slots (26_combinators.md R385). -/
structure Queue where
  items : List QItem := []
  slots : List Nat := []
  lent : Nat := 0
  deriving DecidableEq, Repr, Inhabited

/-- A packet in a receive queue (R174, R177). -/
structure Packet where
  row : Nat
  remote : Bool
  pkg : Nat
  core : Nat
  srow : Nat
  hdr : BitVec 32
  flits : List (BitVec 512)
  deriving DecidableEq, Repr, Inhabited

/-- A send buffer of a message hub (R172). -/
structure SendBuf where
  rid : Nat
  dest : W
  hdr : BitVec 32
  flits : List (BitVec 512) := []
  released : Bool := false
  order : Nat := 0
  via : Option Nat := none
  deriving DecidableEq, Repr, Inhabited

/-- A reserved mailbox slot (R183): its owner, and its message with its order of completion. A posted operation frees its slot
without a message (18_sketches.md R301). `kept` marks a freed slot kept for the waiting row that owns it (R164); a slot whose row
became NULL has no owner (R184), but `away` names the row of a castled team, by graph node, team index and row, that finds it again when it is
restored (20_scheduling.md R324; entry 11). -/
structure MSlot where
  owner : Option Nat
  away : Option (Nat × Nat × Nat) := none
  msg : Option W := none
  order : Nat := 0
  kept : Bool := false
  deriving DecidableEq, Repr, Inhabited

/-- A helper-table entry of a pool row (04_scalar.md R104): parent row and slot. -/
structure Helper where
  parent : Nat
  slot : Nat
  deriving DecidableEq, Repr, Inhabited

/-- A matrix command in its queue (12_vector_matrix.md R223 to R226), with the position of a running one. `checked` says that
its rows have been checked since it last began or re-entered (R228). -/
structure MCmd where
  id : Nat
  block : BitVec 512
  rid : Nat
  tag : Option Nat := none
  started : Bool := false
  checked : Bool := false
  pos : Nat := 0
  deriving DecidableEq, Repr, Inhabited

/-- The matrix context (R230). -/
structure MCtx where
  afmt : Nat := 3
  bfmt : Nat := 3
  asm : Nat := 0
  bsm : Nat := 0
  sat : Bool := false
  ats : BitVec 32 := 0
  bts : BitVec 32 := 0
  deriving DecidableEq, Repr, Inhabited

/-- Elements of one bound stream read ahead of `NEXT` (13_engines.md R255), the address at which service failed, or of an uncorrectable
word, and the address of the element that failed so. -/
structure Stage where
  rid : Nat
  reg : Nat
  vals : List W := []
  bar : Bool := false
  failed : Option Nat := none
  failedAt : Nat := 0
  uncorr : Bool := false
  lock : Nat := 0
  deriving DecidableEq, Repr, Inhabited

/-- A query buffer (18_sketches.md R305): the header read at issue, its virtual and its physical address, the indices, the signed counters read so
far, the flags yet to be ORed into `SATF`, and the results. -/
structure QBuf where
  rid : Nat
  hva : Nat := 0
  hpa : Nat
  header : BitVec 512
  idx : BitVec 512
  order : Nat
  abandoned : Bool := false
  bar : Bool := false
  ests : List Int := []
  owes : Nat := 0
  result : Option (BitVec 512 × W) := none
  failed : Option Nat := none
  uncorr : Bool := false
  deriving DecidableEq, Repr, Inhabited

/-- A queued vector operation (12_vector_matrix.md R205 to R208): its row, what it reads and writes, its latencies, and the cycles at
which it was issued and bound. Its result stands in the row from its issue on (R209; entry 8). -/
structure VOp where
  id : Nat
  rid : Nat
  writes : List Nat
  reads : List Nat
  landing : Nat
  occupancy : Nat
  issued : Nat
  bound : Option Nat := none
  deriving DecidableEq, Repr, Inhabited

/-- The phase of a row port (02_rows.md R41). -/
inductive PortPhase where
  | opening | running | writeback
  deriving DecidableEq, Repr, Inhabited

/-- A row port in use: the row it holds, its phase, and the cycle until which it is busy. -/
structure Port where
  row : Nat
  phase : PortPhase
  busy : Nat
  deriving DecidableEq, Repr, Inhabited

/-- One combined translation of a TLB (16_translation.md R280): tenant, page base and size, physical base, flags, the IPA page
and size of its stage-2 leaf, size 0 where there is no stage 2, and the size of the stage-1 page that it translates a part of. -/
structure TlbEntry where
  tag : Nat
  va : Nat
  size : Nat
  pa : Nat
  tt : Nat
  r : Bool
  w : Bool
  x : Bool
  pin : Bool
  cow : Bool
  mig : Bool
  ccap : Bool
  leaf : Nat
  ipa : Nat
  isize : Nat
  itag : Bool := false
  span : Nat := size
  deriving DecidableEq, Repr, Inhabited

/-- The core state that a tenant switch moves (20_scheduling.md R327). -/
structure CState where
  openlim : BitVec 5 := 16
  turnlen : BitVec 16 := 256
  vshare : BitVec 8 := 1
  hpoolCount : BitVec 6 := 63
  hpoolBase : BitVec 11 := 1984
  queues : Tab Queue := []
  rxq : List Packet := []
  mbox : Tab MSlot := []
  tbs : Tab (BitVec 16) := []
  helpers : Tab Helper := []
  mq : List MCmd := []
  mctx : MCtx := {}
  mqCause : BitVec 8 := 0
  mqBar : Bool := false
  mqDone : BitVec 16 := 0
  deriving DecidableEq, Repr, Inhabited

/-- A core (01_machine.md R9). `wiped` is the order number of the latest change of its owner: completions and arrivals of commands issued before are
discarded (24_tenancy_boot.md R361). `tbNow` holds the arrivals at its transfer barriers in the current cycle, each with that cycle (13_engines.md
R253). -/
structure Core where
  cs : CState := {}
  loaded : Nat := 0
  images : Tab CState := []
  rxdrop : BitVec 32 := 0
  perm : BitVec 64 := 0
  ports : Tab (Option Port) := []
  lastPort : Nat := 15
  lastIssue : Option Nat := none
  tbNow : List (Nat × Nat) := []
  streams : List Stage := []
  qbufs : List QBuf := []
  vq : List VOp := []
  vpass : Nat := 0
  itlb : List TlbEntry := []
  dtlb : List TlbEntry := []
  wiped : Nat := 0
  spilled : Bool := false
  spillAt : Option Nat := none
  deriving DecidableEq, Repr, Inhabited

/-- Power states of a quad (23_stack_fabric.md R347). -/
inductive Power where
  | running | gating | gated | waking
  deriving DecidableEq, Repr, Inhabited

/-- A quad. -/
structure Quad where
  power : Power := .running
  wakeAt : Nat := 0
  gateNext : Bool := false
  groups : List Nat := [0, 0, 0, 0]
  shed : Bool := false
  idleSince : Nat := 0
  deriving DecidableEq, Repr, Inhabited

/-- The opcode of an engine command (13_engines.md R240; 18_sketches.md R306). -/
inductive EngOp where
  | xcopy | xgather | xscatter | xreduce | skadd
  deriving DecidableEq, Repr, Inhabited

/-- An engine command (R238 to R251): its issuer, tag, specification, position, and counts so far. `pos` is the next beat of a
`COPY` or of a sum of sketches, the next index position, element or page; `beats` counts the beats not yet moved; `hs`, `hd` and `buf` are the
headers and source counters that a sum of sketches has read, `owesS` and `owesD` the flags that it has yet to OR into their `SATF`; `done` says that its
last beat has moved. -/
structure ECmd where
  id : Nat
  op : EngOp
  rid : Nat
  tenant : Nat
  tag : Nat
  spec : BitVec 512
  pos : Nat := 0
  skip : Nat := 0
  oor : Nat := 0
  tagged : List Nat := []
  beats : Nat := 1
  started : Bool := false
  hs : BitVec 512 := 0
  hd : BitVec 512 := 0
  buf : List Byte := []
  owesS : Nat := 0
  owesD : Nat := 0
  done : Bool := false
  status : BitVec 8 := 0
  info : BitVec 48 := 0
  deriving DecidableEq, Repr, Inhabited

/-- An outbound queue entry (07_memory_model.md R123, R134 to R137). An atomic carries operation, width, operand and expected value,
and the pending load that receives the old value. `via` is the elevator that an entry which leaves its stack was sent toward (R349, R350). -/
structure OutEntry where
  pa : Nat
  bytes : List Byte
  rid : Nat
  order : Nat
  forward : Bool
  via : Option Nat := none
  atomic : Option (Nat × Nat × Nat) := none
  ret : Option Nat := none
  deriving DecidableEq, Repr, Inhabited

/-- An operation on one word of a sketch that is one atomic step at the word's home (18_sketches.md R296, R306, R307; 19_sketch_at_work.md R314): an
addition to a counter or its rescaling, with the counter's bits, or an OR into `SATF`. -/
inductive CtrOp where
  | add (width : Nat) (x : Int)
  | scale (width : Nat) (k : Int)
  | flags (x : Nat)
  deriving DecidableEq, Repr, Inhabited

/-- What a held write is part of (25_platform_cases.md R368): a store of a row, a command of a unit with the layout tag that it gives a NULL row, an
operation on a word of a sketch with the sketch row of its counter, an atomic of a row, a host write, or a store, an atomic or a counter addition of
another package. -/
inductive HeldFor where
  | row (rid : Nat)
  | unit (id : Nat) (ltag : Option Nat)
  | count (id : Nat) (ltag : Option Nat) (op : CtrOp) (row : Nat)
  | atomic (e : OutEntry)
  | host
  | fabric (source : Nat) (atomic : Option (Nat × Nat × Nat))
  | fabAdd (source : Nat) (op : CtrOp)
  deriving DecidableEq, Repr, Inhabited

/-- A write held while an octet is BUSY (R368). -/
structure HeldWrite where
  pa : Nat
  bytes : List Byte
  tenant : Nat
  what : HeldFor
  deriving DecidableEq, Repr, Inhabited

/-- An octet. `route` is none while `ROUTE` holds its reset value, elevators 4s and 4s + 1 of its stack s. -/
structure Octet where
  tag : BitVec 6 := 0
  busy : Bool := false
  route : Option (BitVec 6 × BitVec 6) := none
  queue : List ECmd := []
  active : List ECmd := []
  rr : Nat := 0
  hub : Tab (Option SendBuf) := []
  heldWrites : List HeldWrite := []
  scrubAt : Option Nat := none
  deriving DecidableEq, Repr, Inhabited

/-- A range of a command: first byte, length, write or read. -/
structure VRange where
  va : Nat
  len : Nat
  write : Bool
  deriving DecidableEq, Repr, Inhabited

/-- A range-lock entry (R146): first and last byte, write or read, the command that holds it, and whether a matrix command does. `moved` names the
pages of it that have migrated since, by the bases of their old and their present frames: they are one location (16_translation.md R285). -/
structure Lock where
  lo : Nat
  hi : Nat
  write : Bool
  id : Nat
  matrix : Bool := false
  moved : List (Nat × Nat) := []
  deriving DecidableEq, Repr, Inhabited

/-- A team barrier word (09_memory_sync.md R178), and whether its phase holds an arrival by `SSYNC` (R181). -/
structure BarWord where
  arm : Bool := false
  expect : BitVec 19 := 0
  count : BitVec 19 := 0
  phase : BitVec 5 := 0
  ss : Bool := false
  deriving DecidableEq, Repr, Inhabited

/-- Coroutine states (26_combinators.md R386). -/
inductive CoState where
  | fresh | run | yield | res | done
  deriving DecidableEq, Repr, Inhabited

/-- A fault that a nest handler serves or will serve (R388): the row, its instance number, the cause, the g3 value, the address of the
trapping word, and the cycle of the trap, which tells it from a later fault of the row. -/
structure NestFault where
  row : Nat
  inst : Nat
  cause : Nat
  g3 : W
  pc : W
  trapAt : Nat := 0
  deriving DecidableEq, Repr, Inhabited

/-- A node of a nest's tree (R371, R381, R382): leaves carry their row, instance number and coroutine record, composites their
children, the child now running, the fault that their handler serves and those that wait for it. -/
structure GNode where
  kind : Nat
  entry : Nat
  parent : Option Nat
  children : List Nat := []
  lane : Nat := 0
  cur : Nat := 0
  live : Bool := false
  ended : Bool := false
  exit : W := 0
  inst : Nat := 0
  rid : Nat := 0
  inq : Option Nat := none
  outq : Option Nat := none
  hnd : Option Nat := none
  hrow : Nat := 0
  hbusy : Option NestFault := none
  faults : List NestFault := []
  co : CoState := .fresh
  pending : Option Nat := none
  yval : W := 0
  rval : W := 0
  spareRows : List Nat := []
  sparePool : List Nat := []
  helpRows : List Nat := []
  spareLq : List Nat := []
  deriving DecidableEq, Repr, Inhabited

/-- A live nest (R377 to R383). -/
structure Nest where
  seq : BitVec 23
  tenant : Nat
  core : Nat
  tag : Option Nat
  node : Option Nat
  root : Nat
  arg : W
  pri : BitVec 2
  team : BitVec 12
  gnodes : List GNode
  rows : List Nat
  pool : List Nat
  mxu : List Nat
  links : List Nat
  outer : Option (Nat × Nat) := none
  lender : Option (Nat × Nat) := none
  took : List Nat := []
  tookLq : List Nat := []
  aborting : Option (BitVec 8 × BitVec 48) := none
  deriving DecidableEq, Repr, Inhabited

/-- A switch of a cluster between tenants (20_scheduling.md R328, R329). -/
structure Switch where
  old : Nat
  new : Nat
  since : Nat
  gang : Bool
  stopped : Bool
  doneCores : List Nat := []
  late : Bool := false
  deriving DecidableEq, Repr, Inhabited

/-- A cluster. `commits` counts the commits of the cycle `commitAt` (R132). `next` is a choice of the stride scheduler, with its cycle, that waits
until the switch under way is over (20_scheduling.md R326). `late` holds the range-lock entries that commands wait for since the service of a page, with the
order of that service (17_fault_replay.md R290). -/
structure Cluster where
  nextSlot : Nat := 0
  commitAt : Nat := 0
  commits : Nat := 0
  sigs : List (Nat × BitVec 1024) := []
  grant : Option Nat := none
  grantq : List Nat := []
  outq : List OutEntry := []
  locks : List Lock := []
  late : List (Nat × List Lock) := []
  tlb : List TlbEntry := []
  bars : Tab BarWord := []
  teamhdl : Tab W := []
  ecclog : W := 0
  staleAt : Option Nat := none
  holder : Nat := 0
  passes : Tab Nat := []
  lastV : Nat := 0
  eligible : List Nat := []
  choseAt : Option Nat := none
  strideSide : Nat := 0
  inGang : Bool := false
  switch : Option Switch := none
  next : Option (Nat × Nat) := none
  nests : Tab (Option Nest) := []
  nestSeq : BitVec 23 := 0
  links : Tab Queue := []
  lent : Nat := 0
  deriving DecidableEq, Repr, Inhabited

/-- What waits at a bar (13_engines.md R250). `gone` is an item that is no more, whose service the host was asked for. -/
inductive BarWhat where
  | engine (octet : Nat) (cmd : ECmd)
  | matrix (core : Nat)
  | stream (core rid reg : Nat)
  | query (core order : Nat)
  | posted (id : Nat)
  | nearbank (bank id : Nat)
  | fabric (source : Nat)
  | gone
  deriving DecidableEq, Repr, Inhabited

/-- A bar entry: the item, its cause, the faulting address, the stage-2 report, whether the host or another package serves it, the host record that asks for
service, whether it has been served or its service has failed, the order in which it was served, the cluster whose range-lock table it uses, and
the entries that it waits for there (R146, R241). -/
structure BarEntry where
  what : BarWhat
  cause : Cause
  va : Nat
  during : Bool := false
  ipa : Nat := 0
  write : Bool := false
  host : Bool := false
  far : Bool := false
  record : Option Nat := none
  served : Bool := false
  refused : Bool := false
  order : Nat := 0
  cluster : Nat := 0
  need : Nat := 0
  deriving DecidableEq, Repr, Inhabited

/-- A fault-queue entry on its way to HBM (15_traps.md R262): its four dwords. -/
structure FqEntry where
  dwords : List W
  deriving DecidableEq, Repr, Inhabited

/-- A launch record in a launch queue (20_scheduling.md R319): the record, the core and slot of its notice, its issuer's tenant. -/
structure LaunchEntry where
  record : BitVec 512
  core : Nat
  tag : Option Nat
  deriving DecidableEq, Repr, Inhabited

/-- A castled team's record (R324; entry 11). Its blocks, their control entries and the barrier words are bytes of the castle area; here stands what
no byte of the machine shows: the thread records of its rows, the barriers whose phases hold an `SSYNC` arrival, its bound streams, the rows
that wait in `APPLY` and have seen no nest of the cluster end, its entries of the helper tables (thread row, pool row, slot), and the helper and handler
rows that are held with it (entry 107). -/
structure CastleRec where
  thrs : List (Nat × Thr)
  ss : List Bool
  streams : List Stage
  applies : List Nat
  helpers : List (Nat × Nat × Nat) := []
  held : List Nat := []
  deriving DecidableEq, Repr, Inhabited

/-- A tenant's registers and queues. `root1` and `root2` are the roots that walks use: the values of `S1ROOT` and `S2ROOT` at the last
`TLBCMD` that made them take effect (16_translation.md R289). `cxlFrames` is the free-frame stack of its CXL pool (R285; entry 124). -/
structure Tenant where
  s1root : W := 0
  s2root : W := 0
  root1 : W := 0
  root2 : W := 0
  ftbase : W := 0
  ftlen : W := 0
  ffsbase : W := 0
  ffstop : W := 0
  fqbase : W := 0
  fqtail : BitVec 32 := 0
  fqhead : BitVec 32 := 0
  fqlost : BitVec 32 := 0
  fqWay : List FqEntry := []
  noderange : W := 0
  tickets : W := 0
  lncherr : W := 0
  gangmask : W := 0
  gangNow : W := 0
  savebase : W := 0
  castlebase : W := 0
  castlelen : W := 0
  gambase : W := 0
  tenmin : W := 0
  deg : Bool := false
  admission : BitVec 16 := 0
  launchq : List LaunchEntry := []
  ready : Tab (List Nat) := []
  grids : List Nat := []
  bar : List BarEntry := []
  cxlFrames : List Nat := []
  deriving DecidableEq, Repr, Inhabited

/-- Graph node states (R316). -/
inductive NodeState where
  | free | pending | ready | running
  deriving DecidableEq, Repr, Inhabited

/-- A graph node: state, predecessor count, record, notice, and how far its grid has come: the teams that ended, the template as read, the
slots placed so far, and for the teams that have never run (R323) the first team index bound, the slots they are bound round-robin to, and
how many of each slot's have been placed. -/
structure GraphNode where
  state : NodeState := .free
  count : Int := 0
  record : BitVec 512 := 0
  tenant : Nat := 0
  core : Nat := 0
  tag : Option Nat := none
  ended : Nat := 0
  tmpl : List Byte := []
  slots : Nat := 0
  bound : Nat := 0
  slots0 : Nat := 0
  taken : Tab Nat := []
  deriving DecidableEq, Repr, Inhabited

/-- A team that is resident, or castled with its image (R321 to R324): `order` is the order of its placement, or of its binding while it is
castled. A castled team that power shedding took (24_tenancy_boot.md R363) has `shed`. `place` is the address of its record in the castle area,
from the start of its castling. -/
structure Team where
  node : Nat
  index : Nat
  slot : Nat
  order : Nat
  cluster : Nat
  number : Nat
  blocks : List Nat
  dlog : Nat
  since : Nat
  qpri : Nat
  tenant : Nat
  castling : Bool := false
  shed : Bool := false
  place : Nat := 0
  image : Option CastleRec := none
  deriving DecidableEq, Repr, Inhabited

/-- A page migration (16_translation.md R285): the page, its leaf's address, physical bases of the old and new frame, the old frame as the leaf
named it, and the valid bits. -/
structure Migration where
  tenant : Nat
  va : Nat
  leaf : Nat
  old : Nat
  new : Nat
  oldFrame : Nat
  valid : BitVec 256 := 0
  deriving DecidableEq, Repr, Inhabited

/-- A host fault ring record (23_stack_fabric.md R356). -/
structure HfrRecord where
  ty : Nat
  ten : Nat
  rid : Nat
  payload : List W
  deriving DecidableEq, Repr, Inhabited

/-- What an open host record is about: an item at a tenant's bar (type 2) or an octet's scrub (type 8). -/
inductive HfrAbout where
  | bar (tenant : Nat)
  | scrub (octet : Nat)
  deriving DecidableEq, Repr, Inhabited

/-- An answer to an access from outside: the data, that a write has applied, an unsupported request, a completer abort (R21, R271), a bank
of another owner (R358), or a fault of its translation (18_sketches.md R313). -/
inductive Reply where
  | data (v : Nat)
  | done
  | unsupported
  | abort
  | denied
  | fault (c : Cause)
  deriving DecidableEq, Repr, Inhabited

/-- A measurement report (24_tenancy_boot.md R365): the hash of the accepted image, `FWSVN`, the fuse state and the two signatures. -/
structure SpdmReport where
  firmware : Option (BitVec 384)
  svn : BitVec 16
  fuses : W
  signatures : Nat × Nat
  deriving DecidableEq, Repr, Inhabited

/-- The service die and the base layer. -/
structure Package where
  pkgid : BitVec 9 := 0
  fnmode : BitVec 8 := 8
  ready0 : BitVec 64 := 0
  ready1 : BitVec 64 := 0
  tslice : BitVec 32 := 1200000
  gridslice : BitVec 32 := 2400000
  gtick : BitVec 32 := 1200000
  ganglate : W := 0
  gangAt : Option Nat := none
  dieLoads : Tab Nat := []
  tlbcmd : W := 0
  tlbWait : List (Nat × Nat) := []
  hfrbase : W := 0
  hfrtail : BitVec 32 := 0
  hfrhead : BitVec 32 := 0
  hfrHeld : List HfrRecord := []
  hfrOpen : List (Nat × HfrAbout) := []
  hfrNextId : Nat := 0
  pwrcap : BitVec 16 := 5500
  pwrWatts : BitVec 16 := 0
  pwrStep : Nat := 0
  pwrBelow : Nat := 0
  compares : Nat := 0
  comparedAt : Option Nat := none
  fwsvn : BitVec 16 := 0
  firmware : Option (BitVec 384) := none
  lmsUsed : Nat := 0
  spdmLog : List (Option SpdmReport) := []
  fabrt : Tab (BitVec 16) := []
  lambdas : Tab (BitVec 24) := []
  flitRetries : Tab Nat := []
  migs : List Migration := []
  signals : List Nat := []
  admitNext : BitVec 16 := 1
  hostReplies : List Reply := []
  fabReplies : List (Nat × Reply) := []
  farLines : List Nat := []
  deriving DecidableEq, Repr, Inhabited

/-- A base-die core (22_near_memory.md R340 to R343): handler table, inbound queue (payload, sender, entry, slot, tenant), the handler
it runs (sender, entry, slot, tenant), the bundles that it has issued, and the cycle until which its last step takes. -/
structure BaseCore where
  nhtab : Tab (W × W) := []
  inq : List (BitVec 512 × W × Nat × Nat × Nat) := []
  run : Option (W × Nat × Nat × Nat) := none
  bundles : Nat := 0
  busy : Nat := 0
  tenant : Nat := 0
  deriving DecidableEq, Repr, Inhabited

/-- A near-bank command (R334 to R337): once it has started, the physical addresses of `DST`, `SRCA` and `SRCB`, its next element, and the sum of
an `NBRED`. -/
structure NbCmd where
  id : Nat
  rid : Nat
  tenant : Nat
  tag : Nat
  spec : BitVec 512
  bar : Bool := false
  started : Bool := false
  dst : Nat := 0
  srcA : Nat := 0
  srcB : Nat := 0
  pos : Nat := 0
  acc : Nat := 0
  deriving DecidableEq, Repr, Inhabited

/-- What a posted sketch operation does (18_sketches.md R301, R304, R307). -/
inductive PipKind where
  | update (pairs : List (W × BitVec 32))
  | scale (k : Int)
  | clear
  deriving DecidableEq, Repr, Inhabited

/-- A posted sketch operation: issuer, slot, the header's virtual and physical address and its copy, and what is left to do. `pos` is the next
counter of a rescale or clear; `flagged` says that the flags of the element at `pos` are set, `owes` holds the flags yet to be ORed into `SATF`. -/
structure PipOp where
  id : Nat
  rid : Nat
  tenant : Nat
  tag : Nat
  opcode : Nat
  hva : Nat := 0
  hpa : Nat
  header : BitVec 512
  kind : PipKind
  pos : Nat := 0
  row : Nat := 0
  flagged : Bool := false
  owes : Nat := 0
  bar : Bool := false
  deriving DecidableEq, Repr, Inhabited

/-- Which word of a bundle is issued (03_encoding.md R53, R54). -/
inductive Slot where
  | serial0 | serial1 | pair0 | pair1
  deriving DecidableEq, Repr, Inhabited

/-- How a word of an issue step ended: it runs, it completed, or it stopped. The stop of word 1 of a PAIR is kept here for the whole
PAIR (R53): a trap with its g3, a wait with `WAIT` and `WAKE`, no issue in this cycle, a wait for a boundary, with whether the word stands in an ending
bundle, or the chunk must end first. So is a `SLEEPUNTIL` of word 0 that must sleep, with its tag and deadline: it takes effect after word 1. -/
inductive Ended where
  | running | completed | stopped | trapped (c : Cause) (g3 : W) | blocked (wait wake : Nat) | stalled | holds (pa : Nat) (ending : Bool) | ends
  | sleeps (arg deadline : Nat)
  deriving DecidableEq, Repr, Inhabited

/-- What a PAIR reads (R53: both words read before either writes): the row's bytes before it, its pending loads, and its streams with how many
elements its chunk had popped. -/
structure View where
  cells : Mem
  loads : List PLoad := []
  streams : List Stage := []
  pops : Nat := 0
  deriving DecidableEq, Repr, Inhabited

/-- The issue step being made (entry 3): the row, the address of the word, its place in the bundle, and in a PAIR what it reads. `jump` is the target of a transfer, `close` the close that a
completed word makes, `cost` its issue cycles (R81), and `ending` says that it stands in an ending bundle (R127). -/
structure Cur where
  rid : Nat := 0
  pc : BitVec 57 := 0
  slot : Slot := .serial0
  view : Option View := none
  jump : Option (BitVec 57) := none
  ended : Ended := .running
  ending : Bool := false
  cost : Nat := 1
  close : Option RowState := none
  deriving DecidableEq, Repr, Inhabited

/-- What another package asks for over the fabric (R353): a load, a store or an atomic of a tenant, with its operation as R73 numbers it; a
read or a write, by virtual address, of the counter array of a sketch header (18_sketches.md R313); an addition to one counter of it, with its bits
(19_sketch_at_work.md R314); or a packet between rows. -/
inductive FabReq where
  | load (ten pa size : Nat)
  | store (ten pa size data : Nat)
  | atomic (ten aop pa size operand expected : Nat)
  | array (ten va size : Nat) (data : Option Nat)
  | add (ten va width : Nat) (addend : Int)
  | packet (core row dest : Nat) (hdr : BitVec 32) (flits : List (BitVec 512))
  deriving DecidableEq, Repr, Inhabited

/-- Which core, row, octet, cluster, tenant or index a device step is about, and the data it brings. -/
structure Sel where
  unit : Nat := 0
  sub : Nat := 0
  idx : Nat := 0
  data : W := 0
  flag : Bool := false
  flag2 : Bool := false
  req : FabReq := .load 0 0 8
  deriving DecidableEq, Repr, Inhabited

/-- One action of the schedule (entry 3): an issue step of a row, a device step, cycles that pass, bytes of host memory or of another
package that change from outside, an uncorrectable error that arises in an 8-byte word (15_traps.md R271), or a frame that system software gives to
the CXL pool of a tenant (entry 124). -/
inductive Action where
  | issue (core row : Nat)
  | event (i : Instr) (sel : Sel)
  | pass (cycles : Nat)
  | outside (pa : Nat) (bytes : List Byte)
  | upset (pa : Nat)
  | cxlFrame (tenant frame : Nat)
  deriving DecidableEq, Repr

/-- The whole machine. -/
structure State where
  cycle : Nat := 0
  mem : Mem := []
  ctl : Tab Ctl := []
  thr : Tab Thr := []
  core : Tab Core := []
  quad : Tab Quad := []
  oct : Tab Octet := []
  clu : Tab Cluster := []
  ten : Tab Tenant := []
  pkg : Package := {}
  nodes : Tab GraphNode := []
  teams : List Team := []
  bdc : Tab BaseCore := []
  banks : Tab (List NbCmd) := []
  pip : List PipOp := []
  uncorr : List Nat := []
  cur : Cur := {}
  sel : Sel := {}
  schedule : List Action := []
  seq : Nat := 0
  deriving DecidableEq, Repr

/-- Why the machine stops with a fault. No defined state of the machine raises one: what the manual calls a fault or trap is a next
state. -/
inductive Fault where
  /-- Raised by nothing; it stands here so that the type has a name to report. Safe. -/
  | none
  deriving DecidableEq, Repr

/-- Why the machine gives no meaning. -/
inductive Refusal where
  /-- Raised by an arm of `exec` whose instruction has no meaning yet. Safe: no claim about a run passes through it. -/
  | notModelled (mnemonic : String)
  deriving DecidableEq, Repr

/-- Three outcomes of a step of this machine. -/
abbrev Out := Host.Outcome State Fault Refusal

/-- The machine as the service die releases reset (01_machine.md R12, 02_rows.md R28, the reset columns of R273, R289, R330, R357,
R367): every table lists nothing, so every index holds its reset value. -/
def State.reset : State := {}

end Sys2Proof.Machine
end

