-- ==== Sys2Proof/WellFormed.lean ====
section
/-! DEFINITION. Which instructions are legal apart from the state (03_encoding.md R60 to R64, R73, R75): a decoded word that
breaks a limit is undecodable and executes as ILLEGAL. The file also says which destinations an encoding names (R53, R71, R72). -/

namespace Sys2Proof

/-- Why a word or bundle is not an instruction (R74, R75). -/
inductive Reject where
  /-- A reserved major opcode. -/
  | reserved (op : Nat)
  /-- An unassigned sub-operation, or a nonzero field that the form leaves unused. -/
  | unassigned (op : Nat)
  /-- A destination code of 28 to 31 (R61). -/
  | destination
  /-- A segment code above 10 (R62), or one outside the instruction's own limit. -/
  | segment
  /-- A queue number above 10 (R63). -/
  | queue
  /-- A scope code of 6 or 7 (R64). -/
  | scope
  /-- A lane type the instruction does not take (R73). -/
  | laneType
  /-- A rounding code of 5 to 7 (R73). -/
  | rounding
  /-- A system register number that R273 does not list. -/
  | register
  /-- Another limit of R73 or of the instruction's description. -/
  | limit
  /-- Not eight bytes. -/
  | shortBundle
  deriving DecidableEq, Repr

/-- The lanes of a vector type (12_vector_matrix.md R204). -/
def lanesOf (y : BitVec 3) : Nat :=
  if y.toNat = 0 ∨ y.toNat = 3 then 16 else if y.toNat = 1 ∨ y.toNat = 2 ∨ y.toNat = 4 then 32 else 64

/-- A destination code a word may name (R61). -/
def dstOk (d : BitVec 5) : Option Reject := if d.toNat ≤ 27 then none else some .destination
/-- A segment code (R62). -/
def segOk (n : Nat) : Option Reject := if n ≤ 10 then none else some .segment
/-- A queue number (R63). -/
def queueOk (b : BitVec 5) : Option Reject := if b.toNat ≤ 10 then none else some .queue
/-- A scope code (R64). -/
def scopeOk (c : BitVec 3) : Option Reject := if c.toNat ≤ 5 then none else some .scope
/-- A rounding code (R73). -/
def rndOk (r : BitVec 3) : Option Reject := if r.toNat ≤ 4 then none else some .rounding
/-- A lane type within the instruction's range. -/
def tyOk (b : Bool) : Option Reject := if b then none else some .laneType
/-- Any other limit. -/
def limit (b : Bool) : Option Reject := if b then none else some .limit
/-- The register numbers of 15_traps.md R273. -/
def csrNumbers : List Nat :=
  [0x000, 0x010, 0x011, 0x012, 0x020, 0x021, 0x022, 0x023, 0x024, 0x030, 0x038, 0x040, 0x041, 0x042, 0x043, 0x044,
   0x050, 0x051, 0x052, 0x053]
/-- A listed register number (R272). -/
def csrOk (n : BitVec 12) : Option Reject := if csrNumbers.contains n.toNat then none else some .register
/-- `VCVT`: types differ, and the part lies below the ratio of the lane counts (12_vector_matrix.md R219). -/
def cvtOk (s t : BitVec 3) (p q : BitVec 1) : Bool :=
  s ≠ t && decide (p.toNat * 2 + q.toNat < max (lanesOf s) (lanesOf t) / min (lanesOf s) (lanesOf t))
/-- The first failing check of a list. -/
def firstOf : List (Option Reject) → Option Reject
  | [] => none
  | some r :: _ => some r
  | none :: l => firstOf l
/-- The segments from `n` to w10 (R53: what a `RECV` counts as writing). -/
def segsFrom (n : Nat) : List Nat := (List.range 11).filter (n ≤ ·)

/-- The first limit that `i` breaks (R75), or none. A device step has no encoding and breaks none. -/
def illFormed : Instr → Option Reject
  | .cycle d => dstOk d
  | .mbxpop d => dstOk d
  | .jal d _ => dstOk d
  | .jalr d _ _ => dstOk d
  | .hstart d _ _ => dstOk d
  | .ldb d _ _ => dstOk d
  | .ldh d _ _ => dstOk d
  | .ldw d _ _ => dstOk d
  | .ldd d _ _ => dstOk d
  | .ldbu d _ _ => dstOk d
  | .ldhu d _ _ => dstOk d
  | .ldwu d _ _ => dstOk d
  | .ldxB d _ _ _ => dstOk d
  | .ldxH d _ _ _ => dstOk d
  | .ldxW d _ _ _ => dstOk d
  | .ldxD d _ _ _ => dstOk d
  | .ldxBu d _ _ _ => dstOk d
  | .ldxHu d _ _ _ => dstOk d
  | .ldxWu d _ _ _ => dstOk d
  | .skstat d _ _ => dstOk d
  | .apply d _ _ => dstOk d
  | .applyq d _ _ => dstOk d
  | .nwait d _ => dstOk d
  | .cyield d _ => dstOk d
  | .cresume d _ _ => dstOk d
  | .add d _ _ => dstOk d
  | .sub d _ _ => dstOk d
  | .and d _ _ => dstOk d
  | .or d _ _ => dstOk d
  | .xor d _ _ => dstOk d
  | .andn d _ _ => dstOk d
  | .shl d _ _ => dstOk d
  | .shr d _ _ => dstOk d
  | .sar d _ _ => dstOk d
  | .rol d _ _ => dstOk d
  | .ror d _ _ => dstOk d
  | .min d _ _ => dstOk d
  | .max d _ _ => dstOk d
  | .minu d _ _ => dstOk d
  | .maxu d _ _ => dstOk d
  | .slt d _ _ => dstOk d
  | .sltu d _ _ => dstOk d
  | .seq d _ _ => dstOk d
  | .sne d _ _ => dstOk d
  | .cmovz d _ _ => dstOk d
  | .cmovnz d _ _ => dstOk d
  | .addw d _ _ => dstOk d
  | .subw d _ _ => dstOk d
  | .shlw d _ _ => dstOk d
  | .shrw d _ _ => dstOk d
  | .sarw d _ _ => dstOk d
  | .mul d _ _ => dstOk d
  | .mulh d _ _ => dstOk d
  | .mulhu d _ _ => dstOk d
  | .mulw d _ _ => dstOk d
  | .div d _ _ => dstOk d
  | .divu d _ _ => dstOk d
  | .rem d _ _ => dstOk d
  | .remu d _ _ => dstOk d
  | .clz d _ => dstOk d
  | .ctz d _ => dstOk d
  | .popc d _ => dstOk d
  | .brev d _ => dstOk d
  | .bswap d _ => dstOk d
  | .addi d _ _ => dstOk d
  | .andi d _ _ => dstOk d
  | .ori d _ _ => dstOk d
  | .xori d _ _ => dstOk d
  | .slti d _ _ => dstOk d
  | .sltiu d _ _ => dstOk d
  | .shli d _ _ => dstOk d
  | .shri d _ _ => dstOk d
  | .sari d _ _ => dstOk d
  | .rori d _ _ => dstOk d
  | .lui d _ => dstOk d
  | .auipc d _ => dstOk d
  | .fmin d _ _ _ => dstOk d
  | .fmax d _ _ _ => dstOk d
  | .feq d _ _ _ => dstOk d
  | .flt d _ _ _ => dstOk d
  | .fle d _ _ _ => dstOk d
  | .fclass d _ _ => dstOk d
  | .fsgnj d _ _ _ => dstOk d
  | .fsgnjn d _ _ _ => dstOk d
  | .fsgnjx d _ _ _ => dstOk d
  | .ldrB d i => firstOf [dstOk d, limit (decide (320 ≤ i.toNat ∧ i.toNat ≤ 1023))]
  | .ldrH d i => firstOf [dstOk d, limit (decide (320 ≤ i.toNat ∧ i.toNat ≤ 1023))]
  | .ldrW d i => firstOf [dstOk d, limit (decide (320 ≤ i.toNat ∧ i.toNat ≤ 1023))]
  | .ldrD d i => firstOf [dstOk d, limit (decide (320 ≤ i.toNat ∧ i.toNat ≤ 1023))]
  | .ldrBu d i => firstOf [dstOk d, limit (decide (320 ≤ i.toNat ∧ i.toNat ≤ 1023))]
  | .ldrHu d i => firstOf [dstOk d, limit (decide (320 ≤ i.toNat ∧ i.toNat ≤ 1023))]
  | .ldrWu d i => firstOf [dstOk d, limit (decide (320 ≤ i.toNat ∧ i.toNat ≤ 1023))]
  | .strB _ i => limit (decide (320 ≤ i.toNat ∧ i.toNat ≤ 1023))
  | .strH _ i => limit (decide (320 ≤ i.toNat ∧ i.toNat ≤ 1023))
  | .strW _ i => limit (decide (320 ≤ i.toNat ∧ i.toNat ≤ 1023))
  | .strD _ i => limit (decide (320 ≤ i.toNat ∧ i.toNat ≤ 1023))
  | .ldaW d _ c => firstOf [dstOk d, scopeOk c]
  | .ldaD d _ c => firstOf [dstOk d, scopeOk c]
  | .atomwAdd d _ _ c _ => firstOf [dstOk d, scopeOk c]
  | .atomwSwap d _ _ c _ => firstOf [dstOk d, scopeOk c]
  | .atomwCas d _ _ c _ => firstOf [dstOk d, scopeOk c]
  | .atomwAnd d _ _ c _ => firstOf [dstOk d, scopeOk c]
  | .atomwOr d _ _ c _ => firstOf [dstOk d, scopeOk c]
  | .atomwXor d _ _ c _ => firstOf [dstOk d, scopeOk c]
  | .atomwMin d _ _ c _ => firstOf [dstOk d, scopeOk c]
  | .atomwMax d _ _ c _ => firstOf [dstOk d, scopeOk c]
  | .atomwMinu d _ _ c _ => firstOf [dstOk d, scopeOk c]
  | .atomwMaxu d _ _ c _ => firstOf [dstOk d, scopeOk c]
  | .atomdAdd d _ _ c _ => firstOf [dstOk d, scopeOk c]
  | .atomdSwap d _ _ c _ => firstOf [dstOk d, scopeOk c]
  | .atomdCas d _ _ c _ => firstOf [dstOk d, scopeOk c]
  | .atomdAnd d _ _ c _ => firstOf [dstOk d, scopeOk c]
  | .atomdOr d _ _ c _ => firstOf [dstOk d, scopeOk c]
  | .atomdXor d _ _ c _ => firstOf [dstOk d, scopeOk c]
  | .atomdMin d _ _ c _ => firstOf [dstOk d, scopeOk c]
  | .atomdMax d _ _ c _ => firstOf [dstOk d, scopeOk c]
  | .atomdMinu d _ _ c _ => firstOf [dstOk d, scopeOk c]
  | .atomdMaxu d _ _ c _ => firstOf [dstOk d, scopeOk c]
  | .stlW _ _ c => scopeOk c
  | .stlD _ _ c => scopeOk c
  | .stmcW _ _ c => scopeOk c
  | .stmcD _ _ c => scopeOk c
  | .fence c r => firstOf [scopeOk c, limit (decide (1 ≤ r.toNat))]
  | .vld d _ _ => segOk d.toNat
  | .ldxV d _ _ _ => segOk d.toNat
  | .stxV d _ _ _ => segOk d.toNat
  | .sendP d => segOk d.toNat
  | .sendPe d => segOk d.toNat
  | .vst s _ _ => segOk s.toNat
  | .skdef _ s => segOk s.toNat
  | .skupd _ s => segOk s.toNat
  | .skupdv _ _ s => segOk s.toNat
  | .qpush _ b => queueOk b
  | .qpop d b => firstOf [dstOk d, queueOk b]
  | .qcntHeld d b => firstOf [dstOk d, queueOk b]
  | .qcntFree d b => firstOf [dstOk d, queueOk b]
  | .recv d _ s => firstOf [dstOk d, segOk s.toNat]
  | .recvDl d _ _ s => firstOf [dstOk d, segOk s.toNat]
  | .xcopy d s => firstOf [dstOk d, segOk s.toNat]
  | .xgather d s => firstOf [dstOk d, segOk s.toNat]
  | .xscatter d s => firstOf [dstOk d, segOk s.toNat]
  | .xreduce d s => firstOf [dstOk d, segOk s.toNat]
  | .skadd d s => firstOf [dstOk d, segOk s.toNat]
  | .gdef d _ s => firstOf [dstOk d, segOk s.toNat]
  | .sbind d s => firstOf [limit (decide (24 ≤ d.toNat ∧ d.toNat ≤ 27)), segOk s.toNat]
  | .sunbind d => limit (decide (24 ≤ d.toNat ∧ d.toNat ≤ 27))
  | .skqry d _ s => firstOf [limit (decide (d.toNat ≤ 9)), segOk s.toNat]
  | .csrr d n => firstOf [dstOk d, csrOk n]
  | .csrw d _ n => firstOf [dstOk d, csrOk n]
  | .csrs d _ n => firstOf [dstOk d, csrOk n]
  | .csrc d _ n => firstOf [dstOk d, csrOk n]
  | .launch b => segOk b.toNat
  | .nhsend _ b => segOk b.toNat
  | .launchq d b => firstOf [dstOk d, segOk b.toNat]
  | .nbcmd d b => firstOf [dstOk d, segOk b.toNat]
  | .exts d _ n p => firstOf [dstOk d, limit (decide (p.toNat + n.toNat + 1 ≤ 64))]
  | .extz d _ n p => firstOf [dstOk d, limit (decide (p.toNat + n.toNat + 1 ≤ 64))]
  | .ins d _ n p => firstOf [dstOk d, limit (decide (p.toNat + n.toNat + 1 ≤ 64))]
  | .fadd d _ _ _ r => firstOf [dstOk d, rndOk r]
  | .fsub d _ _ _ r => firstOf [dstOk d, rndOk r]
  | .fmul d _ _ _ r => firstOf [dstOk d, rndOk r]
  | .fdiv d _ _ _ r => firstOf [dstOk d, rndOk r]
  | .fsqrt d _ _ r => firstOf [dstOk d, rndOk r]
  | .ffma d _ _ _ r => firstOf [dstOk d, rndOk r]
  | .ffms d _ _ _ r => firstOf [dstOk d, rndOk r]
  | .fcvt d _ s t r => firstOf [dstOk d, rndOk r, limit (decide (s ≠ t))]
  | .vadd d a b y => firstOf [segOk d.toNat, segOk a.toNat, segOk b.toNat, tyOk (decide (y.toNat ≤ 5))]
  | .vsub d a b y => firstOf [segOk d.toNat, segOk a.toNat, segOk b.toNat, tyOk (decide (y.toNat ≤ 5))]
  | .vmul d a b y => firstOf [segOk d.toNat, segOk a.toNat, segOk b.toNat, tyOk (decide (y.toNat ≤ 5))]
  | .vmax d a b y => firstOf [segOk d.toNat, segOk a.toNat, segOk b.toNat, tyOk (decide (y.toNat ≤ 5))]
  | .vmin d a b y => firstOf [segOk d.toNat, segOk a.toNat, segOk b.toNat, tyOk (decide (y.toNat ≤ 5))]
  | .vfma d a b y => firstOf [segOk d.toNat, segOk a.toNat, segOk b.toNat, tyOk (decide (y.toNat ≤ 5))]
  | .vfms d a b y => firstOf [segOk d.toNat, segOk a.toNat, segOk b.toNat, tyOk (decide (y.toNat ≤ 5))]
  | .vand d a b y => firstOf [segOk d.toNat, segOk a.toNat, segOk b.toNat, tyOk (decide (y.toNat ≤ 5))]
  | .vor d a b y => firstOf [segOk d.toNat, segOk a.toNat, segOk b.toNat, tyOk (decide (y.toNat ≤ 5))]
  | .vxor d a b y => firstOf [segOk d.toNat, segOk a.toNat, segOk b.toNat, tyOk (decide (y.toNat ≤ 5))]
  | .vsel d a b y _ => firstOf [segOk d.toNat, segOk a.toNat, segOk b.toNat, tyOk (decide (y.toNat ≤ 5))]
  | .vperm d a b y => firstOf [segOk d.toNat, segOk a.toNat, segOk b.toNat, tyOk (decide (y.toNat ≤ 5))]
  | .vabs d a y => firstOf [segOk d.toNat, segOk a.toNat, tyOk (decide (y.toNat ≤ 5))]
  | .vneg d a y => firstOf [segOk d.toNat, segOk a.toNat, tyOk (decide (y.toNat ≤ 5))]
  | .vmov d a _ => firstOf [segOk d.toNat, segOk a.toNat]
  | .vshl d a b y => firstOf [segOk d.toNat, segOk a.toNat, segOk b.toNat, tyOk (decide (3 ≤ y.toNat ∧ y.toNat ≤ 5))]
  | .vshr d a b y => firstOf [segOk d.toNat, segOk a.toNat, segOk b.toNat, tyOk (decide (3 ≤ y.toNat ∧ y.toNat ≤ 5))]
  | .vsar d a b y => firstOf [segOk d.toNat, segOk a.toNat, segOk b.toNat, tyOk (decide (3 ≤ y.toNat ∧ y.toNat ≤ 5))]
  | .vcmpEq g a b y => firstOf [dstOk g, segOk a.toNat, segOk b.toNat, tyOk (decide (y.toNat ≤ 5))]
  | .vcmpLt g a b y => firstOf [dstOk g, segOk a.toNat, segOk b.toNat, tyOk (decide (y.toNat ≤ 5))]
  | .vcmpLe g a b y => firstOf [dstOk g, segOk a.toNat, segOk b.toNat, tyOk (decide (y.toNat ≤ 5))]
  | .vdot g a b y => firstOf [dstOk g, segOk a.toNat, segOk b.toNat, tyOk (decide (y.toNat ≤ 5))]
  | .vredSum g a y => firstOf [dstOk g, segOk a.toNat, tyOk (decide (y.toNat ≤ 5))]
  | .vredMax g a y => firstOf [dstOk g, segOk a.toNat, tyOk (decide (y.toNat ≤ 5))]
  | .vredMin g a y => firstOf [dstOk g, segOk a.toNat, tyOk (decide (y.toNat ≤ 5))]
  | .vexp2 d a y => firstOf [segOk d.toNat, segOk a.toNat, tyOk (decide (y.toNat ≤ 2))]
  | .vlog2 d a y => firstOf [segOk d.toNat, segOk a.toNat, tyOk (decide (y.toNat ≤ 2))]
  | .vrcp d a y => firstOf [segOk d.toNat, segOk a.toNat, tyOk (decide (y.toNat ≤ 2))]
  | .vrsq d a y => firstOf [segOk d.toNat, segOk a.toNat, tyOk (decide (y.toNat ≤ 2))]
  | .vcvt d a p s t _ _ q => firstOf [segOk d.toNat, segOk a.toNat, limit (cvtOk s t p q)]
  | .vquantMx d a b y _ _ => firstOf [segOk d.toNat, segOk a.toNat, segOk b.toNat, tyOk (decide (y.toNat ≤ 2 ∨ 6 ≤ y.toNat)), limit (decide (d ≠ b ∧ (y = 0 → a ≠ 10)))]
  | .vquantGq d a b y s _ => firstOf [segOk d.toNat, segOk a.toNat, segOk b.toNat, tyOk (decide (y.toNat ≤ 2 ∨ 6 ≤ y.toNat)), limit (decide (d ≠ b ∧ (y = 0 → a ≠ 10))), limit (decide (s.toNat < 32))]
  | .vbcast d y _ => firstOf [segOk d.toNat, tyOk (decide (y.toNat ≤ 5))]
  | .vins d n y m _ => firstOf [segOk d.toNat, tyOk (decide (y.toNat ≤ 5)), limit (decide (n.toNat * 16 + m.toNat < lanesOf y))]
  | .vext g a y n => firstOf [dstOk g, segOk a.toNat, tyOk (decide (y.toNat ≤ 5)), limit (decide (n.toNat < lanesOf y))]
  | .vscale d a b y => firstOf [segOk d.toNat, segOk a.toNat, segOk b.toNat, tyOk (decide (y.toNat ≤ 2))]
  | .nop
  | .texit
  | .yield
  | .trap _
  | .tret _
  | .fenceI
  | .waitmsg
  | .ssync _
  | .setpri _
  | .sleepuntil _
  | .hjoin _
  | .chunk
  | .tlbinv _ _
  | .pgate _
  | .beq _ _ _
  | .bne _ _ _
  | .blt _ _ _
  | .bge _ _ _
  | .bltu _ _ _
  | .bgeu _ _ _
  | .stb _ _ _
  | .sth _ _ _
  | .stw _ _ _
  | .std _ _ _
  | .stxB _ _ _ _
  | .stxH _ _ _ _
  | .stxW _ _ _ _
  | .stxD _ _ _ _
  | .sendH _ _
  | .sendHe _ _
  | .bar _
  | .tbinit _ _
  | .tbwait _ _
  | .skscl _ _
  | .skclr _
  | .gdel _
  | .nabort _
  | .signal _
  | .reset
  | .firmwareImage
  | .spdmRequest
  | .functionReady
  | .functionRetire
  | .hostAccess
  | .ctlMakeThread
  | .ctlStart
  | .ctlStop
  | .ctlResume
  | .ctlMakeData
  | .ctlFieldWrite
  | .ctlRedirect
  | .controlRequest
  | .outsideAccess
  | .rowOpen
  | .openComplete
  | .closeWriteback
  | .turnEnd
  | .priorityRise
  | .openlimClose
  | .openlimWrite
  | .turnlenWrite
  | .hpoolWrite
  | .chunkCommit
  | .commitGrant
  | .outboundDrain
  | .loadPerform
  | .vectorBind
  | .vectorLand
  | .packetEntry
  | .packetTimeout
  | .barrierWordWrite
  | .deadlineWake
  | .stalemateInterval
  | .fqtailAdvance
  | .rowHold
  | .eccScrub
  | .tlbWalk
  | .faultIn
  | .cowService
  | .barReentry
  | .migrationStart
  | .migrationLineCopy
  | .linePull
  | .commandStart
  | .engineBeat
  | .commandComplete
  | .copy
  | .pageshare
  | .pagedrop
  | .pagemove
  | .xreduceSum
  | .xreduceMax
  | .xreduceMin
  | .sksum
  | .streamRefill
  | .mfmt
  | .mzero
  | .mma
  | .mmaKblock
  | .mout
  | .mbias
  | .msignal
  | .sketchCounterOp
  | .skqryResult
  | .launchInstall
  | .signalDelivery
  | .nodeDispatch
  | .teamPlacement
  | .teamEnd
  | .castling
  | .castleRestore
  | .strideChoice
  | .switchForced
  | .switchExchange
  | .gangTick
  | .gangSpill
  | .gangDieLoad
  | .gangLate
  | .gangForcedStop
  | .gangmaskWrite
  | .ticketsWrite
  | .leafEnd
  | .quadGated
  | .quadWakeDone
  | .powerCompare
  | .pwrcapWrite
  | .elevatorRetire
  | .packetRetry
  | .wavelengthDrop
  | .flitRetry
  | .routeWrite
  | .hfrRecord
  | .hfrrespServiced
  | .hfrrespFailed
  | .octownReassign
  | .scrubDone
  | .tenminWrite
  | .fnmodeWrite
  | .tlbcmdPage
  | .tlbcmdTenant
  | .tlbcmdIpa
  | .tlbcmdAll
  | .tlbcmdDone
  | .nbmac
  | .nbred
  | .nbfill
  | .nbcopy
  | .nhHandlerStart
  | .registerWrite
  | .undecodableWord
  | .fetchFault
  | .fabricRequest => none

/-- No limit is broken. -/
def WellFormed (i : Instr) : Bool := (illFormed i).isNone

/-- Whether `i` is an instruction word, not a device step. -/
def isWord : Instr → Bool
  | .reset
  | .firmwareImage
  | .spdmRequest
  | .functionReady
  | .functionRetire
  | .hostAccess
  | .ctlMakeThread
  | .ctlStart
  | .ctlStop
  | .ctlResume
  | .ctlMakeData
  | .ctlFieldWrite
  | .ctlRedirect
  | .controlRequest
  | .outsideAccess
  | .rowOpen
  | .openComplete
  | .closeWriteback
  | .turnEnd
  | .priorityRise
  | .openlimClose
  | .openlimWrite
  | .turnlenWrite
  | .hpoolWrite
  | .chunkCommit
  | .commitGrant
  | .outboundDrain
  | .loadPerform
  | .vectorBind
  | .vectorLand
  | .packetEntry
  | .packetTimeout
  | .barrierWordWrite
  | .deadlineWake
  | .stalemateInterval
  | .fqtailAdvance
  | .rowHold
  | .eccScrub
  | .tlbWalk
  | .faultIn
  | .cowService
  | .barReentry
  | .migrationStart
  | .migrationLineCopy
  | .linePull
  | .commandStart
  | .engineBeat
  | .commandComplete
  | .copy
  | .pageshare
  | .pagedrop
  | .pagemove
  | .xreduceSum
  | .xreduceMax
  | .xreduceMin
  | .sksum
  | .streamRefill
  | .mfmt
  | .mzero
  | .mma
  | .mmaKblock
  | .mout
  | .mbias
  | .msignal
  | .sketchCounterOp
  | .skqryResult
  | .launchInstall
  | .signalDelivery
  | .nodeDispatch
  | .teamPlacement
  | .teamEnd
  | .castling
  | .castleRestore
  | .strideChoice
  | .switchForced
  | .switchExchange
  | .gangTick
  | .gangSpill
  | .gangDieLoad
  | .gangLate
  | .gangForcedStop
  | .gangmaskWrite
  | .ticketsWrite
  | .leafEnd
  | .quadGated
  | .quadWakeDone
  | .powerCompare
  | .pwrcapWrite
  | .elevatorRetire
  | .packetRetry
  | .wavelengthDrop
  | .flitRetry
  | .routeWrite
  | .hfrRecord
  | .hfrrespServiced
  | .hfrrespFailed
  | .octownReassign
  | .scrubDone
  | .tenminWrite
  | .fnmodeWrite
  | .tlbcmdPage
  | .tlbcmdTenant
  | .tlbcmdIpa
  | .tlbcmdAll
  | .tlbcmdDone
  | .nbmac
  | .nbred
  | .nbfill
  | .nbcopy
  | .nhHandlerStart
  | .registerWrite
  | .undecodableWord
  | .fetchFault
  | .fabricRequest => false
  | _ => true

/-- Whether a word is A-class (R58, R70). -/
def isA : Instr → Bool
  | .add _ _ _
  | .sub _ _ _
  | .and _ _ _
  | .or _ _ _
  | .xor _ _ _
  | .andn _ _ _
  | .shl _ _ _
  | .shr _ _ _
  | .sar _ _ _
  | .rol _ _ _
  | .ror _ _ _
  | .min _ _ _
  | .max _ _ _
  | .minu _ _ _
  | .maxu _ _ _
  | .slt _ _ _
  | .sltu _ _ _
  | .seq _ _ _
  | .sne _ _ _
  | .cmovz _ _ _
  | .cmovnz _ _ _
  | .addw _ _ _
  | .subw _ _ _
  | .shlw _ _ _
  | .shrw _ _ _
  | .sarw _ _ _
  | .mul _ _ _
  | .mulh _ _ _
  | .mulhu _ _ _
  | .mulw _ _ _
  | .div _ _ _
  | .divu _ _ _
  | .rem _ _ _
  | .remu _ _ _
  | .clz _ _
  | .ctz _ _
  | .popc _ _
  | .brev _ _
  | .bswap _ _
  | .exts _ _ _ _
  | .extz _ _ _ _
  | .ins _ _ _ _
  | .addi _ _ _
  | .andi _ _ _
  | .ori _ _ _
  | .xori _ _ _
  | .slti _ _ _
  | .sltiu _ _ _
  | .shli _ _ _
  | .shri _ _ _
  | .sari _ _ _
  | .rori _ _ _
  | .lui _ _
  | .auipc _ _
  | .fadd _ _ _ _ _
  | .fsub _ _ _ _ _
  | .fmul _ _ _ _ _
  | .fdiv _ _ _ _ _
  | .fsqrt _ _ _ _
  | .fmin _ _ _ _
  | .fmax _ _ _ _
  | .feq _ _ _ _
  | .flt _ _ _ _
  | .fle _ _ _ _
  | .fclass _ _ _
  | .fsgnj _ _ _ _
  | .fsgnjn _ _ _ _
  | .fsgnjx _ _ _ _
  | .ffma _ _ _ _ _
  | .ffms _ _ _ _ _
  | .fcvt _ _ _ _ _
  | .vadd _ _ _ _
  | .vsub _ _ _ _
  | .vmul _ _ _ _
  | .vmax _ _ _ _
  | .vmin _ _ _ _
  | .vabs _ _ _
  | .vneg _ _ _
  | .vmov _ _ _
  | .vfma _ _ _ _
  | .vfms _ _ _ _
  | .vand _ _ _ _
  | .vor _ _ _ _
  | .vxor _ _ _ _
  | .vshl _ _ _ _
  | .vshr _ _ _ _
  | .vsar _ _ _ _
  | .vcmpEq _ _ _ _
  | .vcmpLt _ _ _ _
  | .vcmpLe _ _ _ _
  | .vsel _ _ _ _ _
  | .vredSum _ _ _
  | .vredMax _ _ _
  | .vredMin _ _ _
  | .vexp2 _ _ _
  | .vlog2 _ _ _
  | .vrcp _ _ _
  | .vrsq _ _ _
  | .vcvt _ _ _ _ _ _ _ _
  | .vquantMx _ _ _ _ _ _
  | .vquantGq _ _ _ _ _ _
  | .vperm _ _ _ _
  | .vbcast _ _ _
  | .vins _ _ _ _ _
  | .vext _ _ _ _
  | .vdot _ _ _ _
  | .vscale _ _ _ _ => true
  | _ => false

/-- The scalar destination code an encoding names (R71, R72); code 0 is echo-only and is one too. -/
def scalarDest : Instr → Option (BitVec 5)
  | .cycle d
  | .mbxpop d
  | .jal d _
  | .jalr d _ _
  | .ldrB d _
  | .ldrH d _
  | .ldrW d _
  | .ldrD d _
  | .ldrBu d _
  | .ldrHu d _
  | .ldrWu d _
  | .hstart d _ _
  | .ldaW d _ _
  | .ldaD d _ _
  | .ldb d _ _
  | .ldh d _ _
  | .ldw d _ _
  | .ldd d _ _
  | .ldbu d _ _
  | .ldhu d _ _
  | .ldwu d _ _
  | .ldxB d _ _ _
  | .ldxH d _ _ _
  | .ldxW d _ _ _
  | .ldxD d _ _ _
  | .ldxBu d _ _ _
  | .ldxHu d _ _ _
  | .ldxWu d _ _ _
  | .atomwAdd d _ _ _ _
  | .atomwSwap d _ _ _ _
  | .atomwCas d _ _ _ _
  | .atomwAnd d _ _ _ _
  | .atomwOr d _ _ _ _
  | .atomwXor d _ _ _ _
  | .atomwMin d _ _ _ _
  | .atomwMax d _ _ _ _
  | .atomwMinu d _ _ _ _
  | .atomwMaxu d _ _ _ _
  | .atomdAdd d _ _ _ _
  | .atomdSwap d _ _ _ _
  | .atomdCas d _ _ _ _
  | .atomdAnd d _ _ _ _
  | .atomdOr d _ _ _ _
  | .atomdXor d _ _ _ _
  | .atomdMin d _ _ _ _
  | .atomdMax d _ _ _ _
  | .atomdMinu d _ _ _ _
  | .atomdMaxu d _ _ _ _
  | .qpop d _
  | .qcntHeld d _
  | .qcntFree d _
  | .recv d _ _
  | .recvDl d _ _ _
  | .xcopy d _
  | .xgather d _
  | .xscatter d _
  | .xreduce d _
  | .skadd d _
  | .skstat d _ _
  | .gdef d _ _
  | .apply d _ _
  | .applyq d _ _
  | .nwait d _
  | .cyield d _
  | .cresume d _ _
  | .csrr d _
  | .csrw d _ _
  | .csrs d _ _
  | .csrc d _ _
  | .launchq d _
  | .nbcmd d _
  | .add d _ _
  | .sub d _ _
  | .and d _ _
  | .or d _ _
  | .xor d _ _
  | .andn d _ _
  | .shl d _ _
  | .shr d _ _
  | .sar d _ _
  | .rol d _ _
  | .ror d _ _
  | .min d _ _
  | .max d _ _
  | .minu d _ _
  | .maxu d _ _
  | .slt d _ _
  | .sltu d _ _
  | .seq d _ _
  | .sne d _ _
  | .cmovz d _ _
  | .cmovnz d _ _
  | .addw d _ _
  | .subw d _ _
  | .shlw d _ _
  | .shrw d _ _
  | .sarw d _ _
  | .mul d _ _
  | .mulh d _ _
  | .mulhu d _ _
  | .mulw d _ _
  | .div d _ _
  | .divu d _ _
  | .rem d _ _
  | .remu d _ _
  | .clz d _
  | .ctz d _
  | .popc d _
  | .brev d _
  | .bswap d _
  | .exts d _ _ _
  | .extz d _ _ _
  | .ins d _ _ _
  | .addi d _ _
  | .andi d _ _
  | .ori d _ _
  | .xori d _ _
  | .slti d _ _
  | .sltiu d _ _
  | .shli d _ _
  | .shri d _ _
  | .sari d _ _
  | .rori d _ _
  | .lui d _
  | .auipc d _
  | .fadd d _ _ _ _
  | .fsub d _ _ _ _
  | .fmul d _ _ _ _
  | .fdiv d _ _ _ _
  | .fsqrt d _ _ _
  | .fmin d _ _ _
  | .fmax d _ _ _
  | .feq d _ _ _
  | .flt d _ _ _
  | .fle d _ _ _
  | .fclass d _ _
  | .fsgnj d _ _ _
  | .fsgnjn d _ _ _
  | .fsgnjx d _ _ _
  | .ffma d _ _ _ _
  | .ffms d _ _ _ _
  | .fcvt d _ _ _ _ => some d
  | .vcmpEq g _ _ _
  | .vcmpLt g _ _ _
  | .vcmpLe g _ _ _
  | .vredSum g _ _
  | .vredMax g _ _
  | .vredMin g _ _
  | .vext g _ _ _
  | .vdot g _ _ _ => some g
  | _ => none

/-- The segments an encoding counts as writing (R53). -/
def segDests : Instr → List Nat
  | .vld d _ _
  | .ldxV d _ _ _
  | .vadd d _ _ _
  | .vsub d _ _ _
  | .vmul d _ _ _
  | .vmax d _ _ _
  | .vmin d _ _ _
  | .vabs d _ _
  | .vneg d _ _
  | .vmov d _ _
  | .vfma d _ _ _
  | .vfms d _ _ _
  | .vand d _ _ _
  | .vor d _ _ _
  | .vxor d _ _ _
  | .vshl d _ _ _
  | .vshr d _ _ _
  | .vsar d _ _ _
  | .vsel d _ _ _ _
  | .vexp2 d _ _
  | .vlog2 d _ _
  | .vrcp d _ _
  | .vrsq d _ _
  | .vcvt d _ _ _ _ _ _ _
  | .vperm d _ _ _
  | .vbcast d _ _
  | .vins d _ _ _ _
  | .vscale d _ _ _ => [d.toNat]
  | .recv _ _ s
  | .recvDl _ _ _ s => segsFrom s.toNat
  | .skqry d _ _ => [d.toNat, d.toNat + 1]
  | .vquantMx d _ b _ _ _
  | .vquantGq d _ b _ _ _ => [d.toNat, b.toNat]
  | _ => []

/-- Two words name the same destination (R53): a nonzero scalar code, or a segment. -/
def conflict (i j : Instr) : Bool :=
  (match scalarDest i, scalarDest j with
   | some d, some e => d == e && d.toNat ≠ 0
   | _, _ => false) || (segDests i).any (segDests j).contains

end Sys2Proof
end

