-- ==== Sys2Proof/Machine/Base.lean ====
section
/-! DEFINITION. The plainest operations: sparse tables and bytes of memory, the parts of the state by index, the numbering of the
hierarchy (01_machine.md R10, R11), the address map (R19, R20) and the codes of control words and causes. -/

namespace Sys2Proof.Machine

/-! ### Sparse tables -/

/-- What a table holds at an index. -/
def tget {α : Type} (d : α) : Tab α → Nat → α
  | [], _ => d
  | (k, v) :: t, i => if k = i then v else tget d t i

/-- The entry of an index taken out. -/
def terase {α : Type} (t : Tab α) (i : Nat) : Tab α := t.filter fun e => e.1 != i

/-- An entry put before the first greater index. -/
def tinsert {α : Type} (i : Nat) (v : α) : Tab α → Tab α
  | [] => [(i, v)]
  | (k, x) :: t => if i < k then (i, v) :: (k, x) :: t else (k, x) :: tinsert i v t

/-- A table with one index changed. -/
def tset {α : Type} (t : Tab α) (i : Nat) (v : α) : Tab α := tinsert i v (terase t i)

/-! ### Memory -/

/-- What an address that memory does not list reads as (entry 1). -/
def unlisted : Byte := 0

/-- One byte of memory. -/
def mget (m : Mem) (a : Nat) : Byte := tget unlisted m a

/-- Memory with one byte written; a byte equal to what an unlisted address reads as is not listed. -/
def mset (m : Mem) (a : Nat) (b : Byte) : Mem := if b = unlisted then terase m a else tset m a b

/-- `n` bytes as a little-endian number (00_scope.md R3). -/
def mread (m : Mem) (a : Nat) : Nat → Nat
  | 0 => 0
  | n + 1 => (mget m a).toNat + 256 * mread m (a + 1) n

/-- Bytes written at ascending addresses. -/
def mwrite (m : Mem) (a : Nat) : List Byte → Mem
  | [] => m
  | b :: bs => mwrite (mset m a b) (a + 1) bs

/-- The `n` low bytes of a number, lowest first (R3). -/
def bytesOf : Nat → Nat → List Byte
  | 0, _ => []
  | n + 1, v => BitVec.ofNat 8 v :: bytesOf n (v / 256)

/-- `n` bytes as a list, lowest address first. -/
def mbytes (m : Mem) (a : Nat) : Nat → List Byte
  | 0 => []
  | n + 1 => mget m a :: mbytes m (a + 1) n

/-- Bytes as a little-endian number. -/
def ofBytes : List Byte → Nat
  | [] => 0
  | b :: bs => b.toNat + 256 * ofBytes bs

/-- The cells of an address range. -/
def mslice (m : Mem) (lo n : Nat) : Mem := m.filter fun e => decide (lo ≤ e.1) && decide (e.1 < lo + n)

/-- Memory with the cells of a range replaced. -/
def msplice (m : Mem) (lo n : Nat) (cells : Mem) : Mem :=
  (cells.filter fun e => decide (lo ≤ e.1) && decide (e.1 < lo + n)).foldl (fun m e => mset m e.1 e.2)
    (m.filter fun e => !(decide (lo ≤ e.1) && decide (e.1 < lo + n)))

/-- The canonical form: addresses strictly rising, and no entry equal to what an unlisted address reads as. -/
def wfFrom : Option Nat → Mem → Bool
  | _, [] => true
  | lo, (a, b) :: m => (match lo with | none => true | some l => decide (l < a)) && (b != unlisted) && wfFrom (some a) m

/-- Memory is in its canonical form. -/
def Memory.wf (m : Mem) : Bool := wfFrom none m

/-! ### Parts of the state -/

def State.ctlOf (s : State) (rid : Nat) : Ctl := tget {} s.ctl rid
def State.setCtl (s : State) (rid : Nat) (c : Ctl) : State := { s with ctl := tset s.ctl rid c }
def State.modCtl (s : State) (rid : Nat) (f : Ctl → Ctl) : State := s.setCtl rid (f (s.ctlOf rid))
def State.thrOf (s : State) (rid : Nat) : Thr := tget {} s.thr rid
def State.setThr (s : State) (rid : Nat) (t : Thr) : State := { s with thr := tset s.thr rid t }
def State.modThr (s : State) (rid : Nat) (f : Thr → Thr) : State := s.setThr rid (f (s.thrOf rid))
def State.coreOf (s : State) (c : Nat) : Core := tget {} s.core c
def State.setCore (s : State) (c : Nat) (x : Core) : State := { s with core := tset s.core c x }
def State.modCore (s : State) (c : Nat) (f : Core → Core) : State := s.setCore c (f (s.coreOf c))
def State.quadOf (s : State) (q : Nat) : Quad := tget {} s.quad q
def State.modQuad (s : State) (q : Nat) (f : Quad → Quad) : State := { s with quad := tset s.quad q (f (s.quadOf q)) }
def State.octOf (s : State) (o : Nat) : Octet := tget {} s.oct o
def State.modOct (s : State) (o : Nat) (f : Octet → Octet) : State := { s with oct := tset s.oct o (f (s.octOf o)) }
def State.cluOf (s : State) (k : Nat) : Cluster := tget {} s.clu k
def State.modClu (s : State) (k : Nat) (f : Cluster → Cluster) : State := { s with clu := tset s.clu k (f (s.cluOf k)) }
def State.tenOf (s : State) (t : Nat) : Tenant := tget {} s.ten t
def State.modTen (s : State) (t : Nat) (f : Tenant → Tenant) : State := { s with ten := tset s.ten t (f (s.tenOf t)) }
def State.nodeOf (s : State) (n : Nat) : GraphNode := tget {} s.nodes n
def State.modNode (s : State) (n : Nat) (f : GraphNode → GraphNode) : State :=
  { s with nodes := tset s.nodes n (f (s.nodeOf n)) }
def State.bdcOf (s : State) (b : Nat) : BaseCore := tget {} s.bdc b
def State.modBdc (s : State) (b : Nat) (f : BaseCore → BaseCore) : State := { s with bdc := tset s.bdc b (f (s.bdcOf b)) }
def State.modPkg (s : State) (f : Package → Package) : State := { s with pkg := f s.pkg }
def State.modCur (s : State) (f : Cur → Cur) : State := { s with cur := f s.cur }
/-- A list with one place changed. -/
def modAt {α : Type} (l : List α) (i : Nat) (f : α → α) : List α := l.modify i f
/-- The next order number, and the state after taking it. -/
def State.tick (s : State) : Nat × State := (s.seq, { s with seq := s.seq + 1 })

/-! ### The hierarchy (R9 to R11) -/

def cores : Nat := 6144
def rowsPerCore : Nat := 2048
/-- The package-wide number of a row. -/
def ridOf (core row : Nat) : Nat := core * 2048 + row
def coreOfRid (rid : Nat) : Nat := rid / 2048
def rowOfRid (rid : Nat) : Nat := rid % 2048
def clusterOf (core : Nat) : Nat := core / 192
def octetOf (core : Nat) : Nat := core / 8
def quadOfCore (core : Nat) : Nat := core / 4
def dieOf (core : Nat) : Nat := core / 384
def stackOf (core : Nat) : Nat := core / 768
/-- Whether a core is the lower one of its vertical pair (R11). -/
def isLower (core : Nat) : Bool := core / 384 % 2 == 0
/-- The core that holds the pair's two FIFOs in this model: the lower one. -/
def pairCore (core : Nat) : Nat := if isLower core then core else core - 384
/-- Row numbers at and above this one are the private rows of the 64 base-die cores (22_near_memory.md R342; entry 10). -/
def baseRid : Nat := 12582912
def isBase (rid : Nat) : Bool := decide (baseRid ≤ rid)
/-- The bank of a row (R20). -/
def bankOfRow (row : Nat) : Nat := row % 64

/-! ### The address map (R19, R20) -/

def rowStoreBase : Nat := 0x1000000_0000
/-- The physical address of a row's first byte. -/
def rowAddr (rid : Nat) : Nat := rowStoreBase + rid * 1024
/-- What a physical address names (R19, R21, R22). A control entry is named by row and word. -/
inductive Region where
  | hbm | bankLinear | rowStore (rid off : Nat) | control (rid word off : Nat) | coreMmio (core off : Nat)
  | clusterMmio (cluster off : Nat) | service (off : Nat) | host | remote (pkg addr : Nat) | unassigned
  deriving DecidableEq, Repr

/-- The region of a physical address within this package, and its remote form (R19, R22). -/
def regionOf (pa : Nat) : Region :=
  if pa < 0x800000_0000 then .hbm
  else if pa < 0x1000000_0000 then .bankLinear
  else if pa < 0x1030000_0000 then .rowStore ((pa - rowStoreBase) / 1024) ((pa - rowStoreBase) % 1024)
  else if pa < 0x1080000_0000 then .unassigned
  else if pa < 0x1080C00_0000 then .control ((pa - 0x1080000_0000) / 16) ((pa - 0x1080000_0000) % 16 / 8) (pa % 8)
  else if pa < 0x10C0000_0000 then .unassigned
  else if pa < 0x10C1800_0000 then .coreMmio ((pa - 0x10C0000_0000) / 65536) ((pa - 0x10C0000_0000) % 65536)
  else if pa < 0x1100000_0000 then .unassigned
  else if pa < 0x1100200_0000 then .clusterMmio ((pa - 0x1100000_0000) / 1048576) ((pa - 0x1100000_0000) % 1048576)
  else if pa < 0x1F00000_0000 then .unassigned
  else if pa < 0x2000000_0000 then .service (pa - 0x1F00000_0000)
  else if pa < 0x4000000_0000 then .host
  else if pa < 0x8000000000000 then .unassigned
  else if pa < 0x10000000000000 then .remote ((pa - 0x8000000000000) / 0x40000000000) (pa % 0x40000000000)
  else .unassigned

/-- The target type that names a region (R19). -/
def ttOf : Region → Option Nat
  | .hbm => some 0
  | .bankLinear => some 1
  | .rowStore _ _ => some 2
  | .control _ _ _ => some 3
  | .coreMmio _ _ | .clusterMmio _ _ | .service _ => some 4
  | .host => some 5
  | .remote _ _ => some 6
  | .unassigned => none

/-- The address in `mem` at which a byte of memory stands: a bank-linear address stands at its interleaved alias (22_near_memory.md
R331; entry 15). -/
def cellOf (pa : Nat) : Nat :=
  if 0x800000_0000 ≤ pa ∧ pa < 0x1000000_0000 then
    let g := (pa - 0x800000_0000) / 256
    (Config.bankPerm (Fin.ofNat 2147483648 g)).val * 256 + pa % 256
  else pa

/-- `n` bytes at a physical address, through either view. Accesses do not cross a 256-byte granule unaligned. -/
def State.peek (s : State) (pa n : Nat) : Nat := mread s.mem (cellOf pa) n
def State.peekBytes (s : State) (pa n : Nat) : List Byte := mbytes s.mem (cellOf pa) n
/-- Bytes put at a physical address, with no check. -/
def State.poke (s : State) (pa : Nat) (bs : List Byte) : State := { s with mem := mwrite s.mem (cellOf pa) bs }

/-- Any number of bytes at a physical address, granule by granule. -/
def State.peekLong (s : State) : Nat → Nat → Nat → List Byte
  | 0, _, _ => []
  | f + 1, pa, n =>
    if n = 0 then [] else
    let m := min n (256 - pa % 256)
    s.peekBytes pa m ++ s.peekLong f (pa + m) (n - m)
def State.pokeLong : Nat → State → Nat → List Byte → State
  | 0, s, _, _ => s
  | f + 1, s, pa, bs =>
    if bs.isEmpty then s else
    let m := 256 - pa % 256
    State.pokeLong f (s.poke pa (bs.take m)) (pa + m) (bs.drop m)

/-- The 8-byte words of `[pa, pa + n)`: the first and last byte of each lie in it, or, with `part`, some byte. -/
def wordsOf (pa n : Nat) (part : Bool) : List Nat :=
  if n = 0 then [] else
  let lo := if part then pa / 8 else (pa + 7) / 8
  let hi := if part then (pa + n - 1) / 8 + 1 else (pa + n) / 8
  (List.range (hi - lo)).map fun i => 8 * (lo + i)
/-- The physical address of the first uncorrectable word that bytes `[pa, pa + n)` touch (15_traps.md R271), through either view of HBM. -/
def State.uncorrAt (s : State) (pa n : Nat) : Option Nat :=
  if s.uncorr.isEmpty then none else (wordsOf pa n true).find? fun u => s.uncorr.contains (cellOf u)

/-! ### Home classes (07_memory_model.md R124) -/

/-- The cluster whose single-copy memory holds an address. -/
def clusterHome (pa : Nat) : Option Nat :=
  match regionOf pa with
  | .rowStore rid _ | .control rid _ _ => some (clusterOf (coreOfRid rid))
  | _ => none
def deviceHome (pa : Nat) : Bool :=
  match regionOf pa with
  | .coreMmio _ _ | .clusterMmio _ _ | .service _ | .host => true
  | _ => false
/-- The row whose bytes or control entry an address names. -/
def rowAt (pa : Nat) : Option Nat :=
  match regionOf pa with
  | .rowStore rid _ | .control rid _ _ => some rid
  | _ => none

/-! ### Control words (R28 to R30) -/

def RowState.code : RowState → Nat
  | .null => 0 | .dormant => 1 | .ready => 2 | .opened => 3 | .blocked => 4 | .sleeping => 5 | .faulted => 6 | .exited => 7
  | .held => 8
/-- The state of a code (R29). Codes 9 to 15 name none. -/
def RowState.ofCode (n : Nat) : Option RowState :=
  if n = 0 then some .null else if n = 1 then some .dormant else if n = 2 then some .ready else if n = 3 then some .opened
  else if n = 4 then some .blocked else if n = 5 then some .sleeping else if n = 6 then some .faulted
  else if n = 7 then some .exited else if n = 8 then some .held else none

def bit (b : Bool) : Nat := if b then 1 else 0

/-- Control word 0 as it is read. -/
def Ctl.word0 (c : Ctl) : W :=
  BitVec.ofNat 64 (c.state.code * 2 ^ 60 + c.wait.toNat * 2 ^ 56 + c.pri.toNat * 2 ^ 54 + bit c.h * 2 ^ 53 + bit c.p * 2 ^ 52
    + c.team.toNat * 2 ^ 36 + (if c.state = .null then c.wake.toNat % 16 else c.wake.toNat))
/-- Control word 1 as it is read. -/
def Ctl.word1 (c : Ctl) : W := BitVec.ofNat 64 (c.pc.toNat / 4 * 4)
/-- A program counter from a 64-bit target (R96): bits [56:2]. -/
def pcOf (x : W) : BitVec 57 := BitVec.ofNat 57 (x.toNat / 4 * 4)
/-- A bit field of a number. -/
def bits (x hi lo : Nat) : Nat := x / 2 ^ lo % 2 ^ (hi - lo + 1)
/-- Dword `i` of a 64-byte block or spec. -/
def dword (b : BitVec 512) (i : Nat) : Nat := bits b.toNat (64 * i + 63) (64 * i)
/-- `KIND` of a command's spec. -/
def kindOf (b : BitVec 512) : Nat := bits (dword b 0) 7 0
/-- `n` bytes as an access through a physical address reads them: the reserved bits [63:62] of the `STS` of a thread row read as zero (R25). -/
def State.peekSeen (s : State) (pa n : Nat) : Nat :=
  let x := s.peek pa n
  match regionOf pa with
  | .rowStore rid off =>
    if off ≤ 7 ∧ 7 < off + n ∧ (s.ctlOf rid).state ≠ .null then
      let i := 8 * (7 - off) + 6
      x % 2 ^ i + x / 2 ^ (i + 2) * 2 ^ (i + 2)
    else x
  | _ => x

/-! ### Causes (R258) -/

def Cause.code : Cause → Nat
  | .illegal => 0x01 | .entry => 0x02 | .align => 0x03 | .access => 0x04 | .range => 0x05 | .promise => 0x06 | .stalemate => 0x07
  | .uncorr => 0x08 | .brk => 0x09 | .queue => 0x0A | .helper => 0x0B | .layout => 0x0C | .owner => 0x0D | .skmismatch => 0x0E
  | .nest => 0x0F | .packet => 0x10 | .page => 0x20 | .perm => 0x21 | .cow => 0x22 | .stage2 => 0x24 | .nbreject => 0x25

/-- The thread name of a row of this package (09_memory_sync.md R171). -/
def nameOf (rid : Nat) : W := BitVec.ofNat 64 (coreOfRid rid * 2048 + rowOfRid rid)

/-- Two's-complement and unsigned narrowings (04_scalar.md R77). -/
def sext (n v : Nat) : W := (BitVec.ofNat n v).signExtend 64
def zext (n v : Nat) : W := BitVec.ofNat 64 (v % 2 ^ n)

/-- A 56-bit cycle value is reached (02_rows.md R26). -/
def reached (now : Nat) (p : Nat) : Bool := decide ((now % 2 ^ 56 + 2 ^ 56 - p % 2 ^ 56) % 2 ^ 56 < 2 ^ 55)

/-- The owner tag of a core's octet (24_tenancy_boot.md R358). -/
def State.tenantOf (s : State) (core : Nat) : Nat := (s.octOf (octetOf core)).tag.toNat
/-- The tenant of a row; a base-die row runs for the tenant of its handler (22_near_memory.md R342). -/
def State.rowTenant (s : State) (rid : Nat) : Nat :=
  if isBase rid then (s.bdcOf (rid - baseRid)).tenant else s.tenantOf (coreOfRid rid)
/-- The cluster whose rules a row follows; a base-die row belongs to none and its number lies above them. -/
def clusterOfRid (rid : Nat) : Nat := if isBase rid then 32 + (rid - baseRid) else clusterOf (coreOfRid rid)

/-- The core state of a tenant on a core: that of the core while the tenant holds it, else its image (20_scheduling.md R327). -/
def State.csOf (s : State) (core ten : Nat) : CState :=
  let c := s.coreOf core
  if c.loaded = ten then c.cs else tget {} c.images ten
def State.modCs (s : State) (core ten : Nat) (f : CState → CState) : State :=
  s.modCore core fun c =>
    if c.loaded = ten then { c with cs := f c.cs } else { c with images := tset c.images ten (f (tget {} c.images ten)) }
/-- The core state of a row's tenant on its core, loaded or not. -/
def State.csRow (s : State) (rid : Nat) : CState := s.csOf (coreOfRid rid) (s.rowTenant rid)
def State.modCsRow (s : State) (rid : Nat) (f : CState → CState) : State := s.modCs (coreOfRid rid) (s.rowTenant rid) f
/-- The loaded core state of a row's core. -/
def State.cs (s : State) (core : Nat) : CState := (s.coreOf core).cs
def State.modLoaded (s : State) (core : Nat) (f : CState → CState) : State := s.modCore core fun c => { c with cs := f c.cs }

end Sys2Proof.Machine
end

