-- ==== Sys2Proof/Machine/Formats.lean ====
section
/-! DEFINITION. Number formats and exact arithmetic (11_formats.md): decoding, rounding, block sums, trees, error feedback, and the
special functions of R200. Arithmetic is on exact values; one rounding narrows the result. -/

namespace Sys2Proof.Machine

/-- An exact value: NaN, an infinity, or a signed fraction `num / den` whose sign a zero keeps (R189). -/
inductive Val where
  | nan
  | inf (neg : Bool)
  | fin (neg : Bool) (num den : Nat)
  deriving DecidableEq, Repr, Inhabited

/-- A floating format (R188): exponent and mantissa widths; `ieee` has infinities and NaNs as binary64 has, `e4m3` NaNs only at
all ones, `e2m1` neither. -/
inductive FmtKind where
  | ieee | e4m3 | e2m1
  deriving DecidableEq, Repr, Inhabited
structure Fmt where
  eb : Nat
  mb : Nat
  kind : FmtKind := .ieee
  deriving DecidableEq, Repr, Inhabited

def fp64 : Fmt := { eb := 11, mb := 52 }
def fp32 : Fmt := { eb := 8, mb := 23 }
def fp16 : Fmt := { eb := 5, mb := 10 }
def bf16 : Fmt := { eb := 8, mb := 7 }
def e4m3 : Fmt := { eb := 4, mb := 3, kind := .e4m3 }
def e5m2 : Fmt := { eb := 5, mb := 2 }
def e2m1 : Fmt := { eb := 2, mb := 1, kind := .e2m1 }

def Fmt.bias (f : Fmt) : Nat := 2 ^ (f.eb - 1) - 1
def Fmt.width (f : Fmt) : Nat := 1 + f.eb + f.mb
def signBit (f : Fmt) (x : Nat) : Bool := x / 2 ^ (f.eb + f.mb) % 2 == 1
def expField (f : Fmt) (x : Nat) : Nat := x / 2 ^ f.mb % 2 ^ f.eb
def mantField (f : Fmt) (x : Nat) : Nat := x % 2 ^ f.mb

/-- Whether an encoding is a NaN (R188). -/
def isNaN (f : Fmt) (x : Nat) : Bool :=
  match f.kind with
  | .ieee => expField f x == 2 ^ f.eb - 1 && mantField f x != 0
  | .e4m3 => expField f x == 15 && mantField f x == 7
  | .e2m1 => false
/-- Whether an encoding is an infinity. -/
def isInf (f : Fmt) (x : Nat) : Bool := f.kind == .ieee && expField f x == 2 ^ f.eb - 1 && mantField f x == 0
/-- Whether an encoding is a signalling NaN (R190). -/
def isSNaN (f : Fmt) (x : Nat) : Bool := f.kind == .ieee && isNaN f x && x / 2 ^ (f.mb - 1) % 2 == 0

/-- `m × 2^e` as a fraction. -/
def scaled (neg : Bool) (m : Nat) (e : Int) : Val :=
  if 0 ≤ e then .fin neg (m * 2 ^ e.toNat) 1 else .fin neg m (2 ^ (-e).toNat)

/-- The value of an encoding (R189). -/
def valOf (f : Fmt) (x : Nat) : Val :=
  if isNaN f x then .nan
  else if isInf f x then .inf (signBit f x)
  else
    let e := expField f x
    if e = 0 then scaled (signBit f x) (mantField f x) (1 - (f.bias : Int) - f.mb)
    else scaled (signBit f x) (2 ^ f.mb + mantField f x) ((e : Int) - f.bias - f.mb)

/-- The canonical NaN (R190). -/
def canonicalNaN (f : Fmt) : Nat :=
  match f.kind with
  | .ieee => (2 ^ f.eb - 1) * 2 ^ f.mb + 2 ^ (f.mb - 1)
  | _ => 0x7F
/-- The encoding of the largest finite magnitude (R188). -/
def maxFinite (f : Fmt) : Nat :=
  match f.kind with
  | .ieee => (2 ^ f.eb - 1) * 2 ^ f.mb - 1
  | .e4m3 => 0x7E
  | .e2m1 => 7
def withSign (f : Fmt) (neg : Bool) (x : Nat) : Nat := if neg then 2 ^ (f.eb + f.mb) + x else x
def infEnc (f : Fmt) (neg : Bool) : Nat := withSign f neg ((2 ^ f.eb - 1) * 2 ^ f.mb)

/-- Rounding modes (R73, R194). -/
inductive Rm where
  | rne | rtz | rdn | rup | rmm
  deriving DecidableEq, Repr, Inhabited
def rmOf (r : Nat) : Rm :=
  if r = 1 then .rtz else if r = 2 then .rdn else if r = 3 then .rup else if r = 4 then .rmm else .rne

/-- Whether a quotient `n` with remainder `r` of `d` moves up to `n + 1` (R194). -/
def roundsUp (rm : Rm) (neg : Bool) (n r d : Nat) : Bool :=
  match rm with
  | .rne => decide (2 * r > d) || (decide (2 * r = d) && n % 2 == 1)
  | .rtz => false
  | .rdn => neg && r != 0
  | .rup => !neg && r != 0
  | .rmm => decide (2 * r ≥ d)

/-- `num / den × 2^(-q)` as quotient, remainder and divisor. -/
def scaleDiv (num den : Nat) (q : Int) : Nat × Nat × Nat :=
  if 0 ≤ q then let d := den * 2 ^ q.toNat; (num / d, num % d, d)
  else let n := num * 2 ^ (-q).toNat; (n / den, n % den, den)

/-- `num / den ≥ 2^l`. -/
def gePow (num den : Nat) (l : Int) : Bool :=
  if 0 ≤ l then decide (den * 2 ^ l.toNat ≤ num) else decide (den ≤ num * 2 ^ (-l).toNat)
/-- `floor(log2(num / den))` of a positive fraction. -/
def ilog2 (num den : Nat) : Int :=
  let l := (Nat.log2 num : Int) - Nat.log2 den
  if gePow num den l then l else l - 1

/-- An encoding with what its rounding did (R90, R194). -/
structure Rounded where
  enc : Nat
  inexact : Bool := false
  overflow : Bool := false
  tiny : Bool := false
  clamped : Bool := false
  deriving DecidableEq, Repr, Inhabited

/-- Whether a magnitude overflows (R194): beyond direction decides infinity or the largest finite value. -/
def towardZero (rm : Rm) (neg : Bool) : Bool :=
  match rm with
  | .rtz => true
  | .rdn => !neg
  | .rup => neg
  | _ => false

/-- Rounding of a finite magnitude (R194): to the precision with an unbounded exponent, then the range is judged. -/
def roundFin (f : Fmt) (rm : Rm) (sat neg : Bool) (num den : Nat) : Rounded :=
  if num = 0 then { enc := withSign f neg 0 } else
  let e := ilog2 num den
  let emin : Int := 1 - f.bias
  let q := max e emin - f.mb
  let (n, r, d) := scaleDiv num den q
  let n' := if roundsUp rm neg n r d then n + 1 else n
  let (un, ur, ud) := scaleDiv num den (e - f.mb)
  let unr := if roundsUp rm neg un ur ud then un + 1 else un
  let tiny := decide (e < emin) && !(decide (e = emin - 1) && unr == 2 ^ (f.mb + 1))
  let carry := n' == 2 ^ (f.mb + 1)
  let m := if carry then n' / 2 else n'
  let qe := if carry then q + 1 else q
  let enc := if m < 2 ^ f.mb then m else (qe + f.mb + f.bias).toNat * 2 ^ f.mb + (m - 2 ^ f.mb)
  if maxFinite f < enc then
    if sat || f.kind == .e2m1 then { enc := withSign f neg (maxFinite f), inexact := true, overflow := true, clamped := true }
    else if f.kind == .e4m3 then { enc := 0x7F, inexact := true, overflow := true }
    else if towardZero rm neg then { enc := withSign f neg (maxFinite f), inexact := true, overflow := true }
    else { enc := infEnc f neg, inexact := true, overflow := true }
  else { enc := withSign f neg enc, inexact := r != 0, tiny := tiny }

/-- `Rnd(x, F, rm, sat)` (R194). -/
def rnd (f : Fmt) (rm : Rm) (sat : Bool) : Val → Rounded
  | .nan => { enc := canonicalNaN f }
  | .inf neg =>
    if sat || f.kind == .e2m1 then { enc := withSign f neg (maxFinite f), clamped := true }
    else if f.kind == .ieee then { enc := infEnc f neg } else { enc := canonicalNaN f }
  | .fin neg num den => roundFin f rm sat neg num den

/-- `Rne32` as an encoding (R195). -/
def rne32 (v : Val) : Nat := (rnd fp32 .rne false v).enc
def f32 (x : Nat) : Val := valOf fp32 x

/-! ### Exact arithmetic -/

def Val.neg : Val → Val
  | .nan => .nan
  | .inf n => .inf !n
  | .fin n a b => .fin (!n) a b
def Val.isNegative : Val → Bool
  | .nan => false
  | .inf n => n
  | .fin n _ _ => n
def Val.isZero : Val → Bool
  | .fin _ 0 _ => true
  | _ => false

/-- The exact sum; an exact zero takes the sign that IEEE 754-2019 gives, which `rdn` decides (R92). -/
def Val.add (rdn : Bool) : Val → Val → Val
  | .nan, _ | _, .nan => .nan
  | .inf a, .inf b => if a = b then .inf a else .nan
  | .inf a, _ | _, .inf a => .inf a
  | .fin s a b, .fin t c d =>
    let x : Int := (if s then -(a * d : Int) else a * d) + (if t then -(c * b : Int) else c * b)
    if x = 0 then .fin (if s = t then s else rdn) 0 1 else .fin (decide (x < 0)) x.natAbs (b * d)

/-- The exact product; 0 × ∞ is NaN. -/
def Val.mul : Val → Val → Val
  | .nan, _ | _, .nan => .nan
  | .inf a, .inf b => .inf (a != b)
  | .inf a, .fin t c _ | .fin t c _, .inf a => if c = 0 then .nan else .inf (a != t)
  | .fin s a b, .fin t c d => .fin (s != t) (a * c) (b * d)

/-- The exact quotient; 0 ÷ 0 and ∞ ÷ ∞ are NaN, and x ÷ 0 an infinity. -/
def Val.div : Val → Val → Val
  | .nan, _ | _, .nan => .nan
  | .inf _, .inf _ => .nan
  | .inf a, .fin t _ _ => .inf (a != t)
  | .fin s _ _, .inf b => .fin (s != b) 0 1
  | .fin s a b, .fin t c d =>
    if c = 0 then (if a = 0 then .nan else .inf (s != t)) else .fin (s != t) (a * d) (b * c)

/-- Order of two values that are not NaN: less than. -/
def Val.lt : Val → Val → Bool
  | .nan, _ | _, .nan => false
  | .inf a, .inf b => a && !b
  | .inf a, _ => a
  | _, .inf b => !b
  | .fin s a b, .fin t c d =>
    decide ((if s then -(a * d : Int) else a * d) < (if t then -(c * b : Int) else c * b))
/-- Equality of values; −0 equals +0 and NaN equals nothing (R189). -/
def Val.eq (x y : Val) : Bool :=
  match x, y with
  | .nan, _ | _, .nan => false
  | _, _ => !(x.lt y) && !(y.lt x)

/-- Integer square root by bits, from the highest. -/
def isqrtGo : Nat → Nat → Nat → Nat
  | 0, r, _ => r
  | b + 1, r, n => isqrtGo b (if (r + 2 ^ b) * (r + 2 ^ b) ≤ n then r + 2 ^ b else r) n
def isqrt (n : Nat) : Nat := isqrtGo (Nat.log2 n / 2 + 1) 0 n

/-- A square root to 160 bits below its leading bit, exact where it is exact; where it is not, a value strictly between the two
neighbours of that precision, which every rounding of R194 treats as the root itself. -/
def Val.sqrt : Val → Val
  | .nan => .nan
  | .inf neg => if neg then .nan else .inf false
  | .fin neg a b =>
    if a = 0 then .fin neg 0 1
    else if neg then .nan
    else
      let k := 160 + Nat.log2 b
      let m := a * b * 2 ^ (2 * k)
      let r := isqrt m
      if r * r = m then .fin false r (b * 2 ^ k) else .fin false (2 * r + 1) (2 * b * 2 ^ k)

/-! ### Integers and lanes -/

/-- The two's-complement integer of an `n`-bit pattern. -/
def toSigned (n x : Nat) : Int := if x % 2 ^ n < 2 ^ (n - 1) then (x % 2 ^ n : Int) else (x % 2 ^ n : Int) - 2 ^ n
/-- The `n`-bit pattern of an integer. -/
def ofInt (n : Nat) (x : Int) : Nat := (x % (2 ^ n : Int)).toNat
/-- `Sat` (R195). -/
def satInt (x lo hi : Int) : Int := if x < lo then lo else if hi < x then hi else x
/-- A finite value rounded to an integer; the flag says it was inexact. -/
def roundInt (rm : Rm) (neg : Bool) (num den : Nat) : Int × Bool :=
  let n := num / den
  let r := num % den
  let n' := if roundsUp rm neg n r den then n + 1 else n
  (if neg then -(n' : Int) else n', r != 0)
/-- An integer as a value. -/
def ofIntVal (x : Int) : Val := .fin (decide (x < 0)) x.natAbs 1

/-! ### Block sums and trees (R196, R201) -/

def Val.log2? : Val → Option Int
  | .fin _ a b => if a = 0 then none else some (ilog2 a b)
  | _ => none
def maxLog : List Val → Option Int
  | [] => none
  | v :: l => match v.log2?, maxLog l with
    | some a, some b => some (max a b)
    | some a, none => some a
    | none, m => m

/-- `BlockSum(p)` (R196). -/
def blockSum (p : List Val) : Val :=
  if p.any fun v => v == .nan then .nan
  else if (p.any fun v => v == .inf false) && (p.any fun v => v == .inf true) then .nan
  else if p.any fun v => v == .inf false then .inf false
  else if p.any fun v => v == .inf true then .inf true
  else match maxLog p with
    | none => .fin false 0 1
    | some e =>
      let f : Int := p.foldl (fun (acc : Int) v => match v with
        | .fin s a b =>
          let q : Int := ((scaleDiv a b (e - 56)).1 : Nat)
          if s then acc - q else acc + q
        | _ => acc) 0
      match scaled (decide (f < 0)) f.natAbs (e - 56) with
      | .fin _ 0 _ => .fin false 0 1
      | v => v

/-- One level of a pairwise tree. -/
def pairUp {α : Type} (op : α → α → α) : List α → List α
  | a :: b :: l => op a b :: pairUp op l
  | l => l
/-- `Tree` over `2^levels` lanes (R201). -/
def tree {α : Type} (d : α) (op : α → α → α) : Nat → List α → α
  | 0, l => l.headD d
  | n + 1, l => tree d op n (pairUp op l)

/-! ### Minimum and maximum (R91) -/

/-- `minimumNumber` or `maximumNumber` of two encodings of one format. -/
def minMax (f : Fmt) (wantMax : Bool) (x y : Nat) : Nat :=
  if isNaN f x && isNaN f y then canonicalNaN f
  else if isNaN f x then y
  else if isNaN f y then x
  else
    let a := valOf f x
    let b := valOf f y
    if a.lt b then (if wantMax then y else x)
    else if b.lt a then (if wantMax then x else y)
    else if signBit f x = signBit f y then x
    else if signBit f x then (if wantMax then y else x) else (if wantMax then x else y)

/-! ### Special functions (R200) -/

/-- Fixed-point precision of the special functions (entry 16). -/
def fxBits : Nat := 256
/-- The square root of a fixed-point number. -/
def fxSqrt (x : Nat) : Nat := isqrt (x * 2 ^ fxBits)
/-- `2^f` in fixed point for a fraction `num / 2^k`, over its bits from the highest: `c` is `2^(2^-i)`. -/
def exp2Frac : Nat → Nat → Nat → Nat → Nat
  | 0, _, _, acc => acc
  | k + 1, num, c, acc =>
    let acc' := if num / 2 ^ k % 2 = 1 then acc * c / 2 ^ fxBits else acc
    exp2Frac k num (fxSqrt c) acc'
/-- `2^x` (R200; entry 16): an integer power is exact, any other is computed to 256 bits and a half unit below them. -/
def Val.exp2 : Val → Val
  | .nan => .nan
  | .inf neg => if neg then .fin false 0 1 else .inf false
  | .fin neg a b =>
    if a = 0 then .fin false 1 1
    else
      let k := Nat.log2 b
      let fl : Int := if neg then -((a + b - 1) / b : Nat) else (a / b : Nat)
      let frac : Nat := if neg then (b - a % b) % b else a % b
      if 2000 < fl then scaled false 1 2000 else if fl < -2000 then scaled false 1 (-2000)
      else if frac = 0 then scaled false 1 fl
      else
        let m := exp2Frac k frac (fxSqrt (2 * 2 ^ fxBits)) (2 ^ fxBits)
        scaled false (2 * m + 1) (fl - fxBits - 1)
/-- The bits of `log2` of a fixed-point number in [1, 2), by squaring. -/
def log2Bits : Nat → Nat → Nat → Nat
  | 0, _, acc => acc
  | n + 1, y, acc =>
    let z := y * y / 2 ^ (2 * fxBits)
    if 2 ^ (2 * fxBits + 1) ≤ z then log2Bits n (z / 2) (2 * acc + 1) else log2Bits n z (2 * acc)
/-- `log2 x` (R200; entry 16). -/
def Val.log2 : Val → Val
  | .nan => .nan
  | .inf neg => if neg then .nan else .inf false
  | .fin neg a b =>
    if a = 0 then .inf true
    else if neg then .nan
    else
      let e := ilog2 a b
      let (m, r, _) := scaleDiv a b (e - 2 * fxBits)
      if r = 0 ∧ m = 2 ^ (2 * fxBits) then ofIntVal e
      else
        let fr := log2Bits 192 m 0
        let x : Int := e * 2 ^ 193 + (2 * fr + 1 : Nat)
        .fin (decide (x < 0)) x.natAbs (2 ^ 193)
/-- `1 / x` (R200). -/
def Val.rcp : Val → Val
  | .nan => .nan
  | .inf neg => .fin neg 0 1
  | .fin neg a b => if a = 0 then .inf neg else .fin neg b a
/-- `1 / √x` (R200). -/
def Val.rsq : Val → Val
  | .nan => .nan
  | .inf neg => if neg then .nan else .fin false 0 1
  | .fin neg a b => if a = 0 then .inf neg else if neg then .nan else (Val.fin false b a).sqrt

/-! ### Vector lane types (R204) -/

/-- The width of a lane in bits. -/
def laneBits (ty : Nat) : Nat :=
  if ty = 0 ∨ ty = 3 then 32 else if ty = 1 ∨ ty = 2 ∨ ty = 4 then 16 else 8
def laneCount (ty : Nat) : Nat := 512 / laneBits ty
/-- The format of a floating lane type. -/
def laneFmt (ty : Nat) : Option Fmt :=
  if ty = 0 then some fp32 else if ty = 1 then some bf16 else if ty = 2 then some fp16
  else if ty = 6 then some e4m3 else if ty = 7 then some e5m2 else none
/-- The lanes of a segment, as patterns. -/
def lanesOfSeg (ty : Nat) (x : Nat) : List Nat :=
  (List.range (laneCount ty)).map fun i => x / 2 ^ (laneBits ty * i) % 2 ^ laneBits ty
/-- Patterns of one width put together, the first lowest. -/
def joinLanes (w : Nat) : List Nat → Nat
  | [] => 0
  | x :: l => x % 2 ^ w + 2 ^ w * joinLanes w l
/-- The exact value of a lane. -/
def laneVal (ty x : Nat) : Val :=
  match laneFmt ty with
  | some f => valOf f x
  | none => ofIntVal (toSigned (laneBits ty) x)

/-- Maximum or minimum of two lanes (R212). -/
def laneMinMax (ty : Nat) (wantMax : Bool) (a b : Nat) : Nat :=
  match laneFmt ty with
  | some f => minMax f wantMax a b
  | none =>
    let w := laneBits ty
    if toSigned w a < toSigned w b then (if wantMax then b else a) else (if wantMax then a else b)

/-! ### Narrowing (R202, R203) -/

/-- One value converted to a lane type: its pattern, its value, and whether it was brought back into range (R203). An integer source
that is not saturated keeps its low bits. -/
def cvtLane (dst : Nat) (sat fromInt : Bool) (v : Val) : Nat × Val × Bool :=
  match laneFmt dst with
  | some f => let r := rnd f .rne sat v; (r.enc, valOf f r.enc, r.clamped)
  | none =>
    let w := laneBits dst
    match v with
    | .nan => (0, .nan, true)
    | .inf neg => let x : Int := if neg then -(2 ^ (w - 1)) else 2 ^ (w - 1) - 1; (ofInt w x, ofIntVal x, true)
    | .fin neg a b =>
      let (x, _) := roundInt .rne neg a b
      let lo : Int := -(2 ^ (w - 1))
      let hi : Int := 2 ^ (w - 1) - 1
      if lo ≤ x ∧ x ≤ hi then (ofInt w x, ofIntVal x, false)
      else if fromInt && !sat then (ofInt w x, ofIntVal (toSigned w (ofInt w x)), true)
      else let y := satInt x lo hi; (ofInt w y, ofIntVal y, true)

def Val.isFinite : Val → Bool
  | .fin _ _ _ => true
  | _ => false

/-- A block converted with error feedback, in ascending order (R202). -/
def feedback (dst : Nat) (sat fromInt : Bool) : Val → List Val → List Nat
  | _, [] => []
  | carry, v :: vs =>
    let x := if carry.isZero then v else f32 (rne32 (v.add false carry))
    let (y, yv, clamped) := cvtLane dst sat fromInt x
    let carry' := if x.isFinite && yv.isFinite && !clamped then x.add false yv.neg else .fin false 0 1
    y :: feedback dst sat fromInt carry' vs

/-- A block converted lane by lane, or with error feedback. -/
def cvtBlock (dst : Nat) (sat ef fromInt : Bool) (vs : List Val) : List Nat :=
  if ef then feedback dst sat fromInt (.fin false 0 1) vs else vs.map fun v => (cvtLane dst sat fromInt v).1

/-! ### Sketch headers (18_sketches.md R292) -/

/-- The fields of a sketch header: `width` in bits, `exp` as an integer, `rows` d, `logw` L. -/
structure Sketch where
  seed : Nat
  width : Nat
  exp : Int
  logw : Nat
  rows : Nat
  ibase : Nat
  cadr : Nat
  satf : Nat
  deriving DecidableEq, Repr, Inhabited
def sketchOf (b : BitVec 512) : Sketch :=
  let d := dword b 1
  { seed := dword b 0, width := if bits d 24 24 = 1 then 32 else 16, exp := toSigned 8 (bits d 23 16), logw := bits d 13 8,
    rows := bits d 3 0, ibase := dword b 2, cadr := bits (dword b 3) 56 0, satf := bits (dword b 4) 8 0 }
/-- Whether a header is valid (R292). -/
def sketchValid (b : BitVec 512) : Bool :=
  let d := dword b 1
  let n := bits d 3 0
  bits d 63 25 == 0 && bits d 15 14 == 0 && bits d 7 4 == 0 && decide (4 ≤ bits d 13 8) && decide (bits d 13 8 ≤ 32)
    && n % 2 == 1 && decide (n ≤ 9) && bits (dword b 3) 63 57 == 0 && dword b 3 % 64 == 0
    && dword b 4 / 2 ^ n == 0 && dword b 5 == 0 && dword b 6 == 0 && dword b 7 == 0
/-- Seed, d, L, E and counter width, which two summed sketches must share. -/
def Sketch.shape (k : Sketch) : Nat × Nat × Int × Nat × Nat := (k.seed, k.width, k.exp, k.logw, k.rows)
/-- The counters of a sketch, their bytes, and its symmetric limit (R293). -/
def Sketch.count (k : Sketch) : Nat := k.rows * 2 ^ k.logw
def Sketch.bytes (k : Sketch) : Nat := k.width / 8
def Sketch.size (k : Sketch) : Nat := k.count * k.bytes
def Sketch.lim (k : Sketch) : Int := 2 ^ (k.width - 1) - 1
/-- The address of a counter by its number, rows ascending. -/
def Sketch.addr (k : Sketch) (i : Nat) : Nat := k.cadr + i * k.bytes
/-- Beats of 64 bytes that its counters take. -/
def Sketch.groups (k : Sketch) : Nat := (k.size + 63) / 64

/-! ### Counter operations (18_sketches.md R293, R296, R307) -/

/-- A counter's pattern as it is read, and whether it was −2^(n−1). -/
def Sketch.value (k : Sketch) (x : Nat) : Int × Bool :=
  let v := toSigned k.width x
  if v < -k.lim then (-k.lim, true) else (v, false)
/-- A value brought into the symmetric range, and whether it lay outside. -/
def Sketch.clamp (k : Sketch) (v : Int) : Int × Bool := (satInt v (-k.lim) k.lim, decide (v < -k.lim) || decide (k.lim < v))
/-- A counter rescaled by 2^(−k) (R307). -/
def Sketch.rescale (k : Sketch) (sh : Int) (v : Int) : Int × Bool :=
  k.clamp (if 0 ≤ sh then (roundInt .rne (decide (v < 0)) v.natAbs (2 ^ sh.toNat)).1 else v * 2 ^ (-sh).toNat)
/-- A sketch of which only the counter width is known. -/
def ofWidth (w : Nat) : Sketch := { sketchOf 0 with width := w }
/-- The bytes of the word that an operation acts on. -/
def CtrOp.bytes : CtrOp → Nat
  | .add w _ | .scale w _ => w / 8
  | .flags _ => 8
/-- An operation on the pattern of its word: the new pattern, whether the flag of the counter's row is set, and whether the counter left its range. -/
def CtrOp.run (old : Nat) : CtrOp → Nat × Bool × Bool
  | .add w x =>
    let v := (ofWidth w).value old
    let r := (ofWidth w).clamp (v.1 + x)
    (ofInt w r.1, r.2 || v.2, r.2)
  | .scale w k =>
    let v := (ofWidth w).value old
    let r := (ofWidth w).rescale k v.1
    (ofInt w r.1, r.2 || v.2, r.2)
  | .flags x => (old ||| x, false, false)

end Sys2Proof.Machine
end

