-- ==== Sys2Proof/Machine/Sync.lean ====
section
/-! DEFINITION. Row bytes, waking a row, and the shared things rows wait for: core queues and links (09_memory_sync.md R165 to R170;
26_combinators.md R384, R385), mailbox slots (R183), transfer barriers (13_engines.md R252), range locks (07_memory_model.md R146)
and host fault ring records (23_stack_fabric.md R356). -/

namespace Sys2Proof.Machine

/-! ### Row bytes (R23) -/

def State.rowGet (s : State) (rid off n : Nat) : Nat := mread s.mem (rowAddr rid + off) n
def State.rowPut (s : State) (rid off n v : Nat) : State := { s with mem := mwrite s.mem (rowAddr rid + off) (bytesOf n v) }
/-- Scalar register `k` of a row. -/
def State.greg (s : State) (rid k : Nat) : Nat := s.rowGet rid (8 * k) 8
/-- Bytes of a row set to zero. -/
def State.rowZero (s : State) (rid off n : Nat) : State := { s with mem := msplice s.mem (rowAddr rid + off) n [] }
/-- A row's own cells. -/
def State.rowCells (s : State) (rid : Nat) : Mem := mslice s.mem (rowAddr rid) 1024

/-! ### Small list helpers -/

def insBy (key : Nat → Nat) (x : Nat) : List Nat → List Nat
  | [] => [x]
  | y :: l => if key x < key y then x :: y :: l else y :: insBy key x l
/-- A stable order by key. -/
def sortBy (key : Nat → Nat) : List Nat → List Nat
  | [] => []
  | x :: l => insBy key x (sortBy key l)
/-- Rows whose control entry satisfies a test, in ascending order. -/
def State.rowsWhere (s : State) (p : Nat → Ctl → Bool) : List Nat := (s.ctl.filter fun e => p e.1 e.2).map fun e => e.1

/-! ### Waking (R39, R164, R268) -/

/-- The port that writes a row back (R41): until that ends, accesses from outside wait, and the row is not free. -/
def State.backPort (s : State) (rid : Nat) : Option Port :=
  (s.coreOf (coreOfRid rid)).ports.findSome? fun e => match e.2 with
    | some p => if p.row = rowOfRid rid ∧ p.phase = .writeback then some p else none
    | none => none
/-- Whether a row is being written back. -/
def State.writingBack (s : State) (rid : Nat) : Bool := (s.backPort rid).isSome
/-- When a row that enters READY now does so for the turn scheduler: the last cycle of its write-back, or this cycle (R41, R44). -/
def State.readyFrom (s : State) (rid : Nat) : Nat :=
  match s.backPort rid with
  | some p => max s.cycle (p.busy - 1)
  | none => s.cycle
/-- A row enters READY (R44): its bundle count starts from zero, and it has no place ahead of others (R42, R48). -/
def State.enterReady (s : State) (rid : Nat) : State :=
  let at_ := s.readyFrom rid
  let s := s.modCtl rid fun c => { c with state := .ready, wait := 0, wake := 0 }
  s.modThr rid fun t => { t with readyAt := at_, riseAt := at_, effPri := (s.ctlOf rid).pri.toNat, waitArg := 0, turn := 0, first := false }
/-- The device made a transition of a control entry in this cycle (R38). -/
def State.moved (s : State) (rid : Nat) : State := s.modThr rid fun t => { t with movedAt := some s.cycle }
/-- The device makes a row READY (R39). -/
def State.makeReady (s : State) (rid : Nat) : State := (s.enterReady rid).moved rid

/-- The effective priority of a READY row (R44): it rises by one level, to at most 3, for each 16 x `TURNLEN` cycles since it entered READY or last
rose. -/
def State.effNow (s : State) (rid : Nat) : Nat :=
  let t := s.thrOf rid
  min 3 (t.effPri + (s.cycle - t.riseAt) / (16 * (s.cs (coreOfRid rid)).turnlen.toNat))
/-- A thread that waits READY when `TURNLEN` changes (R44): the levels it has risen by under the old length, and where its time reaches the new one,
one level more in the next cycle, from which its time counts again. -/
def Thr.newLength (t : Thr) (now old new : Nat) : Thr :=
  let n := (now - t.riseAt) / (16 * old)
  let at_ := t.riseAt + 16 * old * n
  { t with effPri := min 3 (t.effPri + n), riseAt := if 16 * new ≤ now - at_ then now + 1 - 16 * new else at_ }
/-- The loaded core state of a core changed by a write of `TURNLEN`. -/
def State.writeTurnlen (s : State) (core : Nat) (f : CState → CState) : State :=
  let old := (s.cs core).turnlen.toNat
  let new := (f (s.cs core)).turnlen.toNat
  let renew := fun (e : Nat × Thr) =>
    if coreOfRid e.1 = core ∧ (s.ctlOf e.1).state = .ready then (e.1, e.2.newLength s.cycle old new) else e
  State.modLoaded { s with thr := s.thr.map renew } core f

/-- Whether a row waits with `WAIT` = w, BLOCKED or SLEEPING, or HELD over such a state. -/
def State.waits (s : State) (rid w : Nat) : Bool :=
  let c := s.ctlOf rid
  let t := s.thrOf rid
  (c.wait.toNat == w) && ((c.state == .blocked) || (c.state == .sleeping)
    || ((c.state == .held) && ((t.saved == .blocked) || (t.saved == .sleeping))))

/-- The awaited event of a row has come: READY, or for a HELD row its saved state (R268). -/
def State.wakeRow (s : State) (rid : Nat) : State :=
  let c := s.ctlOf rid
  if (c.state == .blocked) || (c.state == .sleeping) then s.makeReady rid
  else if (c.state == .held) && (((s.thrOf rid).saved == .blocked) || ((s.thrOf rid).saved == .sleeping)) then
    s.modThr rid fun t => { t with saved := .ready, waitArg := 0 }
  else s

def State.wakeAll (s : State) (l : List Nat) : State := l.foldl (fun s r => s.wakeRow r) s

/-- Rows of one core, or of all its cluster, that wait with `WAIT` = w, in blocking order (R164). -/
def State.waiters (s : State) (inScope : Nat → Bool) (w : Nat) : List Nat :=
  sortBy (fun r => (s.thrOf r).blockedAt) (s.rowsWhere fun r _ => inScope r && s.waits r w)
def onCore (core : Nat) (rid : Nat) : Bool := coreOfRid rid == core
def inCluster (k : Nat) (rid : Nat) : Bool := clusterOfRid rid == k

/-! ### Queues (R165 to R168) -/

/-- A queue by place: a core queue, a FIFO of a vertical pair, or a link or farm queue of a cluster. The FIFOs are part of the core state that a
tenant switch saves and restores (23_stack_fabric.md R345), so each tenant has its own contents of them: both cores of the pair reach those of
their own tenant, which stand with the lower core's state (DESIGN CHOICE; entry 106). -/
inductive QRef where
  | core (core q : Nat)
  | pair (core q ten : Nat)
  | link (cluster i : Nat)
  deriving DecidableEq, Repr, Inhabited

/-- The leaf record of a nest row. -/
def State.leafOf (s : State) (rid : Nat) : Option GNode :=
  match (s.thrOf rid).nest with
  | none => none
  | some (slot, g) =>
    match tget none (s.cluOf (clusterOf (coreOfRid rid))).nests slot with
    | none => none
    | some n => n.gnodes[g]?

/-- What queue number `q` names for a row (R165, R384): none for a q6 or q7 that is not wired. -/
def State.qref (s : State) (rid q : Nat) : Option QRef :=
  let core := coreOfRid rid
  let plain : QRef := if q = 8 ∨ q = 9 then .pair (pairCore core) q (s.rowTenant rid) else .core core q
  match (s.thrOf rid).nest with
  | some _ =>
    if q = 6 ∨ q = 7 then
      match s.leafOf rid with
      | some g => (if q = 6 then g.inq else g.outq).map (QRef.link (clusterOf core))
      | none => none
    else some plain
  | none => some plain

def State.queueOf (s : State) : QRef → Queue
  | .core c q => tget {} (s.cs c).queues q
  | .pair c q ten => tget {} (s.csOf c ten).queues q
  | .link k i => tget {} (s.cluOf k).links i
def State.modQueue (s : State) (r : QRef) (f : Queue → Queue) : State :=
  match r with
  | .core c q => s.modLoaded c fun x => { x with queues := tset x.queues q (f (tget {} x.queues q)) }
  | .pair c q ten => s.modCs c ten fun x => { x with queues := tset x.queues q (f (tget {} x.queues q)) }
  | .link k i => s.modClu k fun x => { x with links := tset x.links i (f (tget {} x.links i)) }

/-- The base depth of a queue (R165, R385). -/
def QRef.depth : QRef → Nat
  | .pair _ _ _ => 16
  | .core _ _ | .link _ _ => 8

/-- Whether a queue can take one more entry or kept slot (R166, R385). -/
def State.canPush (s : State) (r : QRef) : Bool :=
  let q := s.queueOf r
  decide (q.items.length + q.slots.length < r.depth + q.lent) ||
    match r with
    | .core _ _ | .pair _ _ _ => false
    | .link k _ => decide (q.lent < 56) && decide ((s.cluOf k).lent < 4096)

/-- Room taken for one more entry or kept slot: a lendable slot once the base slots are full (R385). -/
def State.takeRoom (s : State) (r : QRef) : State :=
  let q := s.queueOf r
  match r with
  | .core _ _ | .pair _ _ _ => s
  | .link k _ =>
    if q.items.length + q.slots.length < r.depth + q.lent then s
    else (s.modQueue r fun q => { q with lent := q.lent + 1 }).modClu k fun c => { c with lent := c.lent + 1 }

/-- Room given back: a lent slot first (R385). -/
def State.giveRoom (s : State) (r : QRef) : State :=
  match r with
  | .core _ _ | .pair _ _ _ => s
  | .link k _ =>
    if (s.queueOf r).lent = 0 then s
    else (s.modQueue r fun q => { q with lent := q.lent - 1 }).modClu k fun c => { c with lent := c.lent - 1 }

/-- Rows that wait to pop from a queue, or to push to it; for a link, pushers of every link of the cluster (R385). -/
def State.qWaiters (s : State) (r : QRef) (push : Bool) : List Nat :=
  let fits : QRef → Bool := fun x => match r, x with
    | .link k _, .link k' _ => if push then k == k' && s.canPush x else x == r
    | _, _ => x == r
  sortBy (fun i => (s.thrOf i).blockedAt) (s.rowsWhere fun rid c =>
    (c.state == .blocked) && (c.wait.toNat == 1) && (c.wake.toNat / 16 == bit push)
      && (match s.qref rid (c.wake.toNat % 16) with | some x => fits x | none => false))

/-- Rows that are HELD over such a wait; pushers only where there is room. -/
def State.qHeld (s : State) (r : QRef) (push : Bool) : List Nat :=
  let fits : QRef → Bool := fun x => if push then s.canPush x && (match r, x with | .link k _, .link k' _ => k == k' | _, _ => x == r) else x == r
  s.rowsWhere fun rid c => (c.state == .held) && s.waits rid 1 && (c.wake.toNat / 16 == bit push)
    && (match s.qref rid (c.wake.toNat % 16) with | some x => fits x | none => false)

/-- Reservations of unreserved entries and of free slots for blocked poppers and pushers, in blocking order (R168). -/
def serveQueue : Nat → QRef → State → State
  | 0, _, s => s
  | n + 1, r, s =>
    match s.qWaiters r false, (s.queueOf r).items.findIdx? fun i => i.resv.isNone with
    | w :: _, some i =>
      serveQueue n r ((s.modQueue r fun q => { q with items := modAt q.items i fun x => { x with resv := some w } }).makeReady w)
    | _, _ =>
      match s.qWaiters r true with
      | [] => s
      | w :: _ =>
        match s.qref w ((s.ctlOf w).wake.toNat % 16) with
        | none => s
        | some x =>
          if s.canPush x then
            serveQueue n r (((s.takeRoom x).modQueue x fun q => { q with slots := q.slots ++ [w] }).makeReady w)
          else s

/-- A queue's waiters served after it changed: blocked rows by reservation, HELD rows by their saved state (R268). No more rows wait than have a
control entry. -/
def State.serve (s : State) (r : QRef) : State :=
  let s := serveQueue s.ctl.length r s
  let s := if (s.queueOf r).items.any fun i => i.resv.isNone then s.wakeAll (s.qHeld r false) else s
  s.wakeAll (s.qHeld r true)

/-- A value appended (R166), into the slot kept for the row when there is one. None when the queue has no room. -/
def State.push (s : State) (r : QRef) (rid : Nat) (v : W) : Option State :=
  let put : State → State := fun s => (s.modQueue r fun q => { q with items := q.items ++ [{ value := v, resv := none }] }).serve r
  if (s.queueOf r).slots.contains rid then some (put (s.modQueue r fun q => { q with slots := q.slots.erase rid }))
  else if s.canPush r then some (put (s.takeRoom r))
  else none

/-- The oldest entry not reserved for another row, taken (R167). A reservation of the row is used up by it, whichever entry it takes (R168). -/
def State.pop (s : State) (r : QRef) (rid : Nat) : Option (W × State) :=
  match (s.queueOf r).items.findIdx? fun i => i.resv.isNone || i.resv == some rid with
  | none => none
  | some i =>
    let v := ((s.queueOf r).items[i]?.map (·.value)).getD 0
    some (v, ((s.modQueue r fun q => { q with items := (q.items.eraseIdx i).map fun x => if x.resv = some rid then { x with resv := none } else x
      }).giveRoom r).serve r)

/-! ### Places kept for woken rows (R164)

A row that waits for a place in a matrix queue, a launch queue, a message hub, a core's query buffers or the inbound queue of a base-die core is
woken when one is free, and the place is kept for it: `claim` is 5, 8, 0x1A, 10, or 0x1B + 256 times the core's number. -/

/-- The octet hub of a row. -/
def hubOf (rid : Nat) : Nat := octetOf (coreOfRid rid)
/-- Whether an address lies in a bank of a BUSY octet (24_tenancy_boot.md R361). -/
def State.busyBank (s : State) (pa : Nat) : Bool :=
  match rowAt pa with
  | some rid => (s.octOf (hubOf rid)).busy
  | none => false
/-- Bytes as a load at their home returns them: zero from a BUSY bank (25_platform_cases.md R368). -/
def State.homeBytes (s : State) (pa n : Nat) : List Byte := if s.busyBank pa then List.replicate n 0 else bytesOf n (s.peekSeen pa n)
/-- Rows of a scope that hold a claim. -/
def State.claims (s : State) (inScope : Nat → Bool) (code : Nat) : Nat := (s.thr.filter fun e => inScope e.1 && e.2.claim == code).length
/-- Places that a row may take: all that no other row's claim keeps. -/
def State.mayTake (s : State) (rid : Nat) (inScope : Nat → Bool) (code free : Nat) : Bool :=
  (s.thrOf rid).claim == code || decide (s.claims inScope code < free)
/-- Waiting rows woken in blocking order, each with a claim, while places are free; a HELD row is woken without one (R268). -/
def State.serveClaims : Nat → (State → List Nat) → (Nat → Bool) → Nat → Nat → State → State
  | 0, _, _, _, _, s => s
  | n + 1, cands, inScope, code, free, s =>
    if free ≤ s.claims inScope code then s else
    match (cands s).filter fun r => (s.ctlOf r).state == .blocked with
    | [] => s.wakeAll (cands s)
    | w :: _ => State.serveClaims n cands inScope code free ((s.wakeRow w).modThr w fun t => { t with claim := code })
/-- Waiters for a send buffer of an octet (R172). -/
def State.serveHub (s : State) (oct : Nat) : State :=
  let inScope : Nat → Bool := fun r => !isBase r && hubOf r == oct
  s.serveClaims 64 (fun s => (s.waiters inScope 1).filter fun r => (s.ctlOf r).wake.toNat == 0x1A) inScope 0x1A
    (16 - (s.octOf oct).hub.length)
/-- Waiters for a place in a core's matrix queue (12_vector_matrix.md R223). -/
def State.mqServe (s : State) (core : Nat) : State :=
  s.serveClaims 64 (fun s => s.waiters (onCore core) 5) (onCore core) 5 (8 - (s.cs core).mq.length)
/-- Waiters for a query buffer of a core (18_sketches.md R305). -/
def State.serveQbufs (s : State) (core : Nat) : State :=
  s.serveClaims 64 (fun s => (s.waiters (onCore core) 10).filter fun r => (s.thrOf r).waitArg == 1) (onCore core) 10
    (16 - (s.coreOf core).qbufs.length)
/-- Waiters for a place in a tenant's launch queue (20_scheduling.md R319). -/
def State.serveLaunch (s : State) (ten : Nat) : State :=
  let inScope : Nat → Bool := fun r => s.rowTenant r == ten
  s.serveClaims 64 (fun s => s.waiters inScope 8) inScope 8 (256 - (s.tenOf ten).launchq.length)
/-- Waiters for a place in the inbound queue of a base-die core (22_near_memory.md R341). -/
def State.serveInbound (s : State) (b : Nat) : State :=
  s.serveClaims 64 (fun s => (s.waiters (fun _ => true) 1).filter fun r =>
      (s.ctlOf r).wake.toNat == 0x1B && (s.thrOf r).waitArg == b) (fun _ => true) (0x1B + 256 * b) (64 - (s.bdcOf b).inq.length)
/-- A row's claim given back to the next waiter. -/
def State.dropClaim (s : State) (rid : Nat) : State :=
  let c := (s.thrOf rid).claim
  let s := s.modThr rid fun t => { t with claim := 0 }
  if c = 0 then s else if c = 5 then s.mqServe (coreOfRid rid) else if c = 8 then s.serveLaunch (s.rowTenant rid)
  else if c = 0x1A then s.serveHub (hubOf rid) else if c = 10 then s.serveQbufs (coreOfRid rid) else s.serveInbound (c / 256)

/-! ### Mailbox slots (R183) -/

/-- The slot an issue of a row takes: the one kept for it, else the lowest free one (R164, R241). -/
def State.slotFor (s : State) (rid : Nat) : Option Nat :=
  let m := (s.cs (coreOfRid rid)).mbox
  match m.find? fun e => e.2.kept && e.2.owner == some rid with
  | some e => some e.1
  | none => (List.range 64).find? fun i => !(m.any fun e => e.1 == i)

/-- A slot reserved for a command of a row. -/
def State.takeSlot (s : State) (rid tag : Nat) : State :=
  s.modLoaded (coreOfRid rid) fun c => { c with mbox := tset c.mbox tag { owner := some rid } }

/-- A slot freed: it is kept for the earliest issue that is BLOCKED for one, which is woken (R164, R183); with none, HELD rows that waited for
one resume when they are released (R268). Rows of a tenant that does not hold the core are HELD. -/
def State.freeSlot (s : State) (core ten tag : Nat) : State :=
  let s := s.modCs core ten fun c => { c with mbox := terase c.mbox tag }
  let cands := (s.waiters (onCore core) 3).filter fun r => (s.thrOf r).waitArg == 1 && s.rowTenant r == ten
  match cands.filter fun r => (s.ctlOf r).state == .blocked && (s.coreOf core).loaded == ten with
  | [] => s.wakeAll (cands.filter fun r => (s.ctlOf r).state == .held)
  | w :: _ => (s.modLoaded core fun c => { c with mbox := tset c.mbox tag { owner := some w, kept := true } }).wakeRow w

/-- A completion fills its slot (R183, R184) and wakes a row in `WAITMSG`, or one that sleeps on it; a row that became NULL gets none, but a row
of a castled team finds its message when it is restored. -/
def State.post (s : State) (core ten tag status info : Nat) : State :=
  match (s.csOf core ten).mbox.find? fun e => e.1 == tag with
  | none => s
  | some (_, slot) =>
    let msg : W := BitVec.ofNat 64 (tag * 2 ^ 56 + status % 256 * 2 ^ 48 + info % 2 ^ 48)
    let (n, s) := s.tick
    let fill : State → State := fun s => s.modCs core ten fun c => { c with mbox := tset c.mbox tag { slot with msg := some msg, order := n } }
    match slot.owner with
    | none => if slot.away.isSome then fill s else s.freeSlot core ten tag
    | some o =>
      let s := fill s
      if (s.waits o 3 && (s.thrOf o).waitArg != 1) || (s.waits o 12 && (s.thrOf o).waitArg == tag) then s.wakeRow o else s

/-- The queues in which a row can hold a reservation. -/
def State.qrefsOf (s : State) (rid : Nat) : List QRef := (List.range 10).filterMap fun q => s.qref rid q

/-- A mailbox slot kept for a row given back to the next issue that waits for one (R164, 13_engines.md R241). -/
def State.dropKept (s : State) (rid : Nat) : State :=
  let core := coreOfRid rid
  ((s.cs core).mbox.filter fun e => e.2.kept && e.2.owner == some rid).foldl (fun s e => s.freeSlot core (s.coreOf core).loaded e.1) s
/-- A row's reservations and its claim given back to the next waiters (R164). -/
def State.dropReservations (s : State) (rid : Nat) : State :=
  let s := (s.dropClaim rid).dropKept rid
  (s.qrefsOf rid).foldl (fun s r =>
    let q := s.queueOf r
    if q.slots.contains rid || q.items.any fun i => i.resv == some rid then
      let s := if q.slots.contains rid then (s.modQueue r fun q => { q with slots := q.slots.erase rid }).giveRoom r else s
      (s.modQueue r fun q => { q with items := q.items.map fun i => if i.resv = some rid then { i with resv := none } else i }).serve r
    else s) s

/-! ### Transfer barriers (R252, R253) -/

/-- Rows of a tenant whose `TBWAIT` on barrier `i` of a core now holds are woken; a HELD one in its saved state (R268). -/
def State.tbWake (s : State) (core ten i : Nat) : State :=
  let n := (tget 0 (s.csOf core ten).tbs i : BitVec 16).toNat
  s.wakeAll ((s.waiters (onCore core) 9).filter fun r =>
    ((s.ctlOf r).wake.toNat == i) && decide ((s.thrOf r).waitArg ≤ n) && s.rowTenant r == ten)
/-- One arrival at a transfer barrier, in the core or in the image of a tenant that does not hold it (R327). An arrival in the cycle in which
`TBINIT` applies is counted after it (R253), so the core notes the arrivals of the cycle. -/
def State.tbArrive (s : State) (core ten i : Nat) : State :=
  let s := s.modCs core ten fun c => { c with tbs := tset c.tbs i (tget 0 c.tbs i + 1) }
  let s := if (s.coreOf core).loaded = ten then s.modCore core fun c => { c with tbNow := (c.tbNow.filter fun e => e.1 == s.cycle) ++ [(s.cycle, i)] } else s
  s.tbWake core ten i
/-- `TBINIT` of barrier `i` of a core (R253). -/
def State.tbInit (s : State) (core i v : Nat) : State :=
  let n := ((s.coreOf core).tbNow.filter fun e => e == (s.cycle, i)).length
  (s.modLoaded core fun c => { c with tbs := tset c.tbs i (BitVec.ofNat 16 (v + n)) }).tbWake core (s.coreOf core).loaded i

/-! ### Range locks (R146 to R148) -/

/-- The free entries of a cluster's table. -/
def State.locksFree (s : State) (k : Nat) : Nat := 256 - (s.cluOf k).locks.length
/-- Whether a row has left its wait for range-lock entries for a time: it is HELD by a pre-emption or a castling (R164). -/
def State.leftLocks (s : State) (rid : Nat) : Bool :=
  (s.ctlOf rid).state == .held && ((s.thrOf rid).heldBy == some .preempt || (s.thrOf rid).heldBy == some .castle)
/-- Issues that wait for entries, in blocking order, woken or not. -/
def State.lockClaims (s : State) (k : Nat) : List Nat :=
  sortBy (fun r => (s.thrOf r).blockedAt) (s.rowsWhere fun r _ => inCluster k r && (s.thrOf r).lockClaim != 0 && !s.leftLocks r)
/-- The orders of the bar items that wait for entries of a cluster (R241), and those of the commands that wait for the entries of a page that has been
served (17_fault_replay.md R290). -/
def State.barClaims (s : State) (k : Nat) : List Nat :=
  (s.ten.flatMap fun t => (t.2.bar.filter fun b => b.need != 0 && b.cluster == k).map (·.order)) ++ (s.cluOf k).late.map (·.1)
/-- The commands that wait so take their entries in their order, while the entries suffice and nothing waits before them. -/
def State.serveLate : Nat → State → Nat → State
  | 0, s, _ => s
  | n + 1, s, k =>
    match (s.cluOf k).late with
    | [] => s
    | (o, l) :: rest =>
      if l.length ≤ s.locksFree k && (s.lockClaims k).all (fun r => decide (o < (s.thrOf r).blockedAt)) && (s.barClaims k).all (fun x => decide (o ≤ x)) then
        State.serveLate n (s.modClu k fun c => { c with late := rest, locks := c.locks ++ l }) k
      else s
/-- Whether a command waits for such entries: it does not run. -/
def State.lateFor (s : State) (k id : Nat) : Bool := (s.cluOf k).late.any fun x => x.2.any fun l => l.id == id
/-- The earliest waiting issue woken once its claim fits and no bar item waits before it. With none, rows that left the wait and that the free
entries suffice for resume when they are released (R268). -/
def State.serveLocks (s : State) (k : Nat) : State :=
  let s := s.serveLate (s.cluOf k).late.length k
  match s.lockClaims k with
  | [] => s.wakeAll (s.rowsWhere fun r _ => inCluster k r && (s.thrOf r).lockClaim != 0 && s.leftLocks r
      && decide ((s.thrOf r).lockClaim ≤ s.locksFree k) && (s.barClaims k).isEmpty)
  | w :: _ => if (s.thrOf w).lockClaim ≤ s.locksFree k && !((s.barClaims k).any fun o => decide (o < (s.thrOf w).blockedAt)) then s.wakeRow w else s
/-- A command's entries freed (R148), and those it waits for no more. -/
def State.freeLocks (s : State) (k id : Nat) : State :=
  (s.modClu k fun c => { c with locks := c.locks.filter fun l => l.id != id
                                late := c.late.filter fun x => !(x.2.any fun l => l.id == id) }).serveLocks k
/-- Whether an issue of a row may take `n` entries: none waits before it, and they are free. -/
def State.locksGrant (s : State) (rid n : Nat) : Bool :=
  let k := clusterOfRid rid
  let waits := (s.lockClaims k).contains rid
  decide (n ≤ s.locksFree k) && !((s.barClaims k).any fun o => !waits || decide (o < (s.thrOf rid).blockedAt)) &&
    (match s.lockClaims k with
     | [] => true
     | w :: _ => w == rid)
/-- Where a byte of a page stood when a lock was registered: a page that has migrated since is one location in both frames (16_translation.md
R285). None for a frame that the lock's page has left. -/
def Lock.origin (l : Lock) (a : Nat) : Option Nat :=
  match l.moved.find? fun m => m.2 == a / 65536 * 65536 with
  | some m => some (m.1 + a % 65536)
  | none => if l.moved.any fun m => m.1 == a / 65536 * 65536 then none else some a
/-- Whether a lock covers some byte of `[a, a + n)`, which lie in one page. -/
def Lock.covers (l : Lock) (a n : Nat) : Bool :=
  match l.origin a with
  | some a => decide (l.lo < a + n) && decide (a ≤ l.hi)
  | none => false
/-- Whether a lock covers all of `[a, a + n)`, which lie in one page. -/
def Lock.holds (l : Lock) (a n : Nat) : Bool :=
  match l.origin a with
  | some a => decide (l.lo ≤ a) && decide (a + n ≤ l.hi + 1)
  | none => false
/-- A lock after the page of one frame has moved to another. -/
def Lock.move (l : Lock) (old new : Nat) : Lock :=
  if l.moved.any fun m => m.2 == old then { l with moved := l.moved.map fun m => if m.2 = old then (m.1, new) else m }
  else if l.covers old 65536 then { l with moved := l.moved ++ [(old, new)] } else l
/-- Whether bytes `[a, a + n)` are locked against a load, or against a store (R147). -/
def State.rangeLocked (s : State) (k a n : Nat) (store : Bool) : Bool :=
  (s.cluOf k).locks.any fun l => l.covers a n && (l.write || store)
/-- Whether a byte of a row is locked by a matrix command (R228). -/
def State.matrixLocked (s : State) (rid : Nat) : Bool :=
  (s.cluOf (clusterOfRid rid)).locks.any fun l => l.matrix && decide (l.lo < rowAddr rid + 1024) && decide (rowAddr rid ≤ l.hi)

/-! ### Host fault ring records (R356) -/

/-- A record handed to the host fault ring; HFR_RECORD writes it. -/
def State.hfr (s : State) (ty ten : Nat) (payload : List W) : State :=
  s.modPkg fun p => { p with hfrHeld := p.hfrHeld ++ [{ ty := ty, ten := ten, rid := p.hfrNextId, payload := payload }],
                             hfrNextId := (p.hfrNextId + 1) % 65536 }
/-- A record that asks for an answer, and its id. -/
def State.hfrAsk (s : State) (ty ten : Nat) (payload : List W) (about : HfrAbout) : Nat × State :=
  let id := s.pkg.hfrNextId
  (id, (s.hfr ty ten payload).modPkg fun p => { p with hfrOpen := p.hfrOpen ++ [(id, about)] })

/-! ### Host records about bar items (16_translation.md R284; 23_stack_fabric.md R356) -/

/-- A bar entry changed in place. -/
def State.modBarEntry (s : State) (ten i : Nat) (f : BarEntry → BarEntry) : State :=
  s.modTen ten fun t => { t with bar := modAt t.bar i f }

/-- What a bar entry is, in a host record: its kind, and the numbers that name the item. -/
def BarWhat.name : BarWhat → W
  | .engine o c => BitVec.ofNat 64 (1 * 2 ^ 56 + o * 2 ^ 32 + c.tag)
  | .matrix c => BitVec.ofNat 64 (2 * 2 ^ 56 + c)
  | .stream c r g => BitVec.ofNat 64 (3 * 2 ^ 56 + g * 2 ^ 48 + c * 2 ^ 16 + r % 2048)
  | .query c o => BitVec.ofNat 64 (4 * 2 ^ 56 + o % 2 ^ 32 * 2 ^ 16 + c)
  | .posted i => BitVec.ofNat 64 (5 * 2 ^ 56 + i % 2 ^ 48)
  | .nearbank b i => BitVec.ofNat 64 (6 * 2 ^ 56 + i % 2 ^ 32 * 2 ^ 16 + b)
  | .fabric p => BitVec.ofNat 64 (7 * 2 ^ 56 + p)
  | .gone => 0
/-- The re-entry point of an item (R250), given the address of its fault, and its command, where it has one. That of a stream is the element whose
refill stopped, which is the address (13_engines.md R255). -/
def State.barPoint (s : State) (ten va : Nat) : BarWhat → Nat × BitVec 512
  | .engine _ c => (c.pos, c.spec)
  | .matrix core => match (s.csOf core ten).mq with
    | h :: _ => (h.pos, h.block)
    | [] => (0, 0)
  | .stream _ _ _ => (va, 0)
  | .query core order => match (s.coreOf core).qbufs.find? fun q => q.order == order with
    | some q => (q.ests.length, q.idx)
    | none => (0, 0)
  | .posted id => match s.pip.find? fun p => p.id == id with
    | some p => (p.pos, p.header)
    | none => (0, 0)
  | .nearbank bank id => match (tget [] s.banks bank).find? fun c => c.id == id with
    | some c => (0, c.spec)
    | none => (0, 0)
  | .fabric _ | .gone => (0, 0)
/-- The payload of a bar service record (R356), the bar entry of R250: the item, its cause with the during-walk and write flags, the address, the
IPA, the re-entry point, and the first two of the command's dwords: a record has seven payload dwords (entry 30). -/
def State.barPayload (s : State) (ten : Nat) (b : BarEntry) : List W :=
  let p := s.barPoint ten b.va b.what
  [b.what.name, BitVec.ofNat 64 (b.cause.code + bit b.write * 256 + bit b.during * 512), BitVec.ofNat 64 b.va, BitVec.ofNat 64 b.ipa,
   BitVec.ofNat 64 p.1] ++ (List.range 2).map fun i => BitVec.ofNat 64 (dword p.2 i)
/-- The entry of a page that is served now: faults of one tenant on one page are served one at a time (R284). -/
def State.firstOn (s : State) (ten page : Nat) : Option Nat :=
  (s.tenOf ten).bar.findIdx? fun b => b.va / 65536 == page && !b.far && !b.served && !b.refused
/-- The host asked for the service of a page's entry that is next, where the host serves it. -/
def State.askNext (s : State) (ten page : Nat) : State :=
  match s.firstOn ten page with
  | none => s
  | some i => match (s.tenOf ten).bar[i]? with
    | none => s
    | some b =>
      if !b.host || b.record.isSome then s else
      let (id, s) := s.hfrAsk 2 ten (s.barPayload ten b) (.bar ten)
      s.modBarEntry ten i fun b => { b with record := some id }
/-- A tenant's entries for an item that is no more leave the bar. One whose service the host has been asked for stays until the answer, for faults on
one page are served one at a time (R284); else the host is asked for the entry of the page that comes next. -/
def State.dropBar (s : State) (ten : Nat) (what : BarWhat) : State :=
  let gone := (s.tenOf ten).bar.filter fun b => b.what == what && b.record.isNone
  let s := s.modTen ten fun t => { t with
    bar := (t.bar.filter fun b => !(b.what == what && b.record.isNone)).map fun b => if b.what = what then { b with what := .gone, need := 0 } else b }
  gone.foldl (fun s b => (s.askNext ten (b.va / 65536)).serveLocks b.cluster) s

end Sys2Proof.Machine
end

