-- ==== Sys2Proof/Machine/Rows.lean ====
section
/-! DEFINITION. Row states and control entries: how rows close, exit, become NULL, are held and released, and what control stores do
(02_rows.md R28 to R49; 09_memory_sync.md R176, R184; 15_traps.md R267, R268). -/

namespace Sys2Proof.Machine

/-! ### What leaving a state undoes -/

/-- A row of a quad leaves READY or OPEN: the quad may be idle from now on (24_tenancy_boot.md R363). -/
def State.noteIdle (s : State) (rid : Nat) : State :=
  if isBase rid then s else s.modQuad (quadOfCore (coreOfRid rid)) fun q => { q with idleSince := s.cycle }

/-- Packets that stand in q10 for a row are discarded and counted (R176). -/
def State.dropPackets (s : State) (rid : Nat) : State :=
  let core := coreOfRid rid
  let gone := (s.csRow rid).rxq.filter fun p => p.row == rowOfRid rid
  if gone.isEmpty then s else
  (s.modCsRow rid fun c => { c with rxq := c.rxq.filter fun p => p.row != rowOfRid rid }).modCore core fun c =>
    { c with rxdrop := c.rxdrop + BitVec.ofNat 32 gone.length }

/-- Whether stream register `k` of a row is bound (13_engines.md R254). -/
def State.bound (s : State) (rid k : Nat) : Bool := bits (s.rowGet rid (256 + 16 * (k - 24)) 8) 63 63 == 1

/-- A stream unbound: its descriptor cleared, its staging lines, its lock and its place at the bar freed (R256). -/
def State.unbind (s : State) (rid k : Nat) : State :=
  let core := coreOfRid rid
  let s := s.rowZero rid (256 + 16 * (k - 24)) 16
  let s := s.dropBar (s.rowTenant rid) (.stream core rid k)
  match (s.coreOf core).streams.find? fun x => x.rid == rid && x.reg == k with
  | none => s
  | some st =>
    (s.modCore core fun c => { c with streams := c.streams.filter fun x => !(x.rid == rid && x.reg == k) }).freeLocks
      (clusterOfRid rid) st.lock
def State.unbindAll (s : State) (rid : Nat) : State :=
  [24, 25, 26, 27].foldl (fun s k => if s.bound rid k then s.unbind rid k else s) s

/-- The staged elements of a row discarded (R256). -/
def State.unstage (s : State) (rid : Nat) : State :=
  s.modCore (coreOfRid rid) fun c => { c with streams := c.streams.map fun x => if x.rid = rid then { x with vals := [], failed := none, uncorr := false } else x }

/-- A row's queries abandoned; a buffer frees when its reads complete (18_sketches.md R305). -/
def State.abandonQueries (s : State) (rid : Nat) : State :=
  let core := coreOfRid rid
  if !((s.coreOf core).qbufs.any fun q => q.rid == rid && !q.abandoned) then s else
  (s.modCore core fun c => { c with
    qbufs := (c.qbufs.map fun q => if q.rid = rid then { q with abandoned := true } else q).filter fun q =>
      !(q.abandoned && (q.result.isSome || q.failed.isSome)) }).serveQbufs core

/-- The helper entry of a pool row. -/
def State.helperOf (s : State) (rid : Nat) : Option Helper :=
  ((s.csRow rid).helpers.find? fun e => e.1 == rowOfRid rid).map (·.2)
/-- The pool rows of a row's live helpers: slot and pool row (04_scalar.md R104). -/
def State.helpersOf (s : State) (rid : Nat) : List (Nat × Nat) :=
  ((s.csRow rid).helpers.filter fun e => e.2.parent == rowOfRid rid).map fun e => (e.2.slot, e.1)
/-- Whether `HJOIN` with a mask completes (R106): no masked helper is live but in EXITED, and none is still being written back (R41). -/
def State.joinReady (s : State) (rid mask : Nat) : Bool :=
  (s.helpersOf rid).all fun h =>
    !(mask.testBit h.1) ||
      (let r := ridOf (coreOfRid rid) h.2
       ((s.ctlOf r).state == .exited || (s.ctlOf r).state == .null) && !s.writingBack r)
/-- A parent that waits in `HJOIN` woken when its mask holds (R106). -/
def State.wakeParent (s : State) (core parent : Nat) : State :=
  let p := ridOf core parent
  if s.waits p 6 && s.joinReady p (s.ctlOf p).wake.toNat then s.wakeRow p else s
/-- The write-back of a row ends (R41): a NULL row is no helper any more, and a parent that waits for an EXITED or NULL one may be woken (R106). -/
def State.backDone (s : State) (rid : Nat) : State :=
  match s.helperOf rid with
  | none => s
  | some h =>
    let s := if (s.ctlOf rid).state = .null then s.modCsRow rid fun c => { c with helpers := terase c.helpers (rowOfRid rid) } else s
    s.wakeParent (coreOfRid rid) h.parent

/-- A barrier arrival of a waiting row withdrawn (R34, R182); the phase holds an `SSYNC` arrival while another waiting row made one (R181). -/
def State.withdrawArrival (s : State) (rid : Nat) : State :=
  let c := s.ctlOf rid
  let k := clusterOf (coreOfRid rid)
  let ss := (s.rowsWhere fun r x => r != rid && inCluster k r && s.waits r 7 && x.team == c.team && x.wake.toNat % 16 == c.wake.toNat % 16
    && decide (16 ≤ x.wake.toNat)) != []
  s.modClu k fun k =>
    let i := c.team.toNat * 16 + c.wake.toNat % 16
    { k with bars := tset k.bars i (let b := tget {} k.bars i; { b with count := b.count - 1, ss := b.ss && ss }) }

/-- A wait abandoned by a control store (R34). -/
def State.leaveWait (s : State) (rid : Nat) : State :=
  let s := if s.waits rid 7 then s.withdrawArrival rid else s
  let s := s.dropReservations rid
  let s := s.abandonQueries rid
  (s.modThr rid fun t => { t with waitArg := 0, lockClaim := 0 }).serveLocks (clusterOfRid rid)

/-! ### EXITED, NULL, and closing -/

/-- A row that becomes EXITED (R101, R106, R176, R256). -/
def State.exitRow (s : State) (rid : Nat) : State :=
  let s := (s.modCtl rid fun c => { c with state := .exited, wait := 0, wake := 0 }).unbindAll rid
  let s := (s.dropPackets rid).dropReservations rid
  match s.helperOf rid with
  | some h => s.wakeParent (coreOfRid rid) h.parent
  | none => s

/-- A row that becomes NULL: a helper is no longer live once its write-back is over, packets are discarded, completed messages lost, streams
unbound (R33, R41, R104, R106, R176, R184, R256). The thread's record goes with it, `MQPROM` among it: a thread made of the row reads it as TAG
0xFF (DESIGN CHOICE; entry 94). Accesses that wait for the row stay (R38). -/
def State.nullRow (s : State) (rid ltag : Nat) : State :=
  let core := coreOfRid rid
  let s := (s.leaveWait rid).unbindAll rid
  let s := s.modCtl rid fun c => { c with state := .null, wait := 0, wake := BitVec.ofNat 36 (ltag % 16) }
  let s := (s.dropPackets rid).abandonQueries rid
  let done := (s.csRow rid).mbox.filter fun e => e.2.owner == some rid && e.2.msg.isSome
  let s := s.modCsRow rid fun c => { c with
    mbox := c.mbox.map fun e => if e.2.owner = some rid then (e.1, { e.2 with owner := none }) else e }
  let s := done.foldl (fun s e => s.freeSlot core (s.rowTenant rid) e.1) s
  let k := clusterOfRid rid
  let s := s.modClu k fun c => { c with grant := if c.grant = some rid then none else c.grant,
                                        grantq := c.grantq.filter fun r => r != rid }
  let waiting := (s.thrOf rid).deferred
  let s := { s with thr := if waiting = [] then terase s.thr rid else tset s.thr rid { deferred := waiting } }
  if s.writingBack rid then s else s.backDone rid

/-- Whether a control access to a row that is not OPEN applies now: its write-back is over, the device has made no transition of the entry in
this cycle (R38), and none waits before it. -/
def State.ctlFree (s : State) (rid : Nat) : Bool :=
  !s.writingBack rid && (s.thrOf rid).movedAt != some s.cycle && (s.thrOf rid).deferred.isEmpty
/-- The port that holds a row. -/
def State.portOf (s : State) (rid : Nat) : Option Nat :=
  ((s.coreOf (coreOfRid rid)).ports.find? fun e => match e.2 with
    | some p => p.row == rowOfRid rid && p.phase != .writeback
    | none => false).map (·.1)

/-! ### Holding and releasing (R267, R268) -/

/-- A closed row that is not NULL becomes HELD; its entry keeps `WAIT` and `WAKE` (R37). A pre-emption or a castling gives back its
reservations (R164); a switch keeps them (R328). A row that awaits the results of a query abandons its buffer and executes `SKQRY` again
(18_sketches.md R305). -/
def State.holdRow (s : State) (rid : Nat) (why : StopWhy) : State :=
  let st := (s.ctlOf rid).state
  if st = .null ∨ st = .held ∨ st = .opened then s else
  let left : Bool := why == .preempt || why == .castle
  let s := if left then s.dropReservations rid else s
  let asks := s.waits rid 10 && (s.thrOf rid).waitArg != 1
  let s := ((s.unstage rid).abandonQueries rid).noteIdle rid
  let s := ((s.modThr rid fun t => { t with
    saved := if asks then .ready else st, heldBy := some why, turn := 0, first := false
    lockClaim := if left && st != .blocked then 0 else t.lockClaim }).modCtl rid fun c => { c with state := .held }).moved rid
  if left then s.serveLocks (clusterOfRid rid) else s

/-- A HELD row resumes in its saved state (R268). A row that left its wait takes the last place among the waiters (R164), and packets that came for
an EXITED row while it was HELD are discarded (R176). -/
def State.releaseRow (s : State) (rid : Nat) : State :=
  if (s.ctlOf rid).state = .held then
    let st := (s.thrOf rid).saved
    let (n, s) := s.tick
    let s := s.modThr rid fun t => { t with
      heldBy := none, blockedCycle := s.cycle, blockedAt := if t.heldBy = some .preempt ∨ t.heldBy = some .castle then n else t.blockedAt }
    if st = .ready then s.makeReady rid
    else
      let s := (s.modCtl rid fun c => { c with state := st }).moved rid
      if st = .exited then s.dropPackets rid else s
  else s

/-- The mark that a stop leaves on an OPEN row: one that closes or castles it stands over a later switch or pre-emption. -/
def laterStop (old : Option StopWhy) (why : StopWhy) : StopWhy :=
  match old, why with
  | some .abort, _ => .abort
  | some .scrub, .abort => .abort
  | some .scrub, _ => .scrub
  | some .castle, .preempt | some .castle, .switch | some .castle, .gang | some .castle, .gating => .castle
  | some w, .gating => w
  | _, w => w
/-- A stop of one row (R267): an OPEN row stops at its next boundary with `P` = 0 and its chunk committed, any other at once. -/
def State.stopRow (s : State) (rid : Nat) (why : StopWhy) : State :=
  match (s.ctlOf rid).state with
  | .null => s
  | .opened => s.modThr rid fun t => { t with stop := some (laterStop t.stop why) }
  | _ =>
    match why with
    | .abort => ((s.nullRow rid 0).noteIdle rid).moved rid
    | .gating => s
    | w => s.holdRow rid w

/-! ### The tenant fault queue (15_traps.md R262) -/

/-- A fault sent to a tenant's queue with the cycle of the close: its entry goes on its way, or `FQLOST` counts it. -/
def State.queueFault (s : State) (rid : Nat) (cause why : Nat) (addr pc : W) (cyc : Nat) : State :=
  s.modTen (s.rowTenant rid) fun t =>
    let log := bits t.fqbase.toNat 4 0
    if log = 0 ∨ (t.fqtail + BitVec.ofNat 32 t.fqWay.length - t.fqhead).toNat = 2 ^ log then { t with fqlost := t.fqlost + 1 }
    else { t with fqWay := t.fqWay ++ [{ dwords := [BitVec.ofNat 64 (cause * 2 ^ 56 + why * 2 ^ 48 + (nameOf rid).toNat), addr, pc,
                                                    BitVec.ofNat 64 cyc] }] }

/-! ### Uncorrectable control entries (15_traps.md R271) -/

/-- The physical address of a row's control entry. -/
def ctlAddr (rid : Nat) : Nat := 0x1080000_0000 + 16 * rid
/-- The uncorrectable word of a row's control entry. -/
def State.ctlBad (s : State) (rid : Nat) : Option Nat := s.uncorr.find? fun u => u / 16 * 16 == ctlAddr rid
/-- The turn scheduler or a store reads an uncorrectable control entry: a fault-queue entry with `WHY` 3 is written once for each error. -/
def State.ctlReport (s : State) (rid : Nat) : State :=
  match s.ctlBad rid with
  | none => s
  | some u =>
    if (s.thrOf rid).eccSeen then s
    else (s.queueFault rid Cause.uncorr.code 3 (BitVec.ofNat 64 u) 0 s.cycle).modThr rid fun t => { t with eccSeen := true }
/-- A store to word 0 followed by one to word 1 rewrites the entry and clears its error. -/
def State.ctlRewrite (s : State) (rid word : Nat) : State :=
  if (s.ctlBad rid).isNone then s else
  let s := s.ctlReport rid
  if word = 0 then s.modThr rid fun t => { t with eccHalf := true }
  else if (s.thrOf rid).eccHalf then
    State.modThr { s with uncorr := s.uncorr.filter fun u => u / 16 * 16 != ctlAddr rid } rid fun t => { t with eccSeen := false, eccHalf := false }
  else s

/-! ### Control stores (R33 to R37) -/

/-- A store to control word 0 of a row that is neither OPEN nor HELD (R33, R34). -/
def State.ctlStore0 (s : State) (rid : Nat) (v : W) : State :=
  let x := v.toNat
  let c := s.ctlOf rid
  let goal := RowState.ofCode (bits x 63 60)
  let pri := BitVec.ofNat 2 (bits x 55 54)
  let team := BitVec.ofNat 12 (bits x 47 36)
  let ltag := bits x 3 0
  let s := s.modCtl rid fun c => { c with pri := pri, team := if c.state = .null ∨ c.state = .dormant then team else c.team }
  match c.state, goal with
  | .null, some .dormant =>
    if s.matrixLocked rid then s.modCtl rid fun c => { c with wake := BitVec.ofNat 36 ltag }
    else s.modCtl rid fun c => { c with state := .dormant, wait := 0, wake := 0, h := false }
  | .null, _ => s.modCtl rid fun c => { c with wake := BitVec.ofNat 36 ltag }
  | .dormant, some .ready => s.enterReady rid
  | .ready, some .dormant | .blocked, some .dormant | .sleeping, some .dormant =>
    ((s.leaveWait rid).noteIdle rid).modCtl rid fun c => { c with state := .dormant, wait := 0, wake := 0 }
  | .faulted, some .ready => s.enterReady rid
  | .dormant, some .null | .exited, some .null | .faulted, some .null => s.nullRow rid ltag
  | _, _ => s

/-- A store to control word 1 (R35). A READY row that holds a reservation of a queue, or a place kept for it, gives it back to the next waiter (DESIGN
CHOICE; entry 112). -/
def State.ctlStore1 (s : State) (rid : Nat) (v : W) : State :=
  let c := s.ctlOf rid
  let s := s.leaveWait rid
  let s := if c.state = .blocked ∨ c.state = .sleeping then s.enterReady rid else s
  (s.modCtl rid fun c => { c with pc := pcOf v }).modThr rid fun t => { t with fetchTrap := false, mid := false }

/-- A control store to a row that is not OPEN; a HELD row ignores it (R37). -/
def State.ctlStore (s : State) (rid word : Nat) (v : W) : State :=
  let s := s.ctlRewrite rid word
  if (s.ctlOf rid).state = .held then s
  else if word = 0 then s.ctlStore0 rid v else s.ctlStore1 rid v

/-- A control word as a load returns it. No load reaches a row while it is written back (R41). -/
def State.ctlWord (s : State) (rid word : Nat) : W := if word = 0 then (s.ctlOf rid).word0 else (s.ctlOf rid).word1

/-- Compare and swap of a control word of a row that is not OPEN (R36); a HELD row always fails (R37). -/
def State.ctlCas (s : State) (rid word : Nat) (expected new : W) : W × State :=
  let old := s.ctlWord rid word
  (old, if old = expected then s.ctlStore rid word new else s)

/-! ### Writing rows from outside (R49) -/

/-- Whole 8-byte words that a write covers hold no uncorrectable error afterwards, but for control words (R271). -/
def State.clearUncorr (s : State) (pa n : Nat) : State :=
  if s.uncorr.isEmpty then s else
  let cells := (wordsOf pa n false).map cellOf
  { s with uncorr := s.uncorr.filter fun u => !cells.contains u || (clusterHome u).isSome && decide (0x1080000_0000 ≤ u) }
/-- Bytes stored through a physical address. Bytes 256 to 319 of a thread row are left as they are (R49), with any error in them, and the reserved
bits [63:62] of its `STS` are not written (R25). -/
def State.rowStoreBytes (s : State) (pa : Nat) (bs : List Byte) : State :=
  let put : List Byte → State := fun bs => (s.clearUncorr pa bs.length).poke pa bs
  match regionOf pa with
  | .rowStore rid off =>
    if (s.ctlOf rid).state = .null then put bs
    else if off < 320 ∧ 256 ≤ off then s
    else if off ≤ 7 then put (modAt bs (7 - off) fun x => BitVec.ofNat 8 (x.toNat % 64 + s.rowGet rid 7 1 / 64 * 64))
    else put bs
  | _ => put bs

/-! ### Closing (R41) -/

/-- Accesses that waited for a row's boundary applied to it once it is closed, in order of arrival (R46, R48). -/
def State.flushDeferred (s : State) (l : List Deferred) : State :=
  l.foldl (fun s d => match d with
    | .store pa bs => s.rowStoreBytes pa bs
    | .control rid w v => s.ctlStore rid w v) s

/-- An OPEN row closes at a boundary (R41): once the cycles of its last step have passed (R81), its port writes it back in 2 cycles; its turn and
grant end, it enters its state, which accesses, the turn scheduler and a waiting parent see once the write-back has ended, and accesses that waited
for the boundary apply. One that leaves a row READY which closed by a `YIELD` does not put it ahead of the rows that wait (R102 against R48: the manual
does not say which holds; DESIGN CHOICE; entry 115). A close is all that a gating quad asks of the row (23_stack_fabric.md R347). -/
def State.closeRow (s : State) (rid : Nat) (st : RowState) (wait wake : Nat) : State :=
  let core := coreOfRid rid
  let port := s.portOf rid
  let busy := match port.bind fun p => (tget none (s.coreOf core).ports p : Option Port) with
    | some x => max x.busy s.cycle
    | none => s.cycle
  let s := match port with
    | some p => s.modCore core fun c => { c with ports := tset c.ports p (some { row := rowOfRid rid, phase := .writeback, busy := busy + 2 }) }
    | none => s
  let k := clusterOfRid rid
  let s := s.modClu k fun c => { c with grant := if c.grant = some rid then none else c.grant,
                                        grantq := c.grantq.filter fun r => r != rid }
  let (n, s) := s.tick
  let s := s.noteIdle rid
  let waiting := (s.thrOf rid).deferred
  let s := s.modThr rid fun t => { t with chunk := {}, turn := 0, blockedAt := n, blockedCycle := s.cycle,
                                          deferred := [], stop := if t.stop = some .gating then none else t.stop }
  let s := match st with
  | .ready => s.makeReady rid
  | .exited => (s.exitRow rid).moved rid
  | .null => (s.nullRow rid 0).moved rid
  | st => (s.modCtl rid fun c => { c with state := st, wait := BitVec.ofNat 4 wait, wake := BitVec.ofNat 36 wake }).moved rid
  s.flushDeferred waiting

end Sys2Proof.Machine
end

