-- ==== Sys2Proof/Machine/Translate.lean ====
section
/-! DEFINITION. Translation (16_translation.md R275 to R285): walks of both stages, TLBs, migrating lines, and which physical addresses
are assigned (01_machine.md R21; 23_stack_fabric.md R351, R355; 24_tenancy_boot.md R366). -/

namespace Sys2Proof.Machine

/-- What an access does with memory. -/
inductive Acc where
  | read | write | fetch | rmw
  deriving DecidableEq, Repr, Inhabited

/-- How a walk of one stage ends: a leaf with its base, entry, shift and address; an entry with `V` = 0 at a level; a malformed entry; or
a stage-2 fault of a table entry. -/
inductive WalkEnd where
  | leaf (base entry shift addr : Nat)
  | invalid (entry level addr : Nat)
  | bad
  | stage2 (ipa : Nat)
  deriving DecidableEq, Repr, Inhabited

/-- The levels of a walk: level, lowest index bit, index bits (R276). -/
def walkOrder : List (Nat × Nat × Nat) := [(4, 48, 9), (3, 39, 9), (2, 30, 9), (1, 21, 9), (0, 16, 5)]
def inHbm (a : Nat) : Bool := decide (a < 0x1000000_0000)

/-- A malformed entry with `V` = 1 (R278). -/
def malformed (stage2 : Bool) (level shift e : Nat) : Bool :=
  bits e 55 52 != 0
    || (bits e 1 1 == 1 && (level == 0 || bits e 12 2 != 0))
    || (bits e 1 1 == 0 && (decide (3 ≤ level) || bits e 15 13 != 0 || bits e 51 16 * 65536 % 2 ^ shift != 0 || bits e 12 10 == 7
          || (bits e 7 7 == 1 && bits e 8 8 == 1) || (stage2 && (bits e 6 6 == 1 || bits e 9 9 == 1))))

/-- The walk from a table (R276): `phys` gives the physical address of a table entry, or the IPA at which stage 2 fails. -/
def State.walkFrom (s : State) (phys : Nat → Except Nat Nat) (stage2 : Bool) (va : Nat) : List (Nat × Nat × Nat) → Nat → WalkEnd
  | [], _ => .bad
  | (level, shift, n) :: rest, table =>
    match phys (table + 8 * (va / 2 ^ shift % 2 ^ n)) with
    | .error ipa => .stage2 ipa
    | .ok pa =>
      if !inHbm pa then .bad
      else
        let e := s.peek pa 8
        if bits e 0 0 = 0 then .invalid e level pa
        else if malformed stage2 level shift e then .bad
        else if bits e 1 1 = 1 then s.walkFrom phys stage2 va rest (bits e 51 16 * 65536 + bits e 15 13 * 8192)
        else .leaf (bits e 51 16 * 65536) e shift pa

/-- The stage-2 leaf of an IPA, when stage 2 is enabled. -/
def State.walk2 (s : State) (ten ipa : Nat) : WalkEnd :=
  s.walkFrom .ok true ipa walkOrder (bits (s.tenOf ten).root2.toNat 51 13 * 8192)
def State.hasStage2 (s : State) (ten : Nat) : Bool := bits (s.tenOf ten).root2.toNat 0 0 == 1

/-- The result of a translation: an entry; a stage-2 fault with its IPA and the during-walk flag (R283); no valid entry, parked or not
(R284); or a malformed one. -/
inductive XRes where
  | ok (e : TlbEntry)
  | stage2 (ipa : Nat) (during : Bool)
  | absent (parked : Bool) (leaf : Nat)
  | bad
  deriving DecidableEq, Repr, Inhabited

/-- The stage-1 walk of an address (R276, R279): each table entry is reached through stage 2 where it is enabled. -/
def State.walk1 (s : State) (ten va : Nat) : WalkEnd :=
  s.walkFrom (fun ipa =>
    if !s.hasStage2 ten then .ok ipa
    else match s.walk2 ten ipa with
      | .leaf base e shift _ => if bits e 2 2 = 1 then .ok (base + ipa % 2 ^ shift) else .error ipa
      | _ => .error ipa) false va walkOrder (bits (s.tenOf ten).root1.toNat 51 13 * 8192)

/-- The combined walk of both stages (R275, R279). Different target types of the two leaves make the address unassigned: the entry gets
the invalid type 7. `S1ROOT` with `V` = 0 acts as an entry with `V` = 0, for R275 says what `S2ROOT.V` = 0 means and not this (DESIGN CHOICE;
entry 100). -/
def State.walk (s : State) (ten va : Nat) : XRes :=
  let two := s.hasStage2 ten
  if bits (s.tenOf ten).root1.toNat 0 0 = 0 then .absent false 0 else
  match s.walk1 ten va with
  | .stage2 ipa => .stage2 ipa true
  | .bad => .bad
  | .invalid e level leaf => .absent (level == 0 && bits e 12 10 == 5 && bits e 51 16 != 0) leaf
  | .leaf base e shift leaf =>
    let one : TlbEntry :=
      { tag := ten, va := va / 2 ^ shift * 2 ^ shift, size := 2 ^ shift, pa := base, tt := bits e 12 10, r := bits e 2 2 == 1,
        w := bits e 3 3 == 1, x := bits e 4 4 == 1, pin := bits e 5 5 == 1, cow := bits e 6 6 == 1, mig := bits e 9 9 == 1,
        ccap := bits e 7 7 == 1, leaf := leaf, ipa := base, isize := 0, itag := bits e 8 8 == 1, span := 2 ^ shift }
    if !two then .ok one
    else
      let ipa := base + va % 2 ^ shift
      match s.walk2 ten ipa with
      | .leaf base2 f shift2 _ =>
        let size := 2 ^ min shift shift2
        .ok { one with va := va / size * size, size := size, pa := (base2 + ipa % 2 ^ shift2) / size * size,
                       tt := if bits f 12 10 = bits e 12 10 then bits f 12 10 else 7, r := one.r && bits f 2 2 == 1,
                       w := one.w && bits f 3 3 == 1, x := one.x && bits f 4 4 == 1, pin := one.pin && bits f 5 5 == 1,
                       ccap := bits f 7 7 == 1, itag := bits f 8 8 == 1, ipa := ipa / 2 ^ shift2 * 2 ^ shift2, isize := 2 ^ shift2 }
      | .invalid _ _ _ => .stage2 ipa false
      | _ => .bad

/-! ### TLBs (R280, R281) -/

def TlbEntry.holds (e : TlbEntry) (ten va : Nat) : Bool := e.tag == ten && decide (e.va ≤ va) && decide (va < e.va + e.size)
def TlbEntry.at (e : TlbEntry) (va : Nat) : Nat := e.pa + (va - e.va)
/-- Whether an entry translates any part of the page of a tenant, of whatever size, that contains an address (R288). -/
def TlbEntry.onPage (e : TlbEntry) (ten va : Nat) : Bool := e.tag == ten && e.va / e.span == va / e.span
/-- An entry added to a core's TLB; a full one drops its oldest (entry 12). -/
def tlbFill (cap : Nat) (l : List TlbEntry) (e : TlbEntry) : List TlbEntry :=
  let l := l ++ [e]
  if cap < l.length then l.drop 1 else l

/-- The set of the cluster's TLB that holds an entry: 1,024 sets of 8 ways, by the lowest 64 KiB page number of the entry (entry 12). -/
def TlbEntry.set (e : TlbEntry) : Nat := e.va / 65536 % 1024
/-- An entry added to the cluster's TLB; a set of 8 entries drops its oldest (R280; entry 12). -/
def tlbFill8 (l : List TlbEntry) (e : TlbEntry) : List TlbEntry :=
  let peers := l.filter fun x => x.set == e.set
  match peers with
  | old :: _ => if 8 ≤ peers.length then l.erase old ++ [e] else l ++ [e]
  | [] => l ++ [e]

/-- Translation through the cluster's TLB and a walk (R280). -/
def State.xlatCluster (s : State) (k ten va : Nat) : XRes × State :=
  match (s.cluOf k).tlb.find? fun e => e.holds ten va with
  | some e => (.ok e, s)
  | none =>
    match s.walk ten va with
    | .ok e => (.ok e, s.modClu k fun c => { c with tlb := tlbFill8 c.tlb e })
    | r => (r, s)

/-- Translation for a core: its I-TLB or D-TLB, then the cluster's (R280). -/
def State.xlatCore (s : State) (core ten va : Nat) (fetch : Bool) : XRes × State :=
  let c := s.coreOf core
  match (if fetch then c.itlb else c.dtlb).find? fun e => e.holds ten va with
  | some e => (.ok e, s)
  | none =>
    match s.xlatCluster (clusterOf core) ten va with
    | (.ok e, s) => (.ok e, s.modCore core fun c =>
        if fetch then { c with itlb := tlbFill 32 c.itlb e } else { c with dtlb := tlbFill 64 c.dtlb e })
    | r => r

/-- The entries of every TLB of the package. -/
def State.tlbAll (s : State) : List TlbEntry := (s.core.flatMap fun c => c.2.itlb ++ c.2.dtlb) ++ s.clu.flatMap fun c => c.2.tlb
/-- Entries removed from every TLB of the package (R281, R288, R289). -/
def State.tlbRemove (s : State) (p : TlbEntry → Bool) : State :=
  { s with
    core := s.core.map fun e => (e.1, { e.2 with itlb := e.2.itlb.filter fun x => !p x, dtlb := e.2.dtlb.filter fun x => !p x })
    clu := s.clu.map fun e => (e.1, { e.2 with tlb := e.2.tlb.filter fun x => !p x }) }
/-- A page of a tenant invalidated. -/
def State.tlbPage (s : State) (ten va : Nat) : State := s.tlbRemove fun e => e.onPage ten va

/-! ### Assigned addresses (R21, R351, R355, R366) -/

/-- Whether a memory stack has a ready elevator (R273, R351). -/
def State.memReady (s : State) (m : Nat) : Bool := s.pkg.ready1.getLsbD (32 + 2 * m) || s.pkg.ready1.getLsbD (33 + 2 * m)
def State.hbmReady (s : State) (m : Nat) : Bool := s.pkg.ready0.getLsbD (32 + m) && s.memReady m
/-- `ROUTE` of an octet: its primary and secondary elevators (R357). -/
def State.routeOf (s : State) (oct : Nat) : BitVec 6 × BitVec 6 :=
  let st := oct / 96
  (s.octOf oct).route.getD (BitVec.ofNat 6 (4 * st), BitVec.ofNat 6 (4 * st + 1))
/-- The elevator that traffic of an octet takes out of its stack: the secondary only while the primary is not ready (R349). -/
def State.sendVia (s : State) (oct : Nat) : Nat :=
  let r := s.routeOf oct
  if s.pkg.ready1.getLsbD r.1.toNat then r.1.toNat else r.2.toNat
/-- The compute stack that holds an address; none for one outside the compute stacks. -/
def stackOfPa (pa : Nat) : Option Nat :=
  match regionOf pa with
  | .rowStore rid _ | .control rid _ _ => some (stackOf (coreOfRid rid))
  | .coreMmio core _ => some (stackOf core)
  | .clusterMmio k _ => some (k / 4)
  | _ => none
/-- The elevator that a row's access to an address is sent toward; none where it stays in its stack, or starts in the base layer. -/
def State.viaFor (s : State) (rid pa : Nat) : Option Nat :=
  if isBase rid ∨ stackOfPa pa = some (stackOf (coreOfRid rid)) then none else some (s.sendVia (octetOf (coreOfRid rid)))
/-- Whether what was sent toward an elevator can be delivered: a packet toward a retired elevator must be resent first (R350). -/
def State.viaReady (s : State) (via : Option Nat) : Bool := via.all fun v => s.pkg.ready1.getLsbD v
/-- The elevator that traffic entering a compute stack takes: its ready one with the lowest number (R349). -/
def State.elevatorInto (s : State) (st : Nat) : Option Nat := ((List.range 4).map fun i => 4 * st + i).find? fun v => s.pkg.ready1.getLsbD v
/-- Whether a compute stack has a ready elevator. -/
def State.stackReady (s : State) (st : Nat) : Bool := (s.elevatorInto st).isSome
/-- The memory stack whose cells an address of HBM names, through either view (R331). -/
def memStackOf (pa : Nat) : Nat :=
  (if pa < 0x800000_0000 then (Config.bankPerm.symm (Fin.ofNat 2147483648 (pa / 256))).val * 256 else pa - 0x800000_0000) / 2 ^ 21 / 32768
/-- The destination of traffic to an address, as the sequence numbers of R350 tell destinations apart: a compute stack, a memory stack, the
service die, the host or a package. -/
def destOf (pa : Nat) : Nat :=
  match stackOfPa pa, regionOf pa with
  | some st, _ => st
  | none, .hbm | none, .bankLinear => 16 + memStackOf pa
  | none, .host => 33
  | none, .remote p _ => 64 + p
  | none, _ => 32
def State.allHbmReady (s : State) : Bool := (List.range 8).all fun m => s.hbmReady m
/-- Fabric ports that lead to a package and are ready (R355). -/
def State.portsTo (s : State) (p : Nat) : List Nat :=
  (List.range 16).filter fun i => (tget 0 s.pkg.fabrt p : BitVec 16).getLsbD i && s.pkg.ready0.getLsbD (40 + i)

/-- The stack of a row: a compute stack, or 16 + m for the cores on the base die of memory stack m. -/
def homeStack (rid : Nat) : Nat := if isBase rid then 16 + (rid - baseRid) / 8 else stackOf (coreOfRid rid)
/-- Whether a physical address is assigned for a requester in a stack, as `homeStack` numbers them, or for one that needs no route of its own. -/
def State.assigned (s : State) (fromStack : Option Nat) (pa : Nat) : Bool :=
  let out := match fromStack with
    | some st => if st < 16 then s.stackReady st else s.memReady (st - 16)
    | none => true
  let toCluster : Nat → Bool := fun k =>
    s.pkg.ready0.getLsbD k && (fromStack == some (k / 4) || (out && s.stackReady (k / 4)))
  match regionOf pa with
  | .hbm | .bankLinear =>
    (out && (s.allHbmReady || s.hbmReady (memStackOf pa))) || (fromStack == some (16 + memStackOf pa) && s.pkg.ready0.getLsbD (32 + memStackOf pa))
  | .rowStore rid _ | .control rid _ _ => toCluster (clusterOf (coreOfRid rid))
  | .coreMmio core _ => toCluster (clusterOf core)
  | .clusterMmio k _ => toCluster k
  | .service _ => out
  | .host => out && (s.pkg.ready0.getLsbD 56 || s.pkg.ready0.getLsbD 57)
  | .remote p _ => out && decide (p < 320) && decide (p ≠ s.pkg.pkgid.toNat) && (tget 0 s.pkg.fabrt p : BitVec 16) != 0
  | .unassigned => false

/-- Whether an entry's type names the region of the address it gives (R21). -/
def typeMatches (e : TlbEntry) (pa : Nat) : Bool := ttOf (regionOf pa) == some e.tt

/-! ### Migrating lines (R282, R285) -/

/-- The migration whose new frame holds an address. -/
def State.migOf (s : State) (pa : Nat) : Option Nat := s.pkg.migs.findIdx? fun m => m.new / 65536 == pa / 65536
/-- The line that a migration copies next (R285). -/
def Migration.nextLine (m : Migration) : Option Nat := (List.range 256).find? fun l => !(m.valid.getLsbD l)
/-- A `PAGEMOVE` that stands at a migrating page has one line less to move, which takes 4 beats (13_engines.md R242): those that it has not spent on the
line yet. -/
def ECmd.lineCame (c : ECmd) (m : Migration) (line : Nat) : ECmd :=
  if c.op = .xcopy ∧ kindOf c.spec = 3 ∧ c.oor = 1 ∧ c.tenant = m.tenant ∧ dword c.spec 1 + 65536 * c.pos = m.va then
    if m.nextLine = some line then { c with beats := c.beats - (4 - c.skip), skip := 0 } else { c with beats := c.beats - 4 }
  else c
/-- One 256-byte line copied from the old frame to the new one, and its valid bit set (R285). -/
def State.pullLine (s : State) (i line : Nat) : State :=
  match s.pkg.migs[i]? with
  | none => s
  | some m =>
    if m.valid.getLsbD line then s else
    let s := s.poke (m.new + 256 * line) (s.peekBytes (m.old + 256 * line) 256)
    let s := { s with oct := s.oct.map fun (o : Nat × Octet) => (o.1, { o.2 with active := o.2.active.map fun (c : ECmd) => c.lineCame m line }) }
    s.modPkg fun p => { p with migs := modAt p.migs i fun m => { m with valid := m.valid ||| (1#256 <<< line) } }
/-- The line that an access to a migrating page waits for (R282). -/
def State.missingLine (s : State) (e : TlbEntry) (pa : Nat) : Option (Nat × Nat) :=
  if !e.mig then none else
  match s.migOf pa with
  | none => none
  | some i => match s.pkg.migs[i]? with
    | some m => if m.valid.getLsbD (pa % 65536 / 256) then none else some (i, pa % 65536 / 256)
    | none => none

/-- Where the bytes of a translated address stand now: in the old frame while their line has not arrived, for a reader that moves nothing. -/
def State.standsAt (s : State) (e : TlbEntry) (pa : Nat) : Nat :=
  match s.missingLine e pa with
  | none => pa
  | some (i, _) => match s.pkg.migs[i]? with
    | some m => m.old + pa % 65536
    | none => pa

/-! ### Core accesses (R152, R282, R283) -/

/-- What a core access meets: its physical address, an `ACCESS` trap with what the stage-2 owner is told, or a line it stalls for. -/
inductive CoreX where
  | ok (pa tt : Nat) (s : State)
  | access (report : Option (Nat × List W))
  | line
  deriving Repr

/-- The stage-2 report of an access (R283): address, IPA, and the during-walk flag with the access kind and requester. -/
def stage2Report (va ipa : Nat) (during : Bool) (kind requester : Nat) : List W :=
  [BitVec.ofNat 64 va, BitVec.ofNat 64 ipa, BitVec.ofNat 64 (bit during * 256 + kind * 16 + requester)]
def Acc.code : Acc → Nat
  | .read => 0 | .write => 1 | .fetch => 2 | .rmw => 1

/-- Whether an entry grants a core access (R282). -/
def TlbEntry.grants (e : TlbEntry) (a : Acc) : Bool :=
  e.pin && match a with
    | .read => e.r
    | .write => e.w && !e.cow
    | .fetch => e.x
    | .rmw => e.r && e.w && !e.cow

/-- Whether the owner tag of a bank lets a thread of a tenant in (R358). -/
def State.ownerOk (s : State) (ten pa : Nat) : Bool :=
  match regionOf pa with
  | .rowStore rid _ | .control rid _ _ => ten == 0 || s.tenantOf (coreOfRid rid) == ten
  | _ => true

/-- The translation step of a core access by a row. The cores on the base die of memory stack m use the walkers and the TLB of cluster 4 m (DESIGN
CHOICE; entry 123). -/
def State.coreXlat (s : State) (rid va : Nat) (a : Acc) : CoreX :=
  let core := coreOfRid rid
  let ten := s.rowTenant rid
  let r := if isBase rid then s.xlatCluster (4 * ((rid - baseRid) / 8)) ten va else s.xlatCore core ten va (a == .fetch)
  match r with
  | (.ok e, s') =>
    let pa := e.at va
    if !e.grants a || !typeMatches e pa || !s.assigned (some (homeStack rid)) pa || !s.ownerOk ten pa then
      .access none
    else match s.missingLine e pa with
      | some _ => .line
      | none => .ok pa e.tt s'
  | (.stage2 ipa during, _) => .access (some (ten, stage2Report va ipa during a.code (if isBase rid then 2 else 0)))
  | _ => .access none

/-! ### Engine accesses (R239, R284) -/

/-- Why an engine access stops, with what the bar records (R250). `far` says that another package serves the fault (19_sketch_at_work.md R313). -/
structure Xf where
  cause : Cause
  va : Nat
  parked : Bool := false
  leaf : Nat := 0
  during : Bool := false
  ipa : Nat := 0
  write : Bool := false
  far : Bool := false
  deriving DecidableEq, Repr, Inhabited

/-- Translation of an engine, matrix, sketch or near-bank access through a cluster's walkers: the first line of R284 that applies. A
line of a migrating page that has not arrived is pulled first (R285). A request of another package, whose number is no cluster's, needs no route of
its own. -/
def State.engXlat (s : State) (k ten va : Nat) (write : Bool) : Except Xf (Nat × TlbEntry × State) :=
  if 2 ^ 57 ≤ va then .error { cause := .perm, va := va, write := write } else
  match s.xlatCluster k ten va with
  | (.stage2 ipa during, _) => .error { cause := .stage2, va := va, during := during, ipa := ipa, write := write }
  | (.absent parked leaf, _) => .error { cause := .page, va := va, parked := parked, leaf := leaf, write := write }
  | (.bad, _) => .error { cause := .perm, va := va, write := write }
  | (.ok e, s) =>
    let pa := e.at va
    if !(if write then e.w else e.r) || !typeMatches e pa || !s.assigned (if k < 32 then some (k / 4) else none) pa then
      .error { cause := .perm, va := va, write := write }
    else if write && e.cow then .error { cause := .cow, va := va, leaf := e.leaf, write := true }
    else
      let s := match s.missingLine e pa with
        | some (i, l) => s.pullLine i l
        | none => s
      .ok (pa, e, s)

end Sys2Proof.Machine
end

