-- ==== Sys2Proof/Machine/Nest.lean ====
section
/-! DEFINITION. The Gambit table and nests (26_combinators.md R370 to R390): claims, placement, wiring, creation of leaves, ends, aborts
and fault routing; and the completion of a graph node (20_scheduling.md R322), which the end of a nest may cause. -/

namespace Sys2Proof.Machine

/-! ### Rows that may be chosen (R104, R228, R321, R327, R379) -/

/-- The rows of `HPOOL` on a core for a tenant, loaded there or not. -/
def State.poolRows (s : State) (core ten : Nat) : List Nat :=
  let c := s.csOf core ten
  (List.range c.hpoolCount.toNat).map fun i => c.hpoolBase.toNat + i
def State.inPool (s : State) (core ten row : Nat) : Bool :=
  let c := s.csOf core ten
  decide (c.hpoolBase.toNat ≤ row) && decide (row < c.hpoolBase.toNat + c.hpoolCount.toNat)
/-- Whether an enabled gang names a cluster. -/
def State.gangNames (s : State) (k : Nat) : Bool :=
  s.ten.any fun e => e.2.gangNow.getLsbD 63 && e.2.gangNow.getLsbD k
/-- The save rows of a core (R327). -/
def State.saveRow (s : State) (core row : Nat) : Bool := decide (1968 ≤ row) && decide (row ≤ 1983) && s.gangNames (clusterOf core)
/-- Rows that nests of a cluster hold reserved. -/
def State.nestRows (s : State) (k : Nat) : List Nat :=
  (s.cluOf k).nests.flatMap fun e => match e.2 with | some n => n.rows ++ n.pool | none => []
/-- A NULL row that no matrix command holds locked (R228). -/
def State.rowFree (s : State) (rid : Nat) : Bool := (s.ctlOf rid).state == .null && !s.writingBack rid && !s.matrixLocked rid
/-- The first `n` numbers from `i` on that pass a test. -/
def firstN (p : Nat → Bool) : Nat → Nat → Nat → List Nat
  | 0, _, _ => []
  | f + 1, i, n => if n = 0 then [] else if p i then i :: firstN p f (i + 1) (n - 1) else firstN p f (i + 1) n

/-! ### Stores at their homes (07_memory_model.md R125) -/

/-- Whether the posted sketch operations of a thread have been applied: they are visible at no scope before (18_sketches.md R310). -/
def State.postedDone (s : State) (rid : Nat) : Bool := !(s.pip.any fun p => p.rid == rid)
/-- Whether a BUSY octet holds a store of a thread (R368). -/
def State.storeHeld (s : State) (rid : Nat) : Bool :=
  s.oct.any fun o => o.2.heldWrites.any fun h => match h.what with
    | .row r => r == rid
    | .atomic e => e.rid == rid
    | _ => false
/-- Every committed store and posted operation of a thread at its home: visible at `PACKAGE` and `DOMAIN`. -/
def State.storesHome (s : State) (rid : Nat) : Bool :=
  s.postedDone rid && !((s.cluOf (clusterOfRid rid)).outq.any fun e => e.rid == rid) && !s.storeHeld rid

/-! ### Graph nodes that complete (R322) -/

/-- The successors of a launch record, in slot order (R317). -/
def successors (r : BitVec 512) : List Nat :=
  (List.range (bits r.toNat 27 24)).map fun i => bits r.toNat (64 * (5 + i / 4) + 16 * (i % 4) + 15) (64 * (5 + i / 4) + 16 * (i % 4))
/-- A message of a node's `NOTIFY` slot. -/
def State.notifyNode (s : State) (n status : Nat) : State :=
  let g := s.nodeOf n
  match g.tag with
  | some t => s.post g.core g.tenant t status n
  | none => s
/-- A node completes: its successors are signalled, its notice posted, and it becomes FREE (R322). -/
def State.nodeComplete (s : State) (n : Nat) : State :=
  let s := s.modPkg fun p => { p with signals := p.signals ++ successors (s.nodeOf n).record }
  let s := s.notifyNode n 0
  s.modNode n fun g => { g with state := .free, tag := none }
/-- A record discarded: `LNCHERR` counts it and records its node (R319). -/
def State.countDiscard (s : State) (ten n : Nat) : State :=
  s.modTen ten fun t =>
    let x := t.lncherr.toNat
    { t with lncherr := BitVec.ofNat 64 (bits x 63 48 * 2 ^ 48 + (bits x 47 32 + 1) % 65536 * 2 ^ 32 + n) }

/-! ### The Gambit table (R370 to R373) -/

def gamBase (t : Tenant) : Nat := bits t.gambase.toNat 51 16 * 65536
def State.gamPresent (s : State) (ten : Nat) : Bool := bits (s.tenOf ten).gambase.toNat 0 0 == 1
def State.gclaim (s : State) (ten e : Nat) : Nat := s.peek (gamBase (s.tenOf ten) + 0x20000 + 16 * e) 8
/-- An entry is defined exactly when its stored claim is not zero: every claim has `DEPTH` at least 1 (R372, R373). -/
def State.gdefined (s : State) (ten e : Nat) : Bool := s.gamPresent ten && decide (e < 4096) && s.gclaim ten e != 0
/-- Dword `i` of an entry image (R371). -/
def State.gdw (s : State) (ten e i : Nat) : Nat := s.peek (gamBase (s.tenOf ten) + 32 * e + 8 * i) 8
def gKind (d0 : Nat) : Nat := bits d0 63 60
/-- The children of a composite, with the lane each gives (R371, R381). -/
def gKids (d0 d1 lane : Nat) : List (Nat × Nat) :=
  if gKind d0 = 6 then (List.range (bits d0 37 32 + 1)).map fun i => (bits d1 11 0, i)
  else (List.range (bits d0 58 56)).map fun c => (bits d1 (12 * c + 11) (12 * c), lane)
def State.useCount (s : State) (ten e : Nat) : Nat := s.peek (gamBase (s.tenOf ten) + 0x20000 + 16 * e + 8) 4
def State.setUseCount (s : State) (ten e n : Nat) : State := s.poke (gamBase (s.tenOf ten) + 0x20000 + 16 * e + 8) (bytesOf 4 n)

/-- A claim vector as its six components (R372). -/
structure Claim where
  rows : Nat
  help : Nat
  cores : Nat
  mxu : Nat
  linkq : Nat
  depth : Nat
  deriving DecidableEq, Repr, Inhabited
def claimOf (v : Nat) : Claim := ⟨bits v 63 45, bits v 44 34, bits v 33 26, bits v 25 18, bits v 17 6, bits v 5 0⟩
def Claim.pack (c : Claim) : Nat :=
  c.rows * 2 ^ 45 + c.help * 2 ^ 34 + c.cores * 2 ^ 26 + c.mxu * 2 ^ 18 + c.linkq * 2 ^ 6 + c.depth
def Claim.add (a b : Claim) : Claim :=
  ⟨a.rows + b.rows, a.help + b.help, a.cores + b.cores, a.mxu + b.mxu, a.linkq + b.linkq, max a.depth b.depth⟩
def Claim.sup (a b : Claim) : Claim :=
  ⟨max a.rows b.rows, max a.help b.help, max a.cores b.cores, max a.mxu b.mxu, max a.linkq b.linkq, max a.depth b.depth⟩
def Claim.zero : Claim := ⟨0, 0, 0, 0, 0, 0⟩

/-- The claim of an entry image (R373). -/
def State.claimFor (s : State) (ten d0 d1 d3 : Nat) : Claim :=
  let kind := gKind d0
  let kids := (gKids d0 d1 0).map fun c => (c.1, claimOf (s.gclaim ten c.1))
  let sum := kids.foldl (fun a c => a.add c.2) Claim.zero
  let sup := kids.foldl (fun a c => a.sup c.2) Claim.zero
  let farms := (kids.drop 1).filter fun c => gKind (s.gdw ten c.1 0) == 6
  let c : Claim :=
    if kind ≤ 2 then ⟨1 + bits d3 31 24, bits d3 7 4 + bits d3 23 20, 1, bits d3 0 0, bits d3 19 16, 1⟩
    else if kind = 4 then { sum with depth := sum.depth + 1 }
    else if kind = 5 then { sum with linkq := sum.linkq + (kids.length - 1 - farms.length), depth := sum.depth + 1 }
    else if kind = 6 then { sum with linkq := sum.linkq + 1, depth := sum.depth + 1 }
    else { sup with depth := sup.depth + 1 }
  if bits d0 55 55 = 1 then { c with rows := c.rows + 1, help := c.help + 1 } else c

/-! ### The tree of a nest (R381) -/

/-- The nodes of an entry's tree in pre-order, added to those before it. -/
def State.gTree (s : State) (ten : Nat) : Nat → Nat → Option Nat → Nat → List GNode → List GNode
  | 0, _, _, _, acc => acc
  | f + 1, e, parent, lane, acc =>
    let d0 := s.gdw ten e 0
    let kind := gKind d0
    let me := acc.length
    let inst := (acc.filter fun g => decide (g.kind ≤ 2)).length
    let g : GNode := { kind := kind, entry := e, parent := parent, lane := lane, inst := inst,
                       hnd := if bits d0 55 55 = 1 then some (bits d0 51 40) else none }
    let acc := acc ++ [g]
    if kind ≤ 2 then acc
    else (gKids d0 (s.gdw ten e 1) lane).foldl (fun acc c =>
      let i := acc.length
      let acc := s.gTree ten f c.1 (some me) c.2 acc
      modAt acc me fun g => { g with children := g.children ++ [i] }) acc

/-- The instance number of a leaf: at most 4,096 are numbered, and what stands in place of the number of a leaf past them is open (entry 104). -/
def GNode.number (g : GNode) : Nat := if g.inst < 4096 then g.inst else (Config.unnumbered g.inst).toNat
def gAt (t : List GNode) (i : Nat) : GNode := t[i]?.getD { kind := 1, entry := 0, parent := none }

/-! ### Placement (R379, R380) -/

/-- What placing a tree has come to: cursor, cores of the leaves before, last leaf's core, leaf places, and the need of each core. -/
structure Placing where
  cursor : Nat := 0
  used : List Nat := []
  last : Option Nat := none
  spots : List (Nat × Nat) := []
  need : Tab (Nat × Nat) := []
  mx : List Nat := []
  deriving Repr, Inhabited

/-- Where a placement happens: cluster, tenant, issuer's octet in the cluster, and for a nested issuer its core, spare rows and spare
pool rows. -/
structure Site where
  cluster : Nat
  ten : Nat
  octet : Nat
  core : Option Nat := none
  spareRows : List Nat := []
  sparePool : List Nat := []
  deriving Repr, Inhabited

def cursorCore (x : Site) (p : Nat) : Nat := x.cluster * 192 + (x.octet + p) % 24 * 8 + p / 24

/-- Free rows of a core for a leaf, the issuer's spare ones first; a row that a matrix command holds locked is not NULL to the device (12_vector_matrix.md
R228). -/
def State.leafRows (s : State) (x : Site) (core n : Nat) : List Nat :=
  let spare := if x.core = some core then (x.spareRows.filter s.rowFree).take n else []
  let held := s.nestRows x.cluster
  spare ++ firstN (fun r => s.rowFree (ridOf core r) && !s.inPool core x.ten r && !s.saveRow core r && !held.contains (ridOf core r))
    2047 0 (n - spare.length) |>.map fun r => if spare.contains r then r else ridOf core r
/-- The issuer's spare pool rows of a core that may be chosen. -/
def State.spareOn (s : State) (x : Site) (core : Nat) : List Nat := if x.core = some core then x.sparePool.filter s.rowFree else []
def State.leafPool (s : State) (x : Site) (core n : Nat) : List Nat :=
  let spare := (s.spareOn x core).take n
  let held := s.nestRows x.cluster
  let free := (s.poolRows core x.ten).filter fun r =>
    s.rowFree (ridOf core r) && !held.contains (ridOf core r) && !((s.csOf core x.ten).helpers.any fun e => e.1 == r)
  spare ++ (free.take (n - spare.length)).map fun r => ridOf core r

def State.mxHeld (s : State) (k core : Nat) : Bool :=
  (s.cluOf k).nests.any fun e => match e.2 with | some n => n.mxu.contains core | none => false

/-- Whether a core is usable for a leaf (R379 point 3). -/
def State.usable (s : State) (x : Site) (p : Placing) (core rows help : Nat) (mx : Bool) : Bool :=
  let o := s.octOf (octetOf core)
  o.tag.toNat == x.ten && !o.busy && !p.used.contains core && (s.leafRows x core rows).length == rows
    && (s.leafPool x core help).length == help && !(mx && s.mxHeld x.cluster core)

/-- One leaf placed (R379 point 2). -/
def State.placeLeaf (s : State) (x : Site) (pref : Bool) (i entry : Nat) (p : Placing) : Option Placing :=
  let d3 := s.gdw x.ten entry 3
  let rows := 1 + bits d3 31 24
  let help := bits d3 7 4 + bits d3 23 20
  let mx := bits d3 0 0 == 1
  let take : Nat → Placing → Placing := fun core p =>
    let n := tget (0, 0) p.need core
    { p with used := core :: p.used, last := some core, spots := p.spots ++ [(i, core)],
             need := tset p.need core (max n.1 rows, max n.2 help), mx := if mx then core :: p.mx else p.mx }
  let next := p.last.map fun c => x.cluster * 192 + (c % 192 + 1) % 192
  match (if pref then next else none) with
  | some c =>
    if s.usable x p c rows help mx then some (take c p)
    else match (List.range 192).find? fun q => decide (p.cursor ≤ q) && s.usable x p (cursorCore x q) rows help mx with
      | some q => some { take (cursorCore x q) p with cursor := q + 1 }
      | none => none
  | none =>
    match (List.range 192).find? fun q => decide (p.cursor ≤ q) && s.usable x p (cursorCore x q) rows help mx with
    | some q => some { take (cursorCore x q) p with cursor := q + 1 }
    | none => none

/-- A tree placed in instance order: the children of a `SEQ` or `LOOPU` each from the composite's start, with their leaves free to
share cores (R379). -/
def State.placeTree (s : State) (x : Site) (t : List GNode) : Nat → Bool → Nat → Placing → Option Placing
  | 0, _, _, _ => none
  | f + 1, pref, i, p =>
    let g := gAt t i
    if g.kind ≤ 2 then s.placeLeaf x pref i g.entry p
    else if g.kind = 3 ∨ g.kind = 7 then
      g.children.foldl (fun acc c => match acc with
        | none => none
        | some q => match s.placeTree x t f (pref && g.children.head? == some c) c { q with cursor := p.cursor, used := p.used, last := p.last } with
          | none => none
          | some r => some { r with cursor := max q.cursor r.cursor, used := q.used ++ r.used }) (some p)
    else
      (g.children.foldl (fun (acc : Option Placing × Bool) c => match acc.1 with
        | none => (none, false)
        | some q => (s.placeTree x t f (if g.kind = 5 then acc.2 || pref else pref && !acc.2) c q, true)) (some p, false)).1

/-- The leaves under a node, in instance order. -/
def leavesUnder (t : List GNode) : Nat → Nat → List Nat
  | 0, _ => []
  | f + 1, i => let g := gAt t i; if g.kind ≤ 2 then [i] else g.children.flatMap (leavesUnder t f)

/-- Whether a live nest that took spare resources of the nest in a slot passes a test. -/
def State.lentOn (s : State) (k slot : Nat) (p : Nest → Bool) : Bool :=
  (s.cluOf k).nests.any fun e => match e.2 with
    | some m => m.lender.map (·.1) == some slot && p m
    | none => false
/-- Whether a live nest of a cluster holds a link. -/
def State.linkHeld (s : State) (k i : Nat) : Bool :=
  (s.cluOf k).nests.any fun e => match e.2 with | some m => m.links.contains i | none => false

/-- Links wired down the tree (R384): what q6 and q7 of the leaves below name, and whether a `FARM` takes the given queue as its own. A leaf keeps
`slq` of its entry as spare links; the children of a `SEQ` or `LOOPU` share theirs (R373). -/
def wireTree (ids : List Nat) (slq : Nat → Nat) : Nat → Nat → Option Nat → Option Nat → Bool → Nat × List GNode → Nat × List GNode
  | 0, _, _, _, _, st => st
  | f + 1, i, inq, outq, given, (n, t) =>
    let g := gAt t i
    let fresh : Nat → Option Nat := fun j => ids[j]?
    if g.kind ≤ 2 then
      (n + slq g.entry, modAt t i fun g => { g with inq := inq, outq := outq, spareLq := (ids.drop n).take (slq g.entry) })
    else if g.kind = 5 then
      let last := g.children.length - 1
      let links := (List.range last).map fun j => fresh (n + j)
      (g.children.zipIdx).foldl (fun st c =>
        wireTree ids slq f c.1 (if c.2 = 0 then inq else (links[c.2 - 1]?).join) (if c.2 < last then (links[c.2]?).join else outq)
          (c.2 != 0) st) (n + last, t)
    else if g.kind = 6 then
      let q := if given then inq else fresh n
      g.children.foldl (fun st c => wireTree ids slq f c q outq false st) (if given then n else n + 1, t)
    else if g.kind = 4 then g.children.foldl (fun st c => wireTree ids slq f c inq outq false st) (n, t)
    else g.children.foldl (fun st c => let r := wireTree ids slq f c inq outq false (n, st.2); (max st.1 r.1, r.2)) (n, t)

/-- The first `n` unreserved pool rows of a core. -/
def State.freePool (s : State) (x : Site) (core n : Nat) : List Nat := s.leafPool { x with sparePool := [] } core n
/-- The larger of two counts for each core. -/
def tabMax (a b : Tab Nat) : Tab Nat := b.foldl (fun a e => tset a e.1 (max (tget 0 a e.1) e.2)) a
/-- The pool rows of a tree: a leaf's helpers and spare helpers, the issuer's spare ones first, and one row for each handler on the core of its
composite's first leaf (R379 point 4, R380). With them, how many unreserved pool rows each core gives; the children of a `SEQ` or `LOOPU` share. -/
def State.poolTree (s : State) (x : Site) (spots : List (Nat × Nat)) : Nat → Nat → Tab Nat × List GNode → Tab Nat × List GNode
  | 0, _, st => st
  | f + 1, i, (n, t) =>
    let g := gAt t i
    let coreOf : Nat → Nat := fun l => ((spots.find? fun sp => sp.1 == l).map (·.2)).getD 0
    if g.kind ≤ 2 then
      let d3 := s.gdw x.ten g.entry 3
      let own := bits d3 7 4
      let all := own + bits d3 23 20
      let c := coreOf i
      let spare := (s.spareOn x c).take all
      let k := tget 0 n c
      let rows := spare ++ (s.freePool x c (k + (all - spare.length))).drop k
      (tset n c (k + (all - spare.length)), modAt t i fun g => { g with helpRows := rows.take own, sparePool := rows.drop own })
    else
      let (n, t) :=
        if g.kind = 3 ∨ g.kind = 7 then
          g.children.foldl (fun st c => let r := s.poolTree x spots f c (n, st.2); (tabMax st.1 r.1, r.2)) (n, t)
        else g.children.foldl (fun st c => s.poolTree x spots f c st) (n, t)
      if g.hnd.isNone then (n, t)
      else
        let c := coreOf ((leavesUnder t 10 i).headD 0)
        let k := tget 0 n c
        (tset n c (k + 1), modAt t i fun g => { g with hrow := (s.freePool x c (k + 1)).getD k 0 })

/-- Everything an `APPLY` reserves (R379, R380): the nest record and its slot, or none when there is no room. -/
def State.planNest (s : State) (x : Site) (entry : Nat) (outer : Option (Nat × Nat)) (outerLq : List Nat) (rid : Nat) (tag node : Option Nat)
    (arg : W) : Option (Nat × Nest) :=
  let k := x.cluster
  let cl := s.cluOf k
  match (List.range 256).find? fun i => (tget none cl.nests i).isNone with
  | none => none
  | some slot =>
    let t := s.gTree x.ten 9 entry none 0 []
    match s.placeTree x t 10 false 0 {} with
    | none => none
    | some p =>
      let claim := claimOf (s.gclaim x.ten entry)
      let fromSpare := outerLq.take claim.linkq
      let free := firstN (fun i => !s.linkHeld k i) 512 0 (claim.linkq - fromSpare.length)
      if free.length < claim.linkq - fromSpare.length then none else
      let ids := fromSpare ++ free
      -- the rows of each core, and the leaf and spare rows of each leaf from them
      let rowsAt : Nat → List Nat := fun c => s.leafRows x c (tget (0, 0) p.need c).1
      let t := p.spots.foldl (fun t sp =>
        let d3 := s.gdw x.ten (gAt t sp.1).entry 3
        let rows := rowsAt sp.2
        modAt t sp.1 fun g => { g with rid := rows.headD 0, spareRows := (rows.drop 1).take (bits d3 31 24) }) t
      let (counts, t) := s.poolTree x p.spots 10 0 ([], t)
      if !(counts.all fun e => (s.freePool x e.1 e.2).length == e.2) then none
      else
        let t := (wireTree ids (fun e => bits (s.gdw x.ten e 3) 19 16) 10 0 none none false (0, t)).2
        let rows := p.need.flatMap fun e => rowsAt e.1
        let pool := counts.flatMap fun e => (s.spareOn x e.1).take (tget (0, 0) p.need e.1).2 ++ s.freePool x e.1 e.2
        let c := s.ctlOf rid
        some (slot,
          { seq := cl.nestSeq, tenant := x.ten, core := coreOfRid rid, tag := tag, node := node, root := entry, arg := arg,
            pri := c.pri, team := c.team, gnodes := t, rows := rows, pool := pool, mxu := p.mx, links := ids, outer := outer,
            lender := if x.core.isSome then outer else none,
            took := (rows ++ pool).filter fun r => x.spareRows.contains r || x.sparePool.contains r, tookLq := fromSpare })

def State.nestAt (s : State) (k slot : Nat) : Option Nest := tget none (s.cluOf k).nests slot
def State.modNest (s : State) (k slot : Nat) (f : Nest → Nest) : State :=
  s.modClu k fun c => { c with nests := tset c.nests slot ((tget none c.nests slot).map f) }
def State.modGNode (s : State) (k slot i : Nat) (f : GNode → GNode) : State :=
  s.modNest k slot fun n => { n with gnodes := modAt n.gnodes i f }

/-- A planned nest entered (R377): its record, sequence number and the root's use count. -/
def State.enterNest (s : State) (k slot : Nat) (n : Nest) : State :=
  let s := s.modClu k fun c => { c with nests := tset c.nests slot (some n), nestSeq := c.nestSeq + 1 }
  s.setUseCount n.tenant n.root (s.useCount n.tenant n.root + 1)

/-- A nest handle (R378). -/
def nestHandle (k slot : Nat) (n : Nest) : Nat := n.tag.getD 255 * 2 ^ 36 + k * 2 ^ 31 + n.seq.toNat * 256 + slot
/-- The live nest a handle names for a tenant: its cluster and slot. -/
def State.findNest (s : State) (ten h : Nat) : Option (Nat × Nat) :=
  let k := bits h 35 31
  let slot := bits h 7 0
  match s.nestAt k slot with
  | some n => if n.seq.toNat = bits h 30 8 ∧ n.tenant = ten ∧ bits h 63 44 = 0 then some (k, slot) else none
  | none => none

/-! ### Ends (R383) -/

/-- What the end of a nest leaves of a nest applied from it: it lives on by itself, and what it took of the ended nest's own spare is its own now;
what the ended nest had taken in turn goes back to where that came from (R380, R383). -/
def Nest.leaves (n : Nest) (slot : Nat) (m : Nest) : Nest :=
  let m := if m.outer.map (·.1) = some slot then { m with outer := none } else m
  if m.lender.map (·.1) = some slot then
    { m with lender := n.lender, took := m.took.filter fun r => n.took.contains r, tookLq := m.tookLq.filter fun q => n.tookLq.contains q }
  else m
/-- Links emptied: their entries are discarded, and their lent slots go back to the pool and to its waiters (R383, R385). -/
def State.clearLinks (s : State) (k : Nat) (ids : List Nat) : State :=
  let lent := ids.foldl (fun a i => a + (tget ({} : Queue) (s.cluOf k).links i).lent) 0
  let s := s.modClu k fun c => { c with lent := c.lent - lent, links := ids.foldl terase c.links }
  if lent = 0 then s else s.serve (.link k 0)
/-- The end of a nest: everything it holds is freed, its completion posted or its node completed, and waiters woken. A handler that still runs
belongs to no nest from then on, and its row returns to NULL when it ends (R390). -/
def State.nestEnd (s : State) (k slot status info : Nat) : State :=
  match s.nestAt k slot with
  | none => s
  | some n =>
    let s := n.gnodes.foldl (fun s g => if g.hnd.isSome then s.modThr g.hrow fun t => { t with
      serves := t.serves.map fun v => if v.nest.any fun x => x.1 == slot then { v with nest := none } else v } else s) s
    let s := s.clearLinks k (n.links.filter fun i => !s.lentOn k slot (fun m => m.tookLq.contains i))
    let s := s.modClu k fun c => { c with nests := (terase c.nests slot).map fun e => (e.1, e.2.map (n.leaves slot)) }
    let s : State := { s with teams := s.teams.map fun t => if t.cluster = k then { t with image := t.image.map fun m => { m with applies := [] } } else t }
    let s := s.setUseCount n.tenant n.root (s.useCount n.tenant n.root - 1)
    let s := match n.tag, n.node with
      | some t, _ => s.post n.core n.tenant t status info
      | none, some nd => s.nodeComplete nd
      | none, none => s
    let h := nestHandle k slot n
    let s := s.wakeAll ((s.waiters (fun _ => true) 14).filter fun r => (s.thrOf r).waitArg % 2 ^ 36 == h % 2 ^ 36)
    s.wakeAll (s.waiters (inCluster k) 13)

/-- Every row of a nest that is not NULL: leaves and handlers. -/
def State.nestLive (s : State) (n : Nest) (slot : Nat) : List Nat :=
  (n.gnodes.flatMap fun g => if g.hnd.isSome then [g.hrow] else if g.kind ≤ 2 then [g.rid] else []).filter fun r =>
    (s.ctlOf r).state != .null && (match (s.thrOf r).nest, (s.thrOf r).serves with
      | some (x, _), _ => x == slot
      | none, some v => (v.nest.map (·.1)) == some slot
      | none, none => false)

/-- Whether every store that a leaf's row has made is at its home, and no row of a node is being written back (R41). -/
def State.leafHome (s : State) (g : GNode) : Bool :=
  (!(decide (g.kind ≤ 2)) || (s.storesHome g.rid && !s.writingBack g.rid)) && !(g.hnd.isSome && s.writingBack g.hrow)
/-- An aborted nest ends once none of its rows is left and every store of them is at its home: its end is a release (R383, R387). -/
def State.abortProgress (s : State) (k slot : Nat) : State :=
  match s.nestAt k slot with
  | some n =>
    match n.aborting with
    | some (st, info) => if (s.nestLive n slot).isEmpty && n.gnodes.all s.leafHome then s.nestEnd k slot st.toNat info.toNat else s
    | none => s
  | none => s

/-- A nest aborted (R387): its rows are stopped and become NULL, nests applied from them are aborted with `NEST`, and it ends. -/
def State.nestAbort : Nat → State → Nat → Nat → Nat → Nat → State
  | 0, s, _, _, _, _ => s
  | f + 1, s, k, slot, status, info =>
    match s.nestAt k slot with
    | none => s
    | some n =>
      if n.aborting.isSome then s else
      let s := s.modNest k slot fun n => { n with aborting := some (BitVec.ofNat 8 status, BitVec.ofNat 48 info) }
      let s := (s.nestLive n slot).foldl (fun s r => s.stopRow r .abort) s
      let inner := (s.cluOf k).nests.filterMap fun e => match e.2 with
        | some m => if (m.outer.map (·.1)) = some slot then some e.1 else none
        | none => none
      let s := inner.foldl (fun s i => State.nestAbort f s k i 0x0F 0xFFFF) s
      s.abortProgress k slot

/-! ### Creation (R381, R382) -/

/-- Where the bytes of a line stand now: in the old frame while the line of a migrating page has not come (R285). -/
def State.lineHome (s : State) (pa : Nat) : Nat :=
  match s.migOf pa with
  | none => pa
  | some i => match s.pkg.migs[i]? with
    | some m => if m.valid.getLsbD (pa % 65536 / 256) then pa else m.old + pa % 65536
    | none => pa
/-- Whether a 1 KiB template can be read under the rule for core accesses (R282), and its bytes; those of a BUSY bank are zero (25_platform_cases.md
R368). -/
def State.template (s : State) (core ten va : Nat) : Option (List Byte) :=
  match s.xlatCluster (clusterOf core) ten va with
  | (.ok e, _) =>
    let pa := e.at va
    if e.grants .read && typeMatches e pa && s.assigned (some (stackOf core)) pa then
      some ((List.range 4).flatMap fun i => s.homeBytes (s.lineHome (pa + 256 * i)) 256)
    else none
  | _ => none

/-- A thread row made from NULL (R39, R105, R261, R321, R381): its bytes, its words and READY or DORMANT. Its thread
record is new: `MQPROM` of an earlier thread of the row is forgotten (DESIGN CHOICE; entry 94). Accesses that wait for the row stay (R38). -/
def State.makeThread (s : State) (rid : Nat) (pc : Nat) (pri : BitVec 2) (team : BitVec 12) (h ready : Bool) : State :=
  let waiting := (s.thrOf rid).deferred
  let s := { s with thr := if waiting = [] then terase s.thr rid else tset s.thr rid { deferred := waiting } }
  let s := (s.modCtl rid fun _ => { state := .dormant, pri := pri, team := team, h := h, pc := pcOf (BitVec.ofNat 64 pc) }).moved rid
  if ready then s.makeReady rid else s

/-- The leaves that become live when a node's turn comes, and the tree with those nodes marked. -/
def activate : Nat → Nat → List GNode → List Nat × List GNode
  | 0, _, t => ([], t)
  | f + 1, i, t =>
    let t := modAt t i fun g => { g with live := true, ended := false, cur := 0 }
    let g := gAt t i
    if g.kind ≤ 2 then ([i], modAt t i fun g => { g with co := .fresh, pending := none })
    else if g.kind = 3 ∨ g.kind = 7 then
      match g.children with
      | [] => ([], t)
      | c :: _ => activate f c t
    else g.children.foldl (fun st c => let r := activate f c st.2; (st.1 ++ r.1, r.2)) ([], t)

/-- One leaf row created, with its entry's template. -/
def State.createLeaf (s : State) (k slot i : Nat) (n : Nest) : Option State :=
  let g := gAt n.gnodes i
  let code := s.gdw n.tenant g.entry 1
  let tmpl := s.gdw n.tenant g.entry 2
  let bytes := if tmpl = 0 then some (List.replicate 1024 0) else s.template (coreOfRid g.rid) n.tenant tmpl
  match bytes with
  | none => none
  | some bs =>
    let s := { s with mem := mwrite (msplice s.mem (rowAddr g.rid) 1024 []) (rowAddr g.rid) bs }
    let s := s.rowPut g.rid 8 8 (nestHandle k slot n)
    let s := s.rowPut g.rid 16 8 g.number
    let s := s.rowPut g.rid 24 8 n.arg.toNat
    let s := s.rowPut g.rid 32 8 g.lane
    let s := s.rowZero g.rid 224 32
    some ((s.makeThread g.rid code n.pri n.team false (g.kind == 1)).modThr g.rid fun t => { t with nest := some (slot, i) })

/-- The leaves of one creation step; a template that cannot be read aborts the nest with `PERM` (R381). -/
def State.createLeaves (s : State) (k slot : Nat) (leaves : List Nat) : State :=
  match s.nestAt k slot with
  | none => s
  | some n =>
    match leaves.find? fun i => (s.createLeaf k slot i n).isNone with
    | some i => s.nestAbort 256 k slot 0x21 (gAt n.gnodes i).number
    | none => leaves.reverse.foldl (fun s i => (s.createLeaf k slot i n).getD s) s

/-- A nest instantiated at its commit (R381). -/
def State.instantiate (s : State) (k slot : Nat) : State :=
  match s.nestAt k slot with
  | none => s
  | some n =>
    let (leaves, t) := activate 10 0 n.gnodes
    (s.modNest k slot fun n => { n with gnodes := t }).createLeaves k slot leaves

/-- The links that only leaves under a node name: those that the children of a `SEQ` have in their turns. -/
def innerLinks (t : List GNode) (i : Nat) : List Nat :=
  let under := leavesUnder t 10 i
  let named : (Nat → Bool) → List Nat := fun p => t.zipIdx.flatMap fun e => if p e.2 then e.1.inq.toList ++ e.1.outq.toList else []
  let outside := named fun j => !under.contains j
  (named fun j => under.contains j).eraseDups.filter fun l => !outside.contains l
/-- What the end of a node brings in its tree (R382): the tree after it, the links emptied, the leaves to create, and the root's exit value when the
root ends. -/
structure TreeEnd where
  tree : List GNode
  links : List Nat := []
  leaves : List Nat := []
  root : Option W := none
  deriving Repr, Inhabited
/-- A node ends with an exit value, and its composites with it (R382). The next child of a `SEQ` begins with empty links. -/
def endNode : Nat → List GNode → Nat → W → TreeEnd
  | 0, t, _, _ => { tree := t }
  | f + 1, t, i, exit =>
    let t := modAt t i fun g => { g with ended := true, live := false, exit := exit }
    match (gAt t i).parent with
    | none => { tree := t, root := some exit }
    | some p =>
      let g := gAt t p
      let first := (gAt t (g.children.headD 0)).exit
      if g.kind = 3 then
        if g.cur + 1 < g.children.length then
          let t' := modAt t p fun g => { g with cur := g.cur + 1 }
          let r := activate 10 (g.children.getD (g.cur + 1) 0) t'
          { tree := r.2, links := innerLinks t p, leaves := r.1 }
        else endNode f t p first
      else if g.kind = 7 then
        if exit ≠ 0 then endNode f t p first
        else let r := activate 10 i t; { tree := r.2, leaves := r.1 }
      else if g.children.all fun c => (gAt t c).ended then endNode f t p first
      else { tree := t }
/-- Whether the leaves that follow the end of a leaf can be created: no byte of their rows is locked by a matrix command, which the device treats as
not NULL (12_vector_matrix.md R228). -/
def State.mayEnd (s : State) (n : Nest) (i : Nat) : Bool :=
  (endNode 12 n.gnodes i (gAt n.gnodes i).exit).leaves.all fun j => !s.matrixLocked (gAt n.gnodes j).rid
/-- A leaf of a nest ends, with its exit value. -/
def State.nodeEnd (s : State) (k slot i : Nat) : State :=
  match s.nestAt k slot with
  | none => s
  | some n =>
    let e := endNode 12 n.gnodes i (gAt n.gnodes i).exit
    let s := (s.modNest k slot fun n => { n with gnodes := e.tree }).clearLinks k e.links
    match e.root with
    | some exit => s.nestEnd k slot 0 (exit.toNat % 2 ^ 48)
    | none => if e.leaves.isEmpty then s else s.createLeaves k slot e.leaves

/-! ### Fault routing (R388, R390) -/

/-- The nearest composite with a handler, from a node up. -/
def handlerAbove (t : List GNode) : Nat → Option Nat → Option Nat
  | 0, _ => none
  | _, none => none
  | f + 1, some i => let g := gAt t i; if g.hnd.isSome then some i else handlerAbove t f g.parent

/-- The fault of a row of a nest. -/
def State.faultOf (s : State) (n : Nest) (rid : Nat) : NestFault :=
  let t := s.thrOf rid
  { row := rid, inst := (match t.nest with | some (_, j) => (gAt n.gnodes j).number | none => 0), cause := (t.trapCause.map Cause.code).getD 0,
    g3 := t.trapG3, pc := BitVec.ofNat 64 (s.ctlOf rid).pc.toNat, trapAt := t.trapAt }
/-- A composite's handler started for a fault. -/
def State.startNestHandler (s : State) (k slot i : Nat) (x : NestFault) : State :=
  match s.nestAt k slot with
  | none => s
  | some n =>
    let g := gAt n.gnodes i
    let s := s.rowZero g.hrow 0 320
    let s := s.rowPut g.hrow 8 8 (nestHandle k slot n)
    let s := s.rowPut g.hrow 16 8 x.inst
    let s := s.rowPut g.hrow 24 8 x.cause
    let s := s.rowPut g.hrow 32 8 x.g3.toNat
    let s := s.rowPut g.hrow 40 8 x.pc.toNat
    let s := s.makeThread g.hrow (s.gdw n.tenant (g.hnd.getD 0) 1) 3 n.team true true
    let s := s.modThr g.hrow fun t => { t with serves := some { faulted := x.row, nest := some (slot, i) } }
    s.modGNode k slot i fun g => { g with hbusy := some x }
/-- The composite that shares a handler row and has a fault that waits: the one given first, else the first of the tree. -/
def nextFault (t : List GNode) (i : Nat) : Option Nat :=
  if (gAt t i).faults.isEmpty then t.findIdx? fun g => g.hnd.isSome && g.hrow == (gAt t i).hrow && !g.faults.isEmpty else some i
/-- The handler of a composite takes the next fault that waits for its row, which the children of a `SEQ` may share, when that row is NULL and not
locked by a matrix command (R388; 12_vector_matrix.md R228). -/
def State.handlerNext (s : State) (k slot i : Nat) : State :=
  match s.nestAt k slot with
  | none => s
  | some n =>
    if n.aborting.isSome || !s.rowFree (gAt n.gnodes i).hrow then s else
    match nextFault n.gnodes i with
    | none => s
    | some j =>
      match (gAt n.gnodes j).faults with
      | x :: rest => (s.modGNode k slot j fun g => { g with faults := rest }).startNestHandler k slot j x
      | [] => s
/-- A fault passed to the nearest composite with a handler from a node up; with none, the nest is aborted (R388). A handler whose row is in use takes
it later, in fault order. -/
def State.passFault (s : State) (k slot : Nat) (x : NestFault) (from_ : Option Nat) : State :=
  match s.nestAt k slot with
  | none => s
  | some n =>
    match handlerAbove n.gnodes 10 from_ with
    | none => s.nestAbort 256 k slot 0x0F x.inst
    | some i => (s.modGNode k slot i fun g => { g with faults := g.faults ++ [x] }).handlerNext k slot i
/-- The fault that a row has now passed on. -/
def State.routeFault (s : State) (k slot faulted : Nat) (from_ : Option Nat) : State :=
  match s.nestAt k slot with
  | none => s
  | some n => s.passFault k slot (s.faultOf n faulted) from_
/-- Whether a fault still stands: its row is FAULTED, or HELD over FAULTED, by that same trap. -/
def State.stillFaulted (s : State) (x : NestFault) : Bool :=
  ((s.ctlOf x.row).state == .faulted || ((s.ctlOf x.row).state == .held && (s.thrOf x.row).saved == .faulted)) && (s.thrOf x.row).trapAt == x.trapAt
/-- A nest handler ends: a fault that still stands passes on as it was, and the handler's row takes the next one (R388, R390). -/
def State.nestHandlerEnd (s : State) (k slot i : Nat) : State :=
  match s.nestAt k slot with
  | none => s
  | some n =>
    let g := gAt n.gnodes i
    let s := s.modGNode k slot i fun g => { g with hbusy := none }
    let s := match g.hbusy with
      | some x => if s.stillFaulted x then s.passFault k slot x g.parent else s
      | none => s
    s.handlerNext k slot i

end Sys2Proof.Machine
end

