-- ==== Sys2Proof/Machine/Ops.lean ====
section
/-! DEFINITION. Taking a synchronous trap and returning from one (15_traps.md R258 to R265): cancelling the open packet, closing the
row, choosing the destination, starting a handler row or queueing the fault, and `TRET`. -/

namespace Sys2Proof.Machine

/-! ### The open packet (R172, R175) -/

/-- A send buffer freed (R172). -/
def State.freeSendBuf (s : State) (oct buf : Nat) : State := (s.modOct oct fun o => { o with hub := terase o.hub buf }).serveHub oct
/-- The open packet of a row cancelled (R172). -/
def State.cancelPacket (s : State) (rid : Nat) : State :=
  match (s.thrOf rid).packet with
  | none => s.modCtl rid fun c => { c with p := false }
  | some p =>
    ((s.modThr rid fun t => { t with packet := none }).modCtl rid fun c => { c with p := false }).freeSendBuf (hubOf rid) p.buf

/-! ### Where a trap goes (R260, R261) -/

/-- The handler address of a row's team, when `TEAMHDL` has `V` = 1. -/
def State.teamHandler (s : State) (rid : Nat) : Option Nat :=
  let v := (tget 0 (s.cluOf (clusterOfRid rid)).teamhdl (s.ctlOf rid).team.toNat : W).toNat
  if v % 2 = 1 then some (bits v 56 2 * 4) else none
/-- The lowest helper slot that no live helper of a row holds (R104). -/
def State.freeHelperSlot (s : State) (rid : Nat) : Option Nat :=
  (List.range 10).find? fun i => !((s.helpersOf rid).any fun h => h.1 == i)
/-- The lowest NULL pool row of a row's core that no nest has reserved (R104, R379). -/
def State.freePoolRow (s : State) (core : Nat) : Option Nat :=
  let ten := s.tenantOf core
  (s.poolRows core ten).find? fun r => s.rowFree (ridOf core r) && !((s.csOf core ten).helpers.any fun e => e.1 == r)
    && !((s.nestRows (clusterOf core)).contains (ridOf core r))

/-- A handler row started for a faulted row (R261). That the device's zeroing of bytes 0 to 319 leaves uncorrectable marks in place is the model's
(R271 names stores and copies only; DESIGN CHOICE; entry 99). -/
def State.startHandler (s : State) (faulted row : Nat) (cause : Nat) (g3 pc : W) (hdl : Nat) : State :=
  let r := ridOf (coreOfRid faulted) row
  let s := s.rowZero r 0 320
  let s := s.rowPut r 8 8 (rowOfRid faulted)
  let s := s.rowPut r 16 8 cause
  let s := s.rowPut r 24 8 g3.toNat
  let s := s.rowPut r 32 8 pc.toNat
  (s.makeThread r hdl 3 (s.ctlOf faulted).team true true).modThr r fun t => { t with serves := some { faulted := faulted } }

/-- The destination of a trap of a closed row: the first line of R260 that applies. -/
def State.dispatchTrap (s : State) (rid : Nat) (c : Cause) (g3 : W) : State :=
  let t := s.thrOf rid
  let core := coreOfRid rid
  let pc : W := BitVec.ofNat 64 (s.ctlOf rid).pc.toNat
  let queue : Nat → State := fun why => s.queueFault rid c.code why g3 pc t.trapAt
  match t.nest, t.serves with
  | some (slot, i), _ => s.routeFault (clusterOf core) slot rid (some i)
  | none, some v =>
    match v.nest with
    | some (slot, i) =>
      match s.nestAt (clusterOf core) slot with
      | some n => s.nestAbort 256 (clusterOf core) slot 0x0F (((gAt n.gnodes i).hbusy.map (·.inst)).getD 0)
      | none => queue 2
    | none => queue 2
  | none, none =>
    match s.teamHandler rid with
    | none => queue 0
    | some hdl =>
      match (s.ctlOf rid).h, s.freeHelperSlot rid, s.freePoolRow core with
      | false, some slot, some row =>
        let s := s.modCsRow rid fun x => { x with helpers := tset x.helpers row { parent := rowOfRid rid, slot := slot } }
        s.startHandler rid row c.code g3 pc hdl
      | _, _, _ =>
        if s.rowFree (ridOf core 2047) then s.startHandler rid 2047 c.code g3 pc hdl
        else queue 1

/-! ### Handlers on the base-die cores (22_near_memory.md R343) -/

/-- A handler of a base-die core ends: its slot receives a message, and its row becomes free. -/
def State.endBaseHandler (s : State) (rid status info : Nat) : State :=
  let b := rid - baseRid
  match (s.bdcOf b).run with
  | none => s
  | some (sender, _, slot, ten) =>
    let s := s.post (bits sender.toNat 23 11) ten slot status info
    let s := { s with ctl := terase s.ctl rid, thr := terase s.thr rid }
    s.modBdc b fun x => { x with run := none, bundles := 0 }
/-- A kill (R343): its cause and the address of the word are posted, and a record goes to the host fault ring. -/
def State.killBaseHandler (s : State) (rid : Nat) (c : Cause) (pc : W) : State :=
  let ten := (s.bdcOf (rid - baseRid)).tenant
  (s.endBaseHandler rid c.code (pc.toNat % 2 ^ 48)).hfr 5 ten
    [BitVec.ofNat 64 (rid - baseRid), BitVec.ofNat 64 c.code, pc]

/-! ### Taking a synchronous trap (R259) -/

/-- A stop that was marked while the row was OPEN taken by a row that has closed by itself (R269): a row that is EXITED has nothing to save, and is held for a castling alone. -/
def State.takeMark (s : State) (rid : Nat) : State :=
  match (s.thrOf rid).stop, (s.ctlOf rid).state with
  | some _, .opened => s
  | some .abort, _ =>
    let slot := match (s.thrOf rid).nest, (s.thrOf rid).serves with
      | some (x, _), _ => some x
      | none, some v => v.nest.map (·.1)
      | none, none => none
    let s := s.stopRow rid .abort
    match slot with
    | some x => s.abortProgress (clusterOfRid rid) x
    | none => s
  | some why, st =>
    let s := s.modThr rid fun t => { t with stop := none }
    if st = .exited ∧ why ≠ .castle then s else s.stopRow rid why
  | none, _ => s

/-- A row traps: its open packet is cancelled, it closes to FAULTED with control word 1 naming the trapping word, and the trap is
dispatched in the cycle of its close, which a fault-queue entry carries (R261, R262); a mailbox slot kept for it is given back (13_engines.md R241);
accesses that waited for the boundary apply after the close (R269). A handler of a base-die core is killed instead. `fetch` says that the trap was an `ACCESS` on the fetch of a bundle. -/
def State.takeTrap (s : State) (rid : Nat) (c : Cause) (g3 pc : W) (fetch : Bool := false) : State :=
  if isBase rid then s.killBaseHandler rid c pc else
  let s := (s.cancelPacket rid).abandonQueries rid
  let s := s.modCtl rid fun x => { x with pc := pcOf pc }
  let waiting := (s.thrOf rid).deferred
  let s := (s.modThr rid fun t => { t with deferred := [] }).closeRow rid .faulted 0 0
  let s := (s.modThr rid fun t => { t with trapCause := some c, trapG3 := g3, trapAt := s.cycle, fetchTrap := fetch, lockClaim := 0 }).serveLocks
    (clusterOfRid rid)
  let s := s.dropKept rid
  ((s.dispatchTrap rid c g3).flushDeferred waiting).takeMark rid

/-- A trap of a row that is not OPEN (R39): a `STALEMATE` report of a BLOCKED row, or an open that fails with `UNCORR`. -/
def State.trapClosed (s : State) (rid : Nat) (c : Cause) (g3 : W) : State :=
  let s := ((s.modCtl rid fun x => { x with state := .faulted, wait := 0, wake := 0 }).noteIdle rid).moved rid
  let s := (s.modThr rid fun t => { t with trapCause := some c, trapG3 := g3, trapAt := s.cycle, fetchTrap := false, waitArg := 0, lockClaim := 0
    }).serveLocks (clusterOfRid rid)
  (s.dropKept rid).dispatchTrap rid c g3

/-! ### Returning from a trap (R265) -/

/-- The sequential successor of a word (R57), given whether its bundle is a PAIR. -/
def successor (pc : Nat) (pair : Bool) : Nat := if pair ∨ pc % 8 = 4 then pc / 8 * 8 + 8 else pc / 8 * 8 + 4

/-- Bit `L` of the bundle that a row's program counter names, as a fetch of the row reads it; none where it cannot. -/
def State.bundleL (s : State) (rid : Nat) (pc : Nat) : Option Bool :=
  match s.coreXlat rid (pc / 8 * 8) .fetch with
  | .ok pa _ _ => some (decide (s.peek pa 4 / 2 ^ 31 % 2 = 1))
  | _ => none

/-- The bundle of the word that closes a row noted, with its bit `L`: `TRET` of mode 1 reads it where the page cannot be read any more. -/
def State.noteBundle (s : State) (rid : Nat) : State :=
  let pc := (s.ctlOf rid).pc.toNat
  let l := s.bundleL rid pc
  s.modThr rid fun t => { t with bundleAt := l.map fun l => (pc / 8 * 8, l) }
/-- Where mode 1 resumes a faulted row (R265): at the successor of the word that its program counter names; past the bundle where `L` cannot be
read, because the trap was an `ACCESS` on its fetch, or because the page of a bundle that the row has not executed is gone (DESIGN CHOICE; entry
109). -/
def State.resumePc (s : State) (r : Nat) : Nat :=
  let t := s.thrOf r
  let pc := (s.ctlOf r).pc.toNat
  let past := pc / 8 * 8 + 8
  if t.fetchTrap then past
  else match s.bundleL r pc, t.bundleAt with
    | some l, _ => successor pc (!l)
    | none, some (b, l) => if b = pc / 8 * 8 then successor pc (!l) else past
    | none, none => past

/-- A handler disposes of the faulted row: mode 0 resumes it, mode 1 resumes it after the trapping word, mode 2 leaves it FAULTED. A HELD
row's saved state changes in the same way. -/
def State.resolveFault (s : State) (r mode : Nat) : State :=
  let c := s.ctlOf r
  let t := s.thrOf r
  let held := c.state == .held && t.saved == .faulted
  if !(c.state == .faulted || held) then s else
  let s :=
    if mode = 1 then
      let next := s.resumePc r
      (s.modCtl r fun x => { x with pc := pcOf (BitVec.ofNat 64 next) }).modThr r fun t => { t with mid := next % 8 == 4 }
    else s
  if mode ≤ 1 then (if held then s.modThr r fun t => { t with saved := .ready } else s.makeReady r) else s

/-- What happens at the end of a handler row: it becomes NULL, and a nest handler passes its fault on or takes the next (R261, R388). -/
def State.endHandler (s : State) (rid : Nat) : State :=
  match (s.thrOf rid).serves with
  | none => s
  | some v =>
    let s := s.closeRow rid .null 0 0
    match v.nest with
    | some (slot, i) => (s.nestHandlerEnd (clusterOfRid rid) slot i).abortProgress (clusterOfRid rid) slot
    | none => s

/-- `TRET` of a handler row with a mode of 0 to 2. -/
def State.trapReturn (s : State) (rid mode : Nat) : State :=
  match (s.thrOf rid).serves with
  | none => s
  | some v => (s.resolveFault v.faulted mode).endHandler rid

end Sys2Proof.Machine
end

