-- ==== Sys2Proof/Machine/Chunk.lean ====
section
/-! DEFINITION. Chunks, commits and replays, outbound queues and pending loads (07_memory_model.md R123 to R145), and outside accesses
that wait for a row's boundary (02_rows.md R46 to R48). -/

namespace Sys2Proof.Machine

/-! ### Signatures (R129) -/

def hashes : List Nat := [0x8F3A61D5C27B4E09, 0x53C9E0A71D86FB35, 0xE64D2B9870F1A3C7, 0x29A7F4C3B50E6D81]
/-- The bits that the line of a physical address sets. -/
def lineSig (pa : Nat) : BitVec 1024 :=
  hashes.foldl (fun b h => b ||| (1#1024 <<< (bits pa 51 6 * h % 2 ^ 64 / 2 ^ 54))) 0
/-- The bits of every line of a byte range. -/
def rangeSig (pa n : Nat) : BitVec 1024 :=
  (List.range (if n = 0 then 0 else (pa + n - 1) / 64 - pa / 64 + 1)).foldl (fun b i => b ||| lineSig (pa + 64 * i)) 0

/-! ### Commit slots (R123, R130, R132) -/

/-- Whether the arbiter of a cluster has taken its two commits of this cycle (R132). -/
def State.commitFull (s : State) (k : Nat) : Bool := (s.cluOf k).commitAt == s.cycle && decide (2 ≤ (s.cluOf k).commits)
/-- A commit counted (R132). -/
def State.countCommit (s : State) (k : Nat) : State :=
  s.modClu k fun c => { c with commitAt := s.cycle, commits := if c.commitAt = s.cycle then c.commits + 1 else 1 }
/-- The next commit slot taken with a write signature; the latest 512 signatures are held. -/
def State.commitSlot (s : State) (k : Nat) (sig : BitVec 1024) : State :=
  s.modClu k fun c =>
    let l := c.sigs ++ [(c.nextSlot, sig)]
    { c with sigs := if 512 < l.length then l.drop 1 else l, nextSlot := c.nextSlot + 1 }
/-- The test of R130. -/
def conflicts (c : Cluster) (ch : Chunk) : Bool :=
  (match c.sigs with
   | [] => false
   | (o, _) :: _ => decide (ch.start < o)) || c.sigs.any fun e => decide (ch.start ≤ e.1) && (ch.rsig &&& e.2) != 0

/-! ### Stores at their homes (R46, R125, R132, R368) -/

/-- A control store that reaches a row: it waits for the boundary of an OPEN row, and for the end of a write-back, of the cycle of a transition
and of the accesses before it (R38, R48). -/
def State.ctlArrive (s : State) (rid w : Nat) (v : W) : State :=
  if (s.ctlOf rid).state = .opened ∨ !s.ctlFree rid then s.modThr rid fun t => { t with deferred := t.deferred ++ [.control rid w v] }
  else s.ctlStore rid w v
/-- A write to a BUSY octet held until `BUSY` returns to 0 (R368). -/
def State.holdWrite (s : State) (pa : Nat) (bs : List Byte) (ten : Nat) (what : HeldFor) : State :=
  match rowAt pa with
  | none => s
  | some rid => s.modOct (hubOf rid) fun o => { o with heldWrites := o.heldWrites ++ [{ pa := pa, bytes := bs, tenant := ten, what := what }] }
/-- Bytes stored at their home: held while the octet is BUSY, deferred to the boundary of an OPEN row, else applied. -/
def State.homeStore (s : State) (pa : Nat) (bs : List Byte) (ten : Nat) (what : HeldFor) : State :=
  match rowAt pa with
  | none => (s.clearUncorr pa bs.length).poke pa bs
  | some rid =>
    if s.busyBank pa then s.holdWrite pa bs ten what
    else match regionOf pa with
      | .control _ w _ => s.ctlArrive rid w (BitVec.ofNat 64 (ofBytes bs))
      | _ =>
        if (s.ctlOf rid).state = .opened ∨ (s.thrOf rid).deferred ≠ [] then s.modThr rid fun t => { t with deferred := t.deferred ++ [.store pa bs] }
        else s.rowStoreBytes pa bs
/-- A slot taken by a write to a cluster home from outside it (R132). -/
def State.slotAt (s : State) (pa n : Nat) : State :=
  match clusterHome pa with
  | some k => s.commitSlot k (rangeSig pa n)
  | none => s
/-- A store that reaches its home from outside the cluster of the home: it takes a slot there (R132). -/
def State.arriveStore (s : State) (pa : Nat) (bs : List Byte) (ten : Nat) (what : HeldFor) : State :=
  (s.slotAt pa bs.length).homeStore pa bs ten what

/-! ### Beginning a chunk (R126, R129, R130) -/

/-- A chunk begun at the current word, when none is open of which a word has issued (R130: its start is that of its first bundle); its checkpoint is
the row as it stands. -/
def State.beginChunk (s : State) (rid : Nat) : State :=
  let t := s.thrOf rid
  if t.chunk.live ∧ t.chunk.steps ≠ 0 then s else
  let c := s.ctlOf rid
  s.modThr rid fun t => { t with chunk := { t.chunk with
    live := true, bundles := 0, steps := 0, start := (s.cluOf (clusterOfRid rid)).nextSlot, rsig := 0, wsig := 0, stores := [], deferred := [],
    ended := false, release := none, loads := t.loads, row := s.rowCells rid, pc := c.pc, p := c.p, pkt := t.packet, turn := t.turn,
    mid := t.mid
    flits := (match t.packet with
      | some p => ((tget none (s.octOf (hubOf rid)).hub p.buf).map fun b => b.flits.length).getD 0
      | none => 0), pops := [] } }
def State.modChunk (s : State) (rid : Nat) (f : Chunk → Chunk) : State := s.modThr rid fun t => { t with chunk := f t.chunk }

/-- The distinct lines of a chunk buffer. -/
def bufLines (l : List BufStore) : List Nat := ((l.flatMap fun b => [b.pa / 64, (b.pa + b.bytes.length - 1) / 64])).eraseDups
/-- A byte of a chunk buffer: that of the youngest store that covers it. -/
def bufByte (l : List BufStore) (pa : Nat) : Option Byte :=
  l.reverse.findSome? fun b => if b.pa ≤ pa then b.bytes[pa - b.pa]? else none

/-! ### Committing (R130, R131, R141) -/

/-- Whether every committed store of a thread is forwardable or at its home: visible at `CLUSTER` (R125). -/
def State.storesSeen (s : State) (rid : Nat) : Bool :=
  !((s.cluOf (clusterOfRid rid)).outq.any fun e => e.rid == rid && !e.forward) && !s.storeHeld rid
/-- Whether a release holds (R141, R143): the loads before it are performed, and its stores visible. At `THREAD` a store is visible once it has
issued. -/
def State.releaseReady (s : State) (rid : Nat) (r : Release) : Bool :=
  ((s.thrOf rid).loads.all fun l => l.vec || decide (r.before ≤ l.id)) && s.postedDone rid && (!r.stores || s.storesSeen rid)
/-- What a release that is made now asks for. -/
def State.releaseNow (s : State) (stores : Bool) : Release := { before := s.seq, stores := stores }
/-- Two releases in one. -/
def Release.both (r : Release) : Option Release → Release
  | some q => { before := max r.before q.before, stores := r.stores || q.stores }
  | none => r
/-- Every earlier load performed and every earlier store at its home: what `PACKAGE` and `DOMAIN` wait for, and device homes (R138, R143). -/
def State.drained (s : State) (rid : Nat) : Bool := ((s.thrOf rid).loads.all fun l => l.vec) && s.storesHome rid
/-- Whether vector operations of a row are queued (R210). -/
def State.vecBusy (s : State) (rid : Nat) : Bool := (s.coreOf (coreOfRid rid)).vq.any fun v => v.rid == rid

/-- A helper started at its parent's commit (R105). -/
def State.startHelper (s : State) (parent row : Nat) (pc arg : W) : State :=
  let r := ridOf (coreOfRid parent) row
  let c := s.ctlOf parent
  let s := s.rowZero r 0 320
  let s := s.rowPut r 8 8 arg.toNat
  let s := s.rowPut r 16 8 (rowOfRid parent)
  s.makeThread r pc.toNat c.pri c.team true true

/-- The elevator that a packet of a row is sent toward (R349). -/
def State.packetVia (s : State) (rid : Nat) (dest : W) : Option Nat :=
  let oct := octetOf (coreOfRid rid)
  if bits dest.toNat 48 48 = 0 ∧ stackOf (bits dest.toNat 23 11) = oct / 96 then none else some (s.sendVia oct)
/-- A change deferred to the commit. -/
def State.applyAtCommit (s : State) (rid : Nat) : AtCommit → State
  | .hstart row pc arg => s.startHelper rid row pc arg
  | .join rows => rows.foldl (fun s r => (s.nullRow r 0).moved r) s
  | .setpri p => s.modCtl rid fun c => { c with pri := p }
  | .release =>
    let cur := ((s.thrOf rid).packet.map (·.buf))
    let (n, s) := s.tick
    s.modOct (hubOf rid) fun o => { o with hub := o.hub.map fun e => match e.2 with
      | some b => if b.rid = rid ∧ !b.released ∧ cur ≠ some e.1 then (e.1, some { b with released := true, order := n, via := s.packetVia rid b.dest }) else e
      | none => e }
  | .nest slot => s.instantiate (clusterOfRid rid) slot
  | .unbind reg => s.unbind rid reg
  | .mbx tag => s.freeSlot (coreOfRid rid) (s.coreOf (coreOfRid rid)).loaded tag

/-- One buffered store applied at commit: to single-copy memory, or to the outbound queue of its home. -/
def State.commitStore (s : State) (rid : Nat) (b : BufStore) : State :=
  if b.home then s.homeStore b.pa b.bytes (s.rowTenant rid) (.row rid)
  else
    let (n, s) := s.tick
    s.modClu (clusterOfRid rid) fun c => { c with
      outq := c.outq ++ [{ pa := b.pa, bytes := b.bytes, rid := rid, order := n, forward := !b.strong,
                            via := s.viaFor rid b.pa }] }

/-- The commit step. -/
def State.applyCommit (s : State) (rid : Nat) : State :=
  let k := clusterOfRid rid
  let ch := (s.thrOf rid).chunk
  let s := (s.commitSlot k ch.wsig).countCommit k
  let s := s.modThr rid fun t => { t with chunk := {}, fence := none }
  let s := s.modClu k fun c => { c with grant := if c.grant = some rid then none else c.grant }
  let s := ch.stores.foldl (fun s b => s.commitStore rid b) s
  ch.deferred.foldl (fun s d => s.applyAtCommit rid d) s

/-- Helper reservations that the chunk made given back (R79). -/
def State.undoDeferred (s : State) (rid : Nat) (l : List AtCommit) : State :=
  l.foldl (fun s d => match d with
    | .hstart row _ _ => s.modLoaded (coreOfRid rid) fun c => { c with helpers := terase c.helpers row }
    | _ => s) s

/-- A replay (R79, R131): the row returns to its checkpoint with a smaller limit, and its port reloads in 4 cycles. -/
def State.replay (s : State) (rid : Nat) : State :=
  let t := s.thrOf rid
  let ch := t.chunk
  let core := coreOfRid rid
  let s := s.undoDeferred rid ch.deferred
  let s := { s with mem := msplice s.mem (rowAddr rid) 1024 ch.row }
  let s := s.modCtl rid fun c => { c with pc := ch.pc, p := ch.p }
  let s : State := match ch.pkt with
    | some p => s.modOct (hubOf rid) fun o => { o with hub := tset o.hub p.buf ((tget none o.hub p.buf).map fun (b : SendBuf) =>
        { b with flits := b.flits.take ch.flits }) }
    | none => s
  let s := s.modThr rid fun t => { t with
    chunk := { limit := if ch.limit = 256 then 32 else 1 }, loads := ch.loads, packet := ch.pkt, turn := ch.turn, mid := ch.mid }
  s.modCore core fun c => { c with
    vq := c.vq.filter fun v => v.rid != rid
    streams := c.streams.map fun x => if x.rid = rid then
      { x with vals := (ch.pops.filterMap fun p => if p.1 = x.reg then some p.2 else none) ++ x.vals } else x
    ports := c.ports.map fun e => match e.2 with
      | some p => if p.row = rowOfRid rid ∧ p.phase = .running then (e.1, some { p with busy := s.cycle + 4 }) else e
      | none => e }

/-- How an attempt to commit ends. -/
inductive CommitRes where
  | done (s : State)
  | replayed (s : State)
  | notYet
  deriving Repr

/-- Whether the commit of a thread would start a row of which a matrix command holds a byte locked: such a row counts as not NULL
(12_vector_matrix.md R228), and the commit waits. -/
def State.startsBlocked (s : State) (rid : Nat) : Bool :=
  (s.thrOf rid).chunk.deferred.any fun d => match d with
    | .hstart row _ _ => s.matrixLocked (ridOf (coreOfRid rid) row)
    | .nest slot => match s.nestAt (clusterOfRid rid) slot with
      | some n => (activate 10 0 n.gnodes).1.any fun i => s.matrixLocked (gAt n.gnodes i).rid
      | none => false
    | _ => false
/-- An attempt to commit a row's open chunk. `by` is the row whose access waits for the commit, which may hold the grant (R131). A row that
holds the grant commits without a test. -/
def State.tryCommit (s : State) (rid : Nat) (asker : Option Nat := none) : CommitRes :=
  let k := clusterOfRid rid
  let c := s.cluOf k
  let t := s.thrOf rid
  if s.vecBusy rid || s.commitFull k || s.startsBlocked rid then .notYet
  else if [t.chunk.release, t.fence].any fun r => (match r with | some r => !s.releaseReady rid r | none => false) then .notYet
  else match c.grant with
    | none => if conflicts c t.chunk then .replayed (s.replay rid) else .done (s.applyCommit rid)
    | some g =>
      if g = rid then .done (s.applyCommit rid)
      else if asker = some g then (if conflicts c t.chunk then .replayed (s.replay rid) else .done (s.applyCommit rid))
      else .notYet

/-! ### The boundary of a running row (R46 to R48, R151) -/

/-- A control access to an OPEN row at its boundary (R48): the row closes and is treated as READY; if it stays READY, it goes first and its bundle
count continues. What waited behind the access applies after it, and then a stop that was marked is taken (15_traps.md R267). -/
def State.controlRequest (s : State) (rid word : Nat) (v : Option W) (behind : List Deferred) : State :=
  let turn := (s.thrOf rid).turn
  let s := s.closeRow rid .ready 0 0
  let s := match v with | some v => s.ctlStore rid word v | none => s
  let s := if (s.ctlOf rid).state = .ready then s.modThr rid fun t => { t with first := true, turn := turn } else s
  (s.flushDeferred behind).takeMark rid

/-- Whether a row is OPEN with its open completed. -/
def State.running (s : State) (rid : Nat) : Bool :=
  (s.ctlOf rid).state == .opened && (isBase rid || match s.portOf rid with
    | some p => (match tget none (s.coreOf (coreOfRid rid)).ports p with | some x => x.phase == .running | none => false)
    | none => false)

/-- Whether a pending load of a row binds some of the bytes `[off, off + n)` of the row, or its window holds them: an outside access sees them as a
close would leave them, and waits (R47). -/
def State.cellsPending (s : State) (rid off n : Nat) : Bool :=
  let hits : Nat → Nat → Bool := fun lo len => decide (lo < off + n) && decide (off < lo + len)
  (s.thrOf rid).loads.any fun l =>
    (match l.reg with | some r => hits (8 * r) 8 | none => false) || (match l.win with | some k => hits (216 + 8 * k) 8 | none => false)
      || (match l.seg with | some g => hits (320 + 64 * g) 64 | none => false)

/-- Deferred accesses of an OPEN row applied at its boundary, in order of arrival. A store to bytes that a pending load binds waits for it. A
control request waits for `P` = 0 (R42) and for the row's pending loads, and what arrived behind it waits with it: the manual does not say
whether a data access may pass it (DESIGN CHOICE; entry 89). -/
def State.applyDeferred : Nat → State → Nat → State
  | 0, s, _ => s
  | n + 1, s, rid =>
    if (s.ctlOf rid).state ≠ .opened then s else
    match (s.thrOf rid).deferred with
    | [] => s
    | d :: rest =>
      match d with
      | .store pa bs =>
        if s.cellsPending rid (pa - rowAddr rid) bs.length then s
        else State.applyDeferred n ((s.modThr rid fun t => { t with deferred := rest }).rowStoreBytes pa bs) rid
      | .control _ w v =>
        if (s.ctlOf rid).p || !(s.thrOf rid).loads.isEmpty then s
        else (s.modThr rid fun t => { t with deferred := [] }).controlRequest rid w (some v) rest

/-- Whether a row executes again what a replay undid, with none of it issued yet: no boundary at which an access applies, until the replayed
chunk commits (R46). -/
def State.replaying (s : State) (rid : Nat) : Bool := !(s.thrOf rid).chunk.live && (s.thrOf rid).chunk.limit != 256

/-- Whether the cycles of a row's last step, or of its reload, have passed at a cycle (R81, R131). -/
def State.stepOver (s : State) (rid at_ : Nat) : Bool :=
  isBase rid || match (s.portOf rid).bind fun p => (tget none (s.coreOf (coreOfRid rid)).ports p : Option Port) with
    | some x => decide (x.busy ≤ at_)
    | none => false
/-- Whether they have passed, and the row may issue. -/
def State.stepDone (s : State) (rid : Nat) : Bool := s.stepOver rid s.cycle
/-- Whether a row stands at a boundary: they end with this cycle or have passed. The accesses that wait apply before the next word issues (R46). -/
def State.stepEnds (s : State) (rid : Nat) : Bool := s.stepOver rid (s.cycle + 1)
/-- A row brought to a boundary, its chunk committed first, after any replays (R46), and whether it stands there. An access under the commit
grant applies at the first boundary after the reload of a replay (R131). A chunk whose first word could not issue has nothing to commit; that accesses
apply there in a replay too, so that two rows that wait for each other's boundary go on, is the model's (DESIGN CHOICE; entry 116). -/
def State.boundary (s : State) (rid : Nat) (asker : Option Nat := none) : State × Bool :=
  let granted := asker.isSome && (s.cluOf (clusterOfRid rid)).grant == asker
  if !s.running rid || !s.stepEnds rid then (s, false)
  else if (s.thrOf rid).closeAs.isSome then (s, false)
  else if !(s.thrOf rid).chunk.live then (s, !s.vecBusy rid && (!s.replaying rid || granted))
  else if (s.thrOf rid).chunk.steps = 0 then (s, !s.vecBusy rid)
  else match s.tryCommit rid asker with
    | .done s => (s, true)
    | .replayed s => (s, false)
    | .notYet => (s, false)

/-- The row an outside access of `n` bytes at an address reaches made ready for it: a row that is not OPEN once its write-back has ended (R41), an OPEN one at its boundary,
after the accesses that arrived before, and once no pending load binds the bytes (R47). -/
def State.settle (s : State) (rid pa n : Nat) (asker : Option Nat := none) : Option State :=
  if (s.ctlOf rid).state ≠ .opened then (if (s.thrOf rid).deferred = [] ∧ !s.writingBack rid then some s else none)
  else match s.boundary rid asker with
    | (_, false) => none
    | (s, true) =>
      let s := s.applyDeferred (s.thrOf rid).deferred.length rid
      if (s.thrOf rid).deferred ≠ [] then none
      else if (s.ctlOf rid).state = .opened ∧ pa < ctlAddr 0 ∧ s.cellsPending rid (pa - rowAddr rid) n then none else some s

/-- The same for the row an address names; an address that names none is ready. -/
def State.settleAt (s : State) (pa n : Nat) (self : Option Nat) : Option State :=
  match rowAt pa with
  | some r => if self = some r then some s else s.settle r pa n self
  | none => some s
/-- An outside access that waits ends the chunk of the OPEN row that it reaches at its next boundary: it commits or replays there (R46). -/
def State.pressAt (s : State) (pa : Nat) (self : Option Nat) : State :=
  match rowAt pa with
  | some r => if self = some r ∨ (s.ctlOf r).state ≠ .opened then s else (s.boundary r self).1
  | none => s

/-- Bytes read at their home: a control word as it is, zero from a BUSY bank (R368), else memory. -/
def State.homeRead (s : State) (pa n : Nat) : Nat :=
  if s.busyBank pa then 0 else
  match regionOf pa with
  | .control rid w _ => (s.ctlWord rid w).toNat
  | _ => s.peekSeen pa n

/-! ### Atomics (09_memory_sync.md R159) -/

/-- The new value of an atomic on `n` bytes. -/
def atomNew (aop n old x e : Nat) : Nat :=
  let w := 8 * n
  let o := old % 2 ^ w
  let x := x % 2 ^ w
  if aop = 0 then (o + x) % 2 ^ w
  else if aop = 1 then x
  else if aop = 2 then (if o = e % 2 ^ w then x else o)
  else if aop = 3 then o &&& x
  else if aop = 4 then o ||| x
  else if aop = 5 then o ^^^ x
  else if aop = 6 then (if toSigned w x < toSigned w o then x else o)
  else if aop = 7 then (if toSigned w o < toSigned w x then x else o)
  else if aop = 8 then min o x
  else max o x

/-- Compare and swap of the control word of any row at a boundary of it (R36, R48). -/
def State.casControl (s : State) (rid word : Nat) (expected new : W) : W × State :=
  if (s.ctlOf rid).state = .opened then
    let old := s.ctlWord rid word
    (old, s.controlRequest rid word (if old = expected then some new else none) [])
  else s.ctlCas rid word expected new

/-- An atomic performed at its home in one step, after the row it reaches was settled and no BUSY bank holds it: the old value. None while a
control request waits for `P` = 0 or, of a row that is not OPEN, for what `ctlFree` says. -/
def State.atomHome (s : State) (pa n aop x e ten : Nat) : Option (Nat × State) :=
  match regionOf pa with
  | .control rid w _ =>
    if if (s.ctlOf rid).state = .opened then (s.ctlOf rid).p || !(s.thrOf rid).loads.isEmpty else !s.ctlFree rid then none
    else
      let r := s.casControl rid w (BitVec.ofNat 64 e) (BitVec.ofNat 64 x)
      some (r.1.toNat, r.2)
  | .rowStore _ _ =>
    let old := s.peekSeen pa n
    some (old, s.rowStoreBytes pa (bytesOf n (atomNew aop n old x e)))
  | _ =>
    let old := s.peek pa n
    some (old, s.homeStore pa (bytesOf n (atomNew aop n old x e)) ten .host)

/-! ### Pending loads (R135) -/

/-- A row's cells with a loaded value put at the places a pending load binds. -/
def bindCells (rid : Nat) (l : PLoad) (v : List Byte) (m : Mem) : Mem :=
  let x := ofBytes v
  let full := if l.sext then (sext (8 * l.size) x).toNat else x
  let m := match l.reg with
    | some r => if r = 0 then m else mwrite m (rowAddr rid + 8 * r) (bytesOf 8 full)
    | none => m
  let m := match l.win with
    | some k => mwrite m (rowAddr rid + 216 + 8 * k) (bytesOf 8 full)
    | none => m
  match l.seg with
  | some g => mwrite m (rowAddr rid + 320 + 64 * g) v
  | none => m

/-- A pending load bound: its value written to the row, and to the checkpoint of a chunk that began after the load. -/
def State.bindLoad (s : State) (rid : Nat) (l : PLoad) (v : List Byte) : State :=
  let s := { s with mem := bindCells rid l v s.mem }
  s.modThr rid fun t => { t with
    loads := t.loads.filter fun x => x.id != l.id
    chunk := match t.chunk.loads.find? fun x => x.id == l.id with
      | some old => { t.chunk with row := bindCells rid old v t.chunk.row, loads := t.chunk.loads.filter fun x => x.id != l.id }
      | none => t.chunk }

/-- Whether two addresses name one row, whose accesses by one source arrive in the order of their issue (R46). -/
def sameRow (a b : Nat) : Bool := (rowAt a).isSome && rowAt a == rowAt b
/-- Whether a pending load may be performed: no earlier load of its thread reaches the same line or row, and no earlier store of it on its way that
does not forward to it (R46, R135). -/
def State.loadReady (s : State) (rid : Nat) (l : PLoad) : Bool :=
  !l.atomic && !l.vec
    && !((s.thrOf rid).loads.any fun o => !o.vec && decide (o.id < l.id) && (o.pa / 64 == l.pa / 64 || sameRow o.pa l.pa))
    && !((s.cluOf (clusterOfRid rid)).outq.any fun e => e.rid == rid && decide (e.order < l.id)
      && ((!e.forward && e.pa / 64 == l.pa / 64) || (e.pa / 64 != l.pa / 64 && sameRow e.pa l.pa)))

/-- The bytes of a pending load: its own chunk's at issue, else the youngest eligible forwardable entry's, else the home's. -/
def State.loadBytes (s : State) (rid : Nat) (l : PLoad) : List Byte :=
  let q := (s.cluOf (clusterOfRid rid)).outq
  let home := bytesOf l.size (s.homeRead l.pa l.size)
  (List.range l.size).map fun i =>
    match l.own.find? fun o => o.1 == i with
    | some o => o.2
    | none =>
      match q.reverse.findSome? fun e =>
        if e.forward && (e.rid != rid || decide (e.order < l.id)) && decide (e.pa ≤ l.pa + i) then e.bytes[l.pa + i - e.pa]? else none with
      | some b => b
      | none => home.getD i 0

/-- The beats of a sum of sketches by its destination header (13_engines.md R242): 2 where that is not valid. -/
def sumBeats (skadd : Bool) (h : BitVec 512) : Nat :=
  if sketchValid h then (sketchOf h).groups * (if skadd then 1 else 2) else 2
/-- The word that an engine command's issue returns: its tag and promised cycle. -/
def promiseWord (tag when_ : Nat) : Nat := tag * 2 ^ 56 + when_ % 2 ^ 56
/-- What a performed load binds: its bytes, or the promise that the header it read at its home gives. -/
def State.loadValue (s : State) (rid : Nat) (l : PLoad) : List Byte :=
  match l.promise with
  | none => s.loadBytes rid l
  | some (skadd, tag, sum) => bytesOf 8 (promiseWord tag (sum + sumBeats skadd (BitVec.ofNat 512 (s.homeRead l.pa 64))))
/-- A pending load performed, once the row it reads is at a boundary. -/
def State.performLoad (s : State) (rid i : Nat) : State :=
  match (s.thrOf rid).loads[i]? with
  | none => s
  | some l =>
    if !s.loadReady rid l then s
    else if (match regionOf l.pa with | .remote p _ => (s.portsTo p).isEmpty | _ => false) then s
    else match s.settleAt l.pa l.size (some rid) with
      | none => s.pressAt l.pa (some rid)
      | some s => s.bindLoad rid l (s.loadValue rid l)

/-! ### Draining (R134, R137) -/

/-- The destination of a packet, as `destOf` tells destinations apart. -/
def packetDest (dest : W) : Nat := if bits dest.toNat 48 48 = 1 then 64 + bits dest.toNat 47 39 else stackOf (bits dest.toNat 23 11)
/-- Whether what an octet's port sends to a destination with an order is held back there: an earlier one, sent toward a retired elevator, has
not been resent (R350). -/
def State.heldBack (s : State) (oct dest order : Nat) : Bool :=
  ((s.cluOf (oct / 24)).outq.any fun o => !s.viaReady o.via && hubOf o.rid == oct && destOf o.pa == dest && decide (o.order < order))
    || (s.octOf oct).hub.any fun e => match e.2 with
      | some b => b.released && !s.viaReady b.via && packetDest b.dest == dest && decide (b.order < order)
      | none => false

/-- Whether an entry may drain: no older entry of the queue touches its line, no older access of its thread reaches the same row (R46), the elevator it was
sent toward works and no packet of its source port to the same destination must be resent before it (R350), and a port leads to a remote
package (R355). -/
def State.drainable (s : State) (q : List OutEntry) (i : Nat) : Bool :=
  match q[i]? with
  | none => false
  | some e => !((q.take i).any fun o => o.pa / 64 == e.pa / 64 || (o.pa + o.bytes.length - 1) / 64 == e.pa / 64
        || (o.rid == e.rid && sameRow o.pa e.pa))
      && !((s.thrOf e.rid).loads.any fun l => !l.vec && !l.atomic && decide (l.id < e.order) && sameRow l.pa e.pa)
      && s.viaReady e.via && !s.heldBack (hubOf e.rid) (destOf e.pa) e.order && (match regionOf e.pa with
        | .remote p _ => !(s.portsTo p).isEmpty
        | _ => true)

/-- The old value of an outbound atomic returned to its thread. -/
def State.atomReturn (s : State) (e : OutEntry) (old : Nat) : State :=
  match (s.thrOf e.rid).loads.find? fun l => e.ret == some l.id with
  | some l => s.bindLoad e.rid l (bytesOf e.bytes.length old)
  | none => s
/-- An operation on a word of a sketch done at its home, which is ready, in one step (19_sketch_at_work.md R314): the old pattern, whether the flag of
the counter's row is set, and whether the counter left its range. -/
def State.wordOp (s : State) (pa : Nat) (op : CtrOp) : Nat × Bool × Bool × State :=
  let old := s.homeRead pa op.bytes
  let r := op.run old
  let bs := bytesOf op.bytes r.1
  (old, r.2.1, r.2.2, match clusterHome pa with
    | some _ => s.rowStoreBytes pa bs
    | none => (s.clearUncorr pa bs.length).poke pa bs)
/-- What a held counter operation tells the posted operation or the sum of sketches that it is part of: the flags that it owes now, and that a counter of
the sum saturated. -/
def State.countDone (s : State) (id flags : Nat) (sat : Bool) : State :=
  { s with
    pip := s.pip.map fun (p : PipOp) => if p.id = id then { p with owes := p.owes ||| flags } else p
    oct := s.oct.map fun (o : Nat × Octet) => (o.1, { o.2 with active := o.2.active.map fun c =>
      if c.id = id then { c with owesD := c.owesD ||| flags, info := c.info ||| (if sat then 1 else 0) } else c }) }
/-- The layout tag that a write gives a row while it is NULL (13_engines.md R244). -/
def State.tagNull (s : State) (pa : Nat) : Option Nat → State
  | none => s
  | some t => match rowAt pa with
    | some r => if (s.ctlOf r).state = .null then s.modCtl r fun x => { x with wake := BitVec.ofNat 36 t } else s
    | none => s
/-- A held write applied when `BUSY` has returned to 0 (R368): its row is not OPEN then. A write of a command that was to tag a NULL row does so
now, and what waits for the write is answered. -/
def State.applyHeld (s : State) (h : HeldWrite) : State :=
  let atom : Nat × Nat × Nat → Nat × State := fun a => (s.atomHome h.pa h.bytes.length a.1 a.2.1 a.2.2 h.tenant).getD (0, s)
  match h.what with
  | .atomic e => match e.atomic with
    | some a => let r := atom a; r.2.atomReturn e r.1
    | none => s
  | .fabric src (some a) => let r := atom a; r.2.modPkg fun p => { p with fabReplies := p.fabReplies ++ [(src, .data r.1)] }
  | .fabric src none => (s.homeStore h.pa h.bytes h.tenant h.what).modPkg fun p => { p with fabReplies := p.fabReplies ++ [(src, .done)] }
  | .host => (s.homeStore h.pa h.bytes h.tenant h.what).modPkg fun p => { p with hostReplies := p.hostReplies ++ [.done] }
  | .row _ => s.homeStore h.pa h.bytes h.tenant h.what
  | .unit _ tag => (s.tagNull h.pa tag).homeStore h.pa h.bytes h.tenant h.what
  | .count id tag op row =>
    let r := (s.tagNull h.pa tag).wordOp h.pa op
    r.2.2.2.countDone id (if r.2.1 then 2 ^ row else 0) r.2.2.1
  | .fabAdd src op =>
    let r := s.wordOp h.pa op
    r.2.2.2.modPkg fun p => { p with fabReplies := p.fabReplies ++ [(src, .data r.1)] }

/-- The entry at a place of a cluster's outbound queues drained. -/
def State.drain (s : State) (k i : Nat) : State :=
  let q := (s.cluOf k).outq
  if !s.drainable q i then s else
  match q[i]? with
  | none => s
  | some e =>
    let gone : State → State := fun s => s.modClu k fun c => { c with outq := c.outq.eraseIdx i }
    match e.atomic with
    | none => gone s |>.arriveStore e.pa e.bytes (s.rowTenant e.rid) (.row e.rid)
    | some (aop, x, exp) =>
      if s.busyBank e.pa then ((gone s).slotAt e.pa e.bytes.length).holdWrite e.pa e.bytes (s.rowTenant e.rid) (.atomic e) else
      match s.settleAt e.pa e.bytes.length (some e.rid) with
      | none => s.pressAt e.pa (some e.rid)
      | some s =>
        match s.atomHome e.pa e.bytes.length aop x exp (s.rowTenant e.rid) with
        | none => s
        | some (old, s') =>
          (gone (s'.slotAt e.pa e.bytes.length)).atomReturn e old

end Sys2Proof.Machine
end

