-- ==== Sys2Proof/Machine/Barrier.lean ====
section
/-! DEFINITION. Team barriers (09_memory_sync.md R178 to R182) and the superstep boundary that lets a tenant switch begin
(20_scheduling.md R328). -/

namespace Sys2Proof.Machine

/-! ### Barrier words (R178) -/

def barIndex (team i : Nat) : Nat := team * 16 + i
def BarWord.pack (b : BarWord) : W :=
  BitVec.ofNat 64 (bit b.arm * 2 ^ 63 + b.expect.toNat * 2 ^ 24 + b.count.toNat * 2 ^ 5 + b.phase.toNat)
/-- A barrier word from its 64 bits, and whether its phase holds an `SSYNC` arrival. -/
def BarWord.unpack (v : Nat) (ss : Bool) : BarWord :=
  { arm := bits v 63 63 == 1, expect := BitVec.ofNat 19 (bits v 42 24), count := BitVec.ofNat 19 (bits v 23 5), phase := BitVec.ofNat 5 (bits v 4 0), ss := ss }
def State.barOf (s : State) (k x : Nat) : BarWord := tget {} (s.cluOf k).bars x
def State.modBar (s : State) (k x : Nat) (f : BarWord → BarWord) : State :=
  s.modClu k fun c => { c with bars := tset c.bars x (f (tget {} c.bars x)) }
/-- A store to a barrier word: ignored while `COUNT` is not 0; it arms the barrier, or disarms it. -/
def State.barStore (s : State) (k x : Nat) (v : W) : State :=
  s.modBar k x fun b =>
    let e := bits v.toNat 42 24
    if b.count ≠ 0 then b
    else if v.toNat / 2 ^ 63 = 0 then { b with arm := false }
    else if 1 ≤ e ∧ e ≤ 393216 then { b with arm := true, expect := BitVec.ofNat 19 e }
    else b

/-! ### Stopping a tenant on a cluster (R267, R328, R329) -/

/-- Every row of a tenant on a cluster is stopped. -/
def State.stopTenant (s : State) (k ten : Nat) (why : StopWhy) : State :=
  (s.rowsWhere fun r c => !isBase r && inCluster k r && c.state != .null && s.rowTenant r == ten).foldl (fun s r => s.stopRow r why) s
/-- A superstep boundary of a team of a tenant: a switch away from it that waits for one stops the tenant's rows. -/
def State.superstep (s : State) (k ten : Nat) : State :=
  match (s.cluOf k).switch with
  | some w =>
    if !w.gang && !w.stopped && w.old == ten then
      (s.modClu k fun c => { c with switch := some { w with stopped := true } }).stopTenant k ten .switch
    else s
  | none => s

/-! ### Arrivals and completion (R180 to R182) -/

/-- Rows of a cluster that wait at a barrier, HELD ones among them. -/
def State.barWaiting (s : State) (k team i : Nat) : List Nat :=
  s.rowsWhere fun r c => !isBase r && inCluster k r && s.waits r 7 && c.team.toNat == team && c.wake.toNat % 16 == i
/-- Whether every packet that some rows released has entered its receive queue or been discarded. -/
def State.sentAll (s : State) (rows : List Nat) : Bool :=
  rows.all fun r => !((s.octOf (hubOf r)).hub.any fun e => match e.2 with
    | some b => b.rid == r && b.released
    | none => false)
/-- Whether a phase is complete; `self` is a row that arrives without waiting yet. -/
def State.phaseDone (s : State) (k team i : Nat) (self : List Nat) : Bool :=
  let b := s.barOf k (barIndex team i)
  b.arm && b.count == b.expect && (!b.ss || s.sentAll (self ++ s.barWaiting k team i))
/-- The phase completes: waiting rows become READY past their `BAR` or `SSYNC`. -/
def State.phaseComplete (s : State) (k team i ten : Nat) : State :=
  let x := barIndex team i
  let ss := (s.barOf k x).ss
  let rows := s.barWaiting k team i
  let s := s.modBar k x fun b => { b with count := 0, phase := b.phase + 1, ss := false }
  let s := rows.foldl (fun s r =>
    (s.modCtl r fun c => { c with pc := pcOf (BitVec.ofNat 64 (successor c.pc.toNat false)) }).wakeRow r) s
  if ss then s.superstep k ten else s
/-- Barriers of a team that packets held back completed. -/
def State.barsRecheck (s : State) (k team ten : Nat) : State :=
  (List.range 16).foldl (fun s i =>
    if (s.barOf k (barIndex team i)).ss && s.phaseDone k team i [] then s.phaseComplete k team i ten else s) s
/-- Those of a row's team, after a packet of the row left its send buffer. -/
def State.barRecheck (s : State) (rid : Nat) : State := s.barsRecheck (clusterOfRid rid) (s.ctlOf rid).team.toNat (s.rowTenant rid)
/-- An arrival of a row at a barrier: the state, and whether the phase completed. -/
def State.arriveBar (s : State) (rid i : Nat) (ss : Bool) : Bool × State :=
  let k := clusterOfRid rid
  let team := (s.ctlOf rid).team.toNat
  let s := s.modBar k (barIndex team i) fun b => { b with count := b.count + 1, ss := b.ss || ss }
  if s.phaseDone k team i [rid] then (true, s.phaseComplete k team i (s.rowTenant rid)) else (false, s)

end Sys2Proof.Machine
end

