-- ==== Sys2Proof/Machine/Ranges.lean ====
section
/-! DEFINITION. Which bytes each command reads and writes (12_vector_matrix.md R229 to R231; 13_engines.md R248, R254; 18_sketches.md R292;
22_near_memory.md R335, R336), and the registration of its range locks (07_memory_model.md R146; 13_engines.md R241; 17_fault_replay.md R290). -/

namespace Sys2Proof.Machine

/-- `[o, o + n)` cut at 16-byte boundaries. -/
def cut16 : Nat → Nat → Nat → List (Nat × Nat)
  | 0, _, _ => []
  | f + 1, o, n =>
    if n = 0 then [] else
    let m := min n (16 - o % 16)
    (o, m) :: cut16 f (o + m) (n - m)

/-! ### Range locks of a command -/

/-- The physically contiguous runs of `[va, stop)`; a page with no valid translation gives none. `acc` holds the latest run first. -/
def State.runsFrom (s : State) (k ten : Nat) : Nat → Nat → Nat → List (Nat × Nat) → List (Nat × Nat)
  | 0, _, _, acc => acc
  | f + 1, va, stop, acc =>
    if stop ≤ va then acc else
    match (s.xlatCluster k ten va).1 with
    | .ok e =>
      let n := min (stop - va) (e.va + e.size - va)
      let pa := e.at va
      let acc := match acc with
        | (lo, hi) :: t => if hi + 1 = pa then (lo, hi + n) :: t else (pa, pa + n - 1) :: (lo, hi) :: t
        | [] => [(pa, pa + n - 1)]
      s.runsFrom k ten f (va + n) stop acc
    | _ => s.runsFrom k ten f ((va / 65536 + 1) * 65536) stop acc
/-- The locks of one range, without a holder. -/
def State.rangeLocks (s : State) (k ten : Nat) (r : VRange) : List Lock :=
  (s.runsFrom k ten (r.len / 65536 + 2) r.va (r.va + r.len) []).reverse.map fun x => { lo := x.1, hi := x.2, write := r.write, id := 0 }
/-- The locks of a command's ranges after those given, or the first byte of the range that needs a 65th. Only runs that `kept` names register. -/
def State.commandLocks (s : State) (k ten : Nat) (kept : Lock → Bool) : List VRange → List Lock → Except Nat (List Lock)
  | [], acc => .ok acc
  | r :: rest, acc =>
    let acc' := acc ++ (s.rangeLocks k ten r).filter kept
    if 64 < acc'.length then .error r.va else s.commandLocks k ten kept rest acc'
/-- Locks added to a cluster's table for a command. The next issue that waits is served when entries are left (R146). -/
def State.addLocks (s : State) (k id : Nat) (l : List Lock) (matrix : Bool := false) : State :=
  (s.modClu k fun c => { c with locks := c.locks ++ l.map fun x => { x with id := id, matrix := matrix } }).serveLocks k
/-- Bytes `[lo, hi]` cut at 64 KiB boundaries, as first byte and length. -/
def cutPages : Nat → Nat → Nat → List (Nat × Nat)
  | 0, _, _ => []
  | f + 1, lo, hi => if hi < lo then [] else
    let stop := min (hi + 1) ((lo / 65536 + 1) * 65536)
    (lo, stop - lo) :: cutPages f stop hi
/-- The locks of a command's ranges that it does not hold or wait for yet (R241, R290): those of pages whose translation has come since. -/
def State.missingLocks (s : State) (k ten id : Nat) (rs : List VRange) : List Lock :=
  let held := ((s.cluOf k).locks ++ (s.cluOf k).late.flatMap (·.2)).filter fun l => l.id == id
  (rs.flatMap fun r => s.rangeLocks k ten r).filter fun x =>
    !((cutPages ((x.hi - x.lo) / 65536 + 2) x.lo x.hi).all fun p => held.any fun l => l.write == x.write && l.holds p.1 p.2)

/-! ### Engine commands and streams (R243 to R248, R254) -/

/-- `ESZ` as an element size. -/
def eszOf (b : BitVec 512) : Nat := 2 ^ bits (dword b 0) 26 24
/-- The element size of an elementwise `XREDUCE`. -/
def redSize (b : BitVec 512) : Nat := if bits (dword b 0) 26 24 = 1 then 2 else 4
/-- The sources of an `XREDUCE`. -/
def redSources (b : BitVec 512) : List Nat := [dword b 1, dword b 5, dword b 6, dword b 7].take (bits (dword b 0) 29 28 + 1)
/-- Whether a command sums sketches. -/
def sumsSketch (op : EngOp) (b : BitVec 512) : Bool := op == .skadd || (op == .xreduce && kindOf b == 3)
/-- The last byte that a `COPY` writes. -/
def copyLast (b : BitVec 512) : Nat :=
  let d := dword b
  let n := 2 ^ bits (d 0) 10 8
  let last := bits (d 3) 63 32 - 1
  let g := bits (d 3) 31 0 / 16
  d 2 + last * bits (d 4) 63 32 +
    ((List.range (min g (2 * n))).foldl (fun m i => max m (((g - 1 - i) ^^^ (last % n)) * 16 + 15)) 0)
/-- A sketch header at its home as the issue sees it through the cluster's translation, and the region it lies in. -/
def State.peekHeader (s : State) (k ten va : Nat) : Option (Region × BitVec 512) :=
  match (s.xlatCluster k ten va).1 with
  | .ok e => some (regionOf (e.at va), BitVec.ofNat 512 (s.peek (s.standsAt e (e.at va)) 64))
  | _ => none
/-- The ranges of a sketch: its header and its counter array; none of a sketch in another package (R313). -/
def State.sketchRanges (s : State) (k ten va : Nat) (write : Bool) : List VRange :=
  match s.peekHeader k ten va with
  | some (.remote _ _, _) => []
  | some (_, h) => { va := va, len := 64, write := write } ::
      (if sketchValid h then [{ va := (sketchOf h).cadr, len := (sketchOf h).size, write := write }] else [])
  | none => [{ va := va, len := 64, write := write }]
def gatherTable (b : BitVec 512) (write : Bool) : VRange :=
  { va := dword b 1, len := (bits (dword b 4) 63 32 - 1) * dword b 5 + eszOf b, write := write }
def gatherDense (b : BitVec 512) (write : Bool) : VRange := { va := dword b 2, len := bits (dword b 4) 31 0 * eszOf b, write := write }
/-- The ranges that a command registers (R248). -/
def State.engineRanges (s : State) (k ten : Nat) (op : EngOp) (b : BitVec 512) : List VRange :=
  let d := dword b
  if sumsSketch op b then s.sketchRanges k ten (d 2) true ++ s.sketchRanges k ten (d 1) false
  else match op with
    | .xcopy =>
      if kindOf b ≠ 0 then [] else
      [{ va := d 2, len := copyLast b + 1 - d 2, write := true },
       { va := d 1, len := (bits (d 3) 63 32 - 1) * bits (d 4) 31 0 + bits (d 3) 31 0, write := false }]
    | .xgather => [gatherDense b true, { va := d 3, len := 4 * bits (d 4) 31 0, write := false }, gatherTable b false]
    | .xscatter => [gatherTable b true, { va := d 3, len := 4 * bits (d 4) 31 0, write := false }, gatherDense b false]
    | _ =>
      let n := d 3 * redSize b
      { va := d 2, len := n, write := true } :: (redSources b).map fun a => { va := a, len := n, write := false }
/-- From the lowest to the highest element byte of a stream, within the address space. -/
def streamRange (b : BitVec 512) : VRange :=
  let d := dword b
  let base : Int := d 1
  let last : Int := base + ((bits (d 2) 31 0 : Int) - 1) * (BitVec.ofNat 32 (bits (d 2) 63 32)).toInt
  let lo := (max 0 (min base last)).toNat
  let hi := min (2 ^ 57) ((max base last).toNat + eszOf b)
  { va := lo, len := hi - lo, write := false }

/-! ### Matrix commands (R229 to R231) -/

def mqCmd (m : MCmd) : Nat := bits m.block.toNat 7 0
/-- The context that an `MFMT` block sets (R230). -/
def mfmtOf (b : BitVec 512) : MCtx :=
  let d := dword b 1
  { afmt := bits d 3 0, bfmt := bits d 7 4, asm := bits d 9 8, bsm := bits d 11 10, sat := bits d 12 12 == 1,
    ats := BitVec.ofNat 32 (dword b 2), bts := BitVec.ofNat 32 (bits (dword b 2) 63 32) }
/-- The context that a push or a queued command sees: that of the last `MFMT` before it (R227). -/
def ctxAfter (m : MCtx) (q : List MCmd) : MCtx := q.foldl (fun m c => if mqCmd c = 1 then mfmtOf c.block else m) m

/-- One operand of an `MMA`: base, stride, span code, format, whether K lies along the line, its lines and their bytes. -/
structure Operand where
  base : Nat
  ld : Nat
  sw : Nat
  fmt : Nat
  kal : Bool
  lines : Nat
  len : Nat
  deriving DecidableEq, Repr, Inhabited
/-- Bytes of 32 elements of a format. -/
def blockBytes (fmt : Nat) : Nat := if fmt ≤ 1 then 16 else if fmt = 2 then 12 else if fmt ≤ 4 then 32 else 64
def mmaOperand (b : BitVec 512) (m : MCtx) (isB : Bool) : Operand :=
  let d := dword b (if isB then 5 else 3)
  let fmt := if isB then m.bfmt else m.afmt
  let nb := bits (dword b 1) 23 16
  let kal := bits d 32 32 == (if isB then 1 else 0)
  { base := dword b (if isB then 4 else 2), ld := bits d 31 0, sw := bits d 35 33, fmt := fmt, kal := kal,
    lines := if kal then 32 else 32 * nb, len := blockBytes fmt * (if kal then nb else 1) }
/-- Logical bytes `[o, o + n)` of line `l` as pieces of memory that do not cross a 16-byte boundary. -/
def Operand.pieces (p : Operand) (l o n : Nat) : List (Nat × Nat) :=
  (cut16 (n / 16 + 2) o n).map fun x => (p.base + l * p.ld + ((x.1 / 16) ^^^ (l % 2 ^ p.sw)) * 16 + x.1 % 16, x.2)
/-- The pieces of every line. -/
def Operand.all (p : Operand) : List (Nat × Nat) := (List.range p.lines).flatMap fun l => p.pieces l 0 p.len
/-- The range from the lowest to the highest byte of some pieces. -/
def hull (l : List (Nat × Nat)) (write : Bool) : VRange :=
  match l with
  | [] => { va := 0, len := 0, write := write }
  | x :: rest =>
    let lo := rest.foldl (fun m y => min m y.1) x.1
    let hi := rest.foldl (fun m y => max m (y.1 + y.2)) (x.1 + x.2)
    { va := lo, len := hi - lo, write := write }
/-- The pieces of a K-block: one list for each of the 32 output indices, or for each of its 32 lines across them. -/
def Operand.kblock (p : Operand) (kb : Nat) : List (List (Nat × Nat)) :=
  let n := blockBytes p.fmt
  (List.range 32).map fun i => if p.kal then p.pieces i (kb * n) n else p.pieces (kb * 32 + i) 0 n
/-- The scale array of a side with block scales: bytes of one K-block, and its range. -/
def scaleBytes (fmt : Nat) : Nat := if fmt = 0 then 32 else 64
/-- The accumulator rows of a command. -/
def accRows (core : Nat) (b : BitVec 512) : List Nat := (List.range 4).map fun i => ridOf core (bits (dword b 1) 10 0 + i)
/-- The pieces that a command reads or writes by address, with the span code that an operand's layout tags must name. -/
def cmdPieces (m : MCtx) (b : BitVec 512) : List (List (Nat × Nat) × Bool × Option Nat) :=
  let cmd := bits (dword b 0) 7 0
  let nb := bits (dword b 1) 23 16
  if cmd = 3 then
    let pa := mmaOperand b m false
    let pb := mmaOperand b m true
    [(pa.all, false, some pa.sw), (pb.all, false, some pb.sw)]
      ++ (if m.asm = 1 then [(cut16 (2 * nb + 2) (dword b 6) (scaleBytes m.afmt * nb), false, none)] else [])
      ++ (if m.bsm = 1 then [(cut16 (4 * nb + 2) (dword b 7) (scaleBytes m.bfmt * nb), false, none)] else [])
  else if cmd = 4 then
    let n := 4 * laneBits (bits (dword b 1) 18 16)
    [((List.range 32).flatMap fun i => cut16 10 (dword b 2 + i * dword b 3) n, true, none)]
  else if cmd = 5 then [(cut16 10 (dword b 2) 128, false, none)]
  else []
/-- The ranges of a command by address (R229). -/
def cmdRanges (m : MCtx) (b : BitVec 512) : List VRange := (cmdPieces m b).map fun p => hull p.1 p.2.1
/-- The lock of the accumulator that a command with an address writes (R229): `MMA` and `MBIAS`. -/
def accLock (core : Nat) (b : BitVec 512) : List Lock :=
  let cmd := bits (dword b 0) 7 0
  if cmd = 3 ∨ cmd = 5 then
    let a := rowAddr (ridOf core (bits (dword b 1) 10 0))
    [{ lo := a, hi := a + 4095, write := true, id := 0 }]
  else []

/-! ### Near-bank commands (R335, R336) -/

/-- Bytes of a destination element, and of a source element. -/
def nbDstSize (b : BitVec 512) : Nat :=
  let kind := kindOf b
  if kind = 0 then (if bits (dword b 4) 32 32 = 1 then 2 else 4) else if kind = 1 then 4 else if kind = 2 then eszOf b else 1
def nbSrcSize (b : BitVec 512) : Nat :=
  let kind := kindOf b
  if kind = 0 then 2 else if kind = 1 then (if bits (dword b 0) 26 24 = 1 then 2 else 4) else 1
def nbCount (b : BitVec 512) : Nat := bits (dword b 4) 31 0
def nbWr (b : BitVec 512) : Bool := bits (dword b 4) 34 34 == 1
def nbBsc (b : BitVec 512) : Bool := bits (dword b 4) 33 33 == 1
/-- The operands of a command: `DST` written, then `SRCA` and `SRCB` read. -/
def nbRanges (b : BitVec 512) : List VRange :=
  let d := dword b
  let kind := kindOf b
  let n := nbCount b
  let dst : List VRange := if kind = 1 then (if nbWr b then [{ va := d 1, len := 4, write := true }] else [])
    else [{ va := d 1, len := n * nbDstSize b, write := true }]
  let srcA : List VRange := if kind = 2 then [] else [{ va := d 2, len := n * nbSrcSize b, write := false }]
  let srcB : List VRange := if kind = 0 ∧ !nbBsc b then [{ va := d 3, len := 2 * n, write := false }] else []
  dst ++ srcA ++ srcB
/-- The bank of a bank-linear address (R331), numbered through the package. -/
def bankOf (pa : Nat) : Nat :=
  let f := (pa - 0x800000_0000) / 2 ^ 21
  f / 32768 * 1024 + f % 32768 / 32
def isBankLinear (pa : Nat) : Bool := decide (0x800000_0000 ≤ pa) && decide (pa < 0x1000000_0000)

/-! ### The bar: what registers when a page comes in (R241, R290) -/

/-- The cluster of an octet. -/
def clusterOfOct (oct : Nat) : Nat := oct / 24
/-- A command that registers ranges: the cluster of its table, the number that its entries carry, whether a matrix command holds them, whether only
its bank-linear runs register (R336), and its ranges. -/
structure LockUser where
  cluster : Nat
  id : Nat
  matrix : Bool := false
  bank : Bool := false
  ranges : List VRange
  deriving DecidableEq, Repr, Inhabited
def State.engineUser (s : State) (oct : Nat) (c : ECmd) : LockUser :=
  { cluster := clusterOfOct oct, id := c.id, ranges := s.engineRanges (clusterOfOct oct) c.tenant c.op c.spec }
/-- The commands of a tenant in a core's matrix queue, each in its context. -/
def State.matrixUsers (s : State) (core ten : Nat) : List LockUser :=
  let c := s.csOf core ten
  c.mq.zipIdx.map fun e =>
    { cluster := clusterOf core, id := e.1.id, matrix := true, ranges := cmdRanges (ctxAfter c.mctx (c.mq.take e.2)) e.1.block }
/-- A bound stream: what it has still to read. -/
def State.streamUser (s : State) (st : Stage) : LockUser :=
  let off := 256 + 16 * (st.reg - 24)
  let w0 := s.rowGet st.rid off 8
  let w1 := s.rowGet st.rid (off + 8) 8
  { cluster := clusterOfRid st.rid, id := st.lock,
    ranges := [streamRange (BitVec.ofNat 512 (bits w0 58 57 * 2 ^ 24 + bits w0 56 0 * 2 ^ 64 + w1 * 2 ^ 128))] }
def nbUser (c : NbCmd) : LockUser := { cluster := clusterOfRid c.rid, id := c.id, bank := true, ranges := nbRanges c.spec }
/-- The command that waits at the bar, when it registers ranges. -/
def State.barUser (s : State) (ten : Nat) (b : BarEntry) : Option LockUser :=
  match b.what with
  | .engine oct c => some (s.engineUser oct c)
  | .matrix core => (s.matrixUsers core ten).head?
  | .stream core rid reg => ((s.coreOf core).streams.find? fun x => x.rid == rid && x.reg == reg).map s.streamUser
  | .nearbank bank id => ((tget [] s.banks bank).find? fun c => c.id == id).map nbUser
  | .query _ _ | .posted _ | .fabric _ | .gone => none
/-- Every command of a tenant that registers ranges, in order of issue. -/
def State.lockUsers (s : State) (ten : Nat) : List LockUser :=
  let engines := s.oct.flatMap fun o => ((o.2.queue ++ o.2.active).filter fun c => c.tenant == ten).map (s.engineUser o.1)
  let matrix := s.core.flatMap fun c => s.matrixUsers c.1 ten
  let streams := s.core.flatMap fun c => (c.2.streams.filter fun st => s.rowTenant st.rid == ten).map s.streamUser
  let banks := s.banks.flatMap fun b => (b.2.filter fun c => c.tenant == ten).map nbUser
  let waiting := (s.tenOf ten).bar.filterMap fun b => match b.what with
    | .engine oct c => some (s.engineUser oct c)
    | _ => none
  let all := engines ++ matrix ++ streams ++ banks ++ waiting
  (sortBy id (all.map (·.id))).filterMap fun i => all.find? fun u => u.id == i
/-- The locks that a command lacks. -/
def State.userMissing (s : State) (ten : Nat) (u : LockUser) : List Lock :=
  (s.missingLocks u.cluster ten u.id u.ranges).filter fun l => !u.bank || isBankLinear l.lo

/-- Whether an item of a given order may take `n` entries: none waits before it, and they are free. -/
def State.barGrant (s : State) (k order n : Nat) : Bool :=
  decide (n ≤ s.locksFree k) && !((s.lockClaims k).any fun r => decide ((s.thrOf r).blockedAt < order))
    && !((s.barClaims k).any fun o => decide (o < order))
/-- The locks of a served item registered, or waited for; whether it holds them all. R146 bounds a command's runs at its issue: what pages that come later
add is registered without a bound (DESIGN CHOICE; entry 119). -/
def State.barLocks (s : State) (ten i : Nat) : Bool × State :=
  match (s.tenOf ten).bar[i]? with
  | none => (false, s)
  | some b =>
    match s.barUser ten b with
    | none => (true, s)
    | some u =>
      let l := s.userMissing ten u
      if s.lateFor u.cluster u.id then (false, s)
      else if l.isEmpty then (true, s.modBarEntry ten i fun b => { b with need := 0 })
      else if s.barGrant u.cluster b.order l.length then
        (true, (s.modBarEntry ten i fun b => { b with need := 0 }).addLocks u.cluster u.id l u.matrix)
      else (false, s.modBarEntry ten i fun b => { b with need := l.length })
/-- The locks that a command lacks registered in the step of a service, or waited for from then on in the order of R146 (R290; entry 101). -/
def State.registerUser (s : State) (ten order : Nat) (u : LockUser) : State :=
  let l := s.userMissing ten u
  if l.isEmpty then s
  else if s.barGrant u.cluster order l.length then s.addLocks u.cluster u.id l u.matrix
  else s.modClu u.cluster fun c => { c with late := c.late ++ [(order, l.map fun x => { x with id := u.id, matrix := u.matrix })] }

/-- The addresses that a started near-bank command goes on using (22_near_memory.md R337): one in each 64 KiB of its operands. -/
def NbCmd.latched (c : NbCmd) : List Nat :=
  if !c.started then [] else
  let hasDst := kindOf c.spec != 1 || nbWr c.spec
  let bases := if hasDst then [c.dst, c.srcA, c.srcB] else [c.srcA, c.srcB]
  ((nbRanges c.spec).zip bases).flatMap fun x => (List.range ((x.1.len + 65535) / 65536)).map fun i => x.2 + 65536 * i
/-- The addresses of the accesses that have been translated and have not reached their homes or been performed (16_translation.md R281, R285,
R288): those of threads, and those of started near-bank commands. -/
def State.inFlight (s : State) : List Nat :=
  (s.thr.flatMap fun t => ((t.2.loads.filter fun l => !l.vec).map (·.pa)) ++ t.2.chunk.stores.map (·.pa))
    ++ (s.clu.flatMap fun c => c.2.outq.map (·.pa)) ++ (s.oct.flatMap fun o => o.2.heldWrites.map (·.pa))
    ++ s.banks.flatMap fun b => b.2.flatMap NbCmd.latched

/-! ### Service of bar entries (R284) -/

/-- Service of a bar entry has installed its mapping, or has failed. A served entry registers its locks in the same step, and so does every other
command of its tenant that lacks entries (R241, R290). -/
def State.serveEntry (s : State) (ten i : Nat) (ok : Bool) : State :=
  match (s.tenOf ten).bar[i]? with
  | none => s
  | some b =>
    let (n, s) := s.tick
    let s := s.modBarEntry ten i fun b => { b with record := none, served := ok, refused := !ok, order := n }
    let s := if ok then (s.lockUsers ten).foldl (fun s u => s.registerUser ten n u) (s.barLocks ten i).2 else s
    s.askNext ten (b.va / 65536)

end Sys2Proof.Machine
end

