-- ==== Sys2Proof/Machine/Mmio.lean ====
section
/-! DEFINITION. Registers of the memory-mapped windows and of the `CSR` group (15_traps.md R273; 12_vector_matrix.md R207, R224;
16_translation.md R289; 20_scheduling.md R330; 22_near_memory.md R340; 23_stack_fabric.md R357; 24_tenancy_boot.md R361, R362, R367;
26_combinators.md R370), with their ranges and what a write sets off. -/

namespace Sys2Proof.Machine

/-- Bits `hi` to `lo` of a word, the others zero. -/
def keep (v : W) (hi lo : Nat) : W := BitVec.ofNat 64 (bits v.toNat hi lo * 2 ^ lo)

/-! ### Registers of a core (R43, R104, R207) -/

def setOpenlim (c : CState) (v : W) : CState :=
  let x := bits v.toNat 4 0
  if 1 ≤ x ∧ x ≤ 16 then { c with openlim := BitVec.ofNat 5 x } else c
def setTurnlen (c : CState) (v : W) : CState :=
  let x := bits v.toNat 15 0
  if 4 ≤ x then { c with turnlen := BitVec.ofNat 16 x } else c
def setVshare (c : CState) (v : W) : CState := { c with vshare := BitVec.ofNat 8 v.toNat }
def setHpool (c : CState) (v : W) : CState :=
  let n := bits v.toNat 21 16
  let b := bits v.toNat 10 0
  if n = 0 ∨ b + n ≤ 2047 then { c with hpoolCount := BitVec.ofNat 6 n, hpoolBase := BitVec.ofNat 11 b } else c
def hpoolWord (c : CState) : W := BitVec.ofNat 64 (c.hpoolCount.toNat * 2 ^ 16 + c.hpoolBase.toNat)

/-! ### Matrix queue aborts (R237), which a change of owner causes -/

/-- What an aborted or discarded `MSIGNAL` still does. -/
def State.mqWake (s : State) (core ten cause : Nat) (m : MCmd) : State :=
  let s := s.freeLocks (clusterOf core) m.id
  if mqCmd m ≠ 6 then s else
  let s := if bits m.block.toNat 64 64 = 1 then s.tbArrive core ten (bits m.block.toNat 71 68) else s
  match m.tag with
  | some t => s.post core ten t cause (bits m.block.toNat 175 128)
  | none => s
/-- An abort of the head command: those behind it are discarded. -/
def State.mqAbort (s : State) (core ten cause : Nat) : State :=
  let q := (s.csOf core ten).mq
  if q.isEmpty then s else
  let s := s.modCs core ten fun c => { c with mq := [], mqCause := BitVec.ofNat 8 cause, mqBar := false,
                                              mqDone := c.mqDone + BitVec.ofNat 16 q.length }
  let s := s.dropBar ten (.matrix core)
  let s := q.foldl (fun s m => s.mqWake core ten cause m) s
  if (s.coreOf core).loaded = ten then s.mqServe core else s

/-! ### Owners (R361) and admission (R362) -/

/-- Completions of handlers that rows of some cores have sent find no slot any more (R361). -/
def State.forgetSenders (s : State) (cs : List Nat) : State :=
  let mine : W → Bool := fun x => cs.contains (bits x.toNat 23 11)
  { s with bdc := s.bdc.map fun (e : Nat × BaseCore) => (e.1, { e.2 with
      inq := e.2.inq.map fun x => if mine x.2.1 then (x.1, x.2.1, x.2.2.1, 255, x.2.2.2.2) else x
      run := e.2.run.map fun x => if mine x.1 then (x.1, x.2.1, 255, x.2.2.2) else x }) }
/-- A store to `OCTOWN`: a new tag stops every row, aborts the matrix queues and begins the scrub. -/
def State.setOwner (s : State) (oct : Nat) (v : W) : State :=
  let tag := BitVec.ofNat 6 v.toNat
  let o := s.octOf oct
  if o.busy ∨ o.tag = tag then s else
  let cs := (List.range 8).map fun i => oct * 8 + i
  let s := s.modOct oct fun o => { o with
    tag := tag, busy := true, scrubAt := if s.pkg.fnmode.getLsbD 7 then none else some (s.cycle + 4096) }
  let s := cs.foldl (fun s c => s.modCore c fun x => { x with perm := 0 }) s
  let s := (s.rowsWhere fun r c => !isBase r && hubOf r == oct && c.state != .null).foldl (fun s r => s.stopRow r .scrub) s
  let s := cs.foldl (fun s c => ((s.coreOf c).loaded :: (s.coreOf c).images.map (·.1)).foldl (fun s t => s.mqAbort c t 0x0D) s) s
  let (n, s) := s.tick
  let s := cs.foldl (fun s c => s.modCore c fun x => { x with wiped := n }) s
  let s := s.forgetSenders cs
  if s.pkg.fnmode.getLsbD 7 then (s.hfrAsk 8 tag.toNat [BitVec.ofNat 64 oct] (.scrub oct)).2 else s

/-! ### Scrub (R361, R368) -/

/-- A core scrubbed: rows, control entries, q0 to q10, mailbox, transfer barriers, vector queue, matrix queue and context, helper table and
streams are as at reset, and so are `OPENLIM`, `TURNLEN`, `VSHARE` and `HPOOL`; no tenant's image of the core is left. -/
def State.scrubCore (s : State) (core : Nat) : State :=
  let mine : Nat → Bool := fun r => !isBase r && coreOfRid r == core
  let s := (s.coreOf core).streams.foldl (fun s st => s.freeLocks (clusterOf core) st.lock) s
  let lo := rowAddr (ridOf core 0)
  let s : State := { s with
    mem := msplice s.mem lo 2097152 []
    uncorr := s.uncorr.filter fun u => !(decide (lo ≤ u) && decide (u < lo + 2097152)) &&
      !(decide (ctlAddr (ridOf core 0) ≤ u) && decide (u < ctlAddr (ridOf core 0) + 32768))
    ctl := s.ctl.filter fun (e : Nat × Ctl) => !mine e.1
    thr := s.thr.filter fun (e : Nat × Thr) => !mine e.1 }
  let s := s.modClu (clusterOf core) fun c => { c with grant := if c.grant.any mine then none else c.grant,
                                                       grantq := c.grantq.filter fun r => !mine r }
  let s := s.modCore core fun c => { c with cs := {}, images := [], streams := [], vq := [] }
  let clear : CState → CState := fun c => { c with queues := terase (terase c.queues 8) 9 }
  if pairCore core = core then s
  else s.modCore (pairCore core) fun c => { c with cs := clear c.cs, images := c.images.map fun (e : Nat × CState) => (e.1, clear e.2) }
/-- The nests that hold a row of an octet aborted with `OWNER`: with that row wiped they could never end (entry 31). -/
def State.endNests (s : State) (oct : Nat) : State :=
  let k := oct / 24
  ((s.cluOf k).nests.filter fun e => match e.2 with | some n => (n.rows ++ n.pool).any fun r => hubOf r == oct | none => false).foldl
    (fun s e => s.nestAbort 256 k e.1 0x0D 0xFFFF) s
/-- Whether every row of an octet has closed. -/
def State.octClosed (s : State) (oct : Nat) : Bool :=
  !(s.ctl.any fun e => !isBase e.1 && hubOf e.1 == oct && e.2.state == .opened)
/-- The scrub of an octet ends: its cores are wiped, `BUSY` returns to 0 and the writes that it held apply in order of arrival; a host write
completes when it applies. -/
def State.scrubOctet (s : State) (oct : Nat) : State :=
  let cs := (List.range 8).map fun i => oct * 8 + i
  let s := s.endNests oct
  let s := cs.foldl (fun s c => s.scrubCore c) s
  let held := (s.octOf oct).heldWrites
  let s := s.modOct oct fun o => { o with busy := false, scrubAt := none, heldWrites := [] }
  held.foldl State.applyHeld s

/-- A store to `TENMIN`: one that makes a minimum nonzero takes the next admission number. -/
def State.setTenmin (s : State) (ten : Nat) (v : W) : State :=
  let fr := bits v.toNat 63 32
  let cl := bits v.toNat 5 0
  if 32 < cl then s else
  let t := s.tenOf ten
  let new := BitVec.ofNat 64 (fr * 2 ^ 32 + cl)
  let rises := (fr ≠ 0 ∧ bits t.tenmin.toNat 63 32 = 0) ∨ (cl ≠ 0 ∧ bits t.tenmin.toNat 5 0 = 0)
  if fr = 0 ∧ cl = 0 then s.modTen ten fun t => { t with tenmin := 0, admission := 0, deg := false }
  else if rises then
    (s.modTen ten fun t => { t with tenmin := new, admission := s.pkg.admitNext }).modPkg fun p => { p with admitNext := p.admitNext + 1 }
  else s.modTen ten fun t => { t with tenmin := new }

/-- `TENSTAT` as it reads. -/
def tenstat (t : Tenant) : W := BitVec.ofNat 64 (bit t.deg * 2 ^ 63 + t.admission.toNat * 2 ^ 32)

/-- A store to `GANGMASK` (R330). -/
def setGangmask (t : Tenant) (v : W) : Tenant :=
  let x := v.toNat
  let per := bits x 55 48
  let on := bits x 47 40
  if bits x 63 63 = 0 ∨ (1 ≤ per ∧ 1 ≤ on ∧ on ≤ per) then
    { t with gangmask := BitVec.ofNat 64 (bits x 63 63 * 2 ^ 63 + bits x 55 40 * 2 ^ 40 + bits x 31 0) } else t

/-! ### Translation commands (R289) -/

/-- What an entry's stage-2 leaf covers. -/
def coversIpa (e : TlbEntry) (ipa : Nat) : Bool := decide (e.ipa ≤ ipa) && decide (ipa < e.ipa + e.isize)
/-- The entries that a value of `TLBCMD` names. -/
def tlbcmdNames (v : W) (e : TlbEntry) : Bool :=
  let a := bits v.toNat 56 16 * 65536
  let ten := bits v.toNat 13 8
  let kind := bits v.toNat 1 0
  if kind = 0 then e.onPage ten a else if kind = 1 then e.tag == ten else if kind = 2 then coversIpa e a else true
/-- The entries that `TLBCMD` names removed; accesses already translated through them are waited for. -/
def State.tlbcmdRemove (s : State) : State :=
  let gone := tlbcmdNames s.pkg.tlbcmd
  State.tlbRemove (s.modPkg fun p => { p with tlbWait := p.tlbWait ++ (s.tlbAll.filter gone).map fun e => (e.pa, e.size) }) gone
/-- A store to `TLBCMD`: the entries of its kind go at once, and `BUSY` stays until TLBCMD_DONE. -/
def State.tlbcmd (s : State) (v : W) : State :=
  if s.pkg.tlbcmd.getLsbD 63 then s else
  (s.modPkg fun p => { p with tlbcmd := 2 ^ 63 ||| keep v 56 16 ||| keep v 13 8 ||| keep v 1 0 }).tlbcmdRemove

/-! ### Answers to host records (R356) -/

/-- A store to `HFRRESP`: a record about a bar item serves it or refuses it; one about a scrub ends it when serviced. -/
def State.hfrresp (s : State) (v : W) : State :=
  let id := bits v.toNat 15 0
  let ok := v.getLsbD 63
  match s.pkg.hfrOpen.find? fun e => e.1 == id with
  | none => s
  | some (_, .bar ten) =>
    let s := s.modPkg fun p => { p with hfrOpen := p.hfrOpen.filter fun e => e.1 != id }
    match (s.tenOf ten).bar.findIdx? fun b => b.record == some id with
    | some i => s.serveEntry ten i ok
    | none => s
  | some (_, .scrub oct) =>
    let s := s.modPkg fun p => { p with hfrOpen := p.hfrOpen.filter fun e => e.1 != id }
    if !ok then s else if s.octClosed oct then s.scrubOctet oct else s.modOct oct fun o => { o with scrubAt := some s.cycle }

/-! ### The service window -/

/-- A `LOG` field of a ring: 0 or 4 to 20. -/
def logOk (n : Nat) : Bool := n == 0 || (decide (4 ≤ n) && decide (n ≤ 20))

/-- The register of a tenant at an offset of a 64-byte block of `0x3000`, `0x5000` or `0x6000`, or a 32-byte block of `0x1000`. -/
def tenRead (t : Tenant) (block i : Nat) : Option W :=
  if block = 1 then
    (if i = 0 then some t.fqbase else if i = 1 then some (t.fqtail.setWidth 64) else if i = 2 then some (t.fqhead.setWidth 64)
     else some (t.fqlost.setWidth 64))
  else if block = 3 then
    (if i = 0 then some t.s1root else if i = 1 then some t.s2root else if i = 2 then some t.ftbase else if i = 3 then some t.ftlen
     else if i = 4 then some t.ffsbase else if i = 5 then some t.ffstop else none)
  else if block = 5 then
    (if i = 0 then some t.noderange else if i = 1 then some t.tickets else if i = 2 then some t.lncherr
     else if i = 3 then some t.gangmask else if i = 4 then some t.savebase else if i = 5 then some t.castlebase
     else if i = 6 then some t.castlelen else some t.gambase)
  else (if i = 0 then some t.tenmin else if i = 1 then some (tenstat t) else none)

def State.tenWrite (s : State) (ten block i : Nat) (v : W) : Option State :=
  let m : (Tenant → Tenant) → Option State := fun f => some (s.modTen ten f)
  if block = 1 then
    (if i = 0 then m fun t => if logOk (bits v.toNat 4 0) then { t with fqbase := keep v 51 0 } else t
     else if i = 1 then none
     else if i = 2 then m fun t => { t with fqhead := v.setWidth 32 } else m fun t => { t with fqlost := v.setWidth 32 })
  else if block = 3 then
    (if i = 0 then m fun t => { t with s1root := keep v 51 13 ||| keep v 0 0 }
     else if i = 1 then m fun t => { t with s2root := keep v 51 13 ||| keep v 0 0 }
     else if i = 2 then m fun t => { t with ftbase := keep v 51 2 } else if i = 3 then m fun t => { t with ftlen := keep v 35 0 }
     else if i = 4 then m fun t => { t with ffsbase := keep v 51 3 } else if i = 5 then m fun t => { t with ffstop := keep v 23 0 } else none)
  else if block = 5 then
    (if i = 0 then m fun t => { t with noderange := keep v 31 0 }
     else if i = 1 then m fun t => if bits v.toNat 10 0 ≤ 1024 then { t with tickets := keep v 10 0 } else t
     else if i = 2 then m fun t => { t with lncherr := keep v 63 32 ||| keep v 15 0 }
     else if i = 3 then m fun t => setGangmask t v
     else if i = 4 then m fun t => { t with savebase := keep v 51 16 }
     else if i = 5 then m fun t => { t with castlebase := keep v 51 16 }
     else if i = 6 then m fun t => { t with castlelen := keep v 51 16 }
     else m fun t => { t with gambase := keep v 51 16 ||| keep v 0 0 })
  else (if i = 0 then some (s.setTenmin ten v) else none)

/-- The block, tenant and word that an offset of a tenant's registers names. -/
def tenReg (off : Nat) : Option (Nat × Nat × Nat) :=
  if 0x1000 ≤ off ∧ off < 0x1800 then some (1, (off - 0x1000) / 32, off % 32 / 8)
  else if 0x3000 ≤ off ∧ off < 0x4000 then some (3, (off - 0x3000) / 64, off % 64 / 8)
  else if 0x5000 ≤ off ∧ off < 0x6000 then some (5, (off - 0x5000) / 64, off % 64 / 8)
  else if 0x6000 ≤ off ∧ off < 0x7000 then some (6, (off - 0x6000) / 64, off % 64 / 8)
  else none

def State.serviceRead (s : State) (off : Nat) : Option W :=
  let p := s.pkg
  match tenReg off with
  | some (b, t, i) => tenRead (s.tenOf t) b i
  | none =>
    if off = 0x0 then some (p.pkgid.setWidth 64) else if off = 0x40 then some (p.fnmode.setWidth 64)
    else if off = 0x48 then some p.ready0 else if off = 0x50 then some p.ready1 else if off = 0x58 then some (p.tslice.setWidth 64)
    else if off = 0x60 then some (p.gridslice.setWidth 64) else if off = 0x68 then some (p.gtick.setWidth 64)
    else if off = 0x70 then some p.tlbcmd else if off = 0x78 then some p.ganglate else if off = 0x80 then some p.hfrbase
    else if off = 0x88 then some (p.hfrtail.setWidth 64) else if off = 0x90 then some (p.hfrhead.setWidth 64)
    else if off = 0xA0 then some (p.pwrcap.setWidth 64)
    else if off = 0xA8 then some (BitVec.ofNat 64 (p.pwrWatts.toNat * 65536 + p.pwrStep))
    else if off = 0xB0 then some (p.fwsvn.setWidth 64)
    else if 0x8000 ≤ off ∧ off < 0xC000 then
      let e : W × W := tget (0, 0) (s.bdcOf ((off - 0x8000) / 256)).nhtab ((off - 0x8000) % 256 / 16)
      some (if off % 16 = 0 then e.1 else e.2)
    else if 0xC000 ≤ off ∧ off < 0xCA00 then some ((tget 0 p.fabrt ((off - 0xC000) / 8) : BitVec 16).setWidth 64)
    else none

def State.serviceWrite (s : State) (off : Nat) (v : W) : Option State :=
  let m : (Package → Package) → Option State := fun f => some (s.modPkg f)
  match tenReg off with
  | some (b, t, i) => s.tenWrite t b i v
  | none =>
    if off = 0x0 then m fun p => if (v.setWidth 9).toNat < 320 then { p with pkgid := v.setWidth 9 } else p
    else if off = 0x40 then m fun p => { p with fnmode := v.setWidth 8 ||| 8 }
    else if off = 0x58 then m fun p => { p with tslice := v.setWidth 32 }
    else if off = 0x60 then m fun p => { p with gridslice := v.setWidth 32 }
    else if off = 0x68 then m fun p => if 65536 ≤ (v.setWidth 32).toNat then { p with gtick := v.setWidth 32 } else p
    else if off = 0x70 then some (s.tlbcmd v)
    else if off = 0x78 then m fun p => { p with ganglate := keep v 63 48 ||| keep v 3 0 }
    else if off = 0x80 then m fun p => if logOk (bits v.toNat 4 0) then { p with hfrbase := keep v 56 6 ||| keep v 4 0 } else p
    else if off = 0x90 then m fun p => { p with hfrhead := v.setWidth 32 }
    else if off = 0x98 then some (s.hfrresp v)
    else if off = 0xA0 then m fun p => if 1000 ≤ (v.setWidth 16).toNat then { p with pwrcap := v.setWidth 16 } else p
    else if 0x8000 ≤ off ∧ off < 0xC000 then
      some (s.modBdc ((off - 0x8000) / 256) fun b =>
        let h := (off - 0x8000) % 256 / 16
        let e : W × W := tget (0, 0) b.nhtab h
        { b with nhtab := tset b.nhtab h (if off % 16 = 0 then (keep v 56 2 ||| keep v 0 0, e.2) else (e.1, keep v 5 0)) })
    else if 0xC000 ≤ off ∧ off < 0xCA00 then m fun p => { p with fabrt := tset p.fabrt ((off - 0xC000) / 8) (v.setWidth 16) }
    else none

/-! ### Cluster and core windows -/

/-- A store to `ROUTE`: ignored when it names an elevator of another stack or one twice. -/
def State.setRoute (s : State) (oct : Nat) (v : W) : State :=
  let p := bits v.toNat 5 0
  let q := bits v.toNat 13 8
  let st := oct / 96
  if p / 4 = st ∧ q / 4 = st ∧ p ≠ q then s.modOct oct fun o => { o with route := some (BitVec.ofNat 6 p, BitVec.ofNat 6 q) } else s
def Power.code : Power → Nat
  | .running => 0 | .gating => 1 | .gated => 2 | .waking => 3

def State.clusterRead (s : State) (k off : Nat) : Option W :=
  if off = 0x1000 then some (s.cluOf k).ecclog
  else if 0x3000 ≤ off ∧ off < 0x30C0 then
    let r := s.routeOf (k * 24 + (off - 0x3000) / 8)
    some (BitVec.ofNat 64 (r.2.toNat * 256 + r.1.toNat))
  else if 0x3200 ≤ off ∧ off < 0x3800 then some (s.coreOf (k * 192 + (off - 0x3200) / 8)).perm
  else if 0x3800 ≤ off ∧ off < 0x38C0 then
    let o := s.octOf (k * 24 + (off - 0x3800) / 8)
    some (BitVec.ofNat 64 (bit o.busy * 2 ^ 63 + o.tag.toNat))
  else if 0x3A00 ≤ off ∧ off < 0x3B80 then some (BitVec.ofNat 64 (s.quadOf (k * 48 + (off - 0x3A00) / 8)).power.code)
  else if 0x20000 ≤ off ∧ off < 0x28000 then some (tget 0 (s.cluOf k).teamhdl ((off - 0x20000) / 8))
  else if 0x40000 ≤ off ∧ off < 0xC0000 then some (s.barOf k ((off - 0x40000) / 8)).pack
  else none

def State.setTeamhdl (s : State) (k team : Nat) (v : W) : State :=
  s.modClu k fun c => { c with teamhdl := tset c.teamhdl team (keep v 56 2 ||| keep v 0 0) }

def State.clusterWrite (s : State) (k off : Nat) (v : W) : Option State :=
  if off = 0x1000 then some (s.modClu k fun c => { c with ecclog := keep v 63 63 ||| keep v 51 0 })
  else if 0x3000 ≤ off ∧ off < 0x30C0 then some (s.setRoute (k * 24 + (off - 0x3000) / 8) v)
  else if 0x3200 ≤ off ∧ off < 0x3800 then some (s.modCore (k * 192 + (off - 0x3200) / 8) fun c => { c with perm := v })
  else if 0x3800 ≤ off ∧ off < 0x38C0 then some (s.setOwner (k * 24 + (off - 0x3800) / 8) v)
  else if 0x20000 ≤ off ∧ off < 0x28000 then some (s.setTeamhdl k ((off - 0x20000) / 8) v)
  else if 0x40000 ≤ off ∧ off < 0xC0000 then some (s.barStore k ((off - 0x40000) / 8) v)
  else none

/-- `MQSTAT` as it reads (R224). -/
def mqstat (c : CState) : W :=
  BitVec.ofNat 64 (c.mqCause.toNat * 2 ^ 56 + bit c.mqBar * 2 ^ 55 + c.mqDone.toNat * 16 + c.mq.length)

def State.coreRead (s : State) (rid : Option Nat) (core off : Nat) : Option W :=
  let c := s.cs core
  let own := match rid with | some r => coreOfRid r == core | none => false
  if off = 0x40 then (if own then some (mqstat c) else none)
  else if off = 0x48 then (if own then some (s.thrOf (rid.getD 0)).mqprom else none)
  else if off = 0x100 then some (c.openlim.setWidth 64) else if off = 0x108 then some (c.turnlen.setWidth 64)
  else if off = 0x110 then some (c.vshare.setWidth 64) else if off = 0x118 then some (hpoolWord c)
  else if off = 0x120 then some ((s.coreOf core).rxdrop.setWidth 64)
  else none

def State.coreWrite (s : State) (core off : Nat) (v : W) : Option State :=
  if off = 0x100 then some (s.modLoaded core fun c => setOpenlim c v)
  else if off = 0x108 then some (s.writeTurnlen core fun c => setTurnlen c v)
  else if off = 0x110 then some (s.modLoaded core fun c => setVshare c v)
  else if off = 0x118 then some (s.modLoaded core fun c => setHpool c v)
  else if off = 0x120 then some (s.modCore core fun c => { c with rxdrop := v.setWidth 32 })
  else none

/-- An 8-byte load of a register: by a row, or by system software. None where no register that reads stands there. -/
def State.mmioRead (s : State) (rid : Option Nat) (pa : Nat) : Option W :=
  match regionOf pa with
  | .service off => s.serviceRead off
  | .clusterMmio k off => s.clusterRead k off
  | .coreMmio c off => s.coreRead rid c off
  | _ => none
/-- An 8-byte store to a register. None where no register that is written stands there. -/
def State.mmioWrite (s : State) (pa : Nat) (v : W) : Option State :=
  match regionOf pa with
  | .service off => s.serviceWrite off v
  | .clusterMmio k off => s.clusterWrite k off v
  | .coreMmio c off => s.coreWrite c off v
  | _ => none

end Sys2Proof.Machine
end

