-- ==== Sys2Proof/Machine/Bar.lean ====
section
/-! DEFINITION. What engine, matrix, sketch and near-bank units share: spec fields, the range-lock registration of a command
(07_memory_model.md R146; 13_engines.md R241, R248), their reads and writes at homes (R239; 24_tenancy_boot.md R360, R368), and the bar
(13_engines.md R250, R251; 16_translation.md R284). -/

namespace Sys2Proof.Machine

/-! ### Accesses of a unit -/

/-- Why a unit's access does not take place: a fault that goes to the bar, an abort, a write to a bank of another owner, which is dropped with what
the beat wrote before it kept (24_tenancy_boot.md R360), or a boundary or a port that must come first. -/
inductive EStop where
  | bar (x : Xf)
  | abort (c : Cause)
  | dropped (s : State)
  | hold

/-- The targets that an engine reaches (R239), and those of a matrix command of a cluster (12_vector_matrix.md R236). -/
def engineTarget (r : Region) : Bool :=
  match r with
  | .hbm | .bankLinear | .rowStore _ _ | .host | .remote _ _ => true
  | _ => false
def matrixTarget (k : Nat) (r : Region) : Bool :=
  match r with
  | .hbm | .bankLinear => true
  | .rowStore rid _ => clusterOf (coreOfRid rid) == k
  | _ => false

/-- The physical address of a unit's access: a `PERM` fault and a target that the unit does not reach abort, other faults go to the bar. -/
def State.unitXlat (s : State) (k ten va : Nat) (write : Bool) (ok : Region → Bool) : Except EStop (Nat × State) :=
  match s.engXlat k ten va write with
  | .error x => .error (if x.cause = .perm then .abort .perm else .bar x)
  | .ok (pa, _, s) =>
    if !ok (regionOf pa) then .error (.abort .perm)
    else match regionOf pa with
      | .remote p _ => if (s.portsTo p).isEmpty then .error .hold else .ok (pa, s)
      | _ => .ok (pa, s)
/-- The home of an access brought to a boundary, or the access put off. -/
def State.unitSettle (s : State) (pa n : Nat) : Except EStop State :=
  match s.settleAt pa n none with
  | some s => .ok s
  | none => .error .hold
/-- Bytes read at a physical address: those of a BUSY bank are zero (25_platform_cases.md R368). -/
def State.unitReadAt (s : State) (pa n : Nat) : Except EStop (List Byte × State) := do
  if s.busyBank pa then return (bytesOf n 0, s)
  if (s.uncorrAt pa n).isSome then .error (.abort .uncorr)
  let s ← s.unitSettle pa n
  .ok (bytesOf n (s.homeRead pa n), s)
/-- Up to 64 bytes read at their home. -/
def State.unitRead (s : State) (k ten va n : Nat) (ok : Region → Bool) : Except EStop (List Byte × State) := do
  let (pa, s) ← s.unitXlat k ten va false ok
  s.unitReadAt pa n

/-- What a unit writes for: its tenant, its command's number, the layout tag that it gives a NULL row (R244), and the rows that its command has written
already. -/
structure Writer where
  ten : Nat
  id : Nat
  ltag : Option Nat := none
  tagged : List Nat := []
  deriving DecidableEq, Repr, Inhabited
/-- Whether a write for a tenant passes the check of R360. -/
def State.mayWrite (s : State) (ten pa : Nat) : Bool :=
  match rowAt pa with
  | some rid => ten == 0 || s.tenantOf (coreOfRid rid) == ten
  | none => true
/-- Bytes applied at their home, which stands at a boundary: held while the octet is BUSY (R368). -/
def State.landStore (s : State) (w : Writer) (pa : Nat) (bs : List Byte) : State :=
  if s.busyBank pa then s.holdWrite pa bs w.ten (.unit w.id w.ltag)
  else match clusterHome pa with
    | some _ => s.rowStoreBytes pa bs
    | none => (s.clearUncorr pa bs.length).poke pa bs
/-- One slot at each cluster home that a beat has written (07_memory_model.md R132). -/
def State.beatSlots (s : State) (l : List (Nat × Nat)) : State :=
  (l.filterMap fun x => clusterHome x.1).eraseDups.foldl (fun s k =>
    s.commitSlot k ((l.filter fun x => clusterHome x.1 == some k).foldl (fun b x => b ||| rangeSig x.1 x.2) 0)) s
/-- The rows of pieces that a beat has applied, tagged where they are NULL and the command had not written them (R244). A held piece tags its row when it
applies. -/
def State.tagPieces (s : State) (w : Writer) (l : List (Nat × Nat)) : State :=
  l.foldl (fun s x => if (rowAt x.1).any w.tagged.contains || s.busyBank x.1 then s else s.tagNull x.1 w.ltag) s
/-- Translated pieces applied in order, or held whole by a BUSY octet. One that another owner's bank drops ends the beat; `done` holds the pieces
applied. -/
def State.landAll (s : State) (w : Writer) : List (Nat × List Byte) → List (Nat × Nat) → Except EStop (List (Nat × Nat) × State)
  | [], done => .ok (done, s)
  | (pa, bs) :: rest, done => do
    if !s.mayWrite w.ten pa then .error (.dropped ((s.beatSlots done).tagPieces w done))
    let s ← if s.busyBank pa then .ok s else s.unitSettle pa bs.length
    (s.landStore w pa bs).landAll w rest (done ++ [(pa, bs.length)])
/-- Pieces of a beat translated, all of them before any is written (R250). -/
def State.unitXlats (s : State) (k ten : Nat) (ok : Region → Bool) : List (Nat × List Byte) → Except EStop (List (Nat × List Byte) × State)
  | [] => .ok ([], s)
  | (va, bs) :: rest => do
    let (pa, s) ← s.unitXlat k ten va true ok
    let (l, s) ← s.unitXlats k ten ok rest
    .ok ((pa, bs) :: l, s)
/-- Bytes written from a virtual address on, cut at 16-byte boundaries. -/
def piecesOf (va : Nat) (bs : List Byte) : List (Nat × List Byte) :=
  (cut16 (bs.length / 16 + 2) va bs.length).map fun x => (x.1, (bs.drop (x.1 - va)).take x.2)
/-- Byte strings written by one beat, without its slots: the pieces applied, by physical address and length. -/
def State.unitPuts (s : State) (k : Nat) (w : Writer) (outs : List (Nat × List Byte)) (ok : Region → Bool := engineTarget) :
    Except EStop (List (Nat × Nat) × State) := do
  let (l, s) ← s.unitXlats k w.ten ok (outs.flatMap fun o => piecesOf o.1 o.2)
  s.landAll w l []
/-- One byte string written by a beat of its own. -/
def State.unitPut (s : State) (k : Nat) (w : Writer) (va : Nat) (bs : List Byte) (ok : Region → Bool := engineTarget) :
    Except EStop (List (Nat × Nat) × State) := do
  let (l, s) ← s.unitPuts k w [(va, bs)] ok
  .ok (l, s.beatSlots l)
/-- Whether a write of a command is held by a BUSY octet: the command goes on once it has applied (R368). -/
def State.writeHeld (s : State) (id : Nat) : Bool :=
  s.oct.any fun o => o.2.heldWrites.any fun h => match h.what with
    | .unit i _ | .count i _ _ _ => i == id
    | _ => false
/-- An operation of a unit on a word of a sketch, at its home in one step (19_sketch_at_work.md R314), or held whole by a BUSY octet: whether the flag of
the counter's row is set and whether the counter left its range, as far as the operation is done, and what was written. -/
def State.unitOp (s : State) (w : Writer) (pa : Nat) (op : CtrOp) (row : Nat) : Except EStop (Bool × Bool × State) := do
  if !s.busyBank pa && (s.uncorrAt pa op.bytes).isSome then .error (.abort .uncorr)
  let slot : State → State := fun s => s.beatSlots [(pa, op.bytes)]
  if s.busyBank pa && s.mayWrite w.ten pa then
    return (false, false, slot (s.holdWrite pa (bytesOf op.bytes 0) w.ten (.count w.id w.ltag op row)))
  let s ← s.unitSettle pa op.bytes
  if !s.mayWrite w.ten pa then .error (.dropped s)
  let r := s.wordOp pa op
  .ok (r.2.1, r.2.2.1, (slot r.2.2.2).tagPieces w [(pa, op.bytes)])

/-- Pieces of one byte string read in order. -/
def State.unitReads (s : State) (k ten : Nat) (ok : Region → Bool) : List (Nat × Nat) → Except EStop (List Byte × State)
  | [] => .ok ([], s)
  | (va, n) :: rest => do
    let (bs, s) ← s.unitRead k ten va n ok
    let (bs', s) ← s.unitReads k ten ok rest
    .ok (bs ++ bs', s)
/-- Any number of bytes at a virtual address. -/
def State.unitGet (s : State) (k ten va n : Nat) (ok : Region → Bool := engineTarget) : Except EStop (List Byte × State) :=
  s.unitReads k ten ok (cut16 (n / 16 + 2) va n)

/-! ### Accesses already translated (R281, R285, R288) -/

/-- Whether an access of some thread that an entry translated has not reached its home or been performed. -/
def State.entryBusy (s : State) (p : TlbEntry → Bool) : Bool :=
  s.inFlight.any fun a => s.tlbAll.any fun e => p e && decide (e.pa ≤ a) && decide (a < e.pa + e.size)

/-! ### The bar -/

/-- Whether the device serves a fault itself (R284): a parked page with `FNMODE`[0] = 0, or a copy-on-write with `FNMODE`[1] = 0. -/
def State.servesItself (s : State) (x : Xf) : Bool :=
  (x.cause == .page && x.parked && !s.pkg.fnmode.getLsbD 0) || (x.cause == .cow && !s.pkg.fnmode.getLsbD 1)
/-- An item goes to its tenant's bar. What the device does not serve is reported to the host fault ring, a stage-2 fault too: no register says whether the
service firmware is its owner (16_translation.md R275, R283; DESIGN CHOICE; entry 118). -/
def State.toBar (s : State) (ten k : Nat) (what : BarWhat) (x : Xf) : State :=
  let b : BarEntry := { what := what, cause := x.cause, va := x.va, during := x.during, ipa := x.ipa, write := x.write, host := !s.servesItself x && !x.far,
                        far := x.far, cluster := k }
  (s.modTen ten fun t => { t with bar := t.bar ++ [b] }).askNext ten (x.va / 65536)

end Sys2Proof.Machine
end

