-- ==== Sys2Proof/Decode.lean ====
section
/-! DEFINITION. The decoder of instruction words and bundles (03_encoding.md R51 to R75) and, after it, the encoder written from
the same tables. A word is read as a natural number below 2^32; bit 31, the bundle bit or the reserved bit of word 1 (R52), is
no part of the word's own encoding and is judged with the bundle. -/

namespace Sys2Proof

/-- An `n`-bit field whose lowest bit is bit 0 of `x`. -/
def fld (n x : Nat) : BitVec n := BitVec.ofNat n x

/-! ### The words of each major opcode

One function per major opcode that has several forms or unused fields. Every field that a form leaves unused must be zero (R75): the tests of each line say so. -/

/-- Major opcode 0. -/
def decodeMajor0 (w : Nat) : Except Reject Instr :=
  if w / 1 % 16777216 = 0 then .ok .nop
  else if w / 1 % 16777216 = 1 then .ok .texit
  else if w / 1 % 16777216 = 2 then .ok .yield
  else if w / 1 % 512 = 3 ∧ w / 16384 % 1024 = 0 then .ok (.trap (fld 5 (w / 512)))
  else if w / 1 % 16384 = 4 ∧ w / 524288 % 32 = 0 then .ok (.tret (fld 5 (w / 16384)))
  else if w / 1 % 16777216 = 5 then .ok .fenceI
  else if w / 1 % 16777216 = 6 then .ok .waitmsg
  else if w / 1 % 16384 = 7 ∧ w / 524288 % 32 = 0 then .ok (.ssync (fld 5 (w / 16384)))
  else if w / 1 % 16384 = 8 ∧ w / 524288 % 32 = 0 then .ok (.setpri (fld 5 (w / 16384)))
  else if w / 1 % 16384 = 9 ∧ w / 524288 % 32 = 0 then .ok (.sleepuntil (fld 5 (w / 16384)))
  else if w / 1 % 16384 = 10 ∧ w / 524288 % 32 = 0 then .ok (.hjoin (fld 5 (w / 16384)))
  else if w / 1 % 16777216 = 11 then .ok .chunk
  else if w / 1 % 512 = 12 ∧ w / 524288 % 32 = 0 then .ok (.tlbinv (fld 5 (w / 16384)) (fld 5 (w / 512)))
  else if w / 1 % 16384 = 13 ∧ w / 524288 % 32 = 0 then .ok (.pgate (fld 5 (w / 16384)))
  else if w / 1 % 524288 = 14 then .ok (.cycle (fld 5 (w / 524288)))
  else if w / 1 % 524288 = 15 then .ok (.mbxpop (fld 5 (w / 524288)))
  else .error (.unassigned 0)
/-- Major opcode 9. -/
def decodeMajor9 (w : Nat) : Except Reject Instr :=
  if w / 16384 % 32 = 0 then .ok (.ldrB (fld 5 (w / 524288)) (fld 14 (w / 1)))
  else if w / 16384 % 32 = 1 then .ok (.ldrH (fld 5 (w / 524288)) (fld 14 (w / 1)))
  else if w / 16384 % 32 = 2 then .ok (.ldrW (fld 5 (w / 524288)) (fld 14 (w / 1)))
  else if w / 16384 % 32 = 3 then .ok (.ldrD (fld 5 (w / 524288)) (fld 14 (w / 1)))
  else if w / 16384 % 32 = 4 then .ok (.ldrBu (fld 5 (w / 524288)) (fld 14 (w / 1)))
  else if w / 16384 % 32 = 5 then .ok (.ldrHu (fld 5 (w / 524288)) (fld 14 (w / 1)))
  else if w / 16384 % 32 = 6 then .ok (.ldrWu (fld 5 (w / 524288)) (fld 14 (w / 1)))
  else .error (.unassigned 9)
/-- Major opcode 10. -/
def decodeMajor10 (w : Nat) : Except Reject Instr :=
  if w / 16384 % 32 = 0 then .ok (.strB (fld 5 (w / 524288)) (fld 14 (w / 1)))
  else if w / 16384 % 32 = 1 then .ok (.strH (fld 5 (w / 524288)) (fld 14 (w / 1)))
  else if w / 16384 % 32 = 2 then .ok (.strW (fld 5 (w / 524288)) (fld 14 (w / 1)))
  else if w / 16384 % 32 = 3 then .ok (.strD (fld 5 (w / 524288)) (fld 14 (w / 1)))
  else .error (.unassigned 10)
/-- Major opcode 11. -/
def decodeMajor11 (w : Nat) : Except Reject Instr :=
  if w / 1 % 512 = 0 then .ok (.hstart (fld 5 (w / 524288)) (fld 5 (w / 16384)) (fld 5 (w / 512)))
  else .error (.unassigned 11)
/-- Major opcode 12. -/
def decodeMajor12 (w : Nat) : Except Reject Instr :=
  if w / 1 % 4 = 0 ∧ w / 32 % 512 = 0 then .ok (.ldaW (fld 5 (w / 524288)) (fld 5 (w / 16384)) (fld 3 (w / 4)))
  else if w / 1 % 4 = 0 ∧ w / 32 % 512 = 1 then .ok (.ldaD (fld 5 (w / 524288)) (fld 5 (w / 16384)) (fld 3 (w / 4)))
  else if w / 1 % 4 = 0 ∧ w / 32 % 16 = 2 ∧ w / 524288 % 32 = 0 then .ok (.stlW (fld 5 (w / 16384)) (fld 5 (w / 512)) (fld 3 (w / 4)))
  else if w / 1 % 4 = 0 ∧ w / 32 % 16 = 3 ∧ w / 524288 % 32 = 0 then .ok (.stlD (fld 5 (w / 16384)) (fld 5 (w / 512)) (fld 3 (w / 4)))
  else if w / 1 % 4 = 0 ∧ w / 32 % 16 = 4 ∧ w / 524288 % 32 = 0 then .ok (.stmcW (fld 5 (w / 16384)) (fld 5 (w / 512)) (fld 3 (w / 4)))
  else if w / 1 % 4 = 0 ∧ w / 32 % 16 = 5 ∧ w / 524288 % 32 = 0 then .ok (.stmcD (fld 5 (w / 16384)) (fld 5 (w / 512)) (fld 3 (w / 4)))
  else if w / 32 % 524288 = 6 then .ok (.fence (fld 3 (w / 4)) (fld 2 (w / 1)))
  else .error (.unassigned 12)
/-- Major opcode 29. -/
def decodeMajor29 (w : Nat) : Except Reject Instr :=
  if w / 1 % 8 = 0 ∧ w / 32 % 16 = 0 then .ok (.ldxB (fld 5 (w / 524288)) (fld 5 (w / 16384)) (fld 5 (w / 512)) (fld 2 (w / 8)))
  else if w / 1 % 8 = 0 ∧ w / 32 % 16 = 1 then .ok (.ldxH (fld 5 (w / 524288)) (fld 5 (w / 16384)) (fld 5 (w / 512)) (fld 2 (w / 8)))
  else if w / 1 % 8 = 0 ∧ w / 32 % 16 = 2 then .ok (.ldxW (fld 5 (w / 524288)) (fld 5 (w / 16384)) (fld 5 (w / 512)) (fld 2 (w / 8)))
  else if w / 1 % 8 = 0 ∧ w / 32 % 16 = 3 then .ok (.ldxD (fld 5 (w / 524288)) (fld 5 (w / 16384)) (fld 5 (w / 512)) (fld 2 (w / 8)))
  else if w / 1 % 8 = 0 ∧ w / 32 % 16 = 4 then .ok (.ldxBu (fld 5 (w / 524288)) (fld 5 (w / 16384)) (fld 5 (w / 512)) (fld 2 (w / 8)))
  else if w / 1 % 8 = 0 ∧ w / 32 % 16 = 5 then .ok (.ldxHu (fld 5 (w / 524288)) (fld 5 (w / 16384)) (fld 5 (w / 512)) (fld 2 (w / 8)))
  else if w / 1 % 8 = 0 ∧ w / 32 % 16 = 6 then .ok (.ldxWu (fld 5 (w / 524288)) (fld 5 (w / 16384)) (fld 5 (w / 512)) (fld 2 (w / 8)))
  else if w / 1 % 8 = 0 ∧ w / 32 % 16 = 7 then .ok (.ldxV (fld 5 (w / 524288)) (fld 5 (w / 16384)) (fld 5 (w / 512)) (fld 2 (w / 8)))
  else if w / 1 % 8 = 0 ∧ w / 32 % 16 = 8 then .ok (.stxB (fld 5 (w / 524288)) (fld 5 (w / 16384)) (fld 5 (w / 512)) (fld 2 (w / 8)))
  else if w / 1 % 8 = 0 ∧ w / 32 % 16 = 9 then .ok (.stxH (fld 5 (w / 524288)) (fld 5 (w / 16384)) (fld 5 (w / 512)) (fld 2 (w / 8)))
  else if w / 1 % 8 = 0 ∧ w / 32 % 16 = 10 then .ok (.stxW (fld 5 (w / 524288)) (fld 5 (w / 16384)) (fld 5 (w / 512)) (fld 2 (w / 8)))
  else if w / 1 % 8 = 0 ∧ w / 32 % 16 = 11 then .ok (.stxD (fld 5 (w / 524288)) (fld 5 (w / 16384)) (fld 5 (w / 512)) (fld 2 (w / 8)))
  else if w / 1 % 8 = 0 ∧ w / 32 % 16 = 15 then .ok (.stxV (fld 5 (w / 524288)) (fld 5 (w / 16384)) (fld 5 (w / 512)) (fld 2 (w / 8)))
  else .error (.unassigned 29)
/-- Major opcode 30. -/
def decodeMajor30 (w : Nat) : Except Reject Instr :=
  if w / 32 % 16 = 0 then .ok (.atomwAdd (fld 5 (w / 524288)) (fld 5 (w / 16384)) (fld 5 (w / 512)) (fld 3 (w / 4)) (fld 2 (w / 1)))
  else if w / 32 % 16 = 1 then .ok (.atomwSwap (fld 5 (w / 524288)) (fld 5 (w / 16384)) (fld 5 (w / 512)) (fld 3 (w / 4)) (fld 2 (w / 1)))
  else if w / 32 % 16 = 2 then .ok (.atomwCas (fld 5 (w / 524288)) (fld 5 (w / 16384)) (fld 5 (w / 512)) (fld 3 (w / 4)) (fld 2 (w / 1)))
  else if w / 32 % 16 = 3 then .ok (.atomwAnd (fld 5 (w / 524288)) (fld 5 (w / 16384)) (fld 5 (w / 512)) (fld 3 (w / 4)) (fld 2 (w / 1)))
  else if w / 32 % 16 = 4 then .ok (.atomwOr (fld 5 (w / 524288)) (fld 5 (w / 16384)) (fld 5 (w / 512)) (fld 3 (w / 4)) (fld 2 (w / 1)))
  else if w / 32 % 16 = 5 then .ok (.atomwXor (fld 5 (w / 524288)) (fld 5 (w / 16384)) (fld 5 (w / 512)) (fld 3 (w / 4)) (fld 2 (w / 1)))
  else if w / 32 % 16 = 6 then .ok (.atomwMin (fld 5 (w / 524288)) (fld 5 (w / 16384)) (fld 5 (w / 512)) (fld 3 (w / 4)) (fld 2 (w / 1)))
  else if w / 32 % 16 = 7 then .ok (.atomwMax (fld 5 (w / 524288)) (fld 5 (w / 16384)) (fld 5 (w / 512)) (fld 3 (w / 4)) (fld 2 (w / 1)))
  else if w / 32 % 16 = 8 then .ok (.atomwMinu (fld 5 (w / 524288)) (fld 5 (w / 16384)) (fld 5 (w / 512)) (fld 3 (w / 4)) (fld 2 (w / 1)))
  else if w / 32 % 16 = 9 then .ok (.atomwMaxu (fld 5 (w / 524288)) (fld 5 (w / 16384)) (fld 5 (w / 512)) (fld 3 (w / 4)) (fld 2 (w / 1)))
  else .error (.unassigned 30)
/-- Major opcode 31. -/
def decodeMajor31 (w : Nat) : Except Reject Instr :=
  if w / 32 % 16 = 0 then .ok (.atomdAdd (fld 5 (w / 524288)) (fld 5 (w / 16384)) (fld 5 (w / 512)) (fld 3 (w / 4)) (fld 2 (w / 1)))
  else if w / 32 % 16 = 1 then .ok (.atomdSwap (fld 5 (w / 524288)) (fld 5 (w / 16384)) (fld 5 (w / 512)) (fld 3 (w / 4)) (fld 2 (w / 1)))
  else if w / 32 % 16 = 2 then .ok (.atomdCas (fld 5 (w / 524288)) (fld 5 (w / 16384)) (fld 5 (w / 512)) (fld 3 (w / 4)) (fld 2 (w / 1)))
  else if w / 32 % 16 = 3 then .ok (.atomdAnd (fld 5 (w / 524288)) (fld 5 (w / 16384)) (fld 5 (w / 512)) (fld 3 (w / 4)) (fld 2 (w / 1)))
  else if w / 32 % 16 = 4 then .ok (.atomdOr (fld 5 (w / 524288)) (fld 5 (w / 16384)) (fld 5 (w / 512)) (fld 3 (w / 4)) (fld 2 (w / 1)))
  else if w / 32 % 16 = 5 then .ok (.atomdXor (fld 5 (w / 524288)) (fld 5 (w / 16384)) (fld 5 (w / 512)) (fld 3 (w / 4)) (fld 2 (w / 1)))
  else if w / 32 % 16 = 6 then .ok (.atomdMin (fld 5 (w / 524288)) (fld 5 (w / 16384)) (fld 5 (w / 512)) (fld 3 (w / 4)) (fld 2 (w / 1)))
  else if w / 32 % 16 = 7 then .ok (.atomdMax (fld 5 (w / 524288)) (fld 5 (w / 16384)) (fld 5 (w / 512)) (fld 3 (w / 4)) (fld 2 (w / 1)))
  else if w / 32 % 16 = 8 then .ok (.atomdMinu (fld 5 (w / 524288)) (fld 5 (w / 16384)) (fld 5 (w / 512)) (fld 3 (w / 4)) (fld 2 (w / 1)))
  else if w / 32 % 16 = 9 then .ok (.atomdMaxu (fld 5 (w / 524288)) (fld 5 (w / 16384)) (fld 5 (w / 512)) (fld 3 (w / 4)) (fld 2 (w / 1)))
  else .error (.unassigned 31)
/-- Major opcode 32. -/
def decodeMajor32 (w : Nat) : Except Reject Instr :=
  if w / 1 % 512 = 0 ∧ w / 524288 % 32 = 0 then .ok (.qpush (fld 5 (w / 16384)) (fld 5 (w / 512)))
  else .error (.unassigned 32)
/-- Major opcode 33. -/
def decodeMajor33 (w : Nat) : Except Reject Instr :=
  if w / 1 % 512 = 0 ∧ w / 16384 % 32 = 0 then .ok (.qpop (fld 5 (w / 524288)) (fld 5 (w / 512)))
  else .error (.unassigned 33)
/-- Major opcode 34. -/
def decodeMajor34 (w : Nat) : Except Reject Instr :=
  if w / 1 % 512 = 0 ∧ w / 16384 % 32 = 0 then .ok (.qcntHeld (fld 5 (w / 524288)) (fld 5 (w / 512)))
  else if w / 1 % 512 = 1 ∧ w / 16384 % 32 = 0 then .ok (.qcntFree (fld 5 (w / 524288)) (fld 5 (w / 512)))
  else .error (.unassigned 34)
/-- Major opcode 35. -/
def decodeMajor35 (w : Nat) : Except Reject Instr :=
  if w / 1 % 512 = 0 ∧ w / 524288 % 32 = 0 then .ok (.sendH (fld 5 (w / 16384)) (fld 5 (w / 512)))
  else if w / 1 % 524288 = 1 then .ok (.sendP (fld 5 (w / 524288)))
  else if w / 1 % 512 = 2 ∧ w / 524288 % 32 = 0 then .ok (.sendHe (fld 5 (w / 16384)) (fld 5 (w / 512)))
  else if w / 1 % 524288 = 3 then .ok (.sendPe (fld 5 (w / 524288)))
  else .error (.unassigned 35)
/-- Major opcode 36. -/
def decodeMajor36 (w : Nat) : Except Reject Instr :=
  if w / 1 % 16 = 0 ∧ w / 256 % 64 = 0 then .ok (.recv (fld 5 (w / 524288)) (fld 5 (w / 16384)) (fld 4 (w / 16)))
  else if w / 1 % 16 = 0 ∧ w / 256 % 2 = 1 then .ok (.recvDl (fld 5 (w / 524288)) (fld 5 (w / 16384)) (fld 5 (w / 512)) (fld 4 (w / 16)))
  else .error (.unassigned 36)
/-- Major opcode 37. -/
def decodeMajor37 (w : Nat) : Except Reject Instr :=
  if w / 1 % 16384 = 0 ∧ w / 524288 % 32 = 0 then .ok (.bar (fld 5 (w / 16384)))
  else .error (.unassigned 37)
/-- Major opcode 40. -/
def decodeMajor40 (w : Nat) : Except Reject Instr :=
  if w / 16 % 32768 = 0 then .ok (.xcopy (fld 5 (w / 524288)) (fld 4 (w / 1)))
  else .error (.unassigned 40)
/-- Major opcode 41. -/
def decodeMajor41 (w : Nat) : Except Reject Instr :=
  if w / 16 % 32768 = 0 then .ok (.xgather (fld 5 (w / 524288)) (fld 4 (w / 1)))
  else .error (.unassigned 41)
/-- Major opcode 42. -/
def decodeMajor42 (w : Nat) : Except Reject Instr :=
  if w / 16 % 32768 = 0 then .ok (.xscatter (fld 5 (w / 524288)) (fld 4 (w / 1)))
  else .error (.unassigned 42)
/-- Major opcode 43. -/
def decodeMajor43 (w : Nat) : Except Reject Instr :=
  if w / 16 % 32768 = 0 then .ok (.xreduce (fld 5 (w / 524288)) (fld 4 (w / 1)))
  else .error (.unassigned 43)
/-- Major opcode 44. -/
def decodeMajor44 (w : Nat) : Except Reject Instr :=
  if w / 16 % 32768 = 0 then .ok (.sbind (fld 5 (w / 524288)) (fld 4 (w / 1)))
  else .error (.unassigned 44)
/-- Major opcode 45. -/
def decodeMajor45 (w : Nat) : Except Reject Instr :=
  if w / 1 % 524288 = 0 then .ok (.sunbind (fld 5 (w / 524288)))
  else .error (.unassigned 45)
/-- Major opcode 46. -/
def decodeMajor46 (w : Nat) : Except Reject Instr :=
  if w / 16 % 1024 = 0 ∧ w / 524288 % 32 = 0 then .ok (.tbinit (fld 5 (w / 16384)) (fld 4 (w / 1)))
  else .error (.unassigned 46)
/-- Major opcode 47. -/
def decodeMajor47 (w : Nat) : Except Reject Instr :=
  if w / 16 % 1024 = 0 ∧ w / 524288 % 32 = 0 then .ok (.tbwait (fld 5 (w / 16384)) (fld 4 (w / 1)))
  else .error (.unassigned 47)
/-- Major opcode 48. -/
def decodeMajor48 (w : Nat) : Except Reject Instr :=
  if w / 16 % 1024 = 0 ∧ w / 524288 % 32 = 0 then .ok (.skdef (fld 5 (w / 16384)) (fld 4 (w / 1)))
  else .error (.unassigned 48)
/-- Major opcode 49. -/
def decodeMajor49 (w : Nat) : Except Reject Instr :=
  if w / 16 % 1024 = 0 ∧ w / 524288 % 32 = 0 then .ok (.skupd (fld 5 (w / 16384)) (fld 4 (w / 1)))
  else .error (.unassigned 49)
/-- Major opcode 50. -/
def decodeMajor50 (w : Nat) : Except Reject Instr :=
  if w / 16 % 32 = 0 ∧ w / 524288 % 32 = 0 then .ok (.skupdv (fld 5 (w / 16384)) (fld 5 (w / 512)) (fld 4 (w / 1)))
  else .error (.unassigned 50)
/-- Major opcode 51. -/
def decodeMajor51 (w : Nat) : Except Reject Instr :=
  if w / 16 % 1024 = 0 then .ok (.skqry (fld 5 (w / 524288)) (fld 5 (w / 16384)) (fld 4 (w / 1)))
  else .error (.unassigned 51)
/-- Major opcode 52. -/
def decodeMajor52 (w : Nat) : Except Reject Instr :=
  if w / 16 % 32768 = 0 then .ok (.skadd (fld 5 (w / 524288)) (fld 4 (w / 1)))
  else .error (.unassigned 52)
/-- Major opcode 53. -/
def decodeMajor53 (w : Nat) : Except Reject Instr :=
  if w / 1 % 512 = 0 ∧ w / 524288 % 32 = 0 then .ok (.skscl (fld 5 (w / 16384)) (fld 5 (w / 512)))
  else .error (.unassigned 53)
/-- Major opcode 54. -/
def decodeMajor54 (w : Nat) : Except Reject Instr :=
  if w / 1 % 16384 = 0 ∧ w / 524288 % 32 = 0 then .ok (.skclr (fld 5 (w / 16384)))
  else .error (.unassigned 54)
/-- Major opcode 55. -/
def decodeMajor55 (w : Nat) : Except Reject Instr :=
  if w / 2 % 8192 = 0 then .ok (.skstat (fld 5 (w / 524288)) (fld 5 (w / 16384)) (fld 1 (w / 1)))
  else .error (.unassigned 55)
/-- Major opcode 56. -/
def decodeMajor56 (w : Nat) : Except Reject Instr :=
  if w / 16 % 1024 = 0 then .ok (.gdef (fld 5 (w / 524288)) (fld 5 (w / 16384)) (fld 4 (w / 1)))
  else .error (.unassigned 56)
/-- Major opcode 57. -/
def decodeMajor57 (w : Nat) : Except Reject Instr :=
  if w / 1 % 16384 = 0 ∧ w / 524288 % 32 = 0 then .ok (.gdel (fld 5 (w / 16384)))
  else .error (.unassigned 57)
/-- Major opcode 58. -/
def decodeMajor58 (w : Nat) : Except Reject Instr :=
  if w / 1 % 512 = 0 then .ok (.apply (fld 5 (w / 524288)) (fld 5 (w / 16384)) (fld 5 (w / 512)))
  else if w / 1 % 512 = 1 then .ok (.applyq (fld 5 (w / 524288)) (fld 5 (w / 16384)) (fld 5 (w / 512)))
  else .error (.unassigned 58)
/-- Major opcode 59. -/
def decodeMajor59 (w : Nat) : Except Reject Instr :=
  if w / 1 % 16384 = 0 then .ok (.nwait (fld 5 (w / 524288)) (fld 5 (w / 16384)))
  else .error (.unassigned 59)
/-- Major opcode 60. -/
def decodeMajor60 (w : Nat) : Except Reject Instr :=
  if w / 1 % 16384 = 0 ∧ w / 524288 % 32 = 0 then .ok (.nabort (fld 5 (w / 16384)))
  else .error (.unassigned 60)
/-- Major opcode 61. -/
def decodeMajor61 (w : Nat) : Except Reject Instr :=
  if w / 1 % 16384 = 0 then .ok (.cyield (fld 5 (w / 524288)) (fld 5 (w / 16384)))
  else if w / 1 % 512 = 1 then .ok (.cresume (fld 5 (w / 524288)) (fld 5 (w / 16384)) (fld 5 (w / 512)))
  else .error (.unassigned 61)
/-- Major opcode 62. -/
def decodeMajor62 (w : Nat) : Except Reject Instr :=
  if w / 4096 % 128 = 0 then .ok (.csrr (fld 5 (w / 524288)) (fld 12 (w / 1)))
  else if w / 4096 % 4 = 1 then .ok (.csrw (fld 5 (w / 524288)) (fld 5 (w / 16384)) (fld 12 (w / 1)))
  else if w / 4096 % 4 = 2 then .ok (.csrs (fld 5 (w / 524288)) (fld 5 (w / 16384)) (fld 12 (w / 1)))
  else if w / 4096 % 4 = 3 then .ok (.csrc (fld 5 (w / 524288)) (fld 5 (w / 16384)) (fld 12 (w / 1)))
  else .error (.unassigned 62)
/-- Major opcode 63. -/
def decodeMajor63 (w : Nat) : Except Reject Instr :=
  if w / 1 % 512 = 0 ∧ w / 16384 % 1024 = 0 then .ok (.launch (fld 5 (w / 512)))
  else if w / 1 % 512 = 1 ∧ w / 16384 % 32 = 0 then .ok (.launchq (fld 5 (w / 524288)) (fld 5 (w / 512)))
  else if w / 1 % 16384 = 2 ∧ w / 524288 % 32 = 0 then .ok (.signal (fld 5 (w / 16384)))
  else if w / 1 % 512 = 3 ∧ w / 16384 % 32 = 0 then .ok (.nbcmd (fld 5 (w / 524288)) (fld 5 (w / 512)))
  else if w / 1 % 512 = 4 ∧ w / 524288 % 32 = 0 then .ok (.nhsend (fld 5 (w / 16384)) (fld 5 (w / 512)))
  else .error (.unassigned 63)
/-- Major opcode 64. -/
def decodeMajor64 (w : Nat) : Except Reject Instr :=
  if w / 1 % 512 = 0 then .ok (.add (fld 5 (w / 524288)) (fld 5 (w / 16384)) (fld 5 (w / 512)))
  else if w / 1 % 512 = 1 then .ok (.sub (fld 5 (w / 524288)) (fld 5 (w / 16384)) (fld 5 (w / 512)))
  else if w / 1 % 512 = 2 then .ok (.and (fld 5 (w / 524288)) (fld 5 (w / 16384)) (fld 5 (w / 512)))
  else if w / 1 % 512 = 3 then .ok (.or (fld 5 (w / 524288)) (fld 5 (w / 16384)) (fld 5 (w / 512)))
  else if w / 1 % 512 = 4 then .ok (.xor (fld 5 (w / 524288)) (fld 5 (w / 16384)) (fld 5 (w / 512)))
  else if w / 1 % 512 = 5 then .ok (.andn (fld 5 (w / 524288)) (fld 5 (w / 16384)) (fld 5 (w / 512)))
  else if w / 1 % 512 = 6 then .ok (.shl (fld 5 (w / 524288)) (fld 5 (w / 16384)) (fld 5 (w / 512)))
  else if w / 1 % 512 = 7 then .ok (.shr (fld 5 (w / 524288)) (fld 5 (w / 16384)) (fld 5 (w / 512)))
  else if w / 1 % 512 = 8 then .ok (.sar (fld 5 (w / 524288)) (fld 5 (w / 16384)) (fld 5 (w / 512)))
  else if w / 1 % 512 = 9 then .ok (.rol (fld 5 (w / 524288)) (fld 5 (w / 16384)) (fld 5 (w / 512)))
  else if w / 1 % 512 = 10 then .ok (.ror (fld 5 (w / 524288)) (fld 5 (w / 16384)) (fld 5 (w / 512)))
  else if w / 1 % 512 = 11 then .ok (.min (fld 5 (w / 524288)) (fld 5 (w / 16384)) (fld 5 (w / 512)))
  else if w / 1 % 512 = 12 then .ok (.max (fld 5 (w / 524288)) (fld 5 (w / 16384)) (fld 5 (w / 512)))
  else if w / 1 % 512 = 13 then .ok (.minu (fld 5 (w / 524288)) (fld 5 (w / 16384)) (fld 5 (w / 512)))
  else if w / 1 % 512 = 14 then .ok (.maxu (fld 5 (w / 524288)) (fld 5 (w / 16384)) (fld 5 (w / 512)))
  else if w / 1 % 512 = 15 then .ok (.slt (fld 5 (w / 524288)) (fld 5 (w / 16384)) (fld 5 (w / 512)))
  else if w / 1 % 512 = 16 then .ok (.sltu (fld 5 (w / 524288)) (fld 5 (w / 16384)) (fld 5 (w / 512)))
  else if w / 1 % 512 = 17 then .ok (.seq (fld 5 (w / 524288)) (fld 5 (w / 16384)) (fld 5 (w / 512)))
  else if w / 1 % 512 = 18 then .ok (.sne (fld 5 (w / 524288)) (fld 5 (w / 16384)) (fld 5 (w / 512)))
  else if w / 1 % 512 = 19 then .ok (.cmovz (fld 5 (w / 524288)) (fld 5 (w / 16384)) (fld 5 (w / 512)))
  else if w / 1 % 512 = 20 then .ok (.cmovnz (fld 5 (w / 524288)) (fld 5 (w / 16384)) (fld 5 (w / 512)))
  else if w / 1 % 512 = 21 then .ok (.addw (fld 5 (w / 524288)) (fld 5 (w / 16384)) (fld 5 (w / 512)))
  else if w / 1 % 512 = 22 then .ok (.subw (fld 5 (w / 524288)) (fld 5 (w / 16384)) (fld 5 (w / 512)))
  else if w / 1 % 512 = 23 then .ok (.shlw (fld 5 (w / 524288)) (fld 5 (w / 16384)) (fld 5 (w / 512)))
  else if w / 1 % 512 = 24 then .ok (.shrw (fld 5 (w / 524288)) (fld 5 (w / 16384)) (fld 5 (w / 512)))
  else if w / 1 % 512 = 25 then .ok (.sarw (fld 5 (w / 524288)) (fld 5 (w / 16384)) (fld 5 (w / 512)))
  else .error (.unassigned 64)
/-- Major opcode 65. -/
def decodeMajor65 (w : Nat) : Except Reject Instr :=
  if w / 1 % 512 = 0 then .ok (.mul (fld 5 (w / 524288)) (fld 5 (w / 16384)) (fld 5 (w / 512)))
  else if w / 1 % 512 = 1 then .ok (.mulh (fld 5 (w / 524288)) (fld 5 (w / 16384)) (fld 5 (w / 512)))
  else if w / 1 % 512 = 2 then .ok (.mulhu (fld 5 (w / 524288)) (fld 5 (w / 16384)) (fld 5 (w / 512)))
  else if w / 1 % 512 = 3 then .ok (.mulw (fld 5 (w / 524288)) (fld 5 (w / 16384)) (fld 5 (w / 512)))
  else if w / 1 % 512 = 4 then .ok (.div (fld 5 (w / 524288)) (fld 5 (w / 16384)) (fld 5 (w / 512)))
  else if w / 1 % 512 = 5 then .ok (.divu (fld 5 (w / 524288)) (fld 5 (w / 16384)) (fld 5 (w / 512)))
  else if w / 1 % 512 = 6 then .ok (.rem (fld 5 (w / 524288)) (fld 5 (w / 16384)) (fld 5 (w / 512)))
  else if w / 1 % 512 = 7 then .ok (.remu (fld 5 (w / 524288)) (fld 5 (w / 16384)) (fld 5 (w / 512)))
  else .error (.unassigned 65)
/-- Major opcode 66. -/
def decodeMajor66 (w : Nat) : Except Reject Instr :=
  if w / 1 % 16384 = 0 then .ok (.clz (fld 5 (w / 524288)) (fld 5 (w / 16384)))
  else if w / 1 % 16384 = 1 then .ok (.ctz (fld 5 (w / 524288)) (fld 5 (w / 16384)))
  else if w / 1 % 16384 = 2 then .ok (.popc (fld 5 (w / 524288)) (fld 5 (w / 16384)))
  else if w / 1 % 16384 = 3 then .ok (.brev (fld 5 (w / 524288)) (fld 5 (w / 16384)))
  else if w / 1 % 16384 = 4 then .ok (.bswap (fld 5 (w / 524288)) (fld 5 (w / 16384)))
  else .error (.unassigned 66)
/-- Major opcode 67. -/
def decodeMajor67 (w : Nat) : Except Reject Instr :=
  if w / 4096 % 4 = 0 then .ok (.exts (fld 5 (w / 524288)) (fld 5 (w / 16384)) (fld 6 (w / 64)) (fld 6 (w / 1)))
  else .error (.unassigned 67)
/-- Major opcode 68. -/
def decodeMajor68 (w : Nat) : Except Reject Instr :=
  if w / 4096 % 4 = 0 then .ok (.extz (fld 5 (w / 524288)) (fld 5 (w / 16384)) (fld 6 (w / 64)) (fld 6 (w / 1)))
  else .error (.unassigned 68)
/-- Major opcode 69. -/
def decodeMajor69 (w : Nat) : Except Reject Instr :=
  if w / 4096 % 4 = 0 then .ok (.ins (fld 5 (w / 524288)) (fld 5 (w / 16384)) (fld 6 (w / 64)) (fld 6 (w / 1)))
  else .error (.unassigned 69)
/-- Major opcode 76. -/
def decodeMajor76 (w : Nat) : Except Reject Instr :=
  if w / 64 % 256 = 0 then .ok (.shli (fld 5 (w / 524288)) (fld 5 (w / 16384)) (fld 6 (w / 1)))
  else if w / 64 % 256 = 64 then .ok (.shri (fld 5 (w / 524288)) (fld 5 (w / 16384)) (fld 6 (w / 1)))
  else if w / 64 % 256 = 128 then .ok (.sari (fld 5 (w / 524288)) (fld 5 (w / 16384)) (fld 6 (w / 1)))
  else if w / 64 % 256 = 192 then .ok (.rori (fld 5 (w / 524288)) (fld 5 (w / 16384)) (fld 6 (w / 1)))
  else .error (.unassigned 76)
/-- Major opcode 80. -/
def decodeMajor80 (w : Nat) : Except Reject Instr :=
  if w / 1 % 32 = 0 then .ok (.fadd (fld 5 (w / 524288)) (fld 5 (w / 16384)) (fld 5 (w / 512)) (fld 1 (w / 256)) (fld 3 (w / 32)))
  else if w / 1 % 32 = 1 then .ok (.fsub (fld 5 (w / 524288)) (fld 5 (w / 16384)) (fld 5 (w / 512)) (fld 1 (w / 256)) (fld 3 (w / 32)))
  else if w / 1 % 32 = 2 then .ok (.fmul (fld 5 (w / 524288)) (fld 5 (w / 16384)) (fld 5 (w / 512)) (fld 1 (w / 256)) (fld 3 (w / 32)))
  else if w / 1 % 32 = 3 then .ok (.fdiv (fld 5 (w / 524288)) (fld 5 (w / 16384)) (fld 5 (w / 512)) (fld 1 (w / 256)) (fld 3 (w / 32)))
  else if w / 1 % 32 = 4 ∧ w / 512 % 32 = 0 then .ok (.fsqrt (fld 5 (w / 524288)) (fld 5 (w / 16384)) (fld 1 (w / 256)) (fld 3 (w / 32)))
  else if w / 1 % 256 = 5 then .ok (.fmin (fld 5 (w / 524288)) (fld 5 (w / 16384)) (fld 5 (w / 512)) (fld 1 (w / 256)))
  else if w / 1 % 256 = 6 then .ok (.fmax (fld 5 (w / 524288)) (fld 5 (w / 16384)) (fld 5 (w / 512)) (fld 1 (w / 256)))
  else if w / 1 % 256 = 7 then .ok (.feq (fld 5 (w / 524288)) (fld 5 (w / 16384)) (fld 5 (w / 512)) (fld 1 (w / 256)))
  else if w / 1 % 256 = 8 then .ok (.flt (fld 5 (w / 524288)) (fld 5 (w / 16384)) (fld 5 (w / 512)) (fld 1 (w / 256)))
  else if w / 1 % 256 = 9 then .ok (.fle (fld 5 (w / 524288)) (fld 5 (w / 16384)) (fld 5 (w / 512)) (fld 1 (w / 256)))
  else if w / 1 % 256 = 10 ∧ w / 512 % 32 = 0 then .ok (.fclass (fld 5 (w / 524288)) (fld 5 (w / 16384)) (fld 1 (w / 256)))
  else if w / 1 % 256 = 11 then .ok (.fsgnj (fld 5 (w / 524288)) (fld 5 (w / 16384)) (fld 5 (w / 512)) (fld 1 (w / 256)))
  else if w / 1 % 256 = 12 then .ok (.fsgnjn (fld 5 (w / 524288)) (fld 5 (w / 16384)) (fld 5 (w / 512)) (fld 1 (w / 256)))
  else if w / 1 % 256 = 13 then .ok (.fsgnjx (fld 5 (w / 524288)) (fld 5 (w / 16384)) (fld 5 (w / 512)) (fld 1 (w / 256)))
  else .error (.unassigned 80)
/-- Major opcode 81. -/
def decodeMajor81 (w : Nat) : Except Reject Instr :=
  if w / 1 % 32 = 0 then .ok (.ffma (fld 5 (w / 524288)) (fld 5 (w / 16384)) (fld 5 (w / 512)) (fld 1 (w / 256)) (fld 3 (w / 32)))
  else .error (.unassigned 81)
/-- Major opcode 82. -/
def decodeMajor82 (w : Nat) : Except Reject Instr :=
  if w / 1 % 32 = 0 then .ok (.ffms (fld 5 (w / 524288)) (fld 5 (w / 16384)) (fld 5 (w / 512)) (fld 1 (w / 256)) (fld 3 (w / 32)))
  else .error (.unassigned 82)
/-- Major opcode 83. -/
def decodeMajor83 (w : Nat) : Except Reject Instr :=
  if w / 512 % 32 = 0 then .ok (.fcvt (fld 5 (w / 524288)) (fld 5 (w / 16384)) (fld 3 (w / 64)) (fld 3 (w / 8)) (fld 3 (w / 1)))
  else .error (.unassigned 83)
/-- Major opcode 96. -/
def decodeMajor96 (w : Nat) : Except Reject Instr :=
  if w / 1 % 512 = 0 then .ok (.vadd (fld 4 (w / 1048576)) (fld 4 (w / 65536)) (fld 4 (w / 4096)) (fld 3 (w / 512)))
  else if w / 1 % 512 = 1 then .ok (.vsub (fld 4 (w / 1048576)) (fld 4 (w / 65536)) (fld 4 (w / 4096)) (fld 3 (w / 512)))
  else if w / 1 % 512 = 2 then .ok (.vmul (fld 4 (w / 1048576)) (fld 4 (w / 65536)) (fld 4 (w / 4096)) (fld 3 (w / 512)))
  else if w / 1 % 512 = 3 then .ok (.vmax (fld 4 (w / 1048576)) (fld 4 (w / 65536)) (fld 4 (w / 4096)) (fld 3 (w / 512)))
  else if w / 1 % 512 = 4 then .ok (.vmin (fld 4 (w / 1048576)) (fld 4 (w / 65536)) (fld 4 (w / 4096)) (fld 3 (w / 512)))
  else if w / 1 % 512 = 5 ∧ w / 4096 % 16 = 0 then .ok (.vabs (fld 4 (w / 1048576)) (fld 4 (w / 65536)) (fld 3 (w / 512)))
  else if w / 1 % 512 = 6 ∧ w / 4096 % 16 = 0 then .ok (.vneg (fld 4 (w / 1048576)) (fld 4 (w / 65536)) (fld 3 (w / 512)))
  else if w / 1 % 512 = 7 ∧ w / 4096 % 16 = 0 then .ok (.vmov (fld 4 (w / 1048576)) (fld 4 (w / 65536)) (fld 3 (w / 512)))
  else .error (.unassigned 96)
/-- Major opcode 97. -/
def decodeMajor97 (w : Nat) : Except Reject Instr :=
  if w / 1 % 512 = 0 then .ok (.vfma (fld 4 (w / 1048576)) (fld 4 (w / 65536)) (fld 4 (w / 4096)) (fld 3 (w / 512)))
  else .error (.unassigned 97)
/-- Major opcode 98. -/
def decodeMajor98 (w : Nat) : Except Reject Instr :=
  if w / 1 % 512 = 0 then .ok (.vfms (fld 4 (w / 1048576)) (fld 4 (w / 65536)) (fld 4 (w / 4096)) (fld 3 (w / 512)))
  else .error (.unassigned 98)
/-- Major opcode 99. -/
def decodeMajor99 (w : Nat) : Except Reject Instr :=
  if w / 1 % 512 = 0 then .ok (.vand (fld 4 (w / 1048576)) (fld 4 (w / 65536)) (fld 4 (w / 4096)) (fld 3 (w / 512)))
  else if w / 1 % 512 = 1 then .ok (.vor (fld 4 (w / 1048576)) (fld 4 (w / 65536)) (fld 4 (w / 4096)) (fld 3 (w / 512)))
  else if w / 1 % 512 = 2 then .ok (.vxor (fld 4 (w / 1048576)) (fld 4 (w / 65536)) (fld 4 (w / 4096)) (fld 3 (w / 512)))
  else if w / 1 % 512 = 3 then .ok (.vshl (fld 4 (w / 1048576)) (fld 4 (w / 65536)) (fld 4 (w / 4096)) (fld 3 (w / 512)))
  else if w / 1 % 512 = 4 then .ok (.vshr (fld 4 (w / 1048576)) (fld 4 (w / 65536)) (fld 4 (w / 4096)) (fld 3 (w / 512)))
  else if w / 1 % 512 = 5 then .ok (.vsar (fld 4 (w / 1048576)) (fld 4 (w / 65536)) (fld 4 (w / 4096)) (fld 3 (w / 512)))
  else .error (.unassigned 99)
/-- Major opcode 100. -/
def decodeMajor100 (w : Nat) : Except Reject Instr :=
  if w / 1 % 256 = 0 then .ok (.vcmpEq (fld 5 (w / 524288)) (fld 4 (w / 32768)) (fld 4 (w / 2048)) (fld 3 (w / 256)))
  else if w / 1 % 256 = 1 then .ok (.vcmpLt (fld 5 (w / 524288)) (fld 4 (w / 32768)) (fld 4 (w / 2048)) (fld 3 (w / 256)))
  else if w / 1 % 256 = 2 then .ok (.vcmpLe (fld 5 (w / 524288)) (fld 4 (w / 32768)) (fld 4 (w / 2048)) (fld 3 (w / 256)))
  else .error (.unassigned 100)
/-- Major opcode 101. -/
def decodeMajor101 (w : Nat) : Except Reject Instr :=
  if w / 32 % 16 = 0 then .ok (.vsel (fld 4 (w / 1048576)) (fld 4 (w / 65536)) (fld 4 (w / 4096)) (fld 3 (w / 512)) (fld 5 (w / 1)))
  else .error (.unassigned 101)
/-- Major opcode 102. -/
def decodeMajor102 (w : Nat) : Except Reject Instr :=
  if w / 1 % 256 = 0 ∧ w / 2048 % 16 = 0 then .ok (.vredSum (fld 5 (w / 524288)) (fld 4 (w / 32768)) (fld 3 (w / 256)))
  else if w / 1 % 256 = 1 ∧ w / 2048 % 16 = 0 then .ok (.vredMax (fld 5 (w / 524288)) (fld 4 (w / 32768)) (fld 3 (w / 256)))
  else if w / 1 % 256 = 2 ∧ w / 2048 % 16 = 0 then .ok (.vredMin (fld 5 (w / 524288)) (fld 4 (w / 32768)) (fld 3 (w / 256)))
  else .error (.unassigned 102)
/-- Major opcode 103. -/
def decodeMajor103 (w : Nat) : Except Reject Instr :=
  if w / 1 % 512 = 0 ∧ w / 4096 % 16 = 0 then .ok (.vexp2 (fld 4 (w / 1048576)) (fld 4 (w / 65536)) (fld 3 (w / 512)))
  else if w / 1 % 512 = 1 ∧ w / 4096 % 16 = 0 then .ok (.vlog2 (fld 4 (w / 1048576)) (fld 4 (w / 65536)) (fld 3 (w / 512)))
  else if w / 1 % 512 = 2 ∧ w / 4096 % 16 = 0 then .ok (.vrcp (fld 4 (w / 1048576)) (fld 4 (w / 65536)) (fld 3 (w / 512)))
  else if w / 1 % 512 = 3 ∧ w / 4096 % 16 = 0 then .ok (.vrsq (fld 4 (w / 1048576)) (fld 4 (w / 65536)) (fld 3 (w / 512)))
  else .error (.unassigned 103)
/-- Major opcode 104. -/
def decodeMajor104 (w : Nat) : Except Reject Instr :=
  if w / 512 % 8 = 0 ∧ w / 8192 % 8 = 0 then .ok (.vcvt (fld 4 (w / 1048576)) (fld 4 (w / 65536)) (fld 1 (w / 4096)) (fld 3 (w / 64)) (fld 3 (w / 8)) (fld 1 (w / 4)) (fld 1 (w / 2)) (fld 1 (w / 1)))
  else .error (.unassigned 104)
/-- Major opcode 105. -/
def decodeMajor105 (w : Nat) : Except Reject Instr :=
  if w / 1 % 2 = 0 then .ok (.vquantMx (fld 4 (w / 1048576)) (fld 4 (w / 65536)) (fld 4 (w / 4096)) (fld 3 (w / 512)) (fld 6 (w / 8)) (fld 2 (w / 2)))
  else if w / 1 % 2 = 1 then .ok (.vquantGq (fld 4 (w / 1048576)) (fld 4 (w / 65536)) (fld 4 (w / 4096)) (fld 3 (w / 512)) (fld 6 (w / 8)) (fld 2 (w / 2)))
  else .error (.unassigned 105)
/-- Major opcode 106. -/
def decodeMajor106 (w : Nat) : Except Reject Instr :=
  if w / 1 % 512 = 0 then .ok (.vperm (fld 4 (w / 1048576)) (fld 4 (w / 65536)) (fld 4 (w / 4096)) (fld 3 (w / 512)))
  else .error (.unassigned 106)
/-- Major opcode 107. -/
def decodeMajor107 (w : Nat) : Except Reject Instr :=
  if w / 32 % 16 = 0 ∧ w / 4096 % 256 = 0 then .ok (.vbcast (fld 4 (w / 1048576)) (fld 3 (w / 512)) (fld 5 (w / 1)))
  else .error (.unassigned 107)
/-- Major opcode 108. -/
def decodeMajor108 (w : Nat) : Except Reject Instr :=
  if w / 16384 % 64 = 0 then .ok (.vins (fld 4 (w / 1048576)) (fld 2 (w / 4096)) (fld 3 (w / 512)) (fld 4 (w / 32)) (fld 5 (w / 1)))
  else .error (.unassigned 108)
/-- Major opcode 109. -/
def decodeMajor109 (w : Nat) : Except Reject Instr :=
  if w / 64 % 4 = 0 ∧ w / 2048 % 16 = 0 then .ok (.vext (fld 5 (w / 524288)) (fld 4 (w / 32768)) (fld 3 (w / 256)) (fld 6 (w / 1)))
  else .error (.unassigned 109)
/-- Major opcode 110. -/
def decodeMajor110 (w : Nat) : Except Reject Instr :=
  if w / 1 % 256 = 0 then .ok (.vdot (fld 5 (w / 524288)) (fld 4 (w / 32768)) (fld 4 (w / 2048)) (fld 3 (w / 256)))
  else .error (.unassigned 110)
/-- Major opcode 111. -/
def decodeMajor111 (w : Nat) : Except Reject Instr :=
  if w / 1 % 512 = 0 then .ok (.vscale (fld 4 (w / 1048576)) (fld 4 (w / 65536)) (fld 4 (w / 4096)) (fld 3 (w / 512)))
  else .error (.unassigned 111)

/-- The instruction of word `w` (R69 to R73), or the reason it is not one (R74). -/
def decodeWord (w : Nat) : Except Reject Instr :=
  match w / 16777216 % 128 with
  | 0 => decodeMajor0 w
  | 1 => .ok (.beq (fld 5 (w / 524288)) (fld 5 (w / 16384)) (fld 14 (w / 1)))
  | 2 => .ok (.bne (fld 5 (w / 524288)) (fld 5 (w / 16384)) (fld 14 (w / 1)))
  | 3 => .ok (.blt (fld 5 (w / 524288)) (fld 5 (w / 16384)) (fld 14 (w / 1)))
  | 4 => .ok (.bge (fld 5 (w / 524288)) (fld 5 (w / 16384)) (fld 14 (w / 1)))
  | 5 => .ok (.bltu (fld 5 (w / 524288)) (fld 5 (w / 16384)) (fld 14 (w / 1)))
  | 6 => .ok (.bgeu (fld 5 (w / 524288)) (fld 5 (w / 16384)) (fld 14 (w / 1)))
  | 7 => .ok (.jal (fld 5 (w / 524288)) (fld 19 (w / 1)))
  | 8 => .ok (.jalr (fld 5 (w / 524288)) (fld 5 (w / 16384)) (fld 14 (w / 1)))
  | 9 => decodeMajor9 w
  | 10 => decodeMajor10 w
  | 11 => decodeMajor11 w
  | 12 => decodeMajor12 w
  | 16 => .ok (.ldb (fld 5 (w / 524288)) (fld 5 (w / 16384)) (fld 14 (w / 1)))
  | 17 => .ok (.ldh (fld 5 (w / 524288)) (fld 5 (w / 16384)) (fld 14 (w / 1)))
  | 18 => .ok (.ldw (fld 5 (w / 524288)) (fld 5 (w / 16384)) (fld 14 (w / 1)))
  | 19 => .ok (.ldd (fld 5 (w / 524288)) (fld 5 (w / 16384)) (fld 14 (w / 1)))
  | 20 => .ok (.ldbu (fld 5 (w / 524288)) (fld 5 (w / 16384)) (fld 14 (w / 1)))
  | 21 => .ok (.ldhu (fld 5 (w / 524288)) (fld 5 (w / 16384)) (fld 14 (w / 1)))
  | 22 => .ok (.ldwu (fld 5 (w / 524288)) (fld 5 (w / 16384)) (fld 14 (w / 1)))
  | 23 => .ok (.vld (fld 5 (w / 524288)) (fld 5 (w / 16384)) (fld 14 (w / 1)))
  | 24 => .ok (.stb (fld 5 (w / 524288)) (fld 5 (w / 16384)) (fld 14 (w / 1)))
  | 25 => .ok (.sth (fld 5 (w / 524288)) (fld 5 (w / 16384)) (fld 14 (w / 1)))
  | 26 => .ok (.stw (fld 5 (w / 524288)) (fld 5 (w / 16384)) (fld 14 (w / 1)))
  | 27 => .ok (.std (fld 5 (w / 524288)) (fld 5 (w / 16384)) (fld 14 (w / 1)))
  | 28 => .ok (.vst (fld 5 (w / 524288)) (fld 5 (w / 16384)) (fld 14 (w / 1)))
  | 29 => decodeMajor29 w
  | 30 => decodeMajor30 w
  | 31 => decodeMajor31 w
  | 32 => decodeMajor32 w
  | 33 => decodeMajor33 w
  | 34 => decodeMajor34 w
  | 35 => decodeMajor35 w
  | 36 => decodeMajor36 w
  | 37 => decodeMajor37 w
  | 40 => decodeMajor40 w
  | 41 => decodeMajor41 w
  | 42 => decodeMajor42 w
  | 43 => decodeMajor43 w
  | 44 => decodeMajor44 w
  | 45 => decodeMajor45 w
  | 46 => decodeMajor46 w
  | 47 => decodeMajor47 w
  | 48 => decodeMajor48 w
  | 49 => decodeMajor49 w
  | 50 => decodeMajor50 w
  | 51 => decodeMajor51 w
  | 52 => decodeMajor52 w
  | 53 => decodeMajor53 w
  | 54 => decodeMajor54 w
  | 55 => decodeMajor55 w
  | 56 => decodeMajor56 w
  | 57 => decodeMajor57 w
  | 58 => decodeMajor58 w
  | 59 => decodeMajor59 w
  | 60 => decodeMajor60 w
  | 61 => decodeMajor61 w
  | 62 => decodeMajor62 w
  | 63 => decodeMajor63 w
  | 64 => decodeMajor64 w
  | 65 => decodeMajor65 w
  | 66 => decodeMajor66 w
  | 67 => decodeMajor67 w
  | 68 => decodeMajor68 w
  | 69 => decodeMajor69 w
  | 70 => .ok (.addi (fld 5 (w / 524288)) (fld 5 (w / 16384)) (fld 14 (w / 1)))
  | 71 => .ok (.andi (fld 5 (w / 524288)) (fld 5 (w / 16384)) (fld 14 (w / 1)))
  | 72 => .ok (.ori (fld 5 (w / 524288)) (fld 5 (w / 16384)) (fld 14 (w / 1)))
  | 73 => .ok (.xori (fld 5 (w / 524288)) (fld 5 (w / 16384)) (fld 14 (w / 1)))
  | 74 => .ok (.slti (fld 5 (w / 524288)) (fld 5 (w / 16384)) (fld 14 (w / 1)))
  | 75 => .ok (.sltiu (fld 5 (w / 524288)) (fld 5 (w / 16384)) (fld 14 (w / 1)))
  | 76 => decodeMajor76 w
  | 77 => .ok (.lui (fld 5 (w / 524288)) (fld 19 (w / 1)))
  | 78 => .ok (.auipc (fld 5 (w / 524288)) (fld 19 (w / 1)))
  | 80 => decodeMajor80 w
  | 81 => decodeMajor81 w
  | 82 => decodeMajor82 w
  | 83 => decodeMajor83 w
  | 96 => decodeMajor96 w
  | 97 => decodeMajor97 w
  | 98 => decodeMajor98 w
  | 99 => decodeMajor99 w
  | 100 => decodeMajor100 w
  | 101 => decodeMajor101 w
  | 102 => decodeMajor102 w
  | 103 => decodeMajor103 w
  | 104 => decodeMajor104 w
  | 105 => decodeMajor105 w
  | 106 => decodeMajor106 w
  | 107 => decodeMajor107 w
  | 108 => decodeMajor108 w
  | 109 => decodeMajor109 w
  | 110 => decodeMajor110 w
  | 111 => decodeMajor111 w
  | op => .error (.reserved op)

/-- A word of a bundle as the device decodes it: the encoding (R74) and then every limit of R61 to R64 and R73. -/
def decodeChecked (w : Nat) : Except Reject Instr :=
  match decodeWord w with
  | .error r => .error r
  | .ok i => match illFormed i with
    | some r => .error r
    | none => .ok i

/-- A bundle: a PAIR of a C-class and an A-class word, or a SERIAL bundle of two words (R52). -/
inductive Bundle where
  | pair (word0 word1 : Nat)
  | serial (word0 word1 : Nat)
  deriving DecidableEq, Repr

/-- The two words of eight bytes in ascending address order (R3, R51): bit 31 of word 0 chooses the kind (R52). Fewer or more
bytes are no bundle. -/
def decodeBundle : List Byte → Except Reject Bundle
  | [b0, b1, b2, b3, b4, b5, b6, b7] =>
    let w0 := b0.toNat + 256 * b1.toNat + 65536 * b2.toNat + 16777216 * b3.toNat
    let w1 := b4.toNat + 256 * b5.toNat + 65536 * b6.toNat + 16777216 * b7.toNat
    if w0 / 2147483648 % 2 = 0 then .ok (.pair w0 w1) else .ok (.serial w0 w1)
  | _ => .error .shortBundle

/-- The instruction the decoder reads from a table row's word `w` of `nbits` bits, bits numbered as spec/opcode_table.json
numbers them; every word of the table has 32 bits. -/
def decodeTableWord (nbits w : Nat) : Option Instr :=
  if nbits = 32 then
    match decodeWord (w % 4294967296) with
    | .ok i => some i
    | .error _ => none
  else none

/-- The word of an instruction with bit 31 clear (R58, R59); a device step has none. -/
def encode : Instr → Option Nat
  | .nop => some (0)
  | .texit => some (1)
  | .yield => some (2)
  | .trap b => some (3 + b.toNat * 512)
  | .tret a => some (4 + a.toNat * 16384)
  | .fenceI => some (5)
  | .waitmsg => some (6)
  | .ssync a => some (7 + a.toNat * 16384)
  | .setpri a => some (8 + a.toNat * 16384)
  | .sleepuntil a => some (9 + a.toNat * 16384)
  | .hjoin a => some (10 + a.toNat * 16384)
  | .chunk => some (11)
  | .tlbinv a b => some (12 + a.toNat * 16384 + b.toNat * 512)
  | .pgate a => some (13 + a.toNat * 16384)
  | .cycle d => some (14 + d.toNat * 524288)
  | .mbxpop d => some (15 + d.toNat * 524288)
  | .beq a b o => some (16777216 + a.toNat * 524288 + b.toNat * 16384 + o.toNat)
  | .bne a b o => some (33554432 + a.toNat * 524288 + b.toNat * 16384 + o.toNat)
  | .blt a b o => some (50331648 + a.toNat * 524288 + b.toNat * 16384 + o.toNat)
  | .bge a b o => some (67108864 + a.toNat * 524288 + b.toNat * 16384 + o.toNat)
  | .bltu a b o => some (83886080 + a.toNat * 524288 + b.toNat * 16384 + o.toNat)
  | .bgeu a b o => some (100663296 + a.toNat * 524288 + b.toNat * 16384 + o.toNat)
  | .jal d o => some (117440512 + d.toNat * 524288 + o.toNat)
  | .jalr d a i => some (134217728 + d.toNat * 524288 + a.toNat * 16384 + i.toNat)
  | .ldrB d i => some (150994944 + d.toNat * 524288 + i.toNat)
  | .ldrH d i => some (151011328 + d.toNat * 524288 + i.toNat)
  | .ldrW d i => some (151027712 + d.toNat * 524288 + i.toNat)
  | .ldrD d i => some (151044096 + d.toNat * 524288 + i.toNat)
  | .ldrBu d i => some (151060480 + d.toNat * 524288 + i.toNat)
  | .ldrHu d i => some (151076864 + d.toNat * 524288 + i.toNat)
  | .ldrWu d i => some (151093248 + d.toNat * 524288 + i.toNat)
  | .strB d i => some (167772160 + d.toNat * 524288 + i.toNat)
  | .strH d i => some (167788544 + d.toNat * 524288 + i.toNat)
  | .strW d i => some (167804928 + d.toNat * 524288 + i.toNat)
  | .strD d i => some (167821312 + d.toNat * 524288 + i.toNat)
  | .hstart d a b => some (184549376 + d.toNat * 524288 + a.toNat * 16384 + b.toNat * 512)
  | .ldaW d a c => some (201326592 + d.toNat * 524288 + a.toNat * 16384 + c.toNat * 4)
  | .ldaD d a c => some (201326624 + d.toNat * 524288 + a.toNat * 16384 + c.toNat * 4)
  | .stlW a b c => some (201326656 + a.toNat * 16384 + b.toNat * 512 + c.toNat * 4)
  | .stlD a b c => some (201326688 + a.toNat * 16384 + b.toNat * 512 + c.toNat * 4)
  | .stmcW a b c => some (201326720 + a.toNat * 16384 + b.toNat * 512 + c.toNat * 4)
  | .stmcD a b c => some (201326752 + a.toNat * 16384 + b.toNat * 512 + c.toNat * 4)
  | .fence c r => some (201326784 + c.toNat * 4 + r.toNat)
  | .ldb d a i => some (268435456 + d.toNat * 524288 + a.toNat * 16384 + i.toNat)
  | .ldh d a i => some (285212672 + d.toNat * 524288 + a.toNat * 16384 + i.toNat)
  | .ldw d a i => some (301989888 + d.toNat * 524288 + a.toNat * 16384 + i.toNat)
  | .ldd d a i => some (318767104 + d.toNat * 524288 + a.toNat * 16384 + i.toNat)
  | .ldbu d a i => some (335544320 + d.toNat * 524288 + a.toNat * 16384 + i.toNat)
  | .ldhu d a i => some (352321536 + d.toNat * 524288 + a.toNat * 16384 + i.toNat)
  | .ldwu d a i => some (369098752 + d.toNat * 524288 + a.toNat * 16384 + i.toNat)
  | .vld d a i => some (385875968 + d.toNat * 524288 + a.toNat * 16384 + i.toNat)
  | .stb s a i => some (402653184 + s.toNat * 524288 + a.toNat * 16384 + i.toNat)
  | .sth s a i => some (419430400 + s.toNat * 524288 + a.toNat * 16384 + i.toNat)
  | .stw s a i => some (436207616 + s.toNat * 524288 + a.toNat * 16384 + i.toNat)
  | .std s a i => some (452984832 + s.toNat * 524288 + a.toNat * 16384 + i.toNat)
  | .vst s a i => some (469762048 + s.toNat * 524288 + a.toNat * 16384 + i.toNat)
  | .ldxB d a b k => some (486539264 + d.toNat * 524288 + a.toNat * 16384 + b.toNat * 512 + k.toNat * 8)
  | .ldxH d a b k => some (486539296 + d.toNat * 524288 + a.toNat * 16384 + b.toNat * 512 + k.toNat * 8)
  | .ldxW d a b k => some (486539328 + d.toNat * 524288 + a.toNat * 16384 + b.toNat * 512 + k.toNat * 8)
  | .ldxD d a b k => some (486539360 + d.toNat * 524288 + a.toNat * 16384 + b.toNat * 512 + k.toNat * 8)
  | .ldxBu d a b k => some (486539392 + d.toNat * 524288 + a.toNat * 16384 + b.toNat * 512 + k.toNat * 8)
  | .ldxHu d a b k => some (486539424 + d.toNat * 524288 + a.toNat * 16384 + b.toNat * 512 + k.toNat * 8)
  | .ldxWu d a b k => some (486539456 + d.toNat * 524288 + a.toNat * 16384 + b.toNat * 512 + k.toNat * 8)
  | .ldxV d a b k => some (486539488 + d.toNat * 524288 + a.toNat * 16384 + b.toNat * 512 + k.toNat * 8)
  | .stxB d a b k => some (486539520 + d.toNat * 524288 + a.toNat * 16384 + b.toNat * 512 + k.toNat * 8)
  | .stxH d a b k => some (486539552 + d.toNat * 524288 + a.toNat * 16384 + b.toNat * 512 + k.toNat * 8)
  | .stxW d a b k => some (486539584 + d.toNat * 524288 + a.toNat * 16384 + b.toNat * 512 + k.toNat * 8)
  | .stxD d a b k => some (486539616 + d.toNat * 524288 + a.toNat * 16384 + b.toNat * 512 + k.toNat * 8)
  | .stxV d a b k => some (486539744 + d.toNat * 524288 + a.toNat * 16384 + b.toNat * 512 + k.toNat * 8)
  | .atomwAdd d a b c r => some (503316480 + d.toNat * 524288 + a.toNat * 16384 + b.toNat * 512 + c.toNat * 4 + r.toNat)
  | .atomwSwap d a b c r => some (503316512 + d.toNat * 524288 + a.toNat * 16384 + b.toNat * 512 + c.toNat * 4 + r.toNat)
  | .atomwCas d a b c r => some (503316544 + d.toNat * 524288 + a.toNat * 16384 + b.toNat * 512 + c.toNat * 4 + r.toNat)
  | .atomwAnd d a b c r => some (503316576 + d.toNat * 524288 + a.toNat * 16384 + b.toNat * 512 + c.toNat * 4 + r.toNat)
  | .atomwOr d a b c r => some (503316608 + d.toNat * 524288 + a.toNat * 16384 + b.toNat * 512 + c.toNat * 4 + r.toNat)
  | .atomwXor d a b c r => some (503316640 + d.toNat * 524288 + a.toNat * 16384 + b.toNat * 512 + c.toNat * 4 + r.toNat)
  | .atomwMin d a b c r => some (503316672 + d.toNat * 524288 + a.toNat * 16384 + b.toNat * 512 + c.toNat * 4 + r.toNat)
  | .atomwMax d a b c r => some (503316704 + d.toNat * 524288 + a.toNat * 16384 + b.toNat * 512 + c.toNat * 4 + r.toNat)
  | .atomwMinu d a b c r => some (503316736 + d.toNat * 524288 + a.toNat * 16384 + b.toNat * 512 + c.toNat * 4 + r.toNat)
  | .atomwMaxu d a b c r => some (503316768 + d.toNat * 524288 + a.toNat * 16384 + b.toNat * 512 + c.toNat * 4 + r.toNat)
  | .atomdAdd d a b c r => some (520093696 + d.toNat * 524288 + a.toNat * 16384 + b.toNat * 512 + c.toNat * 4 + r.toNat)
  | .atomdSwap d a b c r => some (520093728 + d.toNat * 524288 + a.toNat * 16384 + b.toNat * 512 + c.toNat * 4 + r.toNat)
  | .atomdCas d a b c r => some (520093760 + d.toNat * 524288 + a.toNat * 16384 + b.toNat * 512 + c.toNat * 4 + r.toNat)
  | .atomdAnd d a b c r => some (520093792 + d.toNat * 524288 + a.toNat * 16384 + b.toNat * 512 + c.toNat * 4 + r.toNat)
  | .atomdOr d a b c r => some (520093824 + d.toNat * 524288 + a.toNat * 16384 + b.toNat * 512 + c.toNat * 4 + r.toNat)
  | .atomdXor d a b c r => some (520093856 + d.toNat * 524288 + a.toNat * 16384 + b.toNat * 512 + c.toNat * 4 + r.toNat)
  | .atomdMin d a b c r => some (520093888 + d.toNat * 524288 + a.toNat * 16384 + b.toNat * 512 + c.toNat * 4 + r.toNat)
  | .atomdMax d a b c r => some (520093920 + d.toNat * 524288 + a.toNat * 16384 + b.toNat * 512 + c.toNat * 4 + r.toNat)
  | .atomdMinu d a b c r => some (520093952 + d.toNat * 524288 + a.toNat * 16384 + b.toNat * 512 + c.toNat * 4 + r.toNat)
  | .atomdMaxu d a b c r => some (520093984 + d.toNat * 524288 + a.toNat * 16384 + b.toNat * 512 + c.toNat * 4 + r.toNat)
  | .qpush a b => some (536870912 + a.toNat * 16384 + b.toNat * 512)
  | .qpop d b => some (553648128 + d.toNat * 524288 + b.toNat * 512)
  | .qcntHeld d b => some (570425344 + d.toNat * 524288 + b.toNat * 512)
  | .qcntFree d b => some (570425345 + d.toNat * 524288 + b.toNat * 512)
  | .sendH a b => some (587202560 + a.toNat * 16384 + b.toNat * 512)
  | .sendP d => some (587202561 + d.toNat * 524288)
  | .sendHe a b => some (587202562 + a.toNat * 16384 + b.toNat * 512)
  | .sendPe d => some (587202563 + d.toNat * 524288)
  | .recv d a s => some (603979776 + d.toNat * 524288 + a.toNat * 16384 + s.toNat * 16)
  | .recvDl d a b s => some (603980032 + d.toNat * 524288 + a.toNat * 16384 + b.toNat * 512 + s.toNat * 16)
  | .bar a => some (620756992 + a.toNat * 16384)
  | .xcopy d s => some (671088640 + d.toNat * 524288 + s.toNat)
  | .xgather d s => some (687865856 + d.toNat * 524288 + s.toNat)
  | .xscatter d s => some (704643072 + d.toNat * 524288 + s.toNat)
  | .xreduce d s => some (721420288 + d.toNat * 524288 + s.toNat)
  | .sbind d s => some (738197504 + d.toNat * 524288 + s.toNat)
  | .sunbind d => some (754974720 + d.toNat * 524288)
  | .tbinit a t => some (771751936 + a.toNat * 16384 + t.toNat)
  | .tbwait a t => some (788529152 + a.toNat * 16384 + t.toNat)
  | .skdef a s => some (805306368 + a.toNat * 16384 + s.toNat)
  | .skupd a s => some (822083584 + a.toNat * 16384 + s.toNat)
  | .skupdv a b s => some (838860800 + a.toNat * 16384 + b.toNat * 512 + s.toNat)
  | .skqry d a s => some (855638016 + d.toNat * 524288 + a.toNat * 16384 + s.toNat)
  | .skadd d s => some (872415232 + d.toNat * 524288 + s.toNat)
  | .skscl a b => some (889192448 + a.toNat * 16384 + b.toNat * 512)
  | .skclr a => some (905969664 + a.toNat * 16384)
  | .skstat d a c => some (922746880 + d.toNat * 524288 + a.toNat * 16384 + c.toNat)
  | .gdef d a s => some (939524096 + d.toNat * 524288 + a.toNat * 16384 + s.toNat)
  | .gdel a => some (956301312 + a.toNat * 16384)
  | .apply d a b => some (973078528 + d.toNat * 524288 + a.toNat * 16384 + b.toNat * 512)
  | .applyq d a b => some (973078529 + d.toNat * 524288 + a.toNat * 16384 + b.toNat * 512)
  | .nwait d a => some (989855744 + d.toNat * 524288 + a.toNat * 16384)
  | .nabort a => some (1006632960 + a.toNat * 16384)
  | .cyield d a => some (1023410176 + d.toNat * 524288 + a.toNat * 16384)
  | .cresume d a b => some (1023410177 + d.toNat * 524288 + a.toNat * 16384 + b.toNat * 512)
  | .csrr d n => some (1040187392 + d.toNat * 524288 + n.toNat)
  | .csrw d a n => some (1040191488 + d.toNat * 524288 + a.toNat * 16384 + n.toNat)
  | .csrs d a n => some (1040195584 + d.toNat * 524288 + a.toNat * 16384 + n.toNat)
  | .csrc d a n => some (1040199680 + d.toNat * 524288 + a.toNat * 16384 + n.toNat)
  | .launch b => some (1056964608 + b.toNat * 512)
  | .launchq d b => some (1056964609 + d.toNat * 524288 + b.toNat * 512)
  | .signal a => some (1056964610 + a.toNat * 16384)
  | .nbcmd d b => some (1056964611 + d.toNat * 524288 + b.toNat * 512)
  | .nhsend a b => some (1056964612 + a.toNat * 16384 + b.toNat * 512)
  | .add d a b => some (1073741824 + d.toNat * 524288 + a.toNat * 16384 + b.toNat * 512)
  | .sub d a b => some (1073741825 + d.toNat * 524288 + a.toNat * 16384 + b.toNat * 512)
  | .and d a b => some (1073741826 + d.toNat * 524288 + a.toNat * 16384 + b.toNat * 512)
  | .or d a b => some (1073741827 + d.toNat * 524288 + a.toNat * 16384 + b.toNat * 512)
  | .xor d a b => some (1073741828 + d.toNat * 524288 + a.toNat * 16384 + b.toNat * 512)
  | .andn d a b => some (1073741829 + d.toNat * 524288 + a.toNat * 16384 + b.toNat * 512)
  | .shl d a b => some (1073741830 + d.toNat * 524288 + a.toNat * 16384 + b.toNat * 512)
  | .shr d a b => some (1073741831 + d.toNat * 524288 + a.toNat * 16384 + b.toNat * 512)
  | .sar d a b => some (1073741832 + d.toNat * 524288 + a.toNat * 16384 + b.toNat * 512)
  | .rol d a b => some (1073741833 + d.toNat * 524288 + a.toNat * 16384 + b.toNat * 512)
  | .ror d a b => some (1073741834 + d.toNat * 524288 + a.toNat * 16384 + b.toNat * 512)
  | .min d a b => some (1073741835 + d.toNat * 524288 + a.toNat * 16384 + b.toNat * 512)
  | .max d a b => some (1073741836 + d.toNat * 524288 + a.toNat * 16384 + b.toNat * 512)
  | .minu d a b => some (1073741837 + d.toNat * 524288 + a.toNat * 16384 + b.toNat * 512)
  | .maxu d a b => some (1073741838 + d.toNat * 524288 + a.toNat * 16384 + b.toNat * 512)
  | .slt d a b => some (1073741839 + d.toNat * 524288 + a.toNat * 16384 + b.toNat * 512)
  | .sltu d a b => some (1073741840 + d.toNat * 524288 + a.toNat * 16384 + b.toNat * 512)
  | .seq d a b => some (1073741841 + d.toNat * 524288 + a.toNat * 16384 + b.toNat * 512)
  | .sne d a b => some (1073741842 + d.toNat * 524288 + a.toNat * 16384 + b.toNat * 512)
  | .cmovz d a b => some (1073741843 + d.toNat * 524288 + a.toNat * 16384 + b.toNat * 512)
  | .cmovnz d a b => some (1073741844 + d.toNat * 524288 + a.toNat * 16384 + b.toNat * 512)
  | .addw d a b => some (1073741845 + d.toNat * 524288 + a.toNat * 16384 + b.toNat * 512)
  | .subw d a b => some (1073741846 + d.toNat * 524288 + a.toNat * 16384 + b.toNat * 512)
  | .shlw d a b => some (1073741847 + d.toNat * 524288 + a.toNat * 16384 + b.toNat * 512)
  | .shrw d a b => some (1073741848 + d.toNat * 524288 + a.toNat * 16384 + b.toNat * 512)
  | .sarw d a b => some (1073741849 + d.toNat * 524288 + a.toNat * 16384 + b.toNat * 512)
  | .mul d a b => some (1090519040 + d.toNat * 524288 + a.toNat * 16384 + b.toNat * 512)
  | .mulh d a b => some (1090519041 + d.toNat * 524288 + a.toNat * 16384 + b.toNat * 512)
  | .mulhu d a b => some (1090519042 + d.toNat * 524288 + a.toNat * 16384 + b.toNat * 512)
  | .mulw d a b => some (1090519043 + d.toNat * 524288 + a.toNat * 16384 + b.toNat * 512)
  | .div d a b => some (1090519044 + d.toNat * 524288 + a.toNat * 16384 + b.toNat * 512)
  | .divu d a b => some (1090519045 + d.toNat * 524288 + a.toNat * 16384 + b.toNat * 512)
  | .rem d a b => some (1090519046 + d.toNat * 524288 + a.toNat * 16384 + b.toNat * 512)
  | .remu d a b => some (1090519047 + d.toNat * 524288 + a.toNat * 16384 + b.toNat * 512)
  | .clz d a => some (1107296256 + d.toNat * 524288 + a.toNat * 16384)
  | .ctz d a => some (1107296257 + d.toNat * 524288 + a.toNat * 16384)
  | .popc d a => some (1107296258 + d.toNat * 524288 + a.toNat * 16384)
  | .brev d a => some (1107296259 + d.toNat * 524288 + a.toNat * 16384)
  | .bswap d a => some (1107296260 + d.toNat * 524288 + a.toNat * 16384)
  | .exts d a n p => some (1124073472 + d.toNat * 524288 + a.toNat * 16384 + n.toNat * 64 + p.toNat)
  | .extz d a n p => some (1140850688 + d.toNat * 524288 + a.toNat * 16384 + n.toNat * 64 + p.toNat)
  | .ins d a n p => some (1157627904 + d.toNat * 524288 + a.toNat * 16384 + n.toNat * 64 + p.toNat)
  | .addi d a i => some (1174405120 + d.toNat * 524288 + a.toNat * 16384 + i.toNat)
  | .andi d a i => some (1191182336 + d.toNat * 524288 + a.toNat * 16384 + i.toNat)
  | .ori d a i => some (1207959552 + d.toNat * 524288 + a.toNat * 16384 + i.toNat)
  | .xori d a i => some (1224736768 + d.toNat * 524288 + a.toNat * 16384 + i.toNat)
  | .slti d a i => some (1241513984 + d.toNat * 524288 + a.toNat * 16384 + i.toNat)
  | .sltiu d a i => some (1258291200 + d.toNat * 524288 + a.toNat * 16384 + i.toNat)
  | .shli d a m => some (1275068416 + d.toNat * 524288 + a.toNat * 16384 + m.toNat)
  | .shri d a m => some (1275072512 + d.toNat * 524288 + a.toNat * 16384 + m.toNat)
  | .sari d a m => some (1275076608 + d.toNat * 524288 + a.toNat * 16384 + m.toNat)
  | .rori d a m => some (1275080704 + d.toNat * 524288 + a.toNat * 16384 + m.toNat)
  | .lui d i => some (1291845632 + d.toNat * 524288 + i.toNat)
  | .auipc d i => some (1308622848 + d.toNat * 524288 + i.toNat)
  | .fadd d a b p r => some (1342177280 + d.toNat * 524288 + a.toNat * 16384 + b.toNat * 512 + p.toNat * 256 + r.toNat * 32)
  | .fsub d a b p r => some (1342177281 + d.toNat * 524288 + a.toNat * 16384 + b.toNat * 512 + p.toNat * 256 + r.toNat * 32)
  | .fmul d a b p r => some (1342177282 + d.toNat * 524288 + a.toNat * 16384 + b.toNat * 512 + p.toNat * 256 + r.toNat * 32)
  | .fdiv d a b p r => some (1342177283 + d.toNat * 524288 + a.toNat * 16384 + b.toNat * 512 + p.toNat * 256 + r.toNat * 32)
  | .fsqrt d a p r => some (1342177284 + d.toNat * 524288 + a.toNat * 16384 + p.toNat * 256 + r.toNat * 32)
  | .fmin d a b p => some (1342177285 + d.toNat * 524288 + a.toNat * 16384 + b.toNat * 512 + p.toNat * 256)
  | .fmax d a b p => some (1342177286 + d.toNat * 524288 + a.toNat * 16384 + b.toNat * 512 + p.toNat * 256)
  | .feq d a b p => some (1342177287 + d.toNat * 524288 + a.toNat * 16384 + b.toNat * 512 + p.toNat * 256)
  | .flt d a b p => some (1342177288 + d.toNat * 524288 + a.toNat * 16384 + b.toNat * 512 + p.toNat * 256)
  | .fle d a b p => some (1342177289 + d.toNat * 524288 + a.toNat * 16384 + b.toNat * 512 + p.toNat * 256)
  | .fclass d a p => some (1342177290 + d.toNat * 524288 + a.toNat * 16384 + p.toNat * 256)
  | .fsgnj d a b p => some (1342177291 + d.toNat * 524288 + a.toNat * 16384 + b.toNat * 512 + p.toNat * 256)
  | .fsgnjn d a b p => some (1342177292 + d.toNat * 524288 + a.toNat * 16384 + b.toNat * 512 + p.toNat * 256)
  | .fsgnjx d a b p => some (1342177293 + d.toNat * 524288 + a.toNat * 16384 + b.toNat * 512 + p.toNat * 256)
  | .ffma d a b p r => some (1358954496 + d.toNat * 524288 + a.toNat * 16384 + b.toNat * 512 + p.toNat * 256 + r.toNat * 32)
  | .ffms d a b p r => some (1375731712 + d.toNat * 524288 + a.toNat * 16384 + b.toNat * 512 + p.toNat * 256 + r.toNat * 32)
  | .fcvt d a s t r => some (1392508928 + d.toNat * 524288 + a.toNat * 16384 + s.toNat * 64 + t.toNat * 8 + r.toNat)
  | .vadd d a b y => some (1610612736 + d.toNat * 1048576 + a.toNat * 65536 + b.toNat * 4096 + y.toNat * 512)
  | .vsub d a b y => some (1610612737 + d.toNat * 1048576 + a.toNat * 65536 + b.toNat * 4096 + y.toNat * 512)
  | .vmul d a b y => some (1610612738 + d.toNat * 1048576 + a.toNat * 65536 + b.toNat * 4096 + y.toNat * 512)
  | .vmax d a b y => some (1610612739 + d.toNat * 1048576 + a.toNat * 65536 + b.toNat * 4096 + y.toNat * 512)
  | .vmin d a b y => some (1610612740 + d.toNat * 1048576 + a.toNat * 65536 + b.toNat * 4096 + y.toNat * 512)
  | .vabs d a y => some (1610612741 + d.toNat * 1048576 + a.toNat * 65536 + y.toNat * 512)
  | .vneg d a y => some (1610612742 + d.toNat * 1048576 + a.toNat * 65536 + y.toNat * 512)
  | .vmov d a y => some (1610612743 + d.toNat * 1048576 + a.toNat * 65536 + y.toNat * 512)
  | .vfma d a b y => some (1627389952 + d.toNat * 1048576 + a.toNat * 65536 + b.toNat * 4096 + y.toNat * 512)
  | .vfms d a b y => some (1644167168 + d.toNat * 1048576 + a.toNat * 65536 + b.toNat * 4096 + y.toNat * 512)
  | .vand d a b y => some (1660944384 + d.toNat * 1048576 + a.toNat * 65536 + b.toNat * 4096 + y.toNat * 512)
  | .vor d a b y => some (1660944385 + d.toNat * 1048576 + a.toNat * 65536 + b.toNat * 4096 + y.toNat * 512)
  | .vxor d a b y => some (1660944386 + d.toNat * 1048576 + a.toNat * 65536 + b.toNat * 4096 + y.toNat * 512)
  | .vshl d a b y => some (1660944387 + d.toNat * 1048576 + a.toNat * 65536 + b.toNat * 4096 + y.toNat * 512)
  | .vshr d a b y => some (1660944388 + d.toNat * 1048576 + a.toNat * 65536 + b.toNat * 4096 + y.toNat * 512)
  | .vsar d a b y => some (1660944389 + d.toNat * 1048576 + a.toNat * 65536 + b.toNat * 4096 + y.toNat * 512)
  | .vcmpEq g a b y => some (1677721600 + g.toNat * 524288 + a.toNat * 32768 + b.toNat * 2048 + y.toNat * 256)
  | .vcmpLt g a b y => some (1677721601 + g.toNat * 524288 + a.toNat * 32768 + b.toNat * 2048 + y.toNat * 256)
  | .vcmpLe g a b y => some (1677721602 + g.toNat * 524288 + a.toNat * 32768 + b.toNat * 2048 + y.toNat * 256)
  | .vsel d a b y m => some (1694498816 + d.toNat * 1048576 + a.toNat * 65536 + b.toNat * 4096 + y.toNat * 512 + m.toNat)
  | .vredSum g a y => some (1711276032 + g.toNat * 524288 + a.toNat * 32768 + y.toNat * 256)
  | .vredMax g a y => some (1711276033 + g.toNat * 524288 + a.toNat * 32768 + y.toNat * 256)
  | .vredMin g a y => some (1711276034 + g.toNat * 524288 + a.toNat * 32768 + y.toNat * 256)
  | .vexp2 d a y => some (1728053248 + d.toNat * 1048576 + a.toNat * 65536 + y.toNat * 512)
  | .vlog2 d a y => some (1728053249 + d.toNat * 1048576 + a.toNat * 65536 + y.toNat * 512)
  | .vrcp d a y => some (1728053250 + d.toNat * 1048576 + a.toNat * 65536 + y.toNat * 512)
  | .vrsq d a y => some (1728053251 + d.toNat * 1048576 + a.toNat * 65536 + y.toNat * 512)
  | .vcvt d a p s t e u q => some (1744830464 + d.toNat * 1048576 + a.toNat * 65536 + p.toNat * 4096 + s.toNat * 64 + t.toNat * 8 + e.toNat * 4 + u.toNat * 2 + q.toNat)
  | .vquantMx d a b y s q => some (1761607680 + d.toNat * 1048576 + a.toNat * 65536 + b.toNat * 4096 + y.toNat * 512 + s.toNat * 8 + q.toNat * 2)
  | .vquantGq d a b y s q => some (1761607681 + d.toNat * 1048576 + a.toNat * 65536 + b.toNat * 4096 + y.toNat * 512 + s.toNat * 8 + q.toNat * 2)
  | .vperm d a b y => some (1778384896 + d.toNat * 1048576 + a.toNat * 65536 + b.toNat * 4096 + y.toNat * 512)
  | .vbcast d y s => some (1795162112 + d.toNat * 1048576 + y.toNat * 512 + s.toNat)
  | .vins d n y m s => some (1811939328 + d.toNat * 1048576 + n.toNat * 4096 + y.toNat * 512 + m.toNat * 32 + s.toNat)
  | .vext g a y n => some (1828716544 + g.toNat * 524288 + a.toNat * 32768 + y.toNat * 256 + n.toNat)
  | .vdot g a b y => some (1845493760 + g.toNat * 524288 + a.toNat * 32768 + b.toNat * 2048 + y.toNat * 256)
  | .vscale d a b y => some (1862270976 + d.toNat * 1048576 + a.toNat * 65536 + b.toNat * 4096 + y.toNat * 512)
  | .reset
  | .firmwareImage
  | .spdmRequest
  | .functionReady
  | .functionRetire
  | .hostAccess
  | .ctlMakeThread
  | .ctlStart
  | .ctlStop
  | .ctlResume
  | .ctlMakeData
  | .ctlFieldWrite
  | .ctlRedirect
  | .controlRequest
  | .outsideAccess
  | .rowOpen
  | .openComplete
  | .closeWriteback
  | .turnEnd
  | .priorityRise
  | .openlimClose
  | .openlimWrite
  | .turnlenWrite
  | .hpoolWrite
  | .chunkCommit
  | .commitGrant
  | .outboundDrain
  | .loadPerform
  | .vectorBind
  | .vectorLand
  | .packetEntry
  | .packetTimeout
  | .barrierWordWrite
  | .deadlineWake
  | .stalemateInterval
  | .fqtailAdvance
  | .rowHold
  | .eccScrub
  | .tlbWalk
  | .faultIn
  | .cowService
  | .barReentry
  | .migrationStart
  | .migrationLineCopy
  | .linePull
  | .commandStart
  | .engineBeat
  | .commandComplete
  | .copy
  | .pageshare
  | .pagedrop
  | .pagemove
  | .xreduceSum
  | .xreduceMax
  | .xreduceMin
  | .sksum
  | .streamRefill
  | .mfmt
  | .mzero
  | .mma
  | .mmaKblock
  | .mout
  | .mbias
  | .msignal
  | .sketchCounterOp
  | .skqryResult
  | .launchInstall
  | .signalDelivery
  | .nodeDispatch
  | .teamPlacement
  | .teamEnd
  | .castling
  | .castleRestore
  | .strideChoice
  | .switchForced
  | .switchExchange
  | .gangTick
  | .gangSpill
  | .gangDieLoad
  | .gangLate
  | .gangForcedStop
  | .gangmaskWrite
  | .ticketsWrite
  | .leafEnd
  | .quadGated
  | .quadWakeDone
  | .powerCompare
  | .pwrcapWrite
  | .elevatorRetire
  | .packetRetry
  | .wavelengthDrop
  | .flitRetry
  | .routeWrite
  | .hfrRecord
  | .hfrrespServiced
  | .hfrrespFailed
  | .octownReassign
  | .scrubDone
  | .tenminWrite
  | .fnmodeWrite
  | .tlbcmdPage
  | .tlbcmdTenant
  | .tlbcmdIpa
  | .tlbcmdAll
  | .tlbcmdDone
  | .nbmac
  | .nbred
  | .nbfill
  | .nbcopy
  | .nhHandlerStart
  | .registerWrite
  | .undecodableWord
  | .fetchFault
  | .fabricRequest => none

end Sys2Proof
end

