-- ==== Sys2Proof/Machine/Operands.lean ====
section
/-! DEFINITION. Operands and accesses of an instruction word: scalar, window, stream and segment operands (03_encoding.md R61 to R68;
13_engines.md R255), the checks of an address (09_memory_sync.md R152, R155), and loads, stores and atomics (07_memory_model.md R127,
R128, R137, R138). -/

namespace Sys2Proof.Machine

/-- Why a word does not complete: a trap with its g3 and what a stage-2 owner is told, a wait with the operand it is judged by and a
deadline it writes, a cycle in which it cannot issue (with a request for the commit grant), a wait for the boundary of the OPEN row that an address
names (with whether the word stands in an ending bundle), or a chunk that must end first. -/
inductive Stop where
  | trap (c : Cause) (g3 : W) (report : Option (Nat × List W))
  | block (wait wake arg : Nat) (deadline : Option Nat)
  | stall (ask : Bool)
  | hold (pa : Nat) (ending : Bool)
  | endChunk
  deriving Repr

/-- A result or a stop. -/
abbrev Res (α : Type) := Except Stop α
def trap {α : Type} (c : Cause) (g3 : W) : Res α := .error (.trap c g3 none)
def wait {α : Type} (w wake arg : Nat) : Res α := .error (.block w wake arg none)
def stall {α : Type} : Res α := .error (.stall false)

/-! ### The issuing row -/

def State.me (s : State) : Nat := s.cur.rid
def State.myCore (s : State) : Nat := coreOfRid s.cur.rid
def State.myCluster (s : State) : Nat := clusterOfRid s.cur.rid
/-- The row's bytes as the word reads them: in word 1 of a PAIR, as they stood before the PAIR (R53). -/
def State.seen (s : State) (off n : Nat) : Nat :=
  match s.cur.slot, s.cur.view with
  | .pair1, some v => mread v.cells (rowAddr s.cur.rid + off) n
  | _, _ => s.rowGet s.cur.rid off n
/-- The pending loads as the word sees them. -/
def State.seenLoads (s : State) : List PLoad :=
  match s.cur.slot, s.cur.view with
  | .pair1, some v => v.loads
  | _, _ => (s.thrOf s.cur.rid).loads
/-- A read of row bytes: `UNCORR` where a word of them is uncorrectable. -/
def State.readRow (s : State) (off n : Nat) : Res Nat :=
  match s.uncorrAt (rowAddr s.me + off) n with
  | some u => trap .uncorr (BitVec.ofNat 64 u)
  | none => .ok (s.seen off n)

/-! ### Status flags (R25, R90) -/

/-- Sticky flags of `STS` set: bits 61 to 56. -/
def State.orSts (s : State) (f : Nat) : State := s.rowPut s.me 7 1 (s.rowGet s.me 7 1 ||| f % 64)
def flagSX : Nat := 32
def flagNV : Nat := 16
def flagDZ : Nat := 8
def flagOF : Nat := 4
def flagUF : Nat := 2
def flagNX : Nat := 1

/-! ### Streams (13_engines.md R255) -/

/-- One element as it stands at its home, extended as the descriptor directs. -/
def streamExtend (w0 : Nat) (v : W) : W :=
  let n := 8 * 2 ^ bits w0 58 57
  if bits w0 62 62 = 1 then sext n v.toNat else zext n v.toNat
/-- A descriptor with `NEXT` advanced by `STRIDE` and `LEFT` one lower. -/
def streamStep (w0 w1 : Nat) : Nat × Nat :=
  let next := (bits w0 56 0 + (2 ^ 57 + (BitVec.ofNat 32 (bits w1 63 32)).toInt).toNat) % 2 ^ 57
  (bits w0 63 57 * 2 ^ 57 + next, bits w1 63 32 * 2 ^ 32 + (bits w1 31 0 - 1))
/-- The elements of register `k` that word 0 of the PAIR has popped, in word 1 (R65). -/
def State.pairPops (s : State) (k : Nat) : Nat :=
  match s.cur.slot, s.cur.view with
  | .pair1, some v => (((s.thrOf s.me).chunk.pops.drop v.pops).filter fun p => p.1 == k).length
  | _, _ => 0
/-- A descriptor after `n` elements have been popped. -/
def streamSteps : Nat → Nat × Nat → Nat × Nat
  | 0, d => d
  | n + 1, d => streamSteps n (streamStep d.1 d.2)
/-- The descriptor of stream register `k` as the word reads it: in word 1 of a PAIR as it stood before the PAIR, less what word 0 popped. -/
def State.seenStream (s : State) (k : Nat) : Nat × Nat :=
  let off := 256 + 16 * (k - 24)
  streamSteps (s.pairPops k) (s.seen off 8, s.seen (off + 8) 8)
/-- The staged elements of stream register `k` as the word reads them. -/
def State.seenStage (s : State) (k : Nat) : Option Stage :=
  let find : List Stage → Option Stage := fun l => l.find? fun x => x.rid == s.me && x.reg == k
  match s.cur.slot, s.cur.view with
  | .pair1, some v => (find v.streams).map fun x => { x with vals := x.vals.drop (s.pairPops k) }
  | _, _ => find (s.coreOf s.myCore).streams
/-- An element taken: the descriptor steps on, and the staged elements. Where word 0 of the PAIR has written the descriptor, its write stands
(R53). -/
def State.takeElement (s : State) (k : Nat) (v : W) : State :=
  let rid := s.me
  let off := 256 + 16 * (k - 24)
  let d := s.seenStream k
  let s := if s.rowGet rid off 8 = d.1 ∧ s.rowGet rid (off + 8) 8 = d.2 then
      let d := streamStep d.1 d.2
      let s := (s.rowPut rid off 8 d.1).rowPut rid (off + 8) 8 d.2
      s.modCore s.myCore fun c => { c with
        streams := c.streams.map fun x => if x.rid = rid ∧ x.reg = k then { x with vals := x.vals.drop 1 } else x }
    else s
  s.modChunk rid fun ch => { ch with pops := ch.pops ++ [(k, v)] }
/-- A read of a bound stream register: the next element, or 0 with `SX` past the end (R78). An uncorrectable word of the descriptor is
reported to the reader (15_traps.md R271). -/
def State.popStream (s : State) (k : Nat) : Res (W × State) := do
  let _ ← s.readRow (256 + 16 * (k - 24)) 16
  let d := s.seenStream k
  if bits d.2 31 0 = 0 then .ok (0, s.orSts flagSX)
  else
    match s.seenStage k with
    | none => wait 4 (k - 24) 0
    | some st =>
      match st.vals with
      | [] =>
        match st.failed with
        | some a => if st.failedAt = bits d.1 56 0 then trap (if st.uncorr then .uncorr else .access) (BitVec.ofNat 64 a) else wait 4 (k - 24) 0
        | none => wait 4 (k - 24) 0
      | v :: _ => .ok (streamExtend d.1 v, s.takeElement k v)

/-! ### Scalar sources and destinations (R61, R66, R67) -/

/-- Whether a register is bound to a stream as the word sees it. -/
def State.seenBound (s : State) (k : Nat) : Bool :=
  decide (24 ≤ k) && decide (k ≤ 27) && bits (s.seen (256 + 16 * (k - 24)) 8) 63 63 == 1

/-- A scalar source field. -/
def State.src (s : State) (a : Nat) : Res (W × State) :=
  if a = 0 then .ok (0, s)
  else if 28 ≤ a then
    if s.seenLoads.any fun l => l.win == some (a - 27) then stall
    else do
      let v ← s.readRow (8 * a) 8
      .ok (BitVec.ofNat 64 v, s)
  else if s.seenBound a then s.popStream a
  else if s.seenLoads.any fun l => l.reg == some a then stall
  else do
    let v ← s.readRow (8 * a) 8
    .ok (BitVec.ofNat 64 v, s)

/-- Pending loads after a value enters the window. -/
def pushLoads (l : List PLoad) : List PLoad :=
  l.map fun x => { x with win := match x.win with | some k => if k < 4 then some (k + 1) else none | none => none }
/-- A value enters the distance window as d1 (R67). -/
def State.pushWin (s : State) (v : W) : State :=
  let rid := s.me
  let old := s.rowGet rid 224 24
  (s.rowPut rid 224 32 (v.toNat + old * 2 ^ 64)).modThr rid fun t => { t with loads := pushLoads t.loads }
/-- A register written; a pending load of it no longer binds it. -/
def State.setReg (s : State) (d : Nat) (v : W) : State :=
  if d = 0 then s
  else (s.rowPut s.me (8 * d) 8 v.toNat).modThr s.me fun t => { t with
    loads := t.loads.map fun x => if x.reg = some d then { x with reg := none } else x }
/-- Whether a scalar destination may be written (R61). -/
def State.dstOpen (s : State) (d : Nat) : Bool := decide (d < 28) && !s.seenBound d
/-- A scalar destination field: `ILLEGAL` where it may not be written. -/
def State.dst (s : State) (d : Nat) (v : W) : Res State :=
  if s.dstOpen d then .ok ((s.setReg d v).pushWin v) else trap .illegal (s.cur.pc.setWidth 64)

/-! ### Segments (R24, R62, R158) -/

/-- A segment as the word reads it: it waits for a pending load, and for a queued vector operation that writes the segment (R98, R158, R209). -/
def State.seg (s : State) (k : Nat) : Res Nat :=
  if s.seenLoads.any fun l => l.seg == some k then stall else s.readRow (320 + 64 * k) 64
/-- A segment as a vector word reads it at issue: what the queued operations before it write, it takes from them when it binds (R206). -/
def State.vseg (s : State) (k : Nat) : Res Nat :=
  if s.seenLoads.any fun l => l.seg == some k && !l.vec then stall else s.readRow (320 + 64 * k) 64
/-- A scalar source of a vector word, in the same way; the distance window waits for a landing (R209). -/
def State.vsrc (s : State) (a : Nat) : Res (W × State) :=
  if a < 28 ∧ !s.seenBound a then
    if a = 0 then .ok (0, s)
    else if s.seenLoads.any fun l => l.reg == some a && !l.vec then stall
    else do
      let v ← s.readRow (8 * a) 8
      .ok (BitVec.ofNat 64 v, s)
  else s.src a
/-- A segment written; a pending load of it no longer binds it. -/
def State.setSeg (s : State) (k v : Nat) : State :=
  (s.rowPut s.me (320 + 64 * k) 64 v).modThr s.me fun t => { t with
    loads := t.loads.map fun x => if x.seg = some k then { x with seg := none } else x }
/-- Whether bytes of the row wait for a pending segment load. -/
def State.segPending (s : State) (off n : Nat) : Bool :=
  s.seenLoads.any fun l => match l.seg with
    | some k => decide (320 + 64 * k < off + n) && decide (off < 384 + 64 * k)
    | none => false

/-! ### Ending bundles (R127, R131) -/

/-- A word that must execute alone: its chunk ends first, and it takes the commit grant, or asks for it. The arbiter must have a commit left in
this cycle (R132). -/
def State.alone (s : State) : Res State :=
  let rid := s.me
  if isBase rid then .ok s
  else if 0 < (s.thrOf rid).chunk.steps then .error .endChunk
  else
    let c := s.cluOf s.myCluster
    let free := match c.grant with
      | some g => g == rid
      | none => (match c.grantq with | [] => true | r :: _ => r == rid)
    if free && !s.commitFull s.myCluster then .ok (s.modCur fun x => { x with ending := true }) else .error (.stall true)
/-- A word that waits until the thread's earlier accesses are done (R138, R143, R149). -/
def State.afterAll (s : State) : Res Unit := if s.drained s.me then .ok () else stall

/-! ### Checks of an address (R152, R155) -/

/-- The kind of an access: a load or store of `n` bytes or of a segment, a segment `LDX` or `STX`, or an atomic. -/
inductive AccKind where
  | load | store | indexed (store : Bool) | atomic (cas : Bool)
  deriving DecidableEq, Repr, Inhabited
def AccKind.acc : AccKind → Acc
  | .load | .indexed false => .read
  | .store | .indexed true => .write
  | .atomic _ => .rmw
def AccKind.stores : AccKind → Bool
  | .load | .indexed false => false
  | _ => true

/-- What a thread reaches through a window (R274): the registers of its own core and team, the barrier words, and loads of any other register.
The service firmware, under owner tag 0, reaches all of them. -/
def State.mmioAllows (s : State) (pa : Nat) (store : Bool) : Bool :=
  s.rowTenant s.me == 0 || match regionOf pa with
    | .coreMmio c _ => c == s.myCore
    | .clusterMmio k off =>
      if 0x20000 ≤ off ∧ off < 0x28000 then k == s.myCluster && (off - 0x20000) / 8 == (s.ctlOf s.me).team.toNat
      else !store || decide (0x40000 ≤ off)
    | _ => !store
/-- Whether the target takes this width and kind. The matrix queue window takes a segment store of a thread of its core (R223). -/
def State.targetTakes (s : State) (pa n : Nat) (k : AccKind) : Bool :=
  match regionOf pa with
  | .hbm | .bankLinear => true
  | .rowStore _ _ | .remote _ _ => !isBase s.me
  | .control _ _ _ => !isBase s.me && n == 8 && (match k with | .atomic cas => cas | _ => true)
  | .host => !isBase s.me && (match k with | .atomic _ | .indexed _ => false | _ => true)
  | .coreMmio c 0 => !isBase s.me && (k == .store || k == .indexed true) && n == 64 && c == s.myCore
  | .coreMmio _ _ | .clusterMmio _ _ | .service _ =>
    !isBase s.me && n == 8 && s.mmioAllows pa k.stores && (match k with
      | .load => (s.mmioRead (some s.me) pa).isSome
      | .store => (s.mmioWrite pa 0).isSome
      | .indexed _ | .atomic _ => false)
  | .unassigned => false

/-- The physical address of an access after every check of R152, in its order. -/
def State.access (s : State) (ea : W) (n : Nat) (k : AccKind) : Res (Nat × State) :=
  let a := ea.toNat
  if bits a 63 57 ≠ 0 then trap .access ea
  else if a % n ≠ 0 then trap .align ea
  else match s.coreXlat s.me a k.acc with
    | .access r => .error (.trap .access ea r)
    | .line => stall
    | .ok pa _ s =>
      if rowAddr s.me ≤ pa ∧ pa < rowAddr s.me + 320 then trap .access ea
      else if !s.targetTakes pa n k then trap .access ea
      else if !isBase s.me && s.rangeLocked s.myCluster pa n k.stores then trap .range ea
      else match if k = .store ∨ k = .indexed true then none else s.uncorrAt pa n with
        | some u => trap .uncorr (BitVec.ofNat 64 u)
        | none => .ok (pa, s)

/-! ### Loads -/

/-- Where a loaded value goes: a scalar destination with its extension, or a segment. -/
inductive Bind where
  | scalar (d : Nat) (signed : Bool)
  | segment (k : Nat)
  deriving DecidableEq, Repr, Inhabited

/-- A value bound at once. -/
def State.bindNow (s : State) (b : Bind) (n v : Nat) : Res State :=
  match b with
  | .scalar d signed => s.dst d (if signed then sext (8 * n) v else BitVec.ofNat 64 v)
  | .segment k => .ok (s.setSeg k v)
/-- A load that joins the pending-load set; its place in the window is taken now (R154). -/
def State.bindLater (s : State) (b : Bind) (pa n : Nat) (own : List (Nat × Byte)) (acq atomic : Bool) : Res (Nat × State) :=
  let rid := s.me
  let (id, s) := s.tick
  let l : PLoad := { id := id, pa := pa, size := n, sext := false, reg := none, win := none, seg := none, own := own, acq := acq, atomic := atomic }
  match b with
  | .scalar d signed => do
    let s ← s.dst d 0
    .ok (id, s.modThr rid fun t => { t with loads := t.loads ++ [{ l with sext := signed, reg := if d = 0 then none else some d, win := some 1 }] })
  | .segment k =>
    let s := s.modThr rid fun t => { t with loads := t.loads.map fun x => if x.seg = some k then { x with seg := none } else x }
    .ok (id, s.modThr rid fun t => { t with loads := t.loads ++ [{ l with seg := some k }] })

/-- A line added to the read signature, or to the write signature. -/
def State.trackRead (s : State) (pa : Nat) : State := s.modChunk s.me fun c => { c with rsig := c.rsig ||| lineSig pa }
def State.trackWrite (s : State) (pa : Nat) : State := s.modChunk s.me fun c => { c with wsig := c.wsig ||| lineSig pa }

/-- Bytes that an address of the cluster's single-copy memory reads as, with those of the chunk's own stores (R128). The thread's own
control entry reads with the address of the word in word 1 (R50). -/
def State.clusterRead' (s : State) (pa n : Nat) : Nat :=
  let l := (s.thrOf s.me).chunk.stores
  let base := match regionOf pa with
    | .control r w _ =>
      if r = s.me then (if w = 0 then (s.ctlOf r).word0.toNat else s.cur.pc.toNat) else if s.busyBank pa then 0 else (s.ctlWord r w).toNat
    | _ => if s.busyBank pa then 0 else s.peekSeen pa n
  ofBytes ((List.range n).map fun i => (bufByte l (pa + i)).getD ((bytesOf n base).getD i 0))

/-- Another row that an access of `n` bytes reaches brought to its boundary (R128); the access waits while that is not possible. -/
def State.reach (s : State) (pa n : Nat) : Res State :=
  match s.settleAt pa n (some s.me) with
  | some s => .ok s
  | none => .error (.hold pa s.cur.ending)

/-- A load of `n` bytes. `acq` makes it an acquire (R140). -/
def State.load (s : State) (ea : W) (n : Nat) (b : Bind) (acq : Bool := false) (k : AccKind := .load) : Res State := do
  let (pa, s) ← s.access ea n k
  if isBase s.me then s.bindNow b n (s.peek pa n)
  else if deviceHome pa then do
    let s ← s.alone
    let _ ← s.afterAll
    s.bindNow b n (match regionOf pa with
      | .host => s.peek pa n
      | _ => ((s.mmioRead (some s.me) pa).map BitVec.toNat).getD 0)
  else if clusterHome pa = some s.myCluster then
    if rowAt pa = some s.me then
      (if pa < rowStoreBase + 0x300000000 ∧ s.segPending (pa - rowAddr s.me) n then stall
       else (s.trackRead pa).bindNow b n (s.clusterRead' pa n))
    else do
      let s ← s.reach pa n
      (s.trackRead pa).bindNow b n (s.clusterRead' pa n)
  else
    let l := (s.thrOf s.me).chunk.stores
    let own := (List.range n).filterMap fun i => (bufByte l (pa + i)).map fun x => (i, x)
    if own.length = n then s.bindNow b n (ofBytes (own.map (·.2)))
    else do
      let (_, s) ← s.bindLater b pa n own acq false
      .ok s

/-! ### Stores -/

/-- A store placed in the chunk buffer: the chunk ends first when it would need a 33rd line (R126). -/
def State.buffer (s : State) (pa : Nat) (bs : List Byte) (strong home : Bool) : Res State :=
  let ch := (s.thrOf s.me).chunk
  let new := ch.stores ++ [{ pa := pa, bytes := bs, strong := strong, home := home }]
  if 32 < (bufLines new).length then .error .endChunk
  else .ok (s.modChunk s.me fun c => { c with stores := new })

/-- A store of `bs` at a checked address. A store to the thread's own segments takes effect in program order (R50); one to its own
control entry ends the chunk, so that the request applies at the next boundary. -/
def State.storeAt (s : State) (pa : Nat) (bs : List Byte) (strong : Bool) : Res State := do
  let n := bs.length
  if isBase s.me then .ok ((s.clearUncorr pa n).poke pa bs)
  else if deviceHome pa then do
    let s ← s.alone
    let _ ← s.afterAll
    match regionOf pa with
    | .host => .ok (s.poke pa bs)
    | _ => .ok ((s.mmioWrite pa (BitVec.ofNat 64 (ofBytes bs))).getD s)
  else if clusterHome pa = some s.myCluster then
    match regionOf pa with
    | .control r _ _ => do
      let s ← s.buffer pa bs strong true
      .ok ((s.trackWrite pa).modChunk s.me fun c => { c with ended := c.ended || decide (r = s.me) })
    | _ =>
      if rowAt pa = some s.me then
        (if s.segPending (pa - rowAddr s.me) n then stall else .ok (((s.clearUncorr pa n).poke pa bs).trackWrite pa))
      else do
        let s ← s.buffer pa bs strong true
        .ok (s.trackWrite pa)
  else s.buffer pa bs strong false

/-- A store of the low `n` bytes of a value. `strong` marks an `STMC` at `PACKAGE` or `DOMAIN` (R136). -/
def State.store (s : State) (ea : W) (n v : Nat) (strong : Bool := false) : Res State := do
  let (pa, s) ← s.access ea n .store
  s.storeAt pa (bytesOf n v) strong

/-! ### Atomics (R159, R160) -/

/-- An atomic: `x` the operand, `e` the expected value of a CAS; `acq` and `rel` its sides. The old value is sign-extended. A CAS of a control
word that fails applies nothing (R36); for signatures it counts as a store (R159). -/
def State.atomic (s : State) (ea : W) (n aop x e d : Nat) (acq : Bool) : Res State := do
  let (pa, s) ← s.access ea n (.atomic (aop == 2))
  let b : Bind := .scalar d true
  if isBase s.me then
    let old := s.peek pa n
    ((s.clearUncorr pa n).poke pa (bytesOf n (atomNew aop n old x e))).bindNow b n old
  else if clusterHome pa = some s.myCluster then
    let other : Bool := match rowAt pa with | some r => r != s.me && (s.ctlOf r).state != .null && !s.busyBank pa | none => false
    if other then do
      let s ← s.alone
      let s ← s.reach pa n
      match s.atomHome pa n aop x e (s.rowTenant s.me) with
      | none => stall
      | some (old, s) => ((s.trackRead pa).trackWrite pa).bindNow b n old
    else do
      let old := s.clusterRead' pa n
      let fails : Bool := match regionOf pa with | .control _ _ _ => old != e % 2 ^ (8 * n) | _ => false
      let s ← if fails then .ok (s.trackWrite pa) else s.storeAt pa (bytesOf n (atomNew aop n old x e)) false
      (s.trackRead pa).bindNow b n old
  else do
    let s ← s.alone
    let (id, s) ← s.bindLater b pa n [] acq true
    let (o, s) := s.tick
    .ok (s.modClu s.myCluster fun c => { c with outq := c.outq ++ [
      { pa := pa, bytes := bytesOf n x, rid := s.me, order := o, forward := false, via := s.viaFor s.me pa, atomic := some (aop, x, e),
        ret := some id }] })

end Sys2Proof.Machine
end

