-- ==== Sys2Proof/Machine/Issue.lean ====
section
/-! DEFINITION. The issue step of a row (06_rows_at_work.md R121; 03_encoding.md R51 to R57): fetch, the checks of a bundle, what a word's
completion and its stops do, and the end of the step. -/

namespace Sys2Proof.Machine

/-! ### What a word's stop does -/

/-- A leaf that exits: its g1 is its exit value (26_combinators.md R382). The record of a `CORO` leaf is DONE with that value, and its resumer is woken
(R386). -/
def State.leafExit (s : State) (rid : Nat) : State :=
  match (s.thrOf rid).nest, s.leafOf rid with
  | some (slot, i), some g =>
    let x := BitVec.ofNat 64 (s.greg rid 1)
    let s := s.modGNode (clusterOfRid rid) slot i fun g => { g with exit := x }
    if g.kind ≠ 2 then s else
    let s := s.modGNode (clusterOfRid rid) slot i fun g => { g with co := .done, yval := x }
    match g.pending with
    | some q => s.wakeRow q
    | none => s
  | _, _ => s
/-- The close that a completed word makes (R101, R102, R261, R343, R386); a stop marked meanwhile is taken (R269). -/
def State.closeTo (s : State) (rid : Nat) : RowState → State
  | .exited =>
    if isBase rid then s.endBaseHandler rid 0 (s.greg rid 1 % 2 ^ 48)
    else if (s.thrOf rid).serves.isSome then s.endHandler rid
    else ((s.leafExit rid).closeRow rid .exited 0 0).takeMark rid
  | .null => s.endHandler rid
  | st => (s.closeRow rid st 0 0).takeMark rid
/-- The close that a completed word asked for, and that waited for the commit of its chunk (12_vector_matrix.md R210). -/
def State.closeLater (s : State) (rid : Nat) : State :=
  match (s.thrOf rid).closeAs with
  | none => s
  | some st => (s.modThr rid fun t => { t with closeAs := none }).closeTo rid st
/-- The row's chunk ends before the word: a commit, or a replay, or neither yet (R126, R127). -/
def State.endChunkNow (s : State) : State :=
  match s.tryCommit s.me with
  | .done s => s.modCur fun c => { c with ended := .stopped }
  | .replayed s => s.modCur fun c => { c with ended := .stopped }
  | .notYet => s.modCur fun c => { c with ended := .stalled }
/-- The word cannot issue in this cycle: the grant is given back, or asked for (R131); a row that holds it and waits only for a commit of the next
cycle (R132) keeps it. What the row's one-bundle chunk has done under the grant commits first: the grant is not held for the wait. -/
def State.stallNow (s : State) (ask : Bool) : State :=
  let rid := s.me
  if (s.cluOf s.myCluster).grant = some rid ∧ (s.thrOf rid).chunk.steps ≠ 0 then s.endChunkNow else
  (s.modClu s.myCluster fun c => { c with
    grant := if c.grant = some rid ∧ !ask then none else c.grant
    grantq := if !ask then c.grantq.filter fun r => r != rid
      else if c.grantq.contains rid ∨ c.grant = some rid then c.grantq else c.grantq ++ [rid] }).modCur
      fun c => { c with ended := .stalled }
/-- A tracked access waits for the boundary of another OPEN row (R128): that row's chunk ends at its next boundary, and the grant of a word that
executes under it is held meanwhile (R131). -/
def State.holdNow (s : State) (pa : Nat) (ending : Bool) : State :=
  let rid := s.me
  let s := if isBase rid ∨ !(ending || (s.thrOf rid).chunk.limit == 1) then s
    else s.modClu s.myCluster fun c => { c with grant := some rid, grantq := c.grantq.filter fun r => r != rid }
  (s.pressAt pa (some rid)).modCur fun c => { c with ended := .stalled }
/-- Whether the row may close: every load performed and every vector operation landed (R41). -/
def State.quiet (s : State) : Bool := isBase s.me || ((s.thrOf s.me).loads.isEmpty && !s.vecBusy s.me)
/-- Earlier bundles of the chunk commit before a word that closes the row (R126). -/
def State.firstInChunk (s : State) : Bool := isBase s.me || (s.thrOf s.me).chunk.steps == 0

/-- A word traps (R259): after the commit of the bundles before it, the row takes the trap. The stage-2 report of a core's access is a record of type 2 of the
host fault ring that awaits no answer (16_translation.md R283; DESIGN CHOICE; entry 117). -/
def State.stopTrap (s : State) (c : Cause) (g3 : W) (report : Option (Nat × List W)) (fetch : Bool) : State :=
  if !s.firstInChunk then s.endChunkNow
  else if !s.quiet then s.stallNow false
  else
    let s := match report with
      | some (ten, payload) => s.hfr 2 ten payload
      | none => s
    ((s.noteBundle s.me).takeTrap s.me c g3 (s.cur.pc.setWidth 64) fetch).modCur fun x => { x with ended := .stopped }
/-- A word blocks (R163): the row closes to BLOCKED, or SLEEPING with `WAIT` 12; only a deadline is written. A mailbox slot kept for it is given
back (13_engines.md R241), and range-lock entries that it waited for before are there for the next waiter. -/
def State.stopBlock (s : State) (wait wake arg : Nat) (deadline : Option Nat) : State :=
  if !s.firstInChunk then s.endChunkNow
  else if !s.quiet then s.stallNow false
  else
    let rid := s.me
    let s := match deadline with
      | some d => s.rowPut rid 0 7 d
      | none => s
    let s := (s.noteBundle rid).closeRow rid (if wait = 12 then .sleeping else .blocked) wait wake
    let waited := (s.thrOf rid).lockClaim != 0
    let s := s.modThr rid fun t => { t with waitArg := if wait = 11 then 0 else arg, lockClaim := if wait = 11 then arg else 0 }
    let s := if waited && wait != 11 then s.serveLocks (clusterOfRid rid) else s
    ((s.dropKept rid).takeMark rid).modCur fun x => { x with ended := .stopped }

/-- The stop of a word. In word 1 of a PAIR it is kept for the whole PAIR, and the sleep of word 0 until word 1 has completed (R53). -/
def State.applyStop (s : State) (st : Stop) : State :=
  if s.cur.slot = .pair1 then
    s.modCur fun c => { c with ended := match st with
      | .trap c g3 _ => .trapped c g3
      | .block w k _ _ => .blocked w k
      | .stall _ => .stalled
      | .hold pa e => .holds pa e
      | .endChunk => .ends }
  else match st with
    | .trap c g3 r => s.stopTrap c g3 r false
    | .block w k a d =>
      match s.cur.slot, w, d with
      | .pair0, 12, some d => s.modCur fun c => { c with ended := .sleeps a d }
      | _, _, _ => s.stopBlock w k a d
    | .stall ask => s.stallNow ask
    | .hold pa e => s.holdNow pa e
    | .endChunk => s.endChunkNow

/-! ### What a word's completion does -/

/-- The address of the sequential successor (R57). -/
def Cur.next (c : Cur) : BitVec 57 :=
  match c.slot with
  | .serial0 | .serial1 | .pair1 => c.pc + 4
  | .pair0 => c.pc + 8
/-- The word completes: the program counter moves, in word 0 of a PAIR past the bundle. -/
def State.retire (s : State) : State :=
  let s := s.modCur fun c => { c with ended := .completed }
  match s.cur.slot with
  | .pair1 => s
  | _ => s.modCtl s.me fun c => { c with pc := s.cur.jump.getD s.cur.next }
/-- A word's meaning from its result. -/
def State.runWord (s : State) (r : Res State) : Out :=
  match r with
  | .ok t => .next t.retire
  | .error st => .next (s.applyStop st)
/-- The word costs issue cycles (R81). -/
def State.spend (s : State) (n : Nat) : State := s.modCur fun c => { c with cost := max c.cost n }
/-- The word transfers control to an address (R96). -/
def State.jumpTo (s : State) (x : W) : State := s.modCur fun c => { c with jump := some (pcOf x) }
/-- The row closes to a state at the end of the step. -/
def State.closeAs (s : State) (st : RowState) : State := s.modCur fun c => { c with close := some st }
/-- The word's address, and that of its sequential successor. -/
def State.pcW (s : State) : W := s.cur.pc.setWidth 64
def State.nextW (s : State) : W := s.cur.next.setWidth 64

/-- A C-class word outside an open packet (R80, R153). -/
def State.noPacket (s : State) : Res Unit := if (s.ctlOf s.me).p then trap .packet 0 else .ok ()
/-- A C-class word that base-die handlers may not execute (R342), outside an open packet. -/
def State.threadOnly (s : State) : Res Unit := if isBase s.me then trap .illegal s.pcW else s.noPacket

/-! ### Boundary work -/

/-- Whether a READY row of the core waits with at least a priority (R42). A row that is being written back is still open (R41). -/
def State.rowWaits (s : State) (core : Nat) (pri : Nat) : Bool :=
  s.ctl.any fun e => e.2.state == .ready && onCore core e.1 && !s.writingBack e.1 && decide (pri ≤ s.effNow e.1)
/-- A running row closes at its boundary to READY, its chunk committed and its loads performed; and whether it did. A stop that was marked is taken
with the close (15_traps.md R267). -/
def State.closeReady (s : State) (rid : Nat) : State × Bool :=
  if !(s.thrOf rid).loads.isEmpty then (s, false)
  else match s.boundary rid with
    | (s', false) => (s', false)
    | (s', true) => ((s'.closeRow rid .ready 0 0).takeMark rid, true)
/-- Whether the row's turn ends here (R42). -/
def State.turnOver (s : State) (rid : Nat) : Bool :=
  let core := coreOfRid rid
  let c := s.ctlOf rid
  decide ((s.cs core).turnlen.toNat ≤ (s.thrOf rid).turn) && !c.p && !(s.thrOf rid).mid && s.rowWaits core c.pri.toNat
/-- Rows that are OPEN on a core and not being written back, with their ports. -/
def State.openPorts (s : State) (core : Nat) : List (Nat × Port) :=
  (s.coreOf core).ports.filterMap fun e => match e.2 with
    | some p => if p.phase = .writeback then none else some (e.1, p)
    | none => none
/-- The open row that a lowered `OPENLIM` closes next: the most bundles in its turn, then the lowest port (R43). -/
def State.longestTurn (s : State) (core : Nat) : Option Nat :=
  ((s.openPorts core).foldl (fun (best : Option (Nat × Nat)) e =>
    let n := (s.thrOf (ridOf core e.2.row)).turn
    match best with
    | some b => if b.1 < n then some (n, e.2.row) else best
    | none => some (n, e.2.row)) none).map (·.2)
/-- Whether `OPENLIM` closes the row at this boundary (R43). -/
def State.overLimit (s : State) (rid : Nat) : Bool :=
  let core := coreOfRid rid
  decide ((s.cs core).openlim.toNat < (s.openPorts core).length) && s.longestTurn core == some (rowOfRid rid) && !(s.ctlOf rid).p

/-- Work that a row's boundary brings before its next word issues: the state after it, or none when there is none. -/
def State.boundaryWork (s : State) (rid : Nat) : Option State :=
  if isBase rid then none else
  let t := s.thrOf rid
  let c := s.ctlOf rid
  if t.chunk.live && t.chunk.ended then
    match s.tryCommit rid with
    | .done s => some (s.closeLater rid)
    | .replayed s => some s
    | .notYet => some s
  else if t.loads.any fun l => l.acq || l.atomic then some s
  else if s.replaying rid then none
  else if (match t.deferred with | [] => false | .store _ _ :: _ => true | .control _ _ _ :: _ => !c.p) then
    match s.boundary rid with
    | (s, false) => some s
    | (s, true) => some (s.applyDeferred t.deferred.length rid)
  else match t.stop with
    | some _ => if c.p then none else some (s.closeReady rid).1
    | none =>
      if s.turnOver rid || s.overLimit rid then some (s.closeReady rid).1
      else none

/-! ### Fetch and the checks of a bundle (R51 to R56) -/

/-- Eight bytes of code, or the trap of check 1. Code stands in HBM, row stores, host memory or another package. -/
def State.fetch (s : State) (rid pc : Nat) : Option (Nat × List Byte × State) :=
  match s.coreXlat rid (pc / 8 * 8) .fetch with
  | .ok pa tt s' => if tt = 3 ∨ tt = 4 then none else some (pa, s'.peekBytes pa 8, s')
  | _ => none
/-- Whether the fetch waits for a line of a migrating page. -/
def State.fetchStalls (s : State) (rid pc : Nat) : Bool :=
  match s.coreXlat rid (pc / 8 * 8) .fetch with
  | .line => true
  | _ => false

/-- Whether a decoded word names a bound stream register as a destination (R61). -/
def State.boundDest (s : State) (rid : Nat) (i : Instr) : Bool :=
  match scalarDest i with
  | some d => decide (24 ≤ d.toNat) && decide (d.toNat ≤ 27) && s.bound rid d.toNat
  | none => false
/-- A word decoded with every check of R75. -/
def State.decodeFor (s : State) (rid w : Nat) : Option Instr :=
  match decodeChecked w with
  | .ok i => if s.boundDest rid i then none else some i
  | .error _ => none
/-- `BAR` and `SSYNC` may not stand in word 0 of a PAIR (R179). -/
def barrierWord : Instr → Bool
  | .bar _ => true
  | .ssync _ => true
  | _ => false

/-- The scalar code and the segments that the fields of an A-class word name as its destinations, by its opcode alone (R53, R59, R72). -/
def namedDests (w : Nat) : Option Nat × List Nat :=
  let op := bits w 29 24
  if op ≤ 0x0E ∨ (0x10 ≤ op ∧ op ≤ 0x13) ∨ op = 0x24 ∨ op = 0x26 ∨ op = 0x2D ∨ op = 0x2E then (some (bits w 23 19), [])
  else if op = 0x29 then (none, [bits w 23 20, bits w 15 12])
  else if 0x20 ≤ op ∧ op ≤ 0x2F then (none, [bits w 23 20])
  else (none, [])
/-- Whether an instruction and an A-class word name one destination, be the word decodable or not (check 3 of R56). -/
def namesDest (i : Instr) (w : Nat) : Bool :=
  let n := namedDests w
  (match scalarDest i, n.1 with
   | some d, some e => d.toNat == e && e != 0
   | _, _ => false) || (segDests i).any fun x => n.2.contains x
/-- What the next issue step of a row is: nothing but the state, one word, or a PAIR. -/
inductive Prep where
  | idle (s : State)
  | one (i : Instr) (s : State)
  | two (i j : Instr) (s : State)
  deriving Repr

/-- The step's position set: the row, the word that traps or issues, and its place. -/
def State.at (s : State) (rid pc : Nat) (slot : Slot) (view : Option View) : State :=
  { s with cur := { rid := rid, pc := BitVec.ofNat 57 pc, slot := slot, view := view } }
/-- What a PAIR of a row that starts now reads (R53). -/
def State.viewOf (s : State) (rid : Nat) : View :=
  { cells := s.rowCells rid, loads := (s.thrOf rid).loads, streams := (s.coreOf (coreOfRid rid)).streams.filter fun x => x.rid == rid,
    pops := (s.thrOf rid).chunk.pops.length }
/-- A trap of the checks of a bundle, reported at a word. The row's program counter names word 0 of a PAIR (R259); a handler of a base-die core is
killed at the word reported (22_near_memory.md R343). -/
def State.prepIllegal (s : State) (rid pc report : Nat) : Prep :=
  let s := s.at rid (if isBase rid then report else pc) .serial0 none
  .one .undecodableWord { s with sel := { unit := report } }

/-- The checks of R56 on a fetched bundle. -/
def State.checkBundle (s : State) (rid pc : Nat) (b : Bundle) : Prep :=
  let base := pc / 8 * 8
  match b with
  | .pair w0 w1 =>
    if pc ≠ base then .idle ((s.at rid pc .serial1 none).stopTrap .entry (BitVec.ofNat 64 pc) none false)
    else if w1 / 2 ^ 31 % 2 = 1 ∨ w0 / 2 ^ 30 % 2 = 1 ∨ w1 / 2 ^ 30 % 2 = 0 then s.prepIllegal rid base base
    else
      let d0 := decodeChecked w0
      let d1 := decodeChecked w1
      let clash := match d0, d1 with
        | .ok i, .ok j => conflict i j
        | .ok i, .error _ => namesDest i w1
        | _, _ => false
      let bar := match d0 with | .ok i => barrierWord i | .error _ => false
      if clash || bar then s.prepIllegal rid base base
      else match s.decodeFor rid w0, s.decodeFor rid w1 with
        | none, _ => s.prepIllegal rid base base
        | some _, none => s.prepIllegal rid base (base + 4)
        | some i, some j => .two i j ((s.beginChunk rid).at rid base .pair0 (some (s.viewOf rid)))
  | .serial w0 w1 =>
    if w1 / 2 ^ 31 % 2 = 1 then s.prepIllegal rid base base
    else if pc = base then
      match s.decodeFor rid (w0 % 2 ^ 31) with
      | none => s.prepIllegal rid base base
      | some i => .one i ((s.beginChunk rid).at rid pc .serial0 none)
    else
      match s.decodeFor rid w1 with
      | none => s.prepIllegal rid pc pc
      | some i => .one i ((s.beginChunk rid).at rid pc .serial1 none)

/-- Whether a row may issue now: OPEN on a port whose cycles have passed, and no other row of its core has issued in this cycle; a handler of a
base-die core once the cycles of its last step have passed. -/
def State.canIssue (s : State) (rid : Nat) : Bool :=
  if isBase rid then
    (s.bdcOf (rid - baseRid)).run.isSome && (s.ctlOf rid).state == .opened && decide ((s.bdcOf (rid - baseRid)).busy ≤ s.cycle)
  else s.running rid && (s.coreOf (coreOfRid rid)).lastIssue != some s.cycle && s.stepDone rid

/-- The grant that a chunk of limit 1 needs before it issues (R131): taken when it is free, else asked for. -/
def State.grantFor (s : State) (rid : Nat) : Bool × State :=
  if (s.thrOf rid).chunk.limit ≠ 1 ∨ isBase rid then (true, s) else
  let k := clusterOfRid rid
  let c := s.cluOf k
  let take := match c.grant with
    | some g => g == rid
    | none => (match c.grantq with | [] => true | r :: _ => r == rid)
  if take && !s.commitFull k then (true, s.modClu k fun c => { c with grant := some rid, grantq := c.grantq.filter fun r => r != rid })
  else (false, s.modClu k fun c => { c with grantq := if c.grantq.contains rid then c.grantq else c.grantq ++ [rid] })

/-- The next issue step of a row. -/
def State.prep (s : State) (rid : Nat) : Prep :=
  if !s.canIssue rid then .idle s else
  match s.boundaryWork rid with
  | some s => .idle s
  | none =>
    let c := s.ctlOf rid
    let pc := c.pc.toNat
    let here := s.at rid pc .serial0 none
    if isBase rid && !(s.thrOf rid).mid && decide (4096 ≤ (s.bdcOf (rid - baseRid)).bundles) then .idle (here.stopTrap .helper 0 none false)
    else if (match (s.thrOf rid).packet with | some p => decide (64 ≤ p.bundles) && !(s.thrOf rid).mid | none => false) then
      .idle (here.stopTrap .packet 0 none false)
    else if s.fetchStalls rid pc then .idle (here.stallNow false)
    else match s.grantFor rid with
      | (false, s) => .idle s
      | (true, s) =>
        match s.fetch rid pc with
        | none => .one .fetchFault { (s.at rid pc .serial0 none) with sel := { unit := pc } }
        | some (pa, bs, s) =>
          match s.uncorrAt pa 8 with
          | some u => .idle ((s.at rid pc .serial0 none).stopTrap .uncorr (BitVec.ofNat 64 u) none false)
          | none =>
            match decodeBundle bs with
            | .ok b => s.checkBundle rid pc b
            | .error _ => .idle s

/-! ### The end of an issue step -/

/-- Whether a bundle is complete with this word: word 1, or a word 0 that transfers control (R121). -/
def Cur.endsBundle (c : Cur) : Bool :=
  match c.slot with
  | .serial0 => c.jump.isSome
  | _ => true
/-- Counts of a completed step: cycles of the port, steps and bundles of the chunk, bundles of the turn and of an open packet, which
counts from the bundle after its header. `had` says that the packet was open before the step. A word that traps, blocks or stalls is no issue
step: it takes no cycle of the executor and does not move the port scan, so that another row of the core may issue in the same cycle (the
manual does not say: DESIGN CHOICE; entry 91). -/
def State.countStep (s : State) (had : Bool) : State :=
  let rid := s.me
  let core := s.myCore
  let cur := s.cur
  let n := if cur.endsBundle then 1 else 0
  let starts := cur.slot != .serial1
  let s := s.modThr rid fun t => { t with
    chunk := { t.chunk with steps := t.chunk.steps + 1, bundles := t.chunk.bundles + n }
    turn := t.turn + n
    mid := cur.slot == .serial0 && cur.jump.isNone
    packet := t.packet.map fun p => if had && starts then { p with bundles := p.bundles + 1 } else p }
  let s := if decide ((s.cs core).turnlen.toNat ≤ (s.thrOf rid).turn) && !s.rowWaits core (s.ctlOf rid).pri.toNat && cur.endsBundle then
    s.modThr rid fun t => { t with turn := 0 } else s
  match s.portOf rid with
  | some p => s.modCore core fun c => { c with
      lastIssue := some s.cycle, lastPort := p
      ports := match tget none c.ports p with
        | some x => tset c.ports p (some { x with busy := s.cycle + cur.cost })
        | none => c.ports }
  | none => s

/-- The close that the step's word makes. -/
def State.closeStep (s : State) : State :=
  match s.cur.close with
  | none => s
  | some st => s.closeTo s.me st

/-- A completed issue step ended: it is counted, a chunk that must end commits or is marked, and the row closes where the word says. A one-bundle
chunk ends with its bundle. A commit and a close wait until the vector operations of the row have landed (12_vector_matrix.md R210); the
row keeps the grant for that time. -/
def State.finishStep (s : State) (had : Bool) : State :=
  let rid := s.me
  if isBase rid then
    let s := s.modThr rid fun t => { t with mid := s.cur.slot == .serial0 && s.cur.jump.isNone }
    (s.modBdc (rid - baseRid) fun b => { b with
      bundles := if s.cur.endsBundle then b.bundles + 1 else b.bundles, busy := s.cycle + s.cur.cost }).closeStep
  else
    let s := s.countStep had
    let ch := (s.thrOf rid).chunk
    if s.cur.ending || (ch.limit == 1 && ch.bundles != 0) then
      if s.vecBusy rid || s.startsBlocked rid then
        (s.modClu s.myCluster fun c => { c with grant := some rid, grantq := c.grantq.filter fun r => r != rid }).modThr rid fun t =>
          { t with chunk := { t.chunk with ended := true }, closeAs := s.cur.close }
      else (s.applyCommit rid).closeStep
    else if ch.limit ≤ ch.bundles then s.modChunk rid fun c => { c with ended := true }
    else s

/-- A step of one word ended: `had` as above. -/
def State.finishOne (t : State) (had : Bool) : State := if t.cur.ended = .completed then t.finishStep had else t
/-- The state in which word 1 of a PAIR executes after word 0. -/
def State.second (t : State) : State := t.modCur fun c => { c with slot := .pair1, pc := c.pc + 4, ended := .running }
/-- The sleep that word 0 of a PAIR asks for. -/
def Cur.sleeping (c : Cur) : Option (Nat × Nat) :=
  match c.ended with
  | .sleeps tag d => some (tag, d)
  | _ => none
/-- A PAIR ended: from the state before it where either word stopped (R53). `sleeps` is the tag and the deadline of a `SLEEPUNTIL` in word 0 that must
sleep: once word 1 has completed, neither word has an effect, and the row sleeps (R53; 09_memory_sync.md R163). A handler of a base-die core is killed at the word itself
(22_near_memory.md R343). -/
def State.finishTwo (s t : State) (had : Bool) (sleeps : Option (Nat × Nat) := none) : State :=
  match t.cur.ended with
  | .completed =>
    match sleeps with
    | some (tag, d) => s.stopBlock 12 0 tag (some d)
    | none => t.finishStep had
  | .trapped c g3 => (if isBase s.me then s.modCur fun x => { x with pc := x.pc + 4 } else s).applyStop (.trap c g3 none)
  | .blocked w k => s.applyStop (.block w k 0 none)
  | .stalled => s.applyStop (.stall false)
  | .holds pa e => s.applyStop (.hold pa e)
  | .ends => s.applyStop .endChunk
  | _ => s
/-- Whether a row's packet was open when its step began. -/
def State.hadPacket (s : State) : Bool := (s.thrOf s.me).packet.isSome

end Sys2Proof.Machine
end

