-- ==== Sys2Proof/Machine/Scalar.lean ====
section
/-! DEFINITION. Integer register instructions (04_scalar.md R82 to R88): `ALU`, `MULDIV`, `BITS`, bit fields, immediates, shifts and
upper constants. -/

namespace Sys2Proof.Machine

/-! ### Forms -/

/-- Two scalar sources, one result, and its issue cycles. -/
def State.op2 (s : State) (d a b : BitVec 5) (cost : Nat) (f : W → W → W) : Out :=
  s.runWord (do
    let (x, s) ← s.src a.toNat
    let (y, s) ← s.src b.toNat
    (s.spend cost).dst d.toNat (f x y))
/-- One scalar source. -/
def State.op1 (s : State) (d a : BitVec 5) (cost : Nat) (f : W → W) : Out :=
  s.runWord (do
    let (x, s) ← s.src a.toNat
    (s.spend cost).dst d.toNat (f x))
/-- A source `A` and the destination read as a source after it (R65). -/
def State.opD (s : State) (d a : BitVec 5) (cost : Nat) (f : W → W → W) : Out :=
  s.runWord (do
    let (x, s) ← s.src a.toNat
    let (y, s) ← s.src d.toNat
    (s.spend cost).dst d.toNat (f x y))
/-- No source. -/
def State.op0 (s : State) (d : BitVec 5) (v : W) : Out := s.runWord (s.dst d.toNat v)

/-! ### Results (R82 to R85) -/

def amt (y : W) : Nat := y.toNat % 64
def amtW (y : W) : Nat := y.toNat % 32
/-- A 32-bit result, sign-extended. -/
def wide (x : BitVec 32) : W := x.signExtend 64
def low (x : W) : BitVec 32 := x.setWidth 32
def one (b : Bool) : W := if b then 1 else 0
def quot (x y : W) : W := if y = 0 then -1 else BitVec.ofInt 64 (Int.tdiv x.toInt y.toInt)
def quotU (x y : W) : W := if y = 0 then -1 else x / y
def remS (x y : W) : W := if y = 0 then x else BitVec.ofInt 64 (Int.tmod x.toInt y.toInt)
def remU (x y : W) : W := if y = 0 then x else x % y
def leadingZeros (x : W) : W := if x = 0 then 64 else BitVec.ofNat 64 (63 - Nat.log2 x.toNat)
def trailingZeros (x : W) : W := BitVec.ofNat 64 (((List.range 64).find? fun i => x.getLsbD i).getD 64)
def countOnes (x : W) : W := BitVec.ofNat 64 ((List.range 64).filter fun i => x.getLsbD i).length
def reverseBits (x : W) : W := x.reverse
def reverseBytes (x : W) : W := BitVec.ofNat 64 (ofBytes (bytesOf 8 x.toNat).reverse)
/-- Bits `pos + len - 1` to `pos` of a value, `n` holding `len - 1`. -/
def fieldOf (x : W) (n p : BitVec 6) : Nat := x.toNat / 2 ^ p.toNat % 2 ^ (n.toNat + 1)
def extractS (x : W) (n p : BitVec 6) : W := sext (n.toNat + 1) (fieldOf x n p)
def extractZ (x : W) (n p : BitVec 6) : W := BitVec.ofNat 64 (fieldOf x n p)
def insertField (x y : W) (n p : BitVec 6) : W :=
  let m : W := BitVec.ofNat 64 ((2 ^ (n.toNat + 1) - 1) * 2 ^ p.toNat)
  (y &&& ~~~m) ||| ((x <<< p.toNat) &&& m)
def immOf (i : BitVec 14) : W := i.signExtend 64
/-- `IMM` × 2^14 of an upper constant (R88). -/
def upper (i : BitVec 19) : W := i.signExtend 64 <<< 14

/-! ### Instructions -/

def execAdd (d a b : BitVec 5) (s : State) : Out := s.op2 d a b 1 fun x y => x + y
def execSub (d a b : BitVec 5) (s : State) : Out := s.op2 d a b 1 fun x y => x - y
def execAnd (d a b : BitVec 5) (s : State) : Out := s.op2 d a b 1 fun x y => x &&& y
def execOr (d a b : BitVec 5) (s : State) : Out := s.op2 d a b 1 fun x y => x ||| y
def execXor (d a b : BitVec 5) (s : State) : Out := s.op2 d a b 1 fun x y => x ^^^ y
def execAndn (d a b : BitVec 5) (s : State) : Out := s.op2 d a b 1 fun x y => x &&& ~~~y
def execShl (d a b : BitVec 5) (s : State) : Out := s.op2 d a b 1 fun x y => x <<< amt y
def execShr (d a b : BitVec 5) (s : State) : Out := s.op2 d a b 1 fun x y => x >>> amt y
def execSar (d a b : BitVec 5) (s : State) : Out := s.op2 d a b 1 fun x y => x.sshiftRight (amt y)
def execRol (d a b : BitVec 5) (s : State) : Out := s.op2 d a b 1 fun x y => x.rotateLeft (amt y)
def execRor (d a b : BitVec 5) (s : State) : Out := s.op2 d a b 1 fun x y => x.rotateRight (amt y)
def execMin (d a b : BitVec 5) (s : State) : Out := s.op2 d a b 1 fun x y => if y.slt x then y else x
def execMax (d a b : BitVec 5) (s : State) : Out := s.op2 d a b 1 fun x y => if x.slt y then y else x
def execMinu (d a b : BitVec 5) (s : State) : Out := s.op2 d a b 1 fun x y => if y.ult x then y else x
def execMaxu (d a b : BitVec 5) (s : State) : Out := s.op2 d a b 1 fun x y => if x.ult y then y else x
def execSlt (d a b : BitVec 5) (s : State) : Out := s.op2 d a b 1 fun x y => one (x.slt y)
def execSltu (d a b : BitVec 5) (s : State) : Out := s.op2 d a b 1 fun x y => one (x.ult y)
def execSeq (d a b : BitVec 5) (s : State) : Out := s.op2 d a b 1 fun x y => one (x == y)
def execSne (d a b : BitVec 5) (s : State) : Out := s.op2 d a b 1 fun x y => one (x != y)
def execCmovz (d a b : BitVec 5) (s : State) : Out := s.op2 d a b 1 fun x y => if y = 0 then x else 0
def execCmovnz (d a b : BitVec 5) (s : State) : Out := s.op2 d a b 1 fun x y => if y = 0 then 0 else x
def execAddw (d a b : BitVec 5) (s : State) : Out := s.op2 d a b 1 fun x y => wide (low x + low y)
def execSubw (d a b : BitVec 5) (s : State) : Out := s.op2 d a b 1 fun x y => wide (low x - low y)
def execShlw (d a b : BitVec 5) (s : State) : Out := s.op2 d a b 1 fun x y => wide (low x <<< amtW y)
def execShrw (d a b : BitVec 5) (s : State) : Out := s.op2 d a b 1 fun x y => wide (low x >>> amtW y)
def execSarw (d a b : BitVec 5) (s : State) : Out := s.op2 d a b 1 fun x y => wide ((low x).sshiftRight (amtW y))

def execMul (d a b : BitVec 5) (s : State) : Out := s.op2 d a b 3 fun x y => x * y
def execMulh (d a b : BitVec 5) (s : State) : Out := s.op2 d a b 3 fun x y => BitVec.ofInt 64 (x.toInt * y.toInt / 2 ^ 64)
def execMulhu (d a b : BitVec 5) (s : State) : Out := s.op2 d a b 3 fun x y => BitVec.ofNat 64 (x.toNat * y.toNat / 2 ^ 64)
def execMulw (d a b : BitVec 5) (s : State) : Out := s.op2 d a b 3 fun x y => wide (low x * low y)
def execDiv (d a b : BitVec 5) (s : State) : Out := s.op2 d a b 20 fun x y => quot x y
def execDivu (d a b : BitVec 5) (s : State) : Out := s.op2 d a b 20 fun x y => quotU x y
def execRem (d a b : BitVec 5) (s : State) : Out := s.op2 d a b 20 fun x y => remS x y
def execRemu (d a b : BitVec 5) (s : State) : Out := s.op2 d a b 20 fun x y => remU x y

def execClz (d a : BitVec 5) (s : State) : Out := s.op1 d a 1 leadingZeros
def execCtz (d a : BitVec 5) (s : State) : Out := s.op1 d a 1 trailingZeros
def execPopc (d a : BitVec 5) (s : State) : Out := s.op1 d a 1 countOnes
def execBrev (d a : BitVec 5) (s : State) : Out := s.op1 d a 1 reverseBits
def execBswap (d a : BitVec 5) (s : State) : Out := s.op1 d a 1 reverseBytes

def execExts (d a : BitVec 5) (n p : BitVec 6) (s : State) : Out := s.op1 d a 1 fun x => extractS x n p
def execExtz (d a : BitVec 5) (n p : BitVec 6) (s : State) : Out := s.op1 d a 1 fun x => extractZ x n p
def execIns (d a : BitVec 5) (n p : BitVec 6) (s : State) : Out := s.opD d a 1 fun x y => insertField x y n p

def execAddi (d a : BitVec 5) (i : BitVec 14) (s : State) : Out := s.op1 d a 1 fun x => x + immOf i
def execAndi (d a : BitVec 5) (i : BitVec 14) (s : State) : Out := s.op1 d a 1 fun x => x &&& immOf i
def execOri (d a : BitVec 5) (i : BitVec 14) (s : State) : Out := s.op1 d a 1 fun x => x ||| immOf i
def execXori (d a : BitVec 5) (i : BitVec 14) (s : State) : Out := s.op1 d a 1 fun x => x ^^^ immOf i
def execSlti (d a : BitVec 5) (i : BitVec 14) (s : State) : Out := s.op1 d a 1 fun x => one (x.slt (immOf i))
def execSltiu (d a : BitVec 5) (i : BitVec 14) (s : State) : Out := s.op1 d a 1 fun x => one (x.ult (immOf i))

def execShli (d a : BitVec 5) (m : BitVec 6) (s : State) : Out := s.op1 d a 1 fun x => x <<< m.toNat
def execShri (d a : BitVec 5) (m : BitVec 6) (s : State) : Out := s.op1 d a 1 fun x => x >>> m.toNat
def execSari (d a : BitVec 5) (m : BitVec 6) (s : State) : Out := s.op1 d a 1 fun x => x.sshiftRight m.toNat
def execRori (d a : BitVec 5) (m : BitVec 6) (s : State) : Out := s.op1 d a 1 fun x => x.rotateRight m.toNat

def execLui (d : BitVec 5) (i : BitVec 19) (s : State) : Out := s.op0 d (upper i)
def execAuipc (d : BitVec 5) (i : BitVec 19) (s : State) : Out := s.op0 d (s.pcW + upper i)

end Sys2Proof.Machine
end

