-- ==== Sys2Proof/Machine/Control.lean ====
section
/-! DEFINITION. Control instructions: branches and jumps (04_scalar.md R94 to R96), row-local access (R97, R98), thread control and
helpers (R99 to R107), chunk ends (09_memory_sync.md R162), traps and returns (15_traps.md R263 to R266), the `CSR` group (R272 to
R274), `TLBINV` (16_translation.md R288) and `PGATE` (23_stack_fabric.md R346, R347). -/

namespace Sys2Proof.Machine

/-! ### Branches and jumps -/

/-- A branch of the word's own address by `OFF` words (R94). -/
def State.branch (s : State) (a b : BitVec 5) (o : BitVec 14) (c : W → W → Bool) : Out :=
  s.runWord (do
    let _ ← s.noPacket
    let (x, s) ← s.src a.toNat
    let (y, s) ← s.src b.toNat
    .ok (if c x y then s.jumpTo (s.pcW + o.signExtend 64 * 4) else s))
def execBeq (a b : BitVec 5) (o : BitVec 14) (s : State) : Out := s.branch a b o fun x y => x == y
def execBne (a b : BitVec 5) (o : BitVec 14) (s : State) : Out := s.branch a b o fun x y => x != y
def execBlt (a b : BitVec 5) (o : BitVec 14) (s : State) : Out := s.branch a b o fun x y => x.slt y
def execBge (a b : BitVec 5) (o : BitVec 14) (s : State) : Out := s.branch a b o fun x y => !x.slt y
def execBltu (a b : BitVec 5) (o : BitVec 14) (s : State) : Out := s.branch a b o fun x y => x.ult y
def execBgeu (a b : BitVec 5) (o : BitVec 14) (s : State) : Out := s.branch a b o fun x y => !x.ult y
def execJal (d : BitVec 5) (o : BitVec 19) (s : State) : Out :=
  s.runWord (do
    let _ ← s.noPacket
    let t ← s.dst d.toNat s.nextW
    .ok (t.jumpTo (s.pcW + o.signExtend 64 * 4)))
def execJalr (d a : BitVec 5) (i : BitVec 14) (s : State) : Out :=
  s.runWord (do
    let _ ← s.noPacket
    let (x, s) ← s.src a.toNat
    let t ← s.dst d.toNat s.nextW
    .ok (t.jumpTo (x + immOf i)))

/-! ### Row-local access (R97, R98) -/

/-- The checks of `LDR` and `STR`: alignment, then range locks, reported by physical row-store address. -/
def State.rowLocal (s : State) (off n : Nat) (store : Bool) : Res Unit :=
  let pa := rowAddr s.me + off
  if off % n ≠ 0 then trap .align (BitVec.ofNat 64 pa)
  else if !isBase s.me && s.rangeLocked s.myCluster pa n store then trap .range (BitVec.ofNat 64 pa)
  else if s.segPending off n then stall
  else .ok ()
def State.ldr (s : State) (d : BitVec 5) (i : BitVec 14) (n : Nat) (signed : Bool) : Out :=
  s.runWord (do
    let _ ← s.rowLocal i.toNat n false
    let v ← s.readRow i.toNat n
    s.dst d.toNat (if signed then sext (8 * n) v else BitVec.ofNat 64 v))
def State.str (s : State) (d : BitVec 5) (i : BitVec 14) (n : Nat) : Out :=
  s.runWord (do
    let _ ← s.rowLocal i.toNat n true
    let (x, s) ← s.src d.toNat
    .ok (s.rowPut s.me i.toNat n x.toNat))
def execLdrB (d : BitVec 5) (i : BitVec 14) (s : State) : Out := s.ldr d i 1 true
def execLdrH (d : BitVec 5) (i : BitVec 14) (s : State) : Out := s.ldr d i 2 true
def execLdrW (d : BitVec 5) (i : BitVec 14) (s : State) : Out := s.ldr d i 4 true
def execLdrD (d : BitVec 5) (i : BitVec 14) (s : State) : Out := s.ldr d i 8 false
def execLdrBu (d : BitVec 5) (i : BitVec 14) (s : State) : Out := s.ldr d i 1 false
def execLdrHu (d : BitVec 5) (i : BitVec 14) (s : State) : Out := s.ldr d i 2 false
def execLdrWu (d : BitVec 5) (i : BitVec 14) (s : State) : Out := s.ldr d i 4 false
def execStrB (d : BitVec 5) (i : BitVec 14) (s : State) : Out := s.str d i 1
def execStrH (d : BitVec 5) (i : BitVec 14) (s : State) : Out := s.str d i 2
def execStrW (d : BitVec 5) (i : BitVec 14) (s : State) : Out := s.str d i 4
def execStrD (d : BitVec 5) (i : BitVec 14) (s : State) : Out := s.str d i 8

/-! ### Thread control (R99 to R107) -/

def execNop (s : State) : Out := s.runWord (do
  let _ ← s.noPacket
  .ok s)

/-- A word that closes the row executes alone, once every load is performed and every vector operation has landed (R41; entry 7). -/
def State.closing (s : State) : Res State := do
  let s ← s.alone
  if s.quiet then .ok s else stall

/-- `TEXIT` (R101): the program counter stays; a row with a live helper traps `HELPER`. -/
def execTexit (s : State) : Out :=
  s.runWord (do
    let _ ← s.noPacket
    if !isBase s.me && !(s.helpersOf s.me).isEmpty then trap .helper 0
    let s ← s.closing
    .ok ((s.jumpTo s.pcW).closeAs .exited))
/-- `YIELD` (R102). -/
def execYield (s : State) : Out :=
  s.runWord (do
    let _ ← s.threadOnly
    let s ← s.closing
    .ok (s.closeAs .ready))
/-- `SETPRI` (R103): made at the commit. -/
def execSetpri (a : BitVec 5) (s : State) : Out :=
  s.runWord (do
    let _ ← s.threadOnly
    let (x, s) ← s.src a.toNat
    .ok (s.modChunk s.me fun c => { c with deferred := c.deferred ++ [.setpri (BitVec.ofNat 2 (min x.toNat 3))] }))
/-- `CYCLE` (R107). -/
def execCycle (d : BitVec 5) (s : State) : Out :=
  s.runWord (do
    let _ ← s.noPacket
    s.dst d.toNat (BitVec.ofNat 64 s.cycle))
/-- `CHUNK` (09_memory_sync.md R162). -/
def execChunk (s : State) : Out :=
  s.runWord (do
    let _ ← s.threadOnly
    s.alone)

/-- The pool row a helper gets (R105): the lowest that no nest reserved, or that the row's own leaf reserved for its helpers. -/
def State.helperRow (s : State) (rid : Nat) : Option Nat :=
  let core := coreOfRid rid
  let own := ((s.leafOf rid).map (·.helpRows)).getD []
  let held := s.nestRows (clusterOf core)
  (s.poolRows core (s.rowTenant rid)).find? fun r =>
    let x := ridOf core r
    s.rowFree x && !((s.cs core).helpers.any fun e => e.1 == r) && (own.contains x || !held.contains x)
/-- `HSTART` (R105). -/
def execHstart (d a b : BitVec 5) (s : State) : Out :=
  s.runWord (do
    let _ ← s.threadOnly
    let (x, s) ← s.src a.toNat
    let (y, s) ← s.src b.toNat
    if (s.ctlOf s.me).h then trap .helper 0
    match s.freeHelperSlot s.me, s.helperRow s.me with
    | some slot, some row =>
      let s := s.modLoaded s.myCore fun c => { c with helpers := tset c.helpers row { parent := rowOfRid s.me, slot := slot } }
      let s := s.modChunk s.me fun c => { c with deferred := c.deferred ++ [.hstart row x y] }
      (s.spend 2).dst d.toNat (BitVec.ofNat 64 (row * 65536 + slot))
    | _, _ => trap .helper 0)
/-- `HJOIN` (R106): the rows of the joined helpers become NULL at the commit (R79). -/
def execHjoin (a : BitVec 5) (s : State) : Out :=
  s.runWord (do
    let _ ← s.threadOnly
    let (x, s) ← s.src a.toNat
    let s ← s.alone
    let mask := x.toNat % 1024
    if s.joinReady s.me mask then
      let rows := ((s.helpersOf s.me).filter fun h => mask.testBit h.1).map fun h => ridOf s.myCore h.2
      .ok ((if rows = [] then s else s.modChunk s.me fun c => { c with deferred := c.deferred ++ [.join rows] }).spend 2)
    else wait 6 mask 0)

/-! ### Traps and returns (15_traps.md R263 to R266) -/

def execTrap (b : BitVec 5) (s : State) : Out :=
  s.runWord (do
    let _ ← s.threadOnly
    trap .brk (b.setWidth 64))
/-- Whether mode 1 waits for the line of a migrating page that holds the faulted row's bundle. -/
def State.resumeWaits (s : State) (r : Nat) : Bool := !(s.thrOf r).fetchTrap && s.fetchStalls r (s.ctlOf r).pc.toNat
/-- `TRET` (R265): the faulted row is disposed of, and the handler row becomes NULL at the end of the step. -/
def execTret (a : BitVec 5) (s : State) : Out :=
  s.runWord (do
    let _ ← s.threadOnly
    match (s.thrOf s.me).serves with
    | none => trap .helper 0
    | some v =>
      let (m, s) ← s.src a.toNat
      if 2 < m.toNat then trap .helper 0
      if m = 1 ∧ s.resumeWaits v.faulted then stall
      let s ← s.closing
      .ok ((s.resolveFault v.faulted m.toNat).closeAs .null))
/-- `FENCE.I` (R266): every fetch of this model reads the word at its home (entry 22), so waiting for the thread's stores is all. -/
def execFenceI (s : State) : Out :=
  s.runWord (do
    let _ ← s.threadOnly
    let s ← s.alone
    let _ ← s.afterAll
    .ok s)

/-! ### System registers (R272 to R274) -/

/-- How threads reach a register: read and write, or read only. -/
def csrWritable (n : Nat) : Bool := n == 0x000 || (decide (0x020 ≤ n) && decide (n ≤ 0x024)) || n == 0x030
/-- A system register's value for a row (R273). The reserved bits of `STS` read as zero, whatever the row's bytes hold (R25, R272). -/
def State.csrRead (s : State) (rid n : Nat) : Res W :=
  let core := coreOfRid rid
  let c := s.cs core
  let t := s.tenOf (s.rowTenant rid)
  let p := s.pkg
  if n = 0x000 then (s.readRow 0 8).map fun x => BitVec.ofNat 64 (x % 2 ^ 62)
  else if n = 0x010 then .ok (nameOf rid) else if n = 0x011 then .ok (p.pkgid.setWidth 64)
  else if n = 0x012 then .ok (BitVec.ofNat 64 (s.rowTenant rid))
  else if n = 0x020 then .ok (c.openlim.setWidth 64) else if n = 0x021 then .ok (c.turnlen.setWidth 64)
  else if n = 0x022 then .ok (c.vshare.setWidth 64) else if n = 0x023 then .ok (hpoolWord c)
  else if n = 0x024 then .ok ((s.coreOf core).rxdrop.setWidth 64)
  else if n = 0x030 then .ok (tget 0 (s.cluOf (clusterOf core)).teamhdl (s.ctlOf rid).team.toNat)
  else if n = 0x038 then .ok (s.cluOf (clusterOf core)).ecclog
  else if n = 0x040 then .ok (p.fnmode.setWidth 64) else if n = 0x041 then .ok p.ready0 else if n = 0x042 then .ok p.ready1
  else if n = 0x043 then .ok (p.tslice.setWidth 64) else if n = 0x044 then .ok (p.gridslice.setWidth 64)
  else if n = 0x050 then .ok t.fqbase else if n = 0x051 then .ok (t.fqtail.setWidth 64)
  else if n = 0x052 then .ok (t.fqhead.setWidth 64) else if n = 0x053 then .ok (t.fqlost.setWidth 64)
  else trap .illegal s.pcW
/-- A thread's write of a register under its range rules. `STS` is the row's own. -/
def State.csrWrite (s : State) (rid n : Nat) (v : W) : State :=
  let core := coreOfRid rid
  if n = 0x000 then s.rowPut rid 0 8 (v.toNat % 2 ^ 62)
  else if n = 0x020 then s.modLoaded core fun c => setOpenlim c v
  else if n = 0x021 then s.writeTurnlen core fun c => setTurnlen c v
  else if n = 0x022 then s.modLoaded core fun c => setVshare c v
  else if n = 0x023 then s.modLoaded core fun c => setHpool c v
  else if n = 0x024 then s.modCore core fun c => { c with rxdrop := v.setWidth 32 }
  else if n = 0x030 then s.setTeamhdl (clusterOf core) (s.ctlOf rid).team.toNat v
  else s
def execCsrr (d : BitVec 5) (n : BitVec 12) (s : State) : Out :=
  s.runWord (do
    let _ ← s.threadOnly
    let old ← s.csrRead s.me n.toNat
    s.dst d.toNat old)
/-- A writing form: every write but that of `STS` stands in an ending bundle. -/
def State.csrOp (s : State) (d a : BitVec 5) (n : BitVec 12) (f : W → W → W) : Out :=
  s.runWord (do
    let _ ← s.threadOnly
    let old ← s.csrRead s.me n.toNat
    if !csrWritable n.toNat then trap .access (n.setWidth 64)
    let (x, s) ← s.src a.toNat
    let s ← if n = 0 then .ok s else s.alone
    (s.csrWrite s.me n.toNat (f old x)).dst d.toNat old)
def execCsrw (d a : BitVec 5) (n : BitVec 12) (s : State) : Out := s.csrOp d a n fun _ x => x
def execCsrs (d a : BitVec 5) (n : BitVec 12) (s : State) : Out := s.csrOp d a n fun old x => old ||| x
def execCsrc (d a : BitVec 5) (n : BitVec 12) (s : State) : Out := s.csrOp d a n fun old x => old &&& ~~~x

/-! ### TLBINV (16_translation.md R288) -/

def execTlbinv (a b : BitVec 5) (s : State) : Out :=
  s.runWord (do
    let _ ← s.threadOnly
    let (x, s) ← s.src a.toNat
    let (k, s) ← s.src b.toNat
    if 1 < k.toNat then trap .illegal s.pcW
    let s ← s.alone
    let _ ← s.afterAll
    let ten := s.rowTenant s.me
    let p : TlbEntry → Bool := fun e => if k = 0 then e.onPage ten x.toNat else e.tag == ten
    if s.entryBusy p then stall else .ok (s.tlbRemove p))

/-! ### PGATE (23_stack_fabric.md R346, R347) -/

/-- Whether a tenant is granted a core (24_tenancy_boot.md R359). -/
def State.granted (s : State) (ten core : Nat) : Bool :=
  s.tenantOf core == ten || (ten != 0 && (s.coreOf core).perm.getLsbD ten)
/-- A gate request to a quad. -/
def State.gateQuad (s : State) (q : Nat) : State :=
  match (s.quadOf q).power with
  | .running =>
    let s := s.modQuad q fun x => { x with power := .gating }
    (s.rowsWhere fun r c => !isBase r && quadOfCore (coreOfRid r) == q && c.state == .opened).foldl (fun s r =>
      s.modThr r fun t => { t with stop := if t.stop.isNone then some .gating else t.stop }) s
  | .waking => s.modQuad q fun x => { x with gateNext := true }
  | _ => s
/-- An ungate request. -/
def State.ungateQuad (s : State) (q : Nat) : State :=
  match (s.quadOf q).power with
  | .gating =>
    let s := s.modQuad q fun x => { x with power := .running }
    { s with thr := s.thr.map fun e => if quadOfCore (coreOfRid e.1) = q ∧ e.2.stop = some .gating then (e.1, { e.2 with stop := none }) else e }
  | .gated => s.modQuad q fun x => { x with power := .waking, wakeAt := s.cycle + 4096, gateNext := false, shed := false }
  | _ => s
def execPgate (a : BitVec 5) (s : State) : Out :=
  s.runWord (do
    let _ ← s.threadOnly
    let (x, s) ← s.src a.toNat
    let q := bits x.toNat 10 0
    if bits x.toNat 62 11 ≠ 0 ∨ 1535 < q ∨ !((List.range 4).all fun i => s.granted (s.rowTenant s.me) (4 * q + i)) then trap .access x
    let s ← s.alone
    .ok (if x.getLsbD 63 then s.gateQuad q else s.ungateQuad q))

end Sys2Proof.Machine
end

