-- ==== Sys2Proof/Machine/Counters.lean ====
section
/-! DEFINITION. Sketch headers, the hash, counters and their arithmetic (18_sketches.md R292 to R297, R312), and one beat of a sum of
sketches (R306; 13_engines.md R247; 19_sketch_at_work.md R313). -/

namespace Sys2Proof.Machine

/-! ### The hash (R295) -/

def hashConst : List Nat :=
  [0x9E3779B97F4A7C15, 0xBF58476D1CE4E5B9, 0x94D049BB133111EB, 0xD6E8FEB86659FD93, 0xA0761D6478BD642F, 0xE7037ED1A0B428DB,
   0x8EBC6AF09C88C6E3, 0x589965CC75374CC3, 0x1D8E4E27C47D124F]
/-- The bucket and the sign of an index in a row: true is −1. -/
def Sketch.hash (k : Sketch) (j i : Nat) : Nat × Bool :=
  let m := (k.seed ^^^ hashConst.getD j 0) ||| 1
  let p := m * ((2 * i + 1) % 2 ^ 64) % 2 ^ 64
  (p / 2 ^ (64 - k.logw), p / 2 ^ (63 - k.logw) % 2 == 1)
/-- The number of the counter of an index in a row. -/
def Sketch.slot (k : Sketch) (j i : Nat) : Nat := j * 2 ^ k.logw + (k.hash j i).1

/-! ### Quantised values and estimates (R296, R297) -/

/-- The integer that an FP32 value adds, and whether it was clamped (R296). -/
def Sketch.quantise (k : Sketch) (x : Nat) : Int × Bool :=
  match f32 x with
  | .nan => (0, true)
  | .inf neg => (if neg then -k.lim else k.lim, true)
  | .fin neg a b =>
    let num := if 0 ≤ k.exp then a else a * 2 ^ (-k.exp).toNat
    let den := if 0 ≤ k.exp then b * 2 ^ k.exp.toNat else b
    k.clamp (roundInt .rne neg num den).1
/-- The median of signed estimates (R297). -/
def insInt (x : Int) : List Int → List Int
  | [] => [x]
  | y :: l => if x ≤ y then x :: y :: l else y :: insInt x l
def sortInt : List Int → List Int
  | [] => []
  | x :: l => insInt x (sortInt l)
def medianOf (l : List Int) : Int := (sortInt l).getD ((l.length - 1) / 2) 0
/-- The FP32 result of a query (R297). -/
def Sketch.estimate (k : Sketch) (med : Int) : Nat := rne32 (scaled (decide (med < 0)) med.natAbs k.exp)

/-! ### Access at homes (R294, R296, R312) -/

def sketchTarget (r : Region) : Bool :=
  match r with
  | .hbm | .bankLinear | .rowStore _ _ => true
  | _ => false
/-- One counter read: its value and whether it was −2^(n−1). -/
def State.ctrRead (s : State) (k ten : Nat) (h : Sketch) (i : Nat) : Except EStop ((Int × Bool) × State) := do
  let (bs, s) ← s.unitRead k ten (h.addr i) h.bytes sketchTarget
  .ok (h.value (ofBytes bs), s)
/-- The place of a word that an operation reads and writes: translated for a read and for a write. -/
def State.opXlat (s : State) (k ten va : Nat) (ok : Region → Bool) : Except EStop (Nat × State) := do
  let (_, s) ← s.unitXlat k ten va false ok
  s.unitXlat k ten va true ok
/-- Flags ORed into `SATF` at a header's home, one step of its own (19_sketch_at_work.md R314). The header is translated anew. The place that was
written. -/
def State.orSatf (s : State) (k : Nat) (w : Writer) (hva flags : Nat) (ok : Region → Bool := sketchTarget) : Except EStop (Nat × State) := do
  let (pa, s) ← s.opXlat k w.ten (hva + 32) ok
  let (_, _, s) ← s.unitOp w pa (.flags flags) 0
  .ok (pa, s)

/-! ### One beat of a sum (R247, R306, R313) -/

/-- A header read for an engine, with its physical address. -/
def State.readHeader (s : State) (k ten va : Nat) (write : Bool) (ok : Region → Bool) : Except EStop (Nat × BitVec 512 × State) := do
  let (pa, s) ← s.unitXlat k ten va false ok
  let (_, s) ← if write then s.unitXlat k ten va true ok else .ok (pa, s)
  let (bs, s) ← s.unitReads k ten ok (cut16 8 va 64)
  .ok (pa, BitVec.ofNat 512 (ofBytes bs), s)
/-- Bytes of a counter array: behind a header in another package their address is translated there, and a fault of it is served there (R313). -/
def State.sumXlat (s : State) (k ten hpa va : Nat) (write : Bool) (ok : Region → Bool) : Except EStop (Nat × State) :=
  match regionOf hpa with
  | .remote p _ =>
    if (s.portsTo p).isEmpty then .error .hold else
    let stop : Cause → Except EStop (Nat × State) := fun c => .error (.bar { cause := c, va := va, write := write, far := true })
    match Config.remoteXlat p ten va write s.cycle with
    | .ok a => .ok (0x8000000000000 + p * 0x40000000000 + a % 0x40000000000, s)
    | .page => stop .page
    | .cow => stop .cow
    | .perm => .error (.abort .perm)
    | .stage2 ipa during => .error (.bar { cause := .stage2, va := va, write := write, far := true, ipa := ipa, during := during })
  | _ => s.unitXlat k ten va write ok
def State.sumRead (s : State) (k ten hpa va n : Nat) (ok : Region → Bool) : Except EStop (List Byte × State) := do
  let (pa, s) ← s.sumXlat k ten hpa va false ok
  s.unitReadAt pa n
/-- A source counter added into the counter at the same place of the destination in one step at its home (19_sketch_at_work.md R314): the flags that
the source's and the destination's `SATF` are owed, whether it saturated, and the place that was written. -/
def State.sumCounter (s : State) (k : Nat) (w : Writer) (h : Sketch) (dpa i : Nat) (src : List Byte) (ok : Region → Bool) :
    Except EStop (Nat × Nat × Bool × Nat × State) := do
  let j := i / 2 ^ h.logw
  let (_, s) ← s.sumXlat k w.ten dpa (h.addr i) false ok
  let (pa, s) ← s.sumXlat k w.ten dpa (h.addr i) true ok
  let (a, bad) := h.value (ofBytes src)
  let (flag, sat, s) ← s.unitOp w pa (.add h.width a) j
  .ok (if bad then 2 ^ j else 0, if flag then 2 ^ j else 0, sat, pa, s)

end Sys2Proof.Machine
end

