-- ==== Sys2Proof/Machine/Message.lean ====
section
/-! DEFINITION. Queues, packets, barriers and mailboxes between threads (09_memory_sync.md R163 to R185), and PACKET_ENTRY,
PACKET_TIMEOUT, BARRIER_WORD_WRITE and DEADLINE_WAKE. -/

namespace Sys2Proof.Machine

/-- A blocking word (R163): outside an open packet, alone in its chunk. -/
def State.blocking (s : State) : Res State := do
  let _ ← s.threadOnly
  s.alone
/-- A release at `CLUSTER` made by an ending bundle (R141). -/
def State.released (s : State) : Res Unit := if s.releaseReady s.me (s.releaseNow true) then .ok () else stall

/-! ### Core queues (R165 to R170) -/

/-- Whether a row may push to, or pop from, a queue number. -/
def queueWay (rid q : Nat) (push : Bool) : Bool :=
  let lower := isLower (coreOfRid rid)
  if q = 8 then lower == push else if q = 9 then lower != push else decide (q ≤ 7)
/-- The queue that an operand names, or the trap. -/
def State.queueArg (s : State) (q : Nat) (push : Bool) : Res QRef :=
  match s.qref s.me q with
  | some r => if queueWay s.me q push then .ok r else trap .queue (BitVec.ofNat 64 q)
  | none => trap .queue (BitVec.ofNat 64 q)

def execQpush (a b : BitVec 5) (s : State) : Out :=
  s.runWord (do
    let _ ← s.threadOnly
    let (x, s) ← s.src a.toNat
    let r ← s.queueArg b.toNat true
    let s ← s.alone
    let _ ← s.released
    match s.push r s.me x with
    | some s => .ok s
    | none => wait 1 (0x10 + b.toNat) 0)
def execQpop (d b : BitVec 5) (s : State) : Out :=
  s.runWord (do
    let _ ← s.threadOnly
    let r ← s.queueArg b.toNat false
    let s ← s.alone
    match s.pop r s.me with
    | some (v, s) => s.dst d.toNat v
    | none => wait 1 b.toNat 0)

/-- Flits that a receive queue holds. -/
def rxFlits (l : List Packet) : Nat := l.foldl (fun n p => n + 1 + p.flits.length) 0
/-- `qcnt.held` (R169): entries not reserved, or whole packets for the row. -/
def State.qHeldCount (s : State) (q : Nat) : Option Nat :=
  if q = 10 then some (((s.csRow s.me).rxq.filter fun p => p.row == rowOfRid s.me).length)
  else (s.qref s.me q).map fun r => ((s.queueOf r).items.filter fun i => i.resv.isNone).length
/-- `qcnt.free` (R169, R385): pushes that would not block, or free flits. -/
def State.qFreeCount (s : State) (q : Nat) : Option Nat :=
  if q = 10 then some (64 - rxFlits (s.csRow s.me).rxq)
  else (s.qref s.me q).map fun r =>
    let x := s.queueOf r
    let base := r.depth + x.lent - (x.items.length + x.slots.length)
    match r with
    | .core _ _ | .pair _ _ _ => base
    | .link k _ => base + min (56 - x.lent) (4096 - (s.cluOf k).lent)
def State.qcnt (s : State) (d b : BitVec 5) (count : Nat → Option Nat) : Out :=
  s.runWord (do
    let _ ← s.threadOnly
    match count b.toNat with
    | some n => s.dst d.toNat (BitVec.ofNat 64 n)
    | none => trap .queue (b.setWidth 64))
def execQcntHeld (d b : BitVec 5) (s : State) : Out := s.qcnt d b s.qHeldCount
def execQcntFree (d b : BitVec 5) (s : State) : Out := s.qcnt d b s.qFreeCount

/-! ### SEND (R171 to R175) -/

/-- Reserved bits of a thread name. -/
def nameReserved (a : Nat) : Bool := bits a 62 49 != 0 || bits a 38 24 != 0
/-- Whether a destination name may be sent to (R173). The permission table is that of the octet of the named core, for another package the one that
stands there (entry 59). -/
def State.destOk (s : State) (a : Nat) : Bool :=
  !nameReserved a && bits a 63 63 == 0 && decide (bits a 23 11 < 6144) &&
    (if bits a 48 48 = 1 then decide (bits a 47 39 < 320) && bits a 47 39 != s.pkg.pkgid.toNat
       && Config.remoteGrants (bits a 47 39) (s.rowTenant s.me) (bits a 23 11) s.cycle
     else s.granted (s.rowTenant s.me) (bits a 23 11))
/-- A header `SEND`: a send buffer taken. `close` releases the packet at once (at the commit of this ending bundle). -/
def State.sendHead (s : State) (a b : BitVec 5) (close : Bool) : Out :=
  s.runWord (do
    if isBase s.me then trap .illegal s.pcW
    if (s.ctlOf s.me).p then trap .packet 0
    let (dest, s) ← s.src a.toNat
    let (hdr, s) ← s.src b.toNat
    if !s.destOk dest.toNat then trap .access dest
    let s ← s.alone
    let oct := hubOf s.me
    let hub := (s.octOf oct).hub
    if !s.mayTake s.me (fun r => !isBase r && hubOf r == oct) 0x1A (16 - hub.length) then wait 1 0x1A 0
    match (List.range 16).find? fun i => !(hub.any fun e => e.1 == i) with
    | none => wait 1 0x1A 0
    | some i =>
      let s := s.modThr s.me fun t => { t with claim := 0 }
      let s := s.modOct oct fun o => { o with hub := tset o.hub i (some { rid := s.me, dest := dest, hdr := hdr.setWidth 32 }) }
      if close then .ok (s.modChunk s.me fun c => { c with deferred := c.deferred ++ [.release] })
      else .ok ((s.modThr s.me fun t => { t with packet := some { buf := i, bundles := 0 } }).modCtl s.me fun c => { c with p := true }))
/-- A payload `SEND`: one flit appended; `close` closes the packet, which the commit releases. -/
def State.sendFlit (s : State) (d : BitVec 5) (close : Bool) : Out :=
  s.runWord (do
    if isBase s.me then trap .illegal s.pcW
    match (s.ctlOf s.me).p, (s.thrOf s.me).packet with
    | true, some p =>
      let oct := hubOf s.me
      let n := ((tget none (s.octOf oct).hub p.buf).map fun (b : SendBuf) => b.flits.length).getD 0
      if n = 8 then trap .packet 0
      let v ← s.seg d.toNat
      let s := s.modOct oct fun o => { o with hub := tset o.hub p.buf ((tget none o.hub p.buf).map fun (b : SendBuf) =>
        { b with flits := b.flits ++ [BitVec.ofNat 512 v] }) }
      if close then
        .ok (((s.modThr s.me fun t => { t with packet := none }).modCtl s.me fun c => { c with p := false }).modChunk s.me fun c =>
          { c with deferred := c.deferred ++ [.release] })
      else .ok s
    | _, _ => trap .packet 0)
def execSendH (a b : BitVec 5) (s : State) : Out := s.sendHead a b false
def execSendHe (a b : BitVec 5) (s : State) : Out := s.sendHead a b true
def execSendP (d : BitVec 5) (s : State) : Out := s.sendFlit d false
def execSendPe (d : BitVec 5) (s : State) : Out := s.sendFlit d true

/-! ### RECV (R177) -/

/-- The sender name of a packet. -/
def Packet.sender (p : Packet) : Nat := bit p.remote * 2 ^ 48 + p.pkg * 2 ^ 39 + p.core * 2 ^ 11 + p.srow
/-- Whether a filter matches a packet. R171 uses `PKG` only with `X` = 1, while R177 compares `PKG` whatever `X` is: every bit is compared, so a
filter with `X` = 0 and nonzero `PKG` bits matches no packet of this package (DESIGN CHOICE; entry 90). -/
def Packet.matches (p : Packet) (f : Nat) : Bool := bits f 63 63 == 1 || bits f 48 0 == p.sender
/-- The first packet of a receive queue for a row that a filter matches. -/
def State.findPacket (s : State) (rid f : Nat) : Option Nat :=
  (s.csRow rid).rxq.findIdx? fun p => p.row == rowOfRid rid && p.matches f
/-- `RECV`, with a deadline or none. -/
def State.receive (s : State) (d a : BitVec 5) (b : Option (BitVec 5)) (seg : Nat) : Out :=
  s.runWord (do
    let _ ← s.threadOnly
    let (f, s) ← s.src a.toNat
    let (dl, s) ← match b with
      | some b => (s.src b.toNat).map fun x => ((some (x.1.toNat % 2 ^ 56) : Option Nat), x.2)
      | none => .ok (none, s)
    if nameReserved f.toNat then trap .access f
    let s ← s.alone
    match s.findPacket s.me f.toNat with
    | some i =>
      match (s.csRow s.me).rxq[i]? with
      | none => stall
      | some k =>
        if 11 < seg + k.flits.length then trap .queue (BitVec.ofNat 64 k.flits.length)
        let s := k.flits.zipIdx.foldl (fun s e => s.setSeg (seg + e.2) e.1.toNat) s
        let s := s.modCsRow s.me fun c => { c with rxq := c.rxq.eraseIdx i }
        s.dst d.toNat (BitVec.ofNat 64 (k.flits.length * 2 ^ 59 + bit k.remote * 2 ^ 58 + k.core * 2 ^ 45 + k.srow * 2 ^ 34 + k.hdr.toNat))
    | none =>
      match dl with
      | some t => if reached s.cycle t then s.dst d.toNat (BitVec.ofNat 64 (2 ^ 63))
                  else .error (.block 2 (2 ^ 35 + t % 2 ^ 35) f.toNat (some t))
      | none => wait 2 0 f.toNat)
def execRecv (d a : BitVec 5) (g : BitVec 4) (s : State) : Out := s.receive d a none g.toNat
def execRecvDl (d a b : BitVec 5) (g : BitVec 4) (s : State) : Out := s.receive d a (some b) g.toNat

/-! ### Barriers (R178 to R182) -/

/-- An arrival: the word completes, or blocks with its arrival counted. -/
def State.barrier (s : State) (a : BitVec 5) (ss : Bool) : Out :=
  let r : Res (Nat × State) := do
    let _ ← s.threadOnly
    let (x, s) ← s.src a.toNat
    if 15 < x.toNat || !(s.barOf s.myCluster (barIndex (s.ctlOf s.me).team.toNat x.toNat)).arm then trap .queue x
    let s ← s.alone
    let _ ← s.released
    if s.quiet then .ok (x.toNat, s) else stall
  match r with
  | .error st => .next (s.applyStop st)
  | .ok (i, t) =>
    let (done, t) := t.arriveBar t.me i ss
    .next (if done then t.retire else t.stopBlock 7 (i + if ss then 16 else 0) 0 none)
def execBar (a : BitVec 5) (s : State) : Out := s.barrier a false
def execSsync (a : BitVec 5) (s : State) : Out := s.barrier a true

/-! ### Mailbox and promises (R183 to R185) -/

/-- Slots with a completed message of a row, earliest first, that its open chunk has not popped. -/
def State.messages (s : State) (rid : Nat) : List (Nat × MSlot) :=
  let gone := (s.thrOf rid).chunk.deferred
  let l := (s.cs (coreOfRid rid)).mbox.filter fun e => e.2.owner == some rid && e.2.msg.isSome && !(gone.contains (.mbx e.1))
  let first := l.foldl (fun m e => match m with
    | none => some e
    | some x => if e.2.order < x.2.order then some e else some x) none
  match first with | some e => [e] | none => []
def execMbxpop (d : BitVec 5) (s : State) : Out :=
  s.runWord (do
    let _ ← s.threadOnly
    match s.messages s.me with
    | (tag, m) :: _ => (s.modChunk s.me fun c => { c with deferred := c.deferred ++ [.mbx tag] }).dst d.toNat (m.msg.getD 0)
    | [] => s.dst d.toNat 0xFF00000000000000)
def execWaitmsg (s : State) : Out :=
  s.runWord (do
    let s ← s.blocking
    match s.messages s.me with
    | _ :: _ => .ok s
    | [] => wait 3 0 0)
def execSleepuntil (a : BitVec 5) (s : State) : Out :=
  s.runWord (do
    let _ ← s.threadOnly
    let (x, s) ← s.src a.toNat
    let tag := bits x.toNat 63 56
    let s ← s.alone
    match (s.cs s.myCore).mbox.find? fun e => e.1 == tag && e.2.owner == some s.me && !e.2.kept with
    | none => trap .promise x
    | some e =>
      if e.2.msg.isSome then .ok s
      else if reached s.cycle (x.toNat % 2 ^ 56) then trap .promise x
      else .error (.block 12 0 tag (some (x.toNat % 2 ^ 56))))

/-! ### Device steps -/

/-- Rows that wait in `RECV` for a packet that has come. -/
def State.wakeReceiver (s : State) (rid : Nat) : State :=
  if s.waits rid 2 && (s.findPacket rid (s.thrOf rid).waitArg).isSome then s.wakeRow rid else s
/-- A packet that reaches the receive queue of its row's tenant, in the core or in the tenant's image (20_scheduling.md R327): discarded for a NULL or
EXITED row (R176), refused where there is no room. -/
def State.packetIn (s : State) (p : Packet) (core : Nat) : Option State :=
  let rid := ridOf core p.row
  let st := (s.ctlOf rid).state
  if st = .null ∨ st = .exited then some (s.modCore core fun c => { c with rxdrop := c.rxdrop + 1 })
  else if 64 < rxFlits (s.csRow rid).rxq + 1 + p.flits.length then none
  else some (((s.modCsRow rid fun c => { c with rxq := c.rxq ++ [p] }).modThr rid fun t => { t with packetAt := s.cycle }).wakeReceiver rid)
/-- Whether two names name one row (R171). -/
def sameName (a b : W) : Bool :=
  bits a.toNat 48 48 == bits b.toNat 48 48 && bits a.toNat 23 0 == bits b.toNat 23 0 && (bits a.toNat 48 48 == 0 || bits a.toNat 47 39 == bits b.toNat 47 39)
/-- PACKET_ENTRY (R174): the released packet in a send buffer enters its receive queue. One to another package travels over a ready port (R355),
and keeps its buffer until that package has taken it into the receive queue or discarded it, which `flag` reports from there. Packets of one
sender row to one destination row keep their order. -/
def execPacketEntry (s : State) : Out :=
  let oct := s.sel.unit
  let i := s.sel.sub
  match tget none (s.octOf oct).hub i with
  | none => .next s
  | some b =>
    let first := !((s.octOf oct).hub.any fun e => match e.2 with
      | some x => x.released && x.rid == b.rid && sameName x.dest b.dest && decide (x.order < b.order)
      | none => false)
    if !b.released || !first || !s.viaReady b.via || s.heldBack oct (packetDest b.dest) b.order then .next s else
    let done : State → State := fun s => (s.freeSendBuf oct i).barRecheck b.rid
    let d := b.dest.toNat
    if bits d 48 48 = 1 then (if !s.sel.flag || (s.portsTo (bits d 47 39)).isEmpty then .next s else .next (done s))
    else
      let core := bits d 23 11
      let p : Packet := { row := bits d 10 0, remote := false, pkg := 0, core := coreOfRid b.rid, srow := rowOfRid b.rid, hdr := b.hdr,
                          flits := b.flits }
      match s.packetIn p core with
      | some s => .next (done s)
      | none => .next s
/-- PACKET_TIMEOUT (R175): at the boundary before the 65th bundle, the row's packet is cancelled and it traps. -/
def execPacketTimeout (s : State) : Out :=
  let rid := ridOf s.sel.unit s.sel.sub
  match (s.thrOf rid).packet with
  | none => .next s
  | some p =>
    if !s.running rid || !s.stepDone rid || p.bundles < 64 || (s.thrOf rid).mid then .next s
    else .next ((s.at rid (s.ctlOf rid).pc.toNat .serial0 none).stopTrap .packet 0 none false)
/-- BARRIER_WORD_WRITE (R178). -/
def execBarrierWordWrite (s : State) : Out :=
  if s.sel.unit < 32 ∧ s.sel.sub < 4096 ∧ s.sel.idx < 16 then
    .next (s.barStore s.sel.unit (barIndex s.sel.sub s.sel.idx) s.sel.data)
  else .next s
/-- DEADLINE_WAKE (R39): the cycle counter has reached the `DEADLINE` of a row that waits for it. -/
def execDeadlineWake (s : State) : Out :=
  let rid := ridOf s.sel.unit s.sel.sub
  let waitsDl := s.waits rid 12 || (s.waits rid 2 && bits (s.ctlOf rid).wake.toNat 35 35 == 1)
  if waitsDl && reached s.cycle (s.rowGet rid 0 7) then .next (s.wakeRow rid) else .next s

end Sys2Proof.Machine
end

