-- ==== Sys2Proof/Machine/Pages.lean ====
section
/-! DEFINITION. Frames, page table changes made by the device, and migrations (13_engines.md R245; 16_translation.md R281, R284 to R287). -/

namespace Sys2Proof.Machine

/-! ### The frame table and the free-frame stack (R286) -/

def leafFrame (e : Nat) : Nat := bits e 51 16
/-- A leaf with another frame. -/
def withFrame (e f : Nat) : Nat := bits e 63 52 * 2 ^ 52 + f % 2 ^ 36 * 65536 + e % 65536
/-- A leaf with a bit set or cleared. -/
def withBit (e i : Nat) (b : Bool) : Nat := if bits e i i = bit b then e else if b then e + 2 ^ i else e - 2 ^ i
def cowBit : Nat := 6
def migBit : Nat := 9
/-- Whether a frame has a count. -/
def State.counted (s : State) (ten f : Nat) : Bool := decide (f < bits (s.tenOf ten).ftlen.toNat 35 0)
def State.countAddr (s : State) (ten f : Nat) : Nat := bits (s.tenOf ten).ftbase.toNat 51 2 * 4 + 4 * f
def State.frameCount (s : State) (ten f : Nat) : Nat := s.peek (s.countAddr ten f) 4
def State.setCount (s : State) (ten f n : Nat) : State := s.poke (s.countAddr ten f) (bytesOf 4 n)
/-- The address of an entry of the free-frame stack. -/
def State.freeAddr (s : State) (ten i : Nat) : Nat := bits (s.tenOf ten).ffsbase.toNat 51 3 * 8 + 8 * i
def State.pushFrame (s : State) (ten f : Nat) : State :=
  let n := bits (s.tenOf ten).ffstop.toNat 23 0
  (s.poke (s.freeAddr ten n) (bytesOf 8 f)).modTen ten fun t => { t with ffstop := BitVec.ofNat 64 ((n + 1) % 2 ^ 24) }
def State.popFrame (s : State) (ten : Nat) : Option (Nat × State) :=
  let n := bits (s.tenOf ten).ffstop.toNat 23 0
  if n = 0 then none
  else some (s.peek (s.freeAddr ten (n - 1)) 8 % 2 ^ 36, s.modTen ten fun t => { t with ffstop := BitVec.ofNat 64 (n - 1) })
/-- A frame popped from the stack of a pool: 0 is HBM's, 1 that of the CXL pool, which no register of the manual names (R285; DESIGN CHOICE; entry
124). -/
def State.popPool (s : State) (ten pool : Nat) : Option (Nat × State) :=
  if pool = 0 then s.popFrame ten
  else match (s.tenOf ten).cxlFrames with
    | [] => none
    | f :: rest => some (f, s.modTen ten fun t => { t with cxlFrames := rest })
/-- A count decremented; at 0 its frame returns to the stack. -/
def State.dropCount (s : State) (ten f : Nat) : State :=
  let n := (s.frameCount ten f + (2 ^ 32 - 1)) % 2 ^ 32
  let s := s.setCount ten f n
  if n = 0 then s.pushFrame ten f else s

/-! ### Leaves -/

/-- The leaf of a 64 KiB page of a tenant: its entry and address, when its walk reaches level 0. -/
def State.leaf0 (s : State) (ten va : Nat) : Option (Nat × Nat) :=
  if bits (s.tenOf ten).root1.toNat 0 0 = 0 then none else
  match s.walk1 ten va with
  | .leaf _ e 16 a => some (e, a)
  | .invalid e 0 a => some (e, a)
  | _ => none
/-- A leaf written by the device, and its page invalidated (R281). -/
def State.setLeaf (s : State) (ten va addr e : Nat) : State := (s.poke addr (bytesOf 8 e)).tlbPage ten va
/-- The physical base of a frame that a stage-1 leaf names. -/
def State.frameBase (s : State) (ten f : Nat) : Option Nat :=
  if !s.hasStage2 ten then some (f * 65536)
  else match s.walk2 ten (f * 65536) with
    | .leaf base _ shift _ => some (base + f * 65536 % 2 ^ shift)
    | _ => none
/-- The target type of a frame. -/
def frameType (pa : Nat) : Nat := (ttOf (regionOf pa)).getD 7
/-- A 64 KiB frame copied to another, line by line. -/
def State.copyFrame (s : State) (src dst : Nat) : State :=
  (List.range 256).foldl (fun t i => t.poke (dst + 256 * i) (t.peekBytes (src + 256 * i) 256)) s

/-! ### Migrations (R285) -/

/-- Whether an access already translated to a 64 KiB frame has not reached its home or been performed. -/
def State.frameBusy (s : State) (base : Nat) : Bool :=
  s.inFlight.any fun a => decide (base ≤ a) && decide (a < base + 65536)
/-- The migration of a page of a tenant. -/
def State.migOfPage (s : State) (ten va : Nat) : Option Nat :=
  s.pkg.migs.findIdx? fun m => m.tenant == ten && m.va / 65536 == va / 65536
/-- How a migration begins: it does, it waits for a record or for earlier accesses, or there is no frame for it. -/
inductive MigStart where
  | begun (s : State)
  | waits
  | noFrame
  deriving Repr
/-- What names a location of an old frame by its address, and is not to be translated again, follows the page to its new frame: range locks and the
headers of sketches at work. The two frames are one location (R285). -/
def State.followPage (s : State) (old new : Nat) : State :=
  let go : Nat → Nat := fun a => if a / 65536 = old / 65536 then new + a % 65536 else a
  { s with
    clu := s.clu.map fun c => (c.1, { c.2 with locks := c.2.locks.map fun l => l.move old new })
    core := s.core.map fun c => (c.1, { c.2 with qbufs := c.2.qbufs.map fun q => { q with hpa := go q.hpa } })
    pip := s.pip.map fun p => { p with hpa := go p.hpa } }
/-- A leaf as a migration leaves it (step 2): the new frame, `V`, `MIG` and `TT`. Of a parked entry `R`, `W`, `X`, `PIN` and `COW`
stay, and the bits that hardware ignores; it never gets `CCAP` (22_near_memory.md R333). -/
def movedLeaf (e f tt : Nat) : Nat :=
  let e := if bits e 0 0 = 1 then e else bits e 63 56 * 2 ^ 56 + bits e 6 2 * 4
  let e := withBit (withBit (withFrame e f) 0 true) migBit true
  e - bits e 12 10 * 1024 + tt * 1024
/-- `TT` of the leaf of a page that moves to a frame of a pool: 0 after a fault-in, 5 in the CXL pool, else the type of the frame. -/
def movedType (parked : Bool) (pool new : Nat) : Nat := if parked then 0 else if pool = 1 then 5 else frameType new
/-- A page with leaf `e` at `addr` begins to move to a frame popped from the stack of a pool (steps 1 and 2). -/
def State.migrate (s : State) (ten va e addr pool : Nat) : MigStart :=
  if 256 ≤ s.pkg.migs.length then .waits else
  match s.popPool ten pool, s.frameBase ten (leafFrame e) with
  | some (f, s'), some old =>
    match s.frameBase ten f with
    | some new =>
      if s.frameBusy old then .waits
      else
        let m : Migration := { tenant := ten, va := va / 65536 * 65536, leaf := addr, old := old, new := new, oldFrame := leafFrame e }
        .begun (((s'.modPkg fun p => { p with migs := p.migs ++ [m] }).setLeaf ten va addr (movedLeaf e f (movedType (bits e 0 0 == 0) pool new))).followPage old new)
    | none => .noFrame
  | _, _ => .noFrame
/-- A migration all of whose lines have come ends (step 4). -/
def State.migFinish (s : State) (i : Nat) : State :=
  match s.pkg.migs[i]? with
  | none => s
  | some m =>
    if m.valid ≠ BitVec.allOnes 256 then s else
    let s := s.setLeaf m.tenant m.va m.leaf (withBit (s.peek m.leaf 8) migBit false)
    let s := s.modPkg fun p => { p with migs := p.migs.eraseIdx i }
    if inHbm m.old then s.pushFrame m.tenant m.oldFrame
    else s.hfr 4 m.tenant [BitVec.ofNat 64 m.va, BitVec.ofNat 64 m.oldFrame]
/-- The next line of a migration copied in ascending order (step 3). -/
def State.migStep (s : State) (i : Nat) : State :=
  match s.pkg.migs[i]? with
  | none => s
  | some m =>
    match m.nextLine with
    | some l => (s.pullLine i l).migFinish i
    | none => s.migFinish i

/-! ### Copy-on-write (R287) -/

/-- The headers of sketches at work on a page that is now its own copy: what a thread has posted there stands before what it issues later (18_sketches.md
R309). Other pages go on sharing the old frame. -/
def State.followCopy (s : State) (ten va old new : Nat) : State :=
  let go : Nat → Nat → Nat → Nat := fun t hva a =>
    if t = ten ∧ hva / 65536 = va / 65536 ∧ a / 65536 = old / 65536 then new + a % 65536 else a
  { s with
    core := s.core.map fun c => (c.1, { c.2 with qbufs := c.2.qbufs.map fun q => { q with hpa := go (s.rowTenant q.rid) q.hva q.hpa } })
    pip := s.pip.map fun p => { p with hpa := go p.tenant p.hva p.hpa } }
/-- A copy-on-write fault on the page of a leaf served; none where it passes to the host. -/
def State.serveCow (s : State) (ten va e addr : Nat) : Option State :=
  let o := leafFrame e
  if !s.counted ten o then none
  else if s.frameCount ten o = 1 then some (s.setLeaf ten va addr (withBit e cowBit false))
  else match s.popFrame ten with
    | none => none
    | some (n, s) =>
      match s.frameBase ten o, s.frameBase ten n with
      | some a, some b =>
        let s := (s.copyFrame a b).setCount ten n 1
        some (((s.setLeaf ten va addr (withBit (withFrame e n) cowBit false)).followCopy ten va a b).dropCount ten o)
      | _, _ => none

end Sys2Proof.Machine
end

