-- ==== Sys2Proof/Machine/Engines.lean ====
section
/-! DEFINITION. The octet copy engines (13_engines.md R238 to R251): issue, beats, completion; transfer barriers (R252, R253); streams
(R254 to R256); the page kinds (R245; 16_translation.md R285, R286). -/

namespace Sys2Proof.Machine

/-! ### Specifications (R243 to R247, R306) -/

/-- The header dword of a spec: its fixed zeros, `ABAR` without `ARR`, and the fields that only some kinds use. A nonzero `ESZ` of a `COPY`, and a
nonzero `SW` of `XGATHER`, `XSCATTER` and `XREDUCE`, is refused as well, where R243 states no zero rule for the field (DESIGN CHOICE; entry 96). -/
def headerOk (d0 : Nat) (nsrc esz sw : Bool) : Bool :=
  bits d0 63 48 == 0 && bits d0 42 30 == 0 && bits d0 27 27 == 0 && bits d0 23 11 == 0 && (bits d0 43 43 == 1 || bits d0 47 44 == 0)
    && (nsrc || bits d0 29 28 == 0) && (esz || bits d0 26 24 == 0) && (sw || bits d0 10 8 == 0)
/-- An address of a spec: 57 bits, a multiple of `m`; that of a page, a multiple of 64 KiB. -/
def addr57 (a m : Nat) : Bool := bits a 63 57 == 0 && a % m == 0
def pageOk (a : Nat) : Bool := addr57 a 65536
def zeroDwords (b : BitVec 512) (l : List Nat) : Bool := l.all fun i => dword b i == 0

def copyOk (b : BitVec 512) : Bool :=
  let d := dword b
  let sw := bits (d 0) 10 8
  let nl := bits (d 3) 63 32
  let len := bits (d 3) 31 0
  let dstr := bits (d 4) 63 32
  headerOk (d 0) false false true && addr57 (d 1) 16 && addr57 (d 2) 16 && decide (1 ≤ nl) && decide (nl ≤ 65536)
    && decide (16 ≤ len) && decide (len ≤ 2 ^ 24) && len % 16 == 0 && dstr % 16 == 0 && bits (d 4) 31 0 % 16 == 0
    && (sw == 0 || (dstr % (16 * 2 ^ sw) == 0 && decide (len ≤ dstr))) && zeroDwords b [5, 6, 7]
def pageKindOk (b : BitVec 512) : Bool :=
  let d := dword b
  let kind := kindOf b
  let n := bits (d 3) 31 0
  headerOk (d 0) false false false && pageOk (d 1) && pageOk (d 2) && (kind != 2 || d 1 == 0) && (kind != 3 || d 2 == 0)
    && bits (d 3) 63 32 == 0 && decide (1 ≤ n) && decide (n ≤ 65536) && decide (d 4 ≤ (if kind = 3 then 1 else 0)) && zeroDwords b [5, 6, 7]
def gatherOk (b : BitVec 512) : Bool :=
  let d := dword b
  let e := eszOf b
  let limit := bits (d 4) 63 32
  let n := bits (d 4) 31 0
  headerOk (d 0) false true false && kindOf b == 0 && decide (e ≤ 64) && addr57 (d 1) e && addr57 (d 2) e && addr57 (d 3) 4
    && decide (1 ≤ limit) && decide (limit ≤ 0xFFFFFFFE) && decide (1 ≤ n) && decide (n ≤ 2 ^ 24)
    && d 5 != 0 && bits (d 5) 63 32 == 0 && d 5 % e == 0 && zeroDwords b [6, 7]
def reduceOk (b : BitVec 512) : Bool :=
  let d := dword b
  if kindOf b = 3 then
    headerOk (d 0) false false false && addr57 (d 1) 64 && addr57 (d 2) 64 && zeroDwords b [3, 4, 5, 6, 7]
  else
    let ty := bits (d 0) 26 24
    let e := redSize b
    let n := d 3
    headerOk (d 0) true true false && decide (kindOf b ≤ 2) && (ty == 0 || ty == 1 || ty == 3) && addr57 (d 2) e
      && (redSources b).all (fun a => addr57 a e) && decide (1 ≤ n) && decide (n ≤ 2 ^ 24) && d 4 == 0
      && zeroDwords b ([5, 6, 7].drop (bits (d 0) 29 28))
def skaddOk (b : BitVec 512) : Bool :=
  headerOk (dword b 0) false false false && kindOf b == 0 && addr57 (dword b 1) 64 && addr57 (dword b 2) 64 && zeroDwords b [3, 4, 5, 6, 7]
def specOk (op : EngOp) (b : BitVec 512) : Bool :=
  match op with
  | .xcopy => if kindOf b = 0 then copyOk b else decide (kindOf b ≤ 3) && pageKindOk b
  | .xgather | .xscatter => gatherOk b
  | .xreduce => reduceOk b
  | .skadd => skaddOk b

/-! ### Ranges and beats (R242, R248) -/

/-- The destination header of a sum of sketches as its issue reads it (R242), through a pinned core translation of the row: its physical address; none
where it cannot be read so; an issue waits for a line of a migrating page (16_translation.md R282). -/
def State.ownHeader (s : State) (rid : Nat) (op : EngOp) (b : BitVec 512) : Res (Option Nat) :=
  if !sumsSketch op b then .ok none else
  match s.coreXlat rid (dword b 2) .read with
  | .ok pa _ _ => .ok (if engineTarget (regionOf pa) then some pa else none)
  | .line => stall
  | .access _ => .ok none
/-- The beats of a command (R242), given where the destination header of a sum of sketches stands. -/
def State.ownBeats (s : State) (op : EngOp) (b : BitVec 512) (header : Option Nat) : Nat :=
  let d := dword b
  if sumsSketch op b then (header.map fun pa => sumBeats (op == .skadd) (BitVec.ofNat 512 (s.peek pa 64))).getD 2
  else match op with
    | .xcopy =>
      if kindOf b = 0 then bits (d 3) 63 32 * ((bits (d 3) 31 0 + 63) / 64)
      else (if kindOf b = 3 then 1024 else 16) * bits (d 3) 31 0
    | .xgather | .xscatter => bits (d 4) 31 0
    | _ => (bits (d 0) 29 28 + 1) * ((d 3 * redSize b + 63) / 64)
/-- `Lat` (R242): by the regions that the pages of the ranges lie in; an untranslated page counts as HBM. A command of a page kind has no range and
takes 300. `far` says that a sketch lies in another package. -/
def State.engineLat (s : State) (k ten : Nat) (rs : List VRange) (far : Bool) : Nat :=
  let runs := rs.map fun r => (r.len, s.rangeLocks k ten r)
  let regions := runs.flatMap fun r => r.2.map fun l => regionOf l.lo
  let isFar : Region → Bool := fun r => match r with | .host | .remote _ _ => true | _ => false
  let isRow : Region → Bool := fun r => match r with | .rowStore _ _ => true | _ => false
  let whole := runs.all fun r => decide ((r.2.foldl (fun n l => n + (l.hi + 1 - l.lo)) 0) = r.1)
  if far || regions.any isFar then 3000
  else if whole && !rs.isEmpty && regions.all isRow then 64
  else 300
/-- Whether every source range lies in row stores of the issuing cluster, so that `CLUSTER` is the destination scope of all (R149). -/
def State.localSources (s : State) (k ten : Nat) (rs : List VRange) : Bool :=
  rs.all fun r => r.write ||
    (let l := s.rangeLocks k ten r
     l.all (fun x => clusterHome x.lo == some k && clusterHome x.hi == some k) &&
       decide ((l.foldl (fun n x => n + (x.hi + 1 - x.lo)) 0) = r.len))
/-- The wait of R149 for the source ranges of a command: every earlier store of the thread, posted operations among them (18_sketches.md R310), is
visible at the widest destination scope of a source. -/
def State.sourcesReady (s : State) (k ten : Nat) (rs : List VRange) (far : Bool) : Res Unit :=
  if if !far && s.localSources k ten rs then s.storesSeen s.me && s.postedDone s.me else s.storesHome s.me then .ok () else stall
/-- Whether a sketch of a command lies in another package. -/
def State.farSketch (s : State) (k ten : Nat) (op : EngOp) (b : BitVec 512) : Bool :=
  sumsSketch op b && [dword b 1, dword b 2].any fun va => match s.peekHeader k ten va with
    | some (.remote _ _, _) => true
    | _ => false
/-- Beats that an octet's engine has not moved yet, of queued and active commands and of those at the bar (R242). -/
def State.beatsAhead (s : State) (oct : Nat) : Nat :=
  let o := s.octOf oct
  let sum : List ECmd → Nat := fun l => l.foldl (fun n c => n + c.beats) 0
  sum o.queue + sum o.active + sum (s.ten.flatMap fun t => t.2.bar.filterMap fun b => match b.what with
    | .engine x c => if x = oct then some c else none
    | _ => none)

/-! ### Issue (R241) -/

/-- `D` of a sum of sketches bound when the read of its destination header returns (R242, R154). -/
def State.bindPromise (s : State) (d pa : Nat) (skadd : Bool) (tag sum : Nat) : Res State := do
  let (id, s) ← s.bindLater (.scalar d false) pa 64 [] false false
  .ok (s.modThr s.me fun t => { t with loads := t.loads.map fun l => if l.id = id then { l with promise := some (skadd, tag, sum) } else l })
/-- An engine command issued from spec segment `sg`. -/
def State.engineIssue (s : State) (d : BitVec 5) (sg : BitVec 4) (op : EngOp) : Out :=
  s.runWord (do
    let _ ← s.threadOnly
    let x ← s.seg sg.toNat
    let b := BitVec.ofNat 512 x
    if !specOk op b then trap .illegal 0
    let s ← s.alone
    if s.vecBusy s.me then stall
    let core := s.myCore
    let k := s.myCluster
    let ten := s.rowTenant s.me
    let rs := s.engineRanges k ten op b
    let far := s.farSketch k ten op b
    let _ ← s.sourcesReady k ten rs far
    match s.slotFor s.me with
    | none => wait 3 0 1
    | some tag =>
      match s.commandLocks k ten (fun _ => true) rs [] with
      | .error a => trap .access (BitVec.ofNat 64 a)
      | .ok locks =>
        if locks ≠ [] && !s.locksGrant s.me locks.length then wait 11 0 locks.length
        let header ← s.ownHeader s.me op b
        let (id, s) := s.tick
        let own := s.ownBeats op b header
        let sum := s.cycle + s.engineLat k ten rs far + s.beatsAhead (octetOf core)
        let s := ((s.modThr s.me fun t => { t with lockClaim := 0 }).takeSlot s.me tag).addLocks k id locks
        let s := s.modOct (octetOf core) fun o => { o with
          queue := o.queue ++ [{ id := id, op := op, rid := s.me, tenant := ten, tag := tag, spec := b, beats := own }] }
        match header with
        | none => s.dst d.toNat (BitVec.ofNat 64 (promiseWord tag (sum + own)))
        | some pa => s.bindPromise d.toNat pa (op == .skadd) tag sum)
def execXcopy (d : BitVec 5) (sg : BitVec 4) (s : State) : Out := s.engineIssue d sg .xcopy
def execXgather (d : BitVec 5) (sg : BitVec 4) (s : State) : Out := s.engineIssue d sg .xgather
def execXscatter (d : BitVec 5) (sg : BitVec 4) (s : State) : Out := s.engineIssue d sg .xscatter
def execXreduce (d : BitVec 5) (sg : BitVec 4) (s : State) : Out := s.engineIssue d sg .xreduce

/-! ### Beats (R239, R244 to R247) -/

/-- What a command writes as: its layout tag for NULL rows, where it gives them one (R244). -/
def ECmd.writer (c : ECmd) (ltag : Option Nat) : Writer := { ten := c.tenant, id := c.id, ltag := ltag, tagged := c.tagged }
/-- Rows that a command writes first are tagged while NULL (R244): every row it writes is noted. -/
def State.tagRows (s : State) (c : ECmd) (ltag : Nat) : List (Nat × Nat) → ECmd × State
  | [] => (c, s)
  | (pa, _) :: rest =>
    match rowAt pa with
    | some rid =>
      if c.tagged.contains rid then s.tagRows c ltag rest
      else
        let s := if (s.ctlOf rid).state = .null ∧ !s.busyBank pa then s.modCtl rid fun x => { x with wake := BitVec.ofNat 36 ltag } else s
        s.tagRows { c with tagged := c.tagged ++ [rid] } ltag rest
    | none => s.tagRows c ltag rest
/-- Byte strings that a beat of a command writes at virtual addresses. -/
def State.cmdPuts (s : State) (k : Nat) (c : ECmd) (ltag : Nat) (outs : List (Nat × List Byte)) : Except EStop (ECmd × State) := do
  let (l, s) ← s.unitPuts k (c.writer (some ltag)) outs
  .ok ((s.beatSlots l).tagRows c ltag l)
/-- One beat of a `COPY` (R244). -/
def State.copyBeat (s : State) (k : Nat) (c : ECmd) : Except EStop (ECmd × State) := do
  let d := dword c.spec
  let sw := bits (d 0) 10 8
  let len := bits (d 3) 31 0
  let per := (len + 63) / 64
  let l := c.pos / per
  let o := c.pos % per * 64
  let n := min 64 (len - o)
  let (bs, s) ← s.unitGet k c.tenant (d 1 + l * bits (d 4) 31 0 + o) n
  let outs := (List.range (n / 16)).map fun i =>
    (d 2 + l * bits (d 4) 63 32 + (((o / 16 + i) ^^^ (l % 2 ^ sw)) * 16), (bs.drop (16 * i)).take 16)
  let (c, s) ← s.cmdPuts k c (8 + sw) outs
  let last := decide (c.pos + 1 = bits (d 3) 63 32 * per)
  .ok ({ c with pos := c.pos + 1, beats := c.beats - 1, done := last }, s)
/-- One position of an `XGATHER` or `XSCATTER` (R246). -/
def State.gatherBeat (s : State) (k : Nat) (c : ECmd) : Except EStop (ECmd × State) := do
  let d := dword c.spec
  let e := eszOf c.spec
  let j := c.pos
  let gather := c.op == .xgather
  let (ib, s) ← s.unitGet k c.tenant (d 3 + 4 * j) 4
  let x := ofBytes ib
  let dense := d 2 + j * e
  let table := d 1 + x * d 5
  let (c, s) ←
    if x = 0xFFFFFFFF then .ok ({ c with skip := c.skip + 1 }, s)
    else if bits (d 4) 63 32 ≤ x then
      (if gather then do
        let (c, s) ← s.cmdPuts k c 8 [(dense, List.replicate e 0)]
        .ok ({ c with oor := c.oor + 1 }, s)
       else .ok ({ c with oor := c.oor + 1 }, s))
    else do
      let (bs, s) ← s.unitGet k c.tenant (if gather then table else dense) e
      s.cmdPuts k c 8 [(if gather then dense else table, bs)]
  .ok ({ c with pos := j + 1, beats := c.beats - 1, info := BitVec.ofNat 48 (c.skip * 2 ^ 24 + c.oor),
                done := decide (j + 1 = bits (d 4) 31 0) }, s)
/-- The fold of one element (R247). -/
def redOp (kind ty v x : Nat) : Nat :=
  if kind = 0 then
    (match laneFmt ty with
     | some f => (rnd f .rne false ((valOf f v).add false (valOf f x))).enc
     | none => (v + x) % 2 ^ 32)
  else laneMinMax ty (kind == 1) v x
/-- Elements of an elementwise `XREDUCE` from `i` on, each folded and written before the next is read; `done` holds what the beat has written. -/
def State.reduceElems (s : State) (k : Nat) (c : ECmd) : Nat → Nat → List (Nat × Nat) → Except EStop (List (Nat × Nat) × State)
  | 0, _, done => .ok (done, s)
  | f + 1, i, done => do
    let e := redSize c.spec
    let dst := dword c.spec 2 + i * e
    let (b, s) ← s.unitGet k c.tenant dst e
    let (v, s) ← (redSources c.spec).foldlM (fun (acc : Nat × State) a => do
      let (b, s) ← acc.2.unitGet k c.tenant (a + i * e) e
      .ok (redOp (kindOf c.spec) (bits (dword c.spec 0) 26 24) acc.1 (ofBytes b), s)) (ofBytes b, s)
    match s.unitPuts k (c.writer (some 8)) [(dst, bytesOf e v)] with
    | .ok (l, s) => s.reduceElems k c f (i + 1) (done ++ l)
    | .error (.dropped t) => .error (.dropped ((t.beatSlots done).tagPieces (c.writer (some 8)) done))
    | .error e => .error e
/-- One beat of an elementwise `XREDUCE`: 64 bytes of each source take a beat, and the last of them folds and writes their elements. `skip` counts the
beats that the sources before the last have taken. -/
def State.reduceBeat (s : State) (k : Nat) (c : ECmd) : Except EStop (ECmd × State) := do
  let n := dword c.spec 3
  if c.skip < bits (dword c.spec 0) 29 28 then .ok ({ c with skip := c.skip + 1, beats := c.beats - 1 }, s)
  else
    let m := min (64 / redSize c.spec) (n - c.pos)
    let (l, s) ← s.reduceElems k c m c.pos []
    let (c, s) := (s.beatSlots l).tagRows c 8 l
    .ok ({ c with pos := c.pos + m, skip := 0, beats := c.beats - 1, done := decide (c.pos + m = n) }, s)
/-- The step of a sum of sketches that comes next once its source is read (R306; 19_sketch_at_work.md R314): the OR of flags that it owes the source's or
the destination's `SATF`, else the addition of the next counter, and after the last the source's `SATF`, which the destination's is owed then. `skip` says that
it has been read. -/
def State.sumAdd (s : State) (k : Nat) (c : ECmd) (spa dpa i : Nat) (ok : Region → Bool) : Except EStop (ECmd × State) := do
  let whole := c.op != .skadd
  let src := sketchOf c.hs
  let w := c.writer (if whole then some 8 else none)
  let sva := dword c.spec 1
  let dva := dword c.spec 2
  let rowOf : Nat → List Nat := fun pa => (rowAt pa).toList
  let wrote : ECmd → Nat → ECmd := fun c pa => if whole then { c with tagged := c.tagged ++ (rowOf pa).filter fun r => !c.tagged.contains r } else c
  if c.owesS ≠ 0 then
    let (pa, s) ← s.orSatf k w sva c.owesS ok
    return (wrote { c with owesS := 0 } pa, s)
  if c.owesD ≠ 0 then
    let (pa, s) ← s.orSatf k w dva c.owesD ok
    return (wrote { c with owesD := 0, done := c.skip == 1 } pa, s)
  if src.count ≤ i then
    let (f, s) ← s.unitRead k c.tenant (sva + 32) 8 ok
    let f := bits (ofBytes f) 8 0
    return ({ c with owesD := f, skip := 1, done := f == 0 }, s)
  let (a, s) ← if whole then .ok ((c.buf.drop (i * src.bytes)).take src.bytes, s) else s.sumRead k c.tenant spa (src.addr i) src.bytes ok
  let (fs, fd, sat, pa, s) ← s.sumCounter k w (sketchOf c.hd) dpa i a ok
  let spent := decide (i + 1 = src.count) || (i + 1) * src.bytes % 64 == 0
  .ok (wrote { c with pos := c.pos + 1, owesS := fs, owesD := fd, info := c.info ||| (if sat then 1 else 0),
                      beats := if spent then c.beats - 1 else c.beats } pa, s)
/-- One step of a sum of sketches: `SKSUM` first reads all of its source, 64 bytes in a beat; then, and in `SKADD` from the start, counter after
counter is added, 64 bytes of them to a beat. A fault before anything is written restarts an `SKSUM` whole. -/
def State.sumBeat (s : State) (k : Nat) (c : ECmd) : Except EStop (ECmd × State) := do
  let whole := c.op != .skadd
  let ok := if whole then engineTarget else sketchTarget
  let (spa, hs, s) ← s.readHeader k c.tenant (dword c.spec 1) false ok
  let (dpa, hd, s) ← s.readHeader k c.tenant (dword c.spec 2) true ok
  let c : ECmd := if c.pos = 0 then { c with hs := hs, hd := hd, buf := [] } else c
  if c.pos = 0 && (!sketchValid hs || !sketchValid hd || (sketchOf hs).shape != (sketchOf hd).shape) then .error (.abort .skmismatch)
  let src := sketchOf c.hs
  let g := c.pos
  if whole && decide (g < src.groups) then do
    let (bs, s) ← s.sumRead k c.tenant spa (src.cadr + 64 * g) (min 64 (src.size - 64 * g)) ok
    let (_, s) ← s.sumXlat k c.tenant dpa ((sketchOf c.hd).cadr + 64 * g) true ok
    .ok ({ c with pos := g + 1, beats := c.beats - 1, buf := c.buf ++ bs }, s)
  else s.sumAdd k c spa dpa (if whole then c.pos - src.groups else c.pos) ok

/-! ### Page kinds (R245, R286) -/

/-- A page of a command found mapped by a 64 KiB leaf, or why not. A page mapped by a larger leaf is not one that a page kind takes. -/
def State.pageLeaf (s : State) (ten va : Nat) : Except EStop (Nat × Nat) :=
  match s.walk ten va with
  | .stage2 ipa during => .error (.bar { cause := .stage2, va := va, during := during, ipa := ipa })
  | .absent parked leaf => .error (.bar { cause := .page, va := va, parked := parked, leaf := leaf })
  | .bad => .error (.abort .perm)
  | .ok _ => match s.leaf0 ten va with
    | some x => .ok x
    | none => .error (.abort .perm)
/-- The leaf place of a destination page, mapped or not. -/
def State.pageSlot (s : State) (ten va : Nat) : Except EStop (Nat × Nat) :=
  match s.leaf0 ten va with
  | some x => .ok x
  | none => match s.walk1 ten va with
    | .stage2 ipa => .error (.bar { cause := .stage2, va := va, during := true, ipa := ipa, write := true })
    | .invalid _ _ _ => .error (.bar { cause := .page, va := va, write := true })
    | _ => if bits (s.tenOf ten).root1.toNat 0 0 = 0 then .error (.bar { cause := .page, va := va, write := true }) else .error (.abort .perm)
/-- A page done, with the beats that are taken off the command for it now. -/
def ECmd.pageDone (c : ECmd) (beats : Nat) : ECmd :=
  { c with pos := c.pos + 1, beats := c.beats - beats, oor := 0, skip := 0, info := BitVec.ofNat 48 (c.pos + 1),
           done := decide (c.pos + 1 = bits (dword c.spec 3) 31 0) }
/-- One of the 16 beats of a page of a `PAGESHARE` or `PAGEDROP` (R242): the first of them has the effect, `skip` counts those taken. -/
def ECmd.pageBeat (c : ECmd) : ECmd := if c.skip = 15 then c.pageDone 1 else { c with skip := c.skip + 1, beats := c.beats - 1 }
/-- A beat of a `PAGESHARE`. The leaf of a `DST` page that is mapped already is overwritten, and the reference count of the frame it named stays as it
was: R245 does not say what becomes of the old mapping (DESIGN CHOICE; entry 98). -/
def State.shareBeat (s : State) (c : ECmd) : Except EStop (ECmd × State) := do
  if c.skip ≠ 0 then return (c.pageBeat, s)
  let va := dword c.spec 1 + 65536 * c.pos
  let dst := dword c.spec 2 + 65536 * c.pos
  let ten := c.tenant
  let (e, a) ← s.pageLeaf ten va
  if bits e migBit migBit = 1 && (s.migOfPage ten va).isSome then .error .hold
  if !s.counted ten (leafFrame e) then .error (.abort .perm)
  let (_, da) ← s.pageSlot ten dst
  let e' := withBit (withBit e cowBit true) migBit false
  let s := (s.setLeaf ten va a e').setLeaf ten dst da e'
  .ok (c.pageBeat, s.setCount ten (leafFrame e) ((s.frameCount ten (leafFrame e) + 1) % 2 ^ 32))
def State.dropBeat (s : State) (c : ECmd) : Except EStop (ECmd × State) := do
  if c.skip ≠ 0 then return (c.pageBeat, s)
  let dst := dword c.spec 2 + 65536 * c.pos
  let ten := c.tenant
  let (e, a) ← s.pageLeaf ten dst
  if bits e migBit migBit = 1 && (s.migOfPage ten dst).isSome then .error .hold
  if !s.counted ten (leafFrame e) then .error (.abort .perm)
  .ok (c.pageBeat, (s.setLeaf ten dst a 0).dropCount ten (leafFrame e))
/-- One beat of a `PAGEMOVE`: the migration of its page begins, a line of it takes its 4 beats and is copied at the last, or the page is done. Every
migration while `FNMODE`[2] = 1, and one that finds its pool's stack empty, is passed to the host, and after its service the page is done. `oor` is 1
while the page's migration runs, and 2 after the host has been asked for the page; `skip` counts the beats of the line that is copied. -/
def State.moveBeat (s : State) (c : ECmd) : Except EStop (ECmd × State) := do
  let va := dword c.spec 1 + 65536 * c.pos
  let ten := c.tenant
  match c.oor, s.migOfPage ten va with
  | 1, some i =>
    if c.skip < 3 then .ok ({ c with skip := c.skip + 1, beats := c.beats - 1 }, s)
    else
      let s := s.migStep i
      .ok (if (s.migOfPage ten va).isNone then c.pageDone 1 else { c with skip := 0, beats := c.beats - 1 }, s)
  | 1, none => .ok (c.pageDone 0, s)
  | 2, _ => .ok (c.pageDone 1024, s)
  | _, some _ => .error .hold
  | _, none =>
    let (e, a) ← s.pageLeaf ten va
    if !s.counted ten (leafFrame e) || bits e 7 7 = 1 then .error (.abort .perm)
    if s.pkg.fnmode.getLsbD 2 then .error (.bar { cause := .page, va := va, write := true })
    match s.migrate ten va e a (bits (dword c.spec 4) 2 0) with
    | .begun s => .ok ({ c with oor := 1 }, s)
    | .waits => .error .hold
    | .noFrame => .error (.bar { cause := .page, va := va, write := true })

/-- One beat of a command. -/
def State.cmdBeat (s : State) (k : Nat) (c : ECmd) : Except EStop (ECmd × State) :=
  match c.op with
  | .xcopy =>
    let kind := kindOf c.spec
    if kind = 0 then s.copyBeat k c else if kind = 1 then s.shareBeat c else if kind = 2 then s.dropBeat c else s.moveBeat c
  | .xgather | .xscatter => s.gatherBeat k c
  | .xreduce => if kindOf c.spec = 3 then s.sumBeat k c else s.reduceBeat k c
  | .skadd => s.sumBeat k c

/-! ### The engine (R238, R249 to R251) -/

/-- Whether a completion for a core is discarded: its command was issued before the core last changed its owner (24_tenancy_boot.md R361). -/
def State.discards (s : State) (core id : Nat) : Bool := decide (id < (s.coreOf core).wiped)
/-- A command's completion: locks freed, its arrival made, its message posted. -/
def State.completeCmd (s : State) (oct : Nat) (c : ECmd) : State :=
  let core := coreOfRid c.rid
  let d0 := dword c.spec 0
  let s := s.freeLocks (clusterOfOct oct) c.id
  if s.discards core c.id then s else
  let s := if bits d0 43 43 = 1 then s.tbArrive core c.tenant (bits d0 47 44) else s
  s.post core c.tenant c.tag c.status.toNat c.info.toNat
/-- What a command becomes when a fault stops it (R250): a sum that has written nothing starts again with the beats that it must make again, and
a `PAGEMOVE` notes that it asked for its page. -/
def ECmd.atStop (c : ECmd) (write : Bool) : ECmd :=
  if sumsSketch c.op c.spec && c.op != .skadd && decide (c.pos < (sketchOf c.hs).groups) then
    { c with pos := 0, buf := [], started := true, beats := c.beats + c.pos }
  else { c with started := true, oor := if c.op = .xcopy ∧ kindOf c.spec = 3 ∧ write then 2 else c.oor }
/-- An active command stopped for good with a cause. -/
def State.abortActive (s : State) (oct i : Nat) (cause : Cause) : State :=
  s.modOct oct fun o => { o with active := modAt o.active i fun c => { c with done := true, beats := 0, status := BitVec.ofNat 8 cause.code } }
/-- An active command taken from its place; the next turn goes to the same command as before (R238). -/
def State.dropActive (s : State) (oct i : Nat) : State :=
  s.modOct oct fun o => { o with active := o.active.eraseIdx i, rr := if i < o.rr then o.rr - 1 else o.rr }
/-- The result of a beat put back: the command goes on, stops at the bar, or aborts. -/
def State.afterBeat (s : State) (oct i : Nat) (c : ECmd) : Except EStop (ECmd × State) → State
  | .ok (c, t) => t.modOct oct fun o => { o with active := modAt o.active i fun _ => c }
  | .error (.bar x) => (s.dropActive oct i).toBar c.tenant (clusterOfOct oct) (.engine oct (c.atStop x.write)) x
  | .error (.abort cause) => s.abortActive oct i cause
  | .error (.dropped t) => t.abortActive oct i .owner
  | .error .hold => s
/-- The active command at a place that still has beats and waits for no held write and no range-lock entry. -/
def State.activeAt (s : State) (oct i : Nat) : Option ECmd :=
  match (s.octOf oct).active[i]? with
  | some c => if c.done || s.writeHeld c.id || s.lateFor (clusterOfOct oct) c.id then none else some c
  | none => none
/-- COMMAND_START (R238): the head of the queue becomes active when fewer than four are. One that waits for range-lock entries since the service of a
page (17_fault_replay.md R290; entry 101) is passed, as one at the bar is. -/
def execCommandStart (s : State) : Out :=
  let oct := s.sel.unit
  let o := s.octOf oct
  match o.queue.find? fun c => !s.lateFor (clusterOfOct oct) c.id with
  | none => .next s
  | some c =>
    if 4 ≤ o.active.length then .next s
    else .next (s.modOct oct fun o => { o with
      queue := o.queue.filter fun x => x.id != c.id, active := o.active ++ [{ c with started := true }] })
/-- COMMAND_COMPLETE (R249): every write of this model's beats is at its home, but for those that a BUSY octet holds, so a command completes once its
last beat has moved and none of its writes is held. -/
def execCommandComplete (s : State) : Out :=
  let oct := s.sel.unit
  match (s.octOf oct).active[s.sel.sub]? with
  | none => .next s
  | some c =>
    if !c.done || s.writeHeld c.id then .next s
    else .next ((s.dropActive oct s.sel.sub).completeCmd oct c)

/-! ### Streams (R254 to R256) -/

/-- The next element of a stream that is not staged, when the engine may stage it: its address. -/
def State.refillAt (s : State) (st : Stage) : Option Nat :=
  let off := 256 + 16 * (st.reg - 24)
  let w0 := s.rowGet st.rid off 8
  let w1 := s.rowGet st.rid (off + 8) 8
  let n := st.vals.length
  let step := (BitVec.ofNat 32 (bits w1 63 32)).toInt
  let a := (((bits w0 56 0 : Int) + (n : Int) * step) % (2 ^ 57 : Int)).toNat
  if bits w0 63 63 = 0 ∨ st.bar ∨ (st.failed.isSome ∧ st.failedAt = a) ∨ bits w1 31 0 ≤ n ∨ 128 < (n + 1) * 2 ^ bits w0 58 57
      ∨ (s.ctlOf st.rid).state = .held ∨ s.lateFor (clusterOfRid st.rid) st.lock then none
  else some a
/-- A stream's place in its core changed. -/
def State.modStage (s : State) (rid reg : Nat) (f : Stage → Stage) : State :=
  s.modCore (coreOfRid rid) fun c => { c with streams := c.streams.map fun x => if x.rid = rid ∧ x.reg = reg then f x else x }
/-- Readers of a stream woken. -/
def State.wakeReader (s : State) (rid reg : Nat) : State :=
  if s.waits rid 4 && (s.ctlOf rid).wake.toNat == reg - 24 then s.wakeRow rid else s
/-- What a reader is told of an access that stopped (15_traps.md R258): the address, or the physical address of an uncorrectable word. -/
def State.errorAt (s : State) (k ten va : Nat) (c : Cause) : Nat :=
  if c ≠ .uncorr then va else
  match (s.xlatCluster k ten va).1 with
  | .ok e => (s.uncorrAt (e.at va) 8).getD (e.at va)
  | _ => va
/-- One element of a stream staged. -/
def State.refill (s : State) (st : Stage) : State :=
  match s.refillAt st with
  | none => s
  | some a =>
    let k := clusterOfRid st.rid
    let ten := s.rowTenant st.rid
    let core := coreOfRid st.rid
    match s.unitGet k ten a (2 ^ bits (s.rowGet st.rid (256 + 16 * (st.reg - 24)) 8) 58 57) with
    | .ok (bs, s) =>
      (s.modStage st.rid st.reg fun x => { x with vals := x.vals ++ [BitVec.ofNat 64 (ofBytes bs)] }).wakeReader st.rid st.reg
    | .error (.bar x) => (s.modStage st.rid st.reg fun y => { y with bar := true }).toBar ten k (.stream core st.rid st.reg) x
    | .error (.abort c) =>
      (s.modStage st.rid st.reg fun y => { y with failed := some (s.errorAt k ten a c), failedAt := a, uncorr := c == .uncorr }).wakeReader st.rid st.reg
    | .error (.dropped _) | .error .hold => s
/-- STREAM_REFILL (R255). -/
def execStreamRefill (s : State) : Out :=
  let rid := ridOf s.sel.unit s.sel.sub
  match (s.coreOf s.sel.unit).streams.find? fun x => x.rid == rid && x.reg == s.sel.idx with
  | some st => .next (s.refill st)
  | none => .next s
/-- The streams of an octet that wait for a refill. -/
def State.refills (s : State) (oct : Nat) : List Stage :=
  (List.range 8).flatMap fun i => (s.coreOf (oct * 8 + i)).streams.filter fun st => (s.refillAt st).isSome
/-- The first active command, from the round-robin place on, whose next beat does not wait. -/
def State.nextBeat (s : State) (oct : Nat) : Option (Nat × ECmd × Except EStop (ECmd × State)) :=
  let o := s.octOf oct
  let n := o.active.length
  (List.range n).findSome? fun i =>
    let j := (o.rr + i) % n
    match s.activeAt oct j with
    | none => none
    | some c => match s.cmdBeat (clusterOfOct oct) c with
      | .error .hold => none
      | r => some (j, c, r)
/-- ENGINE_BEAT (R238): a refill, or else a beat of the next active command, when `ok` takes it. The turn passes on with the beat. -/
def State.engineStep (s : State) (oct : Nat) (ok : ECmd → Bool) : State :=
  match s.refills oct with
  | st :: _ => s.refill st
  | [] =>
    match s.nextBeat oct with
    | none => s
    | some (j, c, r) =>
      if !ok c then s else
      let next := match r with
        | .ok (c', _) => if c'.beats < c.beats ∨ c'.done then j + 1 else j
        | .error (.bar _) => j
        | .error _ => j + 1
      (s.afterBeat oct j c r).modOct oct fun o => { o with rr := next }
def execEngineBeat (s : State) : Out := .next (s.engineStep s.sel.unit fun _ => true)
/-- The beat of the active command that comes next, when it is of the step's kind: refills take precedence (R238). -/
def State.runKind (s : State) (op : EngOp) (kind : Nat) : State :=
  if (s.refills s.sel.unit).isEmpty then s.engineStep s.sel.unit fun c => c.op == op && kindOf c.spec == kind else s
def execCopy (s : State) : Out := .next (s.runKind .xcopy 0)
def execPageshare (s : State) : Out := .next (s.runKind .xcopy 1)
def execPagedrop (s : State) : Out := .next (s.runKind .xcopy 2)
def execPagemove (s : State) : Out := .next (s.runKind .xcopy 3)
def execXreduceSum (s : State) : Out := .next (s.runKind .xreduce 0)
def execXreduceMax (s : State) : Out := .next (s.runKind .xreduce 1)
def execXreduceMin (s : State) : Out := .next (s.runKind .xreduce 2)
def execSksum (s : State) : Out := .next (s.runKind .xreduce 3)

/-- The spec of `SBIND` (R254). -/
def streamOk (b : BitVec 512) : Bool :=
  let d := dword b
  let e := eszOf b
  let step := bits (d 2) 63 32
  bits (d 0) 63 28 == 0 && bits (d 0) 23 0 == 0 && decide (e ≤ 8) && addr57 (d 1) e && step % e == 0 && decide (1 ≤ bits (d 2) 31 0)
    && zeroDwords b [3, 4, 5, 6, 7]
/-- SBIND (R254): an old binding ends, two staging lines and the read lock are taken, and the descriptor is written. -/
def execSbind (d : BitVec 5) (sg : BitVec 4) (s : State) : Out :=
  s.runWord (do
    let _ ← s.threadOnly
    let x ← s.seg sg.toNat
    let b := BitVec.ofNat 512 x
    if !streamOk b then trap .illegal 0
    let s ← s.alone
    if s.vecBusy s.me then stall
    let core := s.myCore
    let k := s.myCluster
    let ten := s.rowTenant s.me
    let reg := d.toNat
    let s := if s.bound s.me reg then s.unbind s.me reg else s
    if 64 ≤ (s.coreOf core).streams.length then trap .queue 0
    let _ ← s.sourcesReady k ten [streamRange b] false
    match s.commandLocks k ten (fun _ => true) [streamRange b] [] with
    | .error a => trap .access (BitVec.ofNat 64 a)
    | .ok locks =>
      if locks ≠ [] && !s.locksGrant s.me locks.length then wait 11 0 locks.length
      let (id, s) := s.tick
      let s := (s.modThr s.me fun t => { t with lockClaim := 0 }).addLocks k id locks
      let s := s.modCore core fun c => { c with streams := c.streams ++ [{ rid := s.me, reg := reg, lock := id }] }
      let off := 256 + 16 * (reg - 24)
      let w0 := 2 ^ 63 + bits (dword b 0) 27 27 * 2 ^ 62 + bits (dword b 0) 25 24 * 2 ^ 57 + dword b 1
      .ok ((s.rowPut s.me off 8 w0).rowPut s.me (off + 8) 8 (dword b 2)))
/-- SUNBIND (R256): the descriptor is cleared at once; lines and lock are freed at the commit (R79). -/
def execSunbind (d : BitVec 5) (s : State) : Out :=
  s.runWord (do
    let _ ← s.threadOnly
    if !s.bound s.me d.toNat then .ok s
    else .ok ((s.rowZero s.me (256 + 16 * (d.toNat - 24)) 16).modChunk s.me fun c => { c with deferred := c.deferred ++ [.unbind d.toNat] }))

/-! ### Transfer barriers (R252, R253) -/

def execTbinit (a : BitVec 5) (t : BitVec 4) (s : State) : Out :=
  s.runWord (do
    let _ ← s.threadOnly
    let (x, s) ← s.src a.toNat
    let s ← s.alone
    .ok (s.tbInit s.myCore t.toNat x.toNat))
def execTbwait (a : BitVec 5) (t : BitVec 4) (s : State) : Out :=
  s.runWord (do
    let _ ← s.threadOnly
    let (x, s) ← s.src a.toNat
    let s ← s.alone
    let target := x.toNat % 65536
    if target ≤ (tget 0 (s.cs s.myCore).tbs t.toNat : BitVec 16).toNat then .ok s else wait 9 t.toNat target)

end Sys2Proof.Machine
end

