-- ==== Sys2Proof/Machine/Events.lean ====
section
/-! DEFINITION. Device steps on rows: control stores, opens and closes, turns and priorities (02_rows.md R33 to R48), holds, the stalemate
detector, the fault queue and uncorrectable errors (15_traps.md R262 to R271), and the steps of a word that cannot be decoded or fetched
(03_encoding.md R51, R75). -/

namespace Sys2Proof.Machine

/-! ### Control stores by system software (R33 to R35)

A store to an OPEN row is a control request that waits for the row's boundary. -/

/-- A store of the given word to a row's control word 0, when the row's state and the stored one are the pair that a step names. -/
def State.ctlEvent (s : State) (ok : RowState → Option RowState → Bool) : Out :=
  let rid := ridOf s.sel.unit s.sel.sub
  let st := (s.ctlOf rid).state
  if s.sel.unit < cores ∧ s.sel.sub < 2048 ∧ ok st (RowState.ofCode (bits s.sel.data.toNat 63 60)) ∧ !(s.octOf (hubOf rid)).busy ∧ s.ctlFree rid then
    .next (s.ctlStore rid 0 s.sel.data)
  else .next s
def execCtlMakeThread (s : State) : Out := s.ctlEvent fun a b => a == .null && b == some .dormant
def execCtlStart (s : State) : Out := s.ctlEvent fun a b => a == .dormant && b == some .ready
def execCtlStop (s : State) : Out := s.ctlEvent fun a b => (a == .ready || a == .blocked || a == .sleeping) && b == some .dormant
def execCtlResume (s : State) : Out := s.ctlEvent fun a b => a == .faulted && b == some .ready
def execCtlMakeData (s : State) : Out := s.ctlEvent fun a b => (a == .dormant || a == .exited || a == .faulted) && b == some .null
/-- The pairs of the table of R33. -/
def permittedPair (a : RowState) (b : Option RowState) : Bool :=
  match a, b with
  | .null, some .dormant | .dormant, some .ready | .ready, some .dormant | .blocked, some .dormant | .sleeping, some .dormant
  | .faulted, some .ready | .dormant, some .null | .exited, some .null | .faulted, some .null => true
  | _, _ => false
def execCtlFieldWrite (s : State) : Out := s.ctlEvent fun a b => a != .opened && a != .held && !permittedPair a b
def execCtlRedirect (s : State) : Out :=
  let rid := ridOf s.sel.unit s.sel.sub
  if s.sel.unit < cores ∧ s.sel.sub < 2048 ∧ (s.ctlOf rid).state ≠ .opened ∧ !(s.octOf (hubOf rid)).busy ∧ s.ctlFree rid then
    .next (s.ctlStore rid 1 s.sel.data)
  else .next s

/-! ### Accesses that wait for a boundary (R46 to R48) -/

/-- The accesses that wait at a row, applied at its boundary, when the first is of a kind; at a row that is not OPEN, once its write-back and the
cycle of its last transition are over (R38). -/
def State.atBoundary (s : State) (first : Deferred → Bool) : Out :=
  let rid := ridOf s.sel.unit s.sel.sub
  match (s.thrOf rid).deferred with
  | [] => .next s
  | d :: _ =>
    if !first d then .next s else
    if (s.ctlOf rid).state ≠ .opened then
      (if s.writingBack rid || (s.thrOf rid).movedAt == some s.cycle then .next s
       else .next ((s.modThr rid fun t => { t with deferred := [] }).flushDeferred (s.thrOf rid).deferred))
    else match s.boundary rid with
    | (s, false) => .next s
    | (s, true) => .next (s.applyDeferred (s.thrOf rid).deferred.length rid)
def execControlRequest (s : State) : Out := s.atBoundary fun d => match d with | .control _ _ _ => true | _ => false
def execOutsideAccess (s : State) : Out := s.atBoundary fun d => match d with | .store _ _ => true | _ => false

/-! ### Opening and closing (R40 to R44) -/

/-- The banks that the ports of a core hold. -/
def State.portBanks (s : State) (core : Nat) : List Nat :=
  (s.coreOf core).ports.filterMap fun e => e.2.map fun p => bankOfRow p.row
/-- Whether the turn scheduler of a core may open rows: its cluster is ready (24_tenancy_boot.md R366) and held by the tenant of its octet with
no switch that has stopped its rows (20_scheduling.md R326 to R329), its quad runs (23_stack_fabric.md R347), and its octet is not scrubbed. -/
def State.mayOpen (s : State) (core : Nat) : Bool :=
  let k := s.cluOf (clusterOf core)
  let o := s.octOf (octetOf core)
  s.pkg.ready0.getLsbD (clusterOf core) && k.holder == o.tag.toNat && !o.busy && (s.quadOf (quadOfCore core)).power == .running
    && (match k.switch with | some w => !w.stopped | none => true)
/-- Whether the turn scheduler prefers READY row `a` to `b` (R44, R48). -/
def State.before (s : State) (a b : Nat) : Bool :=
  let x := s.thrOf a
  let y := s.thrOf b
  if s.effNow a ≠ s.effNow b then decide (s.effNow b < s.effNow a)
  else if x.first ≠ y.first then x.first
  else if x.readyAt ≠ y.readyAt then decide (x.readyAt < y.readyAt)
  else decide (a < b)
/-- The row that the turn scheduler of a core opens next. -/
def State.nextRow (s : State) (core : Nat) : Option Nat :=
  let banks := s.portBanks core
  (s.rowsWhere fun r c => c.state == .ready && !isBase r && onCore core r && (s.ctlBad r).isNone && !banks.contains (bankOfRow (rowOfRid r))).foldl
    (fun best r => match best with
      | some b => if s.before r b then some r else best
      | none => some r) none
/-- The lowest free row port. -/
def State.freePort (s : State) (core : Nat) : Option Nat :=
  (List.range 16).find? fun p => ((tget none (s.coreOf core).ports p : Option Port)).isNone
/-- A row opened on a port (R41). An uncorrectable word of its bytes 0 to 319 makes the open fail (R271). -/
def State.openRow (s : State) (core port rid : Nat) : State :=
  match s.uncorrAt (rowAddr rid) 320 with
  | some u => s.trapClosed rid .uncorr (BitVec.ofNat 64 u)
  | none =>
    let s := (s.modCtl rid fun c => { c with state := .opened, wait := 0, wake := 0 }).moved rid
    let s := s.modThr rid fun t => { t with effPri := (s.ctlOf rid).pri.toNat, first := false }
    s.modCore core fun c => { c with ports := tset c.ports port (some { row := rowOfRid rid, phase := .opening, busy := s.cycle + 4 }) }
/-- ROW_OPEN. A row that is being written back is open until that ends (R41), and counts for `OPENLIM`. A READY row with an uncorrectable control entry is reported and never opened. -/
def execRowOpen (s : State) : Out :=
  let core := s.sel.unit
  if !s.mayOpen core then .next s else
  match s.rowsWhere fun r c => c.state == .ready && !isBase r && onCore core r && (s.ctlBad r).isSome && !(s.thrOf r).eccSeen with
  | r :: _ => .next (s.ctlReport r)
  | [] =>
    if (s.cs core).openlim.toNat ≤ ((s.coreOf core).ports.filter fun e => e.2.isSome).length then .next s else
    match s.freePort core, s.nextRow core with
    | some p, some r => .next (s.openRow core p r)
    | _, _ => .next s
/-- The port of a core that a step names. -/
def State.portAt (s : State) (core port : Nat) : Option Port := tget none (s.coreOf core).ports port
/-- OPEN_COMPLETE: waiting accesses apply before the first instruction issues. -/
def execOpenComplete (s : State) : Out :=
  let core := s.sel.unit
  match s.portAt core s.sel.sub with
  | none => .next s
  | some p =>
    if p.phase ≠ .opening ∨ s.cycle < p.busy then .next s
    else .next ((s.modCore core fun c => { c with ports := tset c.ports s.sel.sub (some { p with phase := .running }) }).applyDeferred
      (s.thrOf (ridOf core p.row)).deferred.length (ridOf core p.row))
/-- CLOSE_WRITEBACK: the port is free again, and the row's new state is seen. -/
def execCloseWriteback (s : State) : Out :=
  let core := s.sel.unit
  match s.portAt core s.sel.sub with
  | none => .next s
  | some p =>
    if p.phase ≠ .writeback ∨ s.cycle < p.busy then .next s
    else .next ((s.modCore core fun c => { c with ports := terase c.ports s.sel.sub }).backDone (ridOf core p.row))
/-- TURN_END of the row on a port. -/
def execTurnEnd (s : State) : Out :=
  let core := s.sel.unit
  match s.portAt core s.sel.sub with
  | none => .next s
  | some p =>
    let rid := ridOf core p.row
    if p.phase ≠ .running ∨ !s.turnOver rid then .next s else .next ((s.closeReady rid).1)
/-- PRIORITY_RISE: a level that a READY row's time has reached. `effNow` counts it from that cycle on, whenever this step is taken. -/
def execPriorityRise (s : State) : Out :=
  let rid := ridOf s.sel.unit s.sel.sub
  let t := s.thrOf rid
  if (s.ctlOf rid).state = .ready ∧ t.effPri < 3 ∧ 16 * (s.cs (coreOfRid rid)).turnlen.toNat ≤ s.cycle - t.riseAt then
    .next (s.modThr rid fun t => { t with effPri := t.effPri + 1, riseAt := t.riseAt + 16 * (s.cs (coreOfRid rid)).turnlen.toNat })
  else .next s
/-- OPENLIM_CLOSE. -/
def execOpenlimClose (s : State) : Out :=
  let core := s.sel.unit
  if (s.openPorts core).length ≤ (s.cs core).openlim.toNat then .next s else
  match s.longestTurn core with
  | none => .next s
  | some row => if (s.ctlOf (ridOf core row)).p then .next s else .next (s.closeReady (ridOf core row)).1
/-- Writes of a core's registers by system software. -/
def State.coreRegWrite (s : State) (off : Nat) : Out :=
  if s.sel.unit < cores then .next ((s.coreWrite s.sel.unit off s.sel.data).getD s) else .next s
def execOpenlimWrite (s : State) : Out := s.coreRegWrite 0x100
def execTurnlenWrite (s : State) : Out := s.coreRegWrite 0x108
def execHpoolWrite (s : State) : Out := s.coreRegWrite 0x118
/-- REGISTER_WRITE: an 8-byte store by system software to a register of the memory-mapped windows. -/
def execRegisterWrite (s : State) : Out := .next ((s.mmioWrite s.sel.unit s.sel.data).getD s)

/-! ### Holds (R267) -/

/-- ROW_HOLD: a stop reaches an OPEN row at its first boundary with `P` = 0. -/
def execRowHold (s : State) : Out :=
  let rid := ridOf s.sel.unit s.sel.sub
  match (s.thrOf rid).stop with
  | none => .next s
  | some _ => if (s.ctlOf rid).p then .next s else .next (s.closeReady rid).1

/-! ### The stalemate detector (R270) -/

/-- The row that a row of a cluster waits for through an interval that began at a cycle: a `RECV` without deadline whose filter names a row of the
same cluster, with no packet toward the waiting row outside its queue in the interval. -/
def State.waitsFor (s : State) (k start rid : Nat) : Option Nat :=
  let c := s.ctlOf rid
  let t := s.thrOf rid
  let f := t.waitArg
  let to_ := ridOf (bits f 23 11) (bits f 10 0)
  let flying := s.oct.any fun o => o.2.hub.any fun e => match e.2 with
    | some b => b.released && bits b.dest.toNat 48 48 == 0 && ridOf (bits b.dest.toNat 23 11) (bits b.dest.toNat 10 0) == rid
    | none => false
  if c.state == .blocked && c.wait.toNat == 2 && bits c.wake.toNat 35 35 == 0 && decide (t.blockedCycle ≤ start) && bits f 63 63 == 0
      && bits f 48 48 == 0 && decide (bits f 23 11 < cores) && clusterOf (bits f 23 11) == k && !flying && decide (t.packetAt ≤ start) then some to_
  else none
/-- Whether a row comes back to itself along the edges, within a number of steps. -/
def onCycle (edges : List (Nat × Nat)) (start : Nat) : Nat → Nat → Bool
  | 0, _ => false
  | n + 1, r =>
    match edges.find? fun e => e.1 == r with
    | none => false
    | some (_, t) => t == start || onCycle edges start n t
/-- The members of the cycle of a row. -/
def cycleOf (edges : List (Nat × Nat)) (start : Nat) : Nat → Nat → List Nat
  | 0, _ => []
  | n + 1, r =>
    match edges.find? fun e => e.1 == r with
    | none => []
    | some (_, t) => r :: if t = start then [] else cycleOf edges start n t
/-- STALEMATE_INTERVAL of a cluster, once at each cycle that is a multiple of 65,536: the members of every wait-for cycle trap, or one record a cycle
goes to the host. -/
def execStalemateInterval (s : State) : Out :=
  let k := s.sel.unit
  if 32 ≤ k ∨ s.cycle = 0 ∨ s.cycle % 65536 ≠ 0 ∨ (s.cluOf k).staleAt = some s.cycle then .next s else
  let edges := (s.rowsWhere fun r _ => !isBase r && inCluster k r).filterMap fun r => (s.waitsFor k (s.cycle - 65536) r).map fun t => (r, t)
  let members := edges.filter fun e => onCycle edges e.1 edges.length e.1
  let s := s.modClu k fun c => { c with staleAt := some s.cycle }
  if s.pkg.fnmode.getLsbD 4 then
    let heads := members.filter fun e => (cycleOf edges e.1 edges.length e.1).all fun r => decide (e.1 ≤ r)
    .next (heads.foldl (fun s e => s.hfr 3 (s.rowTenant e.1) ((cycleOf edges e.1 edges.length e.1).take 7 |>.map nameOf)) s)
  else .next (members.foldl (fun s e => if (s.ctlOf e.1).state = .blocked then s.trapClosed e.1 .stalemate (nameOf e.2) else s) s)

/-! ### The fault queue and scrubbing (R262, R271) -/

/-- FQTAIL_ADVANCE: the oldest entry on its way reaches HBM. Its place is taken from `FQBASE` as it stands when it lands: the manual does not say
what a store to `FQBASE` means for the entries on their way (DESIGN CHOICE; entry 97). -/
def execFqtailAdvance (s : State) : Out :=
  let ten := s.sel.unit
  let t := s.tenOf ten
  match t.fqWay with
  | [] => .next s
  | e :: rest =>
    let pa := bits t.fqbase.toNat 51 5 * 32 + 32 * (t.fqtail.toNat % 2 ^ bits t.fqbase.toNat 4 0)
    let s := s.poke pa (e.dwords.flatMap fun d => bytesOf 8 d.toNat)
    let s := s.modTen ten fun t => { t with fqWay := rest, fqtail := t.fqtail + 1 }
    .next (s.hfr 1 ten [BitVec.ofNat 64 pa])
/-- ECC_SCRUB: an uncorrectable word that background scrub of a cluster finds is logged. -/
def execEccScrub (s : State) : Out :=
  let k := s.sel.unit
  let u := s.sel.sub / 8 * 8
  let own : Bool := match clusterHome u with
    | some h => h == k
    | none => inHbm u
  if k < 32 ∧ s.uncorr.contains (cellOf u) ∧ own then .next (s.modClu k fun c => { c with ecclog := BitVec.ofNat 64 (2 ^ 63 + u) }) else .next s

/-! ### A word that cannot be decoded or fetched (R51, R75) -/

/-- Whether an issue step of an OPEN row is being made. -/
def State.issuing (s : State) : Bool := s.cur.ended == .running && s.running s.me
/-- UNDECODABLE_WORD: the word traps `ILLEGAL`; g3 is the address that the checks of its bundle report. -/
def execUndecodableWord (s : State) : Out :=
  if s.issuing then .next (s.stopTrap .illegal (BitVec.ofNat 64 s.sel.unit) none false) else .next s
/-- FETCH_FAULT: the fetch traps `ACCESS` with the address of the bundle's next word. -/
def execFetchFault (s : State) : Out :=
  if !s.issuing then .next s else
  let report := match s.coreXlat s.me (s.sel.unit / 8 * 8) .fetch with
    | .access r => r
    | _ => none
  .next (s.stopTrap .access (BitVec.ofNat 64 s.sel.unit) report true)

end Sys2Proof.Machine
end

