-- ==== Sys2Proof/Machine/Flags.lean ====
section
/-! DEFINITION. Scalar floating point: results and sticky flags (04_scalar.md R89 to R93). Each function gives a 64-bit result and the
flags it sets, as bits 4 to 0: `NV`, `DZ`, `OF`, `UF`, `NX`. -/

namespace Sys2Proof.Machine

/-- The format of a precision bit, and an operand's bits in it. -/
def fpFmt (p : Nat) : Fmt := if p = 0 then fp32 else fp64
def fpBits (p : Nat) (x : W) : Nat := x.toNat % 2 ^ (fpFmt p).width

/-- The flags of a rounding: `UF` only when tiny and inexact. -/
def rndFlags (r : Rounded) : Nat :=
  (if r.overflow then flagOF else 0) + (if r.tiny && r.inexact then flagUF else 0) + (if r.inexact then flagNX else 0)
/-- A result and its flags. -/
abbrev FpRes := W × Nat
def orFlags (l : List (Bool × Nat)) : Nat := l.foldl (fun a x => if x.1 then a ||| x.2 else a) 0

/-- An exact value rounded to a precision; `nv` says the operation was invalid, `dz` that it divided by zero. -/
def fpRound (f : Fmt) (rm : Rm) (nv dz : Bool) (v : Val) : FpRes :=
  let r := rnd f rm false v
  (BitVec.ofNat 64 r.enc, orFlags [(nv, flagNV), (dz, flagDZ)] ||| (if nv || dz then 0 else rndFlags r))

/-- `FADD`, `FSUB` and `FMUL` (0 to 2), and `FDIV` (3). -/
def fpArith (op p rm : Nat) (a b : W) : FpRes :=
  let f := fpFmt p
  let x := fpBits p a
  let y := fpBits p b
  let u := valOf f x
  let v := valOf f y
  let m := rmOf rm
  let snan := isSNaN f x || isSNaN f y
  let nans := isNaN f x || isNaN f y
  let z := if op = 0 then u.add (m == .rdn) v else if op = 1 then u.add (m == .rdn) v.neg
           else if op = 2 then u.mul v else u.div v
  let bad := !nans && z == .nan
  let dz := op == 3 && !nans && v.isZero && u.isFinite && !u.isZero
  fpRound f m (snan || bad) dz z

/-- `FSQRT`. -/
def fpSqrt (p rm : Nat) (a : W) : FpRes :=
  let f := fpFmt p
  let x := fpBits p a
  let z := (valOf f x).sqrt
  fpRound f (rmOf rm) (isSNaN f x || (!isNaN f x && z == .nan)) false z

/-- `FMIN` and `FMAX`. -/
def fpMinMax (max : Bool) (p : Nat) (a b : W) : FpRes :=
  let f := fpFmt p
  let x := fpBits p a
  let y := fpBits p b
  (BitVec.ofNat 64 (minMax f max x y), if isSNaN f x || isSNaN f y then flagNV else 0)

def oneIf (b : Bool) : W := if b then 1 else 0
/-- `FEQ` (0), `FLT` (1) and `FLE` (2). -/
def fpCompare (op p : Nat) (a b : W) : FpRes :=
  let f := fpFmt p
  let x := fpBits p a
  let y := fpBits p b
  let u := valOf f x
  let v := valOf f y
  let nans := isNaN f x || isNaN f y
  let nv := if op = 0 then isSNaN f x || isSNaN f y else nans
  (oneIf (if op = 0 then u.eq v else if op = 1 then u.lt v else u.lt v || u.eq v), if nv then flagNV else 0)

/-- `FCLASS`. -/
def fpClass (p : Nat) (a : W) : W :=
  let f := fpFmt p
  let x := fpBits p a
  let neg := signBit f x
  let i :=
    if isNaN f x then (if isSNaN f x then 8 else 9)
    else if isInf f x then (if neg then 0 else 7)
    else if expField f x = 0 then
      (if mantField f x = 0 then (if neg then 3 else 4) else (if neg then 2 else 5))
    else (if neg then 1 else 6)
  BitVec.ofNat 64 (2 ^ i)

/-- `FSGNJ` (0), `FSGNJN` (1) and `FSGNJX` (2). -/
def fpSign (op p : Nat) (a b : W) : W :=
  let f := fpFmt p
  let x := fpBits p a
  let s := signBit f (fpBits p b)
  let neg := if op = 0 then s else if op = 1 then !s else signBit f x != s
  BitVec.ofNat 64 (withSign f neg (x % 2 ^ (f.eb + f.mb)))

/-- `FFMA`, and `FFMS` with `sub` (R92). -/
def fpFma (sub : Bool) (p rm : Nat) (a b d : W) : FpRes :=
  let f := fpFmt p
  let x := fpBits p a
  let y := fpBits p b
  let w := fpBits p d
  let m := rmOf rm
  let prod := (valOf f x).mul (valOf f y)
  let z := (valOf f w).add (m == .rdn) (if sub then prod.neg else prod)
  let badMul := !isNaN f x && !isNaN f y && prod == .nan
  let badSum := !isNaN f x && !isNaN f y && !isNaN f w && z == .nan
  fpRound f m (isSNaN f x || isSNaN f y || isSNaN f w || badMul || badSum) false z

/-! ### FCVT (R93) -/

/-- The format of a type code, or the width of an integer type. -/
def cvtFmt (t : Nat) : Option Fmt :=
  if t = 1 then some fp32 else if t = 2 then some fp64 else if t = 3 then some bf16 else if t = 4 then some fp16
  else if t = 5 then some e4m3 else if t = 6 then some e5m2 else none
def cvtWidth (t : Nat) : Nat := if t = 0 then 64 else 32

/-- A value to an integer of `n` bits, written sign-extended. -/
def toInteger (n : Nat) (rm : Rm) : Val → FpRes
  | .nan => (sext n (2 ^ (n - 1) - 1), flagNV)
  | .inf neg => (sext n (if neg then 2 ^ (n - 1) else 2 ^ (n - 1) - 1), flagNV)
  | .fin neg a b =>
    let (x, inexact) := roundInt rm neg a b
    if (2 ^ (n - 1) : Int) - 1 < x then (sext n (2 ^ (n - 1) - 1), flagNV)
    else if x < -(2 ^ (n - 1) : Int) then (sext n (2 ^ (n - 1)), flagNV)
    else (sext n (ofInt n x), if inexact then flagNX else 0)

def fpConvert (src dst rm : Nat) (a : W) : FpRes :=
  let x : Nat := match cvtFmt src with
    | some f => a.toNat % 2 ^ f.width
    | none => a.toNat % 2 ^ cvtWidth src
  let v : Val := match cvtFmt src with
    | some f => valOf f x
    | none => ofIntVal (toSigned (cvtWidth src) x)
  let snan := match cvtFmt src with | some f => isSNaN f x | none => false
  match cvtFmt dst with
  | none => toInteger (cvtWidth dst) (rmOf rm) v
  | some f =>
    let infToE4 := f.kind == .e4m3 && (match v with | .inf _ => true | _ => false)
    fpRound f (rmOf rm) (snan || infToE4) false v

end Sys2Proof.Machine
end

