-- ==== Sys2Proof/Machine/Fp.lean ====
section
/-! DEFINITION. Scalar floating-point instructions (04_scalar.md R89 to R93), over Flags.lean. -/

namespace Sys2Proof.Machine

/-- A floating-point result written with its sticky flags (R90). -/
def State.fpDst (s : State) (d : BitVec 5) (cost : Nat) (r : FpRes) : Res State := do
  let s ← (s.spend cost).dst d.toNat r.1
  .ok (if r.2 = 0 then s else s.orSts r.2)
def State.fp2 (s : State) (d a b : BitVec 5) (cost : Nat) (f : W → W → FpRes) : Out :=
  s.runWord (do
    let (x, s) ← s.src a.toNat
    let (y, s) ← s.src b.toNat
    s.fpDst d cost (f x y))
def State.fp1 (s : State) (d a : BitVec 5) (cost : Nat) (f : W → FpRes) : Out :=
  s.runWord (do
    let (x, s) ← s.src a.toNat
    s.fpDst d cost (f x))
/-- The destination is read after `A` and `B` (R65). -/
def State.fp3 (s : State) (d a b : BitVec 5) (cost : Nat) (f : W → W → W → FpRes) : Out :=
  s.runWord (do
    let (x, s) ← s.src a.toNat
    let (y, s) ← s.src b.toNat
    let (z, s) ← s.src d.toNat
    s.fpDst d cost (f x y z))

def execFadd (d a b : BitVec 5) (p : BitVec 1) (r : BitVec 3) (s : State) : Out := s.fp2 d a b 4 (fpArith 0 p.toNat r.toNat)
def execFsub (d a b : BitVec 5) (p : BitVec 1) (r : BitVec 3) (s : State) : Out := s.fp2 d a b 4 (fpArith 1 p.toNat r.toNat)
def execFmul (d a b : BitVec 5) (p : BitVec 1) (r : BitVec 3) (s : State) : Out := s.fp2 d a b 4 (fpArith 2 p.toNat r.toNat)
def execFdiv (d a b : BitVec 5) (p : BitVec 1) (r : BitVec 3) (s : State) : Out := s.fp2 d a b (if p = 0 then 12 else 24) (fpArith 3 p.toNat r.toNat)
def execFsqrt (d a : BitVec 5) (p : BitVec 1) (r : BitVec 3) (s : State) : Out := s.fp1 d a (if p = 0 then 14 else 28) (fpSqrt p.toNat r.toNat)
def execFmin (d a b : BitVec 5) (p : BitVec 1) (s : State) : Out := s.fp2 d a b 3 (fpMinMax false p.toNat)
def execFmax (d a b : BitVec 5) (p : BitVec 1) (s : State) : Out := s.fp2 d a b 3 (fpMinMax true p.toNat)
def execFeq (d a b : BitVec 5) (p : BitVec 1) (s : State) : Out := s.fp2 d a b 3 (fpCompare 0 p.toNat)
def execFlt (d a b : BitVec 5) (p : BitVec 1) (s : State) : Out := s.fp2 d a b 3 (fpCompare 1 p.toNat)
def execFle (d a b : BitVec 5) (p : BitVec 1) (s : State) : Out := s.fp2 d a b 3 (fpCompare 2 p.toNat)
def execFclass (d a : BitVec 5) (p : BitVec 1) (s : State) : Out := s.fp1 d a 3 fun x => (fpClass p.toNat x, 0)
def execFsgnj (d a b : BitVec 5) (p : BitVec 1) (s : State) : Out := s.fp2 d a b 3 fun x y => (fpSign 0 p.toNat x y, 0)
def execFsgnjn (d a b : BitVec 5) (p : BitVec 1) (s : State) : Out := s.fp2 d a b 3 fun x y => (fpSign 1 p.toNat x y, 0)
def execFsgnjx (d a b : BitVec 5) (p : BitVec 1) (s : State) : Out := s.fp2 d a b 3 fun x y => (fpSign 2 p.toNat x y, 0)
def execFfma (d a b : BitVec 5) (p : BitVec 1) (r : BitVec 3) (s : State) : Out := s.fp3 d a b 4 (fpFma false p.toNat r.toNat)
def execFfms (d a b : BitVec 5) (p : BitVec 1) (r : BitVec 3) (s : State) : Out := s.fp3 d a b 4 (fpFma true p.toNat r.toNat)
def execFcvt (d a : BitVec 5) (x y : BitVec 3) (r : BitVec 3) (s : State) : Out := s.fp1 d a 3 (fpConvert x.toNat y.toNat r.toNat)

end Sys2Proof.Machine
end

