-- ==== Sys2Proof/Machine/Gambit.lean ====
section
/-! DEFINITION. The combinator instructions and the end of a leaf (26_combinators.md R374 to R390). -/

namespace Sys2Proof.Machine

/-! ### Defining and deleting (R374 to R376) -/

/-- What a combinator word checks first: no base-die handler, a Gambit table (R370), no open packet. -/
def State.gambitWord (s : State) (needsTable : Bool) (a : W) : Res Unit := do
  if isBase s.me then trap .illegal s.pcW
  if needsTable && !s.gamPresent (s.rowTenant s.me) then trap .access a
  s.noPacket
/-- A combinator word in its ending bundle, after every earlier store of the thread has reached its home. -/
def State.gambitAlone (s : State) : Res State := do
  let s ← s.alone
  let _ ← s.afterAll
  .ok s

/-- The children that `NCH` may give a kind. -/
def nchOk (kind n : Nat) : Bool :=
  if kind = 1 ∨ kind = 2 then n == 0 else if kind = 6 ∨ kind = 7 then n == 1 else decide (2 ≤ n) && decide (n ≤ 4)
/-- Fail codes 3 and 4 of R375, or 0. -/
def imageBad (d0 d1 d2 d3 : Nat) : Nat :=
  let kind := gKind d0
  let n := bits d0 58 56
  let hen := bits d0 55 55
  if kind < 1 ∨ 7 < kind ∨ !nchOk kind n ∨ bits d0 59 59 ≠ 0 ∨ bits d0 54 52 ≠ 0 ∨ bits d0 39 38 ≠ 0 ∨ bits d0 31 0 ≠ 0
      ∨ (hen = 0 ∧ bits d0 51 40 ≠ 0) ∨ (kind ≠ 6 ∧ bits d0 37 32 ≠ 0) ∨ (kind ≤ 2 ∧ hen ≠ 0) then 3
  else if kind ≤ 2 then
    (if bits d3 63 32 ≠ 0 ∨ bits d3 15 8 ≠ 0 ∨ bits d3 3 1 ≠ 0 then 3
     else if 2 ^ 57 ≤ d1 ∨ d1 % 4 ≠ 0 ∨ 2 ^ 57 ≤ d2 ∨ d2 % 1024 ≠ 0 ∨ 10 < bits d3 7 4 + bits d3 23 20 then 4 else 0)
  else if d1 / 2 ^ (12 * n) ≠ 0 ∨ d2 ≠ 0 ∨ d3 ≠ 0 then 3
  else 0
/-- The children of an entry, one of each, and its handler. -/
def gUses (d0 d1 : Nat) : List Nat :=
  (if gKind d0 ≤ 2 then [] else (List.range (bits d0 58 56)).map fun c => bits d1 (12 * c + 11) (12 * c))
    ++ if bits d0 55 55 = 1 then [bits d0 51 40] else []
/-- Whether a child or the handler of an image is missing, or the handler is no `FUNC` (fail 5). -/
def State.usesBad (s : State) (ten d0 d1 : Nat) : Bool :=
  (gUses d0 d1).any (fun c => !s.gdefined ten c) || (bits d0 55 55 == 1 && gKind (s.gdw ten (bits d0 51 40) 0) != 1)
/-- Whether a component exceeds its field or its limit (fail 7). -/
def Claim.tooBig (c : Claim) : Bool :=
  decide (2 ^ 19 ≤ c.rows) || decide (2 ^ 11 ≤ c.help) || decide (192 < c.cores) || decide (2 ^ 8 ≤ c.mxu) || decide (512 < c.linkq)
/-- `GDEF` (R375). -/
def execGdef (d a : BitVec 5) (sg : BitVec 4) (s : State) : Out :=
  s.runWord (do
    let (x, s) ← s.src a.toNat
    let _ ← s.gambitWord true x
    let img ← s.seg sg.toNat
    let s ← s.gambitAlone
    if s.vecBusy s.me then stall
    let ten := s.rowTenant s.me
    let e := x.toNat
    let fail : Nat → Res State := fun k => trap .illegal (BitVec.ofNat 64 (k * 2 ^ 16 + e % 4096))
    let b := BitVec.ofNat 512 img
    let d0 := dword b 0
    let d1 := dword b 1
    let d3 := dword b 3
    let bad := imageBad d0 d1 (dword b 2) d3
    if 4096 ≤ e then fail 1
    else if s.gdefined ten e then fail 2
    else if bad ≠ 0 then fail bad
    else if s.usesBad ten d0 d1 then fail 5
    else
      let c := s.claimFor ten d0 d1 d3
      if 8 < c.depth then fail 6
      else if c.tooBig then fail 7
      else
        let base := gamBase (s.tenOf ten)
        let s := s.poke (base + 32 * e) (bytesOf 32 (img % 2 ^ 256))
        let s := s.poke (base + 0x20000 + 16 * e) (bytesOf 16 c.pack)
        let s := (gUses d0 d1).foldl (fun s x => s.setUseCount ten x (s.useCount ten x + 1)) s
        s.dst d.toNat (BitVec.ofNat 64 c.pack))
/-- `GDEL` (R376). -/
def execGdel (a : BitVec 5) (s : State) : Out :=
  s.runWord (do
    let (x, s) ← s.src a.toNat
    let _ ← s.gambitWord true x
    let s ← s.gambitAlone
    let ten := s.rowTenant s.me
    let e := x.toNat
    if !s.gdefined ten e || s.useCount ten e != 0 then trap .illegal (BitVec.ofNat 64 (9 * 2 ^ 16 + e % 4096))
    else
      let s := (gUses (s.gdw ten e 0) (s.gdw ten e 1)).foldl (fun s x => s.setUseCount ten x (s.useCount ten x - 1)) s
      .ok (s.poke (gamBase (s.tenOf ten) + 0x20000 + 16 * e) (bytesOf 8 0)))

/-! ### Applying (R377 to R380) -/

/-- Cores of a cluster's octets that a tenant owns. -/
def State.ownedCores (s : State) (k ten : Nat) : Nat :=
  8 * ((List.range 24).filter fun o => (s.octOf (k * 24 + o)).tag.toNat == ten).length
/-- A claim can fit a cluster (R379). -/
def State.claimFits (s : State) (k ten : Nat) (c : Claim) : Bool := decide (c.cores ≤ s.ownedCores k ten) && decide (c.linkq ≤ 512)
/-- Whether the issuer is a nest row or a nest handler row. -/
def State.nested (s : State) (rid : Nat) : Bool :=
  (s.thrOf rid).nest.isSome || (match (s.thrOf rid).serves with | some v => v.nest.isSome | none => false)
/-- The nest that an issuer belongs to, as a leaf or as a handler, with its node: what ends with it by an abort (R387). -/
def State.outerOf (s : State) (rid : Nat) : Option (Nat × Nat) :=
  match (s.thrOf rid).nest, (s.thrOf rid).serves with
  | some x, _ => some x
  | none, some v => v.nest
  | none, none => none
/-- Where an issuer's nest is placed, with what its leaf has to spare (R380). -/
def State.siteOf (s : State) (rid : Nat) : Site × List Nat :=
  let base : Site := { cluster := clusterOf (coreOfRid rid), ten := s.rowTenant rid, octet := hubOf rid % 24 }
  match s.leafOf rid with
  | some g =>
    let slot := ((s.thrOf rid).nest.map (·.1)).getD 0
    let still : List Nat → List Nat := fun l => l.filter fun r => !s.lentOn base.cluster slot fun m => m.took.contains r
    ({ base with core := some (coreOfRid rid), spareRows := still g.spareRows, sparePool := still g.sparePool },
      g.spareLq.filter fun q => !s.lentOn base.cluster slot fun m => m.tookLq.contains q)
  | none => (base, [])
/-- `APPLY` and `APPLYQ`. -/
def State.applyNest (s : State) (d a b : BitVec 5) (waits : Bool) : Out :=
  s.runWord (do
    let (x, s) ← s.src a.toNat
    let (arg, s) ← s.src b.toNat
    let _ ← s.gambitWord true x
    let e := x.toNat
    if 4096 ≤ e then trap .illegal (BitVec.ofNat 64 (2 ^ 16 + e % 4096))
    let s ← s.gambitAlone
    let rid := s.me
    let ten := s.rowTenant rid
    if !s.gdefined ten e then s.dst d.toNat (BitVec.ofNat 64 (2 ^ 63 + 4))
    else if !s.claimFits s.myCluster ten (claimOf (s.gclaim ten e)) then s.dst d.toNat (BitVec.ofNat 64 (2 ^ 63 + 3))
    else
      match s.slotFor rid with
      | none => wait 3 0 1
      | some tag =>
        let (site, lq) := s.siteOf rid
        match s.planNest site e (s.outerOf rid) lq rid (some tag) none arg with
        | none =>
          if s.nested rid then s.dst d.toNat (BitVec.ofNat 64 (2 ^ 63 + 2))
          else if waits then wait 13 0 0
          else s.dst d.toNat (BitVec.ofNat 64 (2 ^ 63 + 1))
        | some (slot, n) =>
          let s := (s.enterNest s.myCluster slot n).takeSlot rid tag
          let s := s.modChunk rid fun c => { c with deferred := c.deferred ++ [.nest slot] }
          s.dst d.toNat (BitVec.ofNat 64 (nestHandle s.myCluster slot n)))
def execApply (d a b : BitVec 5) (s : State) : Out := s.applyNest d a b true
def execApplyq (d a b : BitVec 5) (s : State) : Out := s.applyNest d a b false

/-! ### Waiting and aborting (R387) -/

def execNwait (d a : BitVec 5) (s : State) : Out :=
  s.runWord (do
    let (x, s) ← s.src a.toNat
    let _ ← s.gambitWord false x
    let s ← s.gambitAlone
    match s.findNest (s.rowTenant s.me) x.toNat with
    | none => s.dst d.toNat 0
    | some _ => wait 14 (x.toNat % 2 ^ 36) x.toNat)
def execNabort (a : BitVec 5) (s : State) : Out :=
  s.runWord (do
    let (x, s) ← s.src a.toNat
    let _ ← s.gambitWord false x
    let s ← s.gambitAlone
    match s.findNest (s.rowTenant s.me) x.toNat with
    | none => .ok s
    | some (k, slot) => .ok (s.nestAbort 256 k slot 0x0F 0xFFFF))

/-! ### Coroutines (R386) -/

/-- The `CORO` leaf of a live nest of a tenant that a coroutine name names: cluster, slot and node. A leaf that has not been created is none; one
that has ended is named by its record, which is DONE (DEDUCED; entry 105). -/
def State.findCoro (s : State) (ten x : Nat) : Option (Nat × Nat × Nat × GNode) :=
  match s.findNest ten (x % 2 ^ 44) with
  | none => none
  | some (k, slot) =>
    if bits x 63 56 ≠ 0 then none else
    match s.nestAt k slot with
    | none => none
    | some n =>
      match n.gnodes.findIdx? fun g => g.kind == 2 && g.inst == bits x 55 44 && (g.live || g.co == .done) with
      | some i => some (k, slot, i, gAt n.gnodes i)
      | none => none
/-- A store of READY to the leaf's control word 0, its priority and team as they are. -/
def State.resumeLeaf (s : State) (rid : Nat) : State :=
  let c := s.ctlOf rid
  (s.ctlStore rid 0 (BitVec.ofNat 64 (2 * 2 ^ 60 + c.pri.toNat * 2 ^ 54 + c.team.toNat * 2 ^ 36))).moved rid
/-- `CRESUME`: it delivers what the coroutine yielded, or resumes it and blocks. -/
def execCresume (d a b : BitVec 5) (s : State) : Out :=
  let r : Res (Except State (State × Nat)) := do
    let (x, s) ← s.src a.toNat
    let (v, s) ← s.src b.toNat
    let _ ← s.gambitWord false x
    let s ← s.gambitAlone
    match s.findCoro (s.rowTenant s.me) x.toNat with
    | none => trap .queue x
    | some (k, slot, i, g) =>
      if g.pending = some s.me ∧ (g.co = .yield ∨ g.co = .done) then do
        let t ← (s.modGNode k slot i fun g => { g with pending := none }).dst d.toNat g.yval
        .ok (.error t)
      else if g.co = .done then do
        let t ← s.dst d.toNat (BitVec.ofNat 64 (2 ^ 63))
        .ok (.error t)
      else if g.pending.isSome ∨ g.co = .run ∨ g.co = .res then trap .queue x
      else if !s.quiet then stall
      else
        let t := s.modGNode k slot i fun g => { g with rval := v, pending := some s.me, co := if g.co = .fresh then .run else .res }
        let t := if g.co = .fresh then t.rowPut g.rid 32 8 v.toNat else t
        .ok (.ok (t.resumeLeaf g.rid, x.toNat % 2 ^ 44))
  match r with
  | .error st => .next (s.applyStop st)
  | .ok (.error t) => .next t.retire
  | .ok (.ok (t, h)) => .next (t.stopBlock 14 (h % 2 ^ 36) h none)
/-- `CYIELD`: it delivers the resume value, or yields and closes to DORMANT on itself. In word 0 of a PAIR that yields, word 1 completes with its effects,
and executes again with the resumed word (DESIGN CHOICE; entry 113). -/
def execCyield (d a : BitVec 5) (s : State) : Out :=
  s.runWord (do
    let (x, s) ← s.src a.toNat
    let _ ← s.gambitWord false x
    let s ← s.gambitAlone
    match (s.thrOf s.me).nest, s.leafOf s.me with
    | some (slot, i), some g =>
      let k := s.myCluster
      if g.kind ≠ 2 then trap .queue 0
      else if g.co = .res then (s.modGNode k slot i fun g => { g with co := .run }).dst d.toNat g.rval
      else if !s.quiet then stall
      else
        let s := s.modGNode k slot i fun g => { g with co := .yield, yval := x }
        let s := match g.pending with
          | some q => s.wakeRow q
          | none => s
        .ok ((s.jumpTo s.pcW).closeAs .dormant)
    | _, _ => trap .queue 0)

/-! ### LEAF_END (R382) -/

/-- What a nest of a cluster whose tree holds a row has still to do: its end after an abort, once its stores are home and its rows written back (R387), and faults that wait for a
handler's row that has become free (R388). -/
def State.nestWork (s : State) (k rid : Nat) : State :=
  ((s.cluOf k).nests.filterMap fun e => e.2.map fun n => (e.1, n)).foldl (fun s e =>
    match e.2.gnodes.findIdx? fun g => (decide (g.kind ≤ 2) && g.rid == rid) || (g.hnd.isSome && g.hrow == rid) with
    | none => s
    | some i => (if (gAt e.2.gnodes i).hnd.isSome then s.handlerNext k e.1 i else s).abortProgress k e.1) s
/-- An EXITED leaf whose stores are home ends. At any other row of a nest, the step is what the nest has still to do there. -/
def execLeafEnd (s : State) : Out :=
  let rid := ridOf s.sel.unit s.sel.sub
  let k := clusterOf s.sel.unit
  match (s.thrOf rid).nest with
  | none => .next (s.nestWork k rid)
  | some (slot, i) =>
    if (s.ctlOf rid).state ≠ .exited then .next (s.nestWork k rid)
    else if !s.drained rid || s.writingBack rid then .next s
    else
      match s.nestAt k slot with
      | none => .next ((s.nullRow rid 0).moved rid)
      | some n =>
        if n.aborting.isSome then .next (((s.nullRow rid 0).moved rid).abortProgress k slot)
        else if s.mayEnd n i then .next (((s.nullRow rid 0).moved rid).nodeEnd k slot i)
        else .next s

end Sys2Proof.Machine
end

