-- ==== Sys2Proof/Machine/Matrix.lean ====
section
/-! DEFINITION. The matrix queue and its commands (12_vector_matrix.md R222 to R237; 17_fault_replay.md R290, R291; 11_formats.md R198,
R202): pushes, and the device steps MFMT, MZERO, MMA, MMA_KBLOCK, MOUT, MBIAS and MSIGNAL. -/

namespace Sys2Proof.Machine

/-! ### Command blocks (R226 to R235) -/

/-- Whether a scale mode goes with a format: block for MXFP4 and GQ and for no other, tensor for FP8 and BF16. -/
def scaleOk (fmt sm : Nat) : Bool :=
  if fmt ≤ 2 then sm == 1 else sm == 0 || sm == 2
def pairOk (a b : Nat) : Bool :=
  (a == 0 && b == 0) || ((a == 3 || a == 4) && (decide (1 ≤ b) && decide (b ≤ 4))) || (a == 5 && b == 5)
/-- An address of a block: 57 bits, a multiple of `m`. -/
def addrOk (a m : Nat) : Bool := bits a 63 57 == 0 && a % m == 0
/-- Whether dwords `i` to 7 of a block are zero. -/
def zeroFrom (b : BitVec 512) (i : Nat) : Bool := b.toNat / 2 ^ (64 * i) == 0
/-- The layout dword of an `MMA` operand, given its format and whether its `T` bit must put K along the line. -/
def layoutOk (d fmt : Nat) (kt : Nat) : Bool :=
  bits d 63 36 == 0 && d % 16 == 0 && (let s := bits d 35 33; s == 0 || bits d 31 0 % (16 * 2 ^ s) == 0)
    && (decide (3 ≤ fmt) || bits d 32 32 == kt)
/-- The rules of R227 on a block in a context. -/
def blockOk (m : MCtx) (b : BitVec 512) : Bool :=
  let h := dword b 0
  let d := dword b 1
  let cmd := bits h 7 0
  bits h 47 21 == 0 && bits h 15 8 == 0 && (bits h 20 20 == 1 || (bits h 63 48 == 0 && bits h 19 16 == 0)) &&
    (if cmd = 1 then
      let x := mfmtOf b
      bits d 63 16 == 0 && bits d 15 13 == 0 && decide (x.afmt ≤ 5) && decide (x.bfmt ≤ 5) && pairOk x.afmt x.bfmt
        && scaleOk x.afmt x.asm && scaleOk x.bfmt x.bsm && (x.asm == 2 || x.ats == 0) && (x.bsm == 2 || x.bts == 0) && zeroFrom b 3
    else if cmd = 2 then bits d 63 11 == 0 && d % 4 == 0 && zeroFrom b 2
    else if cmd = 3 then
      bits d 63 24 == 0 && decide (1 ≤ bits d 23 16) && bits d 15 11 == 0 && bits d 10 0 % 4 == 0
        && addrOk (dword b 2) 16 && layoutOk (dword b 3) m.afmt 0 && addrOk (dword b 4) 16 && layoutOk (dword b 5) m.bfmt 1
        && (if m.asm = 1 then addrOk (dword b 6) 32 else dword b 6 == 0) && (if m.bsm = 1 then addrOk (dword b 7) 32 else dword b 7 == 0)
    else if cmd = 4 then
      let t := bits d 18 16
      bits d 63 22 == 0 && (decide (t ≤ 2) || decide (6 ≤ t)) && bits d 15 11 == 0 && bits d 10 0 % 4 == 0 && addrOk (dword b 2) 16
        && bits (dword b 3) 63 32 == 0 && dword b 3 % 16 == 0 && decide (4 * laneBits t ≤ dword b 3) && zeroFrom b 4
    else if cmd = 5 then bits d 63 17 == 0 && bits d 15 11 == 0 && bits d 10 0 % 4 == 0 && addrOk (dword b 2) 16 && zeroFrom b 3
    else if cmd = 6 then
      bits d 63 8 == 0 && bits d 3 2 == 0 && bits d 1 0 != 0 && bits (dword b 2) 63 48 == 0 && zeroFrom b 3
    else false)

/-! ### Operands (R231) -/

/-- Element `i` of 32 packed elements (R191 to R193). -/
def elemOf (fmt : Nat) (bs : List Byte) (i : Nat) : Val :=
  let x := ofBytes bs
  if fmt = 0 then valOf e2m1 (x / 2 ^ (4 * i) % 16)
  else if fmt = 1 then ofIntVal (toSigned 4 (x / 2 ^ (4 * i)))
  else if fmt = 2 then ofIntVal (toSigned 3 (x / 2 ^ (3 * i)))
  else if fmt = 3 then valOf e4m3 (x / 2 ^ (8 * i) % 256)
  else if fmt = 4 then valOf e5m2 (x / 2 ^ (8 * i) % 256)
  else valOf bf16 (x / 2 ^ (16 * i) % 65536)
/-- The 32 elements along K of output index `i`. -/
def Operand.vec (p : Operand) (ls : List (List Byte)) (i : Nat) : List Val :=
  (List.range 32).map fun j => if p.kal then elemOf p.fmt (ls.getD i []) j else elemOf p.fmt (ls.getD j []) i
/-- The value of an E8M0 scale (R191). -/
def e8m0 (x : Nat) : Val := if x = 255 then .nan else scaled false 1 ((x : Int) - 127)

def scaleOf (fmt sm : Nat) (ts : BitVec 32) (bs : List Byte) (i : Nat) : Val :=
  if sm = 1 then (if fmt = 0 then e8m0 ((bs.getD i 0).toNat) else valOf bf16 (ofBytes ((bs.drop (2 * i)).take 2)))
  else if sm = 2 then f32 ts.toNat else .fin false 1 1

/-! ### What a command touches (R228, R229) -/

/-- Whether every row a command touches is NULL and the operand rows carry fitting layout tags (R228, R231). -/
def State.layoutFits (s : State) (core ten : Nat) (m : MCtx) (b : BitVec 512) : Bool :=
  let k := clusterOf core
  let cmd := bits (dword b 0) 7 0
  let null : Nat → Bool := fun r => (s.ctlOf r).state == .null
  (cmd = 1 || cmd = 6 || (accRows core b).all null) &&
    (cmdPieces m b).all fun p => p.1.all fun x =>
      match (s.xlatCluster k ten x.1).1 with
      | .ok e =>
        match regionOf (e.at x.1) with
        | .rowStore rid _ =>
          let tag := (s.ctlOf rid).wake.toNat % 16
          null rid && (match p.2.2 with
            | some sw => if tag / 8 = 1 then tag % 8 == sw else sw == 0
            | none => true)
        | _ => true
      | _ => true

/-! ### Pushing (R223, R227, R229, R235) -/

/-- The nominal time of a command in a context (R235). -/
def nominal (m : MCtx) (b : BitVec 512) : Nat :=
  let cmd := bits (dword b 0) 7 0
  if cmd = 3 then 16 + bits (dword b 1) 23 16 * (if m.afmt = 5 then 8 else if m.bfmt ≤ 2 then 2 else 4)
  else if cmd = 4 then 40 else if cmd = 5 then 8 else if cmd = 2 then 4 else 1
def nominalSum (m : MCtx) : List MCmd → Nat
  | [] => 0
  | c :: rest => nominal m c.block + nominalSum (ctxAfter m [c]) rest
/-- A command block stored to the window at `ea`. -/
def State.pushMatrix (s : State) (ea : W) (b : BitVec 512) : Res State := do
  let core := s.myCore
  let k := s.myCluster
  let ten := s.rowTenant s.me
  let m := ctxAfter (s.cs core).mctx (s.cs core).mq
  if !blockOk m b then trap .illegal ea
  let s ← s.alone
  let _ ← s.afterAll
  if s.vecBusy s.me then stall
  if 8 ≤ (s.cs core).mq.length || !s.mayTake s.me (onCore core) 5 (8 - (s.cs core).mq.length) then wait 5 0 0
  let post := bits (dword b 0) 7 0 == 6 && bits (dword b 1) 1 1 == 1
  let tag ← if !post then .ok none else match s.slotFor s.me with
    | some t => .ok (some t)
    | none => wait 3 0 1
  match s.commandLocks k ten (fun _ => true) (cmdRanges m b) (accLock core b) with
  | .error a => trap .access (BitVec.ofNat 64 a)
  | .ok locks =>
    if locks ≠ [] && !s.locksGrant s.me locks.length then wait 11 0 locks.length
    let (id, s) := s.tick
    let s := (s.modThr s.me fun t => { t with claim := 0, lockClaim := 0 }).addLocks k id locks true
    let s := match tag with
      | some t =>
        let when_ := (s.cycle + nominalSum (s.cs core).mctx (s.cs core).mq + nominal m b) % 2 ^ 56
        (s.takeSlot s.me t).modThr s.me fun x => { x with mqprom := BitVec.ofNat 64 (t * 2 ^ 56 + when_) }
      | none => s
    .ok (s.modLoaded core fun c => { c with mq := c.mq ++ [{ id := id, block := b, rid := s.me, tag := tag }] })

/-! ### The sequencer (R225, R226) -/

/-- The head command of a core's queue of a kind, when nothing holds it: not at the bar, its quad running
(23_stack_fabric.md R347), none of its writes held, no range-lock entry waited for (entry 101), and its wait condition met, which is a condition of its start only. -/
def State.mqHead (s : State) (core cmd : Nat) : Option MCmd :=
  let c := s.cs core
  match c.mq with
  | [] => none
  | h :: _ =>
    let d := dword h.block 0
    if mqCmd h ≠ cmd ∨ c.mqBar ∨ (s.quadOf (quadOfCore core)).power ≠ .running ∨ s.writeHeld h.id
      ∨ s.lateFor (clusterOf core) h.id then none
    else if !h.started ∧ bits d 20 20 = 1 ∧ (tget 0 c.tbs (bits d 19 16) : BitVec 16).toNat < bits d 63 48 then none
    else some h
/-- The head command changed. -/
def State.modHead (s : State) (core : Nat) (f : MCmd → MCmd) : State := s.modLoaded core fun c => { c with mq := modAt c.mq 0 f }
/-- The head command leaves the queue. -/
def State.mqPop (s : State) (core : Nat) (h : MCmd) : State :=
  let s := s.modLoaded core fun c => { c with mq := c.mq.drop 1, mqDone := c.mqDone + 1 }
  (s.freeLocks (clusterOf core) h.id).mqServe core
/-- How a command stops: it goes to the bar, aborts, or goes on later. -/
def State.mqStop (s : State) (core : Nat) (e : EStop) : State :=
  let ten := (s.coreOf core).loaded
  match e with
  | .bar x =>
    ((s.modHead core fun h => { h with checked := false }).modLoaded core fun c => { c with mqBar := true }).toBar ten (clusterOf core)
      (.matrix core) x
  | .abort c => s.mqAbort core ten c.code
  | .dropped t => t.mqAbort core ten Cause.owner.code
  | .hold => s
/-- A command started (R228): `LAYOUT` before any change, and again after a wait at the bar, which may have brought in pages of it. Where a row is
not NULL and `PERM` (R236) holds too, `LAYOUT` is reported (DESIGN CHOICE; entry 95). None when it aborted. -/
def State.mqStart (s : State) (core : Nat) (h : MCmd) : Except State State :=
  if h.checked then .ok s
  else
    let ten := (s.coreOf core).loaded
    if s.layoutFits core ten (s.cs core).mctx h.block then .ok (s.modHead core fun h => { h with started := true, checked := true })
    else .error (s.mqAbort core ten Cause.layout.code)

/-! ### Accumulators (R222) -/

def accAddr (core acc m n : Nat) : Nat := rowAddr (ridOf core (acc + m / 8)) + m % 8 * 128 + 4 * n
def State.accGet (s : State) (core acc m n : Nat) : Nat := s.peek (accAddr core acc m n) 4
/-- The rows of an accumulator rewritten element by element; each row's write takes a commit slot of its cluster (R132). -/
def State.accMap (s : State) (core acc : Nat) (f : Nat → Nat → Nat → Nat) : State :=
  (List.range 32).foldl (fun t m =>
    let a := accAddr core acc m 0
    (t.landStore { ten := (s.coreOf core).loaded, id := 0 } a ((List.range 32).flatMap fun n => bytesOf 4 (f m n (s.accGet core acc m n)))).beatSlots
      [(a, 128)]) s
/-- An uncorrectable word in an accumulator that a command reads. -/
def State.accBad (s : State) (core acc : Nat) : Bool :=
  let a := accAddr core acc 0 0
  (s.uncorrAt a 4096).isSome
/-- `Rne32`, or its saturating form (R230). -/
def mround (m : MCtx) (v : Val) : Nat := (rnd fp32 .rne m.sat v).enc

/-! ### MMA (R198, R232) -/

/-- Groups of pieces read in order. -/
def State.unitGroups (s : State) (k ten : Nat) (ok : Region → Bool) : List (List (Nat × Nat)) → Except EStop (List (List Byte) × State)
  | [] => .ok ([], s)
  | g :: rest => do
    let (b, s) ← s.unitReads k ten ok g
    let (bs, s) ← s.unitGroups k ten ok rest
    .ok (b :: bs, s)
/-- One K-block accumulated, all its reads before it. -/
def State.mmaBlock (s : State) (core : Nat) (b : BitVec 512) (kb : Nat) : Except EStop State := do
  let m := (s.cs core).mctx
  let k := clusterOf core
  let ten := (s.coreOf core).loaded
  let ok := matrixTarget k
  let acc := bits (dword b 1) 10 0
  let pa := mmaOperand b m false
  let pb := mmaOperand b m true
  let (as, s) ← s.unitGroups k ten ok (pa.kblock kb)
  let (bs, s) ← s.unitGroups k ten ok (pb.kblock kb)
  let (sa, s) ← if m.asm = 1 then s.unitReads k ten ok (cut16 8 (dword b 6 + scaleBytes m.afmt * kb) (scaleBytes m.afmt)) else .ok ([], s)
  let (sb, s) ← if m.bsm = 1 then s.unitReads k ten ok (cut16 8 (dword b 7 + scaleBytes m.bfmt * kb) (scaleBytes m.bfmt)) else .ok ([], s)
  if s.accBad core acc then .error (.abort .uncorr)
  let cols := (List.range 32).map fun n => (pb.vec bs n, scaleOf m.bfmt m.bsm m.bts sb n)
  let rows := (List.range 32).map fun i => (pa.vec as i, scaleOf m.afmt m.asm m.ats sa i)
  .ok (s.accMap core acc fun i n old =>
    let a := rows.getD i ([], .nan)
    let c := cols.getD n ([], .nan)
    let sum := blockSum (a.1.zipWith Val.mul c.1)
    let scale := a.2.mul c.2
    let v := if sum.isZero && scale.isFinite then .fin false 0 1 else f32 (mround m (sum.mul scale))
    mround m ((f32 old).add false v))
/-- Up to `n` K-blocks of the head `MMA`; it completes after its last. -/
def State.mmaRun : Nat → State → Nat → State
  | 0, s, _ => s
  | n + 1, s, core =>
    match s.mqHead core 3 with
    | none => s
    | some h =>
      match s.mqStart core h with
      | .error s => s
      | .ok s =>
        match s.mmaBlock core h.block h.pos with
        | .error e => s.mqStop core e
        | .ok s =>
          if h.pos + 1 < bits (dword h.block 1) 23 16 then
            State.mmaRun n (s.modHead core fun h => { h with pos := h.pos + 1 }) core
          else s.mqPop core h
/-- MMA (R231): every K-block that is left. -/
def execMma (s : State) : Out := .next (s.mmaRun 256 s.sel.unit)
/-- MMA_KBLOCK (R232): one K-block. -/
def execMmaKblock (s : State) : Out := .next (s.mmaRun 1 s.sel.unit)

/-! ### The other commands -/

/-- MFMT (R230): the context set. -/
def execMfmt (s : State) : Out :=
  let core := s.sel.unit
  match s.mqHead core 1 with
  | none => .next s
  | some h => .next ((s.modLoaded core fun c => { c with mctx := mfmtOf h.block }).mqPop core h)
/-- MZERO (R234): the accumulator set to zero bytes. -/
def execMzero (s : State) : Out :=
  let core := s.sel.unit
  match s.mqHead core 2 with
  | none => .next s
  | some h =>
    match s.mqStart core h with
    | .error s => .next s
    | .ok s => .next ((s.accMap core (bits (dword h.block 1) 10 0) fun _ _ _ => 0).mqPop core h)
/-- One line of `MOUT` (R233, R202). -/
def State.moutLine (s : State) (core : Nat) (h : MCmd) (m : Nat) : Except EStop State :=
  let b := h.block
  let d := dword b 1
  let acc := bits d 10 0
  let ty := bits d 18 16
  let xs := (List.range 32).map fun n => s.accGet core acc m n
  let out := if ty = 0 then xs else cvtBlock ty (bits d 20 20 == 1) (bits d 19 19 == 1) false (xs.map f32)
  let k := clusterOf core
  (s.unitPut k { ten := (s.coreOf core).loaded, id := h.id } (dword b 2 + m * dword b 3)
    (bytesOf (4 * laneBits ty) (joinLanes (laneBits ty) out)) (matrixTarget k)).map (·.2)
/-- The lines of the head `MOUT` from its position on, up to one whose write a BUSY octet holds; after the last, it completes. -/
def State.moutRun : Nat → State → Nat → MCmd → State
  | 0, s, _, _ => s
  | f + 1, s, core, h =>
    let acc := bits (dword h.block 1) 10 0
    if 32 ≤ h.pos then
      let s := if bits (dword h.block 1) 21 21 = 1 then s.accMap core acc fun _ _ _ => 0 else s
      s.mqPop core h
    else match (if s.accBad core acc then .error (.abort .uncorr) else s.moutLine core h h.pos : Except EStop State) with
    | .error e => s.mqStop core e
    | .ok s =>
      let s := s.modHead core fun h => { h with pos := h.pos + 1 }
      if s.writeHeld h.id then s else State.moutRun f s core { h with pos := h.pos + 1 }
/-- MOUT (R233). -/
def execMout (s : State) : Out :=
  let core := s.sel.unit
  match s.mqHead core 4 with
  | none => .next s
  | some h =>
    match s.mqStart core h with
    | .error s => .next s
    | .ok s => .next (s.moutRun 33 core h)
/-- MBIAS (R234): all of v read, then each element summed. -/
def execMbias (s : State) : Out :=
  let core := s.sel.unit
  match s.mqHead core 5 with
  | none => .next s
  | some h =>
    match s.mqStart core h with
    | .error s => .next s
    | .ok s =>
      let k := clusterOf core
      let m := (s.cs core).mctx
      let d := dword h.block 1
      let acc := bits d 10 0
      match s.unitGet k (s.coreOf core).loaded (dword h.block 2) 128 (matrixTarget k) with
      | .error e => .next (s.mqStop core e)
      | .ok (v, s) =>
        if s.accBad core acc then .next (s.mqStop core (.abort .uncorr)) else
        let at_ : Nat → Val := fun i => f32 (ofBytes ((v.drop (4 * i)).take 4))
        .next ((s.accMap core acc fun i n old => mround m ((f32 old).add false (at_ (if bits d 16 16 = 1 then i else n)))).mqPop core h)
/-- MSIGNAL (R235): its arrival and its message. -/
def execMsignal (s : State) : Out :=
  let core := s.sel.unit
  match s.mqHead core 6 with
  | none => .next s
  | some h => .next ((s.mqPop core h).mqWake core (s.coreOf core).loaded 0 h)

end Sys2Proof.Machine
end

