-- ==== Sys2Proof/Machine/Memory.lean ====
section
/-! DEFINITION. Loads and stores (09_memory_sync.md R152 to R158), atomics (R159, R160), ordered accesses and fences (R161; 07_memory_model.md
R140 to R143), and LOAD_PERFORM, OUTBOUND_DRAIN, CHUNK_COMMIT and COMMIT_GRANT. -/

namespace Sys2Proof.Machine

/-! ### Loads and stores -/

/-- The effective address of `imm(gA)`, and of `gA + gB × 2^SCL`. -/
def State.eaImm (s : State) (a : BitVec 5) (i : BitVec 14) : Res (W × State) := do
  let (x, s) ← s.src a.toNat
  .ok (x + immOf i, s)
def State.eaIdx (s : State) (a b : BitVec 5) (k : BitVec 2) : Res (W × State) := do
  let (x, s) ← s.src a.toNat
  let (y, s) ← s.src b.toNat
  .ok (x + y * BitVec.ofNat 64 (2 ^ k.toNat), s)
/-- A load word. -/
def State.ldOp (s : State) (ea : Res (W × State)) (n : Nat) (b : Bind) (k : AccKind := .load) : Out :=
  s.runWord (do
    let _ ← s.noPacket
    let (a, s) ← ea
    s.load a n b false k)
/-- A scalar store word. -/
def State.stOp (s : State) (ea : Res (W × State)) (d : BitVec 5) (n : Nat) : Out :=
  s.runWord (do
    let _ ← s.noPacket
    let (a, s) ← ea
    let (x, s) ← s.src d.toNat
    s.store a n x.toNat)
/-- A segment store word. R155 lists `VST` but no segment `STX` for host memory, and so for loads; a store to the matrix queue window pushes a command block (12_vector_matrix.md R223). -/
def State.stSeg (s : State) (ea : Res (W × State)) (d : BitVec 5) (k : AccKind := .store) : Out :=
  s.runWord (do
    let _ ← s.noPacket
    let (a, s) ← ea
    let v ← s.seg d.toNat
    let (pa, s) ← s.access a 64 k
    match regionOf pa with
    | .coreMmio _ 0 => s.pushMatrix a (BitVec.ofNat 512 v)
    | _ => s.storeAt pa (bytesOf 64 v) false)

def execLdb (d a : BitVec 5) (i : BitVec 14) (s : State) : Out := s.ldOp (s.eaImm a i) 1 (.scalar d.toNat true)
def execLdh (d a : BitVec 5) (i : BitVec 14) (s : State) : Out := s.ldOp (s.eaImm a i) 2 (.scalar d.toNat true)
def execLdw (d a : BitVec 5) (i : BitVec 14) (s : State) : Out := s.ldOp (s.eaImm a i) 4 (.scalar d.toNat true)
def execLdd (d a : BitVec 5) (i : BitVec 14) (s : State) : Out := s.ldOp (s.eaImm a i) 8 (.scalar d.toNat false)
def execLdbu (d a : BitVec 5) (i : BitVec 14) (s : State) : Out := s.ldOp (s.eaImm a i) 1 (.scalar d.toNat false)
def execLdhu (d a : BitVec 5) (i : BitVec 14) (s : State) : Out := s.ldOp (s.eaImm a i) 2 (.scalar d.toNat false)
def execLdwu (d a : BitVec 5) (i : BitVec 14) (s : State) : Out := s.ldOp (s.eaImm a i) 4 (.scalar d.toNat false)
def execVld (d a : BitVec 5) (i : BitVec 14) (s : State) : Out := s.ldOp (s.eaImm a i) 64 (.segment d.toNat)
def execStb (d a : BitVec 5) (i : BitVec 14) (s : State) : Out := s.stOp (s.eaImm a i) d 1
def execSth (d a : BitVec 5) (i : BitVec 14) (s : State) : Out := s.stOp (s.eaImm a i) d 2
def execStw (d a : BitVec 5) (i : BitVec 14) (s : State) : Out := s.stOp (s.eaImm a i) d 4
def execStd (d a : BitVec 5) (i : BitVec 14) (s : State) : Out := s.stOp (s.eaImm a i) d 8
def execVst (d a : BitVec 5) (i : BitVec 14) (s : State) : Out := s.stSeg (s.eaImm a i) d
def execLdxB (d a b : BitVec 5) (k : BitVec 2) (s : State) : Out := s.ldOp (s.eaIdx a b k) 1 (.scalar d.toNat true)
def execLdxH (d a b : BitVec 5) (k : BitVec 2) (s : State) : Out := s.ldOp (s.eaIdx a b k) 2 (.scalar d.toNat true)
def execLdxW (d a b : BitVec 5) (k : BitVec 2) (s : State) : Out := s.ldOp (s.eaIdx a b k) 4 (.scalar d.toNat true)
def execLdxD (d a b : BitVec 5) (k : BitVec 2) (s : State) : Out := s.ldOp (s.eaIdx a b k) 8 (.scalar d.toNat false)
def execLdxBu (d a b : BitVec 5) (k : BitVec 2) (s : State) : Out := s.ldOp (s.eaIdx a b k) 1 (.scalar d.toNat false)
def execLdxHu (d a b : BitVec 5) (k : BitVec 2) (s : State) : Out := s.ldOp (s.eaIdx a b k) 2 (.scalar d.toNat false)
def execLdxWu (d a b : BitVec 5) (k : BitVec 2) (s : State) : Out := s.ldOp (s.eaIdx a b k) 4 (.scalar d.toNat false)
def execLdxV (d a b : BitVec 5) (k : BitVec 2) (s : State) : Out := s.ldOp (s.eaIdx a b k) 64 (.segment d.toNat) (.indexed false)
def execStxB (d a b : BitVec 5) (k : BitVec 2) (s : State) : Out := s.stOp (s.eaIdx a b k) d 1
def execStxH (d a b : BitVec 5) (k : BitVec 2) (s : State) : Out := s.stOp (s.eaIdx a b k) d 2
def execStxW (d a b : BitVec 5) (k : BitVec 2) (s : State) : Out := s.stOp (s.eaIdx a b k) d 4
def execStxD (d a b : BitVec 5) (k : BitVec 2) (s : State) : Out := s.stOp (s.eaIdx a b k) d 8
def execStxV (d a b : BitVec 5) (k : BitVec 2) (s : State) : Out := s.stSeg (s.eaIdx a b k) d (.indexed true)

/-! ### Atomics (R159, R160) -/

/-- Whether a scope is `PACKAGE` or `DOMAIN`. -/
def wideScope (c : BitVec 3) : Bool := decide (4 ≤ c.toNat)
/-- A release of a scope up to `CLUSTER` (R141): the chunk is marked with what it asks for; at its first step, and in a one-bundle chunk, which
commits without a test, that must hold. At `THREAD` every store is visible once it has issued (R125), and only the loads count. -/
def State.markRelease (s : State) (c : BitVec 3) : Res State :=
  let r := s.releaseNow (c != 0)
  if ((s.thrOf s.me).chunk.steps = 0 ∨ (s.thrOf s.me).chunk.limit = 1) ∧ !s.releaseReady s.me r then stall
  else .ok (s.modChunk s.me fun c => { c with release := some (r.both c.release) })
/-- The ordering side of an access: at a wide scope it stands alone, and a release waits for the stores before it. -/
def State.sides (s : State) (c : BitVec 3) (acq rel : Bool) : Res State :=
  if isBase s.me then .ok s
  else if wideScope c && (acq || rel) then do
    let s ← s.alone
    if rel then
      let _ ← s.afterAll
      .ok s
    else .ok s
  else if rel then s.markRelease c
  else .ok s
def State.atomOp (s : State) (n aop : Nat) (d a b : BitVec 5) (c : BitVec 3) (r : BitVec 2) : Out :=
  s.runWord (do
    let _ ← s.noPacket
    let (ea, s) ← s.src a.toNat
    let (x, s) ← s.src b.toNat
    let (e, s) ← if aop = 2 then s.src d.toNat else .ok (0, s)
    let acq := r.getLsbD 0
    let s ← s.sides c acq (r.getLsbD 1)
    s.atomic ea n aop x.toNat e.toNat d.toNat acq)
def execAtomwAdd (d a b : BitVec 5) (c : BitVec 3) (r : BitVec 2) (s : State) : Out := s.atomOp 4 0 d a b c r
def execAtomwSwap (d a b : BitVec 5) (c : BitVec 3) (r : BitVec 2) (s : State) : Out := s.atomOp 4 1 d a b c r
def execAtomwCas (d a b : BitVec 5) (c : BitVec 3) (r : BitVec 2) (s : State) : Out := s.atomOp 4 2 d a b c r
def execAtomwAnd (d a b : BitVec 5) (c : BitVec 3) (r : BitVec 2) (s : State) : Out := s.atomOp 4 3 d a b c r
def execAtomwOr (d a b : BitVec 5) (c : BitVec 3) (r : BitVec 2) (s : State) : Out := s.atomOp 4 4 d a b c r
def execAtomwXor (d a b : BitVec 5) (c : BitVec 3) (r : BitVec 2) (s : State) : Out := s.atomOp 4 5 d a b c r
def execAtomwMin (d a b : BitVec 5) (c : BitVec 3) (r : BitVec 2) (s : State) : Out := s.atomOp 4 6 d a b c r
def execAtomwMax (d a b : BitVec 5) (c : BitVec 3) (r : BitVec 2) (s : State) : Out := s.atomOp 4 7 d a b c r
def execAtomwMinu (d a b : BitVec 5) (c : BitVec 3) (r : BitVec 2) (s : State) : Out := s.atomOp 4 8 d a b c r
def execAtomwMaxu (d a b : BitVec 5) (c : BitVec 3) (r : BitVec 2) (s : State) : Out := s.atomOp 4 9 d a b c r
def execAtomdAdd (d a b : BitVec 5) (c : BitVec 3) (r : BitVec 2) (s : State) : Out := s.atomOp 8 0 d a b c r
def execAtomdSwap (d a b : BitVec 5) (c : BitVec 3) (r : BitVec 2) (s : State) : Out := s.atomOp 8 1 d a b c r
def execAtomdCas (d a b : BitVec 5) (c : BitVec 3) (r : BitVec 2) (s : State) : Out := s.atomOp 8 2 d a b c r
def execAtomdAnd (d a b : BitVec 5) (c : BitVec 3) (r : BitVec 2) (s : State) : Out := s.atomOp 8 3 d a b c r
def execAtomdOr (d a b : BitVec 5) (c : BitVec 3) (r : BitVec 2) (s : State) : Out := s.atomOp 8 4 d a b c r
def execAtomdXor (d a b : BitVec 5) (c : BitVec 3) (r : BitVec 2) (s : State) : Out := s.atomOp 8 5 d a b c r
def execAtomdMin (d a b : BitVec 5) (c : BitVec 3) (r : BitVec 2) (s : State) : Out := s.atomOp 8 6 d a b c r
def execAtomdMax (d a b : BitVec 5) (c : BitVec 3) (r : BitVec 2) (s : State) : Out := s.atomOp 8 7 d a b c r
def execAtomdMinu (d a b : BitVec 5) (c : BitVec 3) (r : BitVec 2) (s : State) : Out := s.atomOp 8 8 d a b c r
def execAtomdMaxu (d a b : BitVec 5) (c : BitVec 3) (r : BitVec 2) (s : State) : Out := s.atomOp 8 9 d a b c r

/-! ### Ordered accesses and fences (R161) -/

/-- `LDA` (07_memory_model.md R140). -/
def State.ldaOp (s : State) (d a : BitVec 5) (c : BitVec 3) (n : Nat) : Out :=
  s.runWord (do
    let _ ← s.threadOnly
    let (ea, s) ← s.src a.toNat
    let s ← s.sides c true false
    s.load ea n (.scalar d.toNat true) true)
/-- `STL` (R141). -/
def State.stlOp (s : State) (a b : BitVec 5) (c : BitVec 3) (n : Nat) : Out :=
  s.runWord (do
    let _ ← s.threadOnly
    let (ea, s) ← s.src a.toNat
    let (x, s) ← s.src b.toNat
    let s ← s.sides c false true
    s.store ea n x.toNat)
/-- `STMC` (R142). -/
def State.stmcOp (s : State) (a b : BitVec 5) (c : BitVec 3) (n : Nat) : Out :=
  s.runWord (do
    let _ ← s.threadOnly
    let (ea, s) ← s.src a.toNat
    let (x, s) ← s.src b.toNat
    let s ← if wideScope c then s.alone else .ok s
    s.store ea n x.toNat (wideScope c))
def execLdaW (d a : BitVec 5) (c : BitVec 3) (s : State) : Out := s.ldaOp d a c 4
def execLdaD (d a : BitVec 5) (c : BitVec 3) (s : State) : Out := s.ldaOp d a c 8
def execStlW (a b : BitVec 5) (c : BitVec 3) (s : State) : Out := s.stlOp a b c 4
def execStlD (a b : BitVec 5) (c : BitVec 3) (s : State) : Out := s.stlOp a b c 8
def execStmcW (a b : BitVec 5) (c : BitVec 3) (s : State) : Out := s.stmcOp a b c 4
def execStmcD (a b : BitVec 5) (c : BitVec 3) (s : State) : Out := s.stmcOp a b c 8
/-- `FENCE` (R143): at a wide scope it completes alone once every earlier access is at its home. At a narrower one, its acquire side holds the
thread until its loads are performed, its release side holds the next commit, and both, wider than `THREAD`, end the chunk. -/
def execFence (c : BitVec 3) (r : BitVec 2) (s : State) : Out :=
  s.runWord (do
    let _ ← s.threadOnly
    if wideScope c then do
      let s ← s.alone
      let _ ← s.afterAll
      .ok s
    else
      let acq := r.getLsbD 0
      let rel := r.getLsbD 1
      let q := s.releaseNow (c != 0)
      let s ← if rel then s.markRelease c else .ok s
      let s := if acq then s.modThr s.me fun t => { t with loads := t.loads.map fun l => { l with acq := l.acq || !l.vec } } else s
      let s := if rel then s.modThr s.me fun t => { t with fence := some (q.both t.fence) } else s
      .ok (if acq && rel && c != 0 then s.modChunk s.me fun c => { c with ended := true } else s))

/-! ### Device steps -/

/-- CHUNK_COMMIT (R130): an attempt to commit the row's chunk, where it must end. -/
def execChunkCommit (s : State) : Out :=
  let rid := ridOf s.sel.unit s.sel.sub
  if s.running rid && s.stepDone rid && (s.thrOf rid).chunk.live && (s.thrOf rid).chunk.ended then
    match s.tryCommit rid with
    | .done s => .next (s.closeLater rid)
    | .replayed s => .next s
    | .notYet => .next s
  else .next s
/-- COMMIT_GRANT (R131): a free grant given to the first row that asked for it. -/
def execCommitGrant (s : State) : Out :=
  let c := s.cluOf s.sel.unit
  match c.grant, c.grantq with
  | none, r :: rest => .next (s.modClu s.sel.unit fun c => { c with grant := some r, grantq := rest })
  | _, _ => .next s
/-- Whether another outbound store reaches bytes of an entry's cell through the other HBM view (R139). -/
def State.otherView (s : State) (e : OutEntry) : Bool :=
  let bl : Nat → Bool := fun a => regionOf a == .bankLinear
  (regionOf e.pa == .hbm || bl e.pa) && s.clu.any fun k => k.2.outq.any fun o => bl o.pa != bl e.pa
    && decide (cellOf o.pa < cellOf e.pa + e.bytes.length) && decide (cellOf e.pa < cellOf o.pa + o.bytes.length)
/-- The address of the same cell through the other HBM view (22_near_memory.md R331). -/
def aliasOf (pa : Nat) : Option Nat :=
  match regionOf pa with
  | .hbm => some (0x800000_0000 + (Config.bankPerm.symm (Fin.ofNat 2147483648 (pa / 256))).val * 256 + pa % 256)
  | .bankLinear => some (cellOf pa)
  | _ => none
/-- Whether a sum of sketches of this package has a header in another one (18_sketches.md R313). -/
def State.sumsIn (s : State) (p : Nat) : Bool :=
  s.oct.any fun o => (o.2.queue ++ o.2.active).any fun c => sumsSketch c.op c.spec && [dword c.spec 1, dword c.spec 2].any fun va =>
    match s.peekHeader (clusterOfOct o.1) c.tenant va with
    | some (.remote q _, _) => q == p
    | _ => false
/-- Whether the outcome of an entry is decided for each aligned 8-byte word: another view's store stands beside it (R139), it touches a range that
a command of another cluster holds (R148), or one that a command holds through the other HBM view (22_near_memory.md R338), or a sum of sketches works there
across packages (18_sketches.md R313), in this one or in another. -/
def State.wordWise (s : State) (k : Nat) (e : OutEntry) : Bool :=
  let n := e.bytes.length
  e.atomic.isNone && (s.otherView e || ((List.range 32).any fun j => j != k && s.rangeLocked j e.pa n true)
    || ((aliasOf e.pa).any fun a => (List.range 32).any fun j => s.rangeLocked j a n true)
    || match regionOf e.pa with
      | .remote p _ => s.sumsIn p
      | _ => s.pkg.farLines.contains (e.pa / 64))
/-- Where the outcome is decided for each word, one aligned word of an entry reaches its home, and the rest of the entry stays. Accesses that are not
decided so stay whole (entries 102, 103). -/
def State.drainWord (s : State) (k i j : Nat) : State :=
  let q := (s.cluOf k).outq
  match q[i]? with
  | none => s
  | some e =>
    if !s.drainable q i || !s.wordWise k e || e.pa % 8 != 0 || decide (e.bytes.length ≤ 8) || decide (e.bytes.length < 8 * j + 8) then s else
    let s := s.arriveStore (e.pa + 8 * j) ((e.bytes.drop (8 * j)).take 8) (s.rowTenant e.rid) (.row e.rid)
    let rest := [{ e with bytes := e.bytes.take (8 * j) }, { e with pa := e.pa + 8 * j + 8, bytes := e.bytes.drop (8 * j + 8) }].filter
      fun e => !e.bytes.isEmpty
    s.modClu k fun c => { c with outq := c.outq.take i ++ rest ++ c.outq.drop (i + 1) }
/-- OUTBOUND_DRAIN (R134, R137): of a whole entry, or of one word of it. -/
def execOutboundDrain (s : State) : Out :=
  .next (if s.sel.flag then s.drainWord s.sel.unit s.sel.sub s.sel.idx else s.drain s.sel.unit s.sel.sub)
/-- LOAD_PERFORM (R135). -/
def execLoadPerform (s : State) : Out := .next (s.performLoad (ridOf s.sel.unit s.sel.sub) s.sel.idx)

end Sys2Proof.Machine
end

