-- ==== Sys2Proof/Machine/Near.lean ====
section
/-! DEFINITION. Near memory (22_near_memory.md R331 to R343): near-bank commands, and handlers on the base-die cores. -/

namespace Sys2Proof.Machine

/-! ### Specifications (R334, R335) -/

def nbSpecOk (b : BitVec 512) : Bool :=
  let d := dword b
  let kind := kindOf b
  let esz := bits (d 0) 26 24
  let n := nbCount b
  headerOk (d 0) false true false && decide (kind ≤ 3) && bits (d 4) 63 35 == 0 && decide (1 ≤ n) && decide (n ≤ 2 ^ 20)
    && zeroDwords b [6, 7] && (kind == 1 || bits (d 4) 34 34 == 0) && (kind == 0 || bits (d 4) 33 32 == 0)
    && (if kind = 0 then esz == 0 && addr57 (d 1) (nbDstSize b) && addr57 (d 2) 2
          && (if nbBsc b then d 3 == 0 && decide (d 5 < 65536) else addr57 (d 3) 2 && d 5 == 0)
        else if kind = 1 then decide (esz ≤ 1) && (if nbWr b then addr57 (d 1) 4 else d 1 == 0) && addr57 (d 2) (nbSrcSize b) && zeroDwords b [3, 5]
        else if kind = 2 then decide (esz ≤ 3) && addr57 (d 1) (nbDstSize b) && zeroDwords b [2, 3]
        else esz == 0 && addr57 (d 1) 1 && addr57 (d 2) 1 && n % 16 == 0 && zeroDwords b [3, 5])
/-- The address whose bank unit runs a command. -/
def nbHome (b : BitVec 512) : Nat := if kindOf b = 1 ∧ !nbWr b then dword b 2 else dword b 1
/-- The bank of a command's home address as it translates now; none where it does not lie in a bank. -/
def State.nbBank (s : State) (k ten : Nat) (b : BitVec 512) : Option Nat :=
  match (s.xlatCluster k ten (nbHome b)).1 with
  | .ok e => if isBankLinear (e.at (nbHome b)) then some (bankOf (e.at (nbHome b))) else none
  | _ => none

/-! ### Issue (R336) -/

/-- The width by which a command's cycles are counted, and the cycles it still owes. -/
def nbWidth (b : BitVec 512) : Nat :=
  let kind := kindOf b
  if kind = 0 then max (nbDstSize b) (nbSrcSize b) else if kind = 1 then (if nbWr b then max (nbDstSize b) (nbSrcSize b) else nbSrcSize b)
  else if kind = 2 then nbDstSize b else 1
def NbCmd.owes (c : NbCmd) : Nat :=
  ((nbCount c.spec - (if kindOf c.spec = 3 then 16 * c.pos else c.pos)) * nbWidth c.spec + 15) / 16
/-- `NBCMD`. A command whose home is in no bank yet queues for bank 0, until it has one. -/
def execNbcmd (d b : BitVec 5) (s : State) : Out :=
  s.runWord (do
    let _ ← s.threadOnly
    let x ← s.seg b.toNat
    let b := BitVec.ofNat 512 x
    if !nbSpecOk b then trap .illegal 0
    let s ← s.alone
    if s.vecBusy s.me then stall
    let k := s.myCluster
    let ten := s.rowTenant s.me
    let rs := nbRanges b
    let _ ← s.sourcesReady k ten rs false
    match s.slotFor s.me with
    | none => wait 3 0 1
    | some tag =>
      match s.commandLocks k ten (fun l => isBankLinear l.lo) rs [] with
      | .error a => trap .access (BitVec.ofNat 64 a)
      | .ok locks =>
        if locks ≠ [] && !s.locksGrant s.me locks.length then wait 11 0 locks.length
        let (id, s) := s.tick
        let bank := (s.nbBank k ten b).getD 0
        let c : NbCmd := { id := id, rid := s.me, tenant := ten, tag := tag, spec := b }
        let ahead := (tget [] s.banks bank).foldl (fun n c => n + c.owes) 0
        let when_ := (s.cycle + 300 + ahead + c.owes) % 2 ^ 56
        let s : State := ((s.modThr s.me fun t => { t with lockClaim := 0 }).takeSlot s.me tag).addLocks k id locks
        let s : State := { s with banks := tset s.banks bank (tget [] s.banks bank ++ [c]) }
        s.dst d.toNat (BitVec.ofNat 64 (tag * 2 ^ 56 + when_)))

/-! ### The bank units (R332, R335, R337) -/

/-- Whether an operand is compute-capable, given the entry that translates its first byte. -/
def State.computeCapable (s : State) (ten : Nat) (r : VRange) (e : TlbEntry) : Bool :=
  (match s.walk1 ten r.va with
   | .leaf _ l 21 _ => bits l 5 5 == 1 && bits l 7 7 == 1 && bits l 12 10 == 1
   | _ => false)
  && e.pin && e.ccap && e.tt == 1 && isBankLinear (e.at r.va) && decide (r.va + r.len ≤ e.va + e.size)
/-- Every operand translated in order: its physical address and entry, or the first stop. `both` says that the destination, which is the first, is read
too, as `NBMAC`'s is (R335). -/
def State.nbXlat (s : State) (k ten : Nat) (both : Bool) : List VRange → Except EStop (List (Nat × TlbEntry) × State)
  | [] => .ok ([], s)
  | r :: rest =>
    match (if both then s.engXlat k ten r.va false else .ok (0, default, s)).bind fun x => x.2.2.engXlat k ten r.va r.write with
    | .error x => .error (if x.cause = .perm then .abort .perm else .bar { x with write := r.write })
    | .ok (pa, e, s) => do
      let (l, s) ← s.nbXlat k ten false rest
      .ok ((pa, e) :: l, s)
/-- The start of a command: translations, then the conditions of R337. -/
def State.nbStart (s : State) (c : NbCmd) : Except EStop (NbCmd × State) := do
  let b := c.spec
  let kind := kindOf b
  let rs := nbRanges b
  let (l, s) ← s.nbXlat (clusterOfRid c.rid) c.tenant (kind == 0) rs
  let ok := (rs.zip l).all fun x => s.computeCapable c.tenant x.1 x.2.2
  let pas := l.map (·.1)
  let one := match pas with
    | [] => true
    | p :: rest => rest.all fun q => if kind = 3 then bankOf p / 1024 == bankOf q / 1024 else kind == 2 || bankOf p == bankOf q
  if !ok || !one then .error (.abort .nbreject)
  let hasDst := kind != 1 || nbWr b
  let src := if hasDst then pas.drop 1 else pas
  .ok ({ c with started := true, dst := if hasDst then pas.headD 0 else 0, srcA := src.headD 0, srcB := (src.drop 1).headD 0 }, s)
/-- Bytes of a bank, one by one. -/
def State.nbGet (s : State) (pa n : Nat) : Except EStop (List Byte) :=
  match s.uncorrAt pa n with
  | some _ => .error (.abort .uncorr)
  | none => .ok ((List.range n).flatMap fun i => s.peekBytes (pa + i) 1)
def State.nbPut (s : State) (pa : Nat) (bs : List Byte) : State :=
  bs.zipIdx.foldl (fun s e => s.poke (pa + e.2) [e.1]) (s.clearUncorr pa bs.length)
/-- One element of a started command, or a 16-byte unit of an `NBCOPY`. -/
def State.nbElement (s : State) (c : NbCmd) : Except EStop (NbCmd × State) := do
  let b := c.spec
  let kind := kindOf b
  let i := c.pos
  let c' := { c with pos := i + 1 }
  if kind = 0 then
    let f := if bits (dword b 4) 32 32 = 1 then bf16 else fp32
    let w := nbDstSize b
    let y ← s.nbGet (c.dst + w * i) w
    let a ← s.nbGet (c.srcA + 2 * i) 2
    let x ← if nbBsc b then .ok (bytesOf 2 (dword b 5)) else s.nbGet (c.srcB + 2 * i) 2
    let v := (valOf f (ofBytes y)).add false ((valOf bf16 (ofBytes a)).mul (valOf bf16 (ofBytes x)))
    .ok (c', s.nbPut (c.dst + w * i) (bytesOf w (rnd f .rne false v).enc))
  else if kind = 1 then
    let w := nbSrcSize b
    let x ← s.nbGet (c.srcA + w * i) w
    let acc := rne32 ((f32 c.acc).add false (valOf (if w = 2 then bf16 else fp32) (ofBytes x)))
    .ok ({ c' with acc := acc }, if i + 1 = nbCount b ∧ nbWr b then s.nbPut c.dst (bytesOf 4 acc) else s)
  else if kind = 2 then
    let w := eszOf b
    .ok (c', s.nbPut (c.dst + w * i) (bytesOf w (dword b 5)))
  else
    let x ← s.nbGet (c.srcA + 16 * i) 16
    .ok (c', s.nbPut (c.dst + 16 * i) x)
/-- Whether every element of a command is done. -/
def NbCmd.finished (c : NbCmd) : Bool := c.started && decide (nbCount c.spec ≤ if kindOf c.spec = 3 then 16 * c.pos else c.pos)
/-- A command taken off its bank's list, or changed in it. -/
def State.setNb (s : State) (bank : Nat) (c : NbCmd) : State :=
  { s with banks := tset s.banks bank ((tget [] s.banks bank).map fun x => if x.id = c.id then c else x) }
/-- The completion of a command (R249, R251). -/
def State.nbDone (s : State) (bank : Nat) (c : NbCmd) (status : Nat) : State :=
  let s := { s with banks := tset s.banks bank ((tget [] s.banks bank).filter fun x => x.id != c.id) }
  let d0 := dword c.spec 0
  let core := coreOfRid c.rid
  let s := s.freeLocks (clusterOfRid c.rid) c.id
  if s.discards core c.id then s else
  let s := if bits d0 43 43 = 1 then s.tbArrive core c.tenant (bits d0 47 44) else s
  s.post core c.tenant c.tag status (if kindOf c.spec = 1 then c.acc else 0)
/-- The command that a bank unit works on: the one that has started, else the first that is not at the bar and waits for no range-lock entry (entry
101). -/
def State.nbHead (s : State) (bank : Nat) : Option NbCmd :=
  let l := tget [] s.banks bank
  match l.find? fun c => c.started with
  | some c => if s.lateFor (clusterOfRid c.rid) c.id then none else some c
  | none => l.find? fun c => !c.bar && !s.lateFor (clusterOfRid c.rid) c.id
/-- The bank to which a command that has not started must go, because its home lies there. -/
def State.nbMoves (s : State) (bank : Nat) (c : NbCmd) : Option Nat :=
  if c.started then none else match s.nbBank (clusterOfRid c.rid) c.tenant c.spec with
  | some b => if b = bank then none else some b
  | none => none
/-- One step of a bank unit on a command of a kind: its start, or an element. A command whose home turns out to lie in another bank goes there
(R336). -/
def State.nbStep (s : State) (kind : Nat) : Out :=
  let bank := s.sel.unit
  match s.nbHead bank with
  | none => .next s
  | some c =>
    if kindOf c.spec ≠ kind then .next s else
    match s.nbMoves bank c with
    | some b =>
      .next { s with banks := tset (tset s.banks bank ((tget [] s.banks bank).filter fun x => x.id != c.id)) b (tget [] s.banks b ++ [c]) }
    | none =>
    match if c.started then s.nbElement c else s.nbStart c with
    | .ok (c, s) => .next (if c.finished then s.nbDone bank c 0 else s.setNb bank c)
    | .error (.bar x) => .next ((s.setNb bank { c with bar := true }).toBar c.tenant (clusterOfRid c.rid) (.nearbank bank c.id) x)
    | .error (.abort cause) => .next (s.nbDone bank c cause.code)
    | .error (.dropped t) => .next (t.nbDone bank c Cause.owner.code)
    | .error .hold => .next s
def execNbmac (s : State) : Out := s.nbStep 0
def execNbred (s : State) : Out := s.nbStep 1
def execNbfill (s : State) : Out := s.nbStep 2
def execNbcopy (s : State) : Out := s.nbStep 3

/-! ### Handlers on the base-die cores (R340 to R343) -/

/-- `NHSEND`. -/
def execNhsend (a b : BitVec 5) (s : State) : Out :=
  s.runWord (do
    let _ ← s.threadOnly
    let (x, s) ← s.src a.toNat
    if s.vecBusy s.me then stall
    let v ← s.seg b.toNat
    let n := x.toNat
    let c := bits n 10 8 * 8 + bits n 6 4
    let h := bits n 3 0
    let ten := s.rowTenant s.me
    let e : W × W := tget (0, 0) (s.bdcOf c).nhtab h
    if n / 2048 ≠ 0 ∨ bits n 7 7 ≠ 0 ∨ !e.1.getLsbD 0 ∨ e.2.toNat ≠ ten then trap .access x
    let s ← s.alone
    let _ ← s.afterAll
    match s.slotFor s.me with
    | none => wait 3 0 1
    | some tag =>
      if !s.mayTake s.me (fun _ => true) (0x1B + 256 * c) (64 - (s.bdcOf c).inq.length) then wait 1 0x1B c
      let s := (s.takeSlot s.me tag).modThr s.me fun t => { t with claim := if t.claim = 0x1B + 256 * c then 0 else t.claim }
      .ok (s.modBdc c fun x => { x with inq := x.inq ++ [(BitVec.ofNat 512 v, nameOf s.me, h, tag, ten)] }))
/-- NH_HANDLER_START (R342): the next queued handler starts in the core's private row. -/
def execNhHandlerStart (s : State) : Out :=
  let b := s.sel.unit
  let x := s.bdcOf b
  match x.run, x.inq with
  | none, (payload, sender, h, slot, ten) :: rest =>
    if 64 ≤ b then .next s else
    let rid := baseRid + b
    let e : W × W := tget (0, 0) x.nhtab h
    let s := s.modBdc b fun x => { x with inq := rest, run := some (sender, h, slot, ten), bundles := 0, tenant := ten }
    let s := s.serveInbound b
    let s := s.rowZero rid 0 320
    let s := ((s.rowPut rid 8 8 sender.toNat).rowPut rid 16 8 h).rowPut rid 320 64 payload.toNat
    .next ((s.setThr rid {}).setCtl rid { state := .opened, pc := BitVec.ofNat 57 (bits e.1.toNat 56 2 * 4) })
  | _, _ => .next s

end Sys2Proof.Machine
end

