-- ==== Sys2Proof/Machine/SketchOps.lean ====
section
/-! DEFINITION. Sketch instructions (18_sketches.md R299 to R311), and SKETCH_COUNTER_OP and SKQRY_RESULT. -/

namespace Sys2Proof.Machine

/-! ### The header at issue (R300) -/

/-- A header's checks as a core access, without range locks (19_sketch_at_work.md R314). `reads` says that the instruction reads the header: `SKDEF` only
writes it (R303). -/
def State.headerAt (s : State) (ea : W) (write : Bool) (reads : Bool := true) : Res (Nat × State) :=
  let a := ea.toNat
  if bits a 63 57 ≠ 0 then trap .access ea
  else if a % 64 ≠ 0 then trap .align ea
  else match s.coreXlat s.me a .read with
    | .access r => .error (.trap .access ea r)
    | .line => stall
    | .ok pa _ s =>
      let w : CoreX := if write then s.coreXlat s.me a .rmw else .ok pa 0 s
      match w with
      | .access r => .error (.trap .access ea r)
      | .line => stall
      | .ok _ _ s =>
        if rowAddr s.me ≤ pa ∧ pa < rowAddr s.me + 320 then trap .access ea
        else if !s.targetTakes pa 64 .load then trap .access ea
        else match if reads then s.uncorrAt pa 64 else none with
          | some u => trap .uncorr (BitVec.ofNat 64 u)
          | none => do
            let s ← s.reach pa 64
            if (s.cluOf s.myCluster).outq.any (fun e => e.rid == s.me) || !(s.thrOf s.me).loads.isEmpty then stall
            .ok (pa, s)
/-- A sketch word's start: alone, with its header read and valid. -/
def State.sketchHead (s : State) (a : W) (write : Bool) : Res (Nat × BitVec 512 × State) := do
  let s ← s.alone
  if s.vecBusy s.me then stall
  let (hpa, s) ← s.headerAt a write
  let h := BitVec.ofNat 512 (s.homeRead hpa 64)
  if !sketchValid h then trap .illegal a
  .ok (hpa, h, s)
/-- Earlier posted operations of a row on a sketch (R309). -/
def State.postedBefore (s : State) (rid hpa id : Nat) : Bool := s.pip.any fun p => p.rid == rid && p.hpa == hpa && decide (p.id < id)
/-- A posted operation (R301): a mailbox slot taken, and the operation handed off. -/
def State.postOp (s : State) (opcode : Nat) (hva : W) (hpa : Nat) (h : BitVec 512) (kind : PipKind) : Res State :=
  match s.slotFor s.me with
  | none => wait 3 0 1
  | some tag =>
    let (id, s) := s.tick
    .ok { s.takeSlot s.me tag with
      pip := s.pip ++ [{ id := id, rid := s.me, tenant := s.rowTenant s.me, tag := tag, opcode := opcode, hva := hva.toNat, hpa := hpa, header := h,
                         kind := kind }] }

/-! ### The instructions (R303 to R308) -/

def execSkdef (a : BitVec 5) (sg : BitVec 4) (s : State) : Out :=
  s.runWord (do
    let _ ← s.threadOnly
    let x ← s.seg sg.toNat
    let (ea, s) ← s.src a.toNat
    let s ← s.alone
    if s.vecBusy s.me then stall
    let (hpa, s) ← s.headerAt ea true false
    let img := BitVec.ofNat 512 x
    let k := sketchOf img
    let overlap := decide (k.cadr < ea.toNat + 64) && decide (ea.toNat < k.cadr + k.size)
    if !sketchValid img || overlap then trap .illegal ea
    if s.postedBefore s.me hpa s.seq then stall
    let (pa, s) ← s.access ea 64 .store
    s.storeAt pa (bytesOf 64 (x - dword img 4 * 2 ^ 256)) false)
def execSkupd (a : BitVec 5) (sg : BitVec 4) (s : State) : Out :=
  s.runWord (do
    let _ ← s.threadOnly
    let x ← s.seg sg.toNat
    let (ea, s) ← s.src a.toNat
    let (hpa, h, s) ← s.sketchHead ea false
    let pairs := (List.range 8).filterMap fun p =>
      let i := bits x (64 * p + 31) (64 * p)
      if i = 0xFFFFFFFF then none else some (BitVec.ofNat 64 (dword h 2 + i), BitVec.ofNat 32 (bits x (64 * p + 63) (64 * p + 32)))
    s.postOp 0x31 ea hpa h (.update pairs))
def execSkupdv (a b : BitVec 5) (sg : BitVec 4) (s : State) : Out :=
  s.runWord (do
    let _ ← s.threadOnly
    let x ← s.seg sg.toNat
    let (ea, s) ← s.src a.toNat
    let (i, s) ← s.src b.toNat
    let (hpa, h, s) ← s.sketchHead ea false
    let pairs := (List.range 16).map fun k => (BitVec.ofNat 64 (dword h 2 + i.toNat + k), BitVec.ofNat 32 (bits x (32 * k + 31) (32 * k)))
    s.postOp 0x32 ea hpa h (.update pairs))
/-- Bytes of a header written at its home at issue, as a store that reaches it (07_memory_model.md R132). -/
def State.headerPut (s : State) (hpa off : Nat) (bs : List Byte) : State :=
  ((s.landStore { ten := s.rowTenant s.me, id := 0 } (hpa + off) bs)).beatSlots [(hpa + off, bs.length)]
/-- `SKSCL` (R307): `EXP` + k is written at issue, after the thread's earlier operations on the sketch (R309). -/
def execSkscl (a b : BitVec 5) (s : State) : Out :=
  s.runWord (do
    let _ ← s.threadOnly
    let (ea, s) ← s.src a.toNat
    let (y, s) ← s.src b.toNat
    let (hpa, h, s) ← s.sketchHead ea true
    let k := y.toInt
    let e := (sketchOf h).exp + k
    if k < -32 || 32 < k || e < -128 || 127 < e then trap .illegal ea
    if s.postedBefore s.me hpa s.seq then stall
    let s ← s.postOp 0x35 ea hpa h (.scale k)
    .ok (s.headerPut hpa 10 (bytesOf 1 (ofInt 8 e))))
/-- `SKCLR` (R307): `SATF` is cleared at issue, after the thread's earlier operations on the sketch (R309). -/
def execSkclr (a : BitVec 5) (s : State) : Out :=
  s.runWord (do
    let _ ← s.threadOnly
    let (ea, s) ← s.src a.toNat
    let (hpa, h, s) ← s.sketchHead ea true
    if s.postedBefore s.me hpa s.seq then stall
    let s ← s.postOp 0x36 ea hpa h .clear
    .ok (s.headerPut hpa 32 (bytesOf 8 0)))
/-- `SKSTAT` (R308). -/
def execSkstat (d a : BitVec 5) (c : BitVec 1) (s : State) : Out :=
  s.runWord (do
    let _ ← s.threadOnly
    let (ea, s) ← s.src a.toNat
    let (hpa, h, s) ← s.sketchHead ea (c == 1)
    if s.postedBefore s.me hpa s.seq then stall
    let s := if c = 1 then s.headerPut hpa 32 (bytesOf 8 0) else s
    s.dst d.toNat (BitVec.ofNat 64 (sketchOf h).satf))
/-- `SKADD` (R306). -/
def execSkadd (d : BitVec 5) (sg : BitVec 4) (s : State) : Out := s.engineIssue d sg .skadd
/-- The buffer of a row's query. -/
def State.queryOf (s : State) (rid : Nat) : Option QBuf := (s.coreOf (coreOfRid rid)).qbufs.find? fun q => q.rid == rid && !q.abandoned
/-- A query buffer freed. -/
def State.freeQuery (s : State) (core order : Nat) : State :=
  (s.modCore core fun c => { c with qbufs := c.qbufs.filter fun q => q.order != order }).serveQbufs core
/-- `SKQRY` (R305): the first execution takes a buffer and blocks, with its reads started and nothing else done, no stream element popped
(03_encoding.md R65); the execution after the results takes them. -/
def execSkqry (d a : BitVec 5) (sg : BitVec 4) (s : State) : Out :=
  let s0 := s
  let r : Res (Bool × State) := do
    let _ ← s.threadOnly
    let x ← s.seg sg.toNat
    let (ea, s) ← s.src a.toNat
    match s.queryOf s.me with
    | some q =>
      let s ← s.alone
      match q.failed, q.result with
      | some v, _ => trap (if q.uncorr then .uncorr else .access) (BitVec.ofNat 64 v)
      | none, some (res, st) =>
        let s := s.setSeg d.toNat res.toNat
        let s := s.setSeg (d.toNat + 1) (s.rowGet s.me (320 + 64 * (d.toNat + 1)) 64 / 2 ^ 64 * 2 ^ 64 + st.toNat)
        .ok (true, s.freeQuery s.myCore q.order)
      | none, none => wait 10 0 0
    | none =>
      let (hpa, h, s) ← s.sketchHead ea false
      if !s.mayTake s.me (onCore s.myCore) 10 (16 - (s.coreOf s.myCore).qbufs.length) then wait 10 0 1
      if !s.quiet then stall
      let (n, s) := s0.tick
      let s := s.modThr s.me fun t => { t with claim := 0 }
      .ok (false, s.modCore s.myCore fun c => { c with
        qbufs := c.qbufs ++ [{ rid := s.me, hva := ea.toNat, hpa := hpa, header := h, idx := BitVec.ofNat 512 x, order := n }] })
  match r with
  | .error st => .next (s.applyStop st)
  | .ok (true, t) => .next t.retire
  | .ok (false, t) => .next (t.stopBlock 10 0 0 none)

/-! ### Counter operations (R296, R307, R312) -/

/-- The counter that the next step of an operation acts on, its row, and what the operation is after it; none where nothing is left. -/
def PipOp.next (p : PipOp) : Option (Nat × Nat × PipOp) :=
  let k := sketchOf p.header
  match p.kind with
  | .update pairs =>
    match pairs[p.pos]? with
    | none => none
    | some (i, _) =>
      some (k.slot p.row i.toNat, p.row,
        if p.row + 1 < k.rows then { p with row := p.row + 1 } else { p with row := 0, pos := p.pos + 1, flagged := false })
  | _ => if p.pos < k.count then some (p.pos, p.pos / 2 ^ k.logw, { p with pos := p.pos + 1 }) else none
/-- Whether the value that an update adds next is clamped, which sets the flag of every row before its counters change (R296). -/
def PipOp.clamps (p : PipOp) : Bool :=
  match p.kind with
  | .update pairs => match pairs[p.pos]? with
    | some (_, x) => ((sketchOf p.header).quantise x.toNat).2
    | none => false
  | _ => false
/-- The operation on a counter of row `row` that comes next; none for a clear, which only writes (R307). -/
def PipOp.counterOp (p : PipOp) (row : Nat) : Option CtrOp :=
  let k := sketchOf p.header
  match p.kind with
  | .update pairs => (pairs[p.pos]?).map fun e =>
    let q := (k.quantise e.2.toNat).1
    .add k.width (if (k.hash row e.1.toNat).2 then -q else q)
  | .scale sh => some (.scale k.width sh)
  | .clear => none
/-- One step of a posted operation: the OR of the flags of a clamped value, or of those that it owes, or one counter operation at its home
(19_sketch_at_work.md R314). -/
def State.pipStep (s : State) (p : PipOp) : Except EStop (Option PipOp × State) :=
  let k := clusterOfRid p.rid
  let w : Writer := { ten := p.tenant, id := p.id }
  let h := sketchOf p.header
  if p.owes ≠ 0 then do
    let (_, s) ← s.orSatf k w p.hva p.owes
    .ok (some { p with owes := 0 }, s)
  else match p.next with
  | none => .ok (none, s)
  | some (i, row, next) =>
    if p.clamps && !p.flagged then do
      let (_, s) ← s.orSatf k w p.hva (2 ^ h.rows - 1)
      .ok (some { p with flagged := true }, s)
    else match p.counterOp row with
    | none => do
      let (_, s) ← s.unitPut k w (h.addr i) (bytesOf h.bytes 0) sketchTarget
      .ok (some next, s)
    | some op => do
      let (pa, s) ← s.opXlat k w.ten (h.addr i) sketchTarget
      let (flag, _, s) ← s.unitOp w pa op row
      .ok (some { next with owes := if flag then 2 ^ row else 0 }, s)
/-- A posted operation changed. -/
def State.setPip (s : State) (p : PipOp) : State := { s with pip := s.pip.map fun (x : PipOp) => if x.id = p.id then p else x }
/-- A posted operation ends: its slot is freed without a message, or an abort posts one (R301). -/
def State.pipEnd (s : State) (p : PipOp) (cause : Option Nat) : State :=
  let core := coreOfRid p.rid
  let s := { s with pip := s.pip.filter fun x => x.id != p.id }
  if s.discards core p.id then s else
  match cause with
  | none => s.freeSlot core p.tenant p.tag
  | some c => s.post core p.tenant p.tag c p.opcode
/-- SKETCH_COUNTER_OP (R312): the next counter operation of a posted instruction, after those of its thread's earlier ones on the sketch
(R309). -/
def execSketchCounterOp (s : State) : Out :=
  match s.pip[s.sel.unit]? with
  | none => .next s
  | some p =>
    if p.bar || s.writeHeld p.id || s.postedBefore p.rid p.hpa p.id then .next s else
    match s.pipStep p with
    | .ok (some q, s) => .next (if q.next.isNone && q.owes == 0 && !s.writeHeld p.id then s.pipEnd p none else s.setPip q)
    | .ok (none, s) => .next (s.pipEnd p none)
    | .error (.bar x) =>
      .next ((s.setPip { p with bar := true }).toBar p.tenant (clusterOfRid p.rid)
        (.posted p.id) x)
    | .error (.abort c) => .next (s.pipEnd p (some c.code))
    | .error (.dropped t) => .next (t.pipEnd p (some Cause.owner.code))
    | .error .hold => .next s

/-! ### Query results (R297, R305) -/

/-- The lanes of a query that are not skipped, with their indices. -/
def QBuf.lanes (q : QBuf) : List (Nat × Nat) :=
  (List.range 16).filterMap fun k =>
    let x := bits q.idx.toNat (32 * k + 31) (32 * k)
    if x = 0xFFFFFFFF then none else some (k, (dword q.header 2 + x) % 2 ^ 64)
/-- The result of a query whose counters are read, with the `SATF` read after them. -/
def QBuf.finish (q : QBuf) (satf : Nat) : BitVec 512 × W :=
  let h := sketchOf q.header
  let sat := satf % 2 ^ h.rows != 0
  let lanes := q.lanes
  let out := (List.range 16).map fun k => match lanes.findIdx? fun l => l.1 == k with
    | some i => h.estimate (medianOf ((q.ests.drop (i * h.rows)).take h.rows))
    | none => 0
  let bitsOf := lanes.foldl (fun a l => a + if sat then 2 ^ l.1 else 0) 0
  (BitVec.ofNat 512 (joinLanes 32 out), BitVec.ofNat 64 (bits satf 8 0 * 65536 + bitsOf))
/-- A query's buffer changed. -/
def State.modQuery (s : State) (core order : Nat) (f : QBuf → QBuf) : State :=
  s.modCore core fun c => { c with qbufs := c.qbufs.map fun q => if q.order = order then f q else q }
/-- A query has its results or its failure: its row is woken, or its abandoned buffer freed. -/
def State.queryDone (s : State) (core : Nat) (q : QBuf) : State :=
  if q.abandoned then s.freeQuery core q.order
  else
    let s := s.modQuery core q.order fun _ => q
    if s.waits q.rid 10 && (s.thrOf q.rid).waitArg == 0 then s.wakeRow q.rid else s
/-- One counter of a query read, or the OR of the flag that it set, or after the last its `SATF`. -/
def State.queryStep (s : State) (core : Nat) (q : QBuf) : Except EStop (QBuf × State) := do
  let k := clusterOf core
  let ten := s.rowTenant q.rid
  let h := sketchOf q.header
  let n := q.ests.length
  if q.owes ≠ 0 then
    let (_, s) ← s.orSatf k { ten := ten, id := q.order } q.hva q.owes
    return ({ q with owes := 0 }, s)
  match q.lanes[n / h.rows]? with
  | some (_, i) =>
    let row := n % h.rows
    let ((v, bad), s) ← s.ctrRead k ten h (h.slot row i)
    .ok ({ q with ests := q.ests ++ [if (h.hash row i).2 then -v else v], owes := if bad then 2 ^ row else 0 }, s)
  | none =>
    let (f, s) ← s.unitRead k ten (q.hva + 32) 8 sketchTarget
    .ok ({ q with result := some (q.finish (ofBytes f)) }, s)
/-- The address of the counter that a query reads next, or of its header for a flag and after the last. -/
def QBuf.nextAddr (q : QBuf) : Nat :=
  let h := sketchOf q.header
  if q.owes ≠ 0 then q.hva else
  match q.lanes[q.ests.length / h.rows]? with
  | some (_, i) => h.addr (h.slot (q.ests.length % h.rows) i)
  | none => q.hva
/-- SKQRY_RESULT (R305): one read of a query in a core's buffers, after the thread's earlier posted operations on the sketch (R309). -/
def execSkqryResult (s : State) : Out :=
  let core := s.sel.unit
  match (s.coreOf core).qbufs[s.sel.sub]? with
  | none => .next s
  | some q =>
    if q.bar || q.result.isSome || q.failed.isSome || s.writeHeld q.order || s.postedBefore q.rid q.hpa q.order then .next s else
    match s.queryStep core q with
    | .ok (q, s) => .next (if q.result.isSome then s.queryDone core q else s.modQuery core q.order fun _ => q)
    | .error (.bar x) =>
      .next ((s.modQuery core q.order fun q => { q with bar := true }).toBar (s.rowTenant q.rid) (clusterOf core) (.query core q.order) x)
    | .error (.abort c) =>
      .next (s.queryDone core { q with failed := some (s.errorAt (clusterOf core) (s.rowTenant q.rid) q.nextAddr c), uncorr := c == .uncorr })
    | .error (.dropped t) => .next (t.queryDone core { q with failed := some q.nextAddr })
    | .error .hold => .next s

end Sys2Proof.Machine
end

