-- ==== Sys2Proof/Machine/Paging.lean ====
section
/-! DEFINITION. Translation and paging at work (13_engines.md R250, R251; 16_translation.md R280, R284 to R287; 17_fault_replay.md R290): walks,
service of faults at the bar, re-entry, and migrations. -/

namespace Sys2Proof.Machine

/-- TLB_WALK (R280): a walk for a core fills its TLBs. Faults are reported by the access that meets them. -/
def execTlbWalk (s : State) : Out :=
  let core := s.sel.unit
  if core < cores ∧ s.sel.sub < 2 ^ 57 then .next (s.xlatCore core (s.tenantOf core) s.sel.sub (s.sel.idx == 2)).2 else .next s

/-! ### Re-entry and abort (R250, R251) -/

/-- An item goes back to its unit. -/
def State.reenter (s : State) (ten : Nat) (b : BarEntry) : State :=
  match b.what with
  | .engine oct c => s.modOct oct fun o => { o with queue := o.queue.takeWhile (·.started) ++ [c] ++ o.queue.dropWhile (·.started) }
  | .matrix core => s.modCs core ten fun c => { c with mqBar := false }
  | .stream _ rid reg => s.modStage rid reg fun x => { x with bar := false }
  | .query core order => s.modQuery core order fun q => { q with bar := false }
  | .posted id => { s with pip := s.pip.map fun (p : PipOp) => if p.id = id then { p with bar := false } else p }
  | .nearbank bank id =>
    match (tget [] s.banks bank).find? fun c => c.id == id with
    | some c => s.setNb bank { c with bar := false }
    | none => s
  | .fabric _ | .gone => s
/-- An item aborts with the cause of its fault. -/
def State.barAbort (s : State) (ten : Nat) (b : BarEntry) : State :=
  match b.what with
  | .engine oct c => s.completeCmd oct { c with status := BitVec.ofNat 8 b.cause.code }
  | .matrix core => s.mqAbort core ten b.cause.code
  | .stream _ rid reg => (s.modStage rid reg fun x => { x with bar := false, failed := some b.va, failedAt := b.va }).wakeReader rid reg
  | .query core order =>
    match (s.coreOf core).qbufs.find? fun q => q.order == order with
    | some q => s.queryDone core { q with bar := false, failed := some b.va }
    | none => s
  | .posted id =>
    match s.pip.find? fun p => p.id == id with
    | some p => s.pipEnd p (some b.cause.code)
    | none => s
  | .nearbank bank id =>
    match (tget [] s.banks bank).find? fun c => c.id == id with
    | some c => s.nbDone bank c b.cause.code
    | none => s
  | .fabric _ | .gone => s
/-- BAR_REENTRY: a served item re-enters once it holds its locks; one whose service failed aborts. A fault in another package is served there
(18_sketches.md R313): the step with `flag` says that its service has failed, else that it is done. -/
def execBarReentry (s : State) : Out :=
  let ten := s.sel.unit
  let i := s.sel.sub
  match (s.tenOf ten).bar[i]? with
  | none => .next s
  | some b =>
    let gone : State → State := fun s => s.modTen ten fun t => { t with bar := t.bar.eraseIdx i }
    if b.refused then .next ((gone s).barAbort ten b |>.serveLocks b.cluster)
    else if !b.served then .next (if b.far then s.serveEntry ten i (!s.sel.flag) else s)
    else match s.barLocks ten i with
      | (true, s) => .next (((gone s).reenter ten b).serveLocks b.cluster)
      | (false, s) => .next s

/-! ### Service of faults by the device (R284, R285, R287) -/

/-- An entry passed to the host. -/
def State.barToHost (s : State) (ten i : Nat) (b : BarEntry) : State :=
  (s.modBarEntry ten i fun b => { b with host := true }).askNext ten (b.va / 65536)
/-- An entry that waits for the device's own service of a cause, and is next of those on its page. -/
def State.barAt (s : State) (ten i : Nat) (c : Cause) : Option BarEntry :=
  match (s.tenOf ten).bar[i]? with
  | some b => if !b.host && !b.far && b.cause == c && s.firstOn ten (b.va / 65536) == some i then some b else none
  | none => none
/-- FAULT_IN (R285): a parked page begins to move into a frame from the free-frame stack. A page that has become valid needs no service; any other
case is the host's. -/
def execFaultIn (s : State) : Out :=
  let ten := s.sel.unit
  let i := s.sel.sub
  match s.barAt ten i .page with
  | none => .next s
  | some b =>
    match s.walk ten b.va with
    | .absent true _ =>
      if s.pkg.fnmode.getLsbD 0 then .next (s.barToHost ten i b)
      else match s.leaf0 ten b.va with
        | none => .next (s.barToHost ten i b)
        | some (e, a) =>
          match s.migrate ten b.va e a 0 with
          | .begun s => .next (s.serveEntry ten i true)
          | .waits => .next s
          | .noFrame => .next (s.barToHost ten i b)
    | .absent false _ => .next (s.barToHost ten i b)
    | _ => .next (s.serveEntry ten i true)
/-- COW_SERVICE (R287). A page that is migrating waits; a larger leaf is the host's. -/
def execCowService (s : State) : Out :=
  let ten := s.sel.unit
  let i := s.sel.sub
  match s.barAt ten i .cow with
  | none => .next s
  | some b =>
    match s.walk ten b.va with
    | .ok x =>
      if !x.cow then .next (s.serveEntry ten i true)
      else if s.pkg.fnmode.getLsbD 1 then .next (s.barToHost ten i b)
      else if (s.migOfPage ten b.va).isSome then .next s
      else match s.leaf0 ten b.va with
        | none => .next (s.barToHost ten i b)
        | some (e, a) =>
          match s.serveCow ten b.va e a with
          | some s => .next (s.serveEntry ten i true)
          | none => .next (s.barToHost ten i b)
    | _ => .next (s.serveEntry ten i true)

/-! ### Migrations (R285) -/

/-- MIGRATION_START of a tenant's page to a frame: the active `PAGEMOVE` that stands at the page takes the frame from its pool's stack. (A fault-in's
migration starts in FAULT_IN.) -/
def execMigrationStart (s : State) : Out :=
  let ten := s.sel.unit
  let va := s.sel.sub
  let at_ : ECmd → Bool := fun c => c.tenant == ten && c.op == .xcopy && kindOf c.spec == 3 && !c.done && c.oor == 0
    && dword c.spec 1 + 65536 * c.pos == va / 65536 * 65536
  match s.oct.find? fun o => o.2.active.any at_ with
  | none => .next s
  | some (oct, o) =>
    match (o.active.findIdx? at_).bind fun j => (s.activeAt oct j).map fun c => (j, c) with
    | some (j, c) =>
      if (s.popPool ten (bits (dword c.spec 4) 2 0)).map (·.1) ≠ some s.sel.idx then .next s
      else .next (s.afterBeat oct j c (s.cmdBeat (clusterOfOct oct) c))
    | none => .next s
/-- MIGRATION_LINE_COPY: the next line of a migration in ascending order. -/
def execMigrationLineCopy (s : State) : Out := .next (s.migStep s.sel.unit)
/-- LINE_PULL: a line that an access waits for. -/
def execLinePull (s : State) : Out :=
  if s.sel.sub < 256 then .next ((s.pullLine s.sel.unit s.sel.sub).migFinish s.sel.unit) else .next s

end Sys2Proof.Machine
end

