-- ==== Sys2Proof/Machine/Work.lean ====
section
/-! DEFINITION. Work and scheduling (20_scheduling.md R315 to R330): launches and signals, the graph scheduler, placement and castling of
teams, and tenants on a cluster by stride and by gang. -/

namespace Sys2Proof.Machine

/-! ### Launch records (R317) -/

def recNode (r : BitVec 512) : Nat := bits (dword r 0) 63 48
def recPreds (r : BitVec 512) : Nat := bits (dword r 0) 47 32
def recPri (r : BitVec 512) : Nat := bits (dword r 0) 31 30
def recKind (r : BitVec 512) : Nat := bits (dword r 0) 29 28
def recNotify (r : BitVec 512) : Bool := bits (dword r 0) 23 23 == 1
def recTeams (r : BitVec 512) : Nat := bits (dword r 3) 63 32
def recDlog (r : BitVec 512) : Nat := bits (dword r 3) 26 24
def recSize (r : BitVec 512) : Nat := bits (dword r 3) 18 0
/-- Whether a record names a cluster. -/
def recUses (r : BitVec 512) (k : Nat) : Bool := let m := bits (dword r 7) 31 0; m == 0 || m.testBit k
/-- A valid record. -/
def recordOk (r : BitVec 512) : Bool :=
  let n := bits (dword r 0) 27 24
  let used := (List.range 8).all fun i => decide (i < n) || bits (dword r (5 + i / 4)) (16 * (i % 4) + 15) (16 * (i % 4)) == 0
  bits (dword r 0) 22 0 == 0 && decide (n ≤ 8) && used && bits (dword r 7) 63 32 == 0 &&
    (if recKind r = 0 then
       decide (dword r 1 < 2 ^ 57) && dword r 1 % 4 == 0 && decide (dword r 2 < 2 ^ 57) && dword r 2 % 1024 == 0
         && bits (dword r 3) 31 27 == 0 && bits (dword r 3) 23 19 == 0 && decide (1 ≤ recTeams r) && decide (recDlog r ≤ 5)
         && decide (1 ≤ recSize r) && decide (recSize r ≤ 393216 / 2 ^ recDlog r)
     else if recKind r = 1 then decide (dword r 1 < 4096) && dword r 2 == 0 && dword r 3 == 0
     else if recKind r = 2 then dword r 1 == 0 && dword r 2 == 0 && dword r 3 == 0
     else false)
/-- Whether a node lies in a tenant's `NODERANGE`. -/
def State.nodeInRange (s : State) (ten n : Nat) : Bool :=
  let r := (s.tenOf ten).noderange.toNat
  decide (bits r 15 0 ≤ n) && decide (n ≤ bits r 31 16)

/-! ### LAUNCH, LAUNCHQ and SIGNAL (R319, R320) -/

/-- A slot that was kept for a row given to the next waiter: `LAUNCHQ` on a full queue keeps nothing. -/
def State.unkeep (s : State) (rid tag : Nat) : State :=
  match (s.cs (coreOfRid rid)).mbox.find? fun e => e.1 == tag && e.2.kept && e.2.owner == some rid with
  | some _ => s.freeSlot (coreOfRid rid) (s.coreOf (coreOfRid rid)).loaded tag
  | none => s
/-- `LAUNCH`, or `LAUNCHQ` with its destination. The manual gives launch queues to the tenants (01_machine.md R18) and does not say what a launch by
a thread of tag 0 meets: tag 0 has a launch queue of 256 records too (DESIGN CHOICE; entry 92). -/
def State.launchWord (s : State) (sg : BitVec 5) (d : Option (BitVec 5)) : Out :=
  s.runWord (do
    let _ ← s.threadOnly
    if s.vecBusy s.me then stall
    let x ← s.seg sg.toNat
    let r := BitVec.ofNat 512 x
    let ten := s.rowTenant s.me
    if !recordOk r then trap .illegal 0
    match (recNode r :: successors r).find? fun n => !s.nodeInRange ten n with
    | some n => trap .access (BitVec.ofNat 64 n)
    | none => .ok ()
    let s ← s.alone
    let _ ← s.afterAll
    let tag := if recNotify r then s.slotFor s.me else none
    if recNotify r && tag.isNone then wait 3 0 1
    if !s.mayTake s.me (fun q => s.rowTenant q == ten) 8 (256 - (s.tenOf ten).launchq.length) then
      match d with
      | none => wait 8 0 0
      | some d =>
        let s := match tag with
          | some t => s.unkeep s.me t
          | none => s
        s.dst d.toNat 1
    else
      let s := match tag with
        | some t => s.takeSlot s.me t
        | none => s
      let s := s.modThr s.me fun t => { t with claim := if t.claim = 8 then 0 else t.claim }
      let s := s.modTen ten fun t => { t with launchq := t.launchq ++ [{ record := r, core := s.myCore, tag := tag }] }
      match d with
      | none => .ok s
      | some d => s.dst d.toNat 0)
def execLaunch (b : BitVec 5) (s : State) : Out := s.launchWord b none
def execLaunchq (d b : BitVec 5) (s : State) : Out := s.launchWord b (some d)
def execSignal (a : BitVec 5) (s : State) : Out :=
  s.runWord (do
    let _ ← s.threadOnly
    let (x, s) ← s.src a.toNat
    let n := x.toNat % 65536
    if !s.nodeInRange (s.rowTenant s.me) n then trap .access (BitVec.ofNat 64 n)
    let s ← s.alone
    let _ ← s.afterAll
    .ok (s.modPkg fun p => { p with signals := p.signals ++ [n] }))

/-! ### Signals and installs (R316, R319) -/

/-- A node becomes READY: it enters its tenant's queue of its priority (R321). -/
def State.nodeReady (s : State) (n : Nat) : State :=
  let g := s.nodeOf n
  (s.modNode n fun g => { g with state := .ready }).modTen g.tenant fun t =>
    { t with ready := tset t.ready (recPri g.record) (tget [] t.ready (recPri g.record) ++ [n]) }
/-- The tenant whose range holds a node. -/
def State.nodeTenant (s : State) (n : Nat) : Nat := ((List.range 64).find? fun t => s.nodeInRange t n).getD 0
/-- SIGNAL_DELIVERY: the head of the signal path. -/
def execSignalDelivery (s : State) : Out :=
  match s.pkg.signals with
  | [] => .next s
  | n :: rest =>
    let s := s.modPkg fun p => { p with signals := rest }
    let g := s.nodeOf n
    if g.count ≤ -65536 then
      .next (s.modTen (s.nodeTenant n) fun t => { t with
        lncherr := BitVec.ofNat 64 ((bits t.lncherr.toNat 63 48 + 1) % 65536 * 2 ^ 48 + bits t.lncherr.toNat 47 0) })
    else
      let s := s.modNode n fun g => { g with count := g.count - 1 }
      .next (if g.state = .pending ∧ g.count = 1 then s.nodeReady n else s)

/-- Whether a core can take `n` blocks of 2^`dlog` rows for a tenant with every row NULL but those of `HPOOL` and the save rows. -/
def State.emptyCore (s : State) (core ten dlog n : Nat) : Bool :=
  (firstN (fun b => (List.range (2 ^ dlog)).all fun i => !s.inPool core ten (b * 2 ^ dlog + i) && !s.saveRow core (b * 2 ^ dlog + i))
    (2048 / 2 ^ dlog) 0 n).length == n
/-- Threads of a team on core `c` of a cluster (R321). -/
def threadsOn (size c : Nat) : Nat := (size + 191 - c) / 192
/-- Whether a team of a record would fit some empty cluster (R319). -/
def State.fitsEmpty (s : State) (ten : Nat) (r : BitVec 512) : Bool :=
  (List.range 32).any fun k => recUses r k && (List.range (min 192 (recSize r))).all fun c =>
    s.granted ten (k * 192 + c) && s.emptyCore (k * 192 + c) ten (recDlog r) (threadsOn (recSize r) c)
/-- A record discarded: it is counted, and its notice posted with a status (R319, R321). -/
def State.discardRecord (s : State) (ten n core : Nat) (tag : Option Nat) (status : Nat) : State :=
  let s := s.countDiscard ten n
  match tag with
  | some t => s.post core ten t status n
  | none => s
/-- LAUNCH_INSTALL: the next record of a tenant's launch queue is installed or discarded, and a place becomes free. -/
def execLaunchInstall (s : State) : Out :=
  let ten := s.sel.unit
  match (s.tenOf ten).launchq with
  | [] => .next s
  | e :: rest =>
    let s := (s.modTen ten fun t => { t with launchq := rest }).serveLaunch ten
    let r := e.record
    let n := recNode r
    let g := s.nodeOf n
    if g.state ≠ .free ∨ (recKind r = 0 ∧ !s.fitsEmpty ten r) then .next (s.discardRecord ten n e.core e.tag 0x21)
    else
      let c : Int := g.count + recPreds r
      let s := s.modNode n fun _ =>
        { state := .pending, count := if c ≤ 0 then 0 else c, record := r, tenant := ten, core := e.core, tag := e.tag }
      .next (if c ≤ 0 then s.nodeReady n else s)

/-! ### Placement of a team (R321) -/

/-- The lowest `n` free blocks of a core for a tenant, as numbers of blocks; none where it has fewer. -/
def State.freeBlocks (s : State) (core ten dlog n : Nat) : Option (List Nat) :=
  let held := s.nestRows (clusterOf core)
  let l := firstN (fun b => (List.range (2 ^ dlog)).all fun i =>
      let row := b * 2 ^ dlog + i
      s.rowFree (ridOf core row) && !s.inPool core ten row && !s.saveRow core row && !held.contains (ridOf core row))
    (2048 / 2 ^ dlog) 0 n
  if l.length = n then some l else none
/-- The blocks of every core of a team, in core order. -/
def State.coreBlocks (s : State) (ten k dlog size : Nat) : Nat → Option (List (List Nat))
  | 0 => some []
  | c + 1 =>
    match s.coreBlocks ten k dlog size c with
    | none => none
    | some l =>
      let core := k * 192 + c
      if !s.granted ten core || (s.octOf (octetOf core)).busy then none
      else (s.freeBlocks core ten dlog (threadsOn size c)).map fun b => l ++ [b]
/-- The first row of each thread's block of a team on a cluster, in thread order, when all of it fits there. -/
def State.teamBlocks (s : State) (ten k : Nat) (r : BitVec 512) : Option (List Nat) :=
  if !recUses r k || !s.pkg.ready0.getLsbD k then none else
  let size := recSize r
  (s.coreBlocks ten k (recDlog r) size (min 192 size)).map fun l =>
    (List.range size).map fun j => ridOf (k * 192 + j % 192) ((l.getD (j % 192) []).getD (j / 192) 0 * 2 ^ recDlog r)
/-- The lowest team number of a cluster that no resident team has. -/
def State.freeNumber (s : State) (k : Nat) : Option Nat :=
  (List.range 2048).map (· + 2048) |>.find? fun n => !(s.teams.any fun t => t.image.isNone && t.cluster == k && t.number == n)
/-- The lowest-numbered cluster with room for a team: the cluster, its team number and the blocks. No rule asks that the team's tenant hold the cluster
(R328 lets waiting teams be placed after the release): the model places a team at any time (DESIGN CHOICE; entry 122). -/
def State.roomFor (s : State) (ten : Nat) (r : BitVec 512) : Option (Nat × Nat × List Nat) :=
  (List.range 32).findSome? fun k =>
    match s.freeNumber k with
    | none => none
    | some n => (s.teamBlocks ten k r).map fun b => (k, n, b)

/-- The 16 barriers of a team number armed for `n` arrivals, or disarmed for 0: R322 does not say what `EXPECT` and `PHASE` of a disarmed word read, and
the model makes the whole word 0 (DESIGN CHOICE; entry 120). -/
def State.armTeam (s : State) (k number n : Nat) : State :=
  s.modClu k fun c => { c with
    bars := (List.range 16).foldl (fun b i => tset b (barIndex number i)
      (if n = 0 then {} else { arm := true, expect := BitVec.ofNat 19 n })) c.bars }
/-- The other rows of a block: their bytes are kept, and their `LTAG`s become 0. -/
def State.clearTags (s : State) (b dlog : Nat) : State :=
  (List.range (2 ^ dlog - 1)).foldl (fun s i => s.modCtl (b + 1 + i) fun c => { c with wake := 0 }) s
/-- A thread row of a team written and started. -/
def State.startThread (s : State) (t : Team) (r : BitVec 512) (tmpl : List Byte) (j b : Nat) : State :=
  let s := { s with mem := mwrite (msplice s.mem (rowAddr b) 1024 []) (rowAddr b) tmpl }
  let s := ((s.rowPut b 8 8 j).rowPut b 16 8 t.index).rowPut b 24 8 (dword r 4)
  let s := s.rowZero b 224 32
  (s.makeThread b (dword r 1) (BitVec.ofNat 2 t.qpri) (BitVec.ofNat 12 t.number) false true).clearTags b t.dlog
/-- A placed team started in one step. -/
def State.startTeam (s : State) (t : Team) : State :=
  let g := s.nodeOf t.node
  let s := t.blocks.zipIdx.foldl (fun s e => s.startThread t g.record g.tmpl e.2 e.1) s
  (s.armTeam t.cluster t.number (recSize g.record)).setTeamhdl t.cluster t.number 0
/-- A team that has never run placed in given blocks and started, as a slot. -/
def State.placeTeam (s : State) (n index slot k number : Nat) (blocks : List Nat) : State :=
  let g := s.nodeOf n
  let (o, s) := s.tick
  let t : Team := { node := n, index := index, slot := slot, order := o, cluster := k, number := number, blocks := blocks,
                    dlog := recDlog g.record, since := s.cycle, qpri := recPri g.record, tenant := g.tenant }
  State.startTeam { s with teams := s.teams ++ [t] } t

/-! ### Waiting teams of dispatched grids (R321, R323) -/

/-- The next never-run team bound to a slot of a grid. -/
def GraphNode.nextIn (g : GraphNode) (slot : Nat) : Option Nat :=
  if g.slots0 ≤ slot then none else
  let i := g.bound + slot + g.slots0 * tget 0 g.taken slot
  if i < recTeams g.record then some i else none
/-- The next never-run team of a grid in binding order, with its slot. -/
def GraphNode.nextFresh (g : GraphNode) : Option (Nat × Nat) :=
  (List.range g.slots0).foldl (fun best sl => match g.nextIn sl, best with
    | some i, some (j, x) => if i < j then some (i, sl) else some (j, x)
    | some i, none => some (i, sl)
    | none, b => b) none
/-- A never-run team taken from its slot's list. -/
def State.takeFresh (s : State) (n slot : Nat) : State :=
  s.modNode n fun g => { g with taken := tset g.taken slot (tget 0 g.taken slot + 1) }
/-- Whether the blocks of a team may be filled again: every row of them is free and in no nest, and every core of them is granted to the team's tenant
and in no BUSY octet (24_tenancy_boot.md R358 to R361). -/
def State.slotFree (s : State) (t : Team) : Bool :=
  t.blocks.all fun b => s.granted t.tenant (coreOfRid b) && !(s.octOf (hubOf b)).busy
    && (List.range (2 ^ t.dlog)).all fun i => s.rowFree (b + i) && !((s.nestRows t.cluster).contains (b + i))
/-- Whether the blocks and the number that a castled team left are free. -/
def State.canRestore (s : State) (t : Team) : Bool :=
  t.image.isSome && !(t.shed && decide (9 ≤ s.pkg.pwrStep))
    && !(s.teams.any fun o => o.image.isNone && o.cluster == t.cluster && o.number == t.number) && s.slotFree t
/-- The castled team of a grid that comes first in binding order and may be restored: its place in the list. -/
def State.castledOf (s : State) (n : Nat) : Option Nat :=
  (s.teams.zipIdx.foldl (fun (best : Option (Nat × Nat)) e =>
    if e.1.node == n && s.canRestore e.1 then
      match best with
      | some b => if e.1.order < b.1 then some (e.1.order, e.2) else best
      | none => some (e.1.order, e.2)
    else best) none).map (·.2)

/-- What the service does next for a tenant (R321). -/
inductive Service where
  | fresh (node : Nat)
  | restore (team : Nat)
  | head (node : Nat)
  deriving DecidableEq, Repr, Inhabited

/-- Clusters of its `CMASK` that the claim of a nest node can fit (R379), in order. -/
def State.nestClusters (s : State) (ten : Nat) (r : BitVec 512) : List Nat :=
  (List.range 32).filter fun k => recUses r k && s.claimFits k ten (claimOf (s.gclaim ten (dword r 1)))
/-- A nest node planned on a cluster, when that is ready and has room. -/
def State.planNode (s : State) (ten n : Nat) (r : BitVec 512) (k : Nat) : Option (Nat × Nat × Nest) :=
  if !s.pkg.ready0.getLsbD k then none else
  (s.planNest { cluster := k, ten := ten, octet := 0 } (dword r 1) none [] 0 none (some n) (BitVec.ofNat 64 (dword r 4))).map fun x =>
    (k, x.1, { x.2 with core := 0, pri := BitVec.ofNat 2 (recPri r), team := 0 })
/-- Whether a queue's head can be dispatched now. -/
def State.headGoes (s : State) (ten n : Nat) : Bool :=
  let r := (s.nodeOf n).record
  if recKind r = 0 then (s.roomFor ten r).isSome
  else if recKind r = 1 then
    !s.gdefined ten (dword r 1) || (s.nestClusters ten r).isEmpty || ((s.nestClusters ten r).findSome? fun k => s.planNode ten n r k).isSome
  else true
/-- The service's choice at one priority: a waiting team first, then the head of the queue. -/
def State.serviceAt (s : State) (ten pri : Nat) : Option Service :=
  let t := s.tenOf ten
  let waiting := (t.grids.filter fun n => recPri (s.nodeOf n).record == pri).findSome? fun n =>
    if (s.nodeOf n).nextFresh.isSome && (s.roomFor ten (s.nodeOf n).record).isSome then some (Service.fresh n)
    else (s.castledOf n).map Service.restore
  match waiting with
  | some x => some x
  | none => match tget [] t.ready pri with
    | n :: _ => if s.headGoes ten n then some (.head n) else none
    | [] => none
/-- The service's choice for a tenant. -/
def State.serviceChoice (s : State) (ten : Nat) : Option Service := [3, 2, 1, 0].findSome? fun p => s.serviceAt ten p

/-- Teams of a grid placed in ascending index while they fit. -/
def State.placeAll (n : Nat) : Nat → Nat → State → State
  | 0, _, s => s
  | f + 1, i, s =>
    let g := s.nodeOf n
    if recTeams g.record ≤ i then s else
    match s.roomFor g.tenant g.record with
    | none => s
    | some (k, number, b) =>
      State.placeAll n f (i + 1) ((s.placeTeam n i i k number b).modNode n fun g => { g with slots := i + 1 })
/-- A READY node that fails its dispatch returns to FREE without signalling (R321). -/
def State.failNode (s : State) (ten n status : Nat) : State :=
  let g := s.nodeOf n
  (s.modNode n fun g => { g with state := .free, tag := none }).discardRecord ten n g.core g.tag status
/-- A grid dispatched: its template is read once, its teams are placed, and the others are bound to its slots. -/
def State.dispatchGrid (s : State) (ten n : Nat) : State :=
  let r := (s.nodeOf n).record
  match s.roomFor ten r with
  | none => s
  | some (k, _, _) =>
    match s.template (k * 192) ten (dword r 2) with
    | none => s.failNode ten n 0x21
    | some bs =>
      let s := s.modNode n fun g => { g with state := .running, tmpl := bs, ended := 0, slots := 0, taken := [] }
      let s := s.modTen ten fun t => { t with grids := t.grids ++ [n] }
      let s := s.placeAll n (min (recTeams r) 65536) 0
      s.modNode n fun g => { g with bound := g.slots, slots0 := g.slots }
/-- A nest node applied as a top-level `APPLY`, or failed. -/
def State.dispatchNest (s : State) (ten n : Nat) : State :=
  let r := (s.nodeOf n).record
  if !s.gdefined ten (dword r 1) || (s.nestClusters ten r).isEmpty then s.failNode ten n 0x0F
  else match (s.nestClusters ten r).findSome? fun k => s.planNode ten n r k with
    | none => s
    | some (k, slot, nest) => ((s.modNode n fun g => { g with state := .running }).enterNest k slot nest).instantiate k slot
/-- NODE_DISPATCH: the head that the service's order chooses is dispatched. -/
def execNodeDispatch (s : State) : Out :=
  let ten := s.sel.unit
  match s.serviceChoice ten with
  | some (.head n) =>
    let r := (s.nodeOf n).record
    let s := s.modTen ten fun t => { t with ready := tset t.ready (recPri r) ((tget [] t.ready (recPri r)).drop 1) }
    .next (if recKind r = 0 then s.dispatchGrid ten n else if recKind r = 1 then s.dispatchNest ten n else s.nodeComplete n)
  | _ => .next s
/-- TEAM_PLACEMENT: the never-run team of a grid that the service's order chooses is placed in free room, as a further slot. -/
def execTeamPlacement (s : State) : Out :=
  let n := s.sel.unit
  let g := s.nodeOf n
  if s.serviceChoice g.tenant ≠ some (.fresh n) then .next s else
  match g.nextFresh, s.roomFor g.tenant g.record with
  | some (i, slot), some (k, number, b) =>
    .next (((s.takeFresh n slot).placeTeam n i g.slots k number b).modNode n fun g => { g with slots := g.slots + 1 })
  | _, _ => .next s

/-! ### The end of a team (R322) -/

/-- A team taken off the list. -/
def State.dropTeam (s : State) (i : Nat) : State := { s with teams := s.teams.eraseIdx i }
/-- TEAM_END. -/
def execTeamEnd (s : State) : Out :=
  let i := s.sel.unit
  match s.teams[i]? with
  | none => .next s
  | some t =>
    if t.image.isSome || !(t.blocks.all fun b => (s.ctlOf b).state == .exited && !s.writingBack b && s.drained b) then .next s
    else
      let s := t.blocks.foldl (fun s b => (s.nullRow b 0).moved b) s
      let s := (s.armTeam t.cluster t.number 0).dropTeam i
      let s := s.modNode t.node fun g => { g with ended := g.ended + 1 }
      let g := s.nodeOf t.node
      if g.ended = recTeams g.record then
        .next ((s.modTen g.tenant fun x => { x with grids := x.grids.filter fun n => n != t.node }).nodeComplete t.node)
      else .next s

/-! ### Castling (R323, R324) -/

def Team.rowCount (t : Team) : Nat := t.blocks.length * 2 ^ t.dlog
/-- The rows of a team's blocks. -/
def Team.allRows (t : Team) : List Nat := t.blocks.flatMap fun b => (List.range (2 ^ t.dlog)).map (b + ·)
/-- The length of a team's record: its blocks, their control entries and 16 barrier words (entry 11). -/
def Team.recLen (t : Team) : Nat := t.rowCount * 1040 + 128
/-- The lowest place of a team's record in its tenant's castle area, beside the records of the tenant's other castled teams (entry 11). -/
def State.castlePlace (s : State) (t : Team) : Option Nat :=
  let x := s.tenOf t.tenant
  let base := bits x.castlebase.toNat 51 16 * 65536
  let used := s.teams.filterMap fun o => if o.tenant = t.tenant ∧ (o.image.isSome ∨ o.castling) then some (o.place, o.place + o.recLen) else none
  (sortBy id (base :: used.map (·.2))).find? fun a =>
    decide (base ≤ a) && decide (a + t.recLen ≤ base + x.castlelen.toNat) && used.all fun u => decide (u.2 ≤ a) || decide (a + t.recLen ≤ u.1)
/-- Whether a slot has a bound team waiting. -/
def State.slotWaits (s : State) (t : Team) : Bool :=
  ((s.nodeOf t.node).nextIn t.slot).isSome || s.teams.any fun o => o.node == t.node && o.slot == t.slot && o.image.isSome && !o.shed
/-- Whether a matrix or an engine command of a team's rows is queued, running or at the bar; a matrix queue stands in its core, or in its tenant's image. -/
def State.teamBusy (s : State) (t : Team) : Bool :=
  (s.core.any fun c => (c.2.cs :: c.2.images.map (·.2)).any fun x => x.mq.any fun m => t.blocks.contains m.rid)
    || (s.oct.any fun o => (o.2.queue ++ o.2.active).any fun c => t.blocks.contains c.rid)
    || s.ten.any fun x => x.2.bar.any fun b => match b.what with
        | .engine _ c => t.blocks.contains c.rid
        | _ => false
/-- The live helpers and handlers of a team's rows, which are resident with their parents (R315; entry 107): the helpers of the helper table, and the
handler rows outside it that serve a row of the team or one of those helpers. -/
def State.teamHelpers (s : State) (t : Team) : List Nat :=
  let h := t.blocks.flatMap fun b => (s.helpersOf b).map fun x => ridOf (coreOfRid b) x.2
  h ++ s.rowsWhere fun r _ => !h.contains r && match (s.thrOf r).serves with
    | some v => v.nest.isNone && (t.blocks ++ h).contains v.faulted
    | none => false
/-- A row of a castling team stopped; one that a switch holds is the castling's from then on, and gives back its reservations (09_memory_sync.md
R164). -/
def State.castleStop (s : State) (rid : Nat) : State :=
  if (s.ctlOf rid).state = .held then
    let left := (s.dropReservations rid).modThr rid fun t => { t with
      heldBy := some .castle, lockClaim := if t.saved = .blocked then t.lockClaim else 0 }
    left.serveLocks (clusterOfRid rid)
  else s.stopRow rid .castle
/-- A team's castling begins: its record has its place, and every thread row is stopped, with its helpers. -/
def State.beginCastle (s : State) (i : Nat) (t : Team) (shed : Bool) (place : Nat) : State :=
  let s := { s with teams := modAt s.teams i fun t => { t with castling := true, shed := shed, place := place } }
  (t.blocks ++ s.teamHelpers t).foldl State.castleStop s
/-- Whether a castling team has stopped: its thread rows are HELD, or NULL by a control store, and its helpers are HELD. -/
def State.castleStopped (s : State) (t : Team) : Bool :=
  (t.blocks.all fun b => ((s.ctlOf b).state == .held || (s.ctlOf b).state == .null) && !s.writingBack b)
    && (s.teamHelpers t).all fun r => (s.ctlOf r).state == .held
/-- The bytes of a team's record: its rows, their control entries, and the 16 barrier words of its number (entry 11). -/
def State.castleBytes (s : State) (t : Team) : List Byte :=
  (t.allRows.flatMap fun r => s.peekBytes (rowAddr r) 1024)
    ++ (t.allRows.flatMap fun r => bytesOf 8 (s.ctlWord r 0).toNat ++ bytesOf 8 (s.ctlWord r 1).toNat)
    ++ (List.range 16).flatMap fun i => bytesOf 8 (s.barOf t.cluster (barIndex t.number i)).pack.toNat
/-- What a team's record holds beside those bytes. -/
def State.castleRec (s : State) (t : Team) : CastleRec :=
  let rows := t.allRows
  { thrs := rows.map fun r => (r, { s.thrOf r with stop := none, deferred := [], movedAt := none })
    ss := (List.range 16).map fun i => (s.barOf t.cluster (barIndex t.number i)).ss
    streams := (t.blocks.map coreOfRid).eraseDups.flatMap fun c => (s.coreOf c).streams.filter fun x => rows.contains x.rid
    applies := rows.filter fun r => s.waits r 13
    helpers := t.blocks.flatMap fun b => (s.helpersOf b).map fun x => (b, x.2, x.1)
    held := s.teamHelpers t }
/-- A row of a castled team becomes NULL once it is copied out. Its packets are discarded (R176). Its mailbox slots wait for it: it finds its messages
when it is restored (25_platform_cases.md). Its streams go with the record, and its entries of the helper table: its helpers are no other thread's. Accesses that wait
for the row stay (02_rows.md R38). -/
def State.castleRow (s : State) (t : Team) (rid : Nat) : State :=
  let core := coreOfRid rid
  let s := ((s.dropPackets rid).abandonQueries rid).modCore core fun c => { c with streams := c.streams.filter fun x => x.rid != rid }
  let s := s.modCsRow rid fun c => { c with
    helpers := c.helpers.filter fun e => e.2.parent != rowOfRid rid
    mbox := c.mbox.map fun e => if e.2.owner = some rid then (e.1, { e.2 with owner := none, away := some (t.node, t.index, rid) }) else e }
  let waiting := (s.thrOf rid).deferred
  State.serveLocks ({ s with ctl := terase s.ctl rid, thr := tset s.thr rid { deferred := waiting, movedAt := some s.cycle } }) (clusterOfRid rid)
/-- A control entry from the two words of a record: NULL for a row that holds data, else HELD. -/
def ctlOfWords (w0 w1 : Nat) : Ctl :=
  { state := if bits w0 63 60 = 0 then .null else .held, wait := BitVec.ofNat 4 (bits w0 59 56), pri := BitVec.ofNat 2 (bits w0 55 54),
    h := bits w0 53 53 == 1, p := false, team := BitVec.ofNat 12 (bits w0 47 36), wake := BitVec.ofNat 36 (bits w0 35 0),
    pc := BitVec.ofNat 57 (w1 / 4 * 4) }
/-- A row of a castled team copied back from its record: HELD over its saved state (R39). Its mailbox slots are its own again. -/
def State.reviveRow (s : State) (t : Team) (m : CastleRec) (i rid : Nat) : State :=
  let n := t.rowCount
  let at_ := t.place + 1024 * n + 16 * i
  let c := ctlOfWords (ofBytes (s.peekLong 3 at_ 8)) (ofBytes (s.peekLong 3 (at_ + 8) 8))
  let s := { s with mem := mwrite (msplice s.mem (rowAddr rid) 1024 []) (rowAddr rid) (s.peekLong 8 (t.place + 1024 * i) 1024) }
  let s := s.setCtl rid c
  if c.state = .null then s else
  let waiting := (s.thrOf rid).deferred
  (s.setThr rid { ((m.thrs.find? fun e => e.1 == rid).map (·.2)).getD {} with deferred := waiting }).modCsRow rid fun c => { c with
    mbox := c.mbox.map fun e => if e.2.away = some (t.node, t.index, rid) then (e.1, { e.2 with owner := some rid, away := none }) else e }
/-- A row that has been restored in a wait: what it waits for may have come meanwhile, or serves it in its turn. `applied` says that no nest of its
cluster has ended since it waits in `APPLY`. The row's tenant holds its core. -/
def State.askAgain (s : State) (applied : Bool) (rid : Nat) : State :=
  let c := s.ctlOf rid
  let core := coreOfRid rid
  let wakeIf : Bool → State := fun b => if b then s.wakeRow rid else s
  let mine : Nat → Bool := fun tag => (s.csRow rid).mbox.any fun e => e.1 == tag && e.2.owner == some rid && e.2.msg.isSome
  if c.state ≠ .blocked ∧ c.state ≠ .sleeping then s
  else if c.wait = 1 then
    (if c.wake = 0x1A then s.serveHub (hubOf rid) else if c.wake = 0x1B then s.serveInbound (s.thrOf rid).waitArg
     else match s.qref rid (c.wake.toNat % 16) with
       | some r => s.serve r
       | none => s)
  else if c.wait = 3 then
    (if (s.thrOf rid).waitArg = 1 then
       match s.slotFor rid with
       | some tag => (s.modCsRow rid fun x => { x with mbox := tset x.mbox tag { owner := some rid, kept := true } }).wakeRow rid
       | none => s
     else wakeIf ((List.range 64).any mine))
  else if c.wait = 4 then wakeIf ((s.coreOf core).streams.any fun x => x.rid == rid && x.reg == 24 + c.wake.toNat && (!x.vals.isEmpty || x.failed.isSome))
  else if c.wait = 5 then s.mqServe core
  else if c.wait = 6 then wakeIf (s.joinReady rid c.wake.toNat)
  else if c.wait = 8 then s.serveLaunch (s.rowTenant rid)
  else if c.wait = 9 then s.tbWake core (s.rowTenant rid) c.wake.toNat
  else if c.wait = 10 then s.serveQbufs core
  else if c.wait = 11 then s.serveLocks (clusterOfRid rid)
  else if c.wait = 12 then wakeIf (mine (s.thrOf rid).waitArg)
  else if c.wait = 13 then wakeIf (!applied)
  else if c.wait = 14 then
    (match s.findNest (s.rowTenant rid) ((s.thrOf rid).waitArg % 2 ^ 44) with
     | none => s.wakeRow rid
     | some (k, slot) => match s.nestAt k slot with
       | some n => wakeIf (n.gnodes.any fun g => g.kind == 2 && g.pending == some rid && (g.co == .yield || g.co == .done))
       | none => s)
  else s
/-- Whether rows of a tenant on a cluster are released now: it holds the cluster, and no switch away from it has stopped its rows. -/
def State.runsOn (s : State) (k ten : Nat) : Bool :=
  (s.cluOf k).holder == ten && (match (s.cluOf k).switch with | some w => !w.stopped | none => true)
/-- A castled team copied back from its record and released, with its helpers; while its tenant does not hold the cluster its rows stay HELD, as a switch
would leave them. A barrier's phase that packets held back may have become complete (09_memory_sync.md R181). One that returns in its slot's turn keeps its slot; one that the service restores in free
room leaves it and is a further slot of its grid (R321). -/
def State.restoreTeam (s : State) (i : Nat) (further : Bool) : State :=
  match s.teams[i]? with
  | none => s
  | some t =>
    match t.image with
    | none => s
    | some m =>
      let rows := t.allRows
      let s := rows.zipIdx.foldl (fun s e => s.reviveRow t m e.2 e.1) s
      let bars := t.place + 1040 * t.rowCount
      let s := (List.range 16).foldl (fun s j => s.modBar t.cluster (barIndex t.number j) fun _ =>
        BarWord.unpack (ofBytes (s.peekLong 3 (bars + 8 * j) 8)) (m.ss.getD j false)) s
      let s := m.streams.foldl (fun s x =>
        let stays := (s.tenOf t.tenant).bar.any fun b => b.what == .stream (coreOfRid x.rid) x.rid x.reg
        s.modCore (coreOfRid x.rid) fun c => { c with streams := c.streams ++ [{ x with bar := x.bar && stays }] }) s
      let (o, s) := s.tick
      let slot := if further then (s.nodeOf t.node).slots else t.slot
      let s := { s with teams := modAt s.teams i fun t => { t with image := none, castling := false, shed := false, since := s.cycle, order := o, slot := slot } }
      let s := if further then s.modNode t.node fun g => { g with slots := g.slots + 1 } else s
      let s := (m.helpers.filter fun h => (s.ctlOf (ridOf (coreOfRid h.1) h.2.1)).state == .held).foldl (fun s h =>
        s.modCsRow h.1 fun c => { c with helpers := tset c.helpers h.2.1 { parent := rowOfRid h.1, slot := h.2.2 } }) s
      let all := rows ++ m.held
      let s := rows.foldl (fun s r => if s.waits r 13 && !m.applies.contains r then s.wakeRow r else s) s
      if s.runsOn t.cluster t.tenant then
        let s := all.foldl State.releaseRow s
        let s := all.foldl (fun s r => s.askAgain true r) s
        s.barsRecheck t.cluster t.number t.tenant
      else
        let s := all.foldl (fun s r => if (s.ctlOf r).state = .held then s.modThr r fun t => { t with heldBy := some .switch } else s) s
        s.barsRecheck t.cluster t.number t.tenant
/-- The next team of a slot placed in the blocks and under the number that a castled team left, when they may be filled. -/
def State.slotNext (s : State) (t : Team) : State :=
  let g := s.nodeOf t.node
  match g.nextIn t.slot with
  | some i => if s.slotFree t then (s.takeFresh t.node t.slot).placeTeam t.node i t.slot t.cluster t.number t.blocks else s
  | none =>
    let l := s.teams.zipIdx.filter fun e => e.1.node == t.node && e.1.slot == t.slot && e.1.index != t.index && s.canRestore e.1
    match (l.foldl (fun (best : Option (Nat × Nat)) e => match best with
      | some b => if e.1.order < b.1 then some (e.1.order, e.2) else best
      | none => some (e.1.order, e.2)) none) with
    | some (_, i) => s.restoreTeam i false
    | none => s
/-- CASTLING: a resident team whose turn is over is stopped, while its tenant holds the cluster; once its rows are held and its commands done, it is
copied out and its slot's next team takes its blocks. -/
def execCastling (s : State) : Out :=
  let i := s.sel.unit
  match s.teams[i]? with
  | none => .next s
  | some t =>
    if t.image.isSome then .next s
    else if !t.castling then
      match s.castlePlace t with
      | none => .next s
      | some a =>
        if t.since + s.pkg.gridslice.toNat ≤ s.cycle ∧ s.slotWaits t ∧ s.runsOn t.cluster t.tenant then .next (s.beginCastle i t false a)
        else .next s
    else if !s.castleStopped t || s.teamBusy t then .next s
    else
      let m := s.castleRec t
      let bs := s.castleBytes t
      let s := State.pokeLong (bs.length / 256 + 2) (s.clearUncorr t.place bs.length) t.place bs
      let (o, s) := s.tick
      let s := t.allRows.foldl (fun s r => s.castleRow t r) s
      let s := (s.armTeam t.cluster t.number 0)
      let s := { s with teams := modAt s.teams i fun t => { t with image := some m, castling := false, order := o } }
      .next (s.slotNext t)
/-- CASTLE_RESTORE: a castled team whose blocks and number are free, when the service's order chooses it. -/
def execCastleRestore (s : State) : Out :=
  let i := s.sel.unit
  match s.teams[i]? with
  | none => .next s
  | some t => if s.serviceChoice t.tenant = some (.restore i) then .next (s.restoreTeam i true) else .next s

/-! ### Stride scheduling (R326 to R328) -/

/-- Whether a team of a dispatched grid of a tenant may be placed on a cluster. -/
def State.mayPlaceOn (s : State) (ten k : Nat) : Bool :=
  (s.tenOf ten).grids.any fun n =>
    ((s.nodeOf n).nextFresh.isSome && (s.freeNumber k).isSome && (s.teamBlocks ten k (s.nodeOf n).record).isSome)
      || s.teams.any fun t => t.node == n && t.cluster == k && s.canRestore t
/-- Whether a tenant is eligible on a cluster. -/
def State.isEligible (s : State) (k ten : Nat) : Bool :=
  (s.tenOf ten).tickets != 0 &&
    (s.ctl.any (fun e => !isBase e.1 && inCluster k e.1 && s.rowTenant e.1 == ten && (match e.2.state with
      | .ready | .opened | .blocked | .sleeping => true
      | .held => (s.thrOf e.1).heldBy == some .switch || (s.thrOf e.1).heldBy == some .gang
      | _ => false)) || s.mayPlaceOn ten k)
/-- The gang that holds a cluster at the current tick: the lowest owner tag. -/
def State.gangHolder (s : State) (k : Nat) : Option Nat :=
  let n := s.cycle / s.pkg.gtick.toNat
  (List.range 64).find? fun t =>
    let g := (s.tenOf t).gangNow.toNat
    bits g 63 63 == 1 && g.testBit k && decide (n % bits g 55 48 < bits g 47 40)
/-- The eligible tenant with the lowest pass. -/
def lowestPass (passes : Tab Nat) (l : List Nat) : Option Nat :=
  l.foldl (fun best t => match best with
    | none => some t
    | some b => if tget 0 passes t < tget 0 passes b then some t else some b) none
/-- A switch by stride scheduling begins, from the choice of a cycle. -/
def State.beginSwitch (s : State) (k new since : Nat) : State :=
  if new = (s.cluOf k).holder then s
  else s.modClu k fun c => { c with switch := some { old := c.holder, new := new, since := since, gang := false, stopped := false } }
/-- The choice that waits on a cluster begins its switch, once none is under way and no gang holds the cluster. -/
def State.beginNext (s : State) (k : Nat) : State :=
  let c := s.cluOf k
  match c.next with
  | some (w, t) => if c.switch.isSome || c.inGang then s else (s.modClu k fun c => { c with next := none }).beginSwitch k w t
  | none => s
/-- STRIDE_CHOICE of a cluster, at a package cycle that is a multiple of `TSLICE` and in no gang tick. A choice made while a switch is under way
begins its own switch when that is over, unless a later choice has taken its place (DESIGN CHOICE; entry 108). -/
def execStrideChoice (s : State) : Out :=
  let k := s.sel.unit
  let c := s.cluOf k
  let ts := s.pkg.tslice.toNat
  if 32 ≤ k ∨ ts = 0 ∨ s.cycle % ts ≠ 0 ∨ c.choseAt = some s.cycle ∨ (s.gangHolder k).isSome then .next s else
  let el := (List.range 64).filter fun t => s.isEligible k t
  let passes := (el.filter fun t => !c.eligible.contains t).foldl (fun p t => tset p t (max (tget 0 p t) c.lastV)) c.passes
  let s := s.modClu k fun c => { c with passes := passes, eligible := el, choseAt := some s.cycle }
  match lowestPass passes el with
  | none => .next s
  | some w =>
    let v := tget 0 passes w
    let s := s.modClu k fun c => { c with lastV := v, passes := tset passes w (v + 2 ^ 20 / (s.tenOf w).tickets.toNat) }
    .next ((s.modClu k fun c => { c with next := some (w, s.cycle) }).beginNext k)
/-- SWITCH_FORCED: 60,000 cycles after the choice, every row of the departing tenant is stopped. -/
def execSwitchForced (s : State) : Out :=
  let k := s.sel.unit
  match (s.cluOf k).switch with
  | none => .next s
  | some w =>
    if w.gang || w.stopped || decide (s.cycle < w.since + 60000) then .next s
    else .next ((s.modClu k fun c => { c with switch := some { w with stopped := true } }).stopTenant k w.old .switch)

/-- Whether every row of a core has closed and been written back, and its vector operations have landed. -/
def State.coreClosed (s : State) (core : Nat) : Bool :=
  !(s.ctl.any fun e => !isBase e.1 && coreOfRid e.1 == core && e.2.state == .opened)
    && !((s.coreOf core).ports.any fun p => p.2.isSome) && (s.coreOf core).vq.isEmpty
/-- A core's state stored as the image of the tenant it is loaded for, and another tenant's image loaded (R327; entry 11). -/
def State.loadImage (s : State) (core ten : Nat) : State :=
  s.modCore core fun c =>
    if c.loaded = ten then c
    else { c with images := terase (tset c.images c.loaded c.cs) ten, cs := tget {} c.images ten, loaded := ten }
/-- Whether the enabled `GANGMASK` of a tenant names a cluster, as of the latest gang tick. -/
def State.inGangOf (s : State) (ten k : Nat) : Bool :=
  let g := (s.tenOf ten).gangNow.toNat
  bits g 63 63 == 1 && g.testBit k
/-- The image of a tenant on a core in its save area. -/
def State.saveArea (s : State) (core ten : Nat) : Nat := bits (s.tenOf ten).savebase.toNat 51 16 * 65536 + 8192 * core
/-- Where the image of a tenant that leaves a core is written (R327): rows 1968 to 1975 for a tenant whose gang names the cluster, rows 1976 to 1983
for the other tenant of a switch into a gang tick, else the save area. Two gangs that name one cluster have one place between them there: R327 knows one
gang tenant of a cluster (DESIGN CHOICE; entry 121). -/
def State.imagePlace (s : State) (core ten : Nat) (gang : Bool) : Nat :=
  let k := clusterOf core
  if s.inGangOf ten k then rowAddr (ridOf core 1968)
  else if gang && s.gangNames k then rowAddr (ridOf core 1976)
  else s.saveArea core ten
/-- Bytes written by the octet copy engines; a save area that is not HBM is written nowhere (entry 11). -/
def State.putImage (s : State) (pa : Nat) (bs : List Byte) : State :=
  match regionOf pa with
  | .hbm | .rowStore _ _ => State.pokeLong 33 (s.clearUncorr pa bs.length) pa bs
  | _ => s
/-- The 8 KiB of an image, in the format of the device: free bytes (R327; entry 11). The content of an image is kept apart from them. -/
def State.writeImage (s : State) (core : Nat) (gang : Bool) : State :=
  let (n, s) := s.tick
  s.putImage (s.imagePlace core (s.coreOf core).loaded gang) ((List.range 8192).map (Config.imageByte n))
/-- The rows of a tenant on a cluster that a switch holds released; a trap whose dispatch waited for its tenant is dispatched (R329). Rows of a team that
was restored meanwhile look at what they wait for. -/
def State.releaseTenant (s : State) (k ten : Nat) : State :=
  let l := s.rowsWhere fun r c => !isBase r && inCluster k r && c.state == .held && s.rowTenant r == ten
      && ((s.thrOf r).heldBy == some .switch || (s.thrOf r).heldBy == some .gang)
  let s := l.foldl (fun s r =>
    let t := s.thrOf r
    let s := s.releaseRow r
    if t.undispatched && (s.ctlOf r).state == .faulted then
      (s.modThr r fun t => { t with undispatched := false }).dispatchTrap r (t.trapCause.getD .packet) t.trapG3
    else s) s
  l.foldl (fun s r => s.askAgain true r) s
/-- SWITCH_EXCHANGE of a core; after the last core of the cluster the arriving tenant holds it and its rows are released. -/
def execSwitchExchange (s : State) : Out :=
  let core := s.sel.unit
  let k := clusterOf core
  match (s.cluOf k).switch with
  | none => .next s
  | some w =>
    if w.gang || !w.stopped || w.doneCores.contains core || decide (cores ≤ core) || !s.coreClosed core then .next s
    else
      let s := (s.writeImage core false).loadImage core w.new
      let done := core :: w.doneCores
      if done.length < 192 then .next (s.modClu k fun c => { c with switch := some { w with doneCores := done } })
      else .next (((s.modClu k fun c => { c with holder := w.new, switch := none }).releaseTenant k w.new).beginNext k)

/-! ### Gang mode (R329) -/

/-- The clusters of a die. -/
def dieClusters (die : Nat) : List Nat := [2 * die, 2 * die + 1]
/-- A switch into or out of a gang tick begins on a cluster. The stride side of a cluster that a gang takes is the tenant of the latest choice. -/
def State.gangSwitch (s : State) (k : Nat) : State :=
  let c := s.cluOf k
  let side := match c.next, c.switch with
    | some (w, _), _ => w
    | none, some w => if w.gang then c.strideSide else w.new
    | none, none => c.holder
  let into := (s.gangHolder k).isSome && !c.inGang
  let s := if into then s.modClu k fun c => { c with strideSide := side, next := none } else s
  let new := (s.gangHolder k).getD (if c.inGang then c.strideSide else c.holder)
  let change := match c.switch with
    | some w => if w.gang then new != w.new else (s.gangHolder k).isSome
    | none => new != c.holder
  if !change then s else
  (s.modClu k fun c => { c with switch := some { old := c.holder, new := new, since := s.cycle, gang := true, stopped := true } }).stopTenant
    k c.holder .gang
/-- GANG_TICK: at a multiple of `GTICK`, written `GANGMASK`s take effect and the clusters whose holder changes begin to switch. -/
def execGangTick (s : State) : Out :=
  if s.cycle % s.pkg.gtick.toNat ≠ 0 ∨ s.pkg.gangAt = some s.cycle then .next s else
  let s : State := { s with ten := s.ten.map fun (e : Nat × Tenant) => (e.1, { e.2 with gangNow := e.2.gangmask }) }
  let s := s.modPkg fun p => { p with gangAt := some s.cycle }
  let s := (List.range 32).foldl (fun s k => s.gangSwitch k) s
  .next ((List.range 32).foldl (fun s k => if (s.cluOf k).inGang = (s.gangHolder k).isSome then s
    else (s.modClu k fun c => { c with inGang := (s.gangHolder k).isSome }).beginNext k) s)
/-- GANG_SPILL of a core: its spill takes 128 cycles from the last close. -/
def execGangSpill (s : State) : Out :=
  let core := s.sel.unit
  match (s.cluOf (clusterOf core)).switch with
  | none => .next s
  | some w =>
    let c := s.coreOf core
    if !w.gang || c.spilled || !s.coreClosed core then .next s
    else match c.spillAt with
      | none => .next (s.modCore core fun c => { c with spillAt := some (s.cycle + 128) })
      | some t =>
        if s.cycle < t then .next s else .next ((s.writeImage core true).modCore core fun c => { c with spilled := true, spillAt := none })
/-- The switching clusters of a die. -/
def State.dieSwitching (s : State) (die : Nat) : List Nat :=
  (dieClusters die).filter fun k => match (s.cluOf k).switch with | some w => w.gang | none => false
/-- Whether every core of a die's switching clusters has spilled. -/
def State.dieSpilled (s : State) (die : Nat) : Bool :=
  (s.dieSwitching die).all fun k => (List.range 192).all fun i => (s.coreOf (k * 192 + i)).spilled
/-- While a gang holds the cluster, the image that its departing tenant left in rows 1976 to 1983 of a core moved to that tenant's save area, and the image
of the stride side, where that is another tenant, brought there from its own. -/
def State.moveImage (s : State) (core old : Nat) : State :=
  let k := clusterOf core
  let side := (s.cluOf k).strideSide
  let rows := rowAddr (ridOf core 1976)
  if !(s.cluOf k).inGang || s.inGangOf old k then s
  else
    let s := s.putImage (s.saveArea core old) (s.peekLong 33 rows 8192)
    if side = old ∨ s.inGangOf side k then s else s.putImage rows (s.peekLong 33 (s.saveArea core side) 8192)
/-- A cluster of a die loaded for its arriving tenant, whose rows are released. -/
def State.gangJoin (s : State) (k : Nat) : State :=
  match (s.cluOf k).switch with
  | none => s
  | some w =>
    let s := (List.range 192).foldl (fun s i =>
      ((s.moveImage (k * 192 + i) w.old).loadImage (k * 192 + i) w.new).modCore (k * 192 + i) fun c => { c with spilled := false, spillAt := none }) s
    ((s.modClu k fun c => { c with holder := w.new, switch := none }).releaseTenant k w.new).beginNext k
/-- GANG_DIE_LOAD: a die all of whose cores have spilled loads the arriving image in 128 cycles. -/
def execGangDieLoad (s : State) : Out :=
  let die := s.sel.unit
  if (s.dieSwitching die).isEmpty || !s.dieSpilled die then .next s
  else match s.pkg.dieLoads.find? fun e => e.1 == die with
    | none => .next (s.modPkg fun p => { p with dieLoads := tset p.dieLoads die (s.cycle + 128) })
    | some (_, t) =>
      if s.cycle < t then .next s
      else .next ((s.dieSwitching die).foldl (fun s k => s.gangJoin k) (s.modPkg fun p => { p with dieLoads := terase p.dieLoads die }))
/-- GANG_LATE: 4,096 cycles after the tick, every die that has not finished spilling is counted and recorded. -/
def execGangLate (s : State) : Out :=
  .next ((List.range 16).foldl (fun s die =>
    let l := (s.dieSwitching die).filter fun k => match (s.cluOf k).switch with
      | some w => decide (w.since + 4096 ≤ s.cycle) && !w.late
      | none => false
    if l.isEmpty || s.dieSpilled die then s
    else
      let s := l.foldl (fun s k => s.modClu k fun c => { c with switch := c.switch.map fun w => { w with late := true } }) s
      s.modPkg fun p => { p with ganglate := BitVec.ofNat 64 ((bits p.ganglate.toNat 63 48 + 1) % 65536 * 2 ^ 48 + die) }) s)
/-- GANG_FORCED_STOP: 16,384 cycles after the tick, a row of a late die that is still OPEN is stopped at its next boundary; with `P` = 1 it takes a
`PACKET` trap there, whose handler is dispatched when its tenant next holds the cluster. -/
def execGangForcedStop (s : State) : Out :=
  let rid := ridOf s.sel.unit s.sel.sub
  let k := clusterOf s.sel.unit
  match (s.cluOf k).switch with
  | none => .next s
  | some w =>
    if !w.gang || !w.late || decide (s.cycle < w.since + 16384) || !s.running rid || s.rowTenant rid ≠ w.old || !(s.thrOf rid).loads.isEmpty then
      .next s
    else if !(s.ctlOf rid).p then .next ((s.stopRow rid .gang).closeReady rid).1
    else match s.boundary rid with
      | (s, false) => .next s
      | (s, true) =>
        let s := (s.cancelPacket rid).abandonQueries rid
        let s := s.closeRow rid .faulted 0 0
        let s := s.modThr rid fun t => { t with trapCause := some .packet, trapG3 := 0, trapAt := s.cycle, fetchTrap := false, undispatched := true, stop := none }
        .next (s.holdRow rid .gang)

/-! ### Writes of registers (R330) -/

/-- GANGMASK_WRITE and TICKETS_WRITE of a tenant. -/
def execGangmaskWrite (s : State) : Out := if s.sel.unit < 64 then .next ((s.tenWrite s.sel.unit 5 3 s.sel.data).getD s) else .next s
def execTicketsWrite (s : State) : Out := if s.sel.unit < 64 then .next ((s.tenWrite s.sel.unit 5 1 s.sel.data).getD s) else .next s

end Sys2Proof.Machine
end

