-- ==== Sys2Proof/Machine/Platform.lean ====
section
/-! DEFINITION. Device steps of the platform: reset, firmware and readiness, quad power, elevators, the fabric and the host link
(23_stack_fabric.md R345 to R357), and owners, minima, power and firmware (24_tenancy_boot.md R358 to R367; 25_platform_cases.md R368, R369;
16_translation.md R289; 01_machine.md R12). -/

namespace Sys2Proof.Machine

/-! ### Reset and firmware (R12, R364, R365) -/

/-- Whether an address lies outside the package: host memory or another package. -/
def outsidePkg (pa : Nat) : Bool :=
  match regionOf pa with
  | .host | .remote _ _ => true
  | _ => false
/-- RESET: everything as at reset. Host memory and other packages are not part of the machine that is reset, one-time keys stay spent, and
the answers already given stay given. -/
def execReset (s : State) : Out :=
  .next { State.reset with
    mem := s.mem.filter fun e => outsidePkg e.1
    uncorr := s.uncorr.filter outsidePkg
    pkg := { lmsUsed := s.pkg.lmsUsed, compares := s.pkg.compares, spdmLog := s.pkg.spdmLog, hostReplies := s.pkg.hostReplies,
             fabReplies := s.pkg.fabReplies }
    schedule := s.schedule
    seq := s.seq }
/-- FIRMWARE_IMAGE: an image is accepted when both signatures verify and its version is not lower than `FWSVN`; else no function is ready. One
image is accepted. -/
def execFirmwareImage (s : State) : Out :=
  let i := s.sel.unit
  let v := Config.imageVersion i
  if s.pkg.firmware.isSome then .next s
  else if Config.ecdsaOk i && Config.lmsOk i && decide (s.pkg.fwsvn.toNat ≤ v.toNat) then
    .next (s.modPkg fun p => { p with firmware := some (Config.imageHash i), fwsvn := v })
  else .next (s.modPkg fun p => { p with ready0 := 0, ready1 := 0 })
/-- SPDM_REQUEST: a measurement report signed by both keys, or a refusal once the one-time keys are spent. -/
def execSpdmRequest (s : State) : Out :=
  .next (s.modPkg fun p =>
    if p.lmsUsed < 2 ^ 20 then
      let r : SpdmReport := ⟨p.firmware, p.fwsvn, Config.fuses, Config.signature s.sel.unit p.lmsUsed p.firmware p.fwsvn⟩
      { p with lmsUsed := p.lmsUsed + 1, spdmLog := p.spdmLog ++ [some r] }
    else { p with spdmLog := p.spdmLog ++ [none] })

/-! ### Minima (R362, R369) -/

/-- The number of ones of a bit string below a place. -/
def ones (v : Nat) (n : Nat) : Nat := ((List.range n).filter fun i => v.testBit i).length
/-- One tenant of a recomputation: what is unallotted after it. -/
def State.minimaOne (a : Nat × Nat × State) (t : Nat) : Nat × Nat × State :=
  let (cl, fr, s) := a
  let x := s.tenOf t
  let wantC := bits x.tenmin.toNat 5 0
  let wantF := bits x.tenmin.toNat 63 32
  if wantC ≤ cl ∧ wantF ≤ fr then (cl - wantC, fr - wantF, s.modTen t fun x => { x with deg := false })
  else
    let s' := s.modTen t fun x => { x with deg := true }
    (cl, fr, if x.deg then s' else s'.hfr 9 t [tenstat (s'.tenOf t)])
/-- A recomputation of the minima in order of admission. -/
def State.minima (s : State) : State :=
  let l := sortBy (fun t => (s.tenOf t).admission.toNat) ((List.range 64).filter fun t => (s.tenOf t).tenmin != 0)
  (l.foldl State.minimaOne (ones s.pkg.ready0.toNat 32, ones (bits s.pkg.ready0.toNat 39 32) 8 * 1048576, s)).2.2

/-! ### Readiness and elevators (R349 to R351, R366) -/

/-- A bit of `READYMAP0` changed; the minima are recomputed where a cluster or a memory stack changes. -/
def State.setReady0 (s : State) (i : Nat) (on : Bool) : State :=
  if s.pkg.ready0.getLsbD i = on then s else
  let s := s.modPkg fun p => { p with ready0 := if on then p.ready0 ||| BitVec.ofNat 64 (2 ^ i) else p.ready0 &&& ~~~BitVec.ofNat 64 (2 ^ i) }
  if i < 40 then s.minima else s
/-- What the route controller makes of a route that names a retired elevator. -/
def State.reroute (s : State) (e oct : Nat) : State :=
  let r := s.routeOf oct
  if r.1.toNat ≠ e ∧ r.2.toNat ≠ e then s else
  let p := if r.1.toNat = e then r.2.toNat else r.1.toNat
  let q := ((List.range 4).map fun i => 4 * (oct / 96) + i).find? fun x => x != p && s.pkg.ready1.getLsbD x
  s.modOct oct fun o => { o with route := some (BitVec.ofNat 6 p, BitVec.ofNat 6 (q.getD r.2.toNat)) }
/-- An elevator retired. -/
def State.retireElevator (s : State) (e : Nat) : State :=
  if 50 ≤ e ∨ !s.pkg.ready1.getLsbD e then s else
  let s := s.modPkg fun p => { p with ready1 := p.ready1 &&& ~~~BitVec.ofNat 64 (2 ^ e) }
  let st := e / 4
  let s := if s.pkg.fnmode.getLsbD 5 then s.hfr 6 0 [BitVec.ofNat 64 e]
    else if e < 32 then ((List.range 96).map fun i => st * 96 + i).foldl (fun s o => s.reroute e o) s else s
  if e < 32 ∧ !s.stackReady st then ((List.range 4).map fun i => st * 4 + i).foldl (fun s k => s.setReady0 k false) s else s
/-- FUNCTION_READY of a bit of a map, once an image has been accepted. -/
def execFunctionReady (s : State) : Out :=
  let i := s.sel.sub
  if s.pkg.firmware.isNone then .next s
  else if s.sel.unit = 0 ∧ i < 58 then .next (s.setReady0 i true)
  else if s.sel.unit = 1 ∧ i < 50 then .next (s.modPkg fun p => { p with ready1 := p.ready1 ||| BitVec.ofNat 64 (2 ^ i) })
  else .next s
/-- FUNCTION_RETIRE. -/
def execFunctionRetire (s : State) : Out :=
  let i := s.sel.sub
  if s.sel.unit = 0 ∧ i < 58 then .next (s.setReady0 i false)
  else if s.sel.unit = 1 then .next (s.retireElevator i)
  else .next s
def execElevatorRetire (s : State) : Out := .next (s.retireElevator s.sel.unit)

/-- The packets of the package that are not acknowledged: entries of outbound queues and released packets of hubs, each with its row. -/
def State.unacked (s : State) : List (Nat × Option Nat) :=
  (s.clu.flatMap fun k => k.2.outq.map fun e => (e.rid, e.via)) ++ s.oct.flatMap fun o => o.2.hub.filterMap fun b => match b.2 with
    | some b => if b.released then some (b.rid, b.via) else none
    | none => none
/-- PACKET_RETRY: unacknowledged packets of a source port toward a retired elevator are sent again over its new route; each keeps its place, so
each is delivered once and in order. -/
def execPacketRetry (s : State) : Out :=
  match s.unacked[s.sel.unit]? with
  | some (rid, some v) =>
    if s.pkg.ready1.getLsbD v then .next s else
    let oct := hubOf rid
    let new : Nat → Option Nat → Option Nat := fun r via => if hubOf r = oct ∧ via = some v then some (s.sendVia oct) else via
    .next { s with
      clu := s.clu.map fun (k : Nat × Cluster) => (k.1, { k.2 with outq := k.2.outq.map fun e => { e with via := new e.rid e.via } })
      oct := s.oct.map fun (o : Nat × Octet) => (o.1, { o.2 with hub := o.2.hub.map fun (b : Nat × Option SendBuf) =>
        (b.1, b.2.map fun b => { b with via := new b.rid b.via }) }) }
  | _ => .next s
def execRouteWrite (s : State) : Out := if s.sel.unit < 768 then .next (s.setRoute s.sel.unit s.sel.data) else .next s

/-! ### Wavelengths and flits (R352, R354) -/

/-- WAVELENGTH_DROP of a fibre: a port whose last wavelength is dropped is no longer ready. Port `p` has fibres 12p to 12p + 11. -/
def execWavelengthDrop (s : State) : Out :=
  let f := s.sel.unit
  let l := s.sel.sub
  if 192 ≤ f ∨ 24 ≤ l then .next s else
  let s := s.modPkg fun p => { p with lambdas := tset p.lambdas f ((tget 0 p.lambdas f : BitVec 24) ||| BitVec.ofNat 24 (2 ^ l)) }
  let s := if s.pkg.fnmode.getLsbD 6 then s.hfr 7 0 [BitVec.ofNat 64 f, BitVec.ofNat 64 l] else s
  if (List.range 12).all fun i => (tget 0 s.pkg.lambdas (f / 12 * 12 + i) : BitVec 24) == BitVec.allOnes 24 then
    .next (s.setReady0 (40 + f / 12) false)
  else .next s
/-- FLIT_RETRY of a port: a retry that succeeds, or one that fails; after 16 successive failures the port is down. -/
def execFlitRetry (s : State) : Out :=
  let p := s.sel.unit
  if 16 ≤ p then .next s else
  let n := if s.sel.flag then 0 else tget 0 s.pkg.flitRetries p + 1
  let s := s.modPkg fun x => { x with flitRetries := tset x.flitRetries p (if n = 16 then 0 else n) }
  .next (if n = 16 then s.setReady0 (40 + p) false else s)

/-! ### Quad power (R347, R363) -/

/-- QUAD_GATED: every row of the quad has closed, and every vector operation has landed; a matrix command of this model stands at a stopping
boundary between its steps. -/
def execQuadGated (s : State) : Out :=
  let q := s.sel.unit
  if (s.quadOf q).power = .gating ∧ (List.range 4).all fun i => s.coreClosed (4 * q + i) then
    .next (s.modQuad q fun x => { x with power := .gated })
  else .next s
/-- QUAD_WAKE_DONE: a gate request that came while the quad was waking takes effect now. -/
def execQuadWakeDone (s : State) : Out :=
  let q := s.sel.unit
  let x := s.quadOf q
  if x.power = .waking ∧ x.wakeAt ≤ s.cycle then
    let s := s.modQuad q fun x => { x with power := .running, gateNext := false }
    .next (if x.gateNext then s.gateQuad q else s)
  else .next s
/-- Whether a quad has had no READY or OPEN row for 65,536 cycles. -/
def State.idleQuad (s : State) (q : Nat) : Bool :=
  !(s.ctl.any fun e => !isBase e.1 && quadOfCore (coreOfRid e.1) == q && (e.2.state == .ready || e.2.state == .opened))
    && decide ((s.quadOf q).idleSince + 65536 ≤ s.cycle)
/-- Shedding step 8: idle quads are gated, and ungated once the controller has retreated. -/
def State.shedQuads (s : State) : State :=
  (List.range 1536).foldl (fun s q =>
    if 8 ≤ s.pkg.pwrStep then
      (if (s.quadOf q).power == .running && s.idleQuad q then (s.gateQuad q).modQuad q fun x => { x with shed := true } else s)
    else if (s.quadOf q).shed then (s.ungateQuad q).modQuad q fun x => { x with shed := false }
    else s) s
/-- The resident team of a cluster that shedding takes: the lowest `QPRI`, then the latest placed. -/
def State.shedTeam (s : State) (k : Nat) : Option (Nat × Team) :=
  s.teams.zipIdx.foldl (fun best e =>
    let t := e.1
    if t.cluster ≠ k ∨ t.image.isSome ∨ t.castling then best else
    match best with
    | none => some (e.2, t)
    | some (i, b) => if t.qpri < b.qpri ∨ (t.qpri = b.qpri ∧ b.order < t.order) then some (e.2, t) else some (i, b)) none
/-- Shedding step 9: one team of each cluster is castled; it stays castled until the controller has retreated. -/
def State.shedTeams (s : State) : State :=
  if s.pkg.pwrStep < 9 then { s with teams := s.teams.map fun t => { t with shed := false } }
  else (List.range 32).foldl (fun s k => match s.shedTeam k with
    | some (i, t) => match s.castlePlace t with
      | some a => s.beginCastle i t true a
      | none => s
    | none => s) s
/-- The controller's step after a comparison. -/
def Package.compare (p : Package) (watts : BitVec 16) : Package :=
  let p := { p with pwrWatts := watts, compares := p.compares + 1 }
  if p.pwrcap.toNat < watts.toNat then { p with pwrStep := min 9 (p.pwrStep + 1), pwrBelow := 0 }
  else if watts.toNat * 100 < p.pwrcap.toNat * 95 then
    (if p.pwrBelow = 9 then { p with pwrStep := p.pwrStep - 1, pwrBelow := 0 } else { p with pwrBelow := p.pwrBelow + 1 })
  else { p with pwrBelow := 0 }
/-- POWER_COMPARE, every 1,200,000 cycles. -/
def execPowerCompare (s : State) : Out :=
  if s.cycle = 0 ∨ s.cycle % 1200000 ≠ 0 ∨ s.pkg.comparedAt = some s.cycle then .next s else
  let s := s.modPkg fun p => { p.compare (Config.measuredWatts p.compares) with comparedAt := some s.cycle }
  .next (s.shedQuads.shedTeams)
def execPwrcapWrite (s : State) : Out := .next ((s.serviceWrite 0xA0 s.sel.data).getD s)

/-! ### The host link (R356) -/

/-- HFR_RECORD: the oldest record that waits is written at `HFRTAIL` while the ring has room. While `HFRBASE` names a place that is not host
memory, records are held as with `LOG` 0: none is lost (DEDUCED; entry 30). -/
def execHfrRecord (s : State) : Out :=
  let p := s.pkg
  let log := bits p.hfrbase.toNat 4 0
  match p.hfrHeld with
  | [] => .next s
  | r :: rest =>
    if log = 0 ∨ 2 ^ log ≤ (p.hfrtail - p.hfrhead).toNat then .next s else
    let pa := bits p.hfrbase.toNat 56 6 * 64 + 64 * (p.hfrtail.toNat % 2 ^ log)
    let head : W := BitVec.ofNat 64 (r.ty * 2 ^ 56 + r.ten * 2 ^ 48 + r.rid * 2 ^ 32)
    let bs := (head :: (r.payload ++ List.replicate 7 0).take 7).flatMap fun d => bytesOf 8 d.toNat
    if regionOf pa ≠ .host then .next s
    else .next ((s.poke pa bs).modPkg fun p => { p with hfrHeld := rest, hfrtail := p.hfrtail + 1 })
/-- HFRRESP_SERVICED and HFRRESP_FAILED of a record. -/
def execHfrrespServiced (s : State) : Out :=
  if s.sel.unit < 65536 then .next (s.hfrresp (BitVec.ofNat 64 (2 ^ 63 + s.sel.unit))) else .next s
def execHfrrespFailed (s : State) : Out := if s.sel.unit < 65536 then .next (s.hfrresp (BitVec.ofNat 64 s.sel.unit)) else .next s

/-- An answer to the host. -/
def State.reply (s : State) (r : Reply) : State := s.modPkg fun p => { p with hostReplies := p.hostReplies ++ [r] }
/-- Whether a host access reaches a target: the service window all of the package's own, CXL.mem the interleaved view of HBM over a ready
link. -/
def State.hostReaches (s : State) (window : Bool) (pa : Nat) : Bool :=
  match regionOf pa with
  | .host | .remote _ _ | .unassigned => false
  | .hbm => s.assigned none pa && (window || s.pkg.ready0.getLsbD 56 || s.pkg.ready0.getLsbD 57)
  | _ => window && s.assigned none pa
/-- An access size that a target takes: 1, 2, 4 or 8 aligned bytes, and 8 for control words and registers (R32). -/
def sizeOk (pa n : Nat) : Bool :=
  (n == 1 || n == 2 || n == 4 || n == 8) && pa % n == 0 && match regionOf pa with
    | .control _ _ _ | .coreMmio _ _ | .clusterMmio _ _ | .service _ => n == 8
    | _ => true
/-- A read at its home that waits for the boundary of an OPEN row: none while it waits. A register that is not there, and an uncorrectable
word, have answers of their own. -/
def State.outsideRead (s : State) (pa n : Nat) : Option (Reply × State) :=
  match regionOf pa with
  | .coreMmio _ _ | .clusterMmio _ _ | .service _ =>
    some (match s.mmioRead none pa with | some v => .data v.toNat | none => .unsupported, s)
  | _ =>
    if (s.uncorrAt pa n).isSome && !s.busyBank pa then some (.abort, s)
    else (s.settleAt pa n none).map fun s => (.data (s.homeRead pa n), s)
/-- HOST_ACCESS. A host write that a BUSY octet holds is answered when it applies. -/
def execHostAccess (s : State) : Out :=
  let pa := s.sel.unit
  let n := s.sel.sub
  if !s.hostReaches s.sel.flag2 pa || !sizeOk pa n then .next (s.reply .unsupported)
  else if !s.sel.flag then
    match s.outsideRead pa n with
    | some (r, s) => .next (s.reply r)
    | none => .next s
  else match regionOf pa with
    | .coreMmio _ _ | .clusterMmio _ _ | .service _ =>
      match s.mmioWrite pa s.sel.data with
      | some s => .next (s.reply .done)
      | none => .next (s.reply .unsupported)
    | _ =>
      let bs := bytesOf n s.sel.data.toNat
      let s' := s.arriveStore pa bs 64 .host
      .next (if s.busyBank pa then s' else s'.reply .done)

/-! ### The fabric (R353; 18_sketches.md R313) -/

/-- An answer to another package. -/
def State.fabReply (s : State) (source : Nat) (r : Reply) : State := s.modPkg fun p => { p with fabReplies := p.fabReplies ++ [(source, r)] }
/-- What a request of a tenant at an address is refused with: no such target, or a bank of another owner (R358). -/
def State.fabRefuses (s : State) (ten pa : Nat) : Option Reply :=
  match regionOf pa with
  | .remote _ _ | .unassigned => some .unsupported
  | .coreMmio _ _ | .clusterMmio _ _ | .service _ => if ten = 0 ∧ s.assigned none pa then none else some .unsupported
  | _ =>
    if !s.assigned none pa then some .unsupported
    else match rowAt pa with
      | some r => if ten ≠ 0 ∧ s.tenantOf (coreOfRid r) ≠ ten then some .denied else none
      | none => none
/-- Bytes of one 64-byte line, up to an engine beat; 8 bytes at control words and registers. -/
def fabSize (pa n : Nat) : Bool :=
  1 ≤ n && n ≤ 64 && pa / 64 == (pa + n - 1) / 64 && match regionOf pa with
    | .control _ _ _ | .coreMmio _ _ | .clusterMmio _ _ | .service _ => n == 8 && pa % 8 == 0
    | _ => true
/-- The cluster number under which the fabric's own translations are held. -/
def fabCluster : Nat := 96
/-- A read or a write of another package that arrives for a physical address, answered: a read waits for a boundary, and a write that a BUSY octet
holds is answered when it applies (R368). -/
def State.fabAccess (s : State) (src pa n : Nat) (data : Option Nat) (ten : Nat) : State :=
  match data with
  | none => match s.outsideRead pa n with
    | some (r, s) => s.fabReply src r
    | none => s.pressAt pa none
  | some v =>
    match regionOf pa with
    | .coreMmio _ _ | .clusterMmio _ _ | .service _ =>
      (match s.mmioWrite pa (BitVec.ofNat 64 v) with | some s => s.fabReply src .done | none => s.fabReply src .unsupported)
    | _ =>
      let s' := s.arriveStore pa (bytesOf n v) ten (.fabric src none)
      if s.busyBank pa then s' else s'.fabReply src .done
/-- An atomic of another package that arrives for a physical address. -/
def State.fabAtomic (s : State) (src pa n ten : Nat) (a : Nat × Nat × Nat) : State :=
  if s.busyBank pa then (s.slotAt pa n).holdWrite pa (bytesOf n 0) ten (.fabric src (some a)) else
  if (s.uncorrAt pa n).isSome then s.fabReply src .abort else
  match s.settleAt pa n none with
  | none => s.pressAt pa none
  | some s =>
    match s.atomHome pa n a.1 a.2.1 a.2.2 ten with
    | none => s
    | some (old, s) => (s.slotAt pa n).fabReply src (.data old)
/-- A counter addition of another package's sum, one step at the counter's home (19_sketch_at_work.md R314), answered with the counter as it was, and held
whole by a BUSY octet (R368). -/
def State.fabAdd (s : State) (src pa ten : Nat) (op : CtrOp) : State :=
  let n := op.bytes
  if s.busyBank pa then (s.slotAt pa n).holdWrite pa (bytesOf n 0) ten (.fabAdd src op) else
  if (s.uncorrAt pa n).isSome then s.fabReply src .abort else
  match s.settleAt pa n none with
  | none => s.pressAt pa none
  | some s =>
    let r := s.wordOp pa op
    (r.2.2.2.slotAt pa n).fabReply src (.data r.1)
/-- The line of memory that a sum of sketches of another package works on, noted: whether a store there divides is decided word by word (R313). -/
def State.farLine (s : State) (pa : Nat) : State :=
  s.modPkg fun p => if p.farLines.contains (pa / 64) then p else { p with farLines := p.farLines ++ [pa / 64] }
/-- An access of another package at a virtual address, translated here (18_sketches.md R313): a fault is reported and served here. -/
def State.fabXlat (s : State) (src ten va : Nat) (writes : List Bool) (act : Nat → State → State) : State :=
  let rec go : List Bool → Nat → State → State
    | [], pa, s =>
      if !engineTarget (regionOf pa) then s.fabReply src (.fault .perm) else
      match s.fabRefuses ten pa with
      | some r => s.fabReply src r
      | none => act pa s
    | w :: ws, _, s =>
      match s.engXlat fabCluster ten va w with
      | .error x =>
        if x.cause = .perm then s.fabReply src (.fault .perm)
        else (s.toBar ten fabCluster (.fabric src) x).fabReply src (.fault x.cause)
      | .ok (pa, _, s) => go ws pa s
  go writes 0 s
/-- The control word that an atomic may reach, by compare and swap (R32), or bytes of memory. -/
def atomTarget (aop pa n : Nat) : Bool :=
  (n == 4 || n == 8) && pa % n == 0 && match regionOf pa with
    | .control _ _ _ => aop == 2 && n == 8
    | .coreMmio _ _ | .clusterMmio _ _ | .service _ => false
    | _ => true
/-- FABRIC_REQUEST from another package. -/
def execFabricRequest (s : State) : Out :=
  let src := s.sel.unit
  if 320 ≤ src ∨ src = s.pkg.pkgid.toNat then .next s else
  let direct : Nat → Nat → Nat → Option Nat → Out := fun ten pa n data =>
    if !fabSize pa n then .next (s.fabReply src .unsupported) else
    match s.fabRefuses ten pa with
    | some r => .next (s.fabReply src r)
    | none => .next ((if n ≤ 8 then s else s.farLine pa).fabAccess src pa n data ten)
  match s.sel.req with
  | .load ten pa n => direct ten pa n none
  | .store ten pa n v => direct ten pa n (some v)
  | .atomic ten aop pa n x e =>
    if !atomTarget aop pa n || 9 < aop then .next (s.fabReply src .unsupported) else
    match s.fabRefuses ten pa with
    | some r => .next (s.fabReply src r)
    | none => .next (s.fabAtomic src pa n ten (aop, x, e))
  | .array ten va n data =>
    if n = 0 ∨ 64 < n ∨ va / 64 ≠ (va + n - 1) / 64 then .next (s.fabReply src .unsupported) else
    .next (s.fabXlat src ten va [data.isSome] fun pa s => (s.farLine pa).fabAccess src pa n data ten)
  | .add ten va width addend =>
    if (width ≠ 16 ∧ width ≠ 32) ∨ va % (width / 8) ≠ 0 then .next (s.fabReply src .unsupported) else
    .next (s.fabXlat src ten va [false, true] fun pa s => (s.farLine pa).fabAdd src pa ten (.add width addend))
  | .packet core row dest hdr flits =>
    if cores ≤ core ∨ 2048 ≤ row ∨ cores ≤ dest / 2048 ∨ 8 < flits.length then .next s else
    match s.packetIn { row := dest % 2048, remote := true, pkg := src, core := core, srow := row, hdr := hdr, flits := flits } (dest / 2048) with
    | some s => .next s
    | none => .next s

/-! ### Owners, minima and modes (R361, R362, R366) -/

def execOctownReassign (s : State) : Out :=
  if s.sel.unit < 768 ∧ s.sel.sub < 64 then .next (s.setOwner s.sel.unit (BitVec.ofNat 64 s.sel.sub)) else .next s
/-- SCRUB_DONE: 4,096 cycles after the store, or once the host has answered, and after every row of the octet has closed. -/
def execScrubDone (s : State) : Out :=
  let oct := s.sel.unit
  let o := s.octOf oct
  if o.busy && o.scrubAt.any (fun t => decide (t ≤ s.cycle)) && s.octClosed oct then .next (s.scrubOctet oct) else .next s
def execTenminWrite (s : State) : Out := if s.sel.unit < 64 then .next (s.setTenmin s.sel.unit s.sel.data) else .next s
def execFnmodeWrite (s : State) : Out := .next ((s.serviceWrite 0x40 s.sel.data).getD s)

/-! ### TLBCMD (16_translation.md R289) -/

/-- A store to `TLBCMD` of a kind. -/
def State.tlbKind (s : State) (kind : Nat) : Out := if bits s.sel.data.toNat 1 0 = kind then .next (s.tlbcmd s.sel.data) else .next s
def execTlbcmdPage (s : State) : Out := s.tlbKind 0
def execTlbcmdTenant (s : State) : Out := s.tlbKind 1
def execTlbcmdIpa (s : State) : Out := s.tlbKind 2
def execTlbcmdAll (s : State) : Out := s.tlbKind 3
/-- Whether an access that a removed entry translated is still on its way. -/
def State.tlbWaits (s : State) : Bool :=
  s.inFlight.any fun a => s.pkg.tlbWait.any fun r => decide (r.1 ≤ a) && decide (a < r.1 + r.2)
/-- TLBCMD_DONE: `BUSY` returns to 0, and a command of kind 1 or 3 makes changed roots take effect. Entries that walks have made meanwhile go
first, and what was translated through them is waited for. -/
def execTlbcmdDone (s : State) : Out :=
  let c := s.pkg.tlbcmd
  if !c.getLsbD 63 || s.tlbWaits then .next s
  else if s.tlbcmdRemove.tlbWaits then .next s.tlbcmdRemove else
  let s := s.tlbcmdRemove
  let kind := bits c.toNat 1 0
  let s := s.modPkg fun p => { p with tlbcmd := p.tlbcmd &&& ~~~BitVec.ofNat 64 (2 ^ 63), tlbWait := [] }
  let root : Tenant → Tenant := fun t => { t with root1 := t.s1root, root2 := t.s2root }
  .next (if kind = 1 then s.modTen (bits c.toNat 13 8) root
    else if kind = 3 then { s with ten := s.ten.map fun (e : Nat × Tenant) => (e.1, root e.2) }
    else s)

end Sys2Proof.Machine
end

