-- ==== Sys2Proof/Machine/Vector.lean ====
section
/-! DEFINITION. Vector instructions (12_vector_matrix.md R204 to R221; 11_formats.md R199 to R203), the core's vector queue, and VECTOR_BIND and
VECTOR_LAND. -/

namespace Sys2Proof.Machine

/-! ### Queues (R206, R208) -/

/-- Whether an operation has landed. -/
def VOp.landed (v : VOp) (now : Nat) : Bool := match v.bound with | some t => decide (t + v.landing ≤ now) | none => false
/-- The place of a queue's bindable head: its first operation that has not bound, in a later cycle than its issue. -/
def State.vhead (s : State) (core : Nat) : Option Nat :=
  let q := (s.coreOf core).vq
  match q.findIdx? fun v => v.bound.isNone with
  | none => none
  | some i =>
    match q[i]? with
    | none => none
    | some v =>
      if s.cycle ≤ v.issued then none
      else if (q.take i).any fun o => o.rid == v.rid && !(o.landed s.cycle) && o.writes.any fun w => v.writes.contains w || v.reads.contains w
      then none else some i
/-! ### Issue (R205, R208; entry 8) -/

/-- The number of a register among what a vector operation reads and writes: segments are 0 to 10. -/
def vreg (g : BitVec 5) : Nat := 32 + g.toNat
/-- A queue that becomes non-empty raises its pass to the lowest of the quad's other queues that have bindable heads (R206). -/
def State.vjoin (s : State) (core : Nat) : State :=
  let c := s.coreOf core
  let others := ((List.range 4).map fun i => core / 4 * 4 + i).filter fun x => x != core && (s.vhead x).isSome
  match c.vq, others.map fun x => (s.coreOf x).vpass with
  | [], p :: ps => s.modCore core fun c => { c with vpass := max c.vpass (ps.foldl min p) }
  | _, _ => s
/-- What later reads of a queued operation's result wait for: its segments, or its register with its place in the window (R209). -/
def vecLoads (id : Nat) (writes : List Nat) : List PLoad :=
  writes.map fun w =>
    { id := id, pa := 0, size := 0, sext := false, reg := if 32 < w then some (w - 32) else none, win := if 32 ≤ w then some 1 else none,
      seg := if w < 32 then some w else none, own := [], acq := false, atomic := false, vec := true }
/-- A vector word: it enters the core's vector queue, and cannot issue while the queue is full. An operation keeps its place in the queue until it
lands, for the limit of 8 and for the test of an empty queue: the manual does not say when a bound operation leaves it (DESIGN CHOICE; entry
93). Its result stands in the row at once, and later reads wait for the landing (R209). A result for code 0 enters the window only, and is no
write of a register (R61). -/
def State.vecOp (s : State) (reads writes : List Nat) (landing occupancy : Nat) (r : Res State) : Out :=
  s.runWord (
    if isBase s.me then r
    else if 8 ≤ (s.coreOf s.myCore).vq.length then stall
    else do
      let s ← r
      let s := s.vjoin s.myCore
      let (id, s) := s.tick
      let s := s.modThr s.me fun t => { t with loads := t.loads ++ vecLoads id writes }
      .ok (s.modCore s.myCore fun c => { c with
        vq := c.vq ++ [{ id := id, rid := s.me, writes := writes.filter fun w => w != 32, reads := reads.filter fun w => w != 32, landing := landing,
                          occupancy := occupancy, issued := s.cycle }] }))

/-! ### Lanes -/

/-- The lanes of a segment as the word reads them. -/
def State.lanes (s : State) (ty : BitVec 3) (k : BitVec 4) : Res (List Nat) := do
  let x ← s.vseg k.toNat
  .ok (lanesOfSeg ty.toNat x)
/-- Every lane of a segment written. -/
def State.putLanes (s : State) (ty : BitVec 3) (k : BitVec 4) (l : List Nat) : State := s.setSeg k.toNat (joinLanes (laneBits ty.toNat) l)
/-- Three lists lane by lane. -/
def zip3 (f : Nat → Nat → Nat → Nat) : List Nat → List Nat → List Nat → List Nat
  | a :: as, b :: bs, d :: ds => f a b d :: zip3 f as bs ds
  | _, _, _ => []
/-- A float rounded once to a lane type, or an integer wrapped to its width. -/
def laneRnd (ty : Nat) (v : Val) : Nat :=
  match laneFmt ty with
  | some f => (rnd f .rne false v).enc
  | none => 0
/-- One lane operation on a floating type by values, on an integer type by numbers (R212). -/
def arith (ty : Nat) (f : Val → Val → Val → Val) (g : Int → Int → Int → Int) (a b d : Nat) : Nat :=
  match laneFmt ty with
  | some m => laneRnd ty (f (valOf m a) (valOf m b) (valOf m d))
  | none => let w := laneBits ty; ofInt w (g (toSigned w a) (toSigned w b) (toSigned w d))
def laneAbs (ty a : Nat) : Nat :=
  match laneFmt ty with
  | some f => if isNaN f a then canonicalNaN f else a % 2 ^ (laneBits ty - 1)
  | none => let w := laneBits ty; ofInt w ((toSigned w a).natAbs : Int)
def laneNeg (ty a : Nat) : Nat :=
  match laneFmt ty with
  | some f => if isNaN f a then canonicalNaN f else a ^^^ 2 ^ (laneBits ty - 1)
  | none => let w := laneBits ty; ofInt w (-(toSigned w a))
/-- `a × 2^k`: exponents beyond 1000 give what 1000 gives in every lane type. -/
def laneScale (ty a b : Nat) : Nat :=
  match laneFmt ty with
  | some f => laneRnd ty ((valOf f a).mul (scaled false 1 (satInt (toSigned (laneBits ty) b) (-1000) 1000)))
  | none => 0

/-- A lane-by-lane word on A, B and D. -/
def State.vlanes (s : State) (d a b : BitVec 4) (y : BitVec 3) (readsD : Bool) (landing occ : Nat) (f : Nat → Nat → Nat → Nat) : Out :=
  s.vecOp ([a.toNat, b.toNat] ++ if readsD then [d.toNat] else []) [d.toNat] landing occ (do
    let x ← s.lanes y a
    let z ← s.lanes y b
    let w ← if readsD then s.lanes y d else .ok x
    .ok (s.putLanes y d (zip3 f x z w)))
/-- A lane-by-lane word on A. -/
def State.vlanes1 (s : State) (d a : BitVec 4) (y : BitVec 3) (landing occ : Nat) (f : Nat → Nat) : Out :=
  s.vecOp [a.toNat] [d.toNat] landing occ (do
    let x ← s.lanes y a
    .ok (s.putLanes y d (x.map f)))
/-- A word that reduces segments to a scalar. -/
def State.vscalar (s : State) (g : BitVec 5) (a b : BitVec 4) (y : BitVec 3) (landing occ : Nat) (f : List Nat → List Nat → Nat) : Out :=
  s.vecOp [a.toNat, b.toNat] [vreg g] landing occ (do
    let x ← s.lanes y a
    let z ← s.lanes y b
    s.dst g.toNat (BitVec.ofNat 64 (f x z)))

/-! ### Elementwise arithmetic (R212, R213) -/

def execVadd (d a b : BitVec 4) (y : BitVec 3) (s : State) : Out :=
  s.vlanes d a b y false 3 1 (arith y.toNat (fun a b _ => a.add false b) fun a b _ => a + b)
def execVsub (d a b : BitVec 4) (y : BitVec 3) (s : State) : Out :=
  s.vlanes d a b y false 3 1 (arith y.toNat (fun a b _ => a.add false b.neg) fun a b _ => a - b)
def execVmul (d a b : BitVec 4) (y : BitVec 3) (s : State) : Out :=
  s.vlanes d a b y false 3 1 (arith y.toNat (fun a b _ => a.mul b) fun a b _ => a * b)
def execVmax (d a b : BitVec 4) (y : BitVec 3) (s : State) : Out := s.vlanes d a b y false 3 1 fun p q _ => laneMinMax y.toNat true p q
def execVmin (d a b : BitVec 4) (y : BitVec 3) (s : State) : Out := s.vlanes d a b y false 3 1 fun p q _ => laneMinMax y.toNat false p q
def execVabs (d a : BitVec 4) (y : BitVec 3) (s : State) : Out := s.vlanes1 d a y 2 1 (laneAbs y.toNat)
def execVneg (d a : BitVec 4) (y : BitVec 3) (s : State) : Out := s.vlanes1 d a y 2 1 (laneNeg y.toNat)
def execVmov (d a : BitVec 4) (y : BitVec 3) (s : State) : Out := s.vlanes1 d a y 2 1 fun p => p
def execVfma (d a b : BitVec 4) (y : BitVec 3) (s : State) : Out :=
  s.vlanes d a b y true 4 1 (arith y.toNat (fun a b d => d.add false (a.mul b)) fun a b d => d + a * b)
def execVfms (d a b : BitVec 4) (y : BitVec 3) (s : State) : Out :=
  s.vlanes d a b y true 4 1 (arith y.toNat (fun a b d => d.add false (a.mul b).neg) fun a b d => d - a * b)
def execVscale (d a b : BitVec 4) (y : BitVec 3) (s : State) : Out := s.vlanes d a b y false 3 1 fun p q _ => laneScale y.toNat p q
def execVand (d a b : BitVec 4) (y : BitVec 3) (s : State) : Out := s.vlanes d a b y false 2 1 fun p q _ => p &&& q
def execVor (d a b : BitVec 4) (y : BitVec 3) (s : State) : Out := s.vlanes d a b y false 2 1 fun p q _ => p ||| q
def execVxor (d a b : BitVec 4) (y : BitVec 3) (s : State) : Out := s.vlanes d a b y false 2 1 fun p q _ => p ^^^ q
/-- Shifts of a lane by a lane modulo its width. -/
def laneShl (w a b : Nat) : Nat := a * 2 ^ (b % w) % 2 ^ w
def laneShr (w a b : Nat) : Nat := a / 2 ^ (b % w)
def laneSar (w a b : Nat) : Nat := ofInt w (toSigned w a / 2 ^ (b % w))
def execVshl (d a b : BitVec 4) (y : BitVec 3) (s : State) : Out := s.vlanes d a b y false 2 1 fun p q _ => laneShl (laneBits y.toNat) p q
def execVshr (d a b : BitVec 4) (y : BitVec 3) (s : State) : Out := s.vlanes d a b y false 2 1 fun p q _ => laneShr (laneBits y.toNat) p q
def execVsar (d a b : BitVec 4) (y : BitVec 3) (s : State) : Out := s.vlanes d a b y false 2 1 fun p q _ => laneSar (laneBits y.toNat) p q

/-! ### Compares, selects and reductions (R214 to R217) -/

/-- A compare of two lanes: 0 equal, 1 less, 2 less or equal. -/
def laneCompare (ty op a b : Nat) : Bool :=
  let x := laneVal ty a
  let y := laneVal ty b
  if op = 0 then x.eq y else if op = 1 then x.lt y else x.lt y || x.eq y
/-- Bits put together, the first lowest. -/
def maskOf : List Bool → Nat
  | [] => 0
  | b :: l => bit b + 2 * maskOf l
def execVcmpEq (g : BitVec 5) (a b : BitVec 4) (y : BitVec 3) (s : State) : Out :=
  s.vscalar g a b y 3 1 fun p q => maskOf (p.zipWith (laneCompare y.toNat 0) q)
def execVcmpLt (g : BitVec 5) (a b : BitVec 4) (y : BitVec 3) (s : State) : Out :=
  s.vscalar g a b y 3 1 fun p q => maskOf (p.zipWith (laneCompare y.toNat 1) q)
def execVcmpLe (g : BitVec 5) (a b : BitVec 4) (y : BitVec 3) (s : State) : Out :=
  s.vscalar g a b y 3 1 fun p q => maskOf (p.zipWith (laneCompare y.toNat 2) q)
def execVsel (d a b : BitVec 4) (y : BitVec 3) (m : BitVec 5) (s : State) : Out :=
  s.vecOp [a.toNat, b.toNat, vreg m] [d.toNat] 2 1 (do
    let (k, s) ← s.vsrc m.toNat
    let x ← s.lanes y a
    let z ← s.lanes y b
    .ok (s.putLanes y d ((x.zip z).zipIdx.map fun e => if k.toNat.testBit e.2 then e.1.1 else e.1.2)))
/-- A lane widened exactly to an FP32 pattern. -/
def widen32 (ty x : Nat) : Nat := if ty = 0 then x else rne32 (laneVal ty x)
/-- The levels of the tree over the lanes of a type (R201). -/
def treeLevels (ty : Nat) : Nat := Nat.log2 (laneCount ty)
def redSum (ty : Nat) (l : List Nat) : Nat :=
  match laneFmt ty with
  | some _ => tree 0 (fun a b => rne32 ((f32 a).add false (f32 b))) (treeLevels ty) (l.map (widen32 ty))
  | none => tree 0 (fun a b => (a + b) % 2 ^ 64) (treeLevels ty) (l.map fun x => ofInt 64 (toSigned (laneBits ty) x))
def redMinMax (ty : Nat) (wantMax : Bool) (l : List Nat) : Nat :=
  let x := tree 0 (laneMinMax ty wantMax) (treeLevels ty) l
  match laneFmt ty with
  | some _ => widen32 ty x
  | none => ofInt 64 (toSigned (laneBits ty) x)
def execVredSum (g : BitVec 5) (a : BitVec 4) (y : BitVec 3) (s : State) : Out := s.vscalar g a a y 6 1 fun p _ => redSum y.toNat p
def execVredMax (g : BitVec 5) (a : BitVec 4) (y : BitVec 3) (s : State) : Out := s.vscalar g a a y 6 1 fun p _ => redMinMax y.toNat true p
def execVredMin (g : BitVec 5) (a : BitVec 4) (y : BitVec 3) (s : State) : Out := s.vscalar g a a y 6 1 fun p _ => redMinMax y.toNat false p
/-- The dot product of two segments (R217). -/
def dotOf (ty : Nat) (p q : List Nat) : Nat :=
  match laneFmt ty with
  | some f => rne32 (blockSum (p.zipWith (fun a b => (valOf f a).mul (valOf f b)) q))
  | none =>
    let w := laneBits ty
    ofInt 64 ((p.zipWith (fun a b => toSigned w a * toSigned w b) q).foldl (· + ·) 0)
def execVdot (g : BitVec 5) (a b : BitVec 4) (y : BitVec 3) (s : State) : Out := s.vscalar g a b y 6 1 (dotOf y.toNat)

/-! ### Special functions (R218) -/

/-- A function of values applied to a lane. -/
def special (ty : Nat) (f : Val → Val) (a : Nat) : Nat := laneRnd ty (f (laneVal ty a))
def execVexp2 (d a : BitVec 4) (y : BitVec 3) (s : State) : Out := s.vlanes1 d a y 8 2 (special y.toNat Val.exp2)
def execVlog2 (d a : BitVec 4) (y : BitVec 3) (s : State) : Out := s.vlanes1 d a y 8 2 (special y.toNat Val.log2)
def execVrcp (d a : BitVec 4) (y : BitVec 3) (s : State) : Out := s.vlanes1 d a y 8 2 (special y.toNat Val.rcp)
def execVrsq (d a : BitVec 4) (y : BitVec 3) (s : State) : Out := s.vlanes1 d a y 8 2 (special y.toNat Val.rsq)

/-! ### Conversions (R219, R220) -/

/-- `VCVT`: the new lanes of the destination from the source's lanes and its old ones. -/
def convert (src dst part : Nat) (ef sat : Bool) (a d : List Nat) : List Nat :=
  let ns := laneCount src
  let nd := laneCount dst
  let fromInt := (laneFmt src).isNone
  if nd < ns then ((a.drop (part * nd)).take nd).map fun x => (cvtLane dst sat fromInt (laneVal src x)).1
  else d.take (part * ns) ++ cvtBlock dst sat ef fromInt (a.map (laneVal src)) ++ d.drop ((part + 1) * ns)
def execVcvt (d a : BitVec 4) (p : BitVec 1) (f t : BitVec 3) (e u q : BitVec 1) (s : State) : Out :=
  let reads := if laneCount f.toNat < laneCount t.toNat then [a.toNat, d.toNat] else [a.toNat]
  s.vecOp reads [d.toNat] 3 1 (do
    let x ← s.lanes f a
    let old ← if laneCount f.toNat < laneCount t.toNat then s.lanes t d else .ok []
    .ok (s.putLanes t d (convert f.toNat t.toNat (p.toNat * 2 + q.toNat) (e == 1) (u == 1) x old)))

/-- The larger magnitude of two finite values. -/
def Val.absMax (x y : Val) : Val :=
  match x, y with
  | .fin _ a b, .fin _ c d => if (Val.fin false a b).lt (.fin false c d) then .fin false c d else .fin false a b
  | _, _ => x
/-- A quantised block: its 32 codes of four bits, and its scale. -/
def quantMx (xs : List Val) : List Nat × Nat :=
  if xs.any fun v => !v.isFinite then (List.replicate 32 0, 0xFF) else
  let ex : Int := match (xs.foldl Val.absMax (.fin false 0 1)) with
    | .fin _ a b => if a = 0 then 0 else satInt (ilog2 a b - 2) (-127) 127
    | _ => 0
  (xs.map fun v => (rnd e2m1 .rne true (v.mul (scaled false 1 (-ex)))).enc, (ex + 127).toNat)
def quantGq (xs : List Val) : List Nat × Nat :=
  if xs.any fun v => !v.isFinite then (List.replicate 32 0, 0x7FC0) else
  let amax := xs.foldl Val.absMax (.fin false 0 1)
  let sc := (rnd bf16 .rne false (amax.div (.fin false 7 1))).enc
  let sc := if amax.isZero then 0 else if sc = 0 then 1 else sc
  if sc = 0 then (List.replicate 32 0, 0)
  else (xs.map fun v => match v.div (valOf bf16 sc) with
    | .fin neg a b => ofInt 4 (satInt (roundInt .rne neg a b).1 (-8) 7)
    | _ => 0, sc)
/-- `n` bits of a segment from bit `at_` on replaced. -/
def segInsert (x at_ n v : Nat) : Nat := x % 2 ^ at_ + v % 2 ^ n * 2 ^ at_ + x / 2 ^ (at_ + n) * 2 ^ (at_ + n)
/-- `VQUANT`: the codes into quarter `q` of wD, the scale into slot `s` of wB. -/
def State.vquant (s : State) (d a b : BitVec 4) (y : BitVec 3) (slot : BitVec 6) (q : BitVec 2) (width : Nat)
    (f : List Val → List Nat × Nat) : Out :=
  let srcs := if y = 0 then [a.toNat, a.toNat + 1] else [a.toNat]
  s.vecOp (srcs ++ [d.toNat, b.toNat]) [d.toNat, b.toNat] 6 2 (do
    let x ← s.lanes y a
    let more ← if y = 0 then (s.vseg (a.toNat + 1)).map (lanesOfSeg 0) else .ok []
    let oldD ← s.vseg d.toNat
    let oldB ← s.vseg b.toNat
    let r := f (((x ++ more).take 32).map (laneVal y.toNat))
    let s := s.setSeg d.toNat (segInsert oldD (128 * q.toNat) 128 (joinLanes 4 r.1))
    .ok (s.setSeg b.toNat (segInsert oldB (width * slot.toNat) width r.2)))
def execVquantMx (d a b : BitVec 4) (y : BitVec 3) (n : BitVec 6) (q : BitVec 2) (s : State) : Out := s.vquant d a b y n q 8 quantMx
def execVquantGq (d a b : BitVec 4) (y : BitVec 3) (n : BitVec 6) (q : BitVec 2) (s : State) : Out := s.vquant d a b y n q 16 quantGq

/-! ### Lane movement (R221) -/

def execVperm (d a b : BitVec 4) (y : BitVec 3) (s : State) : Out :=
  s.vecOp [a.toNat, b.toNat, d.toNat] [d.toNat] 2 1 (do
    let x ← s.lanes y a
    let k ← s.lanes y b
    let old ← s.lanes y d
    let all := x ++ old
    .ok (s.putLanes y d (k.map fun i => all.getD (i % (2 * laneCount y.toNat)) 0)))
def execVbcast (d : BitVec 4) (y : BitVec 3) (g : BitVec 5) (s : State) : Out :=
  s.vecOp [vreg g] [d.toNat] 2 1 (do
    let (x, s) ← s.vsrc g.toNat
    .ok (s.putLanes y d (List.replicate (laneCount y.toNat) x.toNat)))
def execVins (d : BitVec 4) (n : BitVec 2) (y : BitVec 3) (m : BitVec 4) (g : BitVec 5) (s : State) : Out :=
  s.vecOp [d.toNat, vreg g] [d.toNat] 2 1 (do
    let (x, s) ← s.vsrc g.toNat
    let old ← s.lanes y d
    .ok (s.putLanes y d (old.set (n.toNat * 16 + m.toNat) (x.toNat % 2 ^ laneBits y.toNat))))
def execVext (g : BitVec 5) (a : BitVec 4) (y : BitVec 3) (n : BitVec 6) (s : State) : Out :=
  s.vscalar g a a y 3 1 fun p _ =>
    let x := p.getD n.toNat 0
    if (laneFmt y.toNat).isSome then x else ofInt 64 (toSigned (laneBits y.toNat) x)

/-! ### The quad's vector unit (R206) -/

/-- The order of a core's head at the arbiter: weight 0 last, then the lowest pass, then the lower core. -/
def State.vkey (s : State) (core : Nat) : Nat × Nat :=
  (if (s.cs core).vshare = 0 then 1 else 0, (s.coreOf core).vpass)
/-- The head that the arbiter binds next, among cores that have not bound in this cycle. -/
def State.vnext (s : State) (quad : Nat) (done : List Nat) : Option (Nat × Nat) :=
  let cands := ((List.range 4).map fun i => 4 * quad + i).filterMap fun c =>
    if done.contains c then none else (s.vhead c).map fun i => (c, i)
  let any := fun (x : Nat × Nat) => (s.vkey x.1).1
  let noZero := cands.filter fun x => any x == 0
  -- cores of weight 0 bind only in cycles in which no other has a bindable head
  let all := ((List.range 4).map fun i => 4 * quad + i).any fun c => (s.vkey c).1 == 0 && (s.vhead c).isSome
  let pool := if noZero.isEmpty then (if all || done.any fun c => (s.vkey c).1 == 0 then [] else cands) else noZero
  match pool with
  | [] => none
  | x :: rest => some (rest.foldl (fun b y => if (s.vkey y.1).2 < (s.vkey b.1).2 then y else b) x)
/-- Each free lane group takes one head. -/
def vbind : Nat → Nat → Nat → List Nat → State → State
  | 0, _, _, _, s => s
  | f + 1, quad, g, done, s =>
    if 4 ≤ g then s else
    if s.cycle < (s.quadOf quad).groups.getD g 0 then vbind f quad (g + 1) done s else
    match s.vnext quad done with
    | none => s
    | some (c, i) =>
      match (s.coreOf c).vq[i]? with
      | none => s
      | some v =>
        let w := (s.cs c).vshare.toNat
        let s := s.modQuad quad fun q => { q with groups := q.groups.set g (s.cycle + v.occupancy) }
        let s := s.modCore c fun x => { x with
          vq := modAt x.vq i fun v => { v with bound := some s.cycle }
          vpass := x.vpass + v.occupancy * (256 / max w 1) }
        vbind f quad (g + 1) (c :: done) s
/-- VECTOR_BIND (R206): one cycle of a quad's arbiter. -/
def execVectorBind (s : State) : Out :=
  let bound := ((List.range 4).map fun i => 4 * s.sel.unit + i).filter fun c => (s.coreOf c).vq.any fun v => v.bound == some s.cycle
  .next (vbind 5 s.sel.unit 0 bound s)
/-- VECTOR_LAND (R208): the operations of a core that have landed leave its queue. -/
def execVectorLand (s : State) : Out :=
  let gone := (s.coreOf s.sel.unit).vq.filter fun v => v.landed s.cycle
  let s := s.modCore s.sel.unit fun c => { c with vq := c.vq.filter fun v => !(v.landed s.cycle) }
  .next (gone.foldl (fun s v => s.modThr v.rid fun t => { t with loads := t.loads.filter fun l => l.id != v.id }) s)

end Sys2Proof.Machine
end

