-- ==== Sys2Proof/Machine/Dispatch.lean ====
section
/-! DEFINITION. The meaning of each instruction: one arm per constructor, each a direct call of its meaning. -/

namespace Sys2Proof.Machine

def exec (i : Instr) (s : State) : Host.Outcome State Fault Refusal :=
  match i with
  | .nop => Sys2Proof.Machine.execNop s
  | .texit => Sys2Proof.Machine.execTexit s
  | .yield => Sys2Proof.Machine.execYield s
  | .trap b => Sys2Proof.Machine.execTrap b s
  | .tret a => Sys2Proof.Machine.execTret a s
  | .fenceI => Sys2Proof.Machine.execFenceI s
  | .waitmsg => Sys2Proof.Machine.execWaitmsg s
  | .ssync a => Sys2Proof.Machine.execSsync a s
  | .setpri a => Sys2Proof.Machine.execSetpri a s
  | .sleepuntil a => Sys2Proof.Machine.execSleepuntil a s
  | .hjoin a => Sys2Proof.Machine.execHjoin a s
  | .chunk => Sys2Proof.Machine.execChunk s
  | .tlbinv a b => Sys2Proof.Machine.execTlbinv a b s
  | .pgate a => Sys2Proof.Machine.execPgate a s
  | .cycle d => Sys2Proof.Machine.execCycle d s
  | .mbxpop d => Sys2Proof.Machine.execMbxpop d s
  | .beq a b o => Sys2Proof.Machine.execBeq a b o s
  | .bne a b o => Sys2Proof.Machine.execBne a b o s
  | .blt a b o => Sys2Proof.Machine.execBlt a b o s
  | .bge a b o => Sys2Proof.Machine.execBge a b o s
  | .bltu a b o => Sys2Proof.Machine.execBltu a b o s
  | .bgeu a b o => Sys2Proof.Machine.execBgeu a b o s
  | .jal d o => Sys2Proof.Machine.execJal d o s
  | .jalr d a im => Sys2Proof.Machine.execJalr d a im s
  | .ldrB d im => Sys2Proof.Machine.execLdrB d im s
  | .ldrH d im => Sys2Proof.Machine.execLdrH d im s
  | .ldrW d im => Sys2Proof.Machine.execLdrW d im s
  | .ldrD d im => Sys2Proof.Machine.execLdrD d im s
  | .ldrBu d im => Sys2Proof.Machine.execLdrBu d im s
  | .ldrHu d im => Sys2Proof.Machine.execLdrHu d im s
  | .ldrWu d im => Sys2Proof.Machine.execLdrWu d im s
  | .strB d im => Sys2Proof.Machine.execStrB d im s
  | .strH d im => Sys2Proof.Machine.execStrH d im s
  | .strW d im => Sys2Proof.Machine.execStrW d im s
  | .strD d im => Sys2Proof.Machine.execStrD d im s
  | .hstart d a b => Sys2Proof.Machine.execHstart d a b s
  | .ldaW d a c => Sys2Proof.Machine.execLdaW d a c s
  | .ldaD d a c => Sys2Proof.Machine.execLdaD d a c s
  | .stlW a b c => Sys2Proof.Machine.execStlW a b c s
  | .stlD a b c => Sys2Proof.Machine.execStlD a b c s
  | .stmcW a b c => Sys2Proof.Machine.execStmcW a b c s
  | .stmcD a b c => Sys2Proof.Machine.execStmcD a b c s
  | .fence c r => Sys2Proof.Machine.execFence c r s
  | .ldb d a im => Sys2Proof.Machine.execLdb d a im s
  | .ldh d a im => Sys2Proof.Machine.execLdh d a im s
  | .ldw d a im => Sys2Proof.Machine.execLdw d a im s
  | .ldd d a im => Sys2Proof.Machine.execLdd d a im s
  | .ldbu d a im => Sys2Proof.Machine.execLdbu d a im s
  | .ldhu d a im => Sys2Proof.Machine.execLdhu d a im s
  | .ldwu d a im => Sys2Proof.Machine.execLdwu d a im s
  | .vld d a im => Sys2Proof.Machine.execVld d a im s
  | .stb sg a im => Sys2Proof.Machine.execStb sg a im s
  | .sth sg a im => Sys2Proof.Machine.execSth sg a im s
  | .stw sg a im => Sys2Proof.Machine.execStw sg a im s
  | .std sg a im => Sys2Proof.Machine.execStd sg a im s
  | .vst sg a im => Sys2Proof.Machine.execVst sg a im s
  | .ldxB d a b k => Sys2Proof.Machine.execLdxB d a b k s
  | .ldxH d a b k => Sys2Proof.Machine.execLdxH d a b k s
  | .ldxW d a b k => Sys2Proof.Machine.execLdxW d a b k s
  | .ldxD d a b k => Sys2Proof.Machine.execLdxD d a b k s
  | .ldxBu d a b k => Sys2Proof.Machine.execLdxBu d a b k s
  | .ldxHu d a b k => Sys2Proof.Machine.execLdxHu d a b k s
  | .ldxWu d a b k => Sys2Proof.Machine.execLdxWu d a b k s
  | .ldxV d a b k => Sys2Proof.Machine.execLdxV d a b k s
  | .stxB d a b k => Sys2Proof.Machine.execStxB d a b k s
  | .stxH d a b k => Sys2Proof.Machine.execStxH d a b k s
  | .stxW d a b k => Sys2Proof.Machine.execStxW d a b k s
  | .stxD d a b k => Sys2Proof.Machine.execStxD d a b k s
  | .stxV d a b k => Sys2Proof.Machine.execStxV d a b k s
  | .atomwAdd d a b c r => Sys2Proof.Machine.execAtomwAdd d a b c r s
  | .atomwSwap d a b c r => Sys2Proof.Machine.execAtomwSwap d a b c r s
  | .atomwCas d a b c r => Sys2Proof.Machine.execAtomwCas d a b c r s
  | .atomwAnd d a b c r => Sys2Proof.Machine.execAtomwAnd d a b c r s
  | .atomwOr d a b c r => Sys2Proof.Machine.execAtomwOr d a b c r s
  | .atomwXor d a b c r => Sys2Proof.Machine.execAtomwXor d a b c r s
  | .atomwMin d a b c r => Sys2Proof.Machine.execAtomwMin d a b c r s
  | .atomwMax d a b c r => Sys2Proof.Machine.execAtomwMax d a b c r s
  | .atomwMinu d a b c r => Sys2Proof.Machine.execAtomwMinu d a b c r s
  | .atomwMaxu d a b c r => Sys2Proof.Machine.execAtomwMaxu d a b c r s
  | .atomdAdd d a b c r => Sys2Proof.Machine.execAtomdAdd d a b c r s
  | .atomdSwap d a b c r => Sys2Proof.Machine.execAtomdSwap d a b c r s
  | .atomdCas d a b c r => Sys2Proof.Machine.execAtomdCas d a b c r s
  | .atomdAnd d a b c r => Sys2Proof.Machine.execAtomdAnd d a b c r s
  | .atomdOr d a b c r => Sys2Proof.Machine.execAtomdOr d a b c r s
  | .atomdXor d a b c r => Sys2Proof.Machine.execAtomdXor d a b c r s
  | .atomdMin d a b c r => Sys2Proof.Machine.execAtomdMin d a b c r s
  | .atomdMax d a b c r => Sys2Proof.Machine.execAtomdMax d a b c r s
  | .atomdMinu d a b c r => Sys2Proof.Machine.execAtomdMinu d a b c r s
  | .atomdMaxu d a b c r => Sys2Proof.Machine.execAtomdMaxu d a b c r s
  | .qpush a b => Sys2Proof.Machine.execQpush a b s
  | .qpop d b => Sys2Proof.Machine.execQpop d b s
  | .qcntHeld d b => Sys2Proof.Machine.execQcntHeld d b s
  | .qcntFree d b => Sys2Proof.Machine.execQcntFree d b s
  | .sendH a b => Sys2Proof.Machine.execSendH a b s
  | .sendP d => Sys2Proof.Machine.execSendP d s
  | .sendHe a b => Sys2Proof.Machine.execSendHe a b s
  | .sendPe d => Sys2Proof.Machine.execSendPe d s
  | .recv d a sg => Sys2Proof.Machine.execRecv d a sg s
  | .recvDl d a b sg => Sys2Proof.Machine.execRecvDl d a b sg s
  | .bar a => Sys2Proof.Machine.execBar a s
  | .xcopy d sg => Sys2Proof.Machine.execXcopy d sg s
  | .xgather d sg => Sys2Proof.Machine.execXgather d sg s
  | .xscatter d sg => Sys2Proof.Machine.execXscatter d sg s
  | .xreduce d sg => Sys2Proof.Machine.execXreduce d sg s
  | .sbind d sg => Sys2Proof.Machine.execSbind d sg s
  | .sunbind d => Sys2Proof.Machine.execSunbind d s
  | .tbinit a t => Sys2Proof.Machine.execTbinit a t s
  | .tbwait a t => Sys2Proof.Machine.execTbwait a t s
  | .skdef a sg => Sys2Proof.Machine.execSkdef a sg s
  | .skupd a sg => Sys2Proof.Machine.execSkupd a sg s
  | .skupdv a b sg => Sys2Proof.Machine.execSkupdv a b sg s
  | .skqry d a sg => Sys2Proof.Machine.execSkqry d a sg s
  | .skadd d sg => Sys2Proof.Machine.execSkadd d sg s
  | .skscl a b => Sys2Proof.Machine.execSkscl a b s
  | .skclr a => Sys2Proof.Machine.execSkclr a s
  | .skstat d a c => Sys2Proof.Machine.execSkstat d a c s
  | .gdef d a sg => Sys2Proof.Machine.execGdef d a sg s
  | .gdel a => Sys2Proof.Machine.execGdel a s
  | .apply d a b => Sys2Proof.Machine.execApply d a b s
  | .applyq d a b => Sys2Proof.Machine.execApplyq d a b s
  | .nwait d a => Sys2Proof.Machine.execNwait d a s
  | .nabort a => Sys2Proof.Machine.execNabort a s
  | .cyield d a => Sys2Proof.Machine.execCyield d a s
  | .cresume d a b => Sys2Proof.Machine.execCresume d a b s
  | .csrr d n => Sys2Proof.Machine.execCsrr d n s
  | .csrw d a n => Sys2Proof.Machine.execCsrw d a n s
  | .csrs d a n => Sys2Proof.Machine.execCsrs d a n s
  | .csrc d a n => Sys2Proof.Machine.execCsrc d a n s
  | .launch b => Sys2Proof.Machine.execLaunch b s
  | .launchq d b => Sys2Proof.Machine.execLaunchq d b s
  | .signal a => Sys2Proof.Machine.execSignal a s
  | .nbcmd d b => Sys2Proof.Machine.execNbcmd d b s
  | .nhsend a b => Sys2Proof.Machine.execNhsend a b s
  | .add d a b => Sys2Proof.Machine.execAdd d a b s
  | .sub d a b => Sys2Proof.Machine.execSub d a b s
  | .and d a b => Sys2Proof.Machine.execAnd d a b s
  | .or d a b => Sys2Proof.Machine.execOr d a b s
  | .xor d a b => Sys2Proof.Machine.execXor d a b s
  | .andn d a b => Sys2Proof.Machine.execAndn d a b s
  | .shl d a b => Sys2Proof.Machine.execShl d a b s
  | .shr d a b => Sys2Proof.Machine.execShr d a b s
  | .sar d a b => Sys2Proof.Machine.execSar d a b s
  | .rol d a b => Sys2Proof.Machine.execRol d a b s
  | .ror d a b => Sys2Proof.Machine.execRor d a b s
  | .min d a b => Sys2Proof.Machine.execMin d a b s
  | .max d a b => Sys2Proof.Machine.execMax d a b s
  | .minu d a b => Sys2Proof.Machine.execMinu d a b s
  | .maxu d a b => Sys2Proof.Machine.execMaxu d a b s
  | .slt d a b => Sys2Proof.Machine.execSlt d a b s
  | .sltu d a b => Sys2Proof.Machine.execSltu d a b s
  | .seq d a b => Sys2Proof.Machine.execSeq d a b s
  | .sne d a b => Sys2Proof.Machine.execSne d a b s
  | .cmovz d a b => Sys2Proof.Machine.execCmovz d a b s
  | .cmovnz d a b => Sys2Proof.Machine.execCmovnz d a b s
  | .addw d a b => Sys2Proof.Machine.execAddw d a b s
  | .subw d a b => Sys2Proof.Machine.execSubw d a b s
  | .shlw d a b => Sys2Proof.Machine.execShlw d a b s
  | .shrw d a b => Sys2Proof.Machine.execShrw d a b s
  | .sarw d a b => Sys2Proof.Machine.execSarw d a b s
  | .mul d a b => Sys2Proof.Machine.execMul d a b s
  | .mulh d a b => Sys2Proof.Machine.execMulh d a b s
  | .mulhu d a b => Sys2Proof.Machine.execMulhu d a b s
  | .mulw d a b => Sys2Proof.Machine.execMulw d a b s
  | .div d a b => Sys2Proof.Machine.execDiv d a b s
  | .divu d a b => Sys2Proof.Machine.execDivu d a b s
  | .rem d a b => Sys2Proof.Machine.execRem d a b s
  | .remu d a b => Sys2Proof.Machine.execRemu d a b s
  | .clz d a => Sys2Proof.Machine.execClz d a s
  | .ctz d a => Sys2Proof.Machine.execCtz d a s
  | .popc d a => Sys2Proof.Machine.execPopc d a s
  | .brev d a => Sys2Proof.Machine.execBrev d a s
  | .bswap d a => Sys2Proof.Machine.execBswap d a s
  | .exts d a n p => Sys2Proof.Machine.execExts d a n p s
  | .extz d a n p => Sys2Proof.Machine.execExtz d a n p s
  | .ins d a n p => Sys2Proof.Machine.execIns d a n p s
  | .addi d a im => Sys2Proof.Machine.execAddi d a im s
  | .andi d a im => Sys2Proof.Machine.execAndi d a im s
  | .ori d a im => Sys2Proof.Machine.execOri d a im s
  | .xori d a im => Sys2Proof.Machine.execXori d a im s
  | .slti d a im => Sys2Proof.Machine.execSlti d a im s
  | .sltiu d a im => Sys2Proof.Machine.execSltiu d a im s
  | .shli d a m => Sys2Proof.Machine.execShli d a m s
  | .shri d a m => Sys2Proof.Machine.execShri d a m s
  | .sari d a m => Sys2Proof.Machine.execSari d a m s
  | .rori d a m => Sys2Proof.Machine.execRori d a m s
  | .lui d im => Sys2Proof.Machine.execLui d im s
  | .auipc d im => Sys2Proof.Machine.execAuipc d im s
  | .fadd d a b p r => Sys2Proof.Machine.execFadd d a b p r s
  | .fsub d a b p r => Sys2Proof.Machine.execFsub d a b p r s
  | .fmul d a b p r => Sys2Proof.Machine.execFmul d a b p r s
  | .fdiv d a b p r => Sys2Proof.Machine.execFdiv d a b p r s
  | .fsqrt d a p r => Sys2Proof.Machine.execFsqrt d a p r s
  | .fmin d a b p => Sys2Proof.Machine.execFmin d a b p s
  | .fmax d a b p => Sys2Proof.Machine.execFmax d a b p s
  | .feq d a b p => Sys2Proof.Machine.execFeq d a b p s
  | .flt d a b p => Sys2Proof.Machine.execFlt d a b p s
  | .fle d a b p => Sys2Proof.Machine.execFle d a b p s
  | .fclass d a p => Sys2Proof.Machine.execFclass d a p s
  | .fsgnj d a b p => Sys2Proof.Machine.execFsgnj d a b p s
  | .fsgnjn d a b p => Sys2Proof.Machine.execFsgnjn d a b p s
  | .fsgnjx d a b p => Sys2Proof.Machine.execFsgnjx d a b p s
  | .ffma d a b p r => Sys2Proof.Machine.execFfma d a b p r s
  | .ffms d a b p r => Sys2Proof.Machine.execFfms d a b p r s
  | .fcvt d a sg t r => Sys2Proof.Machine.execFcvt d a sg t r s
  | .vadd d a b y => Sys2Proof.Machine.execVadd d a b y s
  | .vsub d a b y => Sys2Proof.Machine.execVsub d a b y s
  | .vmul d a b y => Sys2Proof.Machine.execVmul d a b y s
  | .vmax d a b y => Sys2Proof.Machine.execVmax d a b y s
  | .vmin d a b y => Sys2Proof.Machine.execVmin d a b y s
  | .vabs d a y => Sys2Proof.Machine.execVabs d a y s
  | .vneg d a y => Sys2Proof.Machine.execVneg d a y s
  | .vmov d a y => Sys2Proof.Machine.execVmov d a y s
  | .vfma d a b y => Sys2Proof.Machine.execVfma d a b y s
  | .vfms d a b y => Sys2Proof.Machine.execVfms d a b y s
  | .vand d a b y => Sys2Proof.Machine.execVand d a b y s
  | .vor d a b y => Sys2Proof.Machine.execVor d a b y s
  | .vxor d a b y => Sys2Proof.Machine.execVxor d a b y s
  | .vshl d a b y => Sys2Proof.Machine.execVshl d a b y s
  | .vshr d a b y => Sys2Proof.Machine.execVshr d a b y s
  | .vsar d a b y => Sys2Proof.Machine.execVsar d a b y s
  | .vcmpEq g a b y => Sys2Proof.Machine.execVcmpEq g a b y s
  | .vcmpLt g a b y => Sys2Proof.Machine.execVcmpLt g a b y s
  | .vcmpLe g a b y => Sys2Proof.Machine.execVcmpLe g a b y s
  | .vsel d a b y m => Sys2Proof.Machine.execVsel d a b y m s
  | .vredSum g a y => Sys2Proof.Machine.execVredSum g a y s
  | .vredMax g a y => Sys2Proof.Machine.execVredMax g a y s
  | .vredMin g a y => Sys2Proof.Machine.execVredMin g a y s
  | .vexp2 d a y => Sys2Proof.Machine.execVexp2 d a y s
  | .vlog2 d a y => Sys2Proof.Machine.execVlog2 d a y s
  | .vrcp d a y => Sys2Proof.Machine.execVrcp d a y s
  | .vrsq d a y => Sys2Proof.Machine.execVrsq d a y s
  | .vcvt d a p sg t e u q => Sys2Proof.Machine.execVcvt d a p sg t e u q s
  | .vquantMx d a b y sg q => Sys2Proof.Machine.execVquantMx d a b y sg q s
  | .vquantGq d a b y sg q => Sys2Proof.Machine.execVquantGq d a b y sg q s
  | .vperm d a b y => Sys2Proof.Machine.execVperm d a b y s
  | .vbcast d y sg => Sys2Proof.Machine.execVbcast d y sg s
  | .vins d n y m sg => Sys2Proof.Machine.execVins d n y m sg s
  | .vext g a y n => Sys2Proof.Machine.execVext g a y n s
  | .vdot g a b y => Sys2Proof.Machine.execVdot g a b y s
  | .vscale d a b y => Sys2Proof.Machine.execVscale d a b y s
  | .reset => Sys2Proof.Machine.execReset s
  | .firmwareImage => Sys2Proof.Machine.execFirmwareImage s
  | .spdmRequest => Sys2Proof.Machine.execSpdmRequest s
  | .functionReady => Sys2Proof.Machine.execFunctionReady s
  | .functionRetire => Sys2Proof.Machine.execFunctionRetire s
  | .hostAccess => Sys2Proof.Machine.execHostAccess s
  | .ctlMakeThread => Sys2Proof.Machine.execCtlMakeThread s
  | .ctlStart => Sys2Proof.Machine.execCtlStart s
  | .ctlStop => Sys2Proof.Machine.execCtlStop s
  | .ctlResume => Sys2Proof.Machine.execCtlResume s
  | .ctlMakeData => Sys2Proof.Machine.execCtlMakeData s
  | .ctlFieldWrite => Sys2Proof.Machine.execCtlFieldWrite s
  | .ctlRedirect => Sys2Proof.Machine.execCtlRedirect s
  | .controlRequest => Sys2Proof.Machine.execControlRequest s
  | .outsideAccess => Sys2Proof.Machine.execOutsideAccess s
  | .rowOpen => Sys2Proof.Machine.execRowOpen s
  | .openComplete => Sys2Proof.Machine.execOpenComplete s
  | .closeWriteback => Sys2Proof.Machine.execCloseWriteback s
  | .turnEnd => Sys2Proof.Machine.execTurnEnd s
  | .priorityRise => Sys2Proof.Machine.execPriorityRise s
  | .openlimClose => Sys2Proof.Machine.execOpenlimClose s
  | .openlimWrite => Sys2Proof.Machine.execOpenlimWrite s
  | .turnlenWrite => Sys2Proof.Machine.execTurnlenWrite s
  | .hpoolWrite => Sys2Proof.Machine.execHpoolWrite s
  | .chunkCommit => Sys2Proof.Machine.execChunkCommit s
  | .commitGrant => Sys2Proof.Machine.execCommitGrant s
  | .outboundDrain => Sys2Proof.Machine.execOutboundDrain s
  | .loadPerform => Sys2Proof.Machine.execLoadPerform s
  | .vectorBind => Sys2Proof.Machine.execVectorBind s
  | .vectorLand => Sys2Proof.Machine.execVectorLand s
  | .packetEntry => Sys2Proof.Machine.execPacketEntry s
  | .packetTimeout => Sys2Proof.Machine.execPacketTimeout s
  | .barrierWordWrite => Sys2Proof.Machine.execBarrierWordWrite s
  | .deadlineWake => Sys2Proof.Machine.execDeadlineWake s
  | .stalemateInterval => Sys2Proof.Machine.execStalemateInterval s
  | .fqtailAdvance => Sys2Proof.Machine.execFqtailAdvance s
  | .rowHold => Sys2Proof.Machine.execRowHold s
  | .eccScrub => Sys2Proof.Machine.execEccScrub s
  | .tlbWalk => Sys2Proof.Machine.execTlbWalk s
  | .faultIn => Sys2Proof.Machine.execFaultIn s
  | .cowService => Sys2Proof.Machine.execCowService s
  | .barReentry => Sys2Proof.Machine.execBarReentry s
  | .migrationStart => Sys2Proof.Machine.execMigrationStart s
  | .migrationLineCopy => Sys2Proof.Machine.execMigrationLineCopy s
  | .linePull => Sys2Proof.Machine.execLinePull s
  | .commandStart => Sys2Proof.Machine.execCommandStart s
  | .engineBeat => Sys2Proof.Machine.execEngineBeat s
  | .commandComplete => Sys2Proof.Machine.execCommandComplete s
  | .copy => Sys2Proof.Machine.execCopy s
  | .pageshare => Sys2Proof.Machine.execPageshare s
  | .pagedrop => Sys2Proof.Machine.execPagedrop s
  | .pagemove => Sys2Proof.Machine.execPagemove s
  | .xreduceSum => Sys2Proof.Machine.execXreduceSum s
  | .xreduceMax => Sys2Proof.Machine.execXreduceMax s
  | .xreduceMin => Sys2Proof.Machine.execXreduceMin s
  | .sksum => Sys2Proof.Machine.execSksum s
  | .streamRefill => Sys2Proof.Machine.execStreamRefill s
  | .mfmt => Sys2Proof.Machine.execMfmt s
  | .mzero => Sys2Proof.Machine.execMzero s
  | .mma => Sys2Proof.Machine.execMma s
  | .mmaKblock => Sys2Proof.Machine.execMmaKblock s
  | .mout => Sys2Proof.Machine.execMout s
  | .mbias => Sys2Proof.Machine.execMbias s
  | .msignal => Sys2Proof.Machine.execMsignal s
  | .sketchCounterOp => Sys2Proof.Machine.execSketchCounterOp s
  | .skqryResult => Sys2Proof.Machine.execSkqryResult s
  | .launchInstall => Sys2Proof.Machine.execLaunchInstall s
  | .signalDelivery => Sys2Proof.Machine.execSignalDelivery s
  | .nodeDispatch => Sys2Proof.Machine.execNodeDispatch s
  | .teamPlacement => Sys2Proof.Machine.execTeamPlacement s
  | .teamEnd => Sys2Proof.Machine.execTeamEnd s
  | .castling => Sys2Proof.Machine.execCastling s
  | .castleRestore => Sys2Proof.Machine.execCastleRestore s
  | .strideChoice => Sys2Proof.Machine.execStrideChoice s
  | .switchForced => Sys2Proof.Machine.execSwitchForced s
  | .switchExchange => Sys2Proof.Machine.execSwitchExchange s
  | .gangTick => Sys2Proof.Machine.execGangTick s
  | .gangSpill => Sys2Proof.Machine.execGangSpill s
  | .gangDieLoad => Sys2Proof.Machine.execGangDieLoad s
  | .gangLate => Sys2Proof.Machine.execGangLate s
  | .gangForcedStop => Sys2Proof.Machine.execGangForcedStop s
  | .gangmaskWrite => Sys2Proof.Machine.execGangmaskWrite s
  | .ticketsWrite => Sys2Proof.Machine.execTicketsWrite s
  | .leafEnd => Sys2Proof.Machine.execLeafEnd s
  | .quadGated => Sys2Proof.Machine.execQuadGated s
  | .quadWakeDone => Sys2Proof.Machine.execQuadWakeDone s
  | .powerCompare => Sys2Proof.Machine.execPowerCompare s
  | .pwrcapWrite => Sys2Proof.Machine.execPwrcapWrite s
  | .elevatorRetire => Sys2Proof.Machine.execElevatorRetire s
  | .packetRetry => Sys2Proof.Machine.execPacketRetry s
  | .wavelengthDrop => Sys2Proof.Machine.execWavelengthDrop s
  | .flitRetry => Sys2Proof.Machine.execFlitRetry s
  | .routeWrite => Sys2Proof.Machine.execRouteWrite s
  | .hfrRecord => Sys2Proof.Machine.execHfrRecord s
  | .hfrrespServiced => Sys2Proof.Machine.execHfrrespServiced s
  | .hfrrespFailed => Sys2Proof.Machine.execHfrrespFailed s
  | .octownReassign => Sys2Proof.Machine.execOctownReassign s
  | .scrubDone => Sys2Proof.Machine.execScrubDone s
  | .tenminWrite => Sys2Proof.Machine.execTenminWrite s
  | .fnmodeWrite => Sys2Proof.Machine.execFnmodeWrite s
  | .tlbcmdPage => Sys2Proof.Machine.execTlbcmdPage s
  | .tlbcmdTenant => Sys2Proof.Machine.execTlbcmdTenant s
  | .tlbcmdIpa => Sys2Proof.Machine.execTlbcmdIpa s
  | .tlbcmdAll => Sys2Proof.Machine.execTlbcmdAll s
  | .tlbcmdDone => Sys2Proof.Machine.execTlbcmdDone s
  | .nbmac => Sys2Proof.Machine.execNbmac s
  | .nbred => Sys2Proof.Machine.execNbred s
  | .nbfill => Sys2Proof.Machine.execNbfill s
  | .nbcopy => Sys2Proof.Machine.execNbcopy s
  | .nhHandlerStart => Sys2Proof.Machine.execNhHandlerStart s
  | .registerWrite => Sys2Proof.Machine.execRegisterWrite s
  | .undecodableWord => Sys2Proof.Machine.execUndecodableWord s
  | .fetchFault => Sys2Proof.Machine.execFetchFault s
  | .fabricRequest => Sys2Proof.Machine.execFabricRequest s

end Sys2Proof.Machine
end

