-- ==== Sys2Proof/Machine/Policy.lean ====
section
/-! DEFINITION. One action of the machine, and what it does next when its schedule is empty (entries 3 and 4). -/

namespace Sys2Proof.Machine

/-! ### One action -/

/-- An attempt at an issue step of a row (06_rows_at_work.md R121): one word of a SERIAL bundle, or both words of a PAIR. A word 0 that waits, but for
`SLEEPUNTIL`, blocks the row before word 1 is tried: the manual orders the traps of the two words, not a wait of one and a trap of the other (DESIGN
CHOICE; entry 114). -/
def State.attempt (s : State) (rid : Nat) : Out :=
  match s.prep rid with
  | .idle t => .next t
  | .one i t =>
    match exec i t with
    | .next u => .next (u.finishOne t.hadPacket)
    | o => o
  | .two i j t =>
    match exec i t with
    | .next u =>
      match u.cur.ended with
      | .completed | .sleeps _ _ =>
        match exec j u.second with
        | .next v => .next (t.finishTwo v t.hadPacket u.cur.sleeping)
        | o => o
      | _ => .next u
    | o => o

/-- Whether a row can issue now: an attempt completes a step (R40). An attempt that does only what comes before the word, at the same boundary and in
the same cycle, is followed by the next: a control request or a store that is applied, a chunk that commits, each changes the row or its cluster's slots. -/
def State.canIssueNow (s : State) (rid : Nat) : Nat → Bool
  | 0 => false
  | f + 1 =>
    match ({ s with cur := {} } : State).attempt rid with
    | .next t =>
      let k := clusterOfRid rid
      t.cur.ended == .completed
        || ((t.thrOf rid != s.thrOf rid || t.ctlOf rid != s.ctlOf rid || (t.cluOf k).nextSlot != (s.cluOf k).nextSlot) && t.canIssueNow rid f)
    | _ => false
def State.wouldIssue (s : State) (rid : Nat) : Bool := s.canIssueNow rid 4
/-- The rows of a core's ports in the order of the scan: from the port after the one that issued most recently (R121). -/
def State.scanRows (s : State) (core : Nat) : List Nat :=
  ((List.range 16).map fun i => ((s.coreOf core).lastPort + 1 + i) % 16).filterMap fun p =>
    (tget none (s.coreOf core).ports p : Option Port).map fun x => ridOf core x.row
/-- Whether a row that can issue stands before this one in the scan of its core's ports (R121). -/
def State.overtaken (s : State) (rid : Nat) : Bool :=
  !isBase rid && ((s.scanRows (coreOfRid rid)).takeWhile fun r => r != rid).any s.wouldIssue
/-- An issue step of a row (R40, R121). The executor takes the first row of the scan that can issue: no other issues before it. -/
def State.issueStep (s : State) (rid : Nat) : Out := if s.overtaken rid then .next s else s.attempt rid

/-- Bytes that change from outside: host memory and memory of other packages (entry 17). -/
def State.outside (s : State) (pa : Nat) (bs : List Byte) : State :=
  match regionOf pa, regionOf (pa + bs.length - 1) with
  | .host, .host => s.poke pa bs
  | .remote _ _, .remote _ _ => s.poke pa bs
  | _, _ => s
/-- An uncorrectable error that arises in the 8-byte word of HBM, row store, control entries or host memory that holds an address (15_traps.md R271). -/
def State.upsetWord (s : State) (pa : Nat) : State :=
  match regionOf pa with
  | .hbm | .bankLinear | .rowStore _ _ | .control _ _ _ | .host => let u := cellOf (pa / 8 * 8); { s with uncorr := if s.uncorr.contains u then s.uncorr else s.uncorr ++ [u] }
  | _ => s

/-- Whether a constructor of `Instr` names a device step. -/
def isEvent (i : Instr) : Bool := (encode i).isNone

/-- One action performed. -/
def State.perform (s : State) (a : Action) : Out :=
  match a with
  | .issue core row => s.issueStep (ridOf core row)
  | .event i sel => if isEvent i then exec i { s with sel := sel } else .next s
  | .pass n => .next { s with cycle := s.cycle + n }
  | .outside pa bs => .next (s.outside pa bs)
  | .upset pa => .next (s.upsetWord pa)
  | .cxlFrame ten f => .next (s.modTen ten fun t => { t with cxlFrames := f % 2 ^ 36 :: t.cxlFrames })

/-! ### The default policy (entry 4) -/

/-- A device step with its coordinates. -/
def ev (i : Instr) (unit : Nat := 0) (sub : Nat := 0) (idx : Nat := 0) : Action := .event i { unit := unit, sub := sub, idx := idx }
/-- Steps of rows that have a record: boundaries, holds, deadlines, commits, loads, leaves and priorities. -/
def State.rowActions (s : State) : List Action :=
  s.thr.flatMap fun e =>
    let c := coreOfRid e.1
    let r := rowOfRid e.1
    [ev .deadlineWake c r, ev .chunkCommit c r, ev .controlRequest c r, ev .outsideAccess c r, ev .rowHold c r, ev .packetTimeout c r,
     ev .gangForcedStop c r, ev .leafEnd c r, ev .priorityRise c r] ++ (List.range e.2.loads.length).map fun i => ev .loadPerform c r i
/-- Steps of cores: ports, vector operations, matrix commands, queries, streams and switches. -/
def State.coreActions (s : State) : List Action :=
  s.core.flatMap fun e =>
    let c := e.1
    (e.2.ports.flatMap fun p => [ev .closeWriteback c p.1, ev .openComplete c p.1, ev .turnEnd c p.1])
      ++ [ev .vectorLand c, ev .mfmt c, ev .mzero c, ev .mma c, ev .mmaKblock c, ev .mout c, ev .mbias c, ev .msignal c, ev .openlimClose c]
      ++ ((List.range e.2.qbufs.length).map fun i => ev .skqryResult c i)
      ++ (e.2.streams.map fun x => ev .streamRefill c (rowOfRid x.rid) x.reg)
/-- Steps of quads, octets and clusters. -/
def State.unitActions (s : State) : List Action :=
  ((s.core.map fun e => quadOfCore e.1).eraseDups.map fun q => ev .vectorBind q)
    ++ (s.quad.flatMap fun e => [ev .quadGated e.1, ev .quadWakeDone e.1])
    ++ (s.oct.flatMap fun e =>
      [ev .commandStart e.1, ev .engineBeat e.1, ev .scrubDone e.1] ++ ((List.range e.2.active.length).map fun i => ev .commandComplete e.1 i)
        ++ e.2.hub.map fun b => ev .packetEntry e.1 b.1)
    ++ s.clu.flatMap fun e =>
      ((List.range e.2.outq.length).map fun i => ev .outboundDrain e.1 i)
        ++ [ev .commitGrant e.1, ev .stalemateInterval e.1, ev .switchForced e.1]
        ++ (e.2.nests.flatMap fun x => match x.2 with
          | some n => n.gnodes.filterMap fun g =>
            if g.hnd.isSome then some (ev .leafEnd (coreOfRid g.hrow) (rowOfRid g.hrow))
            else if n.aborting.isSome && decide (g.kind ≤ 2) then some (ev .leafEnd (coreOfRid g.rid) (rowOfRid g.rid)) else none
          | none => [])
        ++ match e.2.switch with
          | some _ => (List.range 192).flatMap fun i => [ev .switchExchange (e.1 * 192 + i), ev .gangSpill (e.1 * 192 + i)]
          | none => []
/-- Steps of tenants, the scheduler, memory, the base die and the package. -/
def State.platformActions (s : State) : List Action :=
  (s.ten.flatMap fun e =>
      [ev .fqtailAdvance e.1, ev .launchInstall e.1, ev .nodeDispatch e.1]
        ++ (List.range e.2.bar.length).flatMap fun i => [ev .faultIn e.1 i, ev .cowService e.1 i, ev .barReentry e.1 i])
    ++ (s.nodes.map fun e => ev .teamPlacement e.1)
    ++ ((List.range s.teams.length).flatMap fun i => [ev .teamEnd i, ev .castling i, ev .castleRestore i])
    ++ ((List.range s.pip.length).map fun i => ev .sketchCounterOp i)
    ++ ((List.range s.pkg.migs.length).map fun i => ev .migrationLineCopy i)
    ++ (s.banks.flatMap fun e => [ev .nbmac e.1, ev .nbred e.1, ev .nbfill e.1, ev .nbcopy e.1])
    ++ (s.bdc.map fun e => ev .nhHandlerStart e.1)
    ++ ((List.range s.unacked.length).map fun i => ev .packetRetry i)
    ++ ((List.range 16).map fun d => ev .gangDieLoad d)
    ++ [ev .signalDelivery, ev .hfrRecord, ev .tlbcmdDone, ev .gangLate, ev .gangTick, ev .powerCompare]
    ++ (List.range 32).map fun k => ev .strideChoice k
/-- Opens of the cores that have a READY row, and issue steps: on each core the port after the last that issued comes first (02_rows.md R40). -/
def State.issueActions (s : State) : List Action :=
  ((s.rowsWhere fun r c => c.state == .ready && !isBase r).map coreOfRid).eraseDups.map (fun c => ev .rowOpen c)
    ++ (s.core.flatMap fun e =>
      ((List.range 16).map fun i => (e.2.lastPort + 1 + i) % 16).filterMap fun p => match (tget none e.2.ports p : Option Port) with
        | some x => some (.issue e.1 x.row)
        | none => none)
    ++ (s.rowsWhere fun r c => isBase r && c.state == .opened).map fun r => .issue (coreOfRid r) (rowOfRid r)
/-- Actions that the machine may take by itself, in the order in which it tries them: those of its units, then the issue steps. What comes
from outside, and errors that arise in hardware, are no part of it. -/
def State.candidates (s : State) : List Action := s.rowActions ++ s.coreActions ++ s.unitActions ++ s.platformActions ++ s.issueActions

/-- The first candidate that changes more than the scratch fields of a step; with none, one cycle passes. -/
def State.tryActions (s : State) : List Action → Out
  | [] => .next { s with cycle := s.cycle + 1 }
  | a :: rest =>
    match s.perform a with
    | .next t => if { t with cur := s.cur, sel := s.sel } = s then s.tryActions rest else .next t
    | o => o

/-- A step: the head of the schedule, else the default policy. -/
def State.advance (s : State) : Out :=
  match s.schedule with
  | a :: rest => State.perform { s with schedule := rest } a
  | [] => s.tryActions s.candidates

/-! ### An instruction placed where the first step runs it (entry 3) -/

/-- A bundle that runs a word: with bit 31 set, word 0 of a SERIAL bundle whose word 1 is `NOP`; with bit 31 clear, word 1 of a SERIAL bundle
whose word 0 is `NOP`. -/
def placedBundle (w : Nat) : List Byte := if w / 2 ^ 31 % 2 = 1 then bytesOf 8 (w % 2 ^ 32) else bytesOf 8 (2 ^ 31 + w % 2 ^ 31 * 2 ^ 32)
/-- The row store row that holds the placed bundle, and the code address that maps to it. -/
def placedRow : Nat := 32
def placedVa : Nat := 0x10000
/-- A state in which row 1 of core 0 is OPEN and its next issue step runs the word: a page of tenant 0 maps the code, units of the
first cluster and stack are ready, and the schedule names that row. -/
def State.placeWord (s : State) (nbits w : Nat) : State :=
  let w := w % 2 ^ nbits
  let pa := rowStoreBase
  let e : TlbEntry := { tag := 0, va := placedVa, size := 0x10000, pa := pa, tt := 2, r := true, w := false, x := true, pin := true, cow := false,
                        mig := false, ccap := false, leaf := 0, ipa := pa, isize := 0x10000 }
  let s := s.poke (rowAddr placedRow) (placedBundle w)
  let s := s.modPkg fun p => { p with ready0 := p.ready0 ||| 1, ready1 := p.ready1 ||| 1 }
  let s := s.modCore 0 fun c => { c with itlb := [e], ports := [(0, some { row := 1, phase := .running, busy := s.cycle })], lastIssue := none }
  let s := s.setCtl 1 { state := .opened, pc := BitVec.ofNat 57 (placedVa + 1024 * placedRow + (if w / 2 ^ 31 % 2 = 1 then 0 else 4)) }
  let s := s.setThr 1 {}
  { s with schedule := .issue 0 1 :: s.schedule }

end Sys2Proof.Machine
end

