-- ==== Sys2Proof/Machine/Step.lean ====
section
/-! DEFINITION. The step of the machine. -/

namespace Sys2Proof.Machine

/-- One step: the next action of the schedule, or what the machine does by itself (entries 3 and 4). -/
def step (s : State) : Host.Outcome State Fault Refusal := s.advance

/-- A state whose next step runs the word `w` of `nbits` bits (entry 3). -/
def State.withFetchWord (s : State) (nbits w : Nat) : State := s.placeWord nbits w

end Sys2Proof.Machine
end

