-- ==== Sys2Proof/Laws/PerInstr.lean ====
section
/-! SUPPORT. Statements made per instruction: RoundTrip, that the decoder reads an instruction back from its own word. -/

set_option linter.unusedSimpArgs false

namespace Sys2Proof.Laws.RoundTrip

/-- A well-formed instruction that has a word is what its word decodes to. -/
def Statement (i : Instr) : Prop := WellFormed i = true → ∀ w, encode i = some w → decodeChecked w = .ok i

theorem fld_eq {n : Nat} (b : BitVec n) (x : Nat) (h : x % 2 ^ n = b.toNat) : fld n x = b := by
  apply BitVec.eq_of_toNat_eq; simpa [fld] using h
/-- The limits are those of well-formedness, so only the encoding is left to read. -/
theorem of_word {i : Instr} {v : Nat} (h : encode i = some v) (hd : ∀ w, w = v → decodeWord w = .ok i) : Statement i := by
  intro hw w he
  obtain rfl : v = w := by rw [h] at he; injection he
  unfold decodeChecked; rw [hd v rfl]; dsimp only
  unfold WellFormed at hw
  cases hi : illFormed i with
  | none => rfl
  | some r => rw [hi] at hw; cases hw
theorem of_event {i : Instr} (h : encode i = none) : Statement i := by
  intro _ w he; rw [h] at he; cases he

theorem major0 (w : Nat) (h : w / 16777216 % 128 = 0) : decodeWord w = decodeMajor0 w := by
  unfold decodeWord; rw [h]; rfl
theorem major9 (w : Nat) (h : w / 16777216 % 128 = 9) : decodeWord w = decodeMajor9 w := by
  unfold decodeWord; rw [h]; rfl
theorem major10 (w : Nat) (h : w / 16777216 % 128 = 10) : decodeWord w = decodeMajor10 w := by
  unfold decodeWord; rw [h]; rfl
theorem major11 (w : Nat) (h : w / 16777216 % 128 = 11) : decodeWord w = decodeMajor11 w := by
  unfold decodeWord; rw [h]; rfl
theorem major12 (w : Nat) (h : w / 16777216 % 128 = 12) : decodeWord w = decodeMajor12 w := by
  unfold decodeWord; rw [h]; rfl
theorem major29 (w : Nat) (h : w / 16777216 % 128 = 29) : decodeWord w = decodeMajor29 w := by
  unfold decodeWord; rw [h]; rfl
theorem major30 (w : Nat) (h : w / 16777216 % 128 = 30) : decodeWord w = decodeMajor30 w := by
  unfold decodeWord; rw [h]; rfl
theorem major31 (w : Nat) (h : w / 16777216 % 128 = 31) : decodeWord w = decodeMajor31 w := by
  unfold decodeWord; rw [h]; rfl
theorem major32 (w : Nat) (h : w / 16777216 % 128 = 32) : decodeWord w = decodeMajor32 w := by
  unfold decodeWord; rw [h]; rfl
theorem major33 (w : Nat) (h : w / 16777216 % 128 = 33) : decodeWord w = decodeMajor33 w := by
  unfold decodeWord; rw [h]; rfl
theorem major34 (w : Nat) (h : w / 16777216 % 128 = 34) : decodeWord w = decodeMajor34 w := by
  unfold decodeWord; rw [h]; rfl
theorem major35 (w : Nat) (h : w / 16777216 % 128 = 35) : decodeWord w = decodeMajor35 w := by
  unfold decodeWord; rw [h]; rfl
theorem major36 (w : Nat) (h : w / 16777216 % 128 = 36) : decodeWord w = decodeMajor36 w := by
  unfold decodeWord; rw [h]; rfl
theorem major37 (w : Nat) (h : w / 16777216 % 128 = 37) : decodeWord w = decodeMajor37 w := by
  unfold decodeWord; rw [h]; rfl
theorem major40 (w : Nat) (h : w / 16777216 % 128 = 40) : decodeWord w = decodeMajor40 w := by
  unfold decodeWord; rw [h]; rfl
theorem major41 (w : Nat) (h : w / 16777216 % 128 = 41) : decodeWord w = decodeMajor41 w := by
  unfold decodeWord; rw [h]; rfl
theorem major42 (w : Nat) (h : w / 16777216 % 128 = 42) : decodeWord w = decodeMajor42 w := by
  unfold decodeWord; rw [h]; rfl
theorem major43 (w : Nat) (h : w / 16777216 % 128 = 43) : decodeWord w = decodeMajor43 w := by
  unfold decodeWord; rw [h]; rfl
theorem major44 (w : Nat) (h : w / 16777216 % 128 = 44) : decodeWord w = decodeMajor44 w := by
  unfold decodeWord; rw [h]; rfl
theorem major45 (w : Nat) (h : w / 16777216 % 128 = 45) : decodeWord w = decodeMajor45 w := by
  unfold decodeWord; rw [h]; rfl
theorem major46 (w : Nat) (h : w / 16777216 % 128 = 46) : decodeWord w = decodeMajor46 w := by
  unfold decodeWord; rw [h]; rfl
theorem major47 (w : Nat) (h : w / 16777216 % 128 = 47) : decodeWord w = decodeMajor47 w := by
  unfold decodeWord; rw [h]; rfl
theorem major48 (w : Nat) (h : w / 16777216 % 128 = 48) : decodeWord w = decodeMajor48 w := by
  unfold decodeWord; rw [h]; rfl
theorem major49 (w : Nat) (h : w / 16777216 % 128 = 49) : decodeWord w = decodeMajor49 w := by
  unfold decodeWord; rw [h]; rfl
theorem major50 (w : Nat) (h : w / 16777216 % 128 = 50) : decodeWord w = decodeMajor50 w := by
  unfold decodeWord; rw [h]; rfl
theorem major51 (w : Nat) (h : w / 16777216 % 128 = 51) : decodeWord w = decodeMajor51 w := by
  unfold decodeWord; rw [h]; rfl
theorem major52 (w : Nat) (h : w / 16777216 % 128 = 52) : decodeWord w = decodeMajor52 w := by
  unfold decodeWord; rw [h]; rfl
theorem major53 (w : Nat) (h : w / 16777216 % 128 = 53) : decodeWord w = decodeMajor53 w := by
  unfold decodeWord; rw [h]; rfl
theorem major54 (w : Nat) (h : w / 16777216 % 128 = 54) : decodeWord w = decodeMajor54 w := by
  unfold decodeWord; rw [h]; rfl
theorem major55 (w : Nat) (h : w / 16777216 % 128 = 55) : decodeWord w = decodeMajor55 w := by
  unfold decodeWord; rw [h]; rfl
theorem major56 (w : Nat) (h : w / 16777216 % 128 = 56) : decodeWord w = decodeMajor56 w := by
  unfold decodeWord; rw [h]; rfl
theorem major57 (w : Nat) (h : w / 16777216 % 128 = 57) : decodeWord w = decodeMajor57 w := by
  unfold decodeWord; rw [h]; rfl
theorem major58 (w : Nat) (h : w / 16777216 % 128 = 58) : decodeWord w = decodeMajor58 w := by
  unfold decodeWord; rw [h]; rfl
theorem major59 (w : Nat) (h : w / 16777216 % 128 = 59) : decodeWord w = decodeMajor59 w := by
  unfold decodeWord; rw [h]; rfl
theorem major60 (w : Nat) (h : w / 16777216 % 128 = 60) : decodeWord w = decodeMajor60 w := by
  unfold decodeWord; rw [h]; rfl
theorem major61 (w : Nat) (h : w / 16777216 % 128 = 61) : decodeWord w = decodeMajor61 w := by
  unfold decodeWord; rw [h]; rfl
theorem major62 (w : Nat) (h : w / 16777216 % 128 = 62) : decodeWord w = decodeMajor62 w := by
  unfold decodeWord; rw [h]; rfl
theorem major63 (w : Nat) (h : w / 16777216 % 128 = 63) : decodeWord w = decodeMajor63 w := by
  unfold decodeWord; rw [h]; rfl
theorem major64 (w : Nat) (h : w / 16777216 % 128 = 64) : decodeWord w = decodeMajor64 w := by
  unfold decodeWord; rw [h]; rfl
theorem major65 (w : Nat) (h : w / 16777216 % 128 = 65) : decodeWord w = decodeMajor65 w := by
  unfold decodeWord; rw [h]; rfl
theorem major66 (w : Nat) (h : w / 16777216 % 128 = 66) : decodeWord w = decodeMajor66 w := by
  unfold decodeWord; rw [h]; rfl
theorem major67 (w : Nat) (h : w / 16777216 % 128 = 67) : decodeWord w = decodeMajor67 w := by
  unfold decodeWord; rw [h]; rfl
theorem major68 (w : Nat) (h : w / 16777216 % 128 = 68) : decodeWord w = decodeMajor68 w := by
  unfold decodeWord; rw [h]; rfl
theorem major69 (w : Nat) (h : w / 16777216 % 128 = 69) : decodeWord w = decodeMajor69 w := by
  unfold decodeWord; rw [h]; rfl
theorem major76 (w : Nat) (h : w / 16777216 % 128 = 76) : decodeWord w = decodeMajor76 w := by
  unfold decodeWord; rw [h]; rfl
theorem major80 (w : Nat) (h : w / 16777216 % 128 = 80) : decodeWord w = decodeMajor80 w := by
  unfold decodeWord; rw [h]; rfl
theorem major81 (w : Nat) (h : w / 16777216 % 128 = 81) : decodeWord w = decodeMajor81 w := by
  unfold decodeWord; rw [h]; rfl
theorem major82 (w : Nat) (h : w / 16777216 % 128 = 82) : decodeWord w = decodeMajor82 w := by
  unfold decodeWord; rw [h]; rfl
theorem major83 (w : Nat) (h : w / 16777216 % 128 = 83) : decodeWord w = decodeMajor83 w := by
  unfold decodeWord; rw [h]; rfl
theorem major96 (w : Nat) (h : w / 16777216 % 128 = 96) : decodeWord w = decodeMajor96 w := by
  unfold decodeWord; rw [h]; rfl
theorem major97 (w : Nat) (h : w / 16777216 % 128 = 97) : decodeWord w = decodeMajor97 w := by
  unfold decodeWord; rw [h]; rfl
theorem major98 (w : Nat) (h : w / 16777216 % 128 = 98) : decodeWord w = decodeMajor98 w := by
  unfold decodeWord; rw [h]; rfl
theorem major99 (w : Nat) (h : w / 16777216 % 128 = 99) : decodeWord w = decodeMajor99 w := by
  unfold decodeWord; rw [h]; rfl
theorem major100 (w : Nat) (h : w / 16777216 % 128 = 100) : decodeWord w = decodeMajor100 w := by
  unfold decodeWord; rw [h]; rfl
theorem major101 (w : Nat) (h : w / 16777216 % 128 = 101) : decodeWord w = decodeMajor101 w := by
  unfold decodeWord; rw [h]; rfl
theorem major102 (w : Nat) (h : w / 16777216 % 128 = 102) : decodeWord w = decodeMajor102 w := by
  unfold decodeWord; rw [h]; rfl
theorem major103 (w : Nat) (h : w / 16777216 % 128 = 103) : decodeWord w = decodeMajor103 w := by
  unfold decodeWord; rw [h]; rfl
theorem major104 (w : Nat) (h : w / 16777216 % 128 = 104) : decodeWord w = decodeMajor104 w := by
  unfold decodeWord; rw [h]; rfl
theorem major105 (w : Nat) (h : w / 16777216 % 128 = 105) : decodeWord w = decodeMajor105 w := by
  unfold decodeWord; rw [h]; rfl
theorem major106 (w : Nat) (h : w / 16777216 % 128 = 106) : decodeWord w = decodeMajor106 w := by
  unfold decodeWord; rw [h]; rfl
theorem major107 (w : Nat) (h : w / 16777216 % 128 = 107) : decodeWord w = decodeMajor107 w := by
  unfold decodeWord; rw [h]; rfl
theorem major108 (w : Nat) (h : w / 16777216 % 128 = 108) : decodeWord w = decodeMajor108 w := by
  unfold decodeWord; rw [h]; rfl
theorem major109 (w : Nat) (h : w / 16777216 % 128 = 109) : decodeWord w = decodeMajor109 w := by
  unfold decodeWord; rw [h]; rfl
theorem major110 (w : Nat) (h : w / 16777216 % 128 = 110) : decodeWord w = decodeMajor110 w := by
  unfold decodeWord; rw [h]; rfl
theorem major111 (w : Nat) (h : w / 16777216 % 128 = 111) : decodeWord w = decodeMajor111 w := by
  unfold decodeWord; rw [h]; rfl
theorem major1 (w : Nat) (h : w / 16777216 % 128 = 1) : decodeWord w = .ok (.beq (fld 5 (w / 524288)) (fld 5 (w / 16384)) (fld 14 (w / 1))) := by
  unfold decodeWord; rw [h]; rfl
theorem major2 (w : Nat) (h : w / 16777216 % 128 = 2) : decodeWord w = .ok (.bne (fld 5 (w / 524288)) (fld 5 (w / 16384)) (fld 14 (w / 1))) := by
  unfold decodeWord; rw [h]; rfl
theorem major3 (w : Nat) (h : w / 16777216 % 128 = 3) : decodeWord w = .ok (.blt (fld 5 (w / 524288)) (fld 5 (w / 16384)) (fld 14 (w / 1))) := by
  unfold decodeWord; rw [h]; rfl
theorem major4 (w : Nat) (h : w / 16777216 % 128 = 4) : decodeWord w = .ok (.bge (fld 5 (w / 524288)) (fld 5 (w / 16384)) (fld 14 (w / 1))) := by
  unfold decodeWord; rw [h]; rfl
theorem major5 (w : Nat) (h : w / 16777216 % 128 = 5) : decodeWord w = .ok (.bltu (fld 5 (w / 524288)) (fld 5 (w / 16384)) (fld 14 (w / 1))) := by
  unfold decodeWord; rw [h]; rfl
theorem major6 (w : Nat) (h : w / 16777216 % 128 = 6) : decodeWord w = .ok (.bgeu (fld 5 (w / 524288)) (fld 5 (w / 16384)) (fld 14 (w / 1))) := by
  unfold decodeWord; rw [h]; rfl
theorem major7 (w : Nat) (h : w / 16777216 % 128 = 7) : decodeWord w = .ok (.jal (fld 5 (w / 524288)) (fld 19 (w / 1))) := by
  unfold decodeWord; rw [h]; rfl
theorem major8 (w : Nat) (h : w / 16777216 % 128 = 8) : decodeWord w = .ok (.jalr (fld 5 (w / 524288)) (fld 5 (w / 16384)) (fld 14 (w / 1))) := by
  unfold decodeWord; rw [h]; rfl
theorem major16 (w : Nat) (h : w / 16777216 % 128 = 16) : decodeWord w = .ok (.ldb (fld 5 (w / 524288)) (fld 5 (w / 16384)) (fld 14 (w / 1))) := by
  unfold decodeWord; rw [h]; rfl
theorem major17 (w : Nat) (h : w / 16777216 % 128 = 17) : decodeWord w = .ok (.ldh (fld 5 (w / 524288)) (fld 5 (w / 16384)) (fld 14 (w / 1))) := by
  unfold decodeWord; rw [h]; rfl
theorem major18 (w : Nat) (h : w / 16777216 % 128 = 18) : decodeWord w = .ok (.ldw (fld 5 (w / 524288)) (fld 5 (w / 16384)) (fld 14 (w / 1))) := by
  unfold decodeWord; rw [h]; rfl
theorem major19 (w : Nat) (h : w / 16777216 % 128 = 19) : decodeWord w = .ok (.ldd (fld 5 (w / 524288)) (fld 5 (w / 16384)) (fld 14 (w / 1))) := by
  unfold decodeWord; rw [h]; rfl
theorem major20 (w : Nat) (h : w / 16777216 % 128 = 20) : decodeWord w = .ok (.ldbu (fld 5 (w / 524288)) (fld 5 (w / 16384)) (fld 14 (w / 1))) := by
  unfold decodeWord; rw [h]; rfl
theorem major21 (w : Nat) (h : w / 16777216 % 128 = 21) : decodeWord w = .ok (.ldhu (fld 5 (w / 524288)) (fld 5 (w / 16384)) (fld 14 (w / 1))) := by
  unfold decodeWord; rw [h]; rfl
theorem major22 (w : Nat) (h : w / 16777216 % 128 = 22) : decodeWord w = .ok (.ldwu (fld 5 (w / 524288)) (fld 5 (w / 16384)) (fld 14 (w / 1))) := by
  unfold decodeWord; rw [h]; rfl
theorem major23 (w : Nat) (h : w / 16777216 % 128 = 23) : decodeWord w = .ok (.vld (fld 5 (w / 524288)) (fld 5 (w / 16384)) (fld 14 (w / 1))) := by
  unfold decodeWord; rw [h]; rfl
theorem major24 (w : Nat) (h : w / 16777216 % 128 = 24) : decodeWord w = .ok (.stb (fld 5 (w / 524288)) (fld 5 (w / 16384)) (fld 14 (w / 1))) := by
  unfold decodeWord; rw [h]; rfl
theorem major25 (w : Nat) (h : w / 16777216 % 128 = 25) : decodeWord w = .ok (.sth (fld 5 (w / 524288)) (fld 5 (w / 16384)) (fld 14 (w / 1))) := by
  unfold decodeWord; rw [h]; rfl
theorem major26 (w : Nat) (h : w / 16777216 % 128 = 26) : decodeWord w = .ok (.stw (fld 5 (w / 524288)) (fld 5 (w / 16384)) (fld 14 (w / 1))) := by
  unfold decodeWord; rw [h]; rfl
theorem major27 (w : Nat) (h : w / 16777216 % 128 = 27) : decodeWord w = .ok (.std (fld 5 (w / 524288)) (fld 5 (w / 16384)) (fld 14 (w / 1))) := by
  unfold decodeWord; rw [h]; rfl
theorem major28 (w : Nat) (h : w / 16777216 % 128 = 28) : decodeWord w = .ok (.vst (fld 5 (w / 524288)) (fld 5 (w / 16384)) (fld 14 (w / 1))) := by
  unfold decodeWord; rw [h]; rfl
theorem major70 (w : Nat) (h : w / 16777216 % 128 = 70) : decodeWord w = .ok (.addi (fld 5 (w / 524288)) (fld 5 (w / 16384)) (fld 14 (w / 1))) := by
  unfold decodeWord; rw [h]; rfl
theorem major71 (w : Nat) (h : w / 16777216 % 128 = 71) : decodeWord w = .ok (.andi (fld 5 (w / 524288)) (fld 5 (w / 16384)) (fld 14 (w / 1))) := by
  unfold decodeWord; rw [h]; rfl
theorem major72 (w : Nat) (h : w / 16777216 % 128 = 72) : decodeWord w = .ok (.ori (fld 5 (w / 524288)) (fld 5 (w / 16384)) (fld 14 (w / 1))) := by
  unfold decodeWord; rw [h]; rfl
theorem major73 (w : Nat) (h : w / 16777216 % 128 = 73) : decodeWord w = .ok (.xori (fld 5 (w / 524288)) (fld 5 (w / 16384)) (fld 14 (w / 1))) := by
  unfold decodeWord; rw [h]; rfl
theorem major74 (w : Nat) (h : w / 16777216 % 128 = 74) : decodeWord w = .ok (.slti (fld 5 (w / 524288)) (fld 5 (w / 16384)) (fld 14 (w / 1))) := by
  unfold decodeWord; rw [h]; rfl
theorem major75 (w : Nat) (h : w / 16777216 % 128 = 75) : decodeWord w = .ok (.sltiu (fld 5 (w / 524288)) (fld 5 (w / 16384)) (fld 14 (w / 1))) := by
  unfold decodeWord; rw [h]; rfl
theorem major77 (w : Nat) (h : w / 16777216 % 128 = 77) : decodeWord w = .ok (.lui (fld 5 (w / 524288)) (fld 19 (w / 1))) := by
  unfold decodeWord; rw [h]; rfl
theorem major78 (w : Nat) (h : w / 16777216 % 128 = 78) : decodeWord w = .ok (.auipc (fld 5 (w / 524288)) (fld 19 (w / 1))) := by
  unfold decodeWord; rw [h]; rfl

theorem nop : Statement (.nop) := by
  refine of_word rfl fun w hw => ?_
  rw [major0 w (by omega)]
  simp only [decodeMajor0, show w / 1 % 16777216 = 0 by omega, Nat.reduceEqDiff, OfNat.ofNat_ne_zero, and_self, and_true, true_and, false_and, and_false, reduceIte]
theorem texit : Statement (.texit) := by
  refine of_word rfl fun w hw => ?_
  rw [major0 w (by omega)]
  simp only [decodeMajor0, show w / 1 % 16777216 = 1 by omega, Nat.reduceEqDiff, OfNat.ofNat_ne_zero, and_self, and_true, true_and, false_and, and_false, reduceIte]
theorem yield : Statement (.yield) := by
  refine of_word rfl fun w hw => ?_
  rw [major0 w (by omega)]
  simp only [decodeMajor0, show w / 1 % 16777216 = 2 by omega, Nat.reduceEqDiff, OfNat.ofNat_ne_zero, and_self, and_true, true_and, false_and, and_false, reduceIte]
theorem trap (b : BitVec 5) : Statement (.trap b) := by
  refine of_word rfl fun w hw => ?_
  have := b.isLt
  rw [major0 w (by omega)]
  simp only [decodeMajor0, show ¬ w / 1 % 16777216 = 0 by omega, show ¬ w / 1 % 16777216 = 1 by omega, show ¬ w / 1 % 16777216 = 2 by omega, show w / 1 % 512 = 3 by omega, show w / 16384 % 1024 = 0 by omega, fld_eq b (w / 512) (by norm_num; omega), Nat.reduceEqDiff, OfNat.ofNat_ne_zero, and_self, and_true, true_and, false_and, and_false, reduceIte]
theorem tret (a : BitVec 5) : Statement (.tret a) := by
  refine of_word rfl fun w hw => ?_
  have := a.isLt
  rw [major0 w (by omega)]
  simp only [decodeMajor0, show ¬ w / 1 % 16777216 = 0 by omega, show ¬ w / 1 % 16777216 = 1 by omega, show ¬ w / 1 % 16777216 = 2 by omega, show w / 1 % 512 = 4 by omega, show w / 1 % 16384 = 4 by omega, show w / 524288 % 32 = 0 by omega, fld_eq a (w / 16384) (by norm_num; omega), Nat.reduceEqDiff, OfNat.ofNat_ne_zero, and_self, and_true, true_and, false_and, and_false, reduceIte]
theorem fenceI : Statement (.fenceI) := by
  refine of_word rfl fun w hw => ?_
  rw [major0 w (by omega)]
  simp only [decodeMajor0, show w / 1 % 16777216 = 5 by omega, show w / 1 % 512 = 5 by omega, show w / 16384 % 1024 = 0 by omega, show w / 1 % 16384 = 5 by omega, show w / 524288 % 32 = 0 by omega, Nat.reduceEqDiff, OfNat.ofNat_ne_zero, and_self, and_true, true_and, false_and, and_false, reduceIte]
theorem waitmsg : Statement (.waitmsg) := by
  refine of_word rfl fun w hw => ?_
  rw [major0 w (by omega)]
  simp only [decodeMajor0, show w / 1 % 16777216 = 6 by omega, show w / 1 % 512 = 6 by omega, show w / 16384 % 1024 = 0 by omega, show w / 1 % 16384 = 6 by omega, show w / 524288 % 32 = 0 by omega, Nat.reduceEqDiff, OfNat.ofNat_ne_zero, and_self, and_true, true_and, false_and, and_false, reduceIte]
theorem ssync (a : BitVec 5) : Statement (.ssync a) := by
  refine of_word rfl fun w hw => ?_
  have := a.isLt
  rw [major0 w (by omega)]
  simp only [decodeMajor0, show ¬ w / 1 % 16777216 = 0 by omega, show ¬ w / 1 % 16777216 = 1 by omega, show ¬ w / 1 % 16777216 = 2 by omega, show w / 1 % 512 = 7 by omega, show w / 1 % 16384 = 7 by omega, show w / 524288 % 32 = 0 by omega, show ¬ w / 1 % 16777216 = 5 by omega, show ¬ w / 1 % 16777216 = 6 by omega, fld_eq a (w / 16384) (by norm_num; omega), Nat.reduceEqDiff, OfNat.ofNat_ne_zero, and_self, and_true, true_and, false_and, and_false, reduceIte]
theorem setpri (a : BitVec 5) : Statement (.setpri a) := by
  refine of_word rfl fun w hw => ?_
  have := a.isLt
  rw [major0 w (by omega)]
  simp only [decodeMajor0, show ¬ w / 1 % 16777216 = 0 by omega, show ¬ w / 1 % 16777216 = 1 by omega, show ¬ w / 1 % 16777216 = 2 by omega, show w / 1 % 512 = 8 by omega, show w / 1 % 16384 = 8 by omega, show w / 524288 % 32 = 0 by omega, show ¬ w / 1 % 16777216 = 5 by omega, show ¬ w / 1 % 16777216 = 6 by omega, fld_eq a (w / 16384) (by norm_num; omega), Nat.reduceEqDiff, OfNat.ofNat_ne_zero, and_self, and_true, true_and, false_and, and_false, reduceIte]
theorem sleepuntil (a : BitVec 5) : Statement (.sleepuntil a) := by
  refine of_word rfl fun w hw => ?_
  have := a.isLt
  rw [major0 w (by omega)]
  simp only [decodeMajor0, show ¬ w / 1 % 16777216 = 0 by omega, show ¬ w / 1 % 16777216 = 1 by omega, show ¬ w / 1 % 16777216 = 2 by omega, show w / 1 % 512 = 9 by omega, show w / 1 % 16384 = 9 by omega, show w / 524288 % 32 = 0 by omega, show ¬ w / 1 % 16777216 = 5 by omega, show ¬ w / 1 % 16777216 = 6 by omega, fld_eq a (w / 16384) (by norm_num; omega), Nat.reduceEqDiff, OfNat.ofNat_ne_zero, and_self, and_true, true_and, false_and, and_false, reduceIte]
theorem hjoin (a : BitVec 5) : Statement (.hjoin a) := by
  refine of_word rfl fun w hw => ?_
  have := a.isLt
  rw [major0 w (by omega)]
  simp only [decodeMajor0, show ¬ w / 1 % 16777216 = 0 by omega, show ¬ w / 1 % 16777216 = 1 by omega, show ¬ w / 1 % 16777216 = 2 by omega, show w / 1 % 512 = 10 by omega, show w / 1 % 16384 = 10 by omega, show w / 524288 % 32 = 0 by omega, show ¬ w / 1 % 16777216 = 5 by omega, show ¬ w / 1 % 16777216 = 6 by omega, fld_eq a (w / 16384) (by norm_num; omega), Nat.reduceEqDiff, OfNat.ofNat_ne_zero, and_self, and_true, true_and, false_and, and_false, reduceIte]
theorem chunk : Statement (.chunk) := by
  refine of_word rfl fun w hw => ?_
  rw [major0 w (by omega)]
  simp only [decodeMajor0, show w / 1 % 16777216 = 11 by omega, show w / 1 % 512 = 11 by omega, show w / 16384 % 1024 = 0 by omega, show w / 1 % 16384 = 11 by omega, show w / 524288 % 32 = 0 by omega, Nat.reduceEqDiff, OfNat.ofNat_ne_zero, and_self, and_true, true_and, false_and, and_false, reduceIte]
theorem tlbinv (a : BitVec 5) (b : BitVec 5) : Statement (.tlbinv a b) := by
  refine of_word rfl fun w hw => ?_
  have := a.isLt; have := b.isLt
  rw [major0 w (by omega)]
  simp only [decodeMajor0, show ¬ w / 1 % 16777216 = 0 by omega, show ¬ w / 1 % 16777216 = 1 by omega, show ¬ w / 1 % 16777216 = 2 by omega, show w / 1 % 512 = 12 by omega, show ¬ w / 1 % 16384 = 4 by omega, show w / 524288 % 32 = 0 by omega, show ¬ w / 1 % 16777216 = 5 by omega, show ¬ w / 1 % 16777216 = 6 by omega, show ¬ w / 1 % 16384 = 7 by omega, show ¬ w / 1 % 16384 = 8 by omega, show ¬ w / 1 % 16384 = 9 by omega, show ¬ w / 1 % 16384 = 10 by omega, show ¬ w / 1 % 16777216 = 11 by omega, fld_eq a (w / 16384) (by norm_num; omega), fld_eq b (w / 512) (by norm_num; omega), Nat.reduceEqDiff, OfNat.ofNat_ne_zero, and_self, and_true, true_and, false_and, and_false, reduceIte]
theorem pgate (a : BitVec 5) : Statement (.pgate a) := by
  refine of_word rfl fun w hw => ?_
  have := a.isLt
  rw [major0 w (by omega)]
  simp only [decodeMajor0, show ¬ w / 1 % 16777216 = 0 by omega, show ¬ w / 1 % 16777216 = 1 by omega, show ¬ w / 1 % 16777216 = 2 by omega, show w / 1 % 512 = 13 by omega, show w / 1 % 16384 = 13 by omega, show w / 524288 % 32 = 0 by omega, show ¬ w / 1 % 16777216 = 5 by omega, show ¬ w / 1 % 16777216 = 6 by omega, show ¬ w / 1 % 16777216 = 11 by omega, fld_eq a (w / 16384) (by norm_num; omega), Nat.reduceEqDiff, OfNat.ofNat_ne_zero, and_self, and_true, true_and, false_and, and_false, reduceIte]
theorem cycle (d : BitVec 5) : Statement (.cycle d) := by
  refine of_word rfl fun w hw => ?_
  have := d.isLt
  rw [major0 w (by omega)]
  simp only [decodeMajor0, show ¬ w / 1 % 16777216 = 0 by omega, show ¬ w / 1 % 16777216 = 1 by omega, show ¬ w / 1 % 16777216 = 2 by omega, show w / 1 % 512 = 14 by omega, show w / 1 % 16384 = 14 by omega, show ¬ w / 1 % 16777216 = 5 by omega, show ¬ w / 1 % 16777216 = 6 by omega, show ¬ w / 1 % 16777216 = 11 by omega, show w / 1 % 524288 = 14 by omega, fld_eq d (w / 524288) (by norm_num; omega), Nat.reduceEqDiff, OfNat.ofNat_ne_zero, and_self, and_true, true_and, false_and, and_false, reduceIte]
theorem mbxpop (d : BitVec 5) : Statement (.mbxpop d) := by
  refine of_word rfl fun w hw => ?_
  have := d.isLt
  rw [major0 w (by omega)]
  simp only [decodeMajor0, show ¬ w / 1 % 16777216 = 0 by omega, show ¬ w / 1 % 16777216 = 1 by omega, show ¬ w / 1 % 16777216 = 2 by omega, show w / 1 % 512 = 15 by omega, show w / 1 % 16384 = 15 by omega, show ¬ w / 1 % 16777216 = 5 by omega, show ¬ w / 1 % 16777216 = 6 by omega, show ¬ w / 1 % 16777216 = 11 by omega, show w / 1 % 524288 = 15 by omega, fld_eq d (w / 524288) (by norm_num; omega), Nat.reduceEqDiff, OfNat.ofNat_ne_zero, and_self, and_true, true_and, false_and, and_false, reduceIte]
theorem beq (a : BitVec 5) (b : BitVec 5) (o : BitVec 14) : Statement (.beq a b o) := by
  refine of_word rfl fun w hw => ?_
  have := a.isLt; have := b.isLt; have := o.isLt
  rw [major1 w (by omega)]
  simp only [fld_eq a (w / 524288) (by norm_num; omega), fld_eq b (w / 16384) (by norm_num; omega), fld_eq o (w / 1) (by norm_num; omega)]
theorem bne (a : BitVec 5) (b : BitVec 5) (o : BitVec 14) : Statement (.bne a b o) := by
  refine of_word rfl fun w hw => ?_
  have := a.isLt; have := b.isLt; have := o.isLt
  rw [major2 w (by omega)]
  simp only [fld_eq a (w / 524288) (by norm_num; omega), fld_eq b (w / 16384) (by norm_num; omega), fld_eq o (w / 1) (by norm_num; omega)]
theorem blt (a : BitVec 5) (b : BitVec 5) (o : BitVec 14) : Statement (.blt a b o) := by
  refine of_word rfl fun w hw => ?_
  have := a.isLt; have := b.isLt; have := o.isLt
  rw [major3 w (by omega)]
  simp only [fld_eq a (w / 524288) (by norm_num; omega), fld_eq b (w / 16384) (by norm_num; omega), fld_eq o (w / 1) (by norm_num; omega)]
theorem bge (a : BitVec 5) (b : BitVec 5) (o : BitVec 14) : Statement (.bge a b o) := by
  refine of_word rfl fun w hw => ?_
  have := a.isLt; have := b.isLt; have := o.isLt
  rw [major4 w (by omega)]
  simp only [fld_eq a (w / 524288) (by norm_num; omega), fld_eq b (w / 16384) (by norm_num; omega), fld_eq o (w / 1) (by norm_num; omega)]
theorem bltu (a : BitVec 5) (b : BitVec 5) (o : BitVec 14) : Statement (.bltu a b o) := by
  refine of_word rfl fun w hw => ?_
  have := a.isLt; have := b.isLt; have := o.isLt
  rw [major5 w (by omega)]
  simp only [fld_eq a (w / 524288) (by norm_num; omega), fld_eq b (w / 16384) (by norm_num; omega), fld_eq o (w / 1) (by norm_num; omega)]
theorem bgeu (a : BitVec 5) (b : BitVec 5) (o : BitVec 14) : Statement (.bgeu a b o) := by
  refine of_word rfl fun w hw => ?_
  have := a.isLt; have := b.isLt; have := o.isLt
  rw [major6 w (by omega)]
  simp only [fld_eq a (w / 524288) (by norm_num; omega), fld_eq b (w / 16384) (by norm_num; omega), fld_eq o (w / 1) (by norm_num; omega)]
theorem jal (d : BitVec 5) (o : BitVec 19) : Statement (.jal d o) := by
  refine of_word rfl fun w hw => ?_
  have := d.isLt; have := o.isLt
  rw [major7 w (by omega)]
  simp only [fld_eq d (w / 524288) (by norm_num; omega), fld_eq o (w / 1) (by norm_num; omega)]
theorem jalr (d : BitVec 5) (a : BitVec 5) (i : BitVec 14) : Statement (.jalr d a i) := by
  refine of_word rfl fun w hw => ?_
  have := d.isLt; have := a.isLt; have := i.isLt
  rw [major8 w (by omega)]
  simp only [fld_eq d (w / 524288) (by norm_num; omega), fld_eq a (w / 16384) (by norm_num; omega), fld_eq i (w / 1) (by norm_num; omega)]
theorem ldrB (d : BitVec 5) (i : BitVec 14) : Statement (.ldrB d i) := by
  refine of_word rfl fun w hw => ?_
  have := d.isLt; have := i.isLt
  rw [major9 w (by omega)]
  simp only [decodeMajor9, show w / 16384 % 32 = 0 by omega, fld_eq d (w / 524288) (by norm_num; omega), fld_eq i (w / 1) (by norm_num; omega), Nat.reduceEqDiff, OfNat.ofNat_ne_zero, and_self, and_true, true_and, false_and, and_false, reduceIte]
theorem ldrH (d : BitVec 5) (i : BitVec 14) : Statement (.ldrH d i) := by
  refine of_word rfl fun w hw => ?_
  have := d.isLt; have := i.isLt
  rw [major9 w (by omega)]
  simp only [decodeMajor9, show w / 16384 % 32 = 1 by omega, fld_eq d (w / 524288) (by norm_num; omega), fld_eq i (w / 1) (by norm_num; omega), Nat.reduceEqDiff, OfNat.ofNat_ne_zero, and_self, and_true, true_and, false_and, and_false, reduceIte]
theorem ldrW (d : BitVec 5) (i : BitVec 14) : Statement (.ldrW d i) := by
  refine of_word rfl fun w hw => ?_
  have := d.isLt; have := i.isLt
  rw [major9 w (by omega)]
  simp only [decodeMajor9, show w / 16384 % 32 = 2 by omega, fld_eq d (w / 524288) (by norm_num; omega), fld_eq i (w / 1) (by norm_num; omega), Nat.reduceEqDiff, OfNat.ofNat_ne_zero, and_self, and_true, true_and, false_and, and_false, reduceIte]
theorem ldrD (d : BitVec 5) (i : BitVec 14) : Statement (.ldrD d i) := by
  refine of_word rfl fun w hw => ?_
  have := d.isLt; have := i.isLt
  rw [major9 w (by omega)]
  simp only [decodeMajor9, show w / 16384 % 32 = 3 by omega, fld_eq d (w / 524288) (by norm_num; omega), fld_eq i (w / 1) (by norm_num; omega), Nat.reduceEqDiff, OfNat.ofNat_ne_zero, and_self, and_true, true_and, false_and, and_false, reduceIte]
theorem ldrBu (d : BitVec 5) (i : BitVec 14) : Statement (.ldrBu d i) := by
  refine of_word rfl fun w hw => ?_
  have := d.isLt; have := i.isLt
  rw [major9 w (by omega)]
  simp only [decodeMajor9, show w / 16384 % 32 = 4 by omega, fld_eq d (w / 524288) (by norm_num; omega), fld_eq i (w / 1) (by norm_num; omega), Nat.reduceEqDiff, OfNat.ofNat_ne_zero, and_self, and_true, true_and, false_and, and_false, reduceIte]
theorem ldrHu (d : BitVec 5) (i : BitVec 14) : Statement (.ldrHu d i) := by
  refine of_word rfl fun w hw => ?_
  have := d.isLt; have := i.isLt
  rw [major9 w (by omega)]
  simp only [decodeMajor9, show w / 16384 % 32 = 5 by omega, fld_eq d (w / 524288) (by norm_num; omega), fld_eq i (w / 1) (by norm_num; omega), Nat.reduceEqDiff, OfNat.ofNat_ne_zero, and_self, and_true, true_and, false_and, and_false, reduceIte]
theorem ldrWu (d : BitVec 5) (i : BitVec 14) : Statement (.ldrWu d i) := by
  refine of_word rfl fun w hw => ?_
  have := d.isLt; have := i.isLt
  rw [major9 w (by omega)]
  simp only [decodeMajor9, show w / 16384 % 32 = 6 by omega, fld_eq d (w / 524288) (by norm_num; omega), fld_eq i (w / 1) (by norm_num; omega), Nat.reduceEqDiff, OfNat.ofNat_ne_zero, and_self, and_true, true_and, false_and, and_false, reduceIte]
theorem strB (d : BitVec 5) (i : BitVec 14) : Statement (.strB d i) := by
  refine of_word rfl fun w hw => ?_
  have := d.isLt; have := i.isLt
  rw [major10 w (by omega)]
  simp only [decodeMajor10, show w / 16384 % 32 = 0 by omega, fld_eq d (w / 524288) (by norm_num; omega), fld_eq i (w / 1) (by norm_num; omega), Nat.reduceEqDiff, OfNat.ofNat_ne_zero, and_self, and_true, true_and, false_and, and_false, reduceIte]
theorem strH (d : BitVec 5) (i : BitVec 14) : Statement (.strH d i) := by
  refine of_word rfl fun w hw => ?_
  have := d.isLt; have := i.isLt
  rw [major10 w (by omega)]
  simp only [decodeMajor10, show w / 16384 % 32 = 1 by omega, fld_eq d (w / 524288) (by norm_num; omega), fld_eq i (w / 1) (by norm_num; omega), Nat.reduceEqDiff, OfNat.ofNat_ne_zero, and_self, and_true, true_and, false_and, and_false, reduceIte]
theorem strW (d : BitVec 5) (i : BitVec 14) : Statement (.strW d i) := by
  refine of_word rfl fun w hw => ?_
  have := d.isLt; have := i.isLt
  rw [major10 w (by omega)]
  simp only [decodeMajor10, show w / 16384 % 32 = 2 by omega, fld_eq d (w / 524288) (by norm_num; omega), fld_eq i (w / 1) (by norm_num; omega), Nat.reduceEqDiff, OfNat.ofNat_ne_zero, and_self, and_true, true_and, false_and, and_false, reduceIte]
theorem strD (d : BitVec 5) (i : BitVec 14) : Statement (.strD d i) := by
  refine of_word rfl fun w hw => ?_
  have := d.isLt; have := i.isLt
  rw [major10 w (by omega)]
  simp only [decodeMajor10, show w / 16384 % 32 = 3 by omega, fld_eq d (w / 524288) (by norm_num; omega), fld_eq i (w / 1) (by norm_num; omega), Nat.reduceEqDiff, OfNat.ofNat_ne_zero, and_self, and_true, true_and, false_and, and_false, reduceIte]
theorem hstart (d : BitVec 5) (a : BitVec 5) (b : BitVec 5) : Statement (.hstart d a b) := by
  refine of_word rfl fun w hw => ?_
  have := d.isLt; have := a.isLt; have := b.isLt
  rw [major11 w (by omega)]
  simp only [decodeMajor11, show w / 1 % 512 = 0 by omega, fld_eq d (w / 524288) (by norm_num; omega), fld_eq a (w / 16384) (by norm_num; omega), fld_eq b (w / 512) (by norm_num; omega), Nat.reduceEqDiff, OfNat.ofNat_ne_zero, and_self, and_true, true_and, false_and, and_false, reduceIte]
theorem ldaW (d : BitVec 5) (a : BitVec 5) (c : BitVec 3) : Statement (.ldaW d a c) := by
  refine of_word rfl fun w hw => ?_
  have := d.isLt; have := a.isLt; have := c.isLt
  rw [major12 w (by omega)]
  simp only [decodeMajor12, show w / 1 % 4 = 0 by omega, show w / 32 % 512 = 0 by omega, fld_eq d (w / 524288) (by norm_num; omega), fld_eq a (w / 16384) (by norm_num; omega), fld_eq c (w / 4) (by norm_num; omega), Nat.reduceEqDiff, OfNat.ofNat_ne_zero, and_self, and_true, true_and, false_and, and_false, reduceIte]
theorem ldaD (d : BitVec 5) (a : BitVec 5) (c : BitVec 3) : Statement (.ldaD d a c) := by
  refine of_word rfl fun w hw => ?_
  have := d.isLt; have := a.isLt; have := c.isLt
  rw [major12 w (by omega)]
  simp only [decodeMajor12, show w / 1 % 4 = 0 by omega, show w / 32 % 512 = 1 by omega, fld_eq d (w / 524288) (by norm_num; omega), fld_eq a (w / 16384) (by norm_num; omega), fld_eq c (w / 4) (by norm_num; omega), Nat.reduceEqDiff, OfNat.ofNat_ne_zero, and_self, and_true, true_and, false_and, and_false, reduceIte]
theorem stlW (a : BitVec 5) (b : BitVec 5) (c : BitVec 3) : Statement (.stlW a b c) := by
  refine of_word rfl fun w hw => ?_
  have := a.isLt; have := b.isLt; have := c.isLt
  rw [major12 w (by omega)]
  simp only [decodeMajor12, show w / 1 % 4 = 0 by omega, show ¬ w / 32 % 512 = 0 by omega, show ¬ w / 32 % 512 = 1 by omega, show w / 32 % 16 = 2 by omega, show w / 524288 % 32 = 0 by omega, fld_eq a (w / 16384) (by norm_num; omega), fld_eq b (w / 512) (by norm_num; omega), fld_eq c (w / 4) (by norm_num; omega), Nat.reduceEqDiff, OfNat.ofNat_ne_zero, and_self, and_true, true_and, false_and, and_false, reduceIte]
theorem stlD (a : BitVec 5) (b : BitVec 5) (c : BitVec 3) : Statement (.stlD a b c) := by
  refine of_word rfl fun w hw => ?_
  have := a.isLt; have := b.isLt; have := c.isLt
  rw [major12 w (by omega)]
  simp only [decodeMajor12, show w / 1 % 4 = 0 by omega, show ¬ w / 32 % 512 = 0 by omega, show ¬ w / 32 % 512 = 1 by omega, show w / 32 % 16 = 3 by omega, show w / 524288 % 32 = 0 by omega, fld_eq a (w / 16384) (by norm_num; omega), fld_eq b (w / 512) (by norm_num; omega), fld_eq c (w / 4) (by norm_num; omega), Nat.reduceEqDiff, OfNat.ofNat_ne_zero, and_self, and_true, true_and, false_and, and_false, reduceIte]
theorem stmcW (a : BitVec 5) (b : BitVec 5) (c : BitVec 3) : Statement (.stmcW a b c) := by
  refine of_word rfl fun w hw => ?_
  have := a.isLt; have := b.isLt; have := c.isLt
  rw [major12 w (by omega)]
  simp only [decodeMajor12, show w / 1 % 4 = 0 by omega, show ¬ w / 32 % 512 = 0 by omega, show ¬ w / 32 % 512 = 1 by omega, show w / 32 % 16 = 4 by omega, show w / 524288 % 32 = 0 by omega, fld_eq a (w / 16384) (by norm_num; omega), fld_eq b (w / 512) (by norm_num; omega), fld_eq c (w / 4) (by norm_num; omega), Nat.reduceEqDiff, OfNat.ofNat_ne_zero, and_self, and_true, true_and, false_and, and_false, reduceIte]
theorem stmcD (a : BitVec 5) (b : BitVec 5) (c : BitVec 3) : Statement (.stmcD a b c) := by
  refine of_word rfl fun w hw => ?_
  have := a.isLt; have := b.isLt; have := c.isLt
  rw [major12 w (by omega)]
  simp only [decodeMajor12, show w / 1 % 4 = 0 by omega, show ¬ w / 32 % 512 = 0 by omega, show ¬ w / 32 % 512 = 1 by omega, show w / 32 % 16 = 5 by omega, show w / 524288 % 32 = 0 by omega, fld_eq a (w / 16384) (by norm_num; omega), fld_eq b (w / 512) (by norm_num; omega), fld_eq c (w / 4) (by norm_num; omega), Nat.reduceEqDiff, OfNat.ofNat_ne_zero, and_self, and_true, true_and, false_and, and_false, reduceIte]
theorem fence (c : BitVec 3) (r : BitVec 2) : Statement (.fence c r) := by
  refine of_word rfl fun w hw => ?_
  have := c.isLt; have := r.isLt
  rw [major12 w (by omega)]
  simp only [decodeMajor12, show w / 32 % 512 = 6 by omega, show w / 32 % 16 = 6 by omega, show w / 524288 % 32 = 0 by omega, show w / 32 % 524288 = 6 by omega, fld_eq c (w / 4) (by norm_num; omega), fld_eq r (w / 1) (by norm_num; omega), Nat.reduceEqDiff, OfNat.ofNat_ne_zero, and_self, and_true, true_and, false_and, and_false, reduceIte]
theorem ldb (d : BitVec 5) (a : BitVec 5) (i : BitVec 14) : Statement (.ldb d a i) := by
  refine of_word rfl fun w hw => ?_
  have := d.isLt; have := a.isLt; have := i.isLt
  rw [major16 w (by omega)]
  simp only [fld_eq d (w / 524288) (by norm_num; omega), fld_eq a (w / 16384) (by norm_num; omega), fld_eq i (w / 1) (by norm_num; omega)]
theorem ldh (d : BitVec 5) (a : BitVec 5) (i : BitVec 14) : Statement (.ldh d a i) := by
  refine of_word rfl fun w hw => ?_
  have := d.isLt; have := a.isLt; have := i.isLt
  rw [major17 w (by omega)]
  simp only [fld_eq d (w / 524288) (by norm_num; omega), fld_eq a (w / 16384) (by norm_num; omega), fld_eq i (w / 1) (by norm_num; omega)]
theorem ldw (d : BitVec 5) (a : BitVec 5) (i : BitVec 14) : Statement (.ldw d a i) := by
  refine of_word rfl fun w hw => ?_
  have := d.isLt; have := a.isLt; have := i.isLt
  rw [major18 w (by omega)]
  simp only [fld_eq d (w / 524288) (by norm_num; omega), fld_eq a (w / 16384) (by norm_num; omega), fld_eq i (w / 1) (by norm_num; omega)]
theorem ldd (d : BitVec 5) (a : BitVec 5) (i : BitVec 14) : Statement (.ldd d a i) := by
  refine of_word rfl fun w hw => ?_
  have := d.isLt; have := a.isLt; have := i.isLt
  rw [major19 w (by omega)]
  simp only [fld_eq d (w / 524288) (by norm_num; omega), fld_eq a (w / 16384) (by norm_num; omega), fld_eq i (w / 1) (by norm_num; omega)]
theorem ldbu (d : BitVec 5) (a : BitVec 5) (i : BitVec 14) : Statement (.ldbu d a i) := by
  refine of_word rfl fun w hw => ?_
  have := d.isLt; have := a.isLt; have := i.isLt
  rw [major20 w (by omega)]
  simp only [fld_eq d (w / 524288) (by norm_num; omega), fld_eq a (w / 16384) (by norm_num; omega), fld_eq i (w / 1) (by norm_num; omega)]
theorem ldhu (d : BitVec 5) (a : BitVec 5) (i : BitVec 14) : Statement (.ldhu d a i) := by
  refine of_word rfl fun w hw => ?_
  have := d.isLt; have := a.isLt; have := i.isLt
  rw [major21 w (by omega)]
  simp only [fld_eq d (w / 524288) (by norm_num; omega), fld_eq a (w / 16384) (by norm_num; omega), fld_eq i (w / 1) (by norm_num; omega)]
theorem ldwu (d : BitVec 5) (a : BitVec 5) (i : BitVec 14) : Statement (.ldwu d a i) := by
  refine of_word rfl fun w hw => ?_
  have := d.isLt; have := a.isLt; have := i.isLt
  rw [major22 w (by omega)]
  simp only [fld_eq d (w / 524288) (by norm_num; omega), fld_eq a (w / 16384) (by norm_num; omega), fld_eq i (w / 1) (by norm_num; omega)]
theorem vld (d : BitVec 5) (a : BitVec 5) (i : BitVec 14) : Statement (.vld d a i) := by
  refine of_word rfl fun w hw => ?_
  have := d.isLt; have := a.isLt; have := i.isLt
  rw [major23 w (by omega)]
  simp only [fld_eq d (w / 524288) (by norm_num; omega), fld_eq a (w / 16384) (by norm_num; omega), fld_eq i (w / 1) (by norm_num; omega)]
theorem stb (s : BitVec 5) (a : BitVec 5) (i : BitVec 14) : Statement (.stb s a i) := by
  refine of_word rfl fun w hw => ?_
  have := s.isLt; have := a.isLt; have := i.isLt
  rw [major24 w (by omega)]
  simp only [fld_eq s (w / 524288) (by norm_num; omega), fld_eq a (w / 16384) (by norm_num; omega), fld_eq i (w / 1) (by norm_num; omega)]
theorem sth (s : BitVec 5) (a : BitVec 5) (i : BitVec 14) : Statement (.sth s a i) := by
  refine of_word rfl fun w hw => ?_
  have := s.isLt; have := a.isLt; have := i.isLt
  rw [major25 w (by omega)]
  simp only [fld_eq s (w / 524288) (by norm_num; omega), fld_eq a (w / 16384) (by norm_num; omega), fld_eq i (w / 1) (by norm_num; omega)]
theorem stw (s : BitVec 5) (a : BitVec 5) (i : BitVec 14) : Statement (.stw s a i) := by
  refine of_word rfl fun w hw => ?_
  have := s.isLt; have := a.isLt; have := i.isLt
  rw [major26 w (by omega)]
  simp only [fld_eq s (w / 524288) (by norm_num; omega), fld_eq a (w / 16384) (by norm_num; omega), fld_eq i (w / 1) (by norm_num; omega)]
theorem std (s : BitVec 5) (a : BitVec 5) (i : BitVec 14) : Statement (.std s a i) := by
  refine of_word rfl fun w hw => ?_
  have := s.isLt; have := a.isLt; have := i.isLt
  rw [major27 w (by omega)]
  simp only [fld_eq s (w / 524288) (by norm_num; omega), fld_eq a (w / 16384) (by norm_num; omega), fld_eq i (w / 1) (by norm_num; omega)]
theorem vst (s : BitVec 5) (a : BitVec 5) (i : BitVec 14) : Statement (.vst s a i) := by
  refine of_word rfl fun w hw => ?_
  have := s.isLt; have := a.isLt; have := i.isLt
  rw [major28 w (by omega)]
  simp only [fld_eq s (w / 524288) (by norm_num; omega), fld_eq a (w / 16384) (by norm_num; omega), fld_eq i (w / 1) (by norm_num; omega)]
theorem ldxB (d : BitVec 5) (a : BitVec 5) (b : BitVec 5) (k : BitVec 2) : Statement (.ldxB d a b k) := by
  refine of_word rfl fun w hw => ?_
  have := d.isLt; have := a.isLt; have := b.isLt; have := k.isLt
  rw [major29 w (by omega)]
  simp only [decodeMajor29, show w / 1 % 8 = 0 by omega, show w / 32 % 16 = 0 by omega, fld_eq d (w / 524288) (by norm_num; omega), fld_eq a (w / 16384) (by norm_num; omega), fld_eq b (w / 512) (by norm_num; omega), fld_eq k (w / 8) (by norm_num; omega), Nat.reduceEqDiff, OfNat.ofNat_ne_zero, and_self, and_true, true_and, false_and, and_false, reduceIte]
theorem ldxH (d : BitVec 5) (a : BitVec 5) (b : BitVec 5) (k : BitVec 2) : Statement (.ldxH d a b k) := by
  refine of_word rfl fun w hw => ?_
  have := d.isLt; have := a.isLt; have := b.isLt; have := k.isLt
  rw [major29 w (by omega)]
  simp only [decodeMajor29, show w / 1 % 8 = 0 by omega, show w / 32 % 16 = 1 by omega, fld_eq d (w / 524288) (by norm_num; omega), fld_eq a (w / 16384) (by norm_num; omega), fld_eq b (w / 512) (by norm_num; omega), fld_eq k (w / 8) (by norm_num; omega), Nat.reduceEqDiff, OfNat.ofNat_ne_zero, and_self, and_true, true_and, false_and, and_false, reduceIte]
theorem ldxW (d : BitVec 5) (a : BitVec 5) (b : BitVec 5) (k : BitVec 2) : Statement (.ldxW d a b k) := by
  refine of_word rfl fun w hw => ?_
  have := d.isLt; have := a.isLt; have := b.isLt; have := k.isLt
  rw [major29 w (by omega)]
  simp only [decodeMajor29, show w / 1 % 8 = 0 by omega, show w / 32 % 16 = 2 by omega, fld_eq d (w / 524288) (by norm_num; omega), fld_eq a (w / 16384) (by norm_num; omega), fld_eq b (w / 512) (by norm_num; omega), fld_eq k (w / 8) (by norm_num; omega), Nat.reduceEqDiff, OfNat.ofNat_ne_zero, and_self, and_true, true_and, false_and, and_false, reduceIte]
theorem ldxD (d : BitVec 5) (a : BitVec 5) (b : BitVec 5) (k : BitVec 2) : Statement (.ldxD d a b k) := by
  refine of_word rfl fun w hw => ?_
  have := d.isLt; have := a.isLt; have := b.isLt; have := k.isLt
  rw [major29 w (by omega)]
  simp only [decodeMajor29, show w / 1 % 8 = 0 by omega, show w / 32 % 16 = 3 by omega, fld_eq d (w / 524288) (by norm_num; omega), fld_eq a (w / 16384) (by norm_num; omega), fld_eq b (w / 512) (by norm_num; omega), fld_eq k (w / 8) (by norm_num; omega), Nat.reduceEqDiff, OfNat.ofNat_ne_zero, and_self, and_true, true_and, false_and, and_false, reduceIte]
theorem ldxBu (d : BitVec 5) (a : BitVec 5) (b : BitVec 5) (k : BitVec 2) : Statement (.ldxBu d a b k) := by
  refine of_word rfl fun w hw => ?_
  have := d.isLt; have := a.isLt; have := b.isLt; have := k.isLt
  rw [major29 w (by omega)]
  simp only [decodeMajor29, show w / 1 % 8 = 0 by omega, show w / 32 % 16 = 4 by omega, fld_eq d (w / 524288) (by norm_num; omega), fld_eq a (w / 16384) (by norm_num; omega), fld_eq b (w / 512) (by norm_num; omega), fld_eq k (w / 8) (by norm_num; omega), Nat.reduceEqDiff, OfNat.ofNat_ne_zero, and_self, and_true, true_and, false_and, and_false, reduceIte]
theorem ldxHu (d : BitVec 5) (a : BitVec 5) (b : BitVec 5) (k : BitVec 2) : Statement (.ldxHu d a b k) := by
  refine of_word rfl fun w hw => ?_
  have := d.isLt; have := a.isLt; have := b.isLt; have := k.isLt
  rw [major29 w (by omega)]
  simp only [decodeMajor29, show w / 1 % 8 = 0 by omega, show w / 32 % 16 = 5 by omega, fld_eq d (w / 524288) (by norm_num; omega), fld_eq a (w / 16384) (by norm_num; omega), fld_eq b (w / 512) (by norm_num; omega), fld_eq k (w / 8) (by norm_num; omega), Nat.reduceEqDiff, OfNat.ofNat_ne_zero, and_self, and_true, true_and, false_and, and_false, reduceIte]
theorem ldxWu (d : BitVec 5) (a : BitVec 5) (b : BitVec 5) (k : BitVec 2) : Statement (.ldxWu d a b k) := by
  refine of_word rfl fun w hw => ?_
  have := d.isLt; have := a.isLt; have := b.isLt; have := k.isLt
  rw [major29 w (by omega)]
  simp only [decodeMajor29, show w / 1 % 8 = 0 by omega, show w / 32 % 16 = 6 by omega, fld_eq d (w / 524288) (by norm_num; omega), fld_eq a (w / 16384) (by norm_num; omega), fld_eq b (w / 512) (by norm_num; omega), fld_eq k (w / 8) (by norm_num; omega), Nat.reduceEqDiff, OfNat.ofNat_ne_zero, and_self, and_true, true_and, false_and, and_false, reduceIte]
theorem ldxV (d : BitVec 5) (a : BitVec 5) (b : BitVec 5) (k : BitVec 2) : Statement (.ldxV d a b k) := by
  refine of_word rfl fun w hw => ?_
  have := d.isLt; have := a.isLt; have := b.isLt; have := k.isLt
  rw [major29 w (by omega)]
  simp only [decodeMajor29, show w / 1 % 8 = 0 by omega, show w / 32 % 16 = 7 by omega, fld_eq d (w / 524288) (by norm_num; omega), fld_eq a (w / 16384) (by norm_num; omega), fld_eq b (w / 512) (by norm_num; omega), fld_eq k (w / 8) (by norm_num; omega), Nat.reduceEqDiff, OfNat.ofNat_ne_zero, and_self, and_true, true_and, false_and, and_false, reduceIte]
theorem stxB (d : BitVec 5) (a : BitVec 5) (b : BitVec 5) (k : BitVec 2) : Statement (.stxB d a b k) := by
  refine of_word rfl fun w hw => ?_
  have := d.isLt; have := a.isLt; have := b.isLt; have := k.isLt
  rw [major29 w (by omega)]
  simp only [decodeMajor29, show w / 1 % 8 = 0 by omega, show w / 32 % 16 = 8 by omega, fld_eq d (w / 524288) (by norm_num; omega), fld_eq a (w / 16384) (by norm_num; omega), fld_eq b (w / 512) (by norm_num; omega), fld_eq k (w / 8) (by norm_num; omega), Nat.reduceEqDiff, OfNat.ofNat_ne_zero, and_self, and_true, true_and, false_and, and_false, reduceIte]
theorem stxH (d : BitVec 5) (a : BitVec 5) (b : BitVec 5) (k : BitVec 2) : Statement (.stxH d a b k) := by
  refine of_word rfl fun w hw => ?_
  have := d.isLt; have := a.isLt; have := b.isLt; have := k.isLt
  rw [major29 w (by omega)]
  simp only [decodeMajor29, show w / 1 % 8 = 0 by omega, show w / 32 % 16 = 9 by omega, fld_eq d (w / 524288) (by norm_num; omega), fld_eq a (w / 16384) (by norm_num; omega), fld_eq b (w / 512) (by norm_num; omega), fld_eq k (w / 8) (by norm_num; omega), Nat.reduceEqDiff, OfNat.ofNat_ne_zero, and_self, and_true, true_and, false_and, and_false, reduceIte]
theorem stxW (d : BitVec 5) (a : BitVec 5) (b : BitVec 5) (k : BitVec 2) : Statement (.stxW d a b k) := by
  refine of_word rfl fun w hw => ?_
  have := d.isLt; have := a.isLt; have := b.isLt; have := k.isLt
  rw [major29 w (by omega)]
  simp only [decodeMajor29, show w / 1 % 8 = 0 by omega, show w / 32 % 16 = 10 by omega, fld_eq d (w / 524288) (by norm_num; omega), fld_eq a (w / 16384) (by norm_num; omega), fld_eq b (w / 512) (by norm_num; omega), fld_eq k (w / 8) (by norm_num; omega), Nat.reduceEqDiff, OfNat.ofNat_ne_zero, and_self, and_true, true_and, false_and, and_false, reduceIte]
theorem stxD (d : BitVec 5) (a : BitVec 5) (b : BitVec 5) (k : BitVec 2) : Statement (.stxD d a b k) := by
  refine of_word rfl fun w hw => ?_
  have := d.isLt; have := a.isLt; have := b.isLt; have := k.isLt
  rw [major29 w (by omega)]
  simp only [decodeMajor29, show w / 1 % 8 = 0 by omega, show w / 32 % 16 = 11 by omega, fld_eq d (w / 524288) (by norm_num; omega), fld_eq a (w / 16384) (by norm_num; omega), fld_eq b (w / 512) (by norm_num; omega), fld_eq k (w / 8) (by norm_num; omega), Nat.reduceEqDiff, OfNat.ofNat_ne_zero, and_self, and_true, true_and, false_and, and_false, reduceIte]
theorem stxV (d : BitVec 5) (a : BitVec 5) (b : BitVec 5) (k : BitVec 2) : Statement (.stxV d a b k) := by
  refine of_word rfl fun w hw => ?_
  have := d.isLt; have := a.isLt; have := b.isLt; have := k.isLt
  rw [major29 w (by omega)]
  simp only [decodeMajor29, show w / 1 % 8 = 0 by omega, show w / 32 % 16 = 15 by omega, fld_eq d (w / 524288) (by norm_num; omega), fld_eq a (w / 16384) (by norm_num; omega), fld_eq b (w / 512) (by norm_num; omega), fld_eq k (w / 8) (by norm_num; omega), Nat.reduceEqDiff, OfNat.ofNat_ne_zero, and_self, and_true, true_and, false_and, and_false, reduceIte]
theorem atomwAdd (d : BitVec 5) (a : BitVec 5) (b : BitVec 5) (c : BitVec 3) (r : BitVec 2) : Statement (.atomwAdd d a b c r) := by
  refine of_word rfl fun w hw => ?_
  have := d.isLt; have := a.isLt; have := b.isLt; have := c.isLt; have := r.isLt
  rw [major30 w (by omega)]
  simp only [decodeMajor30, show w / 32 % 16 = 0 by omega, fld_eq d (w / 524288) (by norm_num; omega), fld_eq a (w / 16384) (by norm_num; omega), fld_eq b (w / 512) (by norm_num; omega), fld_eq c (w / 4) (by norm_num; omega), fld_eq r (w / 1) (by norm_num; omega), Nat.reduceEqDiff, OfNat.ofNat_ne_zero, and_self, and_true, true_and, false_and, and_false, reduceIte]
theorem atomwSwap (d : BitVec 5) (a : BitVec 5) (b : BitVec 5) (c : BitVec 3) (r : BitVec 2) : Statement (.atomwSwap d a b c r) := by
  refine of_word rfl fun w hw => ?_
  have := d.isLt; have := a.isLt; have := b.isLt; have := c.isLt; have := r.isLt
  rw [major30 w (by omega)]
  simp only [decodeMajor30, show w / 32 % 16 = 1 by omega, fld_eq d (w / 524288) (by norm_num; omega), fld_eq a (w / 16384) (by norm_num; omega), fld_eq b (w / 512) (by norm_num; omega), fld_eq c (w / 4) (by norm_num; omega), fld_eq r (w / 1) (by norm_num; omega), Nat.reduceEqDiff, OfNat.ofNat_ne_zero, and_self, and_true, true_and, false_and, and_false, reduceIte]
theorem atomwCas (d : BitVec 5) (a : BitVec 5) (b : BitVec 5) (c : BitVec 3) (r : BitVec 2) : Statement (.atomwCas d a b c r) := by
  refine of_word rfl fun w hw => ?_
  have := d.isLt; have := a.isLt; have := b.isLt; have := c.isLt; have := r.isLt
  rw [major30 w (by omega)]
  simp only [decodeMajor30, show w / 32 % 16 = 2 by omega, fld_eq d (w / 524288) (by norm_num; omega), fld_eq a (w / 16384) (by norm_num; omega), fld_eq b (w / 512) (by norm_num; omega), fld_eq c (w / 4) (by norm_num; omega), fld_eq r (w / 1) (by norm_num; omega), Nat.reduceEqDiff, OfNat.ofNat_ne_zero, and_self, and_true, true_and, false_and, and_false, reduceIte]
theorem atomwAnd (d : BitVec 5) (a : BitVec 5) (b : BitVec 5) (c : BitVec 3) (r : BitVec 2) : Statement (.atomwAnd d a b c r) := by
  refine of_word rfl fun w hw => ?_
  have := d.isLt; have := a.isLt; have := b.isLt; have := c.isLt; have := r.isLt
  rw [major30 w (by omega)]
  simp only [decodeMajor30, show w / 32 % 16 = 3 by omega, fld_eq d (w / 524288) (by norm_num; omega), fld_eq a (w / 16384) (by norm_num; omega), fld_eq b (w / 512) (by norm_num; omega), fld_eq c (w / 4) (by norm_num; omega), fld_eq r (w / 1) (by norm_num; omega), Nat.reduceEqDiff, OfNat.ofNat_ne_zero, and_self, and_true, true_and, false_and, and_false, reduceIte]
theorem atomwOr (d : BitVec 5) (a : BitVec 5) (b : BitVec 5) (c : BitVec 3) (r : BitVec 2) : Statement (.atomwOr d a b c r) := by
  refine of_word rfl fun w hw => ?_
  have := d.isLt; have := a.isLt; have := b.isLt; have := c.isLt; have := r.isLt
  rw [major30 w (by omega)]
  simp only [decodeMajor30, show w / 32 % 16 = 4 by omega, fld_eq d (w / 524288) (by norm_num; omega), fld_eq a (w / 16384) (by norm_num; omega), fld_eq b (w / 512) (by norm_num; omega), fld_eq c (w / 4) (by norm_num; omega), fld_eq r (w / 1) (by norm_num; omega), Nat.reduceEqDiff, OfNat.ofNat_ne_zero, and_self, and_true, true_and, false_and, and_false, reduceIte]
theorem atomwXor (d : BitVec 5) (a : BitVec 5) (b : BitVec 5) (c : BitVec 3) (r : BitVec 2) : Statement (.atomwXor d a b c r) := by
  refine of_word rfl fun w hw => ?_
  have := d.isLt; have := a.isLt; have := b.isLt; have := c.isLt; have := r.isLt
  rw [major30 w (by omega)]
  simp only [decodeMajor30, show w / 32 % 16 = 5 by omega, fld_eq d (w / 524288) (by norm_num; omega), fld_eq a (w / 16384) (by norm_num; omega), fld_eq b (w / 512) (by norm_num; omega), fld_eq c (w / 4) (by norm_num; omega), fld_eq r (w / 1) (by norm_num; omega), Nat.reduceEqDiff, OfNat.ofNat_ne_zero, and_self, and_true, true_and, false_and, and_false, reduceIte]
theorem atomwMin (d : BitVec 5) (a : BitVec 5) (b : BitVec 5) (c : BitVec 3) (r : BitVec 2) : Statement (.atomwMin d a b c r) := by
  refine of_word rfl fun w hw => ?_
  have := d.isLt; have := a.isLt; have := b.isLt; have := c.isLt; have := r.isLt
  rw [major30 w (by omega)]
  simp only [decodeMajor30, show w / 32 % 16 = 6 by omega, fld_eq d (w / 524288) (by norm_num; omega), fld_eq a (w / 16384) (by norm_num; omega), fld_eq b (w / 512) (by norm_num; omega), fld_eq c (w / 4) (by norm_num; omega), fld_eq r (w / 1) (by norm_num; omega), Nat.reduceEqDiff, OfNat.ofNat_ne_zero, and_self, and_true, true_and, false_and, and_false, reduceIte]
theorem atomwMax (d : BitVec 5) (a : BitVec 5) (b : BitVec 5) (c : BitVec 3) (r : BitVec 2) : Statement (.atomwMax d a b c r) := by
  refine of_word rfl fun w hw => ?_
  have := d.isLt; have := a.isLt; have := b.isLt; have := c.isLt; have := r.isLt
  rw [major30 w (by omega)]
  simp only [decodeMajor30, show w / 32 % 16 = 7 by omega, fld_eq d (w / 524288) (by norm_num; omega), fld_eq a (w / 16384) (by norm_num; omega), fld_eq b (w / 512) (by norm_num; omega), fld_eq c (w / 4) (by norm_num; omega), fld_eq r (w / 1) (by norm_num; omega), Nat.reduceEqDiff, OfNat.ofNat_ne_zero, and_self, and_true, true_and, false_and, and_false, reduceIte]
theorem atomwMinu (d : BitVec 5) (a : BitVec 5) (b : BitVec 5) (c : BitVec 3) (r : BitVec 2) : Statement (.atomwMinu d a b c r) := by
  refine of_word rfl fun w hw => ?_
  have := d.isLt; have := a.isLt; have := b.isLt; have := c.isLt; have := r.isLt
  rw [major30 w (by omega)]
  simp only [decodeMajor30, show w / 32 % 16 = 8 by omega, fld_eq d (w / 524288) (by norm_num; omega), fld_eq a (w / 16384) (by norm_num; omega), fld_eq b (w / 512) (by norm_num; omega), fld_eq c (w / 4) (by norm_num; omega), fld_eq r (w / 1) (by norm_num; omega), Nat.reduceEqDiff, OfNat.ofNat_ne_zero, and_self, and_true, true_and, false_and, and_false, reduceIte]
theorem atomwMaxu (d : BitVec 5) (a : BitVec 5) (b : BitVec 5) (c : BitVec 3) (r : BitVec 2) : Statement (.atomwMaxu d a b c r) := by
  refine of_word rfl fun w hw => ?_
  have := d.isLt; have := a.isLt; have := b.isLt; have := c.isLt; have := r.isLt
  rw [major30 w (by omega)]
  simp only [decodeMajor30, show w / 32 % 16 = 9 by omega, fld_eq d (w / 524288) (by norm_num; omega), fld_eq a (w / 16384) (by norm_num; omega), fld_eq b (w / 512) (by norm_num; omega), fld_eq c (w / 4) (by norm_num; omega), fld_eq r (w / 1) (by norm_num; omega), Nat.reduceEqDiff, OfNat.ofNat_ne_zero, and_self, and_true, true_and, false_and, and_false, reduceIte]
theorem atomdAdd (d : BitVec 5) (a : BitVec 5) (b : BitVec 5) (c : BitVec 3) (r : BitVec 2) : Statement (.atomdAdd d a b c r) := by
  refine of_word rfl fun w hw => ?_
  have := d.isLt; have := a.isLt; have := b.isLt; have := c.isLt; have := r.isLt
  rw [major31 w (by omega)]
  simp only [decodeMajor31, show w / 32 % 16 = 0 by omega, fld_eq d (w / 524288) (by norm_num; omega), fld_eq a (w / 16384) (by norm_num; omega), fld_eq b (w / 512) (by norm_num; omega), fld_eq c (w / 4) (by norm_num; omega), fld_eq r (w / 1) (by norm_num; omega), Nat.reduceEqDiff, OfNat.ofNat_ne_zero, and_self, and_true, true_and, false_and, and_false, reduceIte]
theorem atomdSwap (d : BitVec 5) (a : BitVec 5) (b : BitVec 5) (c : BitVec 3) (r : BitVec 2) : Statement (.atomdSwap d a b c r) := by
  refine of_word rfl fun w hw => ?_
  have := d.isLt; have := a.isLt; have := b.isLt; have := c.isLt; have := r.isLt
  rw [major31 w (by omega)]
  simp only [decodeMajor31, show w / 32 % 16 = 1 by omega, fld_eq d (w / 524288) (by norm_num; omega), fld_eq a (w / 16384) (by norm_num; omega), fld_eq b (w / 512) (by norm_num; omega), fld_eq c (w / 4) (by norm_num; omega), fld_eq r (w / 1) (by norm_num; omega), Nat.reduceEqDiff, OfNat.ofNat_ne_zero, and_self, and_true, true_and, false_and, and_false, reduceIte]
theorem atomdCas (d : BitVec 5) (a : BitVec 5) (b : BitVec 5) (c : BitVec 3) (r : BitVec 2) : Statement (.atomdCas d a b c r) := by
  refine of_word rfl fun w hw => ?_
  have := d.isLt; have := a.isLt; have := b.isLt; have := c.isLt; have := r.isLt
  rw [major31 w (by omega)]
  simp only [decodeMajor31, show w / 32 % 16 = 2 by omega, fld_eq d (w / 524288) (by norm_num; omega), fld_eq a (w / 16384) (by norm_num; omega), fld_eq b (w / 512) (by norm_num; omega), fld_eq c (w / 4) (by norm_num; omega), fld_eq r (w / 1) (by norm_num; omega), Nat.reduceEqDiff, OfNat.ofNat_ne_zero, and_self, and_true, true_and, false_and, and_false, reduceIte]
theorem atomdAnd (d : BitVec 5) (a : BitVec 5) (b : BitVec 5) (c : BitVec 3) (r : BitVec 2) : Statement (.atomdAnd d a b c r) := by
  refine of_word rfl fun w hw => ?_
  have := d.isLt; have := a.isLt; have := b.isLt; have := c.isLt; have := r.isLt
  rw [major31 w (by omega)]
  simp only [decodeMajor31, show w / 32 % 16 = 3 by omega, fld_eq d (w / 524288) (by norm_num; omega), fld_eq a (w / 16384) (by norm_num; omega), fld_eq b (w / 512) (by norm_num; omega), fld_eq c (w / 4) (by norm_num; omega), fld_eq r (w / 1) (by norm_num; omega), Nat.reduceEqDiff, OfNat.ofNat_ne_zero, and_self, and_true, true_and, false_and, and_false, reduceIte]
theorem atomdOr (d : BitVec 5) (a : BitVec 5) (b : BitVec 5) (c : BitVec 3) (r : BitVec 2) : Statement (.atomdOr d a b c r) := by
  refine of_word rfl fun w hw => ?_
  have := d.isLt; have := a.isLt; have := b.isLt; have := c.isLt; have := r.isLt
  rw [major31 w (by omega)]
  simp only [decodeMajor31, show w / 32 % 16 = 4 by omega, fld_eq d (w / 524288) (by norm_num; omega), fld_eq a (w / 16384) (by norm_num; omega), fld_eq b (w / 512) (by norm_num; omega), fld_eq c (w / 4) (by norm_num; omega), fld_eq r (w / 1) (by norm_num; omega), Nat.reduceEqDiff, OfNat.ofNat_ne_zero, and_self, and_true, true_and, false_and, and_false, reduceIte]
theorem atomdXor (d : BitVec 5) (a : BitVec 5) (b : BitVec 5) (c : BitVec 3) (r : BitVec 2) : Statement (.atomdXor d a b c r) := by
  refine of_word rfl fun w hw => ?_
  have := d.isLt; have := a.isLt; have := b.isLt; have := c.isLt; have := r.isLt
  rw [major31 w (by omega)]
  simp only [decodeMajor31, show w / 32 % 16 = 5 by omega, fld_eq d (w / 524288) (by norm_num; omega), fld_eq a (w / 16384) (by norm_num; omega), fld_eq b (w / 512) (by norm_num; omega), fld_eq c (w / 4) (by norm_num; omega), fld_eq r (w / 1) (by norm_num; omega), Nat.reduceEqDiff, OfNat.ofNat_ne_zero, and_self, and_true, true_and, false_and, and_false, reduceIte]
theorem atomdMin (d : BitVec 5) (a : BitVec 5) (b : BitVec 5) (c : BitVec 3) (r : BitVec 2) : Statement (.atomdMin d a b c r) := by
  refine of_word rfl fun w hw => ?_
  have := d.isLt; have := a.isLt; have := b.isLt; have := c.isLt; have := r.isLt
  rw [major31 w (by omega)]
  simp only [decodeMajor31, show w / 32 % 16 = 6 by omega, fld_eq d (w / 524288) (by norm_num; omega), fld_eq a (w / 16384) (by norm_num; omega), fld_eq b (w / 512) (by norm_num; omega), fld_eq c (w / 4) (by norm_num; omega), fld_eq r (w / 1) (by norm_num; omega), Nat.reduceEqDiff, OfNat.ofNat_ne_zero, and_self, and_true, true_and, false_and, and_false, reduceIte]
theorem atomdMax (d : BitVec 5) (a : BitVec 5) (b : BitVec 5) (c : BitVec 3) (r : BitVec 2) : Statement (.atomdMax d a b c r) := by
  refine of_word rfl fun w hw => ?_
  have := d.isLt; have := a.isLt; have := b.isLt; have := c.isLt; have := r.isLt
  rw [major31 w (by omega)]
  simp only [decodeMajor31, show w / 32 % 16 = 7 by omega, fld_eq d (w / 524288) (by norm_num; omega), fld_eq a (w / 16384) (by norm_num; omega), fld_eq b (w / 512) (by norm_num; omega), fld_eq c (w / 4) (by norm_num; omega), fld_eq r (w / 1) (by norm_num; omega), Nat.reduceEqDiff, OfNat.ofNat_ne_zero, and_self, and_true, true_and, false_and, and_false, reduceIte]
theorem atomdMinu (d : BitVec 5) (a : BitVec 5) (b : BitVec 5) (c : BitVec 3) (r : BitVec 2) : Statement (.atomdMinu d a b c r) := by
  refine of_word rfl fun w hw => ?_
  have := d.isLt; have := a.isLt; have := b.isLt; have := c.isLt; have := r.isLt
  rw [major31 w (by omega)]
  simp only [decodeMajor31, show w / 32 % 16 = 8 by omega, fld_eq d (w / 524288) (by norm_num; omega), fld_eq a (w / 16384) (by norm_num; omega), fld_eq b (w / 512) (by norm_num; omega), fld_eq c (w / 4) (by norm_num; omega), fld_eq r (w / 1) (by norm_num; omega), Nat.reduceEqDiff, OfNat.ofNat_ne_zero, and_self, and_true, true_and, false_and, and_false, reduceIte]
theorem atomdMaxu (d : BitVec 5) (a : BitVec 5) (b : BitVec 5) (c : BitVec 3) (r : BitVec 2) : Statement (.atomdMaxu d a b c r) := by
  refine of_word rfl fun w hw => ?_
  have := d.isLt; have := a.isLt; have := b.isLt; have := c.isLt; have := r.isLt
  rw [major31 w (by omega)]
  simp only [decodeMajor31, show w / 32 % 16 = 9 by omega, fld_eq d (w / 524288) (by norm_num; omega), fld_eq a (w / 16384) (by norm_num; omega), fld_eq b (w / 512) (by norm_num; omega), fld_eq c (w / 4) (by norm_num; omega), fld_eq r (w / 1) (by norm_num; omega), Nat.reduceEqDiff, OfNat.ofNat_ne_zero, and_self, and_true, true_and, false_and, and_false, reduceIte]
theorem qpush (a : BitVec 5) (b : BitVec 5) : Statement (.qpush a b) := by
  refine of_word rfl fun w hw => ?_
  have := a.isLt; have := b.isLt
  rw [major32 w (by omega)]
  simp only [decodeMajor32, show w / 1 % 512 = 0 by omega, show w / 524288 % 32 = 0 by omega, fld_eq a (w / 16384) (by norm_num; omega), fld_eq b (w / 512) (by norm_num; omega), Nat.reduceEqDiff, OfNat.ofNat_ne_zero, and_self, and_true, true_and, false_and, and_false, reduceIte]
theorem qpop (d : BitVec 5) (b : BitVec 5) : Statement (.qpop d b) := by
  refine of_word rfl fun w hw => ?_
  have := d.isLt; have := b.isLt
  rw [major33 w (by omega)]
  simp only [decodeMajor33, show w / 1 % 512 = 0 by omega, show w / 16384 % 32 = 0 by omega, fld_eq d (w / 524288) (by norm_num; omega), fld_eq b (w / 512) (by norm_num; omega), Nat.reduceEqDiff, OfNat.ofNat_ne_zero, and_self, and_true, true_and, false_and, and_false, reduceIte]
theorem qcntHeld (d : BitVec 5) (b : BitVec 5) : Statement (.qcntHeld d b) := by
  refine of_word rfl fun w hw => ?_
  have := d.isLt; have := b.isLt
  rw [major34 w (by omega)]
  simp only [decodeMajor34, show w / 1 % 512 = 0 by omega, show w / 16384 % 32 = 0 by omega, fld_eq d (w / 524288) (by norm_num; omega), fld_eq b (w / 512) (by norm_num; omega), Nat.reduceEqDiff, OfNat.ofNat_ne_zero, and_self, and_true, true_and, false_and, and_false, reduceIte]
theorem qcntFree (d : BitVec 5) (b : BitVec 5) : Statement (.qcntFree d b) := by
  refine of_word rfl fun w hw => ?_
  have := d.isLt; have := b.isLt
  rw [major34 w (by omega)]
  simp only [decodeMajor34, show w / 1 % 512 = 1 by omega, show w / 16384 % 32 = 0 by omega, fld_eq d (w / 524288) (by norm_num; omega), fld_eq b (w / 512) (by norm_num; omega), Nat.reduceEqDiff, OfNat.ofNat_ne_zero, and_self, and_true, true_and, false_and, and_false, reduceIte]
theorem sendH (a : BitVec 5) (b : BitVec 5) : Statement (.sendH a b) := by
  refine of_word rfl fun w hw => ?_
  have := a.isLt; have := b.isLt
  rw [major35 w (by omega)]
  simp only [decodeMajor35, show w / 1 % 512 = 0 by omega, show w / 524288 % 32 = 0 by omega, fld_eq a (w / 16384) (by norm_num; omega), fld_eq b (w / 512) (by norm_num; omega), Nat.reduceEqDiff, OfNat.ofNat_ne_zero, and_self, and_true, true_and, false_and, and_false, reduceIte]
theorem sendP (d : BitVec 5) : Statement (.sendP d) := by
  refine of_word rfl fun w hw => ?_
  have := d.isLt
  rw [major35 w (by omega)]
  simp only [decodeMajor35, show w / 1 % 512 = 1 by omega, show w / 1 % 524288 = 1 by omega, fld_eq d (w / 524288) (by norm_num; omega), Nat.reduceEqDiff, OfNat.ofNat_ne_zero, and_self, and_true, true_and, false_and, and_false, reduceIte]
theorem sendHe (a : BitVec 5) (b : BitVec 5) : Statement (.sendHe a b) := by
  refine of_word rfl fun w hw => ?_
  have := a.isLt; have := b.isLt
  rw [major35 w (by omega)]
  simp only [decodeMajor35, show w / 1 % 512 = 2 by omega, show w / 524288 % 32 = 0 by omega, show ¬ w / 1 % 524288 = 1 by omega, fld_eq a (w / 16384) (by norm_num; omega), fld_eq b (w / 512) (by norm_num; omega), Nat.reduceEqDiff, OfNat.ofNat_ne_zero, and_self, and_true, true_and, false_and, and_false, reduceIte]
theorem sendPe (d : BitVec 5) : Statement (.sendPe d) := by
  refine of_word rfl fun w hw => ?_
  have := d.isLt
  rw [major35 w (by omega)]
  simp only [decodeMajor35, show w / 1 % 512 = 3 by omega, show w / 1 % 524288 = 3 by omega, fld_eq d (w / 524288) (by norm_num; omega), Nat.reduceEqDiff, OfNat.ofNat_ne_zero, and_self, and_true, true_and, false_and, and_false, reduceIte]
theorem recv (d : BitVec 5) (a : BitVec 5) (s : BitVec 4) : Statement (.recv d a s) := by
  refine of_word rfl fun w hw => ?_
  have := d.isLt; have := a.isLt; have := s.isLt
  rw [major36 w (by omega)]
  simp only [decodeMajor36, show w / 1 % 16 = 0 by omega, show w / 256 % 64 = 0 by omega, fld_eq d (w / 524288) (by norm_num; omega), fld_eq a (w / 16384) (by norm_num; omega), fld_eq s (w / 16) (by norm_num; omega), Nat.reduceEqDiff, OfNat.ofNat_ne_zero, and_self, and_true, true_and, false_and, and_false, reduceIte]
theorem recvDl (d : BitVec 5) (a : BitVec 5) (b : BitVec 5) (s : BitVec 4) : Statement (.recvDl d a b s) := by
  refine of_word rfl fun w hw => ?_
  have := d.isLt; have := a.isLt; have := b.isLt; have := s.isLt
  rw [major36 w (by omega)]
  simp only [decodeMajor36, show w / 1 % 16 = 0 by omega, show ¬ w / 256 % 64 = 0 by omega, show w / 256 % 2 = 1 by omega, fld_eq d (w / 524288) (by norm_num; omega), fld_eq a (w / 16384) (by norm_num; omega), fld_eq b (w / 512) (by norm_num; omega), fld_eq s (w / 16) (by norm_num; omega), Nat.reduceEqDiff, OfNat.ofNat_ne_zero, and_self, and_true, true_and, false_and, and_false, reduceIte]
theorem bar (a : BitVec 5) : Statement (.bar a) := by
  refine of_word rfl fun w hw => ?_
  have := a.isLt
  rw [major37 w (by omega)]
  simp only [decodeMajor37, show w / 1 % 16384 = 0 by omega, show w / 524288 % 32 = 0 by omega, fld_eq a (w / 16384) (by norm_num; omega), Nat.reduceEqDiff, OfNat.ofNat_ne_zero, and_self, and_true, true_and, false_and, and_false, reduceIte]
theorem xcopy (d : BitVec 5) (s : BitVec 4) : Statement (.xcopy d s) := by
  refine of_word rfl fun w hw => ?_
  have := d.isLt; have := s.isLt
  rw [major40 w (by omega)]
  simp only [decodeMajor40, show w / 16 % 32768 = 0 by omega, fld_eq d (w / 524288) (by norm_num; omega), fld_eq s (w / 1) (by norm_num; omega), Nat.reduceEqDiff, OfNat.ofNat_ne_zero, and_self, and_true, true_and, false_and, and_false, reduceIte]
theorem xgather (d : BitVec 5) (s : BitVec 4) : Statement (.xgather d s) := by
  refine of_word rfl fun w hw => ?_
  have := d.isLt; have := s.isLt
  rw [major41 w (by omega)]
  simp only [decodeMajor41, show w / 16 % 32768 = 0 by omega, fld_eq d (w / 524288) (by norm_num; omega), fld_eq s (w / 1) (by norm_num; omega), Nat.reduceEqDiff, OfNat.ofNat_ne_zero, and_self, and_true, true_and, false_and, and_false, reduceIte]
theorem xscatter (d : BitVec 5) (s : BitVec 4) : Statement (.xscatter d s) := by
  refine of_word rfl fun w hw => ?_
  have := d.isLt; have := s.isLt
  rw [major42 w (by omega)]
  simp only [decodeMajor42, show w / 16 % 32768 = 0 by omega, fld_eq d (w / 524288) (by norm_num; omega), fld_eq s (w / 1) (by norm_num; omega), Nat.reduceEqDiff, OfNat.ofNat_ne_zero, and_self, and_true, true_and, false_and, and_false, reduceIte]
theorem xreduce (d : BitVec 5) (s : BitVec 4) : Statement (.xreduce d s) := by
  refine of_word rfl fun w hw => ?_
  have := d.isLt; have := s.isLt
  rw [major43 w (by omega)]
  simp only [decodeMajor43, show w / 16 % 32768 = 0 by omega, fld_eq d (w / 524288) (by norm_num; omega), fld_eq s (w / 1) (by norm_num; omega), Nat.reduceEqDiff, OfNat.ofNat_ne_zero, and_self, and_true, true_and, false_and, and_false, reduceIte]
theorem sbind (d : BitVec 5) (s : BitVec 4) : Statement (.sbind d s) := by
  refine of_word rfl fun w hw => ?_
  have := d.isLt; have := s.isLt
  rw [major44 w (by omega)]
  simp only [decodeMajor44, show w / 16 % 32768 = 0 by omega, fld_eq d (w / 524288) (by norm_num; omega), fld_eq s (w / 1) (by norm_num; omega), Nat.reduceEqDiff, OfNat.ofNat_ne_zero, and_self, and_true, true_and, false_and, and_false, reduceIte]
theorem sunbind (d : BitVec 5) : Statement (.sunbind d) := by
  refine of_word rfl fun w hw => ?_
  have := d.isLt
  rw [major45 w (by omega)]
  simp only [decodeMajor45, show w / 1 % 524288 = 0 by omega, fld_eq d (w / 524288) (by norm_num; omega), Nat.reduceEqDiff, OfNat.ofNat_ne_zero, and_self, and_true, true_and, false_and, and_false, reduceIte]
theorem tbinit (a : BitVec 5) (t : BitVec 4) : Statement (.tbinit a t) := by
  refine of_word rfl fun w hw => ?_
  have := a.isLt; have := t.isLt
  rw [major46 w (by omega)]
  simp only [decodeMajor46, show w / 16 % 1024 = 0 by omega, show w / 524288 % 32 = 0 by omega, fld_eq a (w / 16384) (by norm_num; omega), fld_eq t (w / 1) (by norm_num; omega), Nat.reduceEqDiff, OfNat.ofNat_ne_zero, and_self, and_true, true_and, false_and, and_false, reduceIte]
theorem tbwait (a : BitVec 5) (t : BitVec 4) : Statement (.tbwait a t) := by
  refine of_word rfl fun w hw => ?_
  have := a.isLt; have := t.isLt
  rw [major47 w (by omega)]
  simp only [decodeMajor47, show w / 16 % 1024 = 0 by omega, show w / 524288 % 32 = 0 by omega, fld_eq a (w / 16384) (by norm_num; omega), fld_eq t (w / 1) (by norm_num; omega), Nat.reduceEqDiff, OfNat.ofNat_ne_zero, and_self, and_true, true_and, false_and, and_false, reduceIte]
theorem skdef (a : BitVec 5) (s : BitVec 4) : Statement (.skdef a s) := by
  refine of_word rfl fun w hw => ?_
  have := a.isLt; have := s.isLt
  rw [major48 w (by omega)]
  simp only [decodeMajor48, show w / 16 % 1024 = 0 by omega, show w / 524288 % 32 = 0 by omega, fld_eq a (w / 16384) (by norm_num; omega), fld_eq s (w / 1) (by norm_num; omega), Nat.reduceEqDiff, OfNat.ofNat_ne_zero, and_self, and_true, true_and, false_and, and_false, reduceIte]
theorem skupd (a : BitVec 5) (s : BitVec 4) : Statement (.skupd a s) := by
  refine of_word rfl fun w hw => ?_
  have := a.isLt; have := s.isLt
  rw [major49 w (by omega)]
  simp only [decodeMajor49, show w / 16 % 1024 = 0 by omega, show w / 524288 % 32 = 0 by omega, fld_eq a (w / 16384) (by norm_num; omega), fld_eq s (w / 1) (by norm_num; omega), Nat.reduceEqDiff, OfNat.ofNat_ne_zero, and_self, and_true, true_and, false_and, and_false, reduceIte]
theorem skupdv (a : BitVec 5) (b : BitVec 5) (s : BitVec 4) : Statement (.skupdv a b s) := by
  refine of_word rfl fun w hw => ?_
  have := a.isLt; have := b.isLt; have := s.isLt
  rw [major50 w (by omega)]
  simp only [decodeMajor50, show w / 16 % 32 = 0 by omega, show w / 524288 % 32 = 0 by omega, fld_eq a (w / 16384) (by norm_num; omega), fld_eq b (w / 512) (by norm_num; omega), fld_eq s (w / 1) (by norm_num; omega), Nat.reduceEqDiff, OfNat.ofNat_ne_zero, and_self, and_true, true_and, false_and, and_false, reduceIte]
theorem skqry (d : BitVec 5) (a : BitVec 5) (s : BitVec 4) : Statement (.skqry d a s) := by
  refine of_word rfl fun w hw => ?_
  have := d.isLt; have := a.isLt; have := s.isLt
  rw [major51 w (by omega)]
  simp only [decodeMajor51, show w / 16 % 1024 = 0 by omega, fld_eq d (w / 524288) (by norm_num; omega), fld_eq a (w / 16384) (by norm_num; omega), fld_eq s (w / 1) (by norm_num; omega), Nat.reduceEqDiff, OfNat.ofNat_ne_zero, and_self, and_true, true_and, false_and, and_false, reduceIte]
theorem skadd (d : BitVec 5) (s : BitVec 4) : Statement (.skadd d s) := by
  refine of_word rfl fun w hw => ?_
  have := d.isLt; have := s.isLt
  rw [major52 w (by omega)]
  simp only [decodeMajor52, show w / 16 % 32768 = 0 by omega, fld_eq d (w / 524288) (by norm_num; omega), fld_eq s (w / 1) (by norm_num; omega), Nat.reduceEqDiff, OfNat.ofNat_ne_zero, and_self, and_true, true_and, false_and, and_false, reduceIte]
theorem skscl (a : BitVec 5) (b : BitVec 5) : Statement (.skscl a b) := by
  refine of_word rfl fun w hw => ?_
  have := a.isLt; have := b.isLt
  rw [major53 w (by omega)]
  simp only [decodeMajor53, show w / 1 % 512 = 0 by omega, show w / 524288 % 32 = 0 by omega, fld_eq a (w / 16384) (by norm_num; omega), fld_eq b (w / 512) (by norm_num; omega), Nat.reduceEqDiff, OfNat.ofNat_ne_zero, and_self, and_true, true_and, false_and, and_false, reduceIte]
theorem skclr (a : BitVec 5) : Statement (.skclr a) := by
  refine of_word rfl fun w hw => ?_
  have := a.isLt
  rw [major54 w (by omega)]
  simp only [decodeMajor54, show w / 1 % 16384 = 0 by omega, show w / 524288 % 32 = 0 by omega, fld_eq a (w / 16384) (by norm_num; omega), Nat.reduceEqDiff, OfNat.ofNat_ne_zero, and_self, and_true, true_and, false_and, and_false, reduceIte]
theorem skstat (d : BitVec 5) (a : BitVec 5) (c : BitVec 1) : Statement (.skstat d a c) := by
  refine of_word rfl fun w hw => ?_
  have := d.isLt; have := a.isLt; have := c.isLt
  rw [major55 w (by omega)]
  simp only [decodeMajor55, show w / 2 % 8192 = 0 by omega, fld_eq d (w / 524288) (by norm_num; omega), fld_eq a (w / 16384) (by norm_num; omega), fld_eq c (w / 1) (by norm_num; omega), Nat.reduceEqDiff, OfNat.ofNat_ne_zero, and_self, and_true, true_and, false_and, and_false, reduceIte]
theorem gdef (d : BitVec 5) (a : BitVec 5) (s : BitVec 4) : Statement (.gdef d a s) := by
  refine of_word rfl fun w hw => ?_
  have := d.isLt; have := a.isLt; have := s.isLt
  rw [major56 w (by omega)]
  simp only [decodeMajor56, show w / 16 % 1024 = 0 by omega, fld_eq d (w / 524288) (by norm_num; omega), fld_eq a (w / 16384) (by norm_num; omega), fld_eq s (w / 1) (by norm_num; omega), Nat.reduceEqDiff, OfNat.ofNat_ne_zero, and_self, and_true, true_and, false_and, and_false, reduceIte]
theorem gdel (a : BitVec 5) : Statement (.gdel a) := by
  refine of_word rfl fun w hw => ?_
  have := a.isLt
  rw [major57 w (by omega)]
  simp only [decodeMajor57, show w / 1 % 16384 = 0 by omega, show w / 524288 % 32 = 0 by omega, fld_eq a (w / 16384) (by norm_num; omega), Nat.reduceEqDiff, OfNat.ofNat_ne_zero, and_self, and_true, true_and, false_and, and_false, reduceIte]
theorem apply (d : BitVec 5) (a : BitVec 5) (b : BitVec 5) : Statement (.apply d a b) := by
  refine of_word rfl fun w hw => ?_
  have := d.isLt; have := a.isLt; have := b.isLt
  rw [major58 w (by omega)]
  simp only [decodeMajor58, show w / 1 % 512 = 0 by omega, fld_eq d (w / 524288) (by norm_num; omega), fld_eq a (w / 16384) (by norm_num; omega), fld_eq b (w / 512) (by norm_num; omega), Nat.reduceEqDiff, OfNat.ofNat_ne_zero, and_self, and_true, true_and, false_and, and_false, reduceIte]
theorem applyq (d : BitVec 5) (a : BitVec 5) (b : BitVec 5) : Statement (.applyq d a b) := by
  refine of_word rfl fun w hw => ?_
  have := d.isLt; have := a.isLt; have := b.isLt
  rw [major58 w (by omega)]
  simp only [decodeMajor58, show w / 1 % 512 = 1 by omega, fld_eq d (w / 524288) (by norm_num; omega), fld_eq a (w / 16384) (by norm_num; omega), fld_eq b (w / 512) (by norm_num; omega), Nat.reduceEqDiff, OfNat.ofNat_ne_zero, and_self, and_true, true_and, false_and, and_false, reduceIte]
theorem nwait (d : BitVec 5) (a : BitVec 5) : Statement (.nwait d a) := by
  refine of_word rfl fun w hw => ?_
  have := d.isLt; have := a.isLt
  rw [major59 w (by omega)]
  simp only [decodeMajor59, show w / 1 % 16384 = 0 by omega, fld_eq d (w / 524288) (by norm_num; omega), fld_eq a (w / 16384) (by norm_num; omega), Nat.reduceEqDiff, OfNat.ofNat_ne_zero, and_self, and_true, true_and, false_and, and_false, reduceIte]
theorem nabort (a : BitVec 5) : Statement (.nabort a) := by
  refine of_word rfl fun w hw => ?_
  have := a.isLt
  rw [major60 w (by omega)]
  simp only [decodeMajor60, show w / 1 % 16384 = 0 by omega, show w / 524288 % 32 = 0 by omega, fld_eq a (w / 16384) (by norm_num; omega), Nat.reduceEqDiff, OfNat.ofNat_ne_zero, and_self, and_true, true_and, false_and, and_false, reduceIte]
theorem cyield (d : BitVec 5) (a : BitVec 5) : Statement (.cyield d a) := by
  refine of_word rfl fun w hw => ?_
  have := d.isLt; have := a.isLt
  rw [major61 w (by omega)]
  simp only [decodeMajor61, show w / 1 % 16384 = 0 by omega, fld_eq d (w / 524288) (by norm_num; omega), fld_eq a (w / 16384) (by norm_num; omega), Nat.reduceEqDiff, OfNat.ofNat_ne_zero, and_self, and_true, true_and, false_and, and_false, reduceIte]
theorem cresume (d : BitVec 5) (a : BitVec 5) (b : BitVec 5) : Statement (.cresume d a b) := by
  refine of_word rfl fun w hw => ?_
  have := d.isLt; have := a.isLt; have := b.isLt
  rw [major61 w (by omega)]
  simp only [decodeMajor61, show ¬ w / 1 % 16384 = 0 by omega, show w / 1 % 512 = 1 by omega, fld_eq d (w / 524288) (by norm_num; omega), fld_eq a (w / 16384) (by norm_num; omega), fld_eq b (w / 512) (by norm_num; omega), Nat.reduceEqDiff, OfNat.ofNat_ne_zero, and_self, and_true, true_and, false_and, and_false, reduceIte]
theorem csrr (d : BitVec 5) (n : BitVec 12) : Statement (.csrr d n) := by
  refine of_word rfl fun w hw => ?_
  have := d.isLt; have := n.isLt
  rw [major62 w (by omega)]
  simp only [decodeMajor62, show w / 4096 % 128 = 0 by omega, fld_eq d (w / 524288) (by norm_num; omega), fld_eq n (w / 1) (by norm_num; omega), Nat.reduceEqDiff, OfNat.ofNat_ne_zero, and_self, and_true, true_and, false_and, and_false, reduceIte]
theorem csrw (d : BitVec 5) (a : BitVec 5) (n : BitVec 12) : Statement (.csrw d a n) := by
  refine of_word rfl fun w hw => ?_
  have := d.isLt; have := a.isLt; have := n.isLt
  rw [major62 w (by omega)]
  simp only [decodeMajor62, show ¬ w / 4096 % 128 = 0 by omega, show w / 4096 % 4 = 1 by omega, fld_eq d (w / 524288) (by norm_num; omega), fld_eq a (w / 16384) (by norm_num; omega), fld_eq n (w / 1) (by norm_num; omega), Nat.reduceEqDiff, OfNat.ofNat_ne_zero, and_self, and_true, true_and, false_and, and_false, reduceIte]
theorem csrs (d : BitVec 5) (a : BitVec 5) (n : BitVec 12) : Statement (.csrs d a n) := by
  refine of_word rfl fun w hw => ?_
  have := d.isLt; have := a.isLt; have := n.isLt
  rw [major62 w (by omega)]
  simp only [decodeMajor62, show ¬ w / 4096 % 128 = 0 by omega, show w / 4096 % 4 = 2 by omega, fld_eq d (w / 524288) (by norm_num; omega), fld_eq a (w / 16384) (by norm_num; omega), fld_eq n (w / 1) (by norm_num; omega), Nat.reduceEqDiff, OfNat.ofNat_ne_zero, and_self, and_true, true_and, false_and, and_false, reduceIte]
theorem csrc (d : BitVec 5) (a : BitVec 5) (n : BitVec 12) : Statement (.csrc d a n) := by
  refine of_word rfl fun w hw => ?_
  have := d.isLt; have := a.isLt; have := n.isLt
  rw [major62 w (by omega)]
  simp only [decodeMajor62, show ¬ w / 4096 % 128 = 0 by omega, show w / 4096 % 4 = 3 by omega, fld_eq d (w / 524288) (by norm_num; omega), fld_eq a (w / 16384) (by norm_num; omega), fld_eq n (w / 1) (by norm_num; omega), Nat.reduceEqDiff, OfNat.ofNat_ne_zero, and_self, and_true, true_and, false_and, and_false, reduceIte]
theorem launch (b : BitVec 5) : Statement (.launch b) := by
  refine of_word rfl fun w hw => ?_
  have := b.isLt
  rw [major63 w (by omega)]
  simp only [decodeMajor63, show w / 1 % 512 = 0 by omega, show w / 16384 % 1024 = 0 by omega, fld_eq b (w / 512) (by norm_num; omega), Nat.reduceEqDiff, OfNat.ofNat_ne_zero, and_self, and_true, true_and, false_and, and_false, reduceIte]
theorem launchq (d : BitVec 5) (b : BitVec 5) : Statement (.launchq d b) := by
  refine of_word rfl fun w hw => ?_
  have := d.isLt; have := b.isLt
  rw [major63 w (by omega)]
  simp only [decodeMajor63, show w / 1 % 512 = 1 by omega, show w / 16384 % 32 = 0 by omega, fld_eq d (w / 524288) (by norm_num; omega), fld_eq b (w / 512) (by norm_num; omega), Nat.reduceEqDiff, OfNat.ofNat_ne_zero, and_self, and_true, true_and, false_and, and_false, reduceIte]
theorem signal (a : BitVec 5) : Statement (.signal a) := by
  refine of_word rfl fun w hw => ?_
  have := a.isLt
  rw [major63 w (by omega)]
  simp only [decodeMajor63, show w / 1 % 512 = 2 by omega, show w / 1 % 16384 = 2 by omega, show w / 524288 % 32 = 0 by omega, fld_eq a (w / 16384) (by norm_num; omega), Nat.reduceEqDiff, OfNat.ofNat_ne_zero, and_self, and_true, true_and, false_and, and_false, reduceIte]
theorem nbcmd (d : BitVec 5) (b : BitVec 5) : Statement (.nbcmd d b) := by
  refine of_word rfl fun w hw => ?_
  have := d.isLt; have := b.isLt
  rw [major63 w (by omega)]
  simp only [decodeMajor63, show w / 1 % 512 = 3 by omega, show w / 16384 % 32 = 0 by omega, show ¬ w / 1 % 16384 = 2 by omega, fld_eq d (w / 524288) (by norm_num; omega), fld_eq b (w / 512) (by norm_num; omega), Nat.reduceEqDiff, OfNat.ofNat_ne_zero, and_self, and_true, true_and, false_and, and_false, reduceIte]
theorem nhsend (a : BitVec 5) (b : BitVec 5) : Statement (.nhsend a b) := by
  refine of_word rfl fun w hw => ?_
  have := a.isLt; have := b.isLt
  rw [major63 w (by omega)]
  simp only [decodeMajor63, show w / 1 % 512 = 4 by omega, show ¬ w / 1 % 16384 = 2 by omega, show w / 524288 % 32 = 0 by omega, fld_eq a (w / 16384) (by norm_num; omega), fld_eq b (w / 512) (by norm_num; omega), Nat.reduceEqDiff, OfNat.ofNat_ne_zero, and_self, and_true, true_and, false_and, and_false, reduceIte]
theorem add (d : BitVec 5) (a : BitVec 5) (b : BitVec 5) : Statement (.add d a b) := by
  refine of_word rfl fun w hw => ?_
  have := d.isLt; have := a.isLt; have := b.isLt
  rw [major64 w (by omega)]
  simp only [decodeMajor64, show w / 1 % 512 = 0 by omega, fld_eq d (w / 524288) (by norm_num; omega), fld_eq a (w / 16384) (by norm_num; omega), fld_eq b (w / 512) (by norm_num; omega), Nat.reduceEqDiff, OfNat.ofNat_ne_zero, and_self, and_true, true_and, false_and, and_false, reduceIte]
theorem sub (d : BitVec 5) (a : BitVec 5) (b : BitVec 5) : Statement (.sub d a b) := by
  refine of_word rfl fun w hw => ?_
  have := d.isLt; have := a.isLt; have := b.isLt
  rw [major64 w (by omega)]
  simp only [decodeMajor64, show w / 1 % 512 = 1 by omega, fld_eq d (w / 524288) (by norm_num; omega), fld_eq a (w / 16384) (by norm_num; omega), fld_eq b (w / 512) (by norm_num; omega), Nat.reduceEqDiff, OfNat.ofNat_ne_zero, and_self, and_true, true_and, false_and, and_false, reduceIte]
theorem and (d : BitVec 5) (a : BitVec 5) (b : BitVec 5) : Statement (.and d a b) := by
  refine of_word rfl fun w hw => ?_
  have := d.isLt; have := a.isLt; have := b.isLt
  rw [major64 w (by omega)]
  simp only [decodeMajor64, show w / 1 % 512 = 2 by omega, fld_eq d (w / 524288) (by norm_num; omega), fld_eq a (w / 16384) (by norm_num; omega), fld_eq b (w / 512) (by norm_num; omega), Nat.reduceEqDiff, OfNat.ofNat_ne_zero, and_self, and_true, true_and, false_and, and_false, reduceIte]
theorem or (d : BitVec 5) (a : BitVec 5) (b : BitVec 5) : Statement (.or d a b) := by
  refine of_word rfl fun w hw => ?_
  have := d.isLt; have := a.isLt; have := b.isLt
  rw [major64 w (by omega)]
  simp only [decodeMajor64, show w / 1 % 512 = 3 by omega, fld_eq d (w / 524288) (by norm_num; omega), fld_eq a (w / 16384) (by norm_num; omega), fld_eq b (w / 512) (by norm_num; omega), Nat.reduceEqDiff, OfNat.ofNat_ne_zero, and_self, and_true, true_and, false_and, and_false, reduceIte]
theorem xor (d : BitVec 5) (a : BitVec 5) (b : BitVec 5) : Statement (.xor d a b) := by
  refine of_word rfl fun w hw => ?_
  have := d.isLt; have := a.isLt; have := b.isLt
  rw [major64 w (by omega)]
  simp only [decodeMajor64, show w / 1 % 512 = 4 by omega, fld_eq d (w / 524288) (by norm_num; omega), fld_eq a (w / 16384) (by norm_num; omega), fld_eq b (w / 512) (by norm_num; omega), Nat.reduceEqDiff, OfNat.ofNat_ne_zero, and_self, and_true, true_and, false_and, and_false, reduceIte]
theorem andn (d : BitVec 5) (a : BitVec 5) (b : BitVec 5) : Statement (.andn d a b) := by
  refine of_word rfl fun w hw => ?_
  have := d.isLt; have := a.isLt; have := b.isLt
  rw [major64 w (by omega)]
  simp only [decodeMajor64, show w / 1 % 512 = 5 by omega, fld_eq d (w / 524288) (by norm_num; omega), fld_eq a (w / 16384) (by norm_num; omega), fld_eq b (w / 512) (by norm_num; omega), Nat.reduceEqDiff, OfNat.ofNat_ne_zero, and_self, and_true, true_and, false_and, and_false, reduceIte]
theorem shl (d : BitVec 5) (a : BitVec 5) (b : BitVec 5) : Statement (.shl d a b) := by
  refine of_word rfl fun w hw => ?_
  have := d.isLt; have := a.isLt; have := b.isLt
  rw [major64 w (by omega)]
  simp only [decodeMajor64, show w / 1 % 512 = 6 by omega, fld_eq d (w / 524288) (by norm_num; omega), fld_eq a (w / 16384) (by norm_num; omega), fld_eq b (w / 512) (by norm_num; omega), Nat.reduceEqDiff, OfNat.ofNat_ne_zero, and_self, and_true, true_and, false_and, and_false, reduceIte]
theorem shr (d : BitVec 5) (a : BitVec 5) (b : BitVec 5) : Statement (.shr d a b) := by
  refine of_word rfl fun w hw => ?_
  have := d.isLt; have := a.isLt; have := b.isLt
  rw [major64 w (by omega)]
  simp only [decodeMajor64, show w / 1 % 512 = 7 by omega, fld_eq d (w / 524288) (by norm_num; omega), fld_eq a (w / 16384) (by norm_num; omega), fld_eq b (w / 512) (by norm_num; omega), Nat.reduceEqDiff, OfNat.ofNat_ne_zero, and_self, and_true, true_and, false_and, and_false, reduceIte]
theorem sar (d : BitVec 5) (a : BitVec 5) (b : BitVec 5) : Statement (.sar d a b) := by
  refine of_word rfl fun w hw => ?_
  have := d.isLt; have := a.isLt; have := b.isLt
  rw [major64 w (by omega)]
  simp only [decodeMajor64, show w / 1 % 512 = 8 by omega, fld_eq d (w / 524288) (by norm_num; omega), fld_eq a (w / 16384) (by norm_num; omega), fld_eq b (w / 512) (by norm_num; omega), Nat.reduceEqDiff, OfNat.ofNat_ne_zero, and_self, and_true, true_and, false_and, and_false, reduceIte]
theorem rol (d : BitVec 5) (a : BitVec 5) (b : BitVec 5) : Statement (.rol d a b) := by
  refine of_word rfl fun w hw => ?_
  have := d.isLt; have := a.isLt; have := b.isLt
  rw [major64 w (by omega)]
  simp only [decodeMajor64, show w / 1 % 512 = 9 by omega, fld_eq d (w / 524288) (by norm_num; omega), fld_eq a (w / 16384) (by norm_num; omega), fld_eq b (w / 512) (by norm_num; omega), Nat.reduceEqDiff, OfNat.ofNat_ne_zero, and_self, and_true, true_and, false_and, and_false, reduceIte]
theorem ror (d : BitVec 5) (a : BitVec 5) (b : BitVec 5) : Statement (.ror d a b) := by
  refine of_word rfl fun w hw => ?_
  have := d.isLt; have := a.isLt; have := b.isLt
  rw [major64 w (by omega)]
  simp only [decodeMajor64, show w / 1 % 512 = 10 by omega, fld_eq d (w / 524288) (by norm_num; omega), fld_eq a (w / 16384) (by norm_num; omega), fld_eq b (w / 512) (by norm_num; omega), Nat.reduceEqDiff, OfNat.ofNat_ne_zero, and_self, and_true, true_and, false_and, and_false, reduceIte]
theorem min (d : BitVec 5) (a : BitVec 5) (b : BitVec 5) : Statement (.min d a b) := by
  refine of_word rfl fun w hw => ?_
  have := d.isLt; have := a.isLt; have := b.isLt
  rw [major64 w (by omega)]
  simp only [decodeMajor64, show w / 1 % 512 = 11 by omega, fld_eq d (w / 524288) (by norm_num; omega), fld_eq a (w / 16384) (by norm_num; omega), fld_eq b (w / 512) (by norm_num; omega), Nat.reduceEqDiff, OfNat.ofNat_ne_zero, and_self, and_true, true_and, false_and, and_false, reduceIte]
theorem max (d : BitVec 5) (a : BitVec 5) (b : BitVec 5) : Statement (.max d a b) := by
  refine of_word rfl fun w hw => ?_
  have := d.isLt; have := a.isLt; have := b.isLt
  rw [major64 w (by omega)]
  simp only [decodeMajor64, show w / 1 % 512 = 12 by omega, fld_eq d (w / 524288) (by norm_num; omega), fld_eq a (w / 16384) (by norm_num; omega), fld_eq b (w / 512) (by norm_num; omega), Nat.reduceEqDiff, OfNat.ofNat_ne_zero, and_self, and_true, true_and, false_and, and_false, reduceIte]
theorem minu (d : BitVec 5) (a : BitVec 5) (b : BitVec 5) : Statement (.minu d a b) := by
  refine of_word rfl fun w hw => ?_
  have := d.isLt; have := a.isLt; have := b.isLt
  rw [major64 w (by omega)]
  simp only [decodeMajor64, show w / 1 % 512 = 13 by omega, fld_eq d (w / 524288) (by norm_num; omega), fld_eq a (w / 16384) (by norm_num; omega), fld_eq b (w / 512) (by norm_num; omega), Nat.reduceEqDiff, OfNat.ofNat_ne_zero, and_self, and_true, true_and, false_and, and_false, reduceIte]
theorem maxu (d : BitVec 5) (a : BitVec 5) (b : BitVec 5) : Statement (.maxu d a b) := by
  refine of_word rfl fun w hw => ?_
  have := d.isLt; have := a.isLt; have := b.isLt
  rw [major64 w (by omega)]
  simp only [decodeMajor64, show w / 1 % 512 = 14 by omega, fld_eq d (w / 524288) (by norm_num; omega), fld_eq a (w / 16384) (by norm_num; omega), fld_eq b (w / 512) (by norm_num; omega), Nat.reduceEqDiff, OfNat.ofNat_ne_zero, and_self, and_true, true_and, false_and, and_false, reduceIte]
theorem slt (d : BitVec 5) (a : BitVec 5) (b : BitVec 5) : Statement (.slt d a b) := by
  refine of_word rfl fun w hw => ?_
  have := d.isLt; have := a.isLt; have := b.isLt
  rw [major64 w (by omega)]
  simp only [decodeMajor64, show w / 1 % 512 = 15 by omega, fld_eq d (w / 524288) (by norm_num; omega), fld_eq a (w / 16384) (by norm_num; omega), fld_eq b (w / 512) (by norm_num; omega), Nat.reduceEqDiff, OfNat.ofNat_ne_zero, and_self, and_true, true_and, false_and, and_false, reduceIte]
theorem sltu (d : BitVec 5) (a : BitVec 5) (b : BitVec 5) : Statement (.sltu d a b) := by
  refine of_word rfl fun w hw => ?_
  have := d.isLt; have := a.isLt; have := b.isLt
  rw [major64 w (by omega)]
  simp only [decodeMajor64, show w / 1 % 512 = 16 by omega, fld_eq d (w / 524288) (by norm_num; omega), fld_eq a (w / 16384) (by norm_num; omega), fld_eq b (w / 512) (by norm_num; omega), Nat.reduceEqDiff, OfNat.ofNat_ne_zero, and_self, and_true, true_and, false_and, and_false, reduceIte]
theorem seq (d : BitVec 5) (a : BitVec 5) (b : BitVec 5) : Statement (.seq d a b) := by
  refine of_word rfl fun w hw => ?_
  have := d.isLt; have := a.isLt; have := b.isLt
  rw [major64 w (by omega)]
  simp only [decodeMajor64, show w / 1 % 512 = 17 by omega, fld_eq d (w / 524288) (by norm_num; omega), fld_eq a (w / 16384) (by norm_num; omega), fld_eq b (w / 512) (by norm_num; omega), Nat.reduceEqDiff, OfNat.ofNat_ne_zero, and_self, and_true, true_and, false_and, and_false, reduceIte]
theorem sne (d : BitVec 5) (a : BitVec 5) (b : BitVec 5) : Statement (.sne d a b) := by
  refine of_word rfl fun w hw => ?_
  have := d.isLt; have := a.isLt; have := b.isLt
  rw [major64 w (by omega)]
  simp only [decodeMajor64, show w / 1 % 512 = 18 by omega, fld_eq d (w / 524288) (by norm_num; omega), fld_eq a (w / 16384) (by norm_num; omega), fld_eq b (w / 512) (by norm_num; omega), Nat.reduceEqDiff, OfNat.ofNat_ne_zero, and_self, and_true, true_and, false_and, and_false, reduceIte]
theorem cmovz (d : BitVec 5) (a : BitVec 5) (b : BitVec 5) : Statement (.cmovz d a b) := by
  refine of_word rfl fun w hw => ?_
  have := d.isLt; have := a.isLt; have := b.isLt
  rw [major64 w (by omega)]
  simp only [decodeMajor64, show w / 1 % 512 = 19 by omega, fld_eq d (w / 524288) (by norm_num; omega), fld_eq a (w / 16384) (by norm_num; omega), fld_eq b (w / 512) (by norm_num; omega), Nat.reduceEqDiff, OfNat.ofNat_ne_zero, and_self, and_true, true_and, false_and, and_false, reduceIte]
theorem cmovnz (d : BitVec 5) (a : BitVec 5) (b : BitVec 5) : Statement (.cmovnz d a b) := by
  refine of_word rfl fun w hw => ?_
  have := d.isLt; have := a.isLt; have := b.isLt
  rw [major64 w (by omega)]
  simp only [decodeMajor64, show w / 1 % 512 = 20 by omega, fld_eq d (w / 524288) (by norm_num; omega), fld_eq a (w / 16384) (by norm_num; omega), fld_eq b (w / 512) (by norm_num; omega), Nat.reduceEqDiff, OfNat.ofNat_ne_zero, and_self, and_true, true_and, false_and, and_false, reduceIte]
theorem addw (d : BitVec 5) (a : BitVec 5) (b : BitVec 5) : Statement (.addw d a b) := by
  refine of_word rfl fun w hw => ?_
  have := d.isLt; have := a.isLt; have := b.isLt
  rw [major64 w (by omega)]
  simp only [decodeMajor64, show w / 1 % 512 = 21 by omega, fld_eq d (w / 524288) (by norm_num; omega), fld_eq a (w / 16384) (by norm_num; omega), fld_eq b (w / 512) (by norm_num; omega), Nat.reduceEqDiff, OfNat.ofNat_ne_zero, and_self, and_true, true_and, false_and, and_false, reduceIte]
theorem subw (d : BitVec 5) (a : BitVec 5) (b : BitVec 5) : Statement (.subw d a b) := by
  refine of_word rfl fun w hw => ?_
  have := d.isLt; have := a.isLt; have := b.isLt
  rw [major64 w (by omega)]
  simp only [decodeMajor64, show w / 1 % 512 = 22 by omega, fld_eq d (w / 524288) (by norm_num; omega), fld_eq a (w / 16384) (by norm_num; omega), fld_eq b (w / 512) (by norm_num; omega), Nat.reduceEqDiff, OfNat.ofNat_ne_zero, and_self, and_true, true_and, false_and, and_false, reduceIte]
theorem shlw (d : BitVec 5) (a : BitVec 5) (b : BitVec 5) : Statement (.shlw d a b) := by
  refine of_word rfl fun w hw => ?_
  have := d.isLt; have := a.isLt; have := b.isLt
  rw [major64 w (by omega)]
  simp only [decodeMajor64, show w / 1 % 512 = 23 by omega, fld_eq d (w / 524288) (by norm_num; omega), fld_eq a (w / 16384) (by norm_num; omega), fld_eq b (w / 512) (by norm_num; omega), Nat.reduceEqDiff, OfNat.ofNat_ne_zero, and_self, and_true, true_and, false_and, and_false, reduceIte]
theorem shrw (d : BitVec 5) (a : BitVec 5) (b : BitVec 5) : Statement (.shrw d a b) := by
  refine of_word rfl fun w hw => ?_
  have := d.isLt; have := a.isLt; have := b.isLt
  rw [major64 w (by omega)]
  simp only [decodeMajor64, show w / 1 % 512 = 24 by omega, fld_eq d (w / 524288) (by norm_num; omega), fld_eq a (w / 16384) (by norm_num; omega), fld_eq b (w / 512) (by norm_num; omega), Nat.reduceEqDiff, OfNat.ofNat_ne_zero, and_self, and_true, true_and, false_and, and_false, reduceIte]
theorem sarw (d : BitVec 5) (a : BitVec 5) (b : BitVec 5) : Statement (.sarw d a b) := by
  refine of_word rfl fun w hw => ?_
  have := d.isLt; have := a.isLt; have := b.isLt
  rw [major64 w (by omega)]
  simp only [decodeMajor64, show w / 1 % 512 = 25 by omega, fld_eq d (w / 524288) (by norm_num; omega), fld_eq a (w / 16384) (by norm_num; omega), fld_eq b (w / 512) (by norm_num; omega), Nat.reduceEqDiff, OfNat.ofNat_ne_zero, and_self, and_true, true_and, false_and, and_false, reduceIte]
theorem mul (d : BitVec 5) (a : BitVec 5) (b : BitVec 5) : Statement (.mul d a b) := by
  refine of_word rfl fun w hw => ?_
  have := d.isLt; have := a.isLt; have := b.isLt
  rw [major65 w (by omega)]
  simp only [decodeMajor65, show w / 1 % 512 = 0 by omega, fld_eq d (w / 524288) (by norm_num; omega), fld_eq a (w / 16384) (by norm_num; omega), fld_eq b (w / 512) (by norm_num; omega), Nat.reduceEqDiff, OfNat.ofNat_ne_zero, and_self, and_true, true_and, false_and, and_false, reduceIte]
theorem mulh (d : BitVec 5) (a : BitVec 5) (b : BitVec 5) : Statement (.mulh d a b) := by
  refine of_word rfl fun w hw => ?_
  have := d.isLt; have := a.isLt; have := b.isLt
  rw [major65 w (by omega)]
  simp only [decodeMajor65, show w / 1 % 512 = 1 by omega, fld_eq d (w / 524288) (by norm_num; omega), fld_eq a (w / 16384) (by norm_num; omega), fld_eq b (w / 512) (by norm_num; omega), Nat.reduceEqDiff, OfNat.ofNat_ne_zero, and_self, and_true, true_and, false_and, and_false, reduceIte]
theorem mulhu (d : BitVec 5) (a : BitVec 5) (b : BitVec 5) : Statement (.mulhu d a b) := by
  refine of_word rfl fun w hw => ?_
  have := d.isLt; have := a.isLt; have := b.isLt
  rw [major65 w (by omega)]
  simp only [decodeMajor65, show w / 1 % 512 = 2 by omega, fld_eq d (w / 524288) (by norm_num; omega), fld_eq a (w / 16384) (by norm_num; omega), fld_eq b (w / 512) (by norm_num; omega), Nat.reduceEqDiff, OfNat.ofNat_ne_zero, and_self, and_true, true_and, false_and, and_false, reduceIte]
theorem mulw (d : BitVec 5) (a : BitVec 5) (b : BitVec 5) : Statement (.mulw d a b) := by
  refine of_word rfl fun w hw => ?_
  have := d.isLt; have := a.isLt; have := b.isLt
  rw [major65 w (by omega)]
  simp only [decodeMajor65, show w / 1 % 512 = 3 by omega, fld_eq d (w / 524288) (by norm_num; omega), fld_eq a (w / 16384) (by norm_num; omega), fld_eq b (w / 512) (by norm_num; omega), Nat.reduceEqDiff, OfNat.ofNat_ne_zero, and_self, and_true, true_and, false_and, and_false, reduceIte]
theorem div (d : BitVec 5) (a : BitVec 5) (b : BitVec 5) : Statement (.div d a b) := by
  refine of_word rfl fun w hw => ?_
  have := d.isLt; have := a.isLt; have := b.isLt
  rw [major65 w (by omega)]
  simp only [decodeMajor65, show w / 1 % 512 = 4 by omega, fld_eq d (w / 524288) (by norm_num; omega), fld_eq a (w / 16384) (by norm_num; omega), fld_eq b (w / 512) (by norm_num; omega), Nat.reduceEqDiff, OfNat.ofNat_ne_zero, and_self, and_true, true_and, false_and, and_false, reduceIte]
theorem divu (d : BitVec 5) (a : BitVec 5) (b : BitVec 5) : Statement (.divu d a b) := by
  refine of_word rfl fun w hw => ?_
  have := d.isLt; have := a.isLt; have := b.isLt
  rw [major65 w (by omega)]
  simp only [decodeMajor65, show w / 1 % 512 = 5 by omega, fld_eq d (w / 524288) (by norm_num; omega), fld_eq a (w / 16384) (by norm_num; omega), fld_eq b (w / 512) (by norm_num; omega), Nat.reduceEqDiff, OfNat.ofNat_ne_zero, and_self, and_true, true_and, false_and, and_false, reduceIte]
theorem rem (d : BitVec 5) (a : BitVec 5) (b : BitVec 5) : Statement (.rem d a b) := by
  refine of_word rfl fun w hw => ?_
  have := d.isLt; have := a.isLt; have := b.isLt
  rw [major65 w (by omega)]
  simp only [decodeMajor65, show w / 1 % 512 = 6 by omega, fld_eq d (w / 524288) (by norm_num; omega), fld_eq a (w / 16384) (by norm_num; omega), fld_eq b (w / 512) (by norm_num; omega), Nat.reduceEqDiff, OfNat.ofNat_ne_zero, and_self, and_true, true_and, false_and, and_false, reduceIte]
theorem remu (d : BitVec 5) (a : BitVec 5) (b : BitVec 5) : Statement (.remu d a b) := by
  refine of_word rfl fun w hw => ?_
  have := d.isLt; have := a.isLt; have := b.isLt
  rw [major65 w (by omega)]
  simp only [decodeMajor65, show w / 1 % 512 = 7 by omega, fld_eq d (w / 524288) (by norm_num; omega), fld_eq a (w / 16384) (by norm_num; omega), fld_eq b (w / 512) (by norm_num; omega), Nat.reduceEqDiff, OfNat.ofNat_ne_zero, and_self, and_true, true_and, false_and, and_false, reduceIte]
theorem clz (d : BitVec 5) (a : BitVec 5) : Statement (.clz d a) := by
  refine of_word rfl fun w hw => ?_
  have := d.isLt; have := a.isLt
  rw [major66 w (by omega)]
  simp only [decodeMajor66, show w / 1 % 16384 = 0 by omega, fld_eq d (w / 524288) (by norm_num; omega), fld_eq a (w / 16384) (by norm_num; omega), Nat.reduceEqDiff, OfNat.ofNat_ne_zero, and_self, and_true, true_and, false_and, and_false, reduceIte]
theorem ctz (d : BitVec 5) (a : BitVec 5) : Statement (.ctz d a) := by
  refine of_word rfl fun w hw => ?_
  have := d.isLt; have := a.isLt
  rw [major66 w (by omega)]
  simp only [decodeMajor66, show w / 1 % 16384 = 1 by omega, fld_eq d (w / 524288) (by norm_num; omega), fld_eq a (w / 16384) (by norm_num; omega), Nat.reduceEqDiff, OfNat.ofNat_ne_zero, and_self, and_true, true_and, false_and, and_false, reduceIte]
theorem popc (d : BitVec 5) (a : BitVec 5) : Statement (.popc d a) := by
  refine of_word rfl fun w hw => ?_
  have := d.isLt; have := a.isLt
  rw [major66 w (by omega)]
  simp only [decodeMajor66, show w / 1 % 16384 = 2 by omega, fld_eq d (w / 524288) (by norm_num; omega), fld_eq a (w / 16384) (by norm_num; omega), Nat.reduceEqDiff, OfNat.ofNat_ne_zero, and_self, and_true, true_and, false_and, and_false, reduceIte]
theorem brev (d : BitVec 5) (a : BitVec 5) : Statement (.brev d a) := by
  refine of_word rfl fun w hw => ?_
  have := d.isLt; have := a.isLt
  rw [major66 w (by omega)]
  simp only [decodeMajor66, show w / 1 % 16384 = 3 by omega, fld_eq d (w / 524288) (by norm_num; omega), fld_eq a (w / 16384) (by norm_num; omega), Nat.reduceEqDiff, OfNat.ofNat_ne_zero, and_self, and_true, true_and, false_and, and_false, reduceIte]
theorem bswap (d : BitVec 5) (a : BitVec 5) : Statement (.bswap d a) := by
  refine of_word rfl fun w hw => ?_
  have := d.isLt; have := a.isLt
  rw [major66 w (by omega)]
  simp only [decodeMajor66, show w / 1 % 16384 = 4 by omega, fld_eq d (w / 524288) (by norm_num; omega), fld_eq a (w / 16384) (by norm_num; omega), Nat.reduceEqDiff, OfNat.ofNat_ne_zero, and_self, and_true, true_and, false_and, and_false, reduceIte]
theorem exts (d : BitVec 5) (a : BitVec 5) (n : BitVec 6) (p : BitVec 6) : Statement (.exts d a n p) := by
  refine of_word rfl fun w hw => ?_
  have := d.isLt; have := a.isLt; have := n.isLt; have := p.isLt
  rw [major67 w (by omega)]
  simp only [decodeMajor67, show w / 4096 % 4 = 0 by omega, fld_eq d (w / 524288) (by norm_num; omega), fld_eq a (w / 16384) (by norm_num; omega), fld_eq n (w / 64) (by norm_num; omega), fld_eq p (w / 1) (by norm_num; omega), Nat.reduceEqDiff, OfNat.ofNat_ne_zero, and_self, and_true, true_and, false_and, and_false, reduceIte]
theorem extz (d : BitVec 5) (a : BitVec 5) (n : BitVec 6) (p : BitVec 6) : Statement (.extz d a n p) := by
  refine of_word rfl fun w hw => ?_
  have := d.isLt; have := a.isLt; have := n.isLt; have := p.isLt
  rw [major68 w (by omega)]
  simp only [decodeMajor68, show w / 4096 % 4 = 0 by omega, fld_eq d (w / 524288) (by norm_num; omega), fld_eq a (w / 16384) (by norm_num; omega), fld_eq n (w / 64) (by norm_num; omega), fld_eq p (w / 1) (by norm_num; omega), Nat.reduceEqDiff, OfNat.ofNat_ne_zero, and_self, and_true, true_and, false_and, and_false, reduceIte]
theorem ins (d : BitVec 5) (a : BitVec 5) (n : BitVec 6) (p : BitVec 6) : Statement (.ins d a n p) := by
  refine of_word rfl fun w hw => ?_
  have := d.isLt; have := a.isLt; have := n.isLt; have := p.isLt
  rw [major69 w (by omega)]
  simp only [decodeMajor69, show w / 4096 % 4 = 0 by omega, fld_eq d (w / 524288) (by norm_num; omega), fld_eq a (w / 16384) (by norm_num; omega), fld_eq n (w / 64) (by norm_num; omega), fld_eq p (w / 1) (by norm_num; omega), Nat.reduceEqDiff, OfNat.ofNat_ne_zero, and_self, and_true, true_and, false_and, and_false, reduceIte]
theorem addi (d : BitVec 5) (a : BitVec 5) (i : BitVec 14) : Statement (.addi d a i) := by
  refine of_word rfl fun w hw => ?_
  have := d.isLt; have := a.isLt; have := i.isLt
  rw [major70 w (by omega)]
  simp only [fld_eq d (w / 524288) (by norm_num; omega), fld_eq a (w / 16384) (by norm_num; omega), fld_eq i (w / 1) (by norm_num; omega)]
theorem andi (d : BitVec 5) (a : BitVec 5) (i : BitVec 14) : Statement (.andi d a i) := by
  refine of_word rfl fun w hw => ?_
  have := d.isLt; have := a.isLt; have := i.isLt
  rw [major71 w (by omega)]
  simp only [fld_eq d (w / 524288) (by norm_num; omega), fld_eq a (w / 16384) (by norm_num; omega), fld_eq i (w / 1) (by norm_num; omega)]
theorem ori (d : BitVec 5) (a : BitVec 5) (i : BitVec 14) : Statement (.ori d a i) := by
  refine of_word rfl fun w hw => ?_
  have := d.isLt; have := a.isLt; have := i.isLt
  rw [major72 w (by omega)]
  simp only [fld_eq d (w / 524288) (by norm_num; omega), fld_eq a (w / 16384) (by norm_num; omega), fld_eq i (w / 1) (by norm_num; omega)]
theorem xori (d : BitVec 5) (a : BitVec 5) (i : BitVec 14) : Statement (.xori d a i) := by
  refine of_word rfl fun w hw => ?_
  have := d.isLt; have := a.isLt; have := i.isLt
  rw [major73 w (by omega)]
  simp only [fld_eq d (w / 524288) (by norm_num; omega), fld_eq a (w / 16384) (by norm_num; omega), fld_eq i (w / 1) (by norm_num; omega)]
theorem slti (d : BitVec 5) (a : BitVec 5) (i : BitVec 14) : Statement (.slti d a i) := by
  refine of_word rfl fun w hw => ?_
  have := d.isLt; have := a.isLt; have := i.isLt
  rw [major74 w (by omega)]
  simp only [fld_eq d (w / 524288) (by norm_num; omega), fld_eq a (w / 16384) (by norm_num; omega), fld_eq i (w / 1) (by norm_num; omega)]
theorem sltiu (d : BitVec 5) (a : BitVec 5) (i : BitVec 14) : Statement (.sltiu d a i) := by
  refine of_word rfl fun w hw => ?_
  have := d.isLt; have := a.isLt; have := i.isLt
  rw [major75 w (by omega)]
  simp only [fld_eq d (w / 524288) (by norm_num; omega), fld_eq a (w / 16384) (by norm_num; omega), fld_eq i (w / 1) (by norm_num; omega)]
theorem shli (d : BitVec 5) (a : BitVec 5) (m : BitVec 6) : Statement (.shli d a m) := by
  refine of_word rfl fun w hw => ?_
  have := d.isLt; have := a.isLt; have := m.isLt
  rw [major76 w (by omega)]
  simp only [decodeMajor76, show w / 64 % 256 = 0 by omega, fld_eq d (w / 524288) (by norm_num; omega), fld_eq a (w / 16384) (by norm_num; omega), fld_eq m (w / 1) (by norm_num; omega), Nat.reduceEqDiff, OfNat.ofNat_ne_zero, and_self, and_true, true_and, false_and, and_false, reduceIte]
theorem shri (d : BitVec 5) (a : BitVec 5) (m : BitVec 6) : Statement (.shri d a m) := by
  refine of_word rfl fun w hw => ?_
  have := d.isLt; have := a.isLt; have := m.isLt
  rw [major76 w (by omega)]
  simp only [decodeMajor76, show w / 64 % 256 = 64 by omega, fld_eq d (w / 524288) (by norm_num; omega), fld_eq a (w / 16384) (by norm_num; omega), fld_eq m (w / 1) (by norm_num; omega), Nat.reduceEqDiff, OfNat.ofNat_ne_zero, and_self, and_true, true_and, false_and, and_false, reduceIte]
theorem sari (d : BitVec 5) (a : BitVec 5) (m : BitVec 6) : Statement (.sari d a m) := by
  refine of_word rfl fun w hw => ?_
  have := d.isLt; have := a.isLt; have := m.isLt
  rw [major76 w (by omega)]
  simp only [decodeMajor76, show w / 64 % 256 = 128 by omega, fld_eq d (w / 524288) (by norm_num; omega), fld_eq a (w / 16384) (by norm_num; omega), fld_eq m (w / 1) (by norm_num; omega), Nat.reduceEqDiff, OfNat.ofNat_ne_zero, and_self, and_true, true_and, false_and, and_false, reduceIte]
theorem rori (d : BitVec 5) (a : BitVec 5) (m : BitVec 6) : Statement (.rori d a m) := by
  refine of_word rfl fun w hw => ?_
  have := d.isLt; have := a.isLt; have := m.isLt
  rw [major76 w (by omega)]
  simp only [decodeMajor76, show w / 64 % 256 = 192 by omega, fld_eq d (w / 524288) (by norm_num; omega), fld_eq a (w / 16384) (by norm_num; omega), fld_eq m (w / 1) (by norm_num; omega), Nat.reduceEqDiff, OfNat.ofNat_ne_zero, and_self, and_true, true_and, false_and, and_false, reduceIte]
theorem lui (d : BitVec 5) (i : BitVec 19) : Statement (.lui d i) := by
  refine of_word rfl fun w hw => ?_
  have := d.isLt; have := i.isLt
  rw [major77 w (by omega)]
  simp only [fld_eq d (w / 524288) (by norm_num; omega), fld_eq i (w / 1) (by norm_num; omega)]
theorem auipc (d : BitVec 5) (i : BitVec 19) : Statement (.auipc d i) := by
  refine of_word rfl fun w hw => ?_
  have := d.isLt; have := i.isLt
  rw [major78 w (by omega)]
  simp only [fld_eq d (w / 524288) (by norm_num; omega), fld_eq i (w / 1) (by norm_num; omega)]
theorem fadd (d : BitVec 5) (a : BitVec 5) (b : BitVec 5) (p : BitVec 1) (r : BitVec 3) : Statement (.fadd d a b p r) := by
  refine of_word rfl fun w hw => ?_
  have := d.isLt; have := a.isLt; have := b.isLt; have := p.isLt; have := r.isLt
  rw [major80 w (by omega)]
  simp only [decodeMajor80, show w / 1 % 32 = 0 by omega, fld_eq d (w / 524288) (by norm_num; omega), fld_eq a (w / 16384) (by norm_num; omega), fld_eq b (w / 512) (by norm_num; omega), fld_eq p (w / 256) (by norm_num; omega), fld_eq r (w / 32) (by norm_num; omega), Nat.reduceEqDiff, OfNat.ofNat_ne_zero, and_self, and_true, true_and, false_and, and_false, reduceIte]
theorem fsub (d : BitVec 5) (a : BitVec 5) (b : BitVec 5) (p : BitVec 1) (r : BitVec 3) : Statement (.fsub d a b p r) := by
  refine of_word rfl fun w hw => ?_
  have := d.isLt; have := a.isLt; have := b.isLt; have := p.isLt; have := r.isLt
  rw [major80 w (by omega)]
  simp only [decodeMajor80, show w / 1 % 32 = 1 by omega, fld_eq d (w / 524288) (by norm_num; omega), fld_eq a (w / 16384) (by norm_num; omega), fld_eq b (w / 512) (by norm_num; omega), fld_eq p (w / 256) (by norm_num; omega), fld_eq r (w / 32) (by norm_num; omega), Nat.reduceEqDiff, OfNat.ofNat_ne_zero, and_self, and_true, true_and, false_and, and_false, reduceIte]
theorem fmul (d : BitVec 5) (a : BitVec 5) (b : BitVec 5) (p : BitVec 1) (r : BitVec 3) : Statement (.fmul d a b p r) := by
  refine of_word rfl fun w hw => ?_
  have := d.isLt; have := a.isLt; have := b.isLt; have := p.isLt; have := r.isLt
  rw [major80 w (by omega)]
  simp only [decodeMajor80, show w / 1 % 32 = 2 by omega, fld_eq d (w / 524288) (by norm_num; omega), fld_eq a (w / 16384) (by norm_num; omega), fld_eq b (w / 512) (by norm_num; omega), fld_eq p (w / 256) (by norm_num; omega), fld_eq r (w / 32) (by norm_num; omega), Nat.reduceEqDiff, OfNat.ofNat_ne_zero, and_self, and_true, true_and, false_and, and_false, reduceIte]
theorem fdiv (d : BitVec 5) (a : BitVec 5) (b : BitVec 5) (p : BitVec 1) (r : BitVec 3) : Statement (.fdiv d a b p r) := by
  refine of_word rfl fun w hw => ?_
  have := d.isLt; have := a.isLt; have := b.isLt; have := p.isLt; have := r.isLt
  rw [major80 w (by omega)]
  simp only [decodeMajor80, show w / 1 % 32 = 3 by omega, fld_eq d (w / 524288) (by norm_num; omega), fld_eq a (w / 16384) (by norm_num; omega), fld_eq b (w / 512) (by norm_num; omega), fld_eq p (w / 256) (by norm_num; omega), fld_eq r (w / 32) (by norm_num; omega), Nat.reduceEqDiff, OfNat.ofNat_ne_zero, and_self, and_true, true_and, false_and, and_false, reduceIte]
theorem fsqrt (d : BitVec 5) (a : BitVec 5) (p : BitVec 1) (r : BitVec 3) : Statement (.fsqrt d a p r) := by
  refine of_word rfl fun w hw => ?_
  have := d.isLt; have := a.isLt; have := p.isLt; have := r.isLt
  rw [major80 w (by omega)]
  simp only [decodeMajor80, show w / 1 % 32 = 4 by omega, show w / 512 % 32 = 0 by omega, fld_eq d (w / 524288) (by norm_num; omega), fld_eq a (w / 16384) (by norm_num; omega), fld_eq p (w / 256) (by norm_num; omega), fld_eq r (w / 32) (by norm_num; omega), Nat.reduceEqDiff, OfNat.ofNat_ne_zero, and_self, and_true, true_and, false_and, and_false, reduceIte]
theorem fmin (d : BitVec 5) (a : BitVec 5) (b : BitVec 5) (p : BitVec 1) : Statement (.fmin d a b p) := by
  refine of_word rfl fun w hw => ?_
  have := d.isLt; have := a.isLt; have := b.isLt; have := p.isLt
  rw [major80 w (by omega)]
  simp only [decodeMajor80, show w / 1 % 32 = 5 by omega, show w / 1 % 256 = 5 by omega, fld_eq d (w / 524288) (by norm_num; omega), fld_eq a (w / 16384) (by norm_num; omega), fld_eq b (w / 512) (by norm_num; omega), fld_eq p (w / 256) (by norm_num; omega), Nat.reduceEqDiff, OfNat.ofNat_ne_zero, and_self, and_true, true_and, false_and, and_false, reduceIte]
theorem fmax (d : BitVec 5) (a : BitVec 5) (b : BitVec 5) (p : BitVec 1) : Statement (.fmax d a b p) := by
  refine of_word rfl fun w hw => ?_
  have := d.isLt; have := a.isLt; have := b.isLt; have := p.isLt
  rw [major80 w (by omega)]
  simp only [decodeMajor80, show w / 1 % 32 = 6 by omega, show w / 1 % 256 = 6 by omega, fld_eq d (w / 524288) (by norm_num; omega), fld_eq a (w / 16384) (by norm_num; omega), fld_eq b (w / 512) (by norm_num; omega), fld_eq p (w / 256) (by norm_num; omega), Nat.reduceEqDiff, OfNat.ofNat_ne_zero, and_self, and_true, true_and, false_and, and_false, reduceIte]
theorem feq (d : BitVec 5) (a : BitVec 5) (b : BitVec 5) (p : BitVec 1) : Statement (.feq d a b p) := by
  refine of_word rfl fun w hw => ?_
  have := d.isLt; have := a.isLt; have := b.isLt; have := p.isLt
  rw [major80 w (by omega)]
  simp only [decodeMajor80, show w / 1 % 32 = 7 by omega, show w / 1 % 256 = 7 by omega, fld_eq d (w / 524288) (by norm_num; omega), fld_eq a (w / 16384) (by norm_num; omega), fld_eq b (w / 512) (by norm_num; omega), fld_eq p (w / 256) (by norm_num; omega), Nat.reduceEqDiff, OfNat.ofNat_ne_zero, and_self, and_true, true_and, false_and, and_false, reduceIte]
theorem flt (d : BitVec 5) (a : BitVec 5) (b : BitVec 5) (p : BitVec 1) : Statement (.flt d a b p) := by
  refine of_word rfl fun w hw => ?_
  have := d.isLt; have := a.isLt; have := b.isLt; have := p.isLt
  rw [major80 w (by omega)]
  simp only [decodeMajor80, show w / 1 % 32 = 8 by omega, show w / 1 % 256 = 8 by omega, fld_eq d (w / 524288) (by norm_num; omega), fld_eq a (w / 16384) (by norm_num; omega), fld_eq b (w / 512) (by norm_num; omega), fld_eq p (w / 256) (by norm_num; omega), Nat.reduceEqDiff, OfNat.ofNat_ne_zero, and_self, and_true, true_and, false_and, and_false, reduceIte]
theorem fle (d : BitVec 5) (a : BitVec 5) (b : BitVec 5) (p : BitVec 1) : Statement (.fle d a b p) := by
  refine of_word rfl fun w hw => ?_
  have := d.isLt; have := a.isLt; have := b.isLt; have := p.isLt
  rw [major80 w (by omega)]
  simp only [decodeMajor80, show w / 1 % 32 = 9 by omega, show w / 1 % 256 = 9 by omega, fld_eq d (w / 524288) (by norm_num; omega), fld_eq a (w / 16384) (by norm_num; omega), fld_eq b (w / 512) (by norm_num; omega), fld_eq p (w / 256) (by norm_num; omega), Nat.reduceEqDiff, OfNat.ofNat_ne_zero, and_self, and_true, true_and, false_and, and_false, reduceIte]
theorem fclass (d : BitVec 5) (a : BitVec 5) (p : BitVec 1) : Statement (.fclass d a p) := by
  refine of_word rfl fun w hw => ?_
  have := d.isLt; have := a.isLt; have := p.isLt
  rw [major80 w (by omega)]
  simp only [decodeMajor80, show w / 1 % 32 = 10 by omega, show w / 512 % 32 = 0 by omega, show w / 1 % 256 = 10 by omega, fld_eq d (w / 524288) (by norm_num; omega), fld_eq a (w / 16384) (by norm_num; omega), fld_eq p (w / 256) (by norm_num; omega), Nat.reduceEqDiff, OfNat.ofNat_ne_zero, and_self, and_true, true_and, false_and, and_false, reduceIte]
theorem fsgnj (d : BitVec 5) (a : BitVec 5) (b : BitVec 5) (p : BitVec 1) : Statement (.fsgnj d a b p) := by
  refine of_word rfl fun w hw => ?_
  have := d.isLt; have := a.isLt; have := b.isLt; have := p.isLt
  rw [major80 w (by omega)]
  simp only [decodeMajor80, show w / 1 % 32 = 11 by omega, show w / 1 % 256 = 11 by omega, fld_eq d (w / 524288) (by norm_num; omega), fld_eq a (w / 16384) (by norm_num; omega), fld_eq b (w / 512) (by norm_num; omega), fld_eq p (w / 256) (by norm_num; omega), Nat.reduceEqDiff, OfNat.ofNat_ne_zero, and_self, and_true, true_and, false_and, and_false, reduceIte]
theorem fsgnjn (d : BitVec 5) (a : BitVec 5) (b : BitVec 5) (p : BitVec 1) : Statement (.fsgnjn d a b p) := by
  refine of_word rfl fun w hw => ?_
  have := d.isLt; have := a.isLt; have := b.isLt; have := p.isLt
  rw [major80 w (by omega)]
  simp only [decodeMajor80, show w / 1 % 32 = 12 by omega, show w / 1 % 256 = 12 by omega, fld_eq d (w / 524288) (by norm_num; omega), fld_eq a (w / 16384) (by norm_num; omega), fld_eq b (w / 512) (by norm_num; omega), fld_eq p (w / 256) (by norm_num; omega), Nat.reduceEqDiff, OfNat.ofNat_ne_zero, and_self, and_true, true_and, false_and, and_false, reduceIte]
theorem fsgnjx (d : BitVec 5) (a : BitVec 5) (b : BitVec 5) (p : BitVec 1) : Statement (.fsgnjx d a b p) := by
  refine of_word rfl fun w hw => ?_
  have := d.isLt; have := a.isLt; have := b.isLt; have := p.isLt
  rw [major80 w (by omega)]
  simp only [decodeMajor80, show w / 1 % 32 = 13 by omega, show w / 1 % 256 = 13 by omega, fld_eq d (w / 524288) (by norm_num; omega), fld_eq a (w / 16384) (by norm_num; omega), fld_eq b (w / 512) (by norm_num; omega), fld_eq p (w / 256) (by norm_num; omega), Nat.reduceEqDiff, OfNat.ofNat_ne_zero, and_self, and_true, true_and, false_and, and_false, reduceIte]
theorem ffma (d : BitVec 5) (a : BitVec 5) (b : BitVec 5) (p : BitVec 1) (r : BitVec 3) : Statement (.ffma d a b p r) := by
  refine of_word rfl fun w hw => ?_
  have := d.isLt; have := a.isLt; have := b.isLt; have := p.isLt; have := r.isLt
  rw [major81 w (by omega)]
  simp only [decodeMajor81, show w / 1 % 32 = 0 by omega, fld_eq d (w / 524288) (by norm_num; omega), fld_eq a (w / 16384) (by norm_num; omega), fld_eq b (w / 512) (by norm_num; omega), fld_eq p (w / 256) (by norm_num; omega), fld_eq r (w / 32) (by norm_num; omega), Nat.reduceEqDiff, OfNat.ofNat_ne_zero, and_self, and_true, true_and, false_and, and_false, reduceIte]
theorem ffms (d : BitVec 5) (a : BitVec 5) (b : BitVec 5) (p : BitVec 1) (r : BitVec 3) : Statement (.ffms d a b p r) := by
  refine of_word rfl fun w hw => ?_
  have := d.isLt; have := a.isLt; have := b.isLt; have := p.isLt; have := r.isLt
  rw [major82 w (by omega)]
  simp only [decodeMajor82, show w / 1 % 32 = 0 by omega, fld_eq d (w / 524288) (by norm_num; omega), fld_eq a (w / 16384) (by norm_num; omega), fld_eq b (w / 512) (by norm_num; omega), fld_eq p (w / 256) (by norm_num; omega), fld_eq r (w / 32) (by norm_num; omega), Nat.reduceEqDiff, OfNat.ofNat_ne_zero, and_self, and_true, true_and, false_and, and_false, reduceIte]
theorem fcvt (d : BitVec 5) (a : BitVec 5) (s : BitVec 3) (t : BitVec 3) (r : BitVec 3) : Statement (.fcvt d a s t r) := by
  refine of_word rfl fun w hw => ?_
  have := d.isLt; have := a.isLt; have := s.isLt; have := t.isLt; have := r.isLt
  rw [major83 w (by omega)]
  simp only [decodeMajor83, show w / 512 % 32 = 0 by omega, fld_eq d (w / 524288) (by norm_num; omega), fld_eq a (w / 16384) (by norm_num; omega), fld_eq s (w / 64) (by norm_num; omega), fld_eq t (w / 8) (by norm_num; omega), fld_eq r (w / 1) (by norm_num; omega), Nat.reduceEqDiff, OfNat.ofNat_ne_zero, and_self, and_true, true_and, false_and, and_false, reduceIte]
theorem vadd (d : BitVec 4) (a : BitVec 4) (b : BitVec 4) (y : BitVec 3) : Statement (.vadd d a b y) := by
  refine of_word rfl fun w hw => ?_
  have := d.isLt; have := a.isLt; have := b.isLt; have := y.isLt
  rw [major96 w (by omega)]
  simp only [decodeMajor96, show w / 1 % 512 = 0 by omega, fld_eq d (w / 1048576) (by norm_num; omega), fld_eq a (w / 65536) (by norm_num; omega), fld_eq b (w / 4096) (by norm_num; omega), fld_eq y (w / 512) (by norm_num; omega), Nat.reduceEqDiff, OfNat.ofNat_ne_zero, and_self, and_true, true_and, false_and, and_false, reduceIte]
theorem vsub (d : BitVec 4) (a : BitVec 4) (b : BitVec 4) (y : BitVec 3) : Statement (.vsub d a b y) := by
  refine of_word rfl fun w hw => ?_
  have := d.isLt; have := a.isLt; have := b.isLt; have := y.isLt
  rw [major96 w (by omega)]
  simp only [decodeMajor96, show w / 1 % 512 = 1 by omega, fld_eq d (w / 1048576) (by norm_num; omega), fld_eq a (w / 65536) (by norm_num; omega), fld_eq b (w / 4096) (by norm_num; omega), fld_eq y (w / 512) (by norm_num; omega), Nat.reduceEqDiff, OfNat.ofNat_ne_zero, and_self, and_true, true_and, false_and, and_false, reduceIte]
theorem vmul (d : BitVec 4) (a : BitVec 4) (b : BitVec 4) (y : BitVec 3) : Statement (.vmul d a b y) := by
  refine of_word rfl fun w hw => ?_
  have := d.isLt; have := a.isLt; have := b.isLt; have := y.isLt
  rw [major96 w (by omega)]
  simp only [decodeMajor96, show w / 1 % 512 = 2 by omega, fld_eq d (w / 1048576) (by norm_num; omega), fld_eq a (w / 65536) (by norm_num; omega), fld_eq b (w / 4096) (by norm_num; omega), fld_eq y (w / 512) (by norm_num; omega), Nat.reduceEqDiff, OfNat.ofNat_ne_zero, and_self, and_true, true_and, false_and, and_false, reduceIte]
theorem vmax (d : BitVec 4) (a : BitVec 4) (b : BitVec 4) (y : BitVec 3) : Statement (.vmax d a b y) := by
  refine of_word rfl fun w hw => ?_
  have := d.isLt; have := a.isLt; have := b.isLt; have := y.isLt
  rw [major96 w (by omega)]
  simp only [decodeMajor96, show w / 1 % 512 = 3 by omega, fld_eq d (w / 1048576) (by norm_num; omega), fld_eq a (w / 65536) (by norm_num; omega), fld_eq b (w / 4096) (by norm_num; omega), fld_eq y (w / 512) (by norm_num; omega), Nat.reduceEqDiff, OfNat.ofNat_ne_zero, and_self, and_true, true_and, false_and, and_false, reduceIte]
theorem vmin (d : BitVec 4) (a : BitVec 4) (b : BitVec 4) (y : BitVec 3) : Statement (.vmin d a b y) := by
  refine of_word rfl fun w hw => ?_
  have := d.isLt; have := a.isLt; have := b.isLt; have := y.isLt
  rw [major96 w (by omega)]
  simp only [decodeMajor96, show w / 1 % 512 = 4 by omega, fld_eq d (w / 1048576) (by norm_num; omega), fld_eq a (w / 65536) (by norm_num; omega), fld_eq b (w / 4096) (by norm_num; omega), fld_eq y (w / 512) (by norm_num; omega), Nat.reduceEqDiff, OfNat.ofNat_ne_zero, and_self, and_true, true_and, false_and, and_false, reduceIte]
theorem vabs (d : BitVec 4) (a : BitVec 4) (y : BitVec 3) : Statement (.vabs d a y) := by
  refine of_word rfl fun w hw => ?_
  have := d.isLt; have := a.isLt; have := y.isLt
  rw [major96 w (by omega)]
  simp only [decodeMajor96, show w / 1 % 512 = 5 by omega, show w / 4096 % 16 = 0 by omega, fld_eq d (w / 1048576) (by norm_num; omega), fld_eq a (w / 65536) (by norm_num; omega), fld_eq y (w / 512) (by norm_num; omega), Nat.reduceEqDiff, OfNat.ofNat_ne_zero, and_self, and_true, true_and, false_and, and_false, reduceIte]
theorem vneg (d : BitVec 4) (a : BitVec 4) (y : BitVec 3) : Statement (.vneg d a y) := by
  refine of_word rfl fun w hw => ?_
  have := d.isLt; have := a.isLt; have := y.isLt
  rw [major96 w (by omega)]
  simp only [decodeMajor96, show w / 1 % 512 = 6 by omega, show w / 4096 % 16 = 0 by omega, fld_eq d (w / 1048576) (by norm_num; omega), fld_eq a (w / 65536) (by norm_num; omega), fld_eq y (w / 512) (by norm_num; omega), Nat.reduceEqDiff, OfNat.ofNat_ne_zero, and_self, and_true, true_and, false_and, and_false, reduceIte]
theorem vmov (d : BitVec 4) (a : BitVec 4) (y : BitVec 3) : Statement (.vmov d a y) := by
  refine of_word rfl fun w hw => ?_
  have := d.isLt; have := a.isLt; have := y.isLt
  rw [major96 w (by omega)]
  simp only [decodeMajor96, show w / 1 % 512 = 7 by omega, show w / 4096 % 16 = 0 by omega, fld_eq d (w / 1048576) (by norm_num; omega), fld_eq a (w / 65536) (by norm_num; omega), fld_eq y (w / 512) (by norm_num; omega), Nat.reduceEqDiff, OfNat.ofNat_ne_zero, and_self, and_true, true_and, false_and, and_false, reduceIte]
theorem vfma (d : BitVec 4) (a : BitVec 4) (b : BitVec 4) (y : BitVec 3) : Statement (.vfma d a b y) := by
  refine of_word rfl fun w hw => ?_
  have := d.isLt; have := a.isLt; have := b.isLt; have := y.isLt
  rw [major97 w (by omega)]
  simp only [decodeMajor97, show w / 1 % 512 = 0 by omega, fld_eq d (w / 1048576) (by norm_num; omega), fld_eq a (w / 65536) (by norm_num; omega), fld_eq b (w / 4096) (by norm_num; omega), fld_eq y (w / 512) (by norm_num; omega), Nat.reduceEqDiff, OfNat.ofNat_ne_zero, and_self, and_true, true_and, false_and, and_false, reduceIte]
theorem vfms (d : BitVec 4) (a : BitVec 4) (b : BitVec 4) (y : BitVec 3) : Statement (.vfms d a b y) := by
  refine of_word rfl fun w hw => ?_
  have := d.isLt; have := a.isLt; have := b.isLt; have := y.isLt
  rw [major98 w (by omega)]
  simp only [decodeMajor98, show w / 1 % 512 = 0 by omega, fld_eq d (w / 1048576) (by norm_num; omega), fld_eq a (w / 65536) (by norm_num; omega), fld_eq b (w / 4096) (by norm_num; omega), fld_eq y (w / 512) (by norm_num; omega), Nat.reduceEqDiff, OfNat.ofNat_ne_zero, and_self, and_true, true_and, false_and, and_false, reduceIte]
theorem vand (d : BitVec 4) (a : BitVec 4) (b : BitVec 4) (y : BitVec 3) : Statement (.vand d a b y) := by
  refine of_word rfl fun w hw => ?_
  have := d.isLt; have := a.isLt; have := b.isLt; have := y.isLt
  rw [major99 w (by omega)]
  simp only [decodeMajor99, show w / 1 % 512 = 0 by omega, fld_eq d (w / 1048576) (by norm_num; omega), fld_eq a (w / 65536) (by norm_num; omega), fld_eq b (w / 4096) (by norm_num; omega), fld_eq y (w / 512) (by norm_num; omega), Nat.reduceEqDiff, OfNat.ofNat_ne_zero, and_self, and_true, true_and, false_and, and_false, reduceIte]
theorem vor (d : BitVec 4) (a : BitVec 4) (b : BitVec 4) (y : BitVec 3) : Statement (.vor d a b y) := by
  refine of_word rfl fun w hw => ?_
  have := d.isLt; have := a.isLt; have := b.isLt; have := y.isLt
  rw [major99 w (by omega)]
  simp only [decodeMajor99, show w / 1 % 512 = 1 by omega, fld_eq d (w / 1048576) (by norm_num; omega), fld_eq a (w / 65536) (by norm_num; omega), fld_eq b (w / 4096) (by norm_num; omega), fld_eq y (w / 512) (by norm_num; omega), Nat.reduceEqDiff, OfNat.ofNat_ne_zero, and_self, and_true, true_and, false_and, and_false, reduceIte]
theorem vxor (d : BitVec 4) (a : BitVec 4) (b : BitVec 4) (y : BitVec 3) : Statement (.vxor d a b y) := by
  refine of_word rfl fun w hw => ?_
  have := d.isLt; have := a.isLt; have := b.isLt; have := y.isLt
  rw [major99 w (by omega)]
  simp only [decodeMajor99, show w / 1 % 512 = 2 by omega, fld_eq d (w / 1048576) (by norm_num; omega), fld_eq a (w / 65536) (by norm_num; omega), fld_eq b (w / 4096) (by norm_num; omega), fld_eq y (w / 512) (by norm_num; omega), Nat.reduceEqDiff, OfNat.ofNat_ne_zero, and_self, and_true, true_and, false_and, and_false, reduceIte]
theorem vshl (d : BitVec 4) (a : BitVec 4) (b : BitVec 4) (y : BitVec 3) : Statement (.vshl d a b y) := by
  refine of_word rfl fun w hw => ?_
  have := d.isLt; have := a.isLt; have := b.isLt; have := y.isLt
  rw [major99 w (by omega)]
  simp only [decodeMajor99, show w / 1 % 512 = 3 by omega, fld_eq d (w / 1048576) (by norm_num; omega), fld_eq a (w / 65536) (by norm_num; omega), fld_eq b (w / 4096) (by norm_num; omega), fld_eq y (w / 512) (by norm_num; omega), Nat.reduceEqDiff, OfNat.ofNat_ne_zero, and_self, and_true, true_and, false_and, and_false, reduceIte]
theorem vshr (d : BitVec 4) (a : BitVec 4) (b : BitVec 4) (y : BitVec 3) : Statement (.vshr d a b y) := by
  refine of_word rfl fun w hw => ?_
  have := d.isLt; have := a.isLt; have := b.isLt; have := y.isLt
  rw [major99 w (by omega)]
  simp only [decodeMajor99, show w / 1 % 512 = 4 by omega, fld_eq d (w / 1048576) (by norm_num; omega), fld_eq a (w / 65536) (by norm_num; omega), fld_eq b (w / 4096) (by norm_num; omega), fld_eq y (w / 512) (by norm_num; omega), Nat.reduceEqDiff, OfNat.ofNat_ne_zero, and_self, and_true, true_and, false_and, and_false, reduceIte]
theorem vsar (d : BitVec 4) (a : BitVec 4) (b : BitVec 4) (y : BitVec 3) : Statement (.vsar d a b y) := by
  refine of_word rfl fun w hw => ?_
  have := d.isLt; have := a.isLt; have := b.isLt; have := y.isLt
  rw [major99 w (by omega)]
  simp only [decodeMajor99, show w / 1 % 512 = 5 by omega, fld_eq d (w / 1048576) (by norm_num; omega), fld_eq a (w / 65536) (by norm_num; omega), fld_eq b (w / 4096) (by norm_num; omega), fld_eq y (w / 512) (by norm_num; omega), Nat.reduceEqDiff, OfNat.ofNat_ne_zero, and_self, and_true, true_and, false_and, and_false, reduceIte]
theorem vcmpEq (g : BitVec 5) (a : BitVec 4) (b : BitVec 4) (y : BitVec 3) : Statement (.vcmpEq g a b y) := by
  refine of_word rfl fun w hw => ?_
  have := g.isLt; have := a.isLt; have := b.isLt; have := y.isLt
  rw [major100 w (by omega)]
  simp only [decodeMajor100, show w / 1 % 256 = 0 by omega, fld_eq g (w / 524288) (by norm_num; omega), fld_eq a (w / 32768) (by norm_num; omega), fld_eq b (w / 2048) (by norm_num; omega), fld_eq y (w / 256) (by norm_num; omega), Nat.reduceEqDiff, OfNat.ofNat_ne_zero, and_self, and_true, true_and, false_and, and_false, reduceIte]
theorem vcmpLt (g : BitVec 5) (a : BitVec 4) (b : BitVec 4) (y : BitVec 3) : Statement (.vcmpLt g a b y) := by
  refine of_word rfl fun w hw => ?_
  have := g.isLt; have := a.isLt; have := b.isLt; have := y.isLt
  rw [major100 w (by omega)]
  simp only [decodeMajor100, show w / 1 % 256 = 1 by omega, fld_eq g (w / 524288) (by norm_num; omega), fld_eq a (w / 32768) (by norm_num; omega), fld_eq b (w / 2048) (by norm_num; omega), fld_eq y (w / 256) (by norm_num; omega), Nat.reduceEqDiff, OfNat.ofNat_ne_zero, and_self, and_true, true_and, false_and, and_false, reduceIte]
theorem vcmpLe (g : BitVec 5) (a : BitVec 4) (b : BitVec 4) (y : BitVec 3) : Statement (.vcmpLe g a b y) := by
  refine of_word rfl fun w hw => ?_
  have := g.isLt; have := a.isLt; have := b.isLt; have := y.isLt
  rw [major100 w (by omega)]
  simp only [decodeMajor100, show w / 1 % 256 = 2 by omega, fld_eq g (w / 524288) (by norm_num; omega), fld_eq a (w / 32768) (by norm_num; omega), fld_eq b (w / 2048) (by norm_num; omega), fld_eq y (w / 256) (by norm_num; omega), Nat.reduceEqDiff, OfNat.ofNat_ne_zero, and_self, and_true, true_and, false_and, and_false, reduceIte]
theorem vsel (d : BitVec 4) (a : BitVec 4) (b : BitVec 4) (y : BitVec 3) (m : BitVec 5) : Statement (.vsel d a b y m) := by
  refine of_word rfl fun w hw => ?_
  have := d.isLt; have := a.isLt; have := b.isLt; have := y.isLt; have := m.isLt
  rw [major101 w (by omega)]
  simp only [decodeMajor101, show w / 32 % 16 = 0 by omega, fld_eq d (w / 1048576) (by norm_num; omega), fld_eq a (w / 65536) (by norm_num; omega), fld_eq b (w / 4096) (by norm_num; omega), fld_eq y (w / 512) (by norm_num; omega), fld_eq m (w / 1) (by norm_num; omega), Nat.reduceEqDiff, OfNat.ofNat_ne_zero, and_self, and_true, true_and, false_and, and_false, reduceIte]
theorem vredSum (g : BitVec 5) (a : BitVec 4) (y : BitVec 3) : Statement (.vredSum g a y) := by
  refine of_word rfl fun w hw => ?_
  have := g.isLt; have := a.isLt; have := y.isLt
  rw [major102 w (by omega)]
  simp only [decodeMajor102, show w / 1 % 256 = 0 by omega, show w / 2048 % 16 = 0 by omega, fld_eq g (w / 524288) (by norm_num; omega), fld_eq a (w / 32768) (by norm_num; omega), fld_eq y (w / 256) (by norm_num; omega), Nat.reduceEqDiff, OfNat.ofNat_ne_zero, and_self, and_true, true_and, false_and, and_false, reduceIte]
theorem vredMax (g : BitVec 5) (a : BitVec 4) (y : BitVec 3) : Statement (.vredMax g a y) := by
  refine of_word rfl fun w hw => ?_
  have := g.isLt; have := a.isLt; have := y.isLt
  rw [major102 w (by omega)]
  simp only [decodeMajor102, show w / 1 % 256 = 1 by omega, show w / 2048 % 16 = 0 by omega, fld_eq g (w / 524288) (by norm_num; omega), fld_eq a (w / 32768) (by norm_num; omega), fld_eq y (w / 256) (by norm_num; omega), Nat.reduceEqDiff, OfNat.ofNat_ne_zero, and_self, and_true, true_and, false_and, and_false, reduceIte]
theorem vredMin (g : BitVec 5) (a : BitVec 4) (y : BitVec 3) : Statement (.vredMin g a y) := by
  refine of_word rfl fun w hw => ?_
  have := g.isLt; have := a.isLt; have := y.isLt
  rw [major102 w (by omega)]
  simp only [decodeMajor102, show w / 1 % 256 = 2 by omega, show w / 2048 % 16 = 0 by omega, fld_eq g (w / 524288) (by norm_num; omega), fld_eq a (w / 32768) (by norm_num; omega), fld_eq y (w / 256) (by norm_num; omega), Nat.reduceEqDiff, OfNat.ofNat_ne_zero, and_self, and_true, true_and, false_and, and_false, reduceIte]
theorem vexp2 (d : BitVec 4) (a : BitVec 4) (y : BitVec 3) : Statement (.vexp2 d a y) := by
  refine of_word rfl fun w hw => ?_
  have := d.isLt; have := a.isLt; have := y.isLt
  rw [major103 w (by omega)]
  simp only [decodeMajor103, show w / 1 % 512 = 0 by omega, show w / 4096 % 16 = 0 by omega, fld_eq d (w / 1048576) (by norm_num; omega), fld_eq a (w / 65536) (by norm_num; omega), fld_eq y (w / 512) (by norm_num; omega), Nat.reduceEqDiff, OfNat.ofNat_ne_zero, and_self, and_true, true_and, false_and, and_false, reduceIte]
theorem vlog2 (d : BitVec 4) (a : BitVec 4) (y : BitVec 3) : Statement (.vlog2 d a y) := by
  refine of_word rfl fun w hw => ?_
  have := d.isLt; have := a.isLt; have := y.isLt
  rw [major103 w (by omega)]
  simp only [decodeMajor103, show w / 1 % 512 = 1 by omega, show w / 4096 % 16 = 0 by omega, fld_eq d (w / 1048576) (by norm_num; omega), fld_eq a (w / 65536) (by norm_num; omega), fld_eq y (w / 512) (by norm_num; omega), Nat.reduceEqDiff, OfNat.ofNat_ne_zero, and_self, and_true, true_and, false_and, and_false, reduceIte]
theorem vrcp (d : BitVec 4) (a : BitVec 4) (y : BitVec 3) : Statement (.vrcp d a y) := by
  refine of_word rfl fun w hw => ?_
  have := d.isLt; have := a.isLt; have := y.isLt
  rw [major103 w (by omega)]
  simp only [decodeMajor103, show w / 1 % 512 = 2 by omega, show w / 4096 % 16 = 0 by omega, fld_eq d (w / 1048576) (by norm_num; omega), fld_eq a (w / 65536) (by norm_num; omega), fld_eq y (w / 512) (by norm_num; omega), Nat.reduceEqDiff, OfNat.ofNat_ne_zero, and_self, and_true, true_and, false_and, and_false, reduceIte]
theorem vrsq (d : BitVec 4) (a : BitVec 4) (y : BitVec 3) : Statement (.vrsq d a y) := by
  refine of_word rfl fun w hw => ?_
  have := d.isLt; have := a.isLt; have := y.isLt
  rw [major103 w (by omega)]
  simp only [decodeMajor103, show w / 1 % 512 = 3 by omega, show w / 4096 % 16 = 0 by omega, fld_eq d (w / 1048576) (by norm_num; omega), fld_eq a (w / 65536) (by norm_num; omega), fld_eq y (w / 512) (by norm_num; omega), Nat.reduceEqDiff, OfNat.ofNat_ne_zero, and_self, and_true, true_and, false_and, and_false, reduceIte]
theorem vcvt (d : BitVec 4) (a : BitVec 4) (p : BitVec 1) (s : BitVec 3) (t : BitVec 3) (e : BitVec 1) (u : BitVec 1) (q : BitVec 1) : Statement (.vcvt d a p s t e u q) := by
  refine of_word rfl fun w hw => ?_
  have := d.isLt; have := a.isLt; have := p.isLt; have := s.isLt; have := t.isLt; have := e.isLt; have := u.isLt; have := q.isLt
  rw [major104 w (by omega)]
  simp only [decodeMajor104, show w / 512 % 8 = 0 by omega, show w / 8192 % 8 = 0 by omega, fld_eq d (w / 1048576) (by norm_num; omega), fld_eq a (w / 65536) (by norm_num; omega), fld_eq p (w / 4096) (by norm_num; omega), fld_eq s (w / 64) (by norm_num; omega), fld_eq t (w / 8) (by norm_num; omega), fld_eq e (w / 4) (by norm_num; omega), fld_eq u (w / 2) (by norm_num; omega), fld_eq q (w / 1) (by norm_num; omega), Nat.reduceEqDiff, OfNat.ofNat_ne_zero, and_self, and_true, true_and, false_and, and_false, reduceIte]
theorem vquantMx (d : BitVec 4) (a : BitVec 4) (b : BitVec 4) (y : BitVec 3) (s : BitVec 6) (q : BitVec 2) : Statement (.vquantMx d a b y s q) := by
  refine of_word rfl fun w hw => ?_
  have := d.isLt; have := a.isLt; have := b.isLt; have := y.isLt; have := s.isLt; have := q.isLt
  rw [major105 w (by omega)]
  simp only [decodeMajor105, show w / 1 % 2 = 0 by omega, fld_eq d (w / 1048576) (by norm_num; omega), fld_eq a (w / 65536) (by norm_num; omega), fld_eq b (w / 4096) (by norm_num; omega), fld_eq y (w / 512) (by norm_num; omega), fld_eq s (w / 8) (by norm_num; omega), fld_eq q (w / 2) (by norm_num; omega), Nat.reduceEqDiff, OfNat.ofNat_ne_zero, and_self, and_true, true_and, false_and, and_false, reduceIte]
theorem vquantGq (d : BitVec 4) (a : BitVec 4) (b : BitVec 4) (y : BitVec 3) (s : BitVec 6) (q : BitVec 2) : Statement (.vquantGq d a b y s q) := by
  refine of_word rfl fun w hw => ?_
  have := d.isLt; have := a.isLt; have := b.isLt; have := y.isLt; have := s.isLt; have := q.isLt
  rw [major105 w (by omega)]
  simp only [decodeMajor105, show w / 1 % 2 = 1 by omega, fld_eq d (w / 1048576) (by norm_num; omega), fld_eq a (w / 65536) (by norm_num; omega), fld_eq b (w / 4096) (by norm_num; omega), fld_eq y (w / 512) (by norm_num; omega), fld_eq s (w / 8) (by norm_num; omega), fld_eq q (w / 2) (by norm_num; omega), Nat.reduceEqDiff, OfNat.ofNat_ne_zero, and_self, and_true, true_and, false_and, and_false, reduceIte]
theorem vperm (d : BitVec 4) (a : BitVec 4) (b : BitVec 4) (y : BitVec 3) : Statement (.vperm d a b y) := by
  refine of_word rfl fun w hw => ?_
  have := d.isLt; have := a.isLt; have := b.isLt; have := y.isLt
  rw [major106 w (by omega)]
  simp only [decodeMajor106, show w / 1 % 512 = 0 by omega, fld_eq d (w / 1048576) (by norm_num; omega), fld_eq a (w / 65536) (by norm_num; omega), fld_eq b (w / 4096) (by norm_num; omega), fld_eq y (w / 512) (by norm_num; omega), Nat.reduceEqDiff, OfNat.ofNat_ne_zero, and_self, and_true, true_and, false_and, and_false, reduceIte]
theorem vbcast (d : BitVec 4) (y : BitVec 3) (s : BitVec 5) : Statement (.vbcast d y s) := by
  refine of_word rfl fun w hw => ?_
  have := d.isLt; have := y.isLt; have := s.isLt
  rw [major107 w (by omega)]
  simp only [decodeMajor107, show w / 32 % 16 = 0 by omega, show w / 4096 % 256 = 0 by omega, fld_eq d (w / 1048576) (by norm_num; omega), fld_eq y (w / 512) (by norm_num; omega), fld_eq s (w / 1) (by norm_num; omega), Nat.reduceEqDiff, OfNat.ofNat_ne_zero, and_self, and_true, true_and, false_and, and_false, reduceIte]
theorem vins (d : BitVec 4) (n : BitVec 2) (y : BitVec 3) (m : BitVec 4) (s : BitVec 5) : Statement (.vins d n y m s) := by
  refine of_word rfl fun w hw => ?_
  have := d.isLt; have := n.isLt; have := y.isLt; have := m.isLt; have := s.isLt
  rw [major108 w (by omega)]
  simp only [decodeMajor108, show w / 16384 % 64 = 0 by omega, fld_eq d (w / 1048576) (by norm_num; omega), fld_eq n (w / 4096) (by norm_num; omega), fld_eq y (w / 512) (by norm_num; omega), fld_eq m (w / 32) (by norm_num; omega), fld_eq s (w / 1) (by norm_num; omega), Nat.reduceEqDiff, OfNat.ofNat_ne_zero, and_self, and_true, true_and, false_and, and_false, reduceIte]
theorem vext (g : BitVec 5) (a : BitVec 4) (y : BitVec 3) (n : BitVec 6) : Statement (.vext g a y n) := by
  refine of_word rfl fun w hw => ?_
  have := g.isLt; have := a.isLt; have := y.isLt; have := n.isLt
  rw [major109 w (by omega)]
  simp only [decodeMajor109, show w / 64 % 4 = 0 by omega, show w / 2048 % 16 = 0 by omega, fld_eq g (w / 524288) (by norm_num; omega), fld_eq a (w / 32768) (by norm_num; omega), fld_eq y (w / 256) (by norm_num; omega), fld_eq n (w / 1) (by norm_num; omega), Nat.reduceEqDiff, OfNat.ofNat_ne_zero, and_self, and_true, true_and, false_and, and_false, reduceIte]
theorem vdot (g : BitVec 5) (a : BitVec 4) (b : BitVec 4) (y : BitVec 3) : Statement (.vdot g a b y) := by
  refine of_word rfl fun w hw => ?_
  have := g.isLt; have := a.isLt; have := b.isLt; have := y.isLt
  rw [major110 w (by omega)]
  simp only [decodeMajor110, show w / 1 % 256 = 0 by omega, fld_eq g (w / 524288) (by norm_num; omega), fld_eq a (w / 32768) (by norm_num; omega), fld_eq b (w / 2048) (by norm_num; omega), fld_eq y (w / 256) (by norm_num; omega), Nat.reduceEqDiff, OfNat.ofNat_ne_zero, and_self, and_true, true_and, false_and, and_false, reduceIte]
theorem vscale (d : BitVec 4) (a : BitVec 4) (b : BitVec 4) (y : BitVec 3) : Statement (.vscale d a b y) := by
  refine of_word rfl fun w hw => ?_
  have := d.isLt; have := a.isLt; have := b.isLt; have := y.isLt
  rw [major111 w (by omega)]
  simp only [decodeMajor111, show w / 1 % 512 = 0 by omega, fld_eq d (w / 1048576) (by norm_num; omega), fld_eq a (w / 65536) (by norm_num; omega), fld_eq b (w / 4096) (by norm_num; omega), fld_eq y (w / 512) (by norm_num; omega), Nat.reduceEqDiff, OfNat.ofNat_ne_zero, and_self, and_true, true_and, false_and, and_false, reduceIte]
theorem reset : Statement .reset := of_event rfl
theorem firmwareImage : Statement .firmwareImage := of_event rfl
theorem spdmRequest : Statement .spdmRequest := of_event rfl
theorem functionReady : Statement .functionReady := of_event rfl
theorem functionRetire : Statement .functionRetire := of_event rfl
theorem hostAccess : Statement .hostAccess := of_event rfl
theorem ctlMakeThread : Statement .ctlMakeThread := of_event rfl
theorem ctlStart : Statement .ctlStart := of_event rfl
theorem ctlStop : Statement .ctlStop := of_event rfl
theorem ctlResume : Statement .ctlResume := of_event rfl
theorem ctlMakeData : Statement .ctlMakeData := of_event rfl
theorem ctlFieldWrite : Statement .ctlFieldWrite := of_event rfl
theorem ctlRedirect : Statement .ctlRedirect := of_event rfl
theorem controlRequest : Statement .controlRequest := of_event rfl
theorem outsideAccess : Statement .outsideAccess := of_event rfl
theorem rowOpen : Statement .rowOpen := of_event rfl
theorem openComplete : Statement .openComplete := of_event rfl
theorem closeWriteback : Statement .closeWriteback := of_event rfl
theorem turnEnd : Statement .turnEnd := of_event rfl
theorem priorityRise : Statement .priorityRise := of_event rfl
theorem openlimClose : Statement .openlimClose := of_event rfl
theorem openlimWrite : Statement .openlimWrite := of_event rfl
theorem turnlenWrite : Statement .turnlenWrite := of_event rfl
theorem hpoolWrite : Statement .hpoolWrite := of_event rfl
theorem chunkCommit : Statement .chunkCommit := of_event rfl
theorem commitGrant : Statement .commitGrant := of_event rfl
theorem outboundDrain : Statement .outboundDrain := of_event rfl
theorem loadPerform : Statement .loadPerform := of_event rfl
theorem vectorBind : Statement .vectorBind := of_event rfl
theorem vectorLand : Statement .vectorLand := of_event rfl
theorem packetEntry : Statement .packetEntry := of_event rfl
theorem packetTimeout : Statement .packetTimeout := of_event rfl
theorem barrierWordWrite : Statement .barrierWordWrite := of_event rfl
theorem deadlineWake : Statement .deadlineWake := of_event rfl
theorem stalemateInterval : Statement .stalemateInterval := of_event rfl
theorem fqtailAdvance : Statement .fqtailAdvance := of_event rfl
theorem rowHold : Statement .rowHold := of_event rfl
theorem eccScrub : Statement .eccScrub := of_event rfl
theorem tlbWalk : Statement .tlbWalk := of_event rfl
theorem faultIn : Statement .faultIn := of_event rfl
theorem cowService : Statement .cowService := of_event rfl
theorem barReentry : Statement .barReentry := of_event rfl
theorem migrationStart : Statement .migrationStart := of_event rfl
theorem migrationLineCopy : Statement .migrationLineCopy := of_event rfl
theorem linePull : Statement .linePull := of_event rfl
theorem commandStart : Statement .commandStart := of_event rfl
theorem engineBeat : Statement .engineBeat := of_event rfl
theorem commandComplete : Statement .commandComplete := of_event rfl
theorem copy : Statement .copy := of_event rfl
theorem pageshare : Statement .pageshare := of_event rfl
theorem pagedrop : Statement .pagedrop := of_event rfl
theorem pagemove : Statement .pagemove := of_event rfl
theorem xreduceSum : Statement .xreduceSum := of_event rfl
theorem xreduceMax : Statement .xreduceMax := of_event rfl
theorem xreduceMin : Statement .xreduceMin := of_event rfl
theorem sksum : Statement .sksum := of_event rfl
theorem streamRefill : Statement .streamRefill := of_event rfl
theorem mfmt : Statement .mfmt := of_event rfl
theorem mzero : Statement .mzero := of_event rfl
theorem mma : Statement .mma := of_event rfl
theorem mmaKblock : Statement .mmaKblock := of_event rfl
theorem mout : Statement .mout := of_event rfl
theorem mbias : Statement .mbias := of_event rfl
theorem msignal : Statement .msignal := of_event rfl
theorem sketchCounterOp : Statement .sketchCounterOp := of_event rfl
theorem skqryResult : Statement .skqryResult := of_event rfl
theorem launchInstall : Statement .launchInstall := of_event rfl
theorem signalDelivery : Statement .signalDelivery := of_event rfl
theorem nodeDispatch : Statement .nodeDispatch := of_event rfl
theorem teamPlacement : Statement .teamPlacement := of_event rfl
theorem teamEnd : Statement .teamEnd := of_event rfl
theorem castling : Statement .castling := of_event rfl
theorem castleRestore : Statement .castleRestore := of_event rfl
theorem strideChoice : Statement .strideChoice := of_event rfl
theorem switchForced : Statement .switchForced := of_event rfl
theorem switchExchange : Statement .switchExchange := of_event rfl
theorem gangTick : Statement .gangTick := of_event rfl
theorem gangSpill : Statement .gangSpill := of_event rfl
theorem gangDieLoad : Statement .gangDieLoad := of_event rfl
theorem gangLate : Statement .gangLate := of_event rfl
theorem gangForcedStop : Statement .gangForcedStop := of_event rfl
theorem gangmaskWrite : Statement .gangmaskWrite := of_event rfl
theorem ticketsWrite : Statement .ticketsWrite := of_event rfl
theorem leafEnd : Statement .leafEnd := of_event rfl
theorem quadGated : Statement .quadGated := of_event rfl
theorem quadWakeDone : Statement .quadWakeDone := of_event rfl
theorem powerCompare : Statement .powerCompare := of_event rfl
theorem pwrcapWrite : Statement .pwrcapWrite := of_event rfl
theorem elevatorRetire : Statement .elevatorRetire := of_event rfl
theorem packetRetry : Statement .packetRetry := of_event rfl
theorem wavelengthDrop : Statement .wavelengthDrop := of_event rfl
theorem flitRetry : Statement .flitRetry := of_event rfl
theorem routeWrite : Statement .routeWrite := of_event rfl
theorem hfrRecord : Statement .hfrRecord := of_event rfl
theorem hfrrespServiced : Statement .hfrrespServiced := of_event rfl
theorem hfrrespFailed : Statement .hfrrespFailed := of_event rfl
theorem octownReassign : Statement .octownReassign := of_event rfl
theorem scrubDone : Statement .scrubDone := of_event rfl
theorem tenminWrite : Statement .tenminWrite := of_event rfl
theorem fnmodeWrite : Statement .fnmodeWrite := of_event rfl
theorem tlbcmdPage : Statement .tlbcmdPage := of_event rfl
theorem tlbcmdTenant : Statement .tlbcmdTenant := of_event rfl
theorem tlbcmdIpa : Statement .tlbcmdIpa := of_event rfl
theorem tlbcmdAll : Statement .tlbcmdAll := of_event rfl
theorem tlbcmdDone : Statement .tlbcmdDone := of_event rfl
theorem nbmac : Statement .nbmac := of_event rfl
theorem nbred : Statement .nbred := of_event rfl
theorem nbfill : Statement .nbfill := of_event rfl
theorem nbcopy : Statement .nbcopy := of_event rfl
theorem nhHandlerStart : Statement .nhHandlerStart := of_event rfl
theorem registerWrite : Statement .registerWrite := of_event rfl
theorem undecodableWord : Statement .undecodableWord := of_event rfl
theorem fetchFault : Statement .fetchFault := of_event rfl
theorem fabricRequest : Statement .fabricRequest := of_event rfl

end Sys2Proof.Laws.RoundTrip
end

