-- ==== Sys2Proof/Safety.lean ====
section
/-! DEFINITION. What counts as a safe step and a safe run. -/

namespace Sys2Proof.Safety

open Sys2Proof.Machine

/-- A step that goes on. -/
def Goes (s : State) : Prop := ∃ t, step s = .next t

/-- What every state should satisfy: memory is in its canonical form. -/
def Inv (s : State) : Prop := Memory.wf s.mem = true

/-- `n` steps that all go on and keep the invariant. -/
def Run : Nat → State → Prop
  | 0, s => Inv s
  | n + 1, s => Inv s ∧ ∃ t, step s = .next t ∧ Run n t

end Sys2Proof.Safety
end

