-- ==== Sys2Proof/Certificates/Slice0/Obligations.lean ====
section
/-! DEFINITION. The statements for the provers. Each is about every state, reached or not; where a word's sources are named by
`s.src a = .ok (x, s1)`, that is: the source `a` reads `x` and leaves the state `s1` (obligation Sources says what a source reads). -/

open Sys2Proof Sys2Proof.Machine

namespace Sys2Proof.Says

/-! ### Words used by the statements -/

/-- A number, and an integer, as a 64-bit result (04_scalar.md R77). -/
def num (n : Nat) : W := BitVec.ofNat 64 n
def int (z : Int) : W := BitVec.ofInt 64 z
/-- The low 32 bits of a number, sign-extended. -/
def wide32 (n : Nat) : W := (BitVec.ofNat 32 n).signExtend 64
/-- A truth value. -/
def truth (p : Bool) : W := if p then 1 else 0

/-- In `t` the value `v` was produced by the row `rid` of `s` (02_rows.md R25; 03_encoding.md R66, R67): register `d` holds it, unless `d` is 0, and it is d1 of the
distance window, whose values have moved by one. -/
structure Produced (s t : State) (rid : Nat) (d : BitVec 5) (v : W) : Prop where
  reg : d ≠ 0 → t.greg rid d.toNat = v.toNat
  d1 : t.greg rid 28 = v.toNat
  d2 : t.greg rid 29 = s.greg rid 28
  d3 : t.greg rid 30 = s.greg rid 29
  d4 : t.greg rid 31 = s.greg rid 30

/-- Everything that stands outside the rows' bytes, control entries and records, and outside the scratch of the step, is unchanged. -/
structure Elsewhere (s t : State) : Prop where
  cycle : t.cycle = s.cycle
  core : t.core = s.core
  quad : t.quad = s.quad
  oct : t.oct = s.oct
  clu : t.clu = s.clu
  ten : t.ten = s.ten
  pkg : t.pkg = s.pkg
  nodes : t.nodes = s.nodes
  teams : t.teams = s.teams
  bdc : t.bdc = s.bdc
  banks : t.banks = s.banks
  pip : t.pip = s.pip
  uncorr : t.uncorr = s.uncorr
  sel : t.sel = s.sel
  schedule : t.schedule = s.schedule
  seq : t.seq = s.seq

/-- What a word of the row `rid` that only moves its program counter leaves of control entries. -/
structure OnlyPc (s t : State) (rid : Nat) : Prop where
  others : ∀ r, r ≠ rid → t.ctlOf r = s.ctlOf r
  own : t.ctlOf rid = { s.ctlOf rid with pc := (t.ctlOf rid).pc }

/-- The frame of a word that writes register `d` of its row: bytes of memory outside that register and the distance window, records of other rows, all of its own record but the
pending loads, and all of its control entry but the program counter. -/
structure RegisterFrame (s t : State) (rid : Nat) (d : BitVec 5) : Prop where
  rest : Elsewhere s t
  ctl : OnlyPc s t rid
  thr : ∀ r, r ≠ rid → t.thrOf r = s.thrOf r
  own : t.thrOf rid = { s.thrOf rid with loads := (t.thrOf rid).loads }
  mem : ∀ a, (d = 0 ∨ a < rowAddr rid + 8 * d.toNat ∨ rowAddr rid + 8 * d.toNat + 8 ≤ a) → (a < rowAddr rid + 224 ∨ rowAddr rid + 256 ≤ a) →
    mget t.mem a = mget s.mem a

/-- Where the program counter of the row goes when a word completes without a transfer (03_encoding.md R53, R57): past the word, in word 0 of a PAIR past the
bundle, and in word 1 of a PAIR it stays where word 0 put it. `jump` is none whenever a word starts (obligations StepRunsWord and StepRunsPair). -/
def Moves (s t : State) (rid : Nat) : Prop :=
  (t.ctlOf rid).pc = match s.cur.slot with
    | .serial0 | .serial1 => s.cur.jump.getD (s.cur.pc + 4)
    | .pair0 => s.cur.jump.getD (s.cur.pc + 8)
    | .pair1 => (s.ctlOf rid).pc

/-- A word of the row `rid` completed from `s`: it wrote `v` to register `d`, moved the program counter, and changed nothing else. -/
structure Wrote (s t : State) (rid : Nat) (d : BitVec 5) (v : W) : Prop where
  completed : t.cur.ended = .completed
  result : Produced s t rid d v
  frame : RegisterFrame s t rid d
/-- The same where the word transfers no control. -/
structure Writes (s t : State) (rid : Nat) (d : BitVec 5) (v : W) : Prop extends Wrote s t rid d v where
  pc : Moves s t rid

/-- A word of the row `rid` completed from `s` and changed nothing but its program counter. -/
structure Passes (s t : State) (rid : Nat) : Prop where
  completed : t.cur.ended = .completed
  rest : Elsewhere s t
  ctl : OnlyPc s t rid
  thr : ∀ r, t.thrOf r = s.thrOf r
  mem : t.mem = s.mem

/-- The program counter of a row that transfers control to `x` (04_scalar.md R96). Word 1 of a PAIR transfers nothing (03_encoding.md R53). -/
def GoesTo (s t : State) (rid : Nat) (x : W) : Prop := s.cur.slot ≠ .pair1 → (t.ctlOf rid).pc = pcOf x

/-- A word of the row `rid` completed from `s` and stored the `n` low bytes of `v` at the byte address `at'` of its own row; it changed no other byte. -/
structure Stores (s t : State) (rid at' n : Nat) (v : W) : Prop where
  completed : t.cur.ended = .completed
  pc : Moves s t rid
  rest : Elsewhere s t
  ctl : OnlyPc s t rid
  thr : ∀ r, t.thrOf r = s.thrOf r
  stored : ∀ i, i < n → mget t.mem (at' + i) = BitVec.ofNat 8 (v.toNat / 2 ^ (8 * i))
  mem : ∀ a, a < at' ∨ at' + n ≤ a → mget t.mem a = mget s.mem a

/-- The word is one that a thread executes, outside an open packet (02_rows.md R42; 03_encoding.md R80; 22_near_memory.md R342). -/
def InThread (s : State) : Prop := isBase s.me = false ∧ (s.ctlOf s.me).p = false
/-- The word may execute alone in a chunk of its own: nothing of the chunk has issued, the arbiter has a commit left in this cycle, and the commit grant is the row's, or free with the row first in its queue (07_memory_model.md R127, R131, R132). -/
def MayBeAlone (s : State) : Prop :=
  (s.thrOf s.me).chunk.steps = 0 ∧ s.commitFull s.myCluster = false ∧ ((s.cluOf s.myCluster).grant = some s.me ∨ (s.cluOf s.myCluster).grant = none ∧ ((s.cluOf s.myCluster).grantq = [] ∨ (s.cluOf s.myCluster).grantq.head? = some s.me))
/-- The word stops with a trap (15_traps.md R259; obligations TrapToFaultQueue and TrapToHandler say what that does). -/
def Traps (i : Instr) (s : State) (c : Cause) (g3 : W) : Prop := exec i s = .next (s.applyStop (.trap c g3 none))

end Sys2Proof.Says

open Sys2Proof.Says

/-! ### Encodings -/

/-- Words written out in the manual, with bit 31 clear, decode to the instructions that it names (03_encoding.md R59; 05_assembler.md; 06_rows_at_work.md; 04_scalar.md R93, R94; 10_ring_queue.md; 14_compute_at_work.md;
18_sketches.md; 26_combinators.md R374), and words with an unassigned function, a nonzero unused field or an illegal destination do not (R75). -/
def Obligations.ManualWordsDecode : Prop :=
  decodeChecked 0x09294150 = .ok (.ldrHu 5 336) ∧ decodeChecked 0x40317800 = .ok (.add 6 5 28) ∧ decodeChecked 0x41184400 = .ok (.mul 3 1 2) ∧
  decodeChecked 0x02183FFD = .ok (.bne 3 0 (-3)) ∧ decodeChecked 0x0B390A00 = .ok (.hstart 7 4 5) ∧ decodeChecked 0x53104068 = .ok (.fcvt 2 1 1 5 0) ∧
  decodeChecked 0x1E128210 = .ok (.atomwAdd 2 10 1 4 0) ∧ decodeChecked 0x0C20C010 = .ok (.ldaW 4 3 4) ∧ decodeChecked 0x0C00CA50 = .ok (.stlW 3 5 4) ∧
  decodeChecked 0x24218030 = .ok (.recv 4 6 3) ∧ decodeChecked 0x68540034 = .ok (.vcvt 5 4 0 0 6 1 0 0) ∧ decodeChecked 0x33298004 = .ok (.skqry 5 6 4) ∧
  decodeChecked 0x31018003 = .ok (.skupd 6 3) ∧ decodeChecked 0x38290002 = .ok (.gdef 5 4 2) ∧ decodeChecked 0x3D498A01 = .ok (.cresume 9 6 5) ∧
  decodeChecked 0x00000001 = .ok .texit ∧ decodeChecked 0 = .ok .nop ∧ decodeChecked 0x0000000F = .ok (.mbxpop 0) ∧
  decodeChecked 0x40317801 = .ok (.sub 6 5 28) ∧ decodeChecked 0x4031781A = .error (.unassigned 64) ∧ decodeChecked 0x00004000 = .error (.unassigned 0) ∧
  decodeChecked 0x40E17800 = .error .destination

/-- Decoding and encoding agree (03_encoding.md R58 to R75): every well-formed instruction that has a word is what the device decodes from that word, whatever its operands. -/
def Obligations.DecodeEncode : Prop :=
  ∀ (i : Instr) (w : Nat), WellFormed i = true → encode i = some w → decodeChecked w = .ok i

/-- Every word has at most one meaning and no bit of it is dropped: with bit 31 clear, the word of the instruction that a word decodes to is that word (R58, R59, R75). -/
def Obligations.EncodeDecode : Prop :=
  ∀ (w : Nat) (i : Instr), w < 2 ^ 31 → decodeWord w = .ok i → encode i = some w

/-! ### Reset, and an invariant -/

/-- What reset leaves: every control entry NULL with both words 0 (02_rows.md R28), the cycle counter 0 (01_machine.md R12), the reset columns of 15_traps.md R273 for every core, team and tenant, the
transfer barriers 0 (13_engines.md R252), every graph node FREE (20_scheduling.md R316), every quad RUNNING (23_stack_fabric.md R347), `PWRCAP`, `GTICK` and owner tags (R330, R357, 24_tenancy_boot.md R367). -/
def Sys2Proof.Says.ResetState : Prop :=
  let s := State.reset
  s.cycle = 0 ∧
  (∀ r, (s.ctlOf r).state = .null ∧ (s.ctlOf r).word0 = 0 ∧ (s.ctlOf r).word1 = 0) ∧
  (∀ c, (s.cs c).openlim = 16 ∧ (s.cs c).turnlen = 256 ∧ (s.cs c).vshare = 1 ∧ (s.cs c).hpoolCount = 63 ∧ (s.cs c).hpoolBase = 1984 ∧ (s.coreOf c).rxdrop = 0 ∧ (s.coreOf c).perm = 0 ∧
    (∀ b, (tget 0 (s.cs c).tbs b : BitVec 16) = 0) ∧ (s.cs c).mqCause = 0 ∧ (s.cs c).mqDone = 0 ∧ s.tenantOf c = 0) ∧
  (∀ k, (s.cluOf k).ecclog = 0 ∧ (s.cluOf k).nestSeq = 0 ∧ (∀ m, (tget 0 (s.cluOf k).teamhdl m : W) = 0) ∧ ∀ t, tget 0 (s.cluOf k).passes t = 0) ∧
  (∀ t, (s.tenOf t).fqbase = 0 ∧ (s.tenOf t).fqtail = 0 ∧ (s.tenOf t).fqhead = 0 ∧ (s.tenOf t).fqlost = 0) ∧
  (∀ n, (s.nodeOf n).state = .free ∧ (s.nodeOf n).count = 0) ∧
  (∀ q, (s.quadOf q).power = .running) ∧
  s.pkg.fnmode = 8 ∧ s.pkg.tslice = 1200000 ∧ s.pkg.gridslice = 2400000 ∧ s.pkg.gtick = 1200000 ∧ s.pkg.pwrcap = 5500 ∧ s.pkg.hfrtail = 0 ∧ s.pkg.hfrhead = 0

/-- Memory is in its canonical form right after reset. -/
def Obligations.InvAtReset : Prop := Safety.Inv State.reset

/-- Every step of the machine keeps memory in its canonical form: addresses strictly rising, and no byte listed that reads as an unlisted one. So two states with the same bytes have the same memory. -/
def Obligations.StepKeepsMemoryCanonical : Prop :=
  ∀ s t : State, Safety.Inv s → step s = .next t → Safety.Inv t

/-! ### From bytes to an instruction's meaning -/

namespace Sys2Proof.Says

/-- The issue step of row `rid` in `s` comes to the fetch of a bundle in `g`: the row may issue and no row before it in the scan of its core's ports can, no boundary work stands before it, no limit of its bundles is reached, its line is at hand, and a chunk of limit 1 has taken
the commit grant in `g` (02_rows.md R40, R46; 06_rows_at_work.md R121; 07_memory_model.md R131; 09_memory_sync.md R175; 22_near_memory.md R342). -/
structure Reaches (s g : State) (rid : Nat) : Prop where
  issues : s.canIssue rid = true
  first : s.overtaken rid = false
  boundary : s.boundaryWork rid = none
  budget : isBase rid = true → (s.thrOf rid).mid = true ∨ (s.bdcOf (rid - baseRid)).bundles < 4096
  packet : ∀ p, (s.thrOf rid).packet = some p → p.bundles < 64 ∨ (s.thrOf rid).mid = true
  line : s.fetchStalls rid (s.ctlOf rid).pc.toNat = false
  grant : s.grantFor rid = (true, g)

/-- The bundle that the row's program counter names is fetched from `pa` as the two words, and leaves the state `s1` (03_encoding.md R51). -/
structure Fetched (s s1 : State) (rid pc pa tt w0 w1 : Nat) : Prop where
  xlat : s.coreXlat rid (pc / 8 * 8) .fetch = .ok pa tt s1
  code : tt ≠ 3 ∧ tt ≠ 4
  good : s1.uncorrAt pa 8 = none
  words : s1.peekBytes pa 8 = bytesOf 8 (w0 + w1 * 2 ^ 32)
  small : w0 < 2 ^ 32 ∧ w1 < 2 ^ 32

end Sys2Proof.Says

/-- A step runs the decoded instruction (03_encoding.md R51, R52, R54, R55): where the schedule names an issue step of a row, and the word of a SERIAL bundle at its program counter decodes to an instruction whose destination is no bound
stream, the step is `exec` of that instruction in the state of the fetch with the chunk begun and the word's address, place and scratch set, followed by the end of the step. -/
def Obligations.StepRunsWord : Prop :=
  ∀ (s g s1 : State) (c r pa tt w0 w1 : Nat) (rest : List Action) (i : Instr), s.schedule = .issue c r :: rest →
    let s0 := { s with schedule := rest }
    let pc := (s0.ctlOf (ridOf c r)).pc.toNat
    Reaches s0 g (ridOf c r) → Fetched g s1 (ridOf c r) pc pa tt w0 w1 → w0 / 2 ^ 31 = 1 → w1 / 2 ^ 31 = 0 →
    decodeChecked (if pc % 8 = 0 then w0 % 2 ^ 31 else w1) = .ok i → s1.boundDest (ridOf c r) i = false →
    let s2 := { s1.beginChunk (ridOf c r) with cur := { rid := ridOf c r, pc := BitVec.ofNat 57 pc, slot := if pc % 8 = 0 then .serial0 else .serial1 } }
    step s = match exec i s2 with
      | .next t => .next (if t.cur.ended = .completed then t.finishStep s2.hadPacket else t)
      | o => o

/-- R52, R53, R56: the same for a PAIR. Word 0 runs first; where it completes, word 1 runs with the row's bytes, streams and pending loads as they stood before the PAIR, and the step ends once, from the state before the PAIR where word 1 does not complete. A `SLEEPUNTIL` in word 0 that must sleep does so once word 1 has completed, and neither word has any other effect. -/
def Obligations.StepRunsPair : Prop :=
  ∀ (s g s1 : State) (c r pa tt w0 w1 : Nat) (rest : List Action) (i j : Instr), s.schedule = .issue c r :: rest →
    let s0 := { s with schedule := rest }
    let pc := (s0.ctlOf (ridOf c r)).pc.toNat
    Reaches s0 g (ridOf c r) → Fetched g s1 (ridOf c r) pc pa tt w0 w1 → w0 / 2 ^ 31 = 0 → w1 / 2 ^ 31 = 0 → w0 / 2 ^ 30 = 0 → w1 / 2 ^ 30 = 1 → pc % 8 = 0 →
    decodeChecked w0 = .ok i → decodeChecked w1 = .ok j → conflict i j = false → barrierWord i = false →
    s1.boundDest (ridOf c r) i = false → s1.boundDest (ridOf c r) j = false →
    let s2 := { s1.beginChunk (ridOf c r) with cur := { rid := ridOf c r, pc := BitVec.ofNat 57 pc, slot := .pair0, view := some (s1.viewOf (ridOf c r)) } }
    ∀ t, exec i s2 = .next t →
      (t.cur.ended ≠ .completed → (∀ a d, t.cur.ended ≠ .sleeps a d) → step s = .next t) ∧
      (t.cur.ended = .completed ∨ (∃ a d, t.cur.ended = .sleeps a d) → ∀ u, exec j { t with cur := { t.cur with slot := .pair1, pc := t.cur.pc + 4, ended := .running } } = .next u →
        step s = .next (s2.finishTwo u s2.hadPacket t.cur.sleeping) ∧ (u.cur.ended = .completed →
          (t.cur.ended = .completed → s2.finishTwo u s2.hadPacket t.cur.sleeping = u.finishStep s2.hadPacket) ∧
          ∀ a d, t.cur.ended = .sleeps a d → s2.finishTwo u s2.hadPacket t.cur.sleeping = s2.stopBlock 12 0 a (some d)))

/-- 03_encoding.md R53, R55, R56, R61, R74, R75; 09_memory_sync.md R179; 15_traps.md R259: a bundle that is no instruction traps at the word that the order of the checks names. A PAIR entered at word 1 traps `ENTRY`. Check 3 reports word 0: the classes and bits 31 of a
PAIR, two destinations that clash (also where word 1 does not decode), a barrier word in word 0. A word that does not decode, or that names a bound stream as its destination, is reported itself: word 1 of a PAIR at the address of the bundle + 4, while the saved
program counter is that of the bundle. The step is that of the device step UNDECODABLE_WORD at that word (obligation UndecodableTraps). -/
def Sys2Proof.Says.BadBundleIsUndecodable : Prop :=
  ∀ (s g s1 : State) (c r pa tt w0 w1 : Nat) (rest : List Action), s.schedule = .issue c r :: rest →
    let s0 := { s with schedule := rest }
    let rid := ridOf c r
    let pc := (s0.ctlOf rid).pc.toNat
    let report := fun at' word : Nat => exec .undecodableWord
      { s1 with cur := { rid := rid, pc := BitVec.ofNat 57 (if isBase rid then word else at'), slot := .serial0 }, sel := { unit := word } }
    let pair := w0 / 2 ^ 31 = 0 ∧ w1 / 2 ^ 31 = 0 ∧ w0 / 2 ^ 30 = 0 ∧ w1 / 2 ^ 30 = 1 ∧ pc % 8 = 0
    Reaches s0 g rid → Fetched g s1 rid pc pa tt w0 w1 →
    (w0 / 2 ^ 31 = 1 → w1 / 2 ^ 31 = 1 → step s = report (pc / 8 * 8) (pc / 8 * 8)) ∧
    (w0 / 2 ^ 31 = 1 → w1 / 2 ^ 31 = 0 → s1.decodeFor rid (if pc % 8 = 0 then w0 % 2 ^ 31 else w1) = none → step s = report pc pc) ∧
    (w0 / 2 ^ 31 = 0 → pc % 8 ≠ 0 → step s = .next ({ s1 with cur := { rid := rid, pc := BitVec.ofNat 57 pc, slot := .serial1 } }.stopTrap .entry (num pc) none false)) ∧
    (pc % 8 = 0 → w0 / 2 ^ 31 = 0 → w1 / 2 ^ 31 = 1 ∨ w0 / 2 ^ 30 = 1 ∨ w1 / 2 ^ 30 = 0 → step s = report pc pc) ∧
    (∀ i j, pair → decodeChecked w0 = .ok i → decodeChecked w1 = .ok j → conflict i j = true → step s = report pc pc) ∧
    (∀ i e, pair → decodeChecked w0 = .ok i → decodeChecked w1 = .error e → namesDest i w1 = true → step s = report pc pc) ∧
    (∀ i, pair → decodeChecked w0 = .ok i → barrierWord i = true → step s = report pc pc) ∧
    (pair → s1.decodeFor rid w0 = none → step s = report pc pc) ∧
    (∀ i, pair → s1.decodeFor rid w0 = some i → barrierWord i = false → (∀ j, decodeChecked w1 = .ok j → conflict i j = false) →
      (∀ e, decodeChecked w1 = .error e → namesDest i w1 = false) → s1.decodeFor rid w1 = none → step s = report pc (pc + 4)) ∧
    -- a word decodes for a row when it decodes and its destination is no bound stream
    (∀ w i, s1.decodeFor rid w = some i ↔ decodeChecked w = .ok i ∧ s1.boundDest rid i = false)

/-- What a scalar source field reads (03_encoding.md R53, R61, R66): 0 for code 0; a register or a value of the distance window, in word 1 of a PAIR as it stood before the PAIR; a value that a load has not bound yet holds the word back. A destination field may name
neither a code above 27 nor a bound stream (R61). -/
def Sys2Proof.Says.Sources : Prop :=
  ∀ (s : State) (a : Nat), a < 32 → s.seenBound a = false → s.uncorrAt (rowAddr s.me + 8 * a) 8 = none →
    s.src 0 = .ok (0, s) ∧
    (a ≠ 0 → s.cur.slot ≠ .pair1 → (∀ l ∈ (s.thrOf s.me).loads, l.reg ≠ some a ∧ (a < 28 ∨ l.win ≠ some (a - 27))) → s.src a = .ok (num (s.greg s.me a), s)) ∧
    (∀ v, a ≠ 0 → s.cur.slot = .pair1 → s.cur.view = some v → (∀ l ∈ v.loads, l.reg ≠ some a ∧ (a < 28 ∨ l.win ≠ some (a - 27))) → s.src a = .ok (num (mread v.cells (rowAddr s.me + 8 * a) 8), s)) ∧
    (a ≠ 0 → s.cur.slot = .serial0 → (∃ l ∈ (s.thrOf s.me).loads, (a < 28 ∧ l.reg = some a) ∨ (28 ≤ a ∧ l.win = some (a - 27))) →
      ∀ d b : BitVec 5, exec (.add d (BitVec.ofNat 5 a) b) s = .next (s.applyStop (.stall false))) ∧
    (s.dstOpen a = true ↔ a < 28 ∧ ¬ (24 ≤ a ∧ bits (s.seen (256 + 16 * (a - 24)) 8) 63 63 = 1))

/-- What a source field that names a bound stream register reads (04_scalar.md R78; 03_encoding.md R53, R65; 13_engines.md R254, R255; 15_traps.md R271). Past the end, that is with `LEFT` 0, it reads 0 and sets `SX`. Otherwise it takes the oldest staged element, extended as the
descriptor says, `NEXT` moves by `STRIDE` and `LEFT` falls by 1; with none staged the word waits, or traps where the refill of that element failed. Word 1 of a PAIR reads the descriptor and the elements as they stood before the PAIR, less what word 0 popped. The operand of a word that does not
complete is not taken: the state is that before the word. -/
def Sys2Proof.Says.StreamSources : Prop :=
  ∀ (s : State) (a : Nat), s.seenBound a = true → s.uncorrAt (rowAddr s.me + (256 + 16 * (a - 24))) 16 = none →
    let off := 256 + 16 * (a - 24)
    let d := s.seenStream a
    let mine := (s.coreOf s.myCore).streams.find? fun x => x.rid == s.me && x.reg == a
    (s.cur.slot ≠ .pair1 → d = (s.rowGet s.me off 8, s.rowGet s.me (off + 8) 8) ∧ s.seenStage a = mine) ∧
    (∀ v, s.cur.slot = .pair1 → s.cur.view = some v → s.pairPops a = 0 → d = (mread v.cells (rowAddr s.me + off) 8, mread v.cells (rowAddr s.me + (off + 8)) 8) ∧
      (s.seenStage a).map (·.vals) = (v.streams.find? fun x => x.rid == s.me && x.reg == a).map (·.vals)) ∧
    (∀ v, s.cur.slot = .pair1 → s.cur.view = some v → s.pairPops a = 1 →
      d = streamStep (mread v.cells (rowAddr s.me + off) 8) (mread v.cells (rowAddr s.me + (off + 8)) 8) ∧
      (s.seenStage a).map (·.vals) = (v.streams.find? fun x => x.rid == s.me && x.reg == a).map fun x => x.vals.drop 1) ∧
    (bits d.2 31 0 = 0 → s.src a = .ok (0, s.orSts 32)) ∧
    (bits d.2 31 0 ≠ 0 → (s.seenStage a = none ∨ ∃ st, s.seenStage a = some st ∧ st.vals = [] ∧ (st.failed = none ∨ st.failedAt ≠ bits d.1 56 0)) →
      s.src a = .error (.block 4 (a - 24) 0 none) ∧
      (s.cur.slot ≠ .pair1 → ∀ x b : BitVec 5, a = x.toNat → exec (.add b x x) s = .next (s.applyStop (.block 4 (a - 24) 0 none)))) ∧
    (∀ st f, bits d.2 31 0 ≠ 0 → s.seenStage a = some st → st.vals = [] → st.failed = some f → st.failedAt = bits d.1 56 0 →
      s.src a = .error (.trap (if st.uncorr then .uncorr else .access) (num f) none)) ∧
    (∀ st v l, bits d.2 31 0 ≠ 0 → s.seenStage a = some st → st.vals = v :: l → ∃ t, s.src a = .ok (streamExtend d.1 v, t) ∧
      (t.thrOf s.me).chunk.pops = (s.thrOf s.me).chunk.pops ++ [(a, v)] ∧
      (s.rowGet s.me off 8 = d.1 → s.rowGet s.me (off + 8) 8 = d.2 →
        t.rowGet s.me off 8 = (streamStep d.1 d.2).1 ∧ t.rowGet s.me (off + 8) 8 = (streamStep d.1 d.2).2 ∧
        (∀ y ∈ mine, ((t.coreOf s.myCore).streams.find? fun x => x.rid == s.me && x.reg == a) = some { y with vals := y.vals.drop 1 })) ∧
      ∀ x, x < rowAddr s.me + off ∨ rowAddr s.me + off + 16 ≤ x → mget t.mem x = mget s.mem x)

/-- 13_engines.md R254, R255: the element steps: `NEXT` moves by the signed 32-bit `STRIDE` modulo 2^57, `LEFT` falls by 1, everything else of the descriptor stays; an element is extended from its width, 1, 2, 4 or 8 bytes by its size field, with its sign where the
descriptor says so. -/
def Sys2Proof.Says.StreamStep : Prop :=
  (∀ w0 w1 : Nat, w0 < 2 ^ 64 → w1 < 2 ^ 64 → let r := streamStep w0 w1
    bits r.1 63 57 = bits w0 63 57 ∧ ((bits r.1 56 0 : Int) - (bits w0 56 0 + (BitVec.ofNat 32 (bits w1 63 32)).toInt)) % 2 ^ 57 = 0 ∧
    bits r.2 63 32 = bits w1 63 32 ∧ (bits w1 31 0 ≠ 0 → bits r.2 31 0 + 1 = bits w1 31 0)) ∧
  (∀ (w0 : Nat) (v : W), let n := 8 * 2 ^ bits w0 58 57
    (bits w0 62 62 = 0 → streamExtend w0 v = num (v.toNat % 2 ^ n)) ∧ (bits w0 62 62 = 1 → streamExtend w0 v = (BitVec.ofNat n v.toNat).signExtend 64))


/-! ### Scalar words -/

namespace Sys2Proof.Says

/-- Two-source words and their results (04_scalar.md R82, R83). -/
def aluTable : List ((BitVec 5 → BitVec 5 → BitVec 5 → Instr) × (W → W → W)) := [
  (.add, fun a b => num (a.toNat + b.toNat)),
  (.sub, fun a b => int (a.toNat - b.toNat)),
  (.and, fun a b => a &&& b),
  (.or, fun a b => a ||| b),
  (.xor, fun a b => a ^^^ b),
  (.andn, fun a b => a &&& ~~~b),
  (.shl, fun a b => num (a.toNat * 2 ^ (b.toNat % 64))),
  (.shr, fun a b => num (a.toNat / 2 ^ (b.toNat % 64))),
  (.sar, fun a b => int (a.toInt / 2 ^ (b.toNat % 64))),
  (.rol, fun a b => num (a.toNat * 2 ^ (b.toNat % 64) + a.toNat / 2 ^ (64 - b.toNat % 64))),
  (.ror, fun a b => num (a.toNat / 2 ^ (b.toNat % 64) + a.toNat * 2 ^ (64 - b.toNat % 64))),
  (.min, fun a b => int (Min.min a.toInt b.toInt)),
  (.max, fun a b => int (Max.max a.toInt b.toInt)),
  (.minu, fun a b => num (Min.min a.toNat b.toNat)),
  (.maxu, fun a b => num (Max.max a.toNat b.toNat)),
  (.slt, fun a b => truth (decide (a.toInt < b.toInt))),
  (.sltu, fun a b => truth (decide (a.toNat < b.toNat))),
  (.seq, fun a b => truth (decide (a = b))),
  (.sne, fun a b => truth (decide (a ≠ b))),
  (.cmovz, fun a b => if b = 0 then a else 0),
  (.cmovnz, fun a b => if b ≠ 0 then a else 0),
  (.addw, fun a b => wide32 (a.toNat + b.toNat)),
  (.subw, fun a b => wide32 (2 ^ 32 + a.toNat % 2 ^ 32 - b.toNat % 2 ^ 32)),
  (.shlw, fun a b => wide32 (a.toNat * 2 ^ (b.toNat % 32))),
  (.shrw, fun a b => wide32 (a.toNat % 2 ^ 32 / 2 ^ (b.toNat % 32))),
  (.sarw, fun a b => int ((BitVec.ofNat 32 a.toNat).toInt / 2 ^ (b.toNat % 32)))]
def mulDivTable : List ((BitVec 5 → BitVec 5 → BitVec 5 → Instr) × (W → W → W)) := [
  (.mul, fun a b => int (a.toInt * b.toInt)),
  (.mulh, fun a b => int (a.toInt * b.toInt / 2 ^ 64)),
  (.mulhu, fun a b => num (a.toNat * b.toNat / 2 ^ 64)),
  (.mulw, fun a b => wide32 (a.toNat * b.toNat)),
  (.div, fun a b => if b = 0 then 0xFFFFFFFFFFFFFFFF else int (a.toInt.tdiv b.toInt)),
  (.divu, fun a b => if b = 0 then 0xFFFFFFFFFFFFFFFF else num (a.toNat / b.toNat)),
  (.rem, fun a b => if b = 0 then a else int (a.toInt - b.toInt * a.toInt.tdiv b.toInt)),
  (.remu, fun a b => if b = 0 then a else num (a.toNat - b.toNat * (a.toNat / b.toNat)))]
/-- One-source words and their results (R84, R86, R87). -/
def bitsTable : List ((BitVec 5 → BitVec 5 → Instr) × (W → W)) := [
  (.clz, fun a => num (((List.range 64).find? fun n => a.getMsbD n).getD 64)),
  (.ctz, fun a => num (((List.range 64).find? fun n => a.getLsbD n).getD 64)),
  (.popc, fun a => num ((List.range 64).countP fun n => a.getLsbD n)),
  (.brev, fun a => num (((List.range 64).map fun n => (a.getLsbD (63 - n)).toNat * 2 ^ n).sum)),
  (.bswap, fun a => num (((List.range 8).map fun n => a.toNat / 2 ^ (8 * (7 - n)) % 256 * 2 ^ (8 * n)).sum))]
def immTable : List ((BitVec 5 → BitVec 5 → BitVec 14 → Instr) × (W → BitVec 14 → W)) := [
  (.addi, fun a i => int (a.toNat + i.toInt)),
  (.andi, fun a i => a &&& int i.toInt),
  (.ori, fun a i => a ||| int i.toInt),
  (.xori, fun a i => a ^^^ int i.toInt),
  (.slti, fun a i => truth (decide (a.toInt < i.toInt))),
  (.sltiu, fun a i => truth (decide (a.toNat < (int i.toInt).toNat)))]
def shiftTable : List ((BitVec 5 → BitVec 5 → BitVec 6 → Instr) × (W → BitVec 6 → W)) := [
  (.shli, fun a m => num (a.toNat * 2 ^ m.toNat)),
  (.shri, fun a m => num (a.toNat / 2 ^ m.toNat)),
  (.sari, fun a m => int (a.toInt / 2 ^ m.toNat)),
  (.rori, fun a m => num (a.toNat / 2 ^ m.toNat + a.toNat * 2 ^ (64 - m.toNat)))]

/-- An A-class word of format F-R, and of format F-I (03_encoding.md R58, R59): bit 30, `OP`, `D`, `A`, `B` and `FN`, or `IMM`. -/
def wordR (op : Nat) (d a : BitVec 5) (b fn : Nat) : Nat := 2 ^ 30 + op * 2 ^ 24 + d.toNat * 2 ^ 19 + a.toNat * 2 ^ 14 + b * 2 ^ 9 + fn
def wordI (op : Nat) (d a : BitVec 5) (imm : Nat) : Nat := 2 ^ 30 + op * 2 ^ 24 + d.toNat * 2 ^ 19 + a.toNat * 2 ^ 14 + imm
/-- The word is no instruction of the device. -/
def Refused (w : Nat) : Prop := ∃ r, decodeChecked w = .error r

end Sys2Proof.Says

/-- 04_scalar.md R82 and R83: `FN` selects the `ALU` or `MULDIV` word, and higher values are no instruction. Each word completes and produces the function of its two sources that the tables give, with no case that traps. -/
def Obligations.AluResults : Prop :=
  (∀ (k : Nat) (d a b : BitVec 5), d.toNat < 28 → (∀ e, aluTable[k]? = some e → decodeChecked (wordR 0 d a b.toNat k) = .ok (e.1 d a b)) ∧ (∀ e, mulDivTable[k]? = some e → decodeChecked (wordR 1 d a b.toNat k) = .ok (e.1 d a b)) ∧
    (26 ≤ k → k < 512 → Refused (wordR 0 d a b.toNat k)) ∧ (8 ≤ k → k < 512 → Refused (wordR 1 d a b.toNat k))) ∧
  ∀ (s s1 s2 : State) (d a b : BitVec 5) (x y : W), s.src a.toNat = .ok (x, s1) → s1.src b.toNat = .ok (y, s2) → s2.dstOpen d.toNat = true →
    ∀ e ∈ aluTable ++ mulDivTable, ∃ t, exec (e.1 d a b) s = .next t ∧ t.cur.ended = .completed ∧ Produced s2 t s.me d (e.2 x y) ∧ Moves s2 t s.me

/-- 04_scalar.md R84: the `BITS` words with their encodings; a nonzero `B` field and `FN` 5 to 511 are no instruction. Each word completes and produces its function of its source. -/
def Obligations.BitsResults : Prop :=
  (∀ (k : Nat) (d a b : BitVec 5), d.toNat < 28 → k < 512 → (∀ e, bitsTable[k]? = some e → decodeChecked (wordR 2 d a 0 k) = .ok (e.1 d a)) ∧ (5 ≤ k ∨ b ≠ 0 → Refused (wordR 2 d a b.toNat k))) ∧
  ∀ (s s1 : State) (d a : BitVec 5) (x : W), s.src a.toNat = .ok (x, s1) → s1.dstOpen d.toNat = true →
    ∀ e ∈ bitsTable, ∃ t, exec (e.1 d a) s = .next t ∧ t.cur.ended = .completed ∧ Produced s1 t s.me d (e.2 x) ∧ Moves s1 t s.me

/-- 04_scalar.md R86: the immediate words with their encodings. Each word completes and produces its function of its source and of `IMM` sign-extended; `sltiu` of −1 gives 1 for every source but the greatest. -/
def Obligations.ImmediateResults : Prop :=
  (∀ (k : Nat) (e : (BitVec 5 → BitVec 5 → BitVec 14 → Instr) × (W → BitVec 14 → W)) (d a : BitVec 5) (i : BitVec 14), immTable[k]? = some e → d.toNat < 28 → decodeChecked (wordI (6 + k) d a i.toNat) = .ok (e.1 d a i)) ∧
  (∀ (s s1 : State) (d a : BitVec 5) (x : W), s.src a.toNat = .ok (x, s1) → s1.dstOpen d.toNat = true →
    (∀ e ∈ immTable, ∀ i, ∃ t, exec (e.1 d a i) s = .next t ∧ t.cur.ended = .completed ∧ Produced s1 t s.me d (e.2 x i) ∧ Moves s1 t s.me) ∧
    ∃ t, exec (.sltiu d a (-1)) s = .next t ∧ Produced s1 t s.me d (truth (decide (x ≠ 0xFFFFFFFFFFFFFFFF))))

/-- 04_scalar.md R87: the immediate shifts with their encodings; a nonzero `IMM`[11:6] is no instruction. Each word completes and produces what the shift of R82 by the amount gives. -/
def Obligations.ShiftImmediateResults : Prop :=
  (∀ (k m n : Nat) (d a : BitVec 5), k < 4 → m < 64 → n < 64 → d.toNat < 28 → (∀ e, shiftTable[k]? = some e → decodeChecked (wordI 12 d a (k * 2 ^ 12 + m)) = .ok (e.1 d a (BitVec.ofNat 6 m))) ∧
    (n ≠ 0 → Refused (wordI 12 d a (k * 2 ^ 12 + n * 2 ^ 6 + m)))) ∧
  (∀ p ∈ shiftTable.zip [(.shl : BitVec 5 → BitVec 5 → BitVec 5 → Instr), .shr, .sar, .ror], ∀ (s s1 : State) (d a : BitVec 5) (m : BitVec 6) (x : W), s.src a.toNat = .ok (x, s1) → s1.dstOpen d.toNat = true →
    ∃ t, exec (p.1.1 d a m) s = .next t ∧ t.cur.ended = .completed ∧ Produced s1 t s.me d (p.1.2 x m) ∧ Moves s1 t s.me ∧
      ∀ (b : BitVec 5) (s2 : State) (y : W), s1.src b.toNat = .ok (y, s2) → s2.dstOpen d.toNat = true → y.toNat % 64 = m.toNat → ∃ u, exec (p.2 d a b) s = .next u ∧ Produced s2 u s.me d (p.1.2 x m))

/-- R85, R88: the words of a field of bits, and `LUI` and `AUIPC`, complete with the results the rules give. -/
def Obligations.FieldResults : Prop :=
  ∀ (s s1 s2 : State) (d a : BitVec 5) (x y : W), s.src a.toNat = .ok (x, s1) → s1.dstOpen d.toNat = true →
    (∀ n p : BitVec 6, n.toNat + 1 + p.toNat ≤ 64 →
      (∃ t, exec (.exts d a n p) s = .next t ∧ t.cur.ended = .completed ∧ Moves s1 t s.me ∧
        Produced s1 t s.me d ((BitVec.ofNat (n.toNat + 1) (x.toNat / 2 ^ p.toNat)).signExtend 64)) ∧
      (∃ t, exec (.extz d a n p) s = .next t ∧ t.cur.ended = .completed ∧ Moves s1 t s.me ∧
        Produced s1 t s.me d (num (x.toNat / 2 ^ p.toNat % 2 ^ (n.toNat + 1)))) ∧
      (s1.src d.toNat = .ok (y, s2) → ∃ t, exec (.ins d a n p) s = .next t ∧ t.cur.ended = .completed ∧ Moves s2 t s.me ∧ ∃ v,
        Produced s2 t s.me d v ∧ ∀ j, j < 64 → v.getLsbD j =
          if p.toNat ≤ j ∧ j < p.toNat + n.toNat + 1 then x.getLsbD (j - p.toNat) else y.getLsbD j)) ∧
    (∀ i : BitVec 19, s.dstOpen d.toNat = true →
      (∃ t, exec (.lui d i) s = .next t ∧ t.cur.ended = .completed ∧ Produced s t s.me d (int (i.toInt * 2 ^ 14)) ∧ Moves s t s.me) ∧
      (∃ t, exec (.auipc d i) s = .next t ∧ t.cur.ended = .completed ∧ Produced s t s.me d (int (s.cur.pc.toNat + i.toInt * 2 ^ 14)) ∧ Moves s t s.me))

/-- 02_rows.md R23 and 03_encoding.md R67: what a register word leaves unchanged. It covers the words of R82 to R88 (`ALU`, `MULDIV`, `BITS`, fields, immediates, shifts and upper constants). The state that it is
compared with is the one in which the sources have been read. -/
def Obligations.RegisterWordsFrame : Prop :=
  ∀ (s s1 s2 t : State) (d a b : BitVec 5) (x y : W) (n p m : BitVec 6) (i : BitVec 14) (u : BitVec 19), s.src a.toNat = .ok (x, s1) → s1.src b.toNat = .ok (y, s2) → s2.dstOpen d.toNat = true →
    (∀ e ∈ aluTable ++ mulDivTable, exec (e.1 d a b) s = .next t → RegisterFrame s2 t s.me d) ∧
    (∀ e ∈ bitsTable, exec (e.1 d a) s = .next t → s1.dstOpen d.toNat = true → RegisterFrame s1 t s.me d) ∧
    (∀ e ∈ immTable, exec (e.1 d a i) s = .next t → s1.dstOpen d.toNat = true → RegisterFrame s1 t s.me d) ∧
    (∀ e ∈ shiftTable, exec (e.1 d a m) s = .next t → s1.dstOpen d.toNat = true → RegisterFrame s1 t s.me d) ∧
    (exec (.exts d a n p) s = .next t → s1.dstOpen d.toNat = true → RegisterFrame s1 t s.me d) ∧
    (exec (.extz d a n p) s = .next t → s1.dstOpen d.toNat = true → RegisterFrame s1 t s.me d) ∧
    (b = d → exec (.ins d a n p) s = .next t → RegisterFrame s2 t s.me d) ∧
    (exec (.lui d u) s = .next t → s.dstOpen d.toNat = true → RegisterFrame s t s.me d) ∧
    (exec (.auipc d u) s = .next t → s.dstOpen d.toNat = true → RegisterFrame s t s.me d)

/-! ### Scalar floating point -/

namespace Sys2Proof.Says

/-- Floating-point words of two sources, with their results and flags by Flags.lean (04_scalar.md R91). -/
def fp2Table (p : BitVec 1) (r : BitVec 3) : List ((BitVec 5 → BitVec 5 → BitVec 5 → Instr) × (W → W → FpRes)) := [
  (fun d a b => .fadd d a b p r, fpArith 0 p.toNat r.toNat), (fun d a b => .fsub d a b p r, fpArith 1 p.toNat r.toNat),
  (fun d a b => .fmul d a b p r, fpArith 2 p.toNat r.toNat), (fun d a b => .fdiv d a b p r, fpArith 3 p.toNat r.toNat),
  (fun d a b => .fmin d a b p, fpMinMax false p.toNat), (fun d a b => .fmax d a b p, fpMinMax true p.toNat),
  (fun d a b => .feq d a b p, fpCompare 0 p.toNat), (fun d a b => .flt d a b p, fpCompare 1 p.toNat), (fun d a b => .fle d a b p, fpCompare 2 p.toNat),
  (fun d a b => .fsgnj d a b p, fun x y => (fpSign 0 p.toNat x y, 0)), (fun d a b => .fsgnjn d a b p, fun x y => (fpSign 1 p.toNat x y, 0)),
  (fun d a b => .fsgnjx d a b p, fun x y => (fpSign 2 p.toNat x y, 0))]
/-- Those of one source. -/
def fp1Table (p : BitVec 1) (r x y : BitVec 3) : List ((BitVec 5 → BitVec 5 → Instr) × (W → FpRes)) := [
  (fun d a => .fsqrt d a p r, fpSqrt p.toNat r.toNat), (fun d a => .fclass d a p, fun u => (fpClass p.toNat u, 0)),
  (fun d a => .fcvt d a x y r, fpConvert x.toNat y.toNat r.toNat)]
/-- Those whose destination is a source too (R92). -/
def fp3Table (p : BitVec 1) (r : BitVec 3) : List ((BitVec 5 → BitVec 5 → BitVec 5 → Instr) × (W → W → W → FpRes)) := [
  (fun d a b => .ffma d a b p r, fpFma false p.toNat r.toNat), (fun d a b => .ffms d a b p r, fpFma true p.toNat r.toNat)]

/-- The value of a finite encoding as a rational. -/
def ratOf : Val → ℚ
  | .fin neg a b => (if neg then -1 else 1) * a / b
  | _ => 0
/-- Whether a value is finite. -/
def finite : Val → Prop
  | .fin _ _ _ => True
  | _ => False

end Sys2Proof.Says

/-- 04_scalar.md R90 to R93: a floating-point word raises no trap: it completes, writes its result, ORs the flags that it signals into `STS`, and changes nothing else. -/
def Obligations.FloatWordsComplete : Prop :=
  ∀ (s s1 s2 s3 : State) (d a b : BitVec 5) (u v w : W) (p : BitVec 1) (r x y : BitVec 3), s.src a.toNat = .ok (u, s1) → s1.src b.toNat = .ok (v, s2) → s2.src d.toNat = .ok (w, s3) →
    (s1.dstOpen d.toNat = true → ∀ e ∈ fp1Table p r x y, ∃ t, exec (e.1 d a) s = .next t ∧ Writes (s1.orSts (e.2 u).2) t s.me d (e.2 u).1) ∧
    (s2.dstOpen d.toNat = true → ∀ e ∈ fp2Table p r, ∃ t, exec (e.1 d a b) s = .next t ∧ Writes (s2.orSts (e.2 u v).2) t s.me d (e.2 u v).1) ∧
    (s3.dstOpen d.toNat = true → ∀ e ∈ fp3Table p r, ∃ t, exec (e.1 d a b) s = .next t ∧ Writes (s3.orSts (e.2 u v w).2) t s.me d (e.2 u v w).1)

/-- R89, R91: NaN results are canonical and only a signalling NaN is invalid; a finite nonzero number divided by zero is an infinity and sets `DZ` alone; addition and multiplication do not depend on the order of their operands; FP32 results have bits [63:32] zero. -/
def Sys2Proof.Says.FloatSpecialCases : Prop :=
  ∀ (p rm op : Nat) (a b : W), op < 4 → p < 2 →
    let f := fpFmt p
    let x := fpBits p a
    let y := fpBits p b
    (isNaN f x = true ∨ isNaN f y = true → fpArith op p rm a b = (num (canonicalNaN f), if isSNaN f x = true ∨ isSNaN f y = true then 16 else 0)) ∧
    (finite (valOf f x) → ratOf (valOf f x) ≠ 0 → finite (valOf f y) → ratOf (valOf f y) = 0 → fpArith 3 p rm a b = (num (infEnc f (signBit f x != signBit f y)), 8)) ∧
    (op = 0 ∨ op = 2 → fpArith op p rm a b = fpArith op p rm b a) ∧
    (p = 0 → (fpArith op p rm a b).1.toNat < 2 ^ 32 ∧ (fpSqrt p rm a).1.toNat < 2 ^ 32)

/-- R91: comparisons, minimum and maximum, class and sign words. -/
def Sys2Proof.Says.FloatOrderAndSign : Prop :=
  ∀ (p : Nat) (a b : W), p < 2 →
    let f := fpFmt p
    let x := fpBits p a
    let y := fpBits p b
    (isNaN f x = true ∨ isNaN f y = true → (fpCompare 0 p a b).1 = 0 ∧ fpCompare 1 p a b = (0, 16) ∧ fpCompare 2 p a b = (0, 16)) ∧
    (finite (valOf f x) → finite (valOf f y) →
      fpCompare 0 p a b = (truth (decide (ratOf (valOf f x) = ratOf (valOf f y))), 0) ∧ fpCompare 1 p a b = (truth (decide (ratOf (valOf f x) < ratOf (valOf f y))), 0) ∧
      fpCompare 2 p a b = (truth (decide (ratOf (valOf f x) ≤ ratOf (valOf f y))), 0) ∧
      (ratOf (valOf f x) < ratOf (valOf f y) → fpMinMax false p a b = (num x, 0) ∧ fpMinMax true p a b = (num y, 0) ∧ fpMinMax false p b a = (num x, 0) ∧ fpMinMax true p b a = (num y, 0))) ∧
    (isNaN f x = true → isNaN f y = false → (fpMinMax false p a b).1 = num y ∧ (fpMinMax true p a b).1 = num y ∧ (fpMinMax false p b a).1 = num y ∧ (fpMinMax true p b a).1 = num y) ∧
    (isNaN f x = true → isNaN f y = true → (fpMinMax false p a b).1 = num (canonicalNaN f) ∧ (fpMinMax true p a b).1 = num (canonicalNaN f)) ∧
    (∃ i, i < 10 ∧ fpClass p a = num (2 ^ i) ∧ (i = 8 ↔ isSNaN f x = true) ∧ (i = 9 ↔ isNaN f x = true ∧ isSNaN f x = false) ∧ (i = 0 ∨ i = 7 ↔ isInf f x = true) ∧ (i = 3 ∨ i = 4 ↔ finite (valOf f x) ∧ ratOf (valOf f x) = 0)) ∧
    (∀ j, j < f.width → (fpSign 0 p a b).getLsbD j = (if j + 1 = f.width then b.getLsbD j else a.getLsbD j) ∧ (fpSign 1 p a b).getLsbD j = (if j + 1 = f.width then !b.getLsbD j else a.getLsbD j) ∧
      (fpSign 2 p a b).getLsbD j = (if j + 1 = f.width then a.getLsbD j != b.getLsbD j else a.getLsbD j)) ∧
    (p = 0 → ∀ op, op < 3 → (fpSign op p a b).toNat < 2 ^ 32)

/-- 11_formats.md R194; 04_scalar.md R89: in every floating format a value that an encoding holds rounds to that encoding, exactly and under every rounding. A result of RNE that does not overflow is as near to the exact value as any
finite encoding, RDN never rounds up, RUP never down and RTZ never away from zero. -/
def Obligations.RoundingIsCorrect : Prop :=
  ∀ f ∈ [fp64, fp32, fp16, bf16, e4m3, e5m2], ∀ (rm : Rm) (neg : Bool) (a b x : Nat), 0 < b → x < 2 ^ f.width →
    (isNaN f x = false → (rnd f rm false (valOf f x)).enc = x ∧ (rnd f rm false (valOf f x)).inexact = false ∧ (rnd f rm false (valOf f x)).overflow = false) ∧
    (let r := fun m : Rm => rnd f m false (.fin neg a b)
     let v := ratOf (.fin neg a b)
     let g := fun m : Rm => ratOf (valOf f (r m).enc)
     ((r .rne).overflow = false → finite (valOf f x) → |g .rne - v| ≤ |ratOf (valOf f x) - v|) ∧
     ((r .rdn).overflow = false → g .rdn ≤ v) ∧ ((r .rup).overflow = false → v ≤ g .rup) ∧ ((r .rtz).overflow = false → |g .rtz| ≤ |v|) ∧
     ((r rm).overflow = false → ((r rm).inexact = true ↔ g rm ≠ v)))

/-! ### Branches, jumps and row-local access -/

namespace Sys2Proof.Says

/-- Branches and their conditions (04_scalar.md R94). -/
def branchTable : List ((BitVec 5 → BitVec 5 → BitVec 14 → Instr) × (W → W → Prop)) := [
  (.beq, fun a b => a = b), (.bne, fun a b => a ≠ b), (.blt, fun a b => a.toInt < b.toInt), (.bge, fun a b => a.toInt ≥ b.toInt),
  (.bltu, fun a b => a.toNat < b.toNat), (.bgeu, fun a b => a.toNat ≥ b.toNat)]
/-- The address of the sequential successor of the word (03_encoding.md R57). -/
def successorOf (s : State) : W := match s.cur.slot with
  | .pair0 => num (s.cur.pc + 8).toNat
  | _ => num (s.cur.pc + 4).toNat
/-- `LDR` forms: width in bytes, and whether the value is sign-extended (R97). -/
def ldrTable : List ((BitVec 5 → BitVec 14 → Instr) × Nat × Bool) :=
  [(.ldrB, 1, true), (.ldrH, 2, true), (.ldrW, 4, true), (.ldrD, 8, false), (.ldrBu, 1, false), (.ldrHu, 2, false), (.ldrWu, 4, false)]
def strTable : List ((BitVec 5 → BitVec 14 → Instr) × Nat) := [(.strB, 1), (.strH, 2), (.strW, 4), (.strD, 8)]
/-- `n` bytes read by a scalar load (R97; 09_memory_sync.md R154). -/
def extended (n : Nat) (signed : Bool) (v : Nat) : W := if signed then (BitVec.ofNat (8 * n) v).signExtend 64 else num v

end Sys2Proof.Says

/-- 04_scalar.md R94, R96: a branch changes nothing but the program counter, which goes to the word's address plus 4 × `OFF` when the condition holds and to the next word otherwise. -/
def Sys2Proof.Says.Branches : Prop :=
  ∀ (s s1 s2 : State) (a b : BitVec 5) (o : BitVec 14) (x y : W), (s.ctlOf s.me).p = false → s.src a.toNat = .ok (x, s1) → s1.src b.toNat = .ok (y, s2) →
    ∀ e ∈ branchTable, ∃ t, exec (e.1 a b o) s = .next t ∧ Passes s2 t s.me ∧
      (e.2 x y → GoesTo s2 t s.me (int (s.cur.pc.toNat + 4 * o.toInt))) ∧ (¬ e.2 x y → Moves s2 t s.me)

/-- R95, R96: the jumps write the address of the sequential successor and transfer control; `JALR` reads its base before it writes. -/
def Sys2Proof.Says.Jumps : Prop :=
  ∀ (s s1 : State) (d a : BitVec 5) (o : BitVec 19) (i : BitVec 14) (x : W), (s.ctlOf s.me).p = false →
    (s.dstOpen d.toNat = true → ∃ t, exec (.jal d o) s = .next t ∧ Wrote s t s.me d (successorOf s) ∧ GoesTo s t s.me (int (s.cur.pc.toNat + 4 * o.toInt))) ∧
    (s.src a.toNat = .ok (x, s1) → s1.dstOpen d.toNat = true →
      ∃ t, exec (.jalr d a i) s = .next t ∧ Wrote s1 t s.me d (successorOf s) ∧ GoesTo s1 t s.me (int (x.toNat + i.toInt)))

/-- R97, R98; 03_encoding.md R53: `LDR` reads bytes of the thread's own row, in word 1 of a PAIR as they stood before the PAIR, and extends them; a misaligned offset traps `ALIGN` and a range that a command holds locked traps `RANGE`, with the physical
row-store address in g3. A word that a segment load or a queued vector operation is still to write holds it back. -/
def Sys2Proof.Says.RowLocalLoads : Prop :=
  ∀ (s : State) (d : BitVec 5) (i : BitVec 14), ∀ e ∈ ldrTable,
    let n := e.2.1
    let pa := 0x10000000000 + coreOfRid s.me * 0x200000 + rowOfRid s.me * 1024 + i.toNat
    (i.toNat % n ≠ 0 → Traps (e.1 d i) s .align (num pa)) ∧
    (i.toNat % n = 0 → isBase s.me = false → s.rangeLocked s.myCluster pa n false = true → Traps (e.1 d i) s .range (num pa)) ∧
    (i.toNat % n = 0 → (isBase s.me = true ∨ s.rangeLocked s.myCluster pa n false = false) → s.segPending i.toNat n = true → exec (e.1 d i) s = .next (s.applyStop (.stall false))) ∧
    (i.toNat % n = 0 → (isBase s.me = true ∨ s.rangeLocked s.myCluster pa n false = false) → s.segPending i.toNat n = false → s.uncorrAt pa n = none → s.dstOpen d.toNat = true →
      ∃ t, exec (e.1 d i) s = .next t ∧ Writes s t s.me d (extended n e.2.2
        (match s.cur.slot, s.cur.view with
          | .pair1, some v => mread v.cells pa n
          | _, _ => mread s.mem pa n)))

/-- R97, R98: `STR` stores the low bytes of its source to the thread's own row and to nothing else, with the same traps. -/
def Sys2Proof.Says.RowLocalStores : Prop :=
  ∀ (s s1 : State) (d : BitVec 5) (i : BitVec 14) (x : W), ∀ e ∈ strTable,
    let n := e.2
    let pa := 0x10000000000 + coreOfRid s.me * 0x200000 + rowOfRid s.me * 1024 + i.toNat
    (i.toNat % n ≠ 0 → Traps (e.1 d i) s .align (num pa)) ∧
    (i.toNat % n = 0 → isBase s.me = false → s.rangeLocked s.myCluster pa n true = true → Traps (e.1 d i) s .range (num pa)) ∧
    (i.toNat % n = 0 → (isBase s.me = true ∨ s.rangeLocked s.myCluster pa n true = false) → s.segPending i.toNat n = false → s.src d.toNat = .ok (x, s1) →
      ∃ t, exec (e.1 d i) s = .next t ∧ Stores s1 t s.me pa n x)

/-! ### Thread control -/

/-- R100: `NOP` has no effect and produces no value (in an open packet it traps, 03_encoding.md R80); the all-zero word is `NOP`; a bundle of two such words is `ILLEGAL` (03_encoding.md R56). -/
def Obligations.NopHasNoEffect : Prop :=
  (∀ s : State, (s.ctlOf s.me).p = false → ∃ t, exec .nop s = .next t ∧ Passes s t s.me ∧ Moves s t s.me) ∧ (∀ s : State, (s.ctlOf s.me).p = true → Traps .nop s .packet 0) ∧
  decodeChecked 0 = .ok .nop ∧ (∀ w, w < 2 ^ 31 → decodeChecked w = .ok .nop → w = 0) ∧
  (∀ (s : State) (rid pc : Nat), pc % 8 = 0 → s.checkBundle rid pc (.pair 0 0) = .one .undecodableWord { s with cur := { rid := rid, pc := BitVec.ofNat 57 pc }, sel := { unit := pc } })

/-- R107, R103, R101, R102; 09_memory_sync.md R162: `CYCLE` writes the package cycle counter. `SETPRI` leaves the smaller of its source and 3 to the commit of its chunk. `CHUNK` completes alone in its chunk and marks its end. `TEXIT` and `YIELD` complete alone,
with every load performed and no vector operation queued, and ask for the close to EXITED, whose program counter still names the word, or to READY. -/
def Sys2Proof.Says.ThreadControl : Prop :=
  ∀ (s s1 : State) (d a : BitVec 5) (x : W), (s.ctlOf s.me).p = false →
    (s.dstOpen d.toNat = true → ∃ t, exec (.cycle d) s = .next t ∧ Writes s t s.me d (num s.cycle)) ∧
    (isBase s.me = false → s.src a.toNat = .ok (x, s1) → ∃ t, exec (.setpri a) s = .next t ∧ t.cur.ended = .completed ∧ Moves s1 t s.me ∧ Elsewhere s1 t ∧ OnlyPc s1 t s.me ∧ t.mem = s1.mem ∧
      (∀ r, r ≠ s.me → t.thrOf r = s1.thrOf r) ∧
      t.thrOf s.me = { s1.thrOf s.me with chunk := { (s1.thrOf s.me).chunk with deferred := (s1.thrOf s.me).chunk.deferred ++ [.setpri (BitVec.ofNat 2 (Min.min x.toNat 3))] } }) ∧
    (isBase s.me = false → MayBeAlone s → ∃ t, exec .chunk s = .next t ∧ Passes s t s.me ∧ Moves s t s.me ∧ t.cur.ending = true) ∧
    (isBase s.me = false → MayBeAlone s → s.quiet = true →
      (∃ t, exec .yield s = .next t ∧ Passes s t s.me ∧ Moves s t s.me ∧ t.cur.ending = true ∧ t.cur.close = some .ready) ∧
      (s.helpersOf s.me = [] → ∃ t, exec .texit s = .next t ∧ Passes s t s.me ∧ GoesTo s t s.me (num s.cur.pc.toNat) ∧ t.cur.ending = true ∧ t.cur.close = some .exited) ∧
      (s.helpersOf s.me ≠ [] → Traps .texit s .helper 0))

/-- R102, 02_rows.md R41, R44; 04_scalar.md R81; 12_vector_matrix.md R210: at the end of the step of a word that closes its row to READY (`YIELD`), in a chunk of its own with nothing buffered and no vector operation queued, the control entry is READY with no wait, the row keeps its
priority and program counter, its port writes it back in the 2 cycles after those of the step, the row is READY from the last of them, and its turn begins anew. With a vector operation still queued the close waits. -/
def Sys2Proof.Says.YieldCloses : Prop :=
  ∀ (t : State) (had : Bool) (p : Nat), t.cur.ended = .completed → isBase t.me = false → t.cur.ending = true → t.cur.close = some .ready → t.portOf t.me = some p → t.cur.endsBundle = true →
    (t.thrOf t.me).chunk.stores = [] → (t.thrOf t.me).chunk.deferred = [] → (t.thrOf t.me).deferred = [] → (t.thrOf t.me).stop = none →
    let u := t.finishOne had
    (t.vecBusy t.me = false →
      u.ctlOf t.me = { t.ctlOf t.me with state := .ready, wait := 0, wake := 0 } ∧ (u.thrOf t.me).turn = 0 ∧ (u.thrOf t.me).chunk = {} ∧ (u.thrOf t.me).effPri = (t.ctlOf t.me).pri.toNat ∧ (u.thrOf t.me).readyAt = t.cycle + t.cur.cost + 1 ∧
      (tget none (u.coreOf t.myCore).ports p : Option Port) = some { row := rowOfRid t.me, phase := .writeback, busy := t.cycle + t.cur.cost + 2 } ∧ u.mem = t.mem) ∧
    (t.vecBusy t.me = true → u.ctlOf t.me = t.ctlOf t.me ∧ (u.thrOf t.me).closeAs = some .ready ∧ (u.thrOf t.me).chunk.ended = true ∧ u.mem = t.mem)

/-- R104, R105: `HSTART` of a row that is no helper reserves its lowest free slot and a pool row, and writes the handle; the helper itself starts when the chunk commits. A helper, or a row without a free slot or pool row, traps `HELPER`. -/
def Sys2Proof.Says.HelperStart : Prop :=
  ∀ (s s1 s2 : State) (d a b : BitVec 5) (x y : W), InThread s → s.src a.toNat = .ok (x, s1) → s1.src b.toNat = .ok (y, s2) →
    ((s2.ctlOf s.me).h = true ∨ s2.freeHelperSlot s.me = none ∨ s2.helperRow s.me = none → Traps (.hstart d a b) s .helper 0) ∧
    ∀ slot row, (s2.ctlOf s.me).h = false → s2.freeHelperSlot s.me = some slot → s2.helperRow s.me = some row → s2.dstOpen d.toNat = true →
      slot < 10 ∧ (∀ h ∈ s2.helpersOf s.me, h.1 ≠ slot) ∧ (∀ j, j < slot → ∃ h ∈ s2.helpersOf s.me, h.1 = j) ∧
      row ∈ s2.poolRows s.myCore (s2.rowTenant s.me) ∧ (s2.ctlOf (ridOf s.myCore row)).state = .null ∧
      ∃ t, exec (.hstart d a b) s = .next t ∧ t.cur.ended = .completed ∧ Moves s2 t s.me ∧ OnlyPc s2 t s.me ∧ Produced s2 t s.me d (num (row * 2 ^ 16 + slot)) ∧
        tget ({ parent := 0, slot := 0 } : Helper) (t.cs s.myCore).helpers row = { parent := rowOfRid s.me, slot := slot } ∧
        (∀ r, r ≠ row → tget ({ parent := 0, slot := 0 } : Helper) (t.cs s.myCore).helpers r = tget { parent := 0, slot := 0 } (s2.cs s.myCore).helpers r) ∧
        (∀ c, c ≠ s.myCore → t.coreOf c = s2.coreOf c) ∧ (t.thrOf s.me).chunk.deferred = (s2.thrOf s.me).chunk.deferred ++ [.hstart row x y] ∧ (∀ r, r ≠ s.me → t.thrOf r = s2.thrOf r)

/-- R106; R79; 02_rows.md R41: `HJOIN` with no masked live helper completes and changes nothing but the program counter. With masked helpers that are EXITED or NULL, and written back, it completes alone and leaves to its commit that each of their pool rows becomes NULL, in
slot-table order. Otherwise it waits with `WAIT` 6 and the mask. -/
def Sys2Proof.Says.HelperJoin : Prop :=
  (∀ (s s1 : State) (a : BitVec 5) (x : W), InThread s → s.src a.toNat = .ok (x, s1) → MayBeAlone s1 →
    let mask := x.toNat % 1024
    let named := (s1.helpersOf s.me).filter fun h => mask.testBit h.1
    let finished := fun h : Nat × Nat => ((s1.ctlOf (ridOf s.myCore h.2)).state = .exited ∨ (s1.ctlOf (ridOf s.myCore h.2)).state = .null) ∧ s1.writingBack (ridOf s.myCore h.2) = false
    (named = [] → ∃ t, exec (.hjoin a) s = .next t ∧ Passes s1 t s.me ∧ Moves s1 t s.me) ∧
    (named ≠ [] → (∀ h ∈ named, finished h) →
      exec (.hjoin a) s = .next (((s1.modCur fun c => { c with ending := true }).modChunk s.me fun c => { c with deferred := c.deferred ++ [.join (named.map fun h => ridOf s.myCore h.2)] }).spend 2).retire) ∧
    ((∃ h ∈ named, ¬ finished h) → exec (.hjoin a) s = .next (s.applyStop (.block 6 mask 0 none)))) ∧
  ∀ (u : State) (rid : Nat) (rows : List Nat), u.applyAtCommit rid (.join rows) = rows.foldl (fun u r => (u.nullRow r 0).moved r) u

/-! ### Traps, returns and system registers -/

namespace Sys2Proof.Says

/-- A trap is taken at once: the word stands outside word 1 of a PAIR, in a row that no nest owns and that serves no fault, with nothing of its chunk before it, every load performed, no packet open, no query buffer in use, no access waiting for its boundary and no stop marked. -/
structure TrapsNow (s : State) : Prop where
  slot : s.cur.slot ≠ .pair1
  thread : isBase s.me = false
  first : (s.thrOf s.me).chunk.steps = 0
  quiet : s.quiet = true
  packet : (s.thrOf s.me).packet = none
  waiting : (s.thrOf s.me).deferred = []
  stop : (s.thrOf s.me).stop = none
  nest : (s.thrOf s.me).nest = none
  serves : (s.thrOf s.me).serves = none
  queries : (s.coreOf s.myCore).qbufs = []

end Sys2Proof.Says

/-- 15_traps.md R263: `TRAP` raises `BRK` with its code in g3: the row is FAULTED with that cause and code at the word's address. `ILLEGAL` for the words that a base-die core may not execute (22_near_memory.md R342). -/
def Sys2Proof.Says.TrapWord : Prop :=
  ∀ (s : State) (b : BitVec 5), (InThread s → Traps (.trap b) s .brk (num b.toNat)) ∧ (isBase s.me = true → Traps (.trap b) s .illegal (num s.cur.pc.toNat)) ∧
    (InThread s → TrapsNow s → ∃ t, exec (.trap b) s = .next t ∧ t.cur.ended = .stopped ∧ (t.ctlOf s.me).state = .faulted ∧ (t.ctlOf s.me).pc = pcOf (num s.cur.pc.toNat) ∧
      (t.thrOf s.me).trapCause = some .brk ∧ (t.thrOf s.me).trapG3 = num b.toNat)

/-- R259, R260, R262: a row traps that has no handler in its team. The row is FAULTED with `WAIT` and `WAKE` 0, its program counter names the word, and one entry with the cause, `WHY` 0, the row's name, g3, the word's address and the cycle goes to its tenant's fault queue, or is counted lost where the queue is
absent or full. No byte of memory changes, and no other control entry but that of a row that waits for range-lock entries or for a mailbox slot. -/
def Sys2Proof.Says.TrapToFaultQueue : Prop :=
  ∀ (s : State) (c : Cause) (g3 : W), TrapsNow s → s.teamHandler s.me = none →
    let t := s.applyStop (.trap c g3 none)
    let q := s.tenOf (s.rowTenant s.me)
    let u := t.tenOf (s.rowTenant s.me)
    let log := bits q.fqbase.toNat 4 0
    t.cur.ended = .stopped ∧ t.mem = s.mem ∧ (∀ r, r ≠ s.me → (s.thrOf r).lockClaim = 0 → s.waits r 3 = false → t.ctlOf r = s.ctlOf r) ∧
    t.ctlOf s.me = { s.ctlOf s.me with state := .faulted, wait := 0, wake := 0, p := false, pc := pcOf (num s.cur.pc.toNat) } ∧
    (t.thrOf s.me).trapCause = some c ∧ (t.thrOf s.me).trapG3 = g3 ∧ (t.thrOf s.me).chunk = {} ∧
    (log ≠ 0 ∧ (q.fqtail + BitVec.ofNat 32 q.fqWay.length - q.fqhead).toNat ≠ 2 ^ log →
      u = { q with fqWay := q.fqWay ++ [{ dwords := [num (c.code * 2 ^ 56 + coreOfRid s.me * 2 ^ 11 + rowOfRid s.me), g3, num (pcOf (num s.cur.pc.toNat)).toNat, num s.cycle] }] }) ∧
    (log = 0 ∨ (q.fqtail + BitVec.ofNat 32 q.fqWay.length - q.fqhead).toNat = 2 ^ log → u = { q with fqlost := q.fqlost + 1 })

/-- R260, R261: with a team handler, a row that is no helper, with a free helper slot, starts a handler in a free pool row of its core. The handler row is READY with `PRI` 3 and `H` 1 at the handler's address, and holds the faulted row, the cause, g3 and the address of the word in g1 to g4; the faulted row is FAULTED. -/
def Sys2Proof.Says.TrapToHandler : Prop :=
  ∀ (s : State) (c : Cause) (g3 : W) (hdl row slot : Nat), TrapsNow s → s.teamHandler s.me = some hdl → (s.ctlOf s.me).h = false → s.freeHelperSlot s.me = some slot →
    s.freePoolRow s.myCore = some row → row < 2048 → ridOf s.myCore row ≠ s.me →
    let t := s.applyStop (.trap c g3 none)
    let h := ridOf s.myCore row
    t.cur.ended = .stopped ∧ (t.ctlOf s.me).state = .faulted ∧ (t.ctlOf s.me).pc = pcOf (num s.cur.pc.toNat) ∧
    (t.ctlOf h).state = .ready ∧ (t.ctlOf h).pri = 3 ∧ (t.ctlOf h).h = true ∧ (t.ctlOf h).team = (s.ctlOf s.me).team ∧ (t.ctlOf h).pc = pcOf (num hdl) ∧
    t.greg h 1 = rowOfRid s.me ∧ t.greg h 2 = c.code ∧ t.greg h 3 = g3.toNat ∧ t.greg h 4 = (pcOf (num s.cur.pc.toNat)).toNat ∧
    (t.thrOf h).serves = some { faulted := s.me } ∧ (∀ r, r ≠ s.me → r ≠ h → (s.thrOf r).lockClaim = 0 → s.waits r 3 = false → t.ctlOf r = s.ctlOf r)

/-- R265; 03_encoding.md R57: `TRET` of a handler row. Mode 0 resumes the faulted row at its program counter, mode 1 after the word that it names, mode 2 leaves it FAULTED; of a HELD row the saved state changes, and a row that is no longer FAULTED is left alone. Mode 1 goes past the bundle where the trap was
an `ACCESS` on its fetch, else to the successor of the word as the bundle's `L` gives it: the next bundle after word 1 and after a PAIR, word 1 after word 0 of a SERIAL bundle. Then the handler row asks for the close to NULL. A row that serves no fault, and a mode above 2, trap `HELPER`. -/
def Sys2Proof.Says.TrapReturn : Prop :=
  ∀ (s s1 : State) (a : BitVec 5) (m : W) (v : Serves), InThread s →
    ((s.thrOf s.me).serves = none → Traps (.tret a) s .helper 0) ∧
    ((s.thrOf s.me).serves = some v → s.src a.toNat = .ok (m, s1) → 2 < m.toNat → Traps (.tret a) s .helper 0) ∧
    ((s.thrOf s.me).serves = some v → s.src a.toNat = .ok (m, s1) → m.toNat ≤ 2 → MayBeAlone s1 → s1.quiet = true → v.faulted ≠ s.me → (m = 1 → s1.resumeWaits v.faulted = false) →
      let s2 := s1.modCur fun x => { x with ending := true }
      let c := s1.ctlOf v.faulted
      let held := c.state = .held ∧ (s1.thrOf v.faulted).saved = .faulted
      let pc := if m = 1 then pcOf (num (s2.resumePc v.faulted)) else c.pc
      ∃ t, exec (.tret a) s = .next t ∧ t.cur.ended = .completed ∧ t.cur.close = some .null ∧ t.cur.ending = true ∧ t.mem = s1.mem ∧ Moves s1 t s.me ∧
        (∀ r, r ≠ s.me → r ≠ v.faulted → t.ctlOf r = s1.ctlOf r) ∧
        (c.state = .faulted → m.toNat ≤ 1 → t.ctlOf v.faulted = { c with state := .ready, wait := 0, wake := 0, pc := pc }) ∧
        (held → t.ctlOf v.faulted = { c with pc := pc } ∧ (t.thrOf v.faulted).saved = if m.toNat ≤ 1 then .ready else .faulted) ∧
        (c.state = .faulted → m = 2 → t.ctlOf v.faulted = c) ∧ (c.state ≠ .faulted → ¬ held → t.ctlOf v.faulted = c ∧ t.thrOf v.faulted = s1.thrOf v.faulted)) ∧
    (∀ r, let pc := (s1.ctlOf r).pc.toNat
      ((s1.thrOf r).fetchTrap = true → s1.resumePc r = pc / 8 * 8 + 8) ∧
      (∀ pa tt u, (s1.thrOf r).fetchTrap = false → s1.coreXlat r (pc / 8 * 8) .fetch = .ok pa tt u →
        s1.resumePc r = if mread s1.mem (cellOf pa) 4 / 2 ^ 31 % 2 = 0 ∨ pc % 8 = 4 then pc / 8 * 8 + 8 else pc / 8 * 8 + 4))

/-- R266; 09_memory_sync.md R162: `FENCE.I` completes alone in its chunk once every earlier access of the thread is done, and changes nothing but the program counter; until then it waits. -/
def Sys2Proof.Says.FenceI : Prop :=
  ∀ s : State, InThread s → MayBeAlone s → (s.drained s.me = true → ∃ t, exec .fenceI s = .next t ∧ Passes s t s.me ∧ Moves s t s.me ∧ t.cur.ending = true) ∧
    (s.drained s.me = false → exec .fenceI s = .next (s.applyStop (.stall false)))

namespace Sys2Proof.Says

/-- System registers that threads read, with their values (15_traps.md R273). -/
def csrTable (s : State) : List (BitVec 12 × W) :=
  let c := s.cs s.myCore
  let t := s.tenOf (s.rowTenant s.me)
  let k := s.cluOf (clusterOf s.myCore)
  [(0x000, num (s.seen 0 8 % 2 ^ 62)), (0x010, num (coreOfRid s.me * 2048 + rowOfRid s.me)), (0x011, num s.pkg.pkgid.toNat), (0x012, num (s.rowTenant s.me)),
   (0x020, num c.openlim.toNat), (0x021, num c.turnlen.toNat), (0x022, num c.vshare.toNat), (0x023, num (c.hpoolCount.toNat * 2 ^ 16 + c.hpoolBase.toNat)),
   (0x024, num (s.coreOf s.myCore).rxdrop.toNat), (0x030, tget 0 k.teamhdl (s.ctlOf s.me).team.toNat), (0x038, k.ecclog), (0x040, num s.pkg.fnmode.toNat),
   (0x041, s.pkg.ready0), (0x042, s.pkg.ready1), (0x043, num s.pkg.tslice.toNat), (0x044, num s.pkg.gridslice.toNat), (0x050, t.fqbase),
   (0x051, num t.fqtail.toNat), (0x052, num t.fqhead.toNat), (0x053, num t.fqlost.toNat)]
/-- Registers that threads only read. -/
def csrReadOnly : List (BitVec 12) := [0x010, 0x011, 0x012, 0x038, 0x040, 0x041, 0x042, 0x043, 0x044, 0x050, 0x051, 0x052, 0x053]
/-- The writing forms and what they write (R272). -/
def csrForms : List ((BitVec 5 → BitVec 5 → BitVec 12 → Instr) × (W → W → W)) := [(.csrw, fun _ x => x), (.csrs, fun o x => o ||| x), (.csrc, fun o x => o &&& ~~~x)]

end Sys2Proof.Says

/-- R272, R273; 02_rows.md R25: `csrr` reads each register of the table, in word 1 of a PAIR the `STS` from before the PAIR; the reserved bits of `STS` read as zero. -/
def Sys2Proof.Says.CsrReads : Prop :=
  ∀ (s : State) (d : BitVec 5), InThread s → s.uncorrAt (rowAddr s.me) 8 = none → s.dstOpen d.toNat = true →
    ∀ e ∈ csrTable s, ∃ t, exec (.csrr d e.1) s = .next t ∧ Writes s t s.me d e.2

/-- R272 to R274: the writing forms give the old value and write the register: `STS` at once, with its bits [63:62] zero; every other register in an ending bundle, where a value outside its range leaves it unchanged (02_rows.md R43, 04_scalar.md R104), and one of `TURNLEN` makes the priority of a row that waits READY rise by the new length from then on (R44). A register that threads only read traps `ACCESS` with its number in g3. -/
def Sys2Proof.Says.CsrWrites : Prop :=
  ∀ (s s1 : State) (d a : BitVec 5) (x : W), InThread s → s.uncorrAt (rowAddr s.me) 8 = none → s.src a.toNat = .ok (x, s1) → s1.dstOpen d.toNat = true →
    (∀ n ∈ csrReadOnly, ∀ e ∈ csrForms, Traps (e.1 d a n) s .access (num n.toNat)) ∧
    (∀ e ∈ csrForms, ∃ t, exec (e.1 d a 0) s = .next t ∧ Writes (s1.rowPut s.me 0 8 ((e.2 (num (s.seen 0 8 % 2 ^ 62)) x).toNat % 2 ^ 62)) t s.me d (num (s.seen 0 8 % 2 ^ 62))) ∧
    (MayBeAlone s1 → ∀ e ∈ csrForms, ∀ r ∈ csrTable s, r.1 ∉ csrReadOnly → r.1 ≠ 0 →
      ∃ t, exec (e.1 d a r.1) s = .next t ∧ t.cur.ended = .completed ∧ t.cur.ending = true ∧ Moves s1 t s.me ∧ OnlyPc s1 t s.me ∧ Produced s1 t s.me d r.2 ∧
        (∀ q, r.1 ≠ 0x021 ∨ coreOfRid q ≠ s.myCore ∨ (s1.ctlOf q).state ≠ .ready → t.thrOf q = { s1.thrOf q with loads := (t.thrOf q).loads }) ∧ (∀ c, c ≠ s.myCore → t.coreOf c = s1.coreOf c) ∧ (∀ k, k ≠ clusterOf s.myCore → t.cluOf k = s1.cluOf k) ∧
        let v := (e.2 r.2 x).toNat
        let old := s1.coreOf s.myCore
        (r.1 = 0x020 → t.clu = s1.clu ∧ t.coreOf s.myCore = { old with cs := { old.cs with openlim := if 1 ≤ v % 32 ∧ v % 32 ≤ 16 then BitVec.ofNat 5 v else old.cs.openlim } }) ∧
        (r.1 = 0x021 → t.clu = s1.clu ∧ (∀ q y, coreOfRid q = s.myCore → (s1.ctlOf q).state = .ready → q ≠ s.me → (q, y) ∈ s1.thr → t.thrOf q = (s1.thrOf q).newLength s1.cycle old.cs.turnlen.toNat (t.coreOf s.myCore).cs.turnlen.toNat) ∧ t.coreOf s.myCore = { old with cs := { old.cs with turnlen := if 4 ≤ v % 65536 then BitVec.ofNat 16 v else old.cs.turnlen } }) ∧
        (r.1 = 0x022 → t.clu = s1.clu ∧ t.coreOf s.myCore = { old with cs := { old.cs with vshare := BitVec.ofNat 8 v } }) ∧
        (r.1 = 0x023 → t.clu = s1.clu ∧ (t.coreOf s.myCore).cs =
          if v / 2 ^ 16 % 64 = 0 ∨ v % 2048 + v / 2 ^ 16 % 64 ≤ 2047 then { old.cs with hpoolCount := BitVec.ofNat 6 (v / 2 ^ 16), hpoolBase := BitVec.ofNat 11 v } else old.cs) ∧
        (r.1 = 0x024 → t.clu = s1.clu ∧ t.coreOf s.myCore = { old with rxdrop := BitVec.ofNat 32 v }) ∧
        (r.1 = 0x030 → t.core = s1.core ∧ tget 0 (t.cluOf (clusterOf s.myCore)).teamhdl (s.ctlOf s.me).team.toNat = num (v % 2 ^ 57 / 4 * 4 + v % 2) ∧
          ∀ m, m ≠ (s.ctlOf s.me).team.toNat → (tget 0 (t.cluOf (clusterOf s.myCore)).teamhdl m : W) = tget 0 (s1.cluOf (clusterOf s.myCore)).teamhdl m))

/-- 16_translation.md R288: `TLBINV` completes alone once the thread's earlier accesses are done. Kind 0 invalidates the combined translations of every part of the page that holds `a` for the thread's tenant, kind 1 all of its tenant's, in every TLB of the package, and no other translation goes; a kind above 1 is `ILLEGAL`. -/
def Sys2Proof.Says.TlbInvalidate : Prop :=
  ∀ (s s1 s2 : State) (a b : BitVec 5) (x k : W), InThread s → s.src a.toNat = .ok (x, s1) → s1.src b.toNat = .ok (k, s2) →
    let ten := s2.rowTenant s.me
    let gone : TlbEntry → Bool := fun e => e.tag == ten && (k != 0 || e.va / e.span == x.toNat / e.span)
    (1 < k.toNat → Traps (.tlbinv a b) s .illegal (num s.cur.pc.toNat)) ∧
    (k.toNat ≤ 1 → MayBeAlone s2 → s2.drained s.me = true → s2.entryBusy gone = false → ∃ t, exec (.tlbinv a b) s = .next t ∧ t.cur.ended = .completed ∧ Moves s2 t s.me ∧ OnlyPc s2 t s.me ∧ t.mem = s2.mem ∧
      (∀ c, (t.coreOf c).itlb = (s2.coreOf c).itlb.filter (fun e => !gone e) ∧ (t.coreOf c).dtlb = (s2.coreOf c).dtlb.filter (fun e => !gone e)) ∧
      (∀ q, (t.cluOf q).tlb = (s2.cluOf q).tlb.filter (fun e => !gone e)))

/-- 23_stack_fabric.md R346, R347: `PGATE` of a quad whose cores are granted to the tenant. Bit 63 asks for the gate: a RUNNING quad starts to gate and its OPEN rows are asked to stop, a WAKING one gates later. Without it a GATING quad runs again and a GATED one wakes after 4,096 cycles. Any other operand traps `ACCESS`. -/
def Sys2Proof.Says.PowerGate : Prop :=
  ∀ (s s1 : State) (a : BitVec 5) (x : W), InThread s → s.src a.toNat = .ok (x, s1) →
    let q := x.toNat % 2048
    let legal := x.toNat / 2048 % 2 ^ 52 = 0 ∧ q < 1536 ∧ ∀ i, i < 4 → s1.granted (s1.rowTenant s.me) (4 * q + i) = true
    (¬ legal → Traps (.pgate a) s .access x) ∧
    (legal → MayBeAlone s1 → ∃ t, exec (.pgate a) s = .next t ∧ t.cur.ended = .completed ∧ Moves s1 t s.me ∧ OnlyPc s1 t s.me ∧ t.mem = s1.mem ∧ (∀ p, p ≠ q → t.quadOf p = s1.quadOf p) ∧
      t.quadOf q = (match x.getLsbD 63, (s1.quadOf q).power with
        | true, .running => { s1.quadOf q with power := .gating }
        | true, .waking => { s1.quadOf q with gateNext := true }
        | false, .gating => { s1.quadOf q with power := .running }
        | false, .gated => { s1.quadOf q with power := .waking, wakeAt := s1.cycle + 4096, gateNext := false, shed := false }
        | _, _ => s1.quadOf q) ∧
      (x.getLsbD 63 = true → (s1.quadOf q).power = .running → ∀ r, isBase r = false → coreOfRid r / 4 = q → (s1.ctlOf r).state = .opened → (∃ c, (r, c) ∈ s1.ctl) → (t.thrOf r).stop ≠ none))

/-! ### Loads and stores -/

namespace Sys2Proof.Says

/-- Scalar loads: width in bytes and whether the value is sign-extended (09_memory_sync.md R154, R156). -/
def immLoads (d a : BitVec 5) (i : BitVec 14) : List (Instr × Nat × Bool) :=
  [(.ldb d a i, 1, true), (.ldh d a i, 2, true), (.ldw d a i, 4, true), (.ldd d a i, 8, false), (.ldbu d a i, 1, false), (.ldhu d a i, 2, false), (.ldwu d a i, 4, false)]
def idxLoads (d a b : BitVec 5) (k : BitVec 2) : List (Instr × Nat × Bool) :=
  [(.ldxB d a b k, 1, true), (.ldxH d a b k, 2, true), (.ldxW d a b k, 4, true), (.ldxD d a b k, 8, false), (.ldxBu d a b k, 1, false), (.ldxHu d a b k, 2, false), (.ldxWu d a b k, 4, false)]
def immStores (d a : BitVec 5) (i : BitVec 14) : List (Instr × Nat) := [(.stb d a i, 1), (.sth d a i, 2), (.stw d a i, 4), (.std d a i, 8)]
def idxStores (d a b : BitVec 5) (k : BitVec 2) : List (Instr × Nat) := [(.stxB d a b k, 1), (.stxH d a b k, 2), (.stxW d a b k, 4), (.stxD d a b k, 8)]

/-- The address of an immediate form, `a` + `IMM`, or of an indexed form, `a` + `b` × 2^`K`, and the state after its operands are read (R152, R156). -/
def AddressOf (s s1 : State) (ea : W) (a : BitVec 5) : BitVec 14 ⊕ (BitVec 5 × BitVec 2) → Prop
  | .inl i => ∃ x, s.src a.toNat = .ok (x, s1) ∧ ea = int (x.toNat + i.toInt)
  | .inr (b, k) => ∃ x y s0, s.src a.toNat = .ok (x, s0) ∧ s0.src b.toNat = .ok (y, s1) ∧ ea = num (x.toNat + y.toNat * 2 ^ k.toNat)

/-- `i` is a scalar load to `d` of `n` bytes at the address `ea`, outside an open packet, whose operands leave `s1`. -/
def LoadsFrom (s s1 : State) (i : Instr) (d : BitVec 5) (n : Nat) (signed : Bool) (ea : W) : Prop :=
  (s.ctlOf s.me).p = false ∧ ((∃ a im, (i, n, signed) ∈ immLoads d a im ∧ AddressOf s s1 ea a (.inl im)) ∨ (∃ a b k, (i, n, signed) ∈ idxLoads d a b k ∧ AddressOf s s1 ea a (.inr (b, k))))
/-- `i` is a scalar store of `n` bytes of `v` at `ea`. -/
def StoresTo (s s2 : State) (i : Instr) (n : Nat) (ea v : W) : Prop :=
  (s.ctlOf s.me).p = false ∧ ∃ d s1, s1.src (d : BitVec 5).toNat = .ok (v, s2) ∧
    ((∃ a im, (i, n) ∈ immStores d a im ∧ AddressOf s s1 ea a (.inl im)) ∨ (∃ a b k, (i, n) ∈ idxStores d a b k ∧ AddressOf s s1 ea a (.inr (b, k))))

/-- A segment of the row `rid` written from `s`: the 64 bytes of w`k` hold `v`, and nothing else changed but the program counter and pending loads of the segment. -/
structure WritesSegment (s t : State) (rid k v : Nat) : Prop where
  completed : t.cur.ended = .completed
  pc : Moves s t rid
  rest : Elsewhere s t
  ctl : OnlyPc s t rid
  thr : ∀ r, t.thrOf r = { s.thrOf r with loads := (t.thrOf r).loads }
  value : t.rowGet rid (320 + 64 * k) 64 = v % 2 ^ 512
  mem : ∀ a, a < rowAddr rid + 320 + 64 * k ∨ rowAddr rid + 384 + 64 * k ≤ a → mget t.mem a = mget s.mem a

/-- A store joined the chunk's buffer and nothing else changed but the program counter and the write signature. -/
structure Buffers (s t : State) (pa : Nat) (bs : List Byte) (strong home : Bool) : Prop where
  completed : t.cur.ended = .completed
  pc : Moves s t s.me
  rest : Elsewhere s t
  ctl : OnlyPc s t s.me
  thr : ∀ r, r ≠ s.me → t.thrOf r = s.thrOf r
  stores : (t.thrOf s.me).chunk.stores = (s.thrOf s.me).chunk.stores ++ [{ pa := pa, bytes := bs, strong := strong, home := home }]
  own : t.thrOf s.me = { s.thrOf s.me with chunk := { (s.thrOf s.me).chunk with stores := (t.thrOf s.me).chunk.stores, wsig := (t.thrOf s.me).chunk.wsig, ended := (t.thrOf s.me).chunk.ended } }
  mem : t.mem = s.mem

/-- The load that joins the pending-load set (07_memory_model.md R135; 09_memory_sync.md R154). -/
def pendingOf (s : State) (d : BitVec 5) (pa n : Nat) (signed : Bool) (own : List (Nat × Byte)) (acq atomic : Bool) : PLoad :=
  { id := s.seq, pa := pa, size := n, sext := signed, reg := if d = 0 then none else some d.toNat, win := some 1, seg := none, own := own, acq := acq, atomic := atomic }
/-- A scalar load that is issued and not yet performed: its destination and its place in the distance window are taken, earlier pending loads lose the register it binds and move in the window. -/
structure Pends (s t : State) (d : BitVec 5) (l : PLoad) : Prop where
  completed : t.cur.ended = .completed
  pc : Moves s t s.me
  ctl : OnlyPc s t s.me
  loads : (t.thrOf s.me).loads = ((s.thrOf s.me).loads.map fun x =>
    { x with reg := if d ≠ 0 ∧ x.reg = some d.toNat then none else x.reg, win := match x.win with | some k => if k < 4 then some (k + 1) else none | none => none }) ++ [l]
  others : ∀ r, r ≠ s.me → t.thrOf r = s.thrOf r
  seq : t.seq = s.seq + 1
  mem : ∀ a, (d = 0 ∨ a < rowAddr s.me + 8 * d.toNat ∨ rowAddr s.me + 8 * d.toNat + 8 ≤ a) → (a < rowAddr s.me + 224 ∨ rowAddr s.me + 256 ≤ a) → mget t.mem a = mget s.mem a

end Sys2Proof.Says

/-- 09_memory_sync.md R152, R155; 16_translation.md R282; 15_traps.md R271: the checks of an access, in their order: bits [63:57] and then alignment; then the translation, which traps `ACCESS` where it fails and waits for the line of a migrating page; then the thread's own bytes 0 to 319; the target's width and kind;
range locks; and, of an access that reads, uncorrectable words, which trap `UNCORR` with the address of the word. An access that passes them has the translated address. Host memory takes no segment `LDX` or `STX`. -/
def Sys2Proof.Says.AccessChecks : Prop :=
  ∀ (s : State) (ea : W) (n : Nat) (k : AccKind), 0 < n →
    (2 ^ 57 ≤ ea.toNat → s.access ea n k = .error (.trap .access ea none)) ∧
    (ea.toNat < 2 ^ 57 → ea.toNat % n ≠ 0 → s.access ea n k = .error (.trap .align ea none)) ∧
    (ea.toNat < 2 ^ 57 → ea.toNat % n = 0 → ∀ r, s.coreXlat s.me ea.toNat k.acc = .access r → s.access ea n k = .error (.trap .access ea r)) ∧
    (ea.toNat < 2 ^ 57 → ea.toNat % n = 0 → s.coreXlat s.me ea.toNat k.acc = .line → s.access ea n k = .error (.stall false)) ∧
    (ea.toNat < 2 ^ 57 → ea.toNat % n = 0 → ∀ pa tt s1, s.coreXlat s.me ea.toNat k.acc = .ok pa tt s1 → s1.me = s.me →
      let far := pa < rowAddr s.me ∨ rowAddr s.me + 320 ≤ pa
      let unlocked := isBase s.me = true ∨ s1.rangeLocked s.myCluster pa n k.stores = false
      (rowAddr s.me ≤ pa → pa < rowAddr s.me + 320 → s.access ea n k = .error (.trap .access ea none)) ∧
      (far → s1.targetTakes pa n k = false → s.access ea n k = .error (.trap .access ea none)) ∧
      (far → s1.targetTakes pa n k = true → isBase s.me = false → s1.rangeLocked s.myCluster pa n k.stores = true → s.access ea n k = .error (.trap .range ea none)) ∧
      (∀ u, far → s1.targetTakes pa n k = true → unlocked → k ≠ .store → k ≠ .indexed true → s1.uncorrAt pa n = some u → s.access ea n k = .error (.trap .uncorr (num u) none)) ∧
      (far → s1.targetTakes pa n k = true → unlocked → k = .store ∨ k = .indexed true ∨ s1.uncorrAt pa n = none → s.access ea n k = .ok (pa, s1))) ∧
    (∀ pa st, regionOf pa = .host → s.targetTakes pa n (.indexed st) = false ∧ s.targetTakes pa n .load = !isBase s.me ∧ s.targetTakes pa n .store = !isBase s.me)

/-- 16_translation.md R280: an access that passes its checks changes nothing of the machine but what the TLBs hold. -/
def Sys2Proof.Says.AccessLeavesOnlyTranslations : Prop :=
  ∀ (s t : State) (ea : W) (n : Nat) (k : AccKind) (pa : Nat), s.access ea n k = .ok (pa, t) →
    { t with core := s.core, clu := s.clu } = s ∧ (∀ c, t.coreOf c = { s.coreOf c with itlb := (t.coreOf c).itlb, dtlb := (t.coreOf c).dtlb }) ∧ (∀ q, t.cluOf q = { s.cluOf q with tlb := (t.cluOf q).tlb })

/-- R152, R154, R156 and 07_memory_model.md R124, R128, R135: where a scalar load completes, by the home of its address. Bytes of single-copy memory of its own cluster (its own segments; another row's bytes once that row is at a boundary, for which the load waits) are read at once, with those of its own chunk's stores on top.
Bytes of HBM or another home that its own chunk stored whole come from the chunk; otherwise the load joins the pending-load set. Device registers and host memory are read alone in a chunk once earlier accesses are done. A base-die handler reads memory directly. -/
def Sys2Proof.Says.ScalarLoads : Prop :=
  ∀ (s s1 s2 : State) (i : Instr) (d : BitVec 5) (n : Nat) (signed : Bool) (ea : W) (pa : Nat), LoadsFrom s s1 i d n signed ea → s1.access ea n .load = .ok (pa, s2) → s2.me = s.me → s2.dstOpen d.toNat = true →
    (isBase s.me = true → ∃ t, exec i s = .next t ∧ Writes s2 t s.me d (extended n signed (s2.peek pa n))) ∧
    (isBase s.me = false →
      (rowAt pa = some s.me → clusterHome pa = some s.myCluster → deviceHome pa = false → s2.segPending (pa - rowAddr s.me) n = false →
        ∃ t, exec i s = .next t ∧ Writes (s2.trackRead pa) t s.me d (extended n signed (s2.clusterRead' pa n))) ∧
      (∀ s3, rowAt pa ≠ some s.me → clusterHome pa = some s.myCluster → deviceHome pa = false → s2.reach pa n = .ok s3 → s3.me = s.me → s3.dstOpen d.toNat = true →
        ∃ t, exec i s = .next t ∧ Writes (s3.trackRead pa) t s.me d (extended n signed (s3.clusterRead' pa n))) ∧
      (rowAt pa ≠ some s.me → clusterHome pa = some s.myCluster → deviceHome pa = false → s2.settleAt pa n (some s.me) = none → exec i s = .next (s.applyStop (.hold pa s2.cur.ending))) ∧
      (clusterHome pa ≠ some s.myCluster → deviceHome pa = false →
        let own := (List.range n).filterMap fun j => (bufByte (s2.thrOf s.me).chunk.stores (pa + j)).map fun b => (j, b)
        (own.length = n → ∃ t, exec i s = .next t ∧ Writes s2 t s.me d (extended n signed (ofBytes (own.map (·.2))))) ∧
        (own.length ≠ n → ∃ t, exec i s = .next t ∧ Pends s2 t d (pendingOf s2 d pa n signed own false false))) ∧
      (deviceHome pa = true → MayBeAlone s2 → s2.drained s.me = true →
        (regionOf pa = .host → ∃ t, exec i s = .next t ∧ Writes s2 t s.me d (extended n signed (s2.peek pa n))) ∧
        (regionOf pa ≠ .host → ∀ v, s2.mmioRead (some s.me) pa = some v → ∃ t, exec i s = .next t ∧ Writes s2 t s.me d (extended n signed v.toNat))))

/-- What a load of single-copy memory reads (07_memory_model.md R128; 02_rows.md R50): the youngest store of the thread's own chunk, byte by byte, over what stands in memory, in which the reserved bits [63:62] of a thread row's `STS` read as zero (02_rows.md R25); zero from a BUSY bank (25_platform_cases.md R368). -/
def Sys2Proof.Says.ClusterReadBytes : Prop :=
  ∀ (s : State) (pa n : Nat), n ≤ 64 → (∀ r w o, regionOf pa ≠ .control r w o) →
    ((s.thrOf s.me).chunk.stores = [] → s.busyBank pa = false → (∀ r o, regionOf pa = .rowStore r o → 8 ≤ o ∨ o + n ≤ 7 ∨ (s.ctlOf r).state = .null) → s.clusterRead' pa n = s.peek pa n) ∧
    (∀ r, (s.thrOf s.me).chunk.stores = [] → s.busyBank pa = false → regionOf pa = .rowStore r 0 → (s.ctlOf r).state ≠ .null → n = 8 → s.clusterRead' pa n = s.peek pa n % 2 ^ 62) ∧
    ((s.thrOf s.me).chunk.stores = [] → s.busyBank pa = true → s.clusterRead' pa n = 0) ∧
    (∀ b l, (s.thrOf s.me).chunk.stores = l ++ [b] → b.pa = pa → b.bytes.length = n → s.clusterRead' pa n = ofBytes b.bytes)

/-- R152, R154, R156 and 07_memory_model.md R124, R128: where a scalar store completes. A store to the thread's own segments takes effect at once. Any other joins the chunk's buffer, unless the buffer would need a 33rd line; a store to the thread's own control entry also ends the chunk. Host memory and device registers are written alone in a chunk.
A base-die handler writes memory directly. Nothing else changes. -/
def Sys2Proof.Says.ScalarStores : Prop :=
  ∀ (s s1 s2 : State) (i : Instr) (n : Nat) (ea v : W) (pa : Nat), StoresTo s s1 i n ea v → s1.access ea n .store = .ok (pa, s2) → s2.me = s.me →
    let bs := bytesOf n v.toNat
    let buf := (s2.thrOf s.me).chunk.stores
    (isBase s.me = true → ∃ t, exec i s = .next t ∧ Stores { s2 with uncorr := t.uncorr } t s.me (cellOf pa) n v) ∧
    (isBase s.me = false →
      (rowAt pa = some s.me → clusterHome pa = some s.myCluster → deviceHome pa = false → (∀ r w o, regionOf pa ≠ .control r w o) → s2.segPending (pa - rowAddr s.me) n = false →
        ∃ t, exec i s = .next t ∧ Stores { s2.trackWrite pa with uncorr := t.uncorr } t s.me (cellOf pa) n v ∧ ∀ u ∈ t.uncorr, u ∈ s2.uncorr) ∧
      (rowAt pa ≠ some s.me ∨ (∃ r w o, regionOf pa = .control r w o) → clusterHome pa = some s.myCluster → deviceHome pa = false → (bufLines (buf ++ [{ pa := pa, bytes := bs, strong := false, home := true }])).length ≤ 32 →
        ∃ t, exec i s = .next t ∧ Buffers s2 t pa bs false true ∧ (t.thrOf s.me).chunk.wsig = (s2.thrOf s.me).chunk.wsig ||| lineSig pa ∧
          ((∃ w o, regionOf pa = .control s.me w o) → (t.thrOf s.me).chunk.ended = true)) ∧
      (clusterHome pa ≠ some s.myCluster → deviceHome pa = false → (bufLines (buf ++ [{ pa := pa, bytes := bs, strong := false, home := false }])).length ≤ 32 →
        ∃ t, exec i s = .next t ∧ Buffers s2 t pa bs false false ∧ (t.thrOf s.me).chunk.wsig = (s2.thrOf s.me).chunk.wsig ∧ (t.thrOf s.me).chunk.ended = (s2.thrOf s.me).chunk.ended) ∧
      (clusterHome pa ≠ some s.myCluster → deviceHome pa = false → 32 < (bufLines (buf ++ [{ pa := pa, bytes := bs, strong := false, home := false }])).length → exec i s = .next (s.applyStop .endChunk)) ∧
      (regionOf pa = .host → MayBeAlone s2 → s2.drained s.me = true → ∃ t, exec i s = .next t ∧ Stores s2 t s.me pa n v) ∧
      (deviceHome pa = true → regionOf pa ≠ .host → MayBeAlone s2 → s2.drained s.me = true → ∀ s3, (s2.modCur fun x => { x with ending := true }).mmioWrite pa (num (ofBytes bs)) = some s3 →
        exec i s = .next s3.retire))

/-- R152, R158 and 12_vector_matrix.md R223: the segment loads and stores, in their immediate and indexed forms. A load binds the segment, at once or when it is performed; a store buffers the segment's 64 bytes, or writes another segment of the thread's own row, or host memory, at once. A segment that a load or a
queued vector operation is still to write holds the store back (R98; 12_vector_matrix.md R209). -/
def Sys2Proof.Says.SegmentAccesses : Prop :=
  ∀ (s s1 s2 : State) (d a b : BitVec 5) (im : BitVec 14) (k : BitVec 2) (ea : W) (pa v : Nat), (s.ctlOf s.me).p = false → isBase s.me = false → s2.me = s.me → d.toNat < 11 →
    ∀ form : BitVec 14 ⊕ (BitVec 5 × BitVec 2), form = .inl im ∨ form = .inr (b, k) → AddressOf s s1 ea a form →
    let ld : Instr := match form with | .inl i => .vld d a i | .inr (b, k) => .ldxV d a b k
    let st : Instr := match form with | .inl i => .vst d a i | .inr (b, k) => .stxV d a b k
    let reads : AccKind := match form with | .inl _ => .load | .inr _ => .indexed false
    let stores : AccKind := match form with | .inl _ => .store | .inr _ => .indexed true
    (s1.access ea 64 reads = .ok (pa, s2) →
      (deviceHome pa = false → rowAt pa = some s.me → clusterHome pa = some s.myCluster → s2.segPending (pa - rowAddr s.me) 64 = false →
        ∃ t, exec ld s = .next t ∧ WritesSegment (s2.trackRead pa) t s.me d.toNat (s2.clusterRead' pa 64)) ∧
      (∀ s3, deviceHome pa = false → rowAt pa ≠ some s.me → clusterHome pa = some s.myCluster → s2.reach pa 64 = .ok s3 → s3.me = s.me →
        ∃ t, exec ld s = .next t ∧ WritesSegment (s3.trackRead pa) t s.me d.toNat (s3.clusterRead' pa 64)) ∧
      (deviceHome pa = false → clusterHome pa ≠ some s.myCluster → (s2.thrOf s.me).chunk.stores = [] →
        ∃ t, exec ld s = .next t ∧ t.cur.ended = .completed ∧ Moves s2 t s.me ∧ OnlyPc s2 t s.me ∧ t.mem = s2.mem ∧ t.seq = s2.seq + 1 ∧ (∀ r, r ≠ s.me → t.thrOf r = s2.thrOf r) ∧
          (t.thrOf s.me).loads = ((s2.thrOf s.me).loads.map fun x => { x with seg := if x.seg = some d.toNat then none else x.seg }) ++
            [{ id := s2.seq, pa := pa, size := 64, sext := false, reg := none, win := none, seg := some d.toNat, own := [], acq := false, atomic := false }]) ∧
      (regionOf pa = .host → MayBeAlone s2 → s2.drained s.me = true → ∃ t, exec ld s = .next t ∧ WritesSegment s2 t s.me d.toNat (s2.peek pa 64))) ∧
    ((s1.seenLoads.any fun l => l.seg == some d.toNat) = true → exec st s = .next (s.applyStop (.stall false))) ∧
    (s1.seg d.toNat = .ok v → s1.access ea 64 stores = .ok (pa, s2) →
      (deviceHome pa = false → rowAt pa = some s.me → clusterHome pa = some s.myCluster → (∀ r w o, regionOf pa ≠ .control r w o) → s2.segPending (pa - rowAddr s.me) 64 = false →
        ∃ t, exec st s = .next t ∧ t.cur.ended = .completed ∧ Moves s2 t s.me ∧ OnlyPc s2 t s.me ∧ t.peek pa 64 = v % 2 ^ 512 ∧ ∀ q, q < cellOf pa ∨ cellOf pa + 64 ≤ q → mget t.mem q = mget s2.mem q) ∧
      (deviceHome pa = false → rowAt pa ≠ some s.me → clusterHome pa = some s.myCluster → (∀ r w o, regionOf pa ≠ .control r w o) →
        (bufLines ((s2.thrOf s.me).chunk.stores ++ [{ pa := pa, bytes := bytesOf 64 v, strong := false, home := true }])).length ≤ 32 → ∃ t, exec st s = .next t ∧ Buffers s2 t pa (bytesOf 64 v) false true) ∧
      (deviceHome pa = false → clusterHome pa ≠ some s.myCluster → (bufLines ((s2.thrOf s.me).chunk.stores ++ [{ pa := pa, bytes := bytesOf 64 v, strong := false, home := false }])).length ≤ 32 →
        ∃ t, exec st s = .next t ∧ Buffers s2 t pa (bytesOf 64 v) false false) ∧
      (regionOf pa = .host → MayBeAlone s2 → s2.drained s.me = true → ∃ t, exec st s = .next t ∧ t.cur.ended = .completed ∧ Moves s2 t s.me ∧ OnlyPc s2 t s.me ∧ t.peek pa 64 = v % 2 ^ 512 ∧
        ∀ q, q < pa ∨ pa + 64 ≤ q → mget t.mem q = mget s2.mem q))

/-! ### Atomics, ordered accesses and fences -/

namespace Sys2Proof.Says

/-- Atomics: width and operation number (09_memory_sync.md R159). -/
def atomTable (d a b : BitVec 5) (c : BitVec 3) (r : BitVec 2) : List (Instr × Nat × Nat) := [
  (.atomwAdd d a b c r, 4, 0), (.atomwSwap d a b c r, 4, 1), (.atomwCas d a b c r, 4, 2), (.atomwAnd d a b c r, 4, 3), (.atomwOr d a b c r, 4, 4), (.atomwXor d a b c r, 4, 5),
  (.atomwMin d a b c r, 4, 6), (.atomwMax d a b c r, 4, 7), (.atomwMinu d a b c r, 4, 8), (.atomwMaxu d a b c r, 4, 9),
  (.atomdAdd d a b c r, 8, 0), (.atomdSwap d a b c r, 8, 1), (.atomdCas d a b c r, 8, 2), (.atomdAnd d a b c r, 8, 3), (.atomdOr d a b c r, 8, 4), (.atomdXor d a b c r, 8, 5),
  (.atomdMin d a b c r, 8, 6), (.atomdMax d a b c r, 8, 7), (.atomdMinu d a b c r, 8, 8), (.atomdMaxu d a b c r, 8, 9)]
/-- Operands of an atomic: its address and operand, and for a compare and swap the expected value in the destination register. -/
def AtomOperands (s s3 : State) (d a b : BitVec 5) (aop : Nat) (ea x e : W) : Prop :=
  (s.ctlOf s.me).p = false ∧ ∃ s1 s2, s.src a.toNat = .ok (ea, s1) ∧ s1.src b.toNat = .ok (x, s2) ∧ if aop = 2 then s2.src d.toNat = .ok (e, s3) else s3 = s2 ∧ e = 0

/-- The ordering side of an access taken from `s`, which leaves `t` (07_memory_model.md R127, R140, R141, R144): at `PACKAGE` and `DOMAIN` it executes alone, and a release once every earlier access is done; a narrower release marks the chunk with the loads and, wider than `THREAD`, the stores before it, and at the first step of
a chunk, and in a chunk of one bundle, they must be done; no other form changes anything. A base-die handler has none. -/
def Sides (s t : State) (c : BitVec 3) (acq rel : Bool) : Prop :=
  if isBase s.me = true then t = s
  else if 4 ≤ c.toNat ∧ (acq = true ∨ rel = true) then MayBeAlone s ∧ (rel = true → s.drained s.me = true) ∧ t = s.modCur fun x => { x with ending := true }
  else if rel = true then
    (((s.thrOf s.me).chunk.steps ≠ 0 ∧ (s.thrOf s.me).chunk.limit ≠ 1) ∨ s.releaseReady s.me { before := s.seq, stores := c != 0 } = true) ∧
      t = s.modChunk s.me fun ch => { ch with release := some (Release.both { before := s.seq, stores := c != 0 } ch.release) }
  else t = s

end Sys2Proof.Says

/-- The new value of an atomic (R159): on `n` bytes, with `o` the old value, `x` the operand and `e` the expected value, each taken in that width. -/
def Sys2Proof.Says.AtomicResults : Prop :=
  ∀ (w : Nat) (o x e : BitVec w), w = 32 ∨ w = 64 →
    let r := fun aop => BitVec.ofNat w (atomNew aop (w / 8) o.toNat x.toNat e.toNat)
    r 0 = o + x ∧ r 1 = x ∧ r 2 = (if o = e then x else o) ∧ r 3 = o &&& x ∧ r 4 = o ||| x ∧ r 5 = o ^^^ x ∧
    (r 6).toInt = Min.min o.toInt x.toInt ∧ (r 7).toInt = Max.max o.toInt x.toInt ∧ (r 8).toNat = Min.min o.toNat x.toNat ∧ (r 9).toNat = Max.max o.toNat x.toNat

/-- R159, R160; 02_rows.md R36; 07_memory_model.md R127, R128, R137: where an atomic completes, its ordering side taken. On the thread's own segments, or on single-copy memory of its own cluster that no live row and no BUSY bank holds, it reads the old value, stores the new one as a store does, and writes the old value
sign-extended. On another live row it executes alone, at that row's boundary, for which it waits. A compare and swap of a word of the thread's own control entry that fails stores nothing. On a remote home it executes alone: it joins the outbound queue with its operation and operands, and its old value is pending. A base-die handler
performs it in memory at once. -/
def Sys2Proof.Says.Atomics : Prop :=
  ∀ (s s2 s3 s4 : State) (d a b : BitVec 5) (c : BitVec 3) (r : BitVec 2) (ea x e : W) (pa : Nat), ∀ f ∈ atomTable d a b c r,
    let n := f.2.1
    let aop := f.2.2
    let old := s4.clusterRead' pa n
    let bs := bytesOf n (atomNew aop n old x.toNat e.toNat)
    let new := { pa := pa, bytes := bs, strong := false, home := true }
    let mine := clusterHome pa = some s.myCluster ∧ deviceHome pa = false
    let ctl := ∃ q w o, regionOf pa = .control q w o
    AtomOperands s s2 d a b aop ea x e → Sides s2 s3 c (r.getLsbD 0) (r.getLsbD 1) → s3.me = s.me → s3.access ea n (.atomic (aop == 2)) = .ok (pa, s4) → s4.me = s.me → s4.dstOpen d.toNat = true →
    (isBase s.me = true →
      let s5 := (s4.clearUncorr pa n).poke pa (bytesOf n (atomNew aop n (s4.peek pa n) x.toNat e.toNat))
      s5.dstOpen d.toNat = true → ∃ t, exec f.1 s = .next t ∧ Writes s5 t s.me d (extended n true (s4.peek pa n))) ∧
    (isBase s.me = false →
      (rowAt pa = some s.me → mine → ¬ ctl → s4.segPending (pa - rowAddr s.me) n = false →
        let s5 := (((s4.clearUncorr pa n).poke pa bs).trackWrite pa).trackRead pa
        s5.dstOpen d.toNat = true → ∃ t, exec f.1 s = .next t ∧ Writes s5 t s.me d (extended n true old)) ∧
      (∀ q, rowAt pa = some q → q ≠ s.me → (s4.ctlOf q).state = .null ∨ s4.busyBank pa = true → mine → ¬ ctl → (bufLines ((s4.thrOf s.me).chunk.stores ++ [new])).length ≤ 32 →
        ∃ t, exec f.1 s = .next t ∧ t.cur.ended = .completed ∧ Moves s4 t s.me ∧ OnlyPc s4 t s.me ∧ Produced s4 t s.me d (extended n true old) ∧ (t.thrOf s.me).chunk.stores = (s4.thrOf s.me).chunk.stores ++ [new]) ∧
      (∀ q, rowAt pa = some q → q ≠ s.me → (s4.ctlOf q).state ≠ .null → s4.busyBank pa = false → mine → MayBeAlone s4 →
        let s5 := s4.modCur fun y => { y with ending := true }
        (s5.settleAt pa n (some s.me) = none → exec f.1 s = .next (s.applyStop (.hold pa true))) ∧
        (∀ s6 s7 v, s5.settleAt pa n (some s.me) = some s6 → s6.me = s.me → s6.atomHome pa n aop x.toNat e.toNat (s6.rowTenant s.me) = some (v, s7) → s7.me = s.me →
          let s8 := (s7.trackRead pa).trackWrite pa
          s8.dstOpen d.toNat = true → ∃ t, exec f.1 s = .next t ∧ Writes s8 t s.me d (extended n true v))) ∧
      (rowAt pa = some s.me → mine → ctl → old ≠ e.toNat % 2 ^ (8 * n) →
        ∃ t, exec f.1 s = .next t ∧ Writes ((s4.trackWrite pa).trackRead pa) t s.me d (extended n true old)) ∧
      (rowAt pa = some s.me → mine → ctl → old = e.toNat % 2 ^ (8 * n) → (bufLines ((s4.thrOf s.me).chunk.stores ++ [new])).length ≤ 32 →
        ∃ t, exec f.1 s = .next t ∧ t.cur.ended = .completed ∧ Moves s4 t s.me ∧ OnlyPc s4 t s.me ∧ Produced s4 t s.me d (extended n true old) ∧ (t.thrOf s.me).chunk.stores = (s4.thrOf s.me).chunk.stores ++ [new] ∧
          ((∃ w o, regionOf pa = .control s.me w o) → (t.thrOf s.me).chunk.ended = true)) ∧
      (clusterHome pa ≠ some s.myCluster → MayBeAlone s4 →
        ∃ t, exec f.1 s = .next t ∧ t.cur.ended = .completed ∧ t.cur.ending = true ∧ Moves s4 t s.me ∧ OnlyPc s4 t s.me ∧
          (t.thrOf s.me).loads.getLast? = some (pendingOf s4 d pa n true [] (r.getLsbD 0) true) ∧
          (t.cluOf s.myCluster).outq = (s4.cluOf s.myCluster).outq ++
            [{ pa := pa, bytes := bytesOf n x.toNat, rid := s.me, order := s4.seq + 1, forward := false, via := s4.viaFor s.me pa, atomic := some (aop, x.toNat, e.toNat), ret := some s4.seq }] ∧ t.seq = s4.seq + 2))

/-- R161, R162 and 07_memory_model.md R136, R138, R140, R141: ordered accesses. At a scope of `CLUSTER` or narrower `LDA` is the load with its acquire mark, `STL` the store that makes its chunk a release, and `STMC` the plain store. At `PACKAGE` or `DOMAIN` each executes alone in its chunk, `STL` only once every earlier access is done, and the entry
of an `STMC` is not forwardable. The cases below are those of HBM. -/
def Sys2Proof.Says.OrderedAccesses : Prop :=
  ∀ (s s1 s2 s3 s4 : State) (d a b : BitVec 5) (c : BitVec 3) (ea x : W) (pa : Nat), InThread s → s.src a.toNat = .ok (ea, s1) → s3.me = s.me → s4.me = s.me → s3.cur = s4.cur → regionOf pa = .hbm →
    ∀ f ∈ [((.ldaW d a c : Instr), (.stlW a b c : Instr), (.stmcW a b c : Instr), 4), (.ldaD d a c, .stlD a b c, .stmcD a b c, 8)],
    let n := f.2.2.2
    let bs := bytesOf n x.toNat
    let room := (bufLines ((s3.thrOf s.me).chunk.stores ++ [{ pa := pa, bytes := bs, strong := false, home := false }])).length ≤ 32
    (Sides s1 s4 c true false → s4.access ea n .load = .ok (pa, s3) → s3.dstOpen d.toNat = true → (s3.thrOf s.me).chunk.stores = [] →
      ∃ t, exec f.1 s = .next t ∧ Pends s3 t d (pendingOf s3 d pa n true [] true false) ∧ (4 ≤ c.toNat → t.cur.ending = true)) ∧
    (s1.src b.toNat = .ok (x, s2) → s2.me = s.me →
      (Sides s2 s4 c false true → s4.access ea n .store = .ok (pa, s3) → room → ∃ t, exec f.2.1 s = .next t ∧ Buffers s3 t pa bs false false ∧ (4 ≤ c.toNat → t.cur.ending = true)) ∧
      (c.toNat < 4 → s2.access ea n .store = .ok (pa, s3) → room → ∃ t, exec f.2.2.1 s = .next t ∧ Buffers s3 t pa bs false false) ∧
      (4 ≤ c.toNat → MayBeAlone s2 → s4 = s2.modCur (fun y => { y with ending := true }) → s4.access ea n .store = .ok (pa, s3) → room →
        ∃ t, exec f.2.2.1 s = .next t ∧ Buffers s3 t pa bs true false ∧ t.cur.ending = true) ∧
      (4 ≤ c.toNat → MayBeAlone s2 → s2.drained s.me = false → exec f.2.1 s = .next (s.applyStop (.stall false))) ∧
      (c.toNat < 4 → (s2.thrOf s.me).chunk.steps = 0 ∨ (s2.thrOf s.me).chunk.limit = 1 → s2.releaseReady s.me { before := s2.seq, stores := c != 0 } = false → exec f.2.1 s = .next (s.applyStop (.stall false))))

/-- R161 and 07_memory_model.md R125, R142, R143: `FENCE`. At `PACKAGE` and `DOMAIN` it completes alone once every earlier access is done. Below, its acquire side marks the pending loads that later words wait for, its release side holds the next commit for the loads and, wider than `THREAD`, the stores before it, both together, wider than
`THREAD`, end the chunk; a fence of neither side changes nothing. -/
def Sys2Proof.Says.Fences : Prop :=
  ∀ (s : State) (c : BitVec 3) (r : BitVec 2), InThread s →
    let q : Release := { before := s.seq, stores := c != 0 }
    let acq := r.getLsbD 0
    let rel := r.getLsbD 1
    let t0 := s.thrOf s.me
    (4 ≤ c.toNat → MayBeAlone s → s.drained s.me = true → ∃ t, exec (.fence c r) s = .next t ∧ Passes s t s.me ∧ Moves s t s.me ∧ t.cur.ending = true) ∧
    (4 ≤ c.toNat → MayBeAlone s → s.drained s.me = false → exec (.fence c r) s = .next (s.applyStop (.stall false))) ∧
    (c.toNat < 4 → rel = true → s.releaseReady s.me q = false → t0.chunk.steps = 0 ∨ t0.chunk.limit = 1 → exec (.fence c r) s = .next (s.applyStop (.stall false))) ∧
    (c.toNat < 4 → (rel = true → s.releaseReady s.me q = true ∨ (t0.chunk.steps ≠ 0 ∧ t0.chunk.limit ≠ 1)) →
      ∃ t, exec (.fence c r) s = .next t ∧ t.cur.ended = .completed ∧ Moves s t s.me ∧ Elsewhere s t ∧ OnlyPc s t s.me ∧ t.mem = s.mem ∧ (∀ p, p ≠ s.me → t.thrOf p = s.thrOf p) ∧
        t.thrOf s.me = { t0 with
          loads := if acq then t0.loads.map fun l => { l with acq := l.acq || !l.vec } else t0.loads
          fence := if rel then some (q.both t0.fence) else t0.fence
          chunk := { t0.chunk with release := if rel then some (q.both t0.chunk.release) else t0.chunk.release, ended := t0.chunk.ended || (acq && rel && c != 0) } })

/-! ### Commits, drains and loads performed -/

/-- 07_memory_model.md R126, R130, R131, R132, R141; 12_vector_matrix.md R210, R228: CHUNK_COMMIT of a running row whose chunk has ended, its cycles passed, no vector operation queued, a commit left in the cycle, no row to start locked, and nothing that a release waits for. Without a conflict or under
its own grant the chunk commits: its write signature takes the cluster's next slot, its stores reach single-copy memory or the outbound queue in order, its deferred changes and a waiting close are made. With a conflict and the grant free it replays from its checkpoint with a limit of 32 bundles, and then of one. While
another row holds the grant, or one of those is missing, nothing happens; but a step of the row that holds the grant, which waits for this chunk (R131), makes the commit at the boundary that it reaches. -/
def Sys2Proof.Says.ChunkCommits : Prop :=
  ∀ (s : State) (ch : Chunk), let rid := ridOf s.sel.unit s.sel.sub
    let k := clusterOfRid rid
    s.running rid = true → s.stepDone rid = true → (s.thrOf rid).chunk = ch → ch.live = true → ch.ended = true →
    (s.vecBusy rid = true ∨ s.commitFull k = true ∨ (∃ r, (ch.release = some r ∨ (s.thrOf rid).fence = some r) ∧ s.releaseReady rid r = false) → exec .chunkCommit s = .next s) ∧
    (s.vecBusy rid = false → s.commitFull k = false → s.startsBlocked rid = false → (∀ r, ch.release = some r ∨ (s.thrOf rid).fence = some r → s.releaseReady rid r = true) →
      ((s.cluOf k).grant = some rid ∨ ((s.cluOf k).grant = none ∧ conflicts (s.cluOf k) ch = false) →
        exec .chunkCommit s = .next ((s.applyCommit rid).closeLater rid) ∧
        ((s.thrOf rid).closeAs = none → ∃ t, exec .chunkCommit s = .next t ∧
          (ch.stores = [] → ch.deferred = [] → t.mem = s.mem ∧ (t.thrOf rid).chunk = {} ∧ (t.thrOf rid).fence = none ∧ (t.cluOf k).nextSlot = (s.cluOf k).nextSlot + 1 ∧ (t.cluOf k).sigs.getLast? = some ((s.cluOf k).nextSlot, ch.wsig) ∧
            (t.cluOf k).grant = (if (s.cluOf k).grant = some rid then none else (s.cluOf k).grant) ∧ t.ctl = s.ctl) ∧
          (∀ b, ch.stores = [b] → b.home = false → ch.deferred = [] → t.mem = s.mem ∧ (t.cluOf k).outq = (s.cluOf k).outq ++
            [{ pa := b.pa, bytes := b.bytes, rid := rid, order := s.seq, forward := !b.strong, via := s.viaFor rid b.pa }]) ∧
          (∀ b, ch.stores = [b] → b.home = true → ch.deferred = [] → rowAt b.pa = some rid → (s.ctlOf rid).state = .opened → s.busyBank b.pa = false → (∀ r w o, regionOf b.pa ≠ .control r w o) →
            (t.thrOf rid).deferred = (s.thrOf rid).deferred ++ [.store b.pa b.bytes] ∧ t.mem = s.mem) ∧
          (∀ p, ch.stores = [] → ch.deferred = [.setpri p] → t.ctlOf rid = { s.ctlOf rid with pri := p }))) ∧
      ((s.cluOf k).grant = none → conflicts (s.cluOf k) ch = true → ch.pkt = none → ch.deferred = [] →
        ∃ t, exec .chunkCommit s = .next t ∧ t.ctlOf rid = { s.ctlOf rid with pc := ch.pc, p := ch.p } ∧ (t.thrOf rid).chunk = { limit := if ch.limit = 256 then 32 else 1 } ∧ (t.thrOf rid).loads = ch.loads ∧
          t.mem = msplice s.mem (rowAddr rid) 1024 ch.row ∧ (∀ r, r ≠ rid → t.ctlOf r = s.ctlOf r ∧ t.thrOf r = s.thrOf r))) ∧
    (∀ g, (s.cluOf k).grant = some g → g ≠ rid → exec .chunkCommit s = .next s ∧
      (s.vecBusy rid = false → s.commitFull k = false → s.startsBlocked rid = false → (∀ r, ch.release = some r ∨ (s.thrOf rid).fence = some r → s.releaseReady rid r = true) → conflicts (s.cluOf k) ch = false → ch.steps ≠ 0 → (s.thrOf rid).closeAs = none →
        s.boundary rid (some g) = (s.applyCommit rid, true)))

/-- R131: COMMIT_GRANT gives a free commit grant to the row that has waited longest; with the grant taken, or nobody waiting, nothing happens. -/
def Sys2Proof.Says.CommitGrants : Prop :=
  ∀ (s : State), (∀ r rest, (s.cluOf s.sel.unit).grant = none → (s.cluOf s.sel.unit).grantq = r :: rest →
      ∃ t, exec .commitGrant s = .next t ∧ t.cluOf s.sel.unit = { s.cluOf s.sel.unit with grant := some r, grantq := rest } ∧ (∀ k, k ≠ s.sel.unit → t.cluOf k = s.cluOf k) ∧ { t with clu := s.clu } = s) ∧
    ((s.cluOf s.sel.unit).grant ≠ none ∨ (s.cluOf s.sel.unit).grantq = [] → exec .commitGrant s = .next s)

/-- R134, R139, R148; 23_stack_fabric.md R350: OUTBOUND_DRAIN of a store to HBM with no older entry of its line, toward a working elevator, with nothing of its port to be resent: its bytes reach memory, no other byte changes, and it leaves. One behind another of its line stays. Where the outcome is decided
for each aligned 8-byte word, one word of it may reach memory while the rest stays queued; no other store is divided. Those are the model's choice (log 102): one beside a store through the other view, one to a range locked for another cluster or through the other view, and one to a line of a sum of sketches across packages. -/
def Sys2Proof.Says.OutboundDrains : Prop :=
  ∀ (s : State) (e : OutEntry), let k := s.sel.unit
    let i := s.sel.sub
    let j := s.sel.idx
    let q := (s.cluOf k).outq
    let clear := (∀ j o, j < i → q[j]? = some o → o.pa / 64 ≠ e.pa / 64 ∧ (o.pa + o.bytes.length - 1) / 64 ≠ e.pa / 64) ∧ s.viaReady e.via = true ∧ s.heldBack (hubOf e.rid) (destOf e.pa) e.order = false
    q[i]? = some e → e.atomic = none → regionOf e.pa = .hbm → 0 < e.bytes.length →
    (s.sel.flag = false → clear →
      ∃ t, exec .outboundDrain s = .next t ∧ (t.cluOf k).outq = q.eraseIdx i ∧ t.ctl = s.ctl ∧ t.thr = s.thr ∧
        (∀ j, j < e.bytes.length → some (mget t.mem (e.pa + j)) = e.bytes[j]?) ∧ (∀ a, a < e.pa ∨ e.pa + e.bytes.length ≤ a → mget t.mem a = mget s.mem a)) ∧
    (s.sel.flag = true → clear → s.wordWise k e = true → e.pa % 8 = 0 → 8 < e.bytes.length → 8 * j + 8 ≤ e.bytes.length → regionOf (e.pa + 8 * j) = .hbm →
      ∃ t, exec .outboundDrain s = .next t ∧ t.ctl = s.ctl ∧ t.thr = s.thr ∧
        (t.cluOf k).outq = q.take i ++ ([{ e with bytes := e.bytes.take (8 * j) }, { e with pa := e.pa + 8 * j + 8, bytes := e.bytes.drop (8 * j + 8) }].filter fun e => !e.bytes.isEmpty) ++ q.drop (i + 1) ∧
        (∀ l, l < 8 → some (mget t.mem (e.pa + 8 * j + l)) = e.bytes[8 * j + l]?) ∧ (∀ a, a < e.pa + 8 * j ∨ e.pa + 8 * j + 8 ≤ a → mget t.mem a = mget s.mem a)) ∧
    (s.sel.flag = true → s.wordWise k e = false → exec .outboundDrain s = .next s) ∧
    (∀ j o, j < i → q[j]? = some o → o.pa / 64 = e.pa / 64 → exec .outboundDrain s = .next s)

/-- R135, R137; 23_stack_fabric.md R355: LOAD_PERFORM of a pending load of HBM with no older load of its line pending and no queued entry reads the bytes at their home and puts them where the load still binds, and it leaves the set. A load of a package that no port leads to waits. Of an issued sum of sketches it binds the promise, with the beats that its destination header gives (13_engines.md R242). -/
def Sys2Proof.Says.LoadPerforms : Prop :=
  ∀ (s : State) (l : PLoad), let rid := ridOf s.sel.unit s.sel.sub
    (s.thrOf rid).loads[s.sel.idx]? = some l →
    (∀ p o, regionOf l.pa = .remote p o → s.portsTo p = [] → exec .loadPerform s = .next s) ∧
    (l.atomic = false → l.vec = false → (l.promise ≠ none → l.sext = false) → l.own = [] → regionOf l.pa = .hbm → (s.cluOf (clusterOfRid rid)).outq = [] → (l.promise = none → l.size ≤ 8) → l.seg = none → (s.thrOf rid).chunk.loads = [] →
      (∀ o ∈ (s.thrOf rid).loads, o.id < l.id → o.pa / 64 ≠ l.pa / 64) →
      let h := BitVec.ofNat 512 (mread s.mem l.pa 64)
      let v := match l.promise with
        | none => extended l.size l.sext (mread s.mem l.pa l.size)
        | some (skadd, tag, sum) => num (tag % 256 * 2 ^ 56 + (sum + if sketchValid h then (sketchOf h).groups * (if skadd then 1 else 2) else 2) % 2 ^ 56)
      ∃ t, exec .loadPerform s = .next t ∧ t.ctl = s.ctl ∧ (t.thrOf rid).loads = (s.thrOf rid).loads.filter (fun x => x.id != l.id) ∧ (∀ r, r ≠ rid → t.thrOf r = s.thrOf r) ∧
        (∀ r, l.reg = some r → r ≠ 0 → r < 28 → (∀ w, l.win = some w → 1 ≤ w) → t.greg rid r = v.toNat) ∧ (∀ w, l.win = some w → 1 ≤ w → w ≤ 4 → t.greg rid (27 + w) = v.toNat) ∧
        (∀ a, a < rowAddr rid ∨ rowAddr rid + 256 ≤ a → (∀ r, l.reg = some r → r < 28) → (∀ w, l.win = some w → 1 ≤ w ∧ w ≤ 4) → mget t.mem a = mget s.mem a))

/-! ### Queues, packets, barriers and mailboxes -/

namespace Sys2Proof.Says

/-- The values of a queue's entries, oldest first. -/
def valuesOf (s : State) (r : QRef) : List W := (s.queueOf r).items.map fun i => i.value
/-- No row waits for anything, so that a place which becomes free serves nobody. -/
def NobodyWaits (s : State) : Prop := ∀ e ∈ s.ctl, e.2.state ≠ .blocked ∧ e.2.state ≠ .sleeping ∧ e.2.state ≠ .held
/-- No byte changed but those of register `d` and of the distance window of the row. -/
def OnlyResult (s t : State) (rid : Nat) (d : BitVec 5) : Prop :=
  ∀ a, (d = 0 ∨ a < rowAddr rid + 8 * d.toNat ∨ rowAddr rid + 8 * d.toNat + 8 ≤ a) → (a < rowAddr rid + 224 ∨ rowAddr rid + 256 ≤ a) → mget t.mem a = mget s.mem a

end Sys2Proof.Says

/-- 09_memory_sync.md R165 to R168: `QPUSH` appends its source to the queue that the number names for the thread, alone in its chunk and once its earlier accesses are released; a full queue that keeps no slot for the thread makes it wait with `WAIT` 1. `QPOP` takes the oldest entry that is not reserved for another row, wherever it stands, and writes it; an empty queue
makes it wait. Other queues keep their values. R169, 26_combinators.md R385: `QCNT` writes the entries that are reserved for nobody, or the pushes that would not wait: the free places of 8 in a core queue and of 16 in a FIFO of a vertical pair (23_stack_fabric.md R345), in a link also the lent slots that it could still take. For q10 it writes the
packets for the thread, or the free flits of 64. A number that names no queue for the thread traps `QUEUE`. -/
def Obligations.CoreQueues : Prop :=
  ∀ (s s1 : State) (d a b : BitVec 5) (x : W), InThread s → s.src a.toNat = .ok (x, s1) →
    (∀ r, s1.qref s.me b.toNat = some r → queueWay s.me b.toNat true = true → MayBeAlone s1 → s1.releaseReady s.me (s1.releaseNow true) = true →
      (s1.canPush r = true ∨ s.me ∈ (s1.queueOf r).slots → NobodyWaits s1 →
        ∃ t, exec (.qpush a b) s = .next t ∧ t.cur.ended = .completed ∧ t.cur.ending = true ∧ Moves s1 t s.me ∧ OnlyPc s1 t s.me ∧ t.mem = s1.mem ∧ valuesOf t r = valuesOf s1 r ++ [x] ∧ ∀ q, q ≠ r → valuesOf t q = valuesOf s1 q) ∧
      (s1.canPush r = false → s.me ∉ (s1.queueOf r).slots → exec (.qpush a b) s = .next (s.applyStop (.block 1 (0x10 + b.toNat) 0 none)))) ∧
    (s1.qref s.me b.toNat = none ∨ queueWay s.me b.toNat true = false → Traps (.qpush a b) s .queue (num b.toNat)) ∧
    (s.qref s.me b.toNat = none ∨ queueWay s.me b.toNat false = false → Traps (.qpop d b) s .queue (num b.toNat)) ∧
    (∀ r, s.qref s.me b.toNat = some r → queueWay s.me b.toNat false = true → MayBeAlone s → s.dstOpen d.toNat = true →
      (∀ l m v, (s.queueOf r).items = l ++ [{ value := v, resv := m }] ++ (s.queueOf r).items.drop (l.length + 1) → (∀ i ∈ l, i.resv ≠ none ∧ i.resv ≠ some s.me) → m = none ∨ m = some s.me → NobodyWaits s →
        ∃ t, exec (.qpop d b) s = .next t ∧ t.cur.ended = .completed ∧ t.cur.ending = true ∧ Moves s t s.me ∧ OnlyPc s t s.me ∧ OnlyResult s t s.me d ∧ Produced s t s.me d v ∧ valuesOf t r = (valuesOf s r).eraseIdx l.length ∧ ∀ q, q ≠ r → valuesOf t q = valuesOf s q) ∧
      ((∀ i ∈ (s.queueOf r).items, i.resv ≠ none ∧ i.resv ≠ some s.me) → exec (.qpop d b) s = .next (s.applyStop (.block 1 b.toNat 0 none)))) ∧
    (b.toNat ≠ 10 → ∀ r, s.qref s.me b.toNat = some r → s.dstOpen d.toNat = true →
      (∃ t, exec (.qcntHeld d b) s = .next t ∧ Writes s t s.me d (num ((s.queueOf r).items.filter fun i => i.resv.isNone).length)) ∧
      let base := (match r with | .pair _ _ _ => 16 | _ => 8) + (s.queueOf r).lent - ((s.queueOf r).items.length + (s.queueOf r).slots.length)
      ∃ t, exec (.qcntFree d b) s = .next t ∧ Writes s t s.me d (num (match r with | .link k _ => base + min (56 - (s.queueOf r).lent) (4096 - (s.cluOf k).lent) | _ => base))) ∧
    (b.toNat = 10 → s.dstOpen d.toNat = true → (∃ t, exec (.qcntHeld d b) s = .next t ∧ Writes s t s.me d (num ((s.csRow s.me).rxq.filter fun p => p.row == rowOfRid s.me).length)) ∧
      ∃ t, exec (.qcntFree d b) s = .next t ∧ Writes s t s.me d (num (64 - rxFlits (s.csRow s.me).rxq))) ∧
    (b.toNat ≠ 10 → s.qref s.me b.toNat = none → Traps (.qcntHeld d b) s .queue (num b.toNat) ∧ Traps (.qcntFree d b) s .queue (num b.toNat))

/-- R171, R172, R174: `SEND` of a header to a granted destination takes the lowest free send buffer of its hub. `h` opens a packet and sets `P`; `he` leaves the release of the packet to the commit. With no buffer free the thread waits; a destination that may not be reached traps `ACCESS`; a `SEND` of a header in an open packet traps `PACKET`. -/
def Sys2Proof.Says.SendHeader : Prop :=
  ∀ (s s1 s2 : State) (a b : BitVec 5) (dest hdr : W), isBase s.me = false → s.src a.toNat = .ok (dest, s1) → s1.src b.toNat = .ok (hdr, s2) →
    let oct := hubOf s.me
    ((s.ctlOf s.me).p = true → Traps (.sendH a b) s .packet 0 ∧ Traps (.sendHe a b) s .packet 0) ∧
    ((s.ctlOf s.me).p = false → s2.destOk dest.toNat = false → Traps (.sendH a b) s .access dest ∧ Traps (.sendHe a b) s .access dest) ∧
    ((s.ctlOf s.me).p = false → s2.destOk dest.toNat = true → MayBeAlone s2 → s2.mayTake s.me (fun r => !isBase r && hubOf r == oct) 0x1A (16 - (s2.octOf oct).hub.length) = false ∨ (∀ i, i < 16 → ∃ e ∈ (s2.octOf oct).hub, e.1 = i) →
      ∀ i ∈ [(.sendH a b : Instr), .sendHe a b], exec i s = .next (s.applyStop (.block 1 0x1A 0 none))) ∧
    ((s.ctlOf s.me).p = false → s2.destOk dest.toNat = true → MayBeAlone s2 → s2.mayTake s.me (fun r => !isBase r && hubOf r == oct) 0x1A (16 - (s2.octOf oct).hub.length) = true →
      ∀ i, i < 16 → (∀ e ∈ (s2.octOf oct).hub, e.1 ≠ i) → (∀ j, j < i → ∃ e ∈ (s2.octOf oct).hub, e.1 = j) →
        let slot : Option SendBuf := some { rid := s.me, dest := dest, hdr := hdr.setWidth 32 }
        (∃ t, exec (.sendH a b) s = .next t ∧ t.cur.ended = .completed ∧ t.cur.ending = true ∧ Moves s2 t s.me ∧ t.mem = s2.mem ∧ tget none (t.octOf oct).hub i = slot ∧ (∀ j, j ≠ i → (tget none (t.octOf oct).hub j : Option SendBuf) = tget none (s2.octOf oct).hub j) ∧
          t.ctlOf s.me = { s2.ctlOf s.me with p := true, pc := (t.ctlOf s.me).pc } ∧ (∀ r, r ≠ s.me → t.ctlOf r = s2.ctlOf r ∧ t.thrOf r = s2.thrOf r) ∧ t.thrOf s.me = { s2.thrOf s.me with claim := 0, packet := some { buf := i, bundles := 0 } }) ∧
        (∃ t, exec (.sendHe a b) s = .next t ∧ t.cur.ended = .completed ∧ t.cur.ending = true ∧ Moves s2 t s.me ∧ t.mem = s2.mem ∧ tget none (t.octOf oct).hub i = slot ∧
          OnlyPc s2 t s.me ∧ t.thrOf s.me = { s2.thrOf s.me with claim := 0, chunk := { (s2.thrOf s.me).chunk with deferred := (s2.thrOf s.me).chunk.deferred ++ [.release] } }))

/-- R172, R174: `SEND` of a segment appends a flit to the open packet, at most eight; `pe` closes the packet, clears `P` and leaves its release to the commit. Outside an open packet, and past eight flits, it traps `PACKET`. -/
def Sys2Proof.Says.SendFlits : Prop :=
  ∀ (s : State) (d : BitVec 5) (p : OpenPacket) (x : SendBuf) (v : Nat), isBase s.me = false →
    let oct := hubOf s.me
    ((s.ctlOf s.me).p = false → Traps (.sendP d) s .packet 0 ∧ Traps (.sendPe d) s .packet 0) ∧
    ((s.ctlOf s.me).p = true → (s.thrOf s.me).packet = some p → tget none (s.octOf oct).hub p.buf = some x → x.flits.length = 8 → Traps (.sendP d) s .packet 0 ∧ Traps (.sendPe d) s .packet 0) ∧
    ((s.ctlOf s.me).p = true → (s.thrOf s.me).packet = some p → tget none (s.octOf oct).hub p.buf = some x → x.flits.length ≠ 8 → s.seg d.toNat = .ok v →
      (∃ t, exec (.sendP d) s = .next t ∧ t.cur.ended = .completed ∧ Moves s t s.me ∧ OnlyPc s t s.me ∧ t.mem = s.mem ∧ t.thr = s.thr ∧ tget none (t.octOf oct).hub p.buf = some { x with flits := x.flits ++ [BitVec.ofNat 512 v] }) ∧
      (∃ t, exec (.sendPe d) s = .next t ∧ t.cur.ended = .completed ∧ Moves s t s.me ∧ t.mem = s.mem ∧ tget none (t.octOf oct).hub p.buf = some { x with flits := x.flits ++ [BitVec.ofNat 512 v] } ∧
        t.ctlOf s.me = { s.ctlOf s.me with p := false, pc := (t.ctlOf s.me).pc } ∧ t.thrOf s.me = { s.thrOf s.me with packet := none, chunk := { (s.thrOf s.me).chunk with deferred := (s.thrOf s.me).chunk.deferred ++ [.release] } }))

/-- R177: `RECV` takes the oldest packet for the thread that its filter matches: its flits go to the segments from `SEG` on, its description to the destination, and the packet leaves the receive queue. A packet whose flits do not fit in the segments from `SEG` on traps `QUEUE`, a filter with a reserved bit set `ACCESS`. That `PKG` is compared where X = 0 is the model's choice (log 90), and that the traps name the destination or the filter as the word gave it the model's reading (log 59). With no such packet the thread
waits, with a deadline also until that is reached; a deadline that is reached already writes 2^63. -/
def Sys2Proof.Says.Receive : Prop :=
  ∀ (s s1 s2 : State) (d a b : BitVec 5) (g : BitVec 4) (f y : W), InThread s → s.src a.toNat = .ok (f, s1) → s1.src b.toNat = .ok (y, s2) →
    let rx := fun u : State => (u.csRow s.me).rxq
    let fits := fun k : Packet => k.row = rowOfRid s.me ∧ (f.getLsbD 63 = true ∨ f.toNat % 2 ^ 49 = bit k.remote * 2 ^ 48 + k.pkg * 2 ^ 39 + k.core * 2 ^ 11 + k.srow)
    (nameReserved f.toNat = true → Traps (.recv d a g) s .access f ∧ Traps (.recvDl d a b g) s .access f) ∧
    (∀ u i, (i = .recv d a g ∧ u = s1) ∨ (i = .recvDl d a b g ∧ u = s2) → nameReserved f.toNat = false → MayBeAlone u →
      ∀ l k l', rx u = l ++ k :: l' → (∀ p ∈ l, ¬ fits p) → fits k →
        (11 < g.toNat + k.flits.length → Traps i s .queue (num k.flits.length)) ∧
        (g.toNat + k.flits.length ≤ 11 → u.dstOpen d.toNat = true →
          ∃ t, exec i s = .next t ∧ t.cur.ended = .completed ∧ t.cur.ending = true ∧ Moves u t s.me ∧ OnlyPc u t s.me ∧ rx t = l ++ l' ∧
            Produced u t s.me d (num (k.flits.length * 2 ^ 59 + bit k.remote * 2 ^ 58 + k.core * 2 ^ 45 + k.srow * 2 ^ 34 + k.hdr.toNat)) ∧
            (∀ j v, k.flits[j]? = some v → t.rowGet s.me (320 + 64 * (g.toNat + j)) 64 = v.toNat) ∧
            (∀ q, q < rowAddr s.me ∨ (rowAddr s.me + 256 ≤ q ∧ q < rowAddr s.me + 320 + 64 * g.toNat) ∨ rowAddr s.me + 320 + 64 * (g.toNat + k.flits.length) ≤ q → mget t.mem q = mget u.mem q))) ∧
    (nameReserved f.toNat = false → MayBeAlone s1 → (∀ k ∈ rx s1, ¬ fits k) → exec (.recv d a g) s = .next (s.applyStop (.block 2 0 f.toNat none))) ∧
    (nameReserved f.toNat = false → MayBeAlone s2 → (∀ k ∈ rx s2, ¬ fits k) →
      let since := (s2.cycle + 2 ^ 56 - y.toNat % 2 ^ 56) % 2 ^ 56
      (since < 2 ^ 55 → s2.dstOpen d.toNat = true → ∃ t, exec (.recvDl d a b g) s = .next t ∧ Writes s2 t s.me d (num (2 ^ 63))) ∧
      (2 ^ 55 ≤ since → exec (.recvDl d a b g) s = .next (s.applyStop (.block 2 (2 ^ 35 + y.toNat % 2 ^ 56 % 2 ^ 35) f.toNat (some (y.toNat % 2 ^ 56))))))

/-- R178 to R181: an arrival at an armed barrier of the thread's team, alone in its chunk, with its earlier accesses released and done. The last one completes: the count returns to 0, the phase advances by one, the waiting rows are READY, and the thread goes on. Any other makes the thread wait at the barrier with `WAIT` 7, its arrival counted; a mailbox slot or range-lock entries that are kept for it would go to their next waiters. -/
def Sys2Proof.Says.Barriers : Prop :=
  ∀ (s s1 : State) (a : BitVec 5) (x : W), InThread s → s.cur.slot ≠ .pair1 → s.src a.toNat = .ok (x, s1) →
    let k := s.myCluster
    let w := barIndex (s1.ctlOf s.me).team.toNat x.toNat
    let b := s1.barOf k w
    (15 < x.toNat ∨ b.arm = false → Traps (.bar a) s .queue x ∧ Traps (.ssync a) s .queue x) ∧
    (x.toNat ≤ 15 → b.arm = true → MayBeAlone s1 → s1.releaseReady s.me (s1.releaseNow true) = true → s1.quiet = true → (s1.thrOf s.me).deferred = [] → (s1.thrOf s.me).stop = none → (s1.cluOf k).switch = none → (∀ o, (s1.octOf o).hub = []) →
      ∀ f ∈ [((.bar a : Instr), false), (.ssync a, true)],
      (b.count + 1 = b.expect → ∃ t, exec f.1 s = .next t ∧ t.cur.ended = .completed ∧ t.cur.ending = true ∧ Moves s1 t s.me ∧ t.mem = s1.mem ∧
        t.barOf k w = { b with count := 0, phase := b.phase + 1, ss := false } ∧ (∀ y, y ≠ w → t.barOf k y = s1.barOf k y) ∧
        ∀ r ∈ s1.barWaiting k (s1.ctlOf s.me).team.toNat x.toNat, (s1.ctlOf r).state = .blocked → (t.ctlOf r).state = .ready) ∧
      (b.count + 1 ≠ b.expect → (s1.thrOf s.me).lockClaim = 0 → (∀ e ∈ (s1.cs s.myCore).mbox, e.2.kept = false ∨ e.2.owner ≠ some s.me) → ∃ t, exec f.1 s = .next t ∧ t.cur.ended = .stopped ∧ t.mem = s1.mem ∧ t.barOf k w = { b with count := b.count + 1, ss := b.ss || f.2 } ∧
        t.ctlOf s.me = { s1.ctlOf s.me with state := .blocked, wait := 7, wake := BitVec.ofNat 36 (x.toNat + if f.2 then 16 else 0) } ∧ (∀ r, r ≠ s.me → t.ctlOf r = s1.ctlOf r)))

/-- R183 to R185: `MBXPOP` writes the oldest completed message that the thread owns and frees its slot at the commit (the model's reading: log 61), or writes 0xFF in the tag byte when there is none. `WAITMSG` completes with a message and waits without. `SLEEPUNTIL` of a promise whose message has come completes; with the promised cycle reached it traps `PROMISE`; else it sleeps with the deadline. -/
def Sys2Proof.Says.Mailbox : Prop :=
  ∀ (s s1 : State) (d a : BitVec 5) (x : W), InThread s →
    let mine := fun e : Nat × MSlot => e ∈ (s.cs s.myCore).mbox ∧ e.2.owner = some s.me ∧ e.2.msg ≠ none ∧ AtCommit.mbx e.1 ∉ (s.thrOf s.me).chunk.deferred
    (s.dstOpen d.toNat = true → (∀ e, ¬ mine e) → ∃ t, exec (.mbxpop d) s = .next t ∧ Writes s t s.me d 0xFF00000000000000) ∧
    (∀ tag m v, s.dstOpen d.toNat = true → mine (tag, m) → m.msg = some v → (∀ e, mine e → e ≠ (tag, m) → m.order < e.2.order) →
      ∃ t, exec (.mbxpop d) s = .next t ∧ t.cur.ended = .completed ∧ Moves s t s.me ∧ OnlyPc s t s.me ∧ Elsewhere s t ∧ Produced s t s.me d v ∧ (t.thrOf s.me).chunk.deferred = (s.thrOf s.me).chunk.deferred ++ [.mbx tag]) ∧
    (MayBeAlone s → (∃ e, mine e) → ∃ t, exec .waitmsg s = .next t ∧ Passes s t s.me ∧ Moves s t s.me ∧ t.cur.ending = true) ∧
    (MayBeAlone s → (∀ e, ¬ mine e) → exec .waitmsg s = .next (s.applyStop (.block 3 0 0 none))) ∧
    (s.src a.toNat = .ok (x, s1) → MayBeAlone s1 →
      let tag := x.toNat / 2 ^ 56
      let held := fun m : MSlot => (s1.cs s.myCore).mbox.find? (fun e => e.1 == tag && e.2.owner == some s.me && !e.2.kept) = some (tag, m)
      ((∀ m, ¬ held m) → Traps (.sleepuntil a) s .promise x) ∧
      (∀ m, held m → m.msg ≠ none → ∃ t, exec (.sleepuntil a) s = .next t ∧ Passes s1 t s.me ∧ Moves s1 t s.me ∧ t.cur.ending = true) ∧
      (∀ m, held m → m.msg = none → reached s1.cycle (x.toNat % 2 ^ 56) = true → Traps (.sleepuntil a) s .promise x) ∧
      (∀ m, held m → m.msg = none → reached s1.cycle (x.toNat % 2 ^ 56) = false → exec (.sleepuntil a) s = .next (s.applyStop (.block 12 0 tag (some (x.toNat % 2 ^ 56))))))

/-- R172, R174, R176, R178, R184, R185: the device steps of messages. PACKET_ENTRY of a released packet that comes first of its sender and destination delivers it to a live row of this package with room, and frees its buffer; one to another package frees its buffer once that package has taken or discarded it, which the step is told (the model's choice: log 111), and some port leads there. PACKET_TIMEOUT of a running row at a bundle boundary whose packet has been open for 64 bundles traps `PACKET`. BARRIER_WORD_WRITE arms or
disarms an idle barrier. DEADLINE_WAKE wakes a sleeping row whose deadline is reached, and no other. -/
def Sys2Proof.Says.MessageSteps : Prop :=
  ∀ s : State,
    (∀ b : SendBuf, tget none (s.octOf s.sel.unit).hub s.sel.sub = some b → b.released = true → (s.octOf s.sel.unit).hub = [(s.sel.sub, some b)] → NobodyWaits s → (∀ k y, (s.barOf k y).ss = false) → s.viaReady b.via = true →
      s.heldBack s.sel.unit (packetDest b.dest) b.order = false →
      (∀ core row, core < 6144 → row < 2048 → b.dest = num (core * 2048 + row) → (s.ctlOf (ridOf core row)).state = .ready → rxFlits (s.csRow (ridOf core row)).rxq + 1 + b.flits.length ≤ 64 →
        ∃ t, exec .packetEntry s = .next t ∧ (t.csRow (ridOf core row)).rxq = (s.csRow (ridOf core row)).rxq ++ [{ row := row, remote := false, pkg := 0, core := coreOfRid b.rid, srow := rowOfRid b.rid, hdr := b.hdr, flits := b.flits }] ∧
          (∀ e ∈ (t.octOf s.sel.unit).hub, e.1 ≠ s.sel.sub) ∧ t.mem = s.mem) ∧
      (b.dest.getLsbD 48 = true →
        (s.sel.flag = true → s.portsTo (b.dest.toNat / 2 ^ 39 % 512) ≠ [] → ∃ t, exec .packetEntry s = .next t ∧ (∀ e ∈ (t.octOf s.sel.unit).hub, e.1 ≠ s.sel.sub) ∧ t.mem = s.mem ∧ t.ctl = s.ctl) ∧
        (s.sel.flag = false ∨ s.portsTo (b.dest.toNat / 2 ^ 39 % 512) = [] → exec .packetEntry s = .next s))) ∧
    (let rid := ridOf s.sel.unit s.sel.sub
     ∀ p, (s.thrOf rid).packet = some p → s.running rid = true → s.stepDone rid = true → (s.thrOf rid).mid = false → (s.thrOf rid).stop = none → 64 ≤ p.bundles → isBase rid = false → (s.thrOf rid).chunk.steps = 0 → (s.thrOf rid).loads = [] → s.vecBusy rid = false →
      (s.thrOf rid).nest = none → (s.thrOf rid).serves = none → s.teamHandler rid = none → (s.thrOf rid).deferred = [] →
      ∃ t, exec .packetTimeout s = .next t ∧ (t.ctlOf rid).state = .faulted ∧ (t.thrOf rid).trapCause = some .packet ∧ (t.ctlOf rid).p = false ∧ (t.thrOf rid).packet = none) ∧
    (s.sel.unit < 32 → s.sel.sub < 4096 → s.sel.idx < 16 →
      let b := s.barOf s.sel.unit (s.sel.sub * 16 + s.sel.idx)
      let e := s.sel.data.toNat / 2 ^ 24 % 2 ^ 19
      ∃ t, exec .barrierWordWrite s = .next t ∧ t.mem = s.mem ∧ t.ctl = s.ctl ∧ (∀ y, y ≠ s.sel.sub * 16 + s.sel.idx → t.barOf s.sel.unit y = s.barOf s.sel.unit y) ∧
        t.barOf s.sel.unit (s.sel.sub * 16 + s.sel.idx) = if b.count ≠ 0 then b else if s.sel.data.getLsbD 63 = false then { b with arm := false }
          else if 1 ≤ e ∧ e ≤ 393216 then { b with arm := true, expect := BitVec.ofNat 19 e } else b) ∧
    (let rid := ridOf s.sel.unit s.sel.sub
     (s.waits rid 12 = true → (s.ctlOf rid).state = .sleeping → reached s.cycle (s.rowGet rid 0 7) = true →
       ∃ t, exec .deadlineWake s = .next t ∧ t.ctlOf rid = { s.ctlOf rid with state := .ready, wait := 0, wake := 0 } ∧ (∀ r, r ≠ rid → t.ctlOf r = s.ctlOf r) ∧ t.mem = s.mem) ∧
     (reached s.cycle (s.rowGet rid 0 7) = false → exec .deadlineWake s = .next s))

/-! ### Vector instructions -/

namespace Sys2Proof.Says

/-- Lane `j` of a segment of type `y` (12_vector_matrix.md R204). -/
def laneAt (y : BitVec 3) (v j : Nat) : Nat := v / 2 ^ (laneBits y.toNat * j) % 2 ^ laneBits y.toNat

/-- A vector operation was issued from `s` (R205, R208, R209): the word completed, its core's vector queue took it with what it reads and writes, a register as 32 and its number, and its latencies, and later words of the row wait for its results until it lands. A base-die core has no queue. -/
structure VectorIssued (s t : State) (reads writes : List Nat) (landing occupancy : Nat) : Prop where
  completed : t.cur.ended = .completed
  pc : Moves s t s.me
  ctl : OnlyPc s t s.me
  clu : t.clu = s.clu
  ten : t.ten = s.ten
  others : ∀ c, c ≠ s.myCore → t.coreOf c = s.coreOf c
  queue : isBase s.me = false → t.coreOf s.myCore = { s.coreOf s.myCore with
    vpass := (t.coreOf s.myCore).vpass, vq := (s.coreOf s.myCore).vq ++ [{ id := s.seq, rid := s.me, writes := writes.filter fun w => w != 32, reads := reads.filter fun w => w != 32, landing := landing, occupancy := occupancy, issued := s.cycle }] }
  thr : ∀ r, r ≠ s.me → t.thrOf r = s.thrOf r
  own : t.thrOf s.me = { s.thrOf s.me with loads := (t.thrOf s.me).loads }
  waits : isBase s.me = false → ∀ l ∈ vecLoads s.seq writes, l ∈ (t.thrOf s.me).loads
/-- It wrote the segment `k` and no other byte. -/
structure VectorWrites (s t : State) (k : Nat) (reads writes : List Nat) (landing occupancy : Nat) : Prop extends VectorIssued s t reads writes landing occupancy where
  mem : ∀ a, a < rowAddr s.me + 320 + 64 * k ∨ rowAddr s.me + 384 + 64 * k ≤ a → mget t.mem a = mget s.mem a
/-- It changed no byte but register `g` and the distance window. -/
def OnlyRegister (s t : State) (g : BitVec 5) : Prop :=
  ∀ a, (g = 0 ∨ a < rowAddr s.me + 8 * g.toNat ∨ rowAddr s.me + 8 * g.toNat + 8 ≤ a) → (a < rowAddr s.me + 224 ∨ rowAddr s.me + 256 ≤ a) → mget t.mem a = mget s.mem a
/-- Segment `k` of the issuing row. -/
def segOf (s t : State) (k : Nat) : Nat := t.rowGet s.me (320 + 64 * k) 64

/-- Operations lane by lane, with what they read, their latencies (R211) and the lane's function of the lanes of wA, wB and wD (R212, R213, R218). -/
def laneOps2 (d a b : BitVec 4) (y : BitVec 3) : List (Instr × Nat × (Nat → Nat → Nat)) :=
  let w := laneBits y.toNat
  [(.vadd d a b y, 3, fun p q => arith y.toNat (fun u v _ => u.add false v) (fun u v _ => u + v) p q p),
   (.vsub d a b y, 3, fun p q => arith y.toNat (fun u v _ => u.add false v.neg) (fun u v _ => u - v) p q p),
   (.vmul d a b y, 3, fun p q => arith y.toNat (fun u v _ => u.mul v) (fun u v _ => u * v) p q p),
   (.vmax d a b y, 3, laneMinMax y.toNat true), (.vmin d a b y, 3, laneMinMax y.toNat false), (.vscale d a b y, 3, laneScale y.toNat),
   (.vand d a b y, 2, fun p q => p &&& q), (.vor d a b y, 2, fun p q => p ||| q), (.vxor d a b y, 2, fun p q => p ^^^ q),
   (.vshl d a b y, 2, fun p q => p * 2 ^ (q % w)), (.vshr d a b y, 2, fun p q => p / 2 ^ (q % w)), (.vsar d a b y, 2, fun p q => (toSigned w p / 2 ^ (q % w) % 2 ^ w).toNat)]
def laneOps1 (d a : BitVec 4) (y : BitVec 3) : List (Instr × Nat × Nat × (Nat → Nat)) :=
  [(.vabs d a y, 2, 1, laneAbs y.toNat), (.vneg d a y, 2, 1, laneNeg y.toNat), (.vmov d a y, 2, 1, fun p => p), (.vexp2 d a y, 8, 2, fun p => laneRnd y.toNat (laneVal y.toNat p).exp2),
   (.vlog2 d a y, 8, 2, fun p => laneRnd y.toNat (laneVal y.toNat p).log2), (.vrcp d a y, 8, 2, fun p => laneRnd y.toNat (laneVal y.toNat p).rcp), (.vrsq d a y, 8, 2, fun p => laneRnd y.toNat (laneVal y.toNat p).rsq)]
def laneOps3 (d a b : BitVec 4) (y : BitVec 3) : List (Instr × (Nat → Nat → Nat → Nat)) :=
  [(.vfma d a b y, arith y.toNat (fun u v w => w.add false (u.mul v)) fun u v w => w + u * v), (.vfms d a b y, arith y.toNat (fun u v w => w.add false (u.mul v).neg) fun u v w => w - u * v)]
/-- Operations with a scalar result of the lanes of wA and wB (R214 to R217). -/
def scalarOps (g : BitVec 5) (a b : BitVec 4) (y : BitVec 3) : List (Instr × Nat × (List Nat → List Nat → Nat)) :=
  [(.vcmpEq g a b y, 3, fun p q => maskOf (p.zipWith (laneCompare y.toNat 0) q)), (.vcmpLt g a b y, 3, fun p q => maskOf (p.zipWith (laneCompare y.toNat 1) q)),
   (.vcmpLe g a b y, 3, fun p q => maskOf (p.zipWith (laneCompare y.toNat 2) q)), (.vdot g a b y, 6, dotOf y.toNat)]
def scalarOps1 (g : BitVec 5) (a : BitVec 4) (y : BitVec 3) (n : BitVec 6) : List (Instr × Nat × (List Nat → Nat)) :=
  [(.vredSum g a y, 6, redSum y.toNat), (.vredMax g a y, 6, redMinMax y.toNat true), (.vredMin g a y, 6, redMinMax y.toNat false),
   (.vext g a y n, 3, fun l => if y.toNat < 3 ∨ 5 < y.toNat then l.getD n.toNat 0 else (toSigned (laneBits y.toNat) (l.getD n.toNat 0) % 2 ^ 64).toNat)]

/-- The vector queue of the thread's core has room, or there is none (R205). -/
def RoomForVector (s : State) : Prop := isBase s.me = true ∨ (s.coreOf s.myCore).vq.length < 8

end Sys2Proof.Says

/-- 12_vector_matrix.md R205, R211 to R213, R218: every operation lane by lane completes, joins the vector queue, and gives lane j of its destination the function of the lanes j of its sources, read before anything is written; it changes no other byte. Where the queue is full it waits. Model's choices: an operation counts among the 8 until it has landed (log 93), its result stands in the row from issue on, and readers wait for the landing (log 8), and the values of `VEXP2` and `VLOG2` are computed as log 16 says. -/
def Sys2Proof.Says.VectorLanes : Prop :=
  ∀ (s : State) (d a b : BitVec 4) (y : BitVec 3) (x z w : Nat),
    (isBase s.me = false → 8 ≤ (s.coreOf s.myCore).vq.length → ∀ i ∈ (laneOps1 d a y).map (·.1) ++ (laneOps2 d a b y).map (·.1) ++ (laneOps3 d a b y).map (·.1), exec i s = .next (s.applyStop (.stall false))) ∧
    (RoomForVector s → s.vseg a.toNat = .ok x →
    (∀ e ∈ laneOps1 d a y, ∃ t, exec e.1 s = .next t ∧ VectorWrites s t d.toNat [a.toNat] [d.toNat] e.2.1 e.2.2.1 ∧
      ∀ j, j < laneCount y.toNat → laneAt y (segOf s t d.toNat) j = e.2.2.2 (laneAt y x j) % 2 ^ laneBits y.toNat) ∧
    (s.vseg b.toNat = .ok z → ∀ e ∈ laneOps2 d a b y, ∃ t, exec e.1 s = .next t ∧ VectorWrites s t d.toNat [a.toNat, b.toNat] [d.toNat] e.2.1 1 ∧
      ∀ j, j < laneCount y.toNat → laneAt y (segOf s t d.toNat) j = e.2.2 (laneAt y x j) (laneAt y z j) % 2 ^ laneBits y.toNat) ∧
    (s.vseg b.toNat = .ok z → s.vseg d.toNat = .ok w → ∀ e ∈ laneOps3 d a b y, ∃ t, exec e.1 s = .next t ∧ VectorWrites s t d.toNat [a.toNat, b.toNat, d.toNat] [d.toNat] 4 1 ∧
      ∀ j, j < laneCount y.toNat → laneAt y (segOf s t d.toNat) j = e.2 (laneAt y x j) (laneAt y z j) (laneAt y w j) % 2 ^ laneBits y.toNat))

/-- R212, R217: on integer lanes the operations are those of two's-complement numbers of the lane's width, the sums of a reduction and a dot product those of 64 bits, whatever the order. -/
def Sys2Proof.Says.VectorIntegerLanes : Prop :=
  ∀ (y : BitVec 3) (a b d : Nat) (l m : List Nat), 3 ≤ y.toNat → y.toNat ≤ 5 →
    let n := laneBits y.toNat
    let si := fun v : Nat => (BitVec.ofNat n v).toInt
    a < 2 ^ n → b < 2 ^ n → d < 2 ^ n → l.length = laneCount y.toNat → (∀ v ∈ l, v < 2 ^ n) → m.length = l.length →
    arith y.toNat (fun u v _ => u.add false v) (fun u v _ => u + v) a b a = (a + b) % 2 ^ n ∧
    arith y.toNat (fun u v _ => u.add false v.neg) (fun u v _ => u - v) a b a = (2 ^ n + a - b) % 2 ^ n ∧
    arith y.toNat (fun u v _ => u.mul v) (fun u v _ => u * v) a b a = a * b % 2 ^ n ∧
    arith y.toNat (fun u v w => w.add false (u.mul v)) (fun u v w => w + u * v) a b d = (d + a * b) % 2 ^ n ∧
    si (laneMinMax y.toNat true a b) = Max.max (si a) (si b) ∧ si (laneMinMax y.toNat false a b) = Min.min (si a) (si b) ∧
    (a ≠ 2 ^ (n - 1) → si (laneAbs y.toNat a) = |si a|) ∧ laneNeg y.toNat a = (2 ^ n - a) % 2 ^ n ∧
    laneCompare y.toNat 0 a b = decide (si a = si b) ∧ laneCompare y.toNat 1 a b = decide (si a < si b) ∧ laneCompare y.toNat 2 a b = decide (si a ≤ si b) ∧
    redSum y.toNat l = ((l.map si).sum % 2 ^ 64).toNat ∧ dotOf y.toNat l m = (((l.zipWith (fun u v => si u * si v) m).sum) % 2 ^ 64).toNat

/-- R214 to R217, R221: comparisons write a mask, a dot product and a reduction one number, and `VEXT` one lane, to a scalar register: each completes, joins the vector queue, and produces the value. -/
def Sys2Proof.Says.VectorToScalar : Prop :=
  ∀ (s : State) (g : BitVec 5) (a b : BitVec 4) (y : BitVec 3) (n : BitVec 6) (x z : Nat), RoomForVector s → s.vseg a.toNat = .ok x → s.dstOpen g.toNat = true →
    (∀ e ∈ scalarOps1 g a y n, ∃ t, exec e.1 s = .next t ∧ VectorIssued s t [a.toNat, a.toNat] [32 + g.toNat] e.2.1 1 ∧ Produced s t s.me g (num (e.2.2 (lanesOfSeg y.toNat x))) ∧ OnlyRegister s t g) ∧
    (s.vseg b.toNat = .ok z → ∀ e ∈ scalarOps g a b y, ∃ t, exec e.1 s = .next t ∧ VectorIssued s t [a.toNat, b.toNat] [32 + g.toNat] e.2.1 1 ∧
      Produced s t s.me g (num (e.2.2 (lanesOfSeg y.toNat x) (lanesOfSeg y.toNat z))) ∧ OnlyRegister s t g ∧
      (e.1 = .vcmpEq g a b y ∨ e.1 = .vcmpLt g a b y ∨ e.1 = .vcmpLe g a b y → ∀ j, j < laneCount y.toNat → (num (e.2.2 (lanesOfSeg y.toNat x) (lanesOfSeg y.toNat z))).getLsbD j =
        laneCompare y.toNat (match e.1 with | .vcmpEq _ _ _ _ => 0 | .vcmpLt _ _ _ _ => 1 | _ => 2) (laneAt y x j) (laneAt y z j)))

/-- R215, R221: `VSEL` takes lane j from wA where bit j of its mask is 1 and from wB elsewhere; `VPERM` picks lanes of wA and wD by index; `VBCAST` puts the low bits of a register in every lane; `VINS` puts them in one lane. Each completes, joins the vector queue, and writes its segment alone. -/
def Sys2Proof.Says.VectorMoves : Prop :=
  ∀ (s s1 : State) (d a b m : BitVec 4) (y : BitVec 3) (g : BitVec 5) (n : BitVec 2) (k : W) (x z w : Nat), RoomForVector s → s.vsrc g.toNat = .ok (k, s1) →
    let bits := laneBits y.toNat
    (s1.vseg a.toNat = .ok x → s1.vseg b.toNat = .ok z → ∃ t, exec (.vsel d a b y g) s = .next t ∧ VectorWrites s1 t d.toNat [a.toNat, b.toNat, 32 + g.toNat] [d.toNat] 2 1 ∧
      ∀ j, j < laneCount y.toNat → laneAt y (segOf s t d.toNat) j = if k.getLsbD j then laneAt y x j else laneAt y z j) ∧
    (∃ t, exec (.vbcast d y g) s = .next t ∧ VectorWrites s1 t d.toNat [32 + g.toNat] [d.toNat] 2 1 ∧ ∀ j, j < laneCount y.toNat → laneAt y (segOf s t d.toNat) j = k.toNat % 2 ^ bits) ∧
    (s1.vseg d.toNat = .ok w → ∃ t, exec (.vins d n y m g) s = .next t ∧ VectorWrites s1 t d.toNat [d.toNat, 32 + g.toNat] [d.toNat] 2 1 ∧
      ∀ j, j < laneCount y.toNat → laneAt y (segOf s t d.toNat) j = if j = n.toNat * 16 + m.toNat then k.toNat % 2 ^ bits else laneAt y w j) ∧
    (s.vseg a.toNat = .ok x → s.vseg b.toNat = .ok z → s.vseg d.toNat = .ok w → ∃ t, exec (.vperm d a b y) s = .next t ∧ VectorWrites s t d.toNat [a.toNat, b.toNat, d.toNat] [d.toNat] 2 1 ∧
      ∀ j, j < laneCount y.toNat → let i := laneAt y z j % (2 * laneCount y.toNat)
        laneAt y (segOf s t d.toNat) j = if i < laneCount y.toNat then laneAt y x i else laneAt y w (i - laneCount y.toNat))

/-- R219, R220 and 11_formats.md R202, R203: conversions. From more lanes to fewer `VCVT` converts the lanes of one part of wA; otherwise it converts all of wA, lane by lane or with error feedback, into one part of wD and keeps the rest. `VQUANT` quantizes 32 values: it writes 128 bits of wD at its quarter and one scale of wB at its slot, and keeps every other bit of both. -/
def Sys2Proof.Says.VectorConversions : Prop :=
  ∀ (s : State) (d a b : BitVec 4) (f o : BitVec 3) (p e u q1 : BitVec 1) (n : BitVec 6) (q : BitVec 2) (x x' w z : Nat), RoomForVector s → s.vseg a.toNat = .ok x → s.vseg d.toNat = .ok w → s.vseg b.toNat = .ok z →
    let part := p.toNat * 2 + q1.toNat
    (laneCount o.toNat < laneCount f.toNat → (part + 1) * laneCount o.toNat ≤ laneCount f.toNat → ∃ t, exec (.vcvt d a p f o e u q1) s = .next t ∧ VectorWrites s t d.toNat [a.toNat] [d.toNat] 3 1 ∧
      ∀ j, j < laneCount o.toNat → laneAt o (segOf s t d.toNat) j = (cvtLane o.toNat (u == 1) (laneFmt f.toNat).isNone (laneVal f.toNat (laneAt f x (part * laneCount o.toNat + j)))).1 % 2 ^ laneBits o.toNat) ∧
    (laneCount f.toNat ≤ laneCount o.toNat → (part + 1) * laneCount f.toNat ≤ laneCount o.toNat → ∃ t, exec (.vcvt d a p f o e u q1) s = .next t ∧
      VectorWrites s t d.toNat (if laneCount f.toNat < laneCount o.toNat then [a.toNat, d.toNat] else [a.toNat]) [d.toNat] 3 1 ∧
      let out := cvtBlock o.toNat (u == 1) (e == 1) (laneFmt f.toNat).isNone ((lanesOfSeg f.toNat x).map (laneVal f.toNat))
      (e = 0 → ∀ i, i < laneCount f.toNat → out.getD i 0 = (cvtLane o.toNat (u == 1) (laneFmt f.toNat).isNone (laneVal f.toNat (laneAt f x i))).1) ∧
      ∀ j, j < laneCount o.toNat → laneAt o (segOf s t d.toNat) j = if part * laneCount f.toNat ≤ j ∧ j < (part + 1) * laneCount f.toNat then out.getD (j - part * laneCount f.toNat) 0 % 2 ^ laneBits o.toNat else laneAt o w j) ∧
    (d ≠ b → f.toNat ≤ 2 ∨ 6 ≤ f.toNat → (f = 0 → s.vseg (a.toNat + 1) = .ok x') → ∀ v ∈ [((.vquantMx d a b f n q : Instr), 8, quantMx), (.vquantGq d a b f n q, 16, quantGq)], v.2.1 * n.toNat + v.2.1 ≤ 512 →
      let vals := ((lanesOfSeg f.toNat x ++ if f = 0 then lanesOfSeg 0 x' else []).take 32).map (laneVal f.toNat)
      ∃ t, exec v.1 s = .next t ∧ VectorIssued s t ((if f = 0 then [a.toNat, a.toNat + 1] else [a.toNat]) ++ [d.toNat, b.toNat]) [d.toNat, b.toNat] 6 2 ∧
        segOf s t d.toNat / 2 ^ (128 * q.toNat) % 2 ^ 128 = joinLanes 4 (v.2.2 vals).1 % 2 ^ 128 ∧ segOf s t d.toNat % 2 ^ (128 * q.toNat) = w % 2 ^ (128 * q.toNat) ∧ segOf s t d.toNat / 2 ^ (128 * q.toNat + 128) = w / 2 ^ (128 * q.toNat + 128) ∧
        segOf s t b.toNat / 2 ^ (v.2.1 * n.toNat) % 2 ^ v.2.1 = (v.2.2 vals).2 % 2 ^ v.2.1 ∧ segOf s t b.toNat % 2 ^ (v.2.1 * n.toNat) = z % 2 ^ (v.2.1 * n.toNat) ∧
        segOf s t b.toNat / 2 ^ (v.2.1 * n.toNat + v.2.1) = z / 2 ^ (v.2.1 * n.toNat + v.2.1))

/-- R206 to R209: a vector word reads a segment, and a register that is no bound stream, whether or not queued operations will write them; every other word waits for the landing of what a queued operation writes. VECTOR_BIND gives the first free group of the quad's vector unit to the head of a core's queue, issued in an earlier cycle; the group is busy for the operation's occupancy and the core's pass rises by occupancy × (256 div `VSHARE`). VECTOR_LAND removes the operations of a core that have landed, and nothing waits for their results any more. That a bound operation keeps its place in the queue until then is the model's choice (log 93), that its result stands in the row from issue on the model's reading (log 8). -/
def Sys2Proof.Says.VectorUnit : Prop :=
  ∀ s : State,
    (∀ c v, c / 4 = s.sel.unit → (s.coreOf c).vq = [v] → v.bound = none → v.issued < s.cycle → (∀ c', c' / 4 = s.sel.unit → c' ≠ c → (s.coreOf c').vq = []) → (s.cs c).vshare ≠ 0 → (s.quadOf s.sel.unit).groups.getD 0 0 ≤ s.cycle →
      ∃ t, exec .vectorBind s = .next t ∧ (t.coreOf c).vq = [{ v with bound := some s.cycle }] ∧ (t.coreOf c).vpass = (s.coreOf c).vpass + v.occupancy * (256 / (s.cs c).vshare.toNat) ∧
        (t.quadOf s.sel.unit).groups = (s.quadOf s.sel.unit).groups.set 0 (s.cycle + v.occupancy) ∧ t.mem = s.mem ∧ t.ctl = s.ctl ∧ t.thr = s.thr) ∧
    (∃ t, exec .vectorLand s = .next t ∧ { t with core := s.core, thr := s.thr } = s ∧ (∀ c, c ≠ s.sel.unit → t.coreOf c = s.coreOf c) ∧
      let lands := fun v : VOp => ∃ b, v.bound = some b ∧ b + v.landing ≤ s.cycle
      t.coreOf s.sel.unit = { s.coreOf s.sel.unit with vq := (t.coreOf s.sel.unit).vq } ∧ (∀ v, v ∈ (t.coreOf s.sel.unit).vq ↔ v ∈ (s.coreOf s.sel.unit).vq ∧ ¬ lands v) ∧
      ∀ r, t.thrOf r = { s.thrOf r with loads := (t.thrOf r).loads } ∧
        ∀ l, l ∈ (t.thrOf r).loads ↔ l ∈ (s.thrOf r).loads ∧ ∀ v ∈ (s.coreOf s.sel.unit).vq, lands v → v.rid = r → v.id ≠ l.id) ∧
    (∀ k, k < 11 → s.uncorrAt (rowAddr s.me + (320 + 64 * k)) 64 = none → s.cur.slot ≠ .pair1 →
      ((∀ l ∈ (s.thrOf s.me).loads, l.seg = some k → l.vec = true) → s.vseg k = .ok (s.rowGet s.me (320 + 64 * k) 64)) ∧
      ((∀ l ∈ (s.thrOf s.me).loads, l.seg ≠ some k) → s.seg k = .ok (s.rowGet s.me (320 + 64 * k) 64)) ∧
      ((∃ l ∈ (s.thrOf s.me).loads, l.seg = some k) → s.seg k = .error (.stall false))) ∧
    (∀ a, 0 < a → a < 28 → s.uncorrAt (rowAddr s.me + 8 * a) 8 = none → s.cur.slot ≠ .pair1 → s.seenBound a = false → (∀ l ∈ (s.thrOf s.me).loads, l.reg = some a → l.vec = true) → s.vsrc a = .ok (num (s.greg s.me a), s))

/-! ### Device steps on rows -/

namespace Sys2Proof.Says

/-- The row that a device step names, and the fields of the control word 0 that it brings (02_rows.md R28, R33). -/
def stepRow (s : State) : Nat := ridOf s.sel.unit s.sel.sub
def storedState (s : State) : Nat := s.sel.data.toNat / 2 ^ 60
def storedPri (s : State) : BitVec 2 := BitVec.ofNat 2 (s.sel.data.toNat / 2 ^ 54)
def storedTeam (s : State) : BitVec 12 := BitVec.ofNat 12 (s.sel.data.toNat / 2 ^ 36)
def storedTag (s : State) : BitVec 36 := BitVec.ofNat 36 (s.sel.data.toNat % 16)

/-- A control store reaches the row's entry: the row exists, its octet is not BUSY, the entry has no uncorrectable error, and neither a write-back, nor a transition in this cycle, nor an access that came before stands in its way (R38, R41). -/
structure StoreReaches (s : State) : Prop where
  core : s.sel.unit < 6144
  row : s.sel.sub < 2048
  free : (s.octOf (hubOf (stepRow s))).busy = false
  good : s.ctlBad (stepRow s) = none
  entry : s.ctlFree (stepRow s) = true

/-- A running thread row stands at a boundary with nothing open: the cycles of its last step have passed, and no chunk, load, vector operation, replay or close is under way. -/
structure AtRest (s : State) (r : Nat) : Prop where
  thread : isBase r = false
  running : s.running r = true
  chunk : (s.thrOf r).chunk.live = false
  whole : (s.thrOf r).chunk.limit = 256
  done : s.stepDone r = true
  close : (s.thrOf r).closeAs = none
  loads : (s.thrOf r).loads = []
  vector : s.vecBusy r = false

/-- Nothing but the core `c` differs. -/
def OnlyCore (s t : State) (c : Nat) : Prop := { t with core := s.core } = s ∧ ∀ k, k ≠ c → t.coreOf k = s.coreOf k
/-- No control entry but that of `r`, and no byte of memory, differs. -/
def OnlyEntry (s t : State) (r : Nat) : Prop := (∀ q, q ≠ r → t.ctlOf q = s.ctlOf q) ∧ t.mem = s.mem

end Sys2Proof.Says

/-- 02_rows.md R33 to R35: stores by system software to the control words of a row that is not OPEN. Each permitted pair of states makes its change and its effect; the fields `PRI`, `TEAM` (in NULL and DORMANT) and `LTAG` (in NULL) are written whatever the state; a NULL row with a byte locked by a matrix command stays NULL (12_vector_matrix.md R228);
a store to word 1 sets the program counter, and makes a waiting row READY. -/
def Sys2Proof.Says.ControlStores : Prop :=
  ∀ s : State, StoreReaches s →
    let r := stepRow s
    let c := s.ctlOf r
    let st := storedState s
    (c.state = .null → st = 1 → ∃ t, exec .ctlMakeThread s = .next t ∧ OnlyEntry s t r ∧ t.thr = s.thr ∧
      t.ctlOf r = if s.matrixLocked r then { c with pri := storedPri s, team := storedTeam s, wake := storedTag s } else { c with state := .dormant, wait := 0, wake := 0, h := false, pri := storedPri s, team := storedTeam s }) ∧
    (c.state = .dormant → st = 2 → ∃ t, exec .ctlStart s = .next t ∧ OnlyEntry s t r ∧ t.ctlOf r = { c with state := .ready, wait := 0, wake := 0, pri := storedPri s, team := storedTeam s } ∧
      (t.thrOf r).effPri = (storedPri s).toNat ∧ (t.thrOf r).readyAt = s.cycle ∧ ∀ q, q ≠ r → t.thrOf q = s.thrOf q) ∧
    (c.state = .ready ∨ c.state = .blocked ∨ c.state = .sleeping → st = 1 → ∃ t, exec .ctlStop s = .next t ∧ t.mem = s.mem ∧ t.ctlOf r = { c with state := .dormant, wait := 0, wake := 0, pri := storedPri s }) ∧
    (c.state = .faulted → st = 2 → ∃ t, exec .ctlResume s = .next t ∧ OnlyEntry s t r ∧ t.ctlOf r = { c with state := .ready, wait := 0, wake := 0, pri := storedPri s }) ∧
    (c.state = .dormant ∨ c.state = .exited ∨ c.state = .faulted → st = 0 → ∃ t, exec .ctlMakeData s = .next t ∧ t.thrOf r = {} ∧
      t.ctlOf r = { c with state := .null, wait := 0, wake := storedTag s, pri := storedPri s, team := if c.state = .dormant then storedTeam s else c.team } ∧
      (∀ a, a < rowAddr r + 256 ∨ rowAddr r + 320 ≤ a → mget t.mem a = mget s.mem a)) ∧
    (c.state = .null → st ≠ 1 → ∃ t, exec .ctlFieldWrite s = .next t ∧ OnlyEntry s t r ∧ t.thr = s.thr ∧ t.ctlOf r = { c with pri := storedPri s, team := storedTeam s, wake := storedTag s }) ∧
    (c.state = .dormant → st ≠ 0 → st ≠ 2 → ∃ t, exec .ctlFieldWrite s = .next t ∧ OnlyEntry s t r ∧ t.thr = s.thr ∧ t.ctlOf r = { c with pri := storedPri s, team := storedTeam s }) ∧
    (c.state = .ready ∨ c.state = .blocked ∨ c.state = .sleeping → st ≠ 1 → ∃ t, exec .ctlFieldWrite s = .next t ∧ OnlyEntry s t r ∧ t.thr = s.thr ∧ t.ctlOf r = { c with pri := storedPri s }) ∧
    (c.state = .faulted → st ≠ 0 → st ≠ 2 → ∃ t, exec .ctlFieldWrite s = .next t ∧ OnlyEntry s t r ∧ t.thr = s.thr ∧ t.ctlOf r = { c with pri := storedPri s }) ∧
    (c.state = .exited → st ≠ 0 → ∃ t, exec .ctlFieldWrite s = .next t ∧ OnlyEntry s t r ∧ t.thr = s.thr ∧ t.ctlOf r = { c with pri := storedPri s }) ∧
    (c.state = .held → ∀ i ∈ [Instr.ctlMakeThread, .ctlStart, .ctlStop, .ctlResume, .ctlMakeData, .ctlFieldWrite, .ctlRedirect], exec i s = .next s) ∧
    (c.state ≠ .opened → c.state ≠ .held → ∃ t, exec .ctlRedirect s = .next t ∧ t.mem = s.mem ∧
      t.ctlOf r = if c.state = .blocked ∨ c.state = .sleeping then { c with state := .ready, wait := 0, wake := 0, pc := pcOf s.sel.data } else { c with pc := pcOf s.sel.data })

/-- R42, R46, R48; R25: accesses that wait for the boundary of a running row with no stop marked. A control store with `P` = 0 closes the row, which is treated as READY: it becomes DORMANT when the store says so, its turn over, and otherwise stays READY, keeps its bundle count and opens before other rows of its priority. A store to its row store lands, but for the reserved bits [63:62] of `STS`, and leaves it running. -/
def Sys2Proof.Says.BoundaryAccesses : Prop :=
  ∀ s : State, AtRest s (stepRow s) →
    let r := stepRow s
    let c := s.ctlOf r
    (∀ v : W, (s.thrOf r).deferred = [.control r 0 v] → c.p = false → s.ctlBad r = none → (s.thrOf r).stop = none →
      ∃ t, exec .controlRequest s = .next t ∧ t.mem = s.mem ∧ (t.thrOf r).turn = (if v.toNat / 2 ^ 60 = 1 then 0 else (s.thrOf r).turn) ∧ (t.thrOf r).deferred = [] ∧
        t.ctlOf r = { c with state := if v.toNat / 2 ^ 60 = 1 then .dormant else .ready, wait := 0, wake := 0, pri := BitVec.ofNat 2 (v.toNat / 2 ^ 54) } ∧ (v.toNat / 2 ^ 60 ≠ 1 → (t.thrOf r).first = true)) ∧
    (∀ (off : Nat) (bs : List Byte), (s.thrOf r).deferred = [.store (rowAddr r + off) bs] → r < 12582912 → off + bs.length ≤ 1024 → off + bs.length ≤ 256 ∨ 320 ≤ off →
      ∃ t, exec .outsideAccess s = .next t ∧ { t with mem := s.mem, thr := s.thr, uncorr := s.uncorr } = s ∧ (∀ u ∈ t.uncorr, u ∈ s.uncorr) ∧ (t.thrOf r).deferred = [] ∧ (∀ q, q ≠ r → t.thrOf q = s.thrOf q) ∧
        (∀ i b, bs[i]? = some b → mget t.mem (rowAddr r + off + i) = if off + i = 7 then BitVec.ofNat 8 (b.toNat % 64 + (mget s.mem (rowAddr r + 7)).toNat / 64 * 64) else b) ∧ (∀ a, a < rowAddr r + off ∨ rowAddr r + off + bs.length ≤ a → mget t.mem a = mget s.mem a)) ∧
    ((s.thrOf r).deferred = [] → exec .controlRequest s = .next s ∧ exec .outsideAccess s = .next s)

/-- R40, R41, R43, R44; 24_tenancy_boot.md R366; 23_stack_fabric.md R347: opening. A core that may open rows (its cluster ready, held by its owner with no switch, its quad RUNNING), with fewer rows on ports than `OPENLIM`, those being written back among them, and a free port, opens a READY row whose bank no port holds, of the highest effective priority, among those the one put first, and among those the one that has been READY longest.
The row is OPEN with its port busy for 4 cycles; OPEN_COMPLETE lets it run. The effective priority is one level higher, to at most 3, for each 16 × `TURNLEN` cycles of waiting, whenever the step PRIORITY_RISE that counts a level is taken. -/
def Sys2Proof.Says.RowOpens : Prop :=
  ∀ s : State,
    let c := s.sel.unit
    let o := s.octOf (octetOf c)
    (∀ p r : Nat, s.pkg.ready0.getLsbD (clusterOf c) = true → (s.cluOf (clusterOf c)).holder = o.tag.toNat → o.busy = false → (s.quadOf (quadOfCore c)).power = .running → (s.cluOf (clusterOf c)).switch = none →
      s.uncorr = [] → ((s.coreOf c).ports.filter fun e => e.2.isSome).length < (s.cs c).openlim.toNat → s.freePort c = some p → s.nextRow c = some r →
      (∀ e ∈ s.ctl, e.2.state = .ready → isBase e.1 = false → coreOfRid e.1 = c → (∀ q ∈ s.portBanks c, q ≠ rowOfRid e.1 % 64) →
        s.effNow e.1 ≤ s.effNow r ∧ (s.effNow e.1 = s.effNow r → ((s.thrOf e.1).first = true → (s.thrOf r).first = true) ∧ ((s.thrOf e.1).first = (s.thrOf r).first → (s.thrOf r).readyAt ≤ (s.thrOf e.1).readyAt))) ∧
      ∃ t, exec .rowOpen s = .next t ∧ t.ctlOf r = { s.ctlOf r with state := .opened, wait := 0, wake := 0 } ∧ OnlyEntry s t r ∧
        (tget none (t.coreOf c).ports p : Option Port) = some { row := rowOfRid r, phase := .opening, busy := s.cycle + 4 } ∧ (∀ q, q ≠ p → (tget none (t.coreOf c).ports q : Option Port) = tget none (s.coreOf c).ports q)) ∧
    ((s.cs c).openlim.toNat ≤ ((s.coreOf c).ports.filter fun e => e.2.isSome).length → s.uncorr = [] → exec .rowOpen s = .next s) ∧
    (s.pkg.ready0.getLsbD (clusterOf c) = false ∨ (s.cluOf (clusterOf c)).holder ≠ o.tag.toNat ∨ (s.quadOf (quadOfCore c)).power ≠ .running → exec .rowOpen s = .next s) ∧
    (∀ x : Port, tget none (s.coreOf c).ports s.sel.sub = some x → x.phase = .opening → (s.thrOf (ridOf c x.row)).deferred = [] →
      (x.busy ≤ s.cycle → ∃ t, exec .openComplete s = .next t ∧ OnlyCore s t c ∧ (tget none (t.coreOf c).ports s.sel.sub : Option Port) = some { x with phase := .running }) ∧ (s.cycle < x.busy → exec .openComplete s = .next s)) ∧
    (let r := stepRow s
     let th := s.thrOf r
     let level := 16 * (s.cs (coreOfRid r)).turnlen.toNat
     s.effNow r = min 3 (th.effPri + (s.cycle - th.riseAt) / level) ∧
     ((s.ctlOf r).state = .ready → th.effPri < 3 → level ≤ s.cycle - th.riseAt → ∃ t, exec .priorityRise s = .next t ∧ { t with thr := s.thr } = s ∧ t.thrOf r = { th with effPri := th.effPri + 1, riseAt := th.riseAt + level } ∧
      (0 < level → t.effNow r = s.effNow r)) ∧
     ((s.ctlOf r).state ≠ .ready ∨ 3 ≤ th.effPri → exec .priorityRise s = .next s))

/-- R41 to R43; 04_scalar.md R106; 15_traps.md R267: closing. A running row at rest, with no stop marked, closes to READY at the end of its turn, when a lowered `OPENLIM` takes the row with the most bundles in its turn, or for a quad gating; a stop of another kind makes it HELD in the saved state READY. An open packet puts off a turn end, a close and a stop, and so does a SERIAL bundle of which only word 0 has issued the end of a turn. Its port is busy for 2 cycles with the write-back, after which CLOSE_WRITEBACK frees it, and a parent whose `HJOIN` names only this helper wakes. -/
def Sys2Proof.Says.RowCloses : Prop :=
  ∀ s : State,
    let c := s.sel.unit
    (∀ x : Port, tget none (s.coreOf c).ports s.sel.sub = some x →
      let r := ridOf c x.row
      (x.phase = .writeback → x.busy ≤ s.cycle → ∃ t, exec .closeWriteback s = .next t ∧ (tget none (t.coreOf c).ports s.sel.sub : Option Port) = none ∧ (s.helperOf r = none → OnlyCore s t c) ∧
        (∀ h, s.helperOf r = some h → x.row < 2048 → h.parent < 2048 → let p := ridOf c h.parent
          s.waits p 6 = true → (s.ctlOf p).state = .blocked → (s.ctlOf r).state = .exited → (∀ e ∈ (s.coreOf c).ports, e.1 ≠ s.sel.sub → ∀ y, e.2 = some y → y.row ≠ x.row) →
          (∀ e ∈ s.helpersOf p, (s.ctlOf p).wake.toNat.testBit e.1 = true → e.2 = x.row) → (t.ctlOf p).state = .ready)) ∧
      (x.phase = .writeback → s.cycle < x.busy → exec .closeWriteback s = .next s) ∧
      (x.phase = .running → AtRest s r → (s.thrOf r).deferred = [] → (s.thrOf r).stop = none → (s.ctlOf r).p = false → (s.thrOf r).mid = false → (s.cs (coreOfRid r)).turnlen.toNat ≤ (s.thrOf r).turn →
        (∃ e ∈ s.ctl, e.2.state = .ready ∧ coreOfRid e.1 = coreOfRid r ∧ s.writingBack e.1 = false ∧ (s.ctlOf r).pri.toNat ≤ s.effNow e.1) → ∃ t, exec .turnEnd s = .next t ∧ OnlyEntry s t r ∧ t.ctlOf r = { s.ctlOf r with state := .ready, wait := 0, wake := 0 } ∧ (t.thrOf r).turn = 0) ∧
      ((s.ctlOf r).p = true ∨ (s.thrOf r).mid = true ∨ (s.thrOf r).turn < (s.cs (coreOfRid r)).turnlen.toNat → x.phase = .running → exec .turnEnd s = .next s)) ∧
    (∀ row, (s.cs c).openlim.toNat < (s.openPorts c).length → s.longestTurn c = some row →
      let r := ridOf c row
      (∃ e ∈ s.openPorts c, e.2.row = row) ∧ (∀ e ∈ s.openPorts c, (s.thrOf (ridOf c e.2.row)).turn ≤ (s.thrOf r).turn) ∧
      (AtRest s r → (s.thrOf r).deferred = [] → (s.thrOf r).stop = none → (s.ctlOf r).p = false → ∃ t, exec .openlimClose s = .next t ∧ OnlyEntry s t r ∧ t.ctlOf r = { s.ctlOf r with state := .ready, wait := 0, wake := 0 }) ∧
      ((s.ctlOf r).p = true → exec .openlimClose s = .next s)) ∧
    ((s.openPorts c).length ≤ (s.cs c).openlim.toNat → exec .openlimClose s = .next s) ∧
    (let r := stepRow s
     ∀ why, (s.thrOf r).stop = some why →
      ((s.ctlOf r).p = true → exec .rowHold s = .next s) ∧
      (AtRest s r → (s.thrOf r).deferred = [] → (s.ctlOf r).p = false → why ≠ .abort → ∃ t, exec .rowHold s = .next t ∧ t.mem = s.mem ∧ (t.thrOf r).stop = none ∧
        t.ctlOf r = { s.ctlOf r with state := if why = .gating then .ready else .held, wait := 0, wake := 0 } ∧ (why ≠ .gating → (t.thrOf r).saved = .ready ∧ (t.thrOf r).heldBy = some why)))

/-! ### Registers of the windows, traps without a word, and errors -/

namespace Sys2Proof.Says

/-- Bits `hi` to `lo` of a word, the others zero. -/
def field (v : W) (hi lo : Nat) : W := num (v.toNat / 2 ^ lo % 2 ^ (hi - lo + 1) * 2 ^ lo)
/-- A ring's `LOG` (15_traps.md R262; 23_stack_fabric.md R356). -/
def logLegal (v : W) : Bool := decide (v.toNat % 32 = 0 ∨ 4 ≤ v.toNat % 32 ∧ v.toNat % 32 ≤ 20)
/-- Registers of the service window that system software writes: their offsets, which values they take, and what they then read as (15_traps.md R273; 16_translation.md R289; 20_scheduling.md R330; 23_stack_fabric.md R357; 24_tenancy_boot.md R363, R366; 26_combinators.md R370). -/
def packageTable : List (Nat × (W → Bool) × (W → W)) := [
  (0x00, fun v => decide (v.toNat % 512 < 320), fun v => field v 8 0), (0x40, fun _ => true, fun v => field v 7 0 ||| 8), (0x58, fun _ => true, fun v => field v 31 0), (0x60, fun _ => true, fun v => field v 31 0),
  (0x68, fun v => decide (65536 ≤ v.toNat % 2 ^ 32), fun v => field v 31 0), (0x78, fun _ => true, fun v => field v 63 48 ||| field v 3 0), (0x80, logLegal, fun v => field v 56 6 ||| field v 4 0), (0x90, fun _ => true, fun v => field v 31 0),
  (0xA0, fun v => decide (1000 ≤ v.toNat % 65536), fun v => field v 15 0)]
/-- The same for the registers of the tenant `n`. -/
def tenantTable (n : Nat) : List (Nat × (W → Bool) × (W → W)) := [
  (0x1000 + 32 * n, logLegal, fun v => field v 51 0), (0x1010 + 32 * n, fun _ => true, fun v => field v 31 0), (0x1018 + 32 * n, fun _ => true, fun v => field v 31 0),
  (0x3000 + 64 * n, fun _ => true, fun v => field v 51 13 ||| field v 0 0), (0x3008 + 64 * n, fun _ => true, fun v => field v 51 13 ||| field v 0 0), (0x3010 + 64 * n, fun _ => true, fun v => field v 51 2), (0x3018 + 64 * n, fun _ => true, fun v => field v 35 0),
  (0x3020 + 64 * n, fun _ => true, fun v => field v 51 3), (0x3028 + 64 * n, fun _ => true, fun v => field v 23 0), (0x5000 + 64 * n, fun _ => true, fun v => field v 31 0), (0x5008 + 64 * n, fun v => decide (v.toNat % 2048 ≤ 1024), fun v => field v 10 0),
  (0x5010 + 64 * n, fun _ => true, fun v => field v 63 32 ||| field v 15 0),
  (0x5018 + 64 * n, fun v => !v.getLsbD 63 || decide (1 ≤ v.toNat / 2 ^ 40 % 256 ∧ v.toNat / 2 ^ 40 % 256 ≤ v.toNat / 2 ^ 48 % 256), fun v => field v 63 63 ||| field v 55 40 ||| field v 31 0),
  (0x5020 + 64 * n, fun _ => true, fun v => field v 51 16), (0x5028 + 64 * n, fun _ => true, fun v => field v 51 16), (0x5030 + 64 * n, fun _ => true, fun v => field v 51 16), (0x5038 + 64 * n, fun _ => true, fun v => field v 51 16 ||| field v 0 0)]
/-- The physical address of an offset of the service window. -/
def serviceAt (off : Nat) : Nat := 0x1F000000000 + off

end Sys2Proof.Says

/-- 15_traps.md R273 and the register tables of 16_translation.md R289, 20_scheduling.md R330, 23_stack_fabric.md R357, 24_tenancy_boot.md R367 and 26_combinators.md R370: a store by system software to a register of the service window. The register then reads as the value with its reserved bits zero, or as before where the value lies outside its range; every other register of the tables reads as before, and
nothing else of the machine changes. Registers that no one writes keep their values. -/
def Sys2Proof.Says.ServiceRegisters : Prop :=
  ∀ (s : State) (n : Nat), n < 64 → ∀ e ∈ packageTable ++ tenantTable n, s.sel.unit = serviceAt e.1 →
    ∃ old t, s.mmioRead none (serviceAt e.1) = some old ∧ exec .registerWrite s = .next t ∧ t.mmioRead none (serviceAt e.1) = some (if e.2.1 s.sel.data then e.2.2 s.sel.data else old) ∧
      (∀ m, m < 64 → ∀ f ∈ packageTable ++ tenantTable m, f.1 ≠ e.1 → t.mmioRead none (serviceAt f.1) = s.mmioRead none (serviceAt f.1)) ∧ { t with pkg := s.pkg, ten := s.ten } = s ∧
    ∀ r ∈ [0x48, 0x50, 0xA8, 0xB0, 0x88, 0x1008 + 32 * n, 0x6008 + 64 * n], exec .registerWrite { s with sel := { s.sel with unit := serviceAt r } } = .next { s with sel := { s.sel with unit := serviceAt r } }

/-- 02_rows.md R43, R44; 04_scalar.md R104; 15_traps.md R271, R273; 20_scheduling.md R330; 23_stack_fabric.md R346, R357; 24_tenancy_boot.md R362, R363, R366: the register writes that are device steps of their own. Each is the store to that register, with its range. A `TENMIN` that becomes nonzero takes the next admission number, and one of zero gives it up. `ROUTE` takes two different elevators of the octet's own stack. A write of `TURNLEN` leaves the effective priorities of the rows that wait as they are, and one whose time has reached the new length rises in the next cycle (R44). -/
def Sys2Proof.Says.RegisterSteps : Prop :=
  ∀ s : State,
    let v := s.sel.data.toNat
    let c := s.sel.unit
    (c < 6144 → ∃ t1 t2 t3, exec .openlimWrite s = .next t1 ∧ exec .turnlenWrite s = .next t2 ∧ exec .hpoolWrite s = .next t3 ∧ OnlyCore s t1 c ∧ OnlyCore s t3 c ∧
      { t2 with core := s.core, thr := s.thr } = s ∧ (∀ k, k ≠ c → t2.coreOf k = s.coreOf k) ∧ (∀ r, coreOfRid r ≠ c ∨ (s.ctlOf r).state ≠ .ready → t2.thrOf r = s.thrOf r) ∧
      (∀ e ∈ s.thr, coreOfRid e.1 = c → (s.ctlOf e.1).state = .ready → 0 < (t2.cs c).turnlen.toNat → t2.effNow e.1 = s.effNow e.1 ∧
        (16 * (t2.cs c).turnlen.toNat ≤ (s.cycle - (s.thrOf e.1).riseAt) % (16 * (s.cs c).turnlen.toNat) → State.effNow { t2 with cycle := s.cycle + 1 } e.1 = min 3 (s.effNow e.1 + 1))) ∧
      let k := s.coreOf c
      t1.coreOf c = { k with cs := { k.cs with openlim := if 1 ≤ v % 32 ∧ v % 32 ≤ 16 then BitVec.ofNat 5 v else k.cs.openlim } } ∧
      t2.coreOf c = { k with cs := { k.cs with turnlen := if 4 ≤ v % 65536 then BitVec.ofNat 16 v else k.cs.turnlen } } ∧
      t3.coreOf c = { k with cs := if v / 2 ^ 16 % 64 = 0 ∨ v % 2048 + v / 2 ^ 16 % 64 ≤ 2047 then { k.cs with hpoolCount := BitVec.ofNat 6 (v / 2 ^ 16), hpoolBase := BitVec.ofNat 11 v } else k.cs }) ∧
    (∀ p ∈ [((.pwrcapWrite : Instr), 0xA0), (.fnmodeWrite, 0x40)], ∃ t u, exec p.1 s = .next t ∧ exec .registerWrite { s with sel := { s.sel with unit := serviceAt p.2 } } = .next u ∧ t = { u with sel := s.sel }) ∧
    (c < 64 → ∀ p ∈ [((.gangmaskWrite : Instr), 0x5018), (.ticketsWrite, 0x5008)], ∃ t u, exec p.1 s = .next t ∧ exec .registerWrite { s with sel := { s.sel with unit := serviceAt (p.2 + 64 * c) } } = .next u ∧ t = { u with sel := s.sel }) ∧
    (c < 64 → let x := s.tenOf c
      let rises := (v / 2 ^ 32 ≠ 0 ∧ x.tenmin.toNat / 2 ^ 32 = 0) ∨ (v % 64 ≠ 0 ∧ x.tenmin.toNat % 64 = 0)
      let w : W := num (v / 2 ^ 32 * 2 ^ 32 + v % 64)
      ∃ t, exec .tenminWrite s = .next t ∧ (∀ m, m ≠ c → t.tenOf m = s.tenOf m) ∧ { t with ten := s.ten, pkg := s.pkg } = s ∧
        (32 < v % 64 → t = s) ∧ (v % 64 ≤ 32 → w = 0 → t.tenOf c = { x with tenmin := 0, admission := 0, deg := false } ∧ t.pkg = s.pkg) ∧
        (v % 64 ≤ 32 → w ≠ 0 → ¬ rises → t.tenOf c = { x with tenmin := w } ∧ t.pkg = s.pkg) ∧
        (v % 64 ≤ 32 → w ≠ 0 → rises → t.tenOf c = { x with tenmin := w, admission := s.pkg.admitNext } ∧ t.pkg = { s.pkg with admitNext := s.pkg.admitNext + 1 })) ∧
    (c < 768 → ∃ t, exec .routeWrite s = .next t ∧ { t with oct := s.oct } = s ∧ (∀ o, o ≠ c → t.octOf o = s.octOf o) ∧
      t.octOf c = if v % 64 / 4 = c / 96 ∧ v / 256 % 64 / 4 = c / 96 ∧ v % 64 ≠ v / 256 % 64 then { s.octOf c with route := some (BitVec.ofNat 6 v, BitVec.ofNat 6 (v / 256)) } else s.octOf c)

/-- 03_encoding.md R51, R56, R75; 15_traps.md R259: the traps of a bundle that cannot be fetched or decoded, with nothing of the chunk before it, every load performed and no packet open, when the team has no handler: the row is FAULTED with the cause `ILLEGAL` or `ACCESS` and the address of the word in g3. Where no word issues, neither step does anything. -/
def Sys2Proof.Says.UndecodableTraps : Prop :=
  ∀ s : State,
    (s.cur.ended = .running → s.running s.me = true → TrapsNow s → s.teamHandler s.me = none →
      ∀ f ∈ [((.undecodableWord : Instr), Cause.illegal, false), (.fetchFault, .access, true)], ∃ t, exec f.1 s = .next t ∧ t.mem = s.mem ∧ (∀ r, r ≠ s.me → (s.thrOf r).lockClaim = 0 → s.waits r 3 = false → t.ctlOf r = s.ctlOf r) ∧
        t.ctlOf s.me = { s.ctlOf s.me with state := .faulted, wait := 0, wake := 0, p := false, pc := pcOf (num s.cur.pc.toNat) } ∧
        (t.thrOf s.me).trapCause = some f.2.1 ∧ (t.thrOf s.me).trapG3 = num s.sel.unit ∧ (t.thrOf s.me).fetchTrap = f.2.2) ∧
    (s.cur.ended = .running → s.running s.me = true → s.cur.slot ≠ .pair1 → exec .undecodableWord s = .next (s.applyStop (.trap .illegal (num s.sel.unit) none))) ∧
    (s.running s.me = false → exec .undecodableWord s = .next s ∧ exec .fetchFault s = .next s)

/-- 15_traps.md R262, R270, R271: FQTAIL_ADVANCE stores the oldest entry at the tail of the tenant's ring, which `FQBASE` names at that time (the model's choice: log 97), and moves the tail. ECC_SCRUB records an uncorrectable word of its cluster in `ECCLOG`. -/
def Sys2Proof.Says.FaultQueueAndScrub : Prop :=
  ∀ s : State,
    (let q := s.tenOf s.sel.unit
     (q.fqWay = [] → exec .fqtailAdvance s = .next s) ∧
     ∀ e rest, q.fqWay = e :: rest → e.dwords.length = 4 →
      let pa := q.fqbase.toNat / 32 % 2 ^ 47 * 32 + 32 * (q.fqtail.toNat % 2 ^ (q.fqbase.toNat % 32))
      ∃ t, exec .fqtailAdvance s = .next t ∧ { t with mem := s.mem, ten := s.ten, pkg := s.pkg } = s ∧ t.tenOf s.sel.unit = { q with fqWay := rest, fqtail := q.fqtail + 1 } ∧ (∀ n, n ≠ s.sel.unit → t.tenOf n = s.tenOf n) ∧
        (∀ i d, e.dwords[i]? = some d → t.peek (pa + 8 * i) 8 = d.toNat) ∧ (∀ a, a < cellOf pa ∨ cellOf pa + 32 ≤ a → mget t.mem a = mget s.mem a)) ∧
    (let u := s.sel.sub / 8 * 8
     (s.sel.unit < 32 → cellOf u ∈ s.uncorr → clusterHome u = some s.sel.unit ∨ (clusterHome u = none ∧ inHbm u = true) → ∃ t, exec .eccScrub s = .next t ∧ { t with clu := s.clu } = s ∧ t.cluOf s.sel.unit = { s.cluOf s.sel.unit with ecclog := num (2 ^ 63 + u) } ∧ ∀ k, k ≠ s.sel.unit → t.cluOf k = s.cluOf k) ∧
     (cellOf u ∉ s.uncorr → exec .eccScrub s = .next s))

namespace Sys2Proof.Says

/-- The row `r` of the cluster of `q` has waited since `start` or earlier for a packet that only the row `q` can send (15_traps.md R270). -/
structure WaitsOn (s : State) (start r q : Nat) : Prop where
  state : (s.ctlOf r).state = .blocked
  wait : (s.ctlOf r).wait = 2
  forever : (s.ctlOf r).wake.toNat < 2 ^ 35
  since : (s.thrOf r).blockedCycle ≤ start
  names : (s.thrOf r).waitArg = coreOfRid q * 2048 + rowOfRid q
  same : clusterOf (coreOfRid r) = clusterOf (coreOfRid q)
  quiet : (s.thrOf r).packetAt ≤ start

end Sys2Proof.Says

/-- R270: at each multiple of 65,536 cycles, two rows of a cluster that wait for packets of each other through the interval, with no packet under way, trap `STALEMATE` with the name of the row waited for in g3; with `FNMODE`[4] the host gets a record of type 3 for each such cycle, with the names of its rows from the lowest, at most seven, as payload (log 82), and no row and nothing else of the package changes. Between those cycles nothing happens. -/
def Sys2Proof.Says.Stalemate : Prop :=
  ∀ (s : State) (a b : Nat), s.sel.unit < 32 →
    (s.cycle % 65536 ≠ 0 ∨ (s.cluOf s.sel.unit).staleAt = some s.cycle → exec .stalemateInterval s = .next s) ∧
    (s.cycle ≠ 0 → s.cycle % 65536 = 0 → (s.cluOf s.sel.unit).staleAt ≠ some s.cycle → s.pkg.fnmode.getLsbD 4 = true → ∃ (t : State) (new : List HfrRecord), exec .stalemateInterval s = .next t ∧ { t with clu := s.clu, pkg := s.pkg } = s ∧
      t.pkg.hfrHeld = s.pkg.hfrHeld ++ new ∧ { t.pkg with hfrHeld := s.pkg.hfrHeld, hfrNextId := s.pkg.hfrNextId } = s.pkg ∧ (∀ x ∈ new, x.ty = 3 ∧ x.payload.length ≤ 7) ∧
      (a < b → b < 12582912 → clusterOf (coreOfRid a) = s.sel.unit → WaitsOn s (s.cycle - 65536) a b → WaitsOn s (s.cycle - 65536) b a → (∀ o ∈ s.oct, o.2.hub = []) →
        ∃ x ∈ new, x.ten = s.rowTenant a ∧ x.payload = [nameOf a, nameOf b])) ∧
    (s.cycle ≠ 0 → s.cycle % 65536 = 0 → (s.cluOf s.sel.unit).staleAt ≠ some s.cycle → s.pkg.fnmode.getLsbD 4 = false → a ≠ b → a < 12582912 → b < 12582912 → clusterOf (coreOfRid a) = s.sel.unit →
      WaitsOn s (s.cycle - 65536) a b → WaitsOn s (s.cycle - 65536) b a → (∀ o ∈ s.oct, o.2.hub = []) → (∀ r, s.teamHandler r = none ∧ (s.thrOf r).nest = none ∧ (s.thrOf r).serves = none) →
      ∃ t, exec .stalemateInterval s = .next t ∧ t.mem = s.mem ∧ ∀ p ∈ [(a, b), (b, a)], t.ctlOf p.1 = { s.ctlOf p.1 with state := .faulted, wait := 0, wake := 0 } ∧
        (t.thrOf p.1).trapCause = some .stalemate ∧ (t.thrOf p.1).trapG3 = num (coreOfRid p.2 * 2048 + rowOfRid p.2))

/-! ### Translation and paging at work -/

namespace Sys2Proof.Says

/-- The lowest bit of the index that an address has at a level, the index, and the frame that an entry names (16_translation.md R276, R277). -/
def shiftOf (l : Nat) : Nat := if l = 0 then 16 else 12 + 9 * l
def indexOf (l va : Nat) : Nat := va / 2 ^ shiftOf l % (if l = 0 then 32 else 512)
def frameOf (e : Nat) : Nat := e / 2 ^ 16 % 2 ^ 36
def rootOf (r : W) : Nat := r.toNat / 8192 % 2 ^ 39 * 8192
/-- An entry of level `l` that names a table, and one that is a leaf of either stage; neither is malformed (R278). -/
abbrev TableEntry (l e : Nat) : Prop := e % 4 = 3 ∧ l ≠ 0 ∧ e / 4 % 2 ^ 11 = 0 ∧ e / 2 ^ 52 % 16 = 0
abbrev LeafEntry (second : Bool) (l e : Nat) : Prop :=
  e % 4 = 1 ∧ l ≤ 2 ∧ e / 2 ^ 52 % 16 = 0 ∧ e / 2 ^ 13 % 8 = 0 ∧ frameOf e * 65536 % 2 ^ shiftOf l = 0 ∧ e / 2 ^ 10 % 8 ≠ 7 ∧ ¬ (e.testBit 7 = true ∧ e.testBit 8 = true) ∧
    (second = true → e.testBit 6 = false ∧ e.testBit 9 = false)
/-- A walk of `va` from a table of level `l` reads the entry `e` of level `m` at `a`, in HBM, and the entries before it name tables (R276). `stands` says where a table address stands. -/
inductive WalkReads (s : State) (stands : Nat → Nat → Prop) (va : Nat) : Nat → Nat → Nat → Nat → Nat → Prop
  | here {l table e a} : stands (table + 8 * indexOf l va) a → a < 0x10000000000 → s.peek a 8 = e → WalkReads s stands va l table l e a
  | next {l table e a m f b} : stands (table + 8 * indexOf (l + 1) va) a → a < 0x10000000000 → s.peek a 8 = e → TableEntry (l + 1) e →
      WalkReads s stands va l (frameOf e * 65536 + e / 2 ^ 13 % 8 * 8192) m f b → WalkReads s stands va (l + 1) table m f b
/-- The stage-2 leaf of an IPA. -/
def SecondLeaf (s : State) (ten ipa m f : Nat) : Prop := ∃ b, WalkReads s Eq ipa 4 (rootOf (s.tenOf ten).root2) m f b ∧ LeafEntry true m f
/-- Where a stage-1 table address of a tenant stands: at the IPA itself without stage 2, else where its leaf, which must have `R`, puts it (R275, R279). -/
def IpaAt (s : State) (ten ipa pa : Nat) : Prop :=
  if (s.tenOf ten).root2.toNat % 2 = 0 then pa = ipa else ∃ m f, SecondLeaf s ten ipa m f ∧ f.testBit 2 = true ∧ pa = frameOf f * 65536 + ipa % 2 ^ shiftOf m
/-- Where the frame that a stage-1 leaf names stands. -/
def FrameAt (s : State) (ten f base : Nat) : Prop :=
  if (s.tenOf ten).root2.toNat % 2 = 0 then base = f * 65536 else ∃ m g, SecondLeaf s ten (f * 65536) m g ∧ base = frameOf g * 65536 + f * 65536 % 2 ^ shiftOf m
/-- The walk of a tenant's address reads the stage-1 entry `e` of level `m` at `a` last. -/
structure EntryAt (s : State) (ten va m e a : Nat) : Prop where
  on : (s.tenOf ten).root1.toNat % 2 = 1
  reads : WalkReads s (IpaAt s ten) va 4 (rootOf (s.tenOf ten).root1) m e a
/-- It is a leaf, and stage 2, where there is one, maps what it names. -/
structure MappedAt (s : State) (ten va m e a : Nat) : Prop where
  entry : EntryAt s ten va m e a
  leaf : LeafEntry false m e
  second : (s.tenOf ten).root2.toNat % 2 = 1 → ∃ n f, SecondLeaf s ten (frameOf e * 65536 + va % 2 ^ shiftOf m) n f
/-- The walk ends at an entry with `V` = 0, or at the root; a parked page is one of level 0 with `TT` 5 and a frame (R284). -/
def AbsentAt (s : State) (ten va : Nat) : Prop := (s.tenOf ten).root1.toNat % 2 = 0 ∨ ∃ m e a, EntryAt s ten va m e a ∧ e % 2 = 0 ∧ ¬ (m = 0 ∧ e / 2 ^ 10 % 8 = 5 ∧ frameOf e ≠ 0)
structure ParkedAt (s : State) (ten va e a : Nat) : Prop where
  entry : EntryAt s ten va 0 e a
  parked : e % 2 = 0 ∧ e / 2 ^ 10 % 8 = 5 ∧ frameOf e ≠ 0
/-- The translation that a leaf of level `m` gives without stage 2 (R276, R277). -/
def entryOf (ten va m leaf e : Nat) : TlbEntry :=
  { tag := ten, va := va / 2 ^ shiftOf m * 2 ^ shiftOf m, size := 2 ^ shiftOf m, pa := frameOf e * 65536, tt := e / 2 ^ 10 % 8, r := e.testBit 2, w := e.testBit 3, x := e.testBit 4, pin := e.testBit 5, cow := e.testBit 6, mig := e.testBit 9, ccap := e.testBit 7,
    leaf := leaf, ipa := frameOf e * 65536, isize := 0, itag := e.testBit 8, span := 2 ^ shiftOf m }
/-- The translation of both stages (R279): permissions of both, `COW` and `MIG` of the first, the rest of the second, of the smaller size; different types leave the address unassigned. -/
def bothOf (ten va m leaf e n f : Nat) : TlbEntry :=
  let one := entryOf ten va m leaf e
  let ipa := frameOf e * 65536 + va % 2 ^ shiftOf m
  let size := 2 ^ min (shiftOf m) (shiftOf n)
  { one with va := va / size * size, size := size, pa := (frameOf f * 65536 + ipa % 2 ^ shiftOf n) / size * size, tt := if f / 2 ^ 10 % 8 = e / 2 ^ 10 % 8 then f / 2 ^ 10 % 8 else 7,
             r := one.r && f.testBit 2, w := one.w && f.testBit 3, x := one.x && f.testBit 4, pin := one.pin && f.testBit 5, ccap := f.testBit 7, itag := f.testBit 8, ipa := ipa / 2 ^ shiftOf n * 2 ^ shiftOf n, isize := 2 ^ shiftOf n }
/-- A list of translations with one added; the oldest of more than `cap` goes (a choice of the model: entry 12). -/
def filled (cap : Nat) (l : List TlbEntry) (e : TlbEntry) : List TlbEntry := if l.length + 1 ≤ cap then l ++ [e] else (l ++ [e]).tail
/-- The same for the 1,024 sets of 8 of the cluster's TLB, by the number of the entry's first 64 KiB page (entry 12). -/
def filled8 (l : List TlbEntry) (e : TlbEntry) : List TlbEntry :=
  let peers := l.filter fun x => x.va / 65536 % 1024 == e.va / 65536 % 1024
  (if peers.length < 8 then l else match peers with | o :: _ => l.erase o | [] => l) ++ [e]
/-- The translations that a value of `TLBCMD` names, by its kind: of the page of a tenant that holds an address, whole whatever part an entry translates, of a tenant, of an IPA, all. -/
def named (v : W) (e : TlbEntry) : Bool :=
  let page := v.toNat / 2 ^ 16 % 2 ^ 41 * 65536
  let ten := v.toNat / 256 % 64
  match v.toNat % 4 with
  | 0 => e.tag == ten && e.va / e.span == page / e.span
  | 1 => e.tag == ten
  | 2 => decide (e.ipa ≤ page) && decide (page < e.ipa + e.isize)
  | _ => true
/-- No TLB of `t` holds a translation that `v` names, and all others are those of `s`. -/
def Removed (s t : State) (v : W) : Prop :=
  (∀ c, (t.coreOf c).itlb = (s.coreOf c).itlb.filter (fun e => !named v e) ∧ (t.coreOf c).dtlb = (s.coreOf c).dtlb.filter (fun e => !named v e)) ∧ ∀ k, (t.cluOf k).tlb = (s.cluOf k).tlb.filter (fun e => !named v e)
/-- The entry of a tenant's bar that a step names: the device serves its cause itself, it has not been served, and no entry on its page stands before it unserved. -/
structure AtBar (s : State) (b : BarEntry) (c : Cause) : Prop where
  here : (s.tenOf s.sel.unit).bar[s.sel.sub]? = some b
  cause : b.cause = c
  waits : b.record = none ∧ b.served = false ∧ b.refused = false ∧ b.host = false ∧ b.far = false
  first : ∀ j o, j < s.sel.sub → (s.tenOf s.sel.unit).bar[j]? = some o → o.va / 65536 = b.va / 65536 → o.far = true ∨ o.served = true ∨ o.refused = true
/-- In `t` the entry has been served, in an order of service; it may wait for lock entries. -/
def Served (s t : State) (b : BarEntry) : Prop := ∃ n, (t.tenOf s.sel.unit).bar[s.sel.sub]? = some { b with record := none, served := true, order := s.seq, need := n }
/-- In `t` a completion with a cause's code as status fills the mailbox slot of a tag that a row of the core holds (13_engines.md R251; 09_memory_sync.md R183). -/
def Told (s t : State) (core ten tag cause : Nat) : Prop :=
  ∀ slot o, (s.csOf core ten).mbox.find? (fun e => e.1 == tag) = some (tag, slot) → slot.owner = some o → ∃ v, (tget ({ owner := none } : MSlot) (t.csOf core ten).mbox tag).msg = some v ∧ v.toNat / 2 ^ 48 % 256 = cause % 256
/-- An active `PAGEMOVE` stands at the page of a migration. -/
def MovesPage (c : ECmd) (m : Migration) : Prop := c.op = .xcopy ∧ kindOf c.spec = 3 ∧ c.oor = 1 ∧ c.tenant = m.tenant ∧ dword c.spec 1 + 65536 * c.pos = m.va
/-- In `t` the entry has been passed to the host, with a record of type 2. -/
def PassedToHost (s t : State) (b : BarEntry) : Prop :=
  (t.tenOf s.sel.unit).bar[s.sel.sub]? = some { b with host := true, record := some s.pkg.hfrNextId } ∧ t.mem = s.mem ∧ ∃ r, t.pkg.hfrHeld = s.pkg.hfrHeld ++ [r] ∧ r.ty = 2 ∧ r.ten = s.sel.unit ∧ r.rid = s.pkg.hfrNextId

end Sys2Proof.Says

/-- 16_translation.md R275 to R280: a walk of the levels of stage 1, each table entry reached through stage 2 where it is enabled, and of stage 2 for the address that the leaf gives. TLB_WALK of a core whose TLBs hold no translation of the address puts the combined one into the cluster's TLB and the core's; one that the cluster's TLB holds comes from there, and an address that the core's holds leaves all as it is.
No entry is made from a walk that fails: at an entry or a root with `V` = 0 (for `S1ROOT` the model's choice: log 100), a malformed one, or one of stage 2. Which entry of a full TLB goes is the model's choice (log 12). -/
def Sys2Proof.Says.TranslationWalks : Prop :=
  ∀ s : State, s.sel.unit < 6144 → s.sel.sub < 2 ^ 57 →
    let c := s.sel.unit
    let k := clusterOf c
    let va := s.sel.sub
    let ten := s.tenantOf c
    let holds : TlbEntry → Prop := fun e => e.tag = ten ∧ e.va ≤ va ∧ va < e.va + e.size
    let own := if s.sel.idx = 2 then (s.coreOf c).itlb else (s.coreOf c).dtlb
    let took := fun (t : State) (e : TlbEntry) => (∀ j, j ≠ c → t.coreOf j = s.coreOf j) ∧
      t.coreOf c = if s.sel.idx = 2 then { s.coreOf c with itlb := filled 32 own e } else { s.coreOf c with dtlb := filled 64 own e }
    ((∃ e ∈ own, holds e) → exec .tlbWalk s = .next s) ∧
    ((∀ e ∈ own, ¬ holds e) →
      (∀ a x b, (s.cluOf k).tlb = a ++ x :: b → holds x → (∀ e ∈ a, ¬ holds e) → ∃ t, exec .tlbWalk s = .next t ∧ { t with core := s.core } = s ∧ took t x) ∧
      ((∀ e ∈ (s.cluOf k).tlb, ¬ holds e) →
        let made := fun (x : TlbEntry) => ∃ t, exec .tlbWalk s = .next t ∧ { t with core := s.core, clu := s.clu } = s ∧ took t x ∧ (∀ j, j ≠ k → t.cluOf j = s.cluOf j) ∧ t.cluOf k = { s.cluOf k with tlb := filled8 (s.cluOf k).tlb x }
        ((s.tenOf ten).root1.toNat % 2 = 0 → exec .tlbWalk s = .next s) ∧
        ∀ m e a, EntryAt s ten va m e a →
          (LeafEntry false m e → (s.tenOf ten).root2.toNat % 2 = 0 → made (entryOf ten va m a e)) ∧
          (LeafEntry false m e → ∀ n f b, (s.tenOf ten).root2.toNat % 2 = 1 → WalkReads s Eq (frameOf e * 65536 + va % 2 ^ shiftOf m) 4 (rootOf (s.tenOf ten).root2) n f b →
            (LeafEntry true n f → made (bothOf ten va m a e n f)) ∧ (¬ LeafEntry true n f → ¬ TableEntry n f → exec .tlbWalk s = .next s)) ∧
          (¬ LeafEntry false m e → ¬ TableEntry m e → exec .tlbWalk s = .next s)))

/-- R289, R281: a store to `TLBCMD` while `BUSY` is 0 removes from every TLB of the package the translations that it names; `BUSY` reads 1. While `BUSY` is 1 a store is ignored. TLBCMD_DONE removes what walks have brought back meanwhile; when no access that a removed translation served is left it clears `BUSY`, and after the kinds 1 and 3 the roots that walks use are those that `S1ROOT` and `S2ROOT` hold. -/
def Sys2Proof.Says.TranslationCommands : Prop :=
  ∀ s : State,
    let v := s.sel.data
    (∀ f ∈ [((.tlbcmdPage : Instr), 0), (.tlbcmdTenant, 1), (.tlbcmdIpa, 2), (.tlbcmdAll, 3)],
      (v.toNat % 4 ≠ f.2 ∨ s.pkg.tlbcmd.getLsbD 63 = true → exec f.1 s = .next s) ∧
      (v.toNat % 4 = f.2 → s.pkg.tlbcmd.getLsbD 63 = false → ∃ t, exec f.1 s = .next t ∧ { t with core := s.core, clu := s.clu, pkg := s.pkg } = s ∧
        t.pkg.tlbcmd = num (2 ^ 63 + v.toNat / 2 ^ 16 % 2 ^ 41 * 65536 + v.toNat / 256 % 64 * 256 + v.toNat % 4) ∧ Removed s t v)) ∧
    (let done := s.pkg.tlbcmd
     let root : Tenant → Tenant := fun x => { x with root1 := x.s1root, root2 := x.s2root }
     (done.getLsbD 63 = false → exec .tlbcmdDone s = .next s) ∧
     (done.getLsbD 63 = true → (∃ a ∈ s.inFlight, ∃ r ∈ s.pkg.tlbWait, r.1 ≤ a ∧ a < r.1 + r.2) → exec .tlbcmdDone s = .next s) ∧
     (done.getLsbD 63 = true → (∀ a ∈ s.inFlight, (∀ r ∈ s.pkg.tlbWait, ¬ (r.1 ≤ a ∧ a < r.1 + r.2)) ∧ ∀ e ∈ s.tlbAll, named done e = true → ¬ (e.pa ≤ a ∧ a < e.pa + e.size)) →
       ∃ t, exec .tlbcmdDone s = .next t ∧ { t with core := s.core, clu := s.clu, pkg := s.pkg, ten := s.ten } = s ∧ t.pkg = { s.pkg with tlbcmd := num (done.toNat % 2 ^ 63), tlbWait := [] } ∧ Removed s t done ∧
         ∀ n, t.tenOf n = if done.toNat % 4 = 3 ∨ done.toNat % 4 = 1 ∧ done.toNat / 256 % 64 = n then root (s.tenOf n) else s.tenOf n))

/-- R284 to R287; 13_engines.md R250, R251: what becomes of an item at the bar. FAULT_IN begins to move a parked page to the frame on top of the tenant's free-frame stack: its leaf names the new frame with `V` and `MIG` 1, a migration record holds it, and the item is served. The leaf keeps `R`, `W`, `X`, `PIN` and `COW` of the parked entry. A page that has a valid entry is served at once; a case that is not the device's goes to the host, and so does a fault at a root with `V` = 0 (log 100). Faults of one tenant on one page are served one at a time, in order. COW_SERVICE of a page whose frame has a count of 1 clears `COW` in its leaf; of a
shared one it copies the frame; a frame without a count is the host's (log 66). BAR_REENTRY returns a served item to its unit once it holds its locks, and aborts a refused one with its cause: a command's or a posted operation's completion has it as status, a stream and a query fail at the address, a matrix queue aborts. For a fault that another package serves it is told how that service ended. -/
def Sys2Proof.Says.BarService : Prop :=
  ∀ (s : State) (b : BarEntry) (m e a : Nat),
    let ten := s.sel.unit
    let x := s.tenOf ten
    let top := x.ffstop.toNat % 2 ^ 24
    let f := s.peek (x.ffsbase.toNat / 8 % 2 ^ 49 * 8 + 8 * (top - 1)) 8 % 2 ^ 36
    (AtBar s b .page → MappedAt s ten b.va m e a → ∃ t, exec .faultIn s = .next t ∧ Served s t b ∧ t.mem = s.mem) ∧
    (AtBar s b .page → AbsentAt s ten b.va ∨ (ParkedAt s ten b.va e a ∧ (s.pkg.fnmode.getLsbD 0 = true ∨ (top = 0 ∧ s.pkg.migs.length < 256))) → ∃ t, exec .faultIn s = .next t ∧ PassedToHost s t b) ∧
    (∀ old new, AtBar s b .page → ParkedAt s ten b.va e a → s.pkg.fnmode.getLsbD 0 = false → top ≠ 0 → s.pkg.migs.length < 256 → FrameAt s ten (frameOf e) old → FrameAt s ten f new → new < 0x8000000000 →
      (∀ q ∈ s.inFlight, q < old ∨ old + 65536 ≤ q) → ∃ t, exec .faultIn s = .next t ∧ Served s t b ∧ (t.tenOf ten).ffstop = num (top - 1) ∧
        t.pkg.migs = s.pkg.migs ++ [{ tenant := ten, va := b.va / 65536 * 65536, leaf := a, old := old, new := new, oldFrame := frameOf e }] ∧
        (∀ j, j < 64 → (t.peek a 8).testBit j = if j = 0 ∨ j = 9 then true else if 16 ≤ j ∧ j < 52 then f.testBit (j - 16) else decide (2 ≤ j ∧ j ≤ 6 ∨ 56 ≤ j) && e.testBit j) ∧
        ∀ q, q < cellOf a ∨ cellOf a + 8 ≤ q → mget t.mem q = mget s.mem q) ∧
    (let o := frameOf e
     let count := x.ftbase.toNat / 4 % 2 ^ 50 * 4 + 4 * o
     AtBar s b .cow → MappedAt s ten b.va m e a →
      (e.testBit 6 = false → ∃ t, exec .cowService s = .next t ∧ Served s t b ∧ t.mem = s.mem) ∧
      (e.testBit 6 = true → s.pkg.fnmode.getLsbD 1 = true → ∃ t, exec .cowService s = .next t ∧ PassedToHost s t b) ∧
      (e.testBit 6 = true → s.pkg.fnmode.getLsbD 1 = false → (∀ g ∈ s.pkg.migs, g.tenant ≠ ten ∨ g.va / 65536 ≠ b.va / 65536) →
        (m ≠ 0 ∨ x.ftlen.toNat % 2 ^ 36 ≤ o ∨ (s.peek count 4 ≠ 1 ∧ top = 0) → ∃ t, exec .cowService s = .next t ∧ PassedToHost s t b) ∧
        (m = 0 → o < x.ftlen.toNat % 2 ^ 36 →
        (s.peek count 4 = 1 → ∃ t, exec .cowService s = .next t ∧ Served s t b ∧ t.peek a 8 = e - 64 ∧ ∀ q, q < cellOf a ∨ cellOf a + 8 ≤ q → mget t.mem q = mget s.mem q) ∧
        (∀ old new, 1 < s.peek count 4 → top ≠ 0 → FrameAt s ten o old → FrameAt s ten f new → count + 4 ≤ 0x8000000000 → new + 65536 ≤ 0x8000000000 → old + 65536 ≤ 0x8000000000 → a + 8 ≤ 0x8000000000 → x.ftbase.toNat / 4 % 2 ^ 50 * 4 + 4 * f + 4 ≤ 0x8000000000 → f ≠ o →
          (∀ r ∈ [(count, 4), (x.ftbase.toNat / 4 % 2 ^ 50 * 4 + 4 * f, 4), (a, 8), (old, 65536)], r.1 + r.2 ≤ new ∨ new + 65536 ≤ r.1) → (∀ r ∈ [count, x.ftbase.toNat / 4 % 2 ^ 50 * 4 + 4 * f], a + 8 ≤ r ∨ r + 4 ≤ a) →
          ∃ t, exec .cowService s = .next t ∧ Served s t b ∧ (t.tenOf ten).ffstop = num (top - 1) ∧ t.peek count 4 = s.peek count 4 - 1 ∧ t.peek (x.ftbase.toNat / 4 % 2 ^ 50 * 4 + 4 * f) 4 = 1 ∧
            (t.peek a 8).testBit 6 = false ∧ frameOf (t.peek a 8) = f ∧ ∀ j, j < 65536 → mget t.mem (new + j) = mget s.mem (old + j))))) ∧
    (x.bar[s.sel.sub]? = some b →
      (b.served = false → b.refused = false → b.far = false → exec .barReentry s = .next s) ∧
      (b.served = false → b.refused = false → b.far = true → ∃ t n, exec .barReentry s = .next t ∧ t.mem = s.mem ∧ (t.tenOf ten).bar[s.sel.sub]? = some { b with record := none, served := !s.sel.flag, refused := s.sel.flag, order := s.seq, need := n }) ∧
      (b.served = true → b.refused = false → (∃ u, s.barUser ten b = some u ∧ s.lateFor u.cluster u.id = true) → exec .barReentry s = .next s) ∧
      (b.served = true → b.refused = false → (∀ u, s.barUser ten b = some u → s.lateFor u.cluster u.id = false) → (∀ u, s.barUser ten b = some u → s.userMissing ten u = [] ∨ s.barGrant u.cluster b.order (s.userMissing ten u).length = true) →
        ∃ t, exec .barReentry s = .next t ∧ t.mem = s.mem ∧ (t.tenOf ten).bar = x.bar.eraseIdx s.sel.sub ∧ (∀ n, n ≠ ten → t.tenOf n = s.tenOf n) ∧
        (∀ oct c, b.what = .engine oct c → (t.octOf oct).queue = (s.octOf oct).queue.takeWhile (·.started) ++ [c] ++ (s.octOf oct).queue.dropWhile (·.started)) ∧
        (∀ id, b.what = .posted id → t.pip = s.pip.map fun p => if p.id = id then { p with bar := false } else p) ∧ (∀ c, b.what = .matrix c → (t.csOf c ten).mqBar = false)) ∧
      (b.served = true → b.refused = false → (∀ u, s.barUser ten b = some u → s.lateFor u.cluster u.id = false ∧ s.userMissing ten u ≠ [] ∧ s.barGrant u.cluster b.order (s.userMissing ten u).length = false) → s.barUser ten b ≠ none →
        ∃ t n, exec .barReentry s = .next t ∧ t.mem = s.mem ∧ (t.tenOf ten).bar[s.sel.sub]? = some { b with need := n } ∧ n ≠ 0) ∧
      (b.refused = true → ∃ t, exec .barReentry s = .next t ∧ (∀ c, b.what = .matrix c → (s.csOf c ten).mq ≠ [] → (t.csOf c ten).mq = [] ∧ (t.csOf c ten).mqCause = BitVec.ofNat 8 b.cause.code) ∧
        (∀ oct c, b.what = .engine oct c → (t.octOf oct).queue = (s.octOf oct).queue ∧ (s.discards (coreOfRid c.rid) c.id = false → Told s t (coreOfRid c.rid) c.tenant c.tag b.cause.code)) ∧
        (∀ c r g, b.what = .stream c r g → ∀ y ∈ (s.coreOf (coreOfRid r)).streams, y.rid = r → y.reg = g → { y with bar := false, failed := some b.va, failedAt := b.va } ∈ (t.coreOf (coreOfRid r)).streams) ∧
        (∀ c n q, b.what = .query c n → (s.coreOf c).qbufs.find? (fun q => q.order == n) = some q → q.abandoned = false → { q with bar := false, failed := some b.va } ∈ (t.coreOf c).qbufs) ∧
        (∀ id p, b.what = .posted id → s.pip.find? (fun p => p.id == id) = some p → t.pip = s.pip.filter (fun y => y.id != p.id) ∧ (s.discards (coreOfRid p.rid) p.id = false → Told s t (coreOfRid p.rid) p.tenant p.tag b.cause.code)) ∧
        (∀ bank id c, b.what = .nearbank bank id → (tget [] s.banks bank).find? (fun c => c.id == id) = some c → (tget [] t.banks bank : List NbCmd) = (tget [] s.banks bank).filter (fun y => y.id != c.id) ∧
          (s.discards (coreOfRid c.rid) c.id = false → Told s t (coreOfRid c.rid) c.tenant c.tag b.cause.code))))

/-- R285: MIGRATION_LINE_COPY copies the lowest line of a migration that has not come, 256 bytes from the old frame to the new one, and marks it; LINE_PULL does so for the line that an access waits for. With its last line the migration ends: the leaf's `MIG` is cleared and the record freed; the old frame returns to the stack, or is given back to the host when it does not lie in HBM, with a record of type 4 (whose payload is log 30). A `PAGEMOVE` that stands at the page has the line's 4 beats behind it (13_engines.md R242), of which it has spent `skip` on the line that comes next. -/
def Sys2Proof.Says.MigrationLines : Prop :=
  ∀ (s : State) (m : Migration) (l : Nat), s.pkg.migs[s.sel.unit]? = some m → l < 256 → m.valid.getLsbD l = false →
    let lines := m.valid ||| (1#256 <<< l)
    ∀ i : Instr, (i = .migrationLineCopy ∧ ∀ j, j < l → m.valid.getLsbD j = true) ∨ (i = .linePull ∧ s.sel.sub = l) →
      (lines ≠ BitVec.allOnes 256 → ∃ t, exec i s = .next t ∧ { t with mem := s.mem, pkg := s.pkg, oct := s.oct } = s ∧ t.pkg = { s.pkg with migs := s.pkg.migs.set s.sel.unit { m with valid := lines } } ∧
        (∀ (o j : Nat) (c : ECmd), (s.octOf o).active[j]? = some c → { t.octOf o with active := (s.octOf o).active } = s.octOf o ∧ (¬ MovesPage c m → (t.octOf o).active[j]? = some c) ∧
          (MovesPage c m → (t.octOf o).active[j]? = some (if ∀ i, i < l → m.valid.getLsbD i = true then { c with beats := c.beats - (4 - c.skip), skip := 0 } else { c with beats := c.beats - 4 }))) ∧
        (∀ j, j < 256 → mget t.mem (cellOf (m.new + 256 * l) + j) = mget s.mem (cellOf (m.old + 256 * l) + j)) ∧ ∀ q, q < cellOf (m.new + 256 * l) ∨ cellOf (m.new + 256 * l) + 256 ≤ q → mget t.mem q = mget s.mem q) ∧
      (lines = BitVec.allOnes 256 → ∃ t, exec i s = .next t ∧ t.pkg.migs = s.pkg.migs.eraseIdx s.sel.unit ∧
        (m.old < 0x10000000000 → (t.tenOf m.tenant).ffstop = num (((s.tenOf m.tenant).ffstop.toNat + 1) % 2 ^ 24) ∧
          let at_ := (s.tenOf m.tenant).ffsbase.toNat / 8 % 2 ^ 49 * 8 + 8 * ((s.tenOf m.tenant).ffstop.toNat % 2 ^ 24)
          t.peek at_ 8 = m.oldFrame % 2 ^ 64 ∧ (cellOf at_ + 8 ≤ cellOf m.leaf ∨ cellOf m.leaf + 8 ≤ cellOf at_ → (t.peek m.leaf 8).testBit 9 = false)) ∧
        (0x10000000000 ≤ m.old → (t.peek m.leaf 8).testBit 9 = false ∧ t.pkg.hfrHeld = s.pkg.hfrHeld ++ [{ ty := 4, ten := m.tenant, rid := s.pkg.hfrNextId, payload := [num m.va, num m.oldFrame] }]))

/-! ### Copy engines, streams and transfer barriers -/

namespace Sys2Proof.Says

/-- The TLB of the cluster `k` translates `va` for the tenant to the address `pa` of interleaved HBM, `n` bytes of which lie below the end of that region, and the translation grants the access (13_engines.md R239; 16_translation.md R282). -/
def Maps (s : State) (k ten va pa n : Nat) (write : Bool) : Prop :=
  va < 2 ^ 57 ∧ pa + n ≤ 0x8000000000 ∧ s.assigned (some (k / 4)) pa = true ∧
  ∃ e, (s.cluOf k).tlb.find? (fun e => e.tag == ten && decide (e.va ≤ va) && decide (va < e.va + e.size)) = some e ∧ pa = e.pa + (va - e.va) ∧ e.tt = 0 ∧ e.mig = false ∧ (if write then e.w = true ∧ e.cow = false else e.r = true)
/-- Dword `i` of a 64-byte specification, and bits `hi` to `lo` of it. -/
def dw (b : BitVec 512) (i : Nat) : Nat := b.toNat / 2 ^ (64 * i) % 2 ^ 64
def dwBits (b : BitVec 512) (i hi lo : Nat) : Nat := dw b i / 2 ^ lo % 2 ^ (hi - lo + 1)
/-- Instructions that issue an engine command from a segment (R240; 18_sketches.md R306). -/
def engineWords (d : BitVec 5) (g : BitVec 4) : List (Instr × EngOp) := [(.xcopy d g, .xcopy), (.xgather d g, .xgather), (.xscatter d g, .xscatter), (.xreduce d g, .xreduce), (.skadd d g, .skadd)]
/-- The octet's engine has one active command, `c`, none of whose writes a BUSY octet holds and which waits for no range-lock entry, and no stream of its cores is bound. -/
structure OnlyActive (s : State) (oct : Nat) (c : ECmd) : Prop where
  active : (s.octOf oct).active = [c]
  going : c.done = false
  streams : ∀ i, i < 8 → (s.coreOf (oct * 8 + i)).streams = []
  clean : s.uncorr = []
  held : s.writeHeld c.id = false
  locked : s.lateFor (oct / 24) c.id = false
/-- A beat moved: the engine's active command is `c'`, and nothing else but memory changed. -/
structure BeatMoved (s t : State) (oct : Nat) (c' : ECmd) : Prop where
  rest : { t with oct := s.oct, mem := s.mem } = s
  active : (t.octOf oct).active = [c']
  others : ∀ o, o ≠ oct → t.octOf o = s.octOf o

/-- The program counter of the row may move, and rows that wait for range-lock entries may be woken; no other control entry changes. -/
structure PcAndWaiters (s t : State) (rid : Nat) : Prop where
  others : ∀ r, r ≠ rid → (s.thrOf r).lockClaim = 0 → t.ctlOf r = s.ctlOf r
  own : t.ctlOf rid = { s.ctlOf rid with pc := (t.ctlOf rid).pc }

end Sys2Proof.Says

/-- 13_engines.md R240 to R243, 18_sketches.md R306; 09_memory_sync.md R183; 07_memory_model.md R149: engine commands are issued. A specification that R243 to R247 do not allow traps `ILLEGAL` (an unused `ESZ` or `SW` that is not 0 is the model's choice: log 96). Otherwise, alone, with every vector operation landed and its earlier stores visible at the widest scope of its sources, the word takes the lowest free mailbox slot
and its range-lock entries, puts the command at the end of its octet's queue, and writes a promise: the slot, and the cycle, the latency, the beats ahead and its own beats after now. The promise of a sum of sketches is bound when the read of its destination header returns. It waits for a slot, and for entries. A `COPY` has one beat for each 64 bytes of a line,
a gather or a scatter one for each position. -/
def Sys2Proof.Says.EngineIssue : Prop :=
  ∀ (s : State) (d : BitVec 5) (g : BitVec 4) (x : Nat), InThread s → s.seg g.toNat = .ok x → ∀ f ∈ engineWords d g,
    let b := BitVec.ofNat 512 x
    let k := s.myCluster
    let ten := s.rowTenant s.me
    let oct := octetOf s.myCore
    let ranges := s.engineRanges k ten f.2 b
    let far := s.farSketch k ten f.2 b
    let seen := if far = false ∧ s.localSources k ten ranges = true then s.storesSeen s.me = true ∧ s.postedDone s.me = true else s.storesHome s.me = true
    let locksOf := s.commandLocks k ten (fun _ => true) ranges []
    (specOk f.2 b = false → Traps f.1 s .illegal 0) ∧
    (specOk f.2 b = true → MayBeAlone s → s.vecBusy s.me = true ∨ ¬ seen → exec f.1 s = .next (s.applyStop (.stall false))) ∧
    (specOk f.2 b = true → MayBeAlone s → s.vecBusy s.me = false → seen →
      (s.slotFor s.me = none → exec f.1 s = .next (s.applyStop (.block 3 0 1 none))) ∧
      (∀ tag, s.slotFor s.me = some tag →
        (∀ a, locksOf = .error a → Traps f.1 s .access (num a)) ∧
        (∀ locks, locksOf = .ok locks → locks ≠ [] → s.locksGrant s.me locks.length = false → exec f.1 s = .next (s.applyStop (.block 11 0 locks.length none))) ∧
        (∀ locks header, locksOf = .ok locks → (locks = [] ∨ s.locksGrant s.me locks.length = true) → s.ownHeader s.me f.2 b = .ok header → s.dstOpen d.toNat = true →
          let own := s.ownBeats f.2 b header
          let sum := s.cycle + s.engineLat k ten ranges far + s.beatsAhead oct
          ∃ t, exec f.1 s = .next t ∧ t.cur.ended = .completed ∧ t.cur.ending = true ∧ Moves s t s.me ∧ PcAndWaiters s t s.me ∧ OnlyResult s t s.me d ∧
            (header = none → Produced s t s.me d (num (tag * 2 ^ 56 + (sum + own) % 2 ^ 56))) ∧
            (∀ pa, header = some pa → ∃ l ∈ (t.thrOf s.me).loads, l.pa = pa ∧ l.size = 64 ∧ l.reg = (if d = 0 then none else some d.toNat) ∧ l.win = some 1 ∧ l.promise = some (f.2 == .skadd, tag, sum)) ∧
            (t.octOf oct).queue = (s.octOf oct).queue ++ [{ id := s.seq, op := f.2, rid := s.me, tenant := ten, tag := tag, spec := b, beats := own }] ∧ (∀ o, o ≠ oct → t.octOf o = s.octOf o) ∧
            tget { owner := none } (t.cs s.myCore).mbox tag = { owner := some s.me } ∧ (t.cluOf k).locks = (s.cluOf k).locks ++ locks.map fun l => { l with id := s.seq, matrix := false }))) ∧
    (sumsSketch f.2 b = false → s.ownHeader s.me f.2 b = .ok none) ∧ (∀ h, f.2 = .xcopy → dwBits b 0 7 0 = 0 → s.ownBeats f.2 b h = dwBits b 3 63 32 * ((dwBits b 3 31 0 + 63) / 64)) ∧ (∀ h, f.2 = .xgather ∨ f.2 = .xscatter → s.ownBeats f.2 b h = dwBits b 4 31 0)

/-- R238, R249, R252; 24_tenancy_boot.md R361; 25_platform_cases.md R368: COMMAND_START makes the head of an octet's queue active while fewer than four commands are; one that waits for range-lock entries since the service of a page is passed (log 101). COMMAND_COMPLETE of a command whose last beat has moved, with no write that a BUSY octet holds, takes it off, frees its locks, makes its transfer-barrier arrival, and fills its mailbox slot with its tag, status and information;
neither arrival nor message is made for a core that has changed its owner since the issue. Before that it does nothing. -/
def Sys2Proof.Says.EngineQueue : Prop :=
  ∀ s : State,
    let o := s.octOf s.sel.unit
    let late := fun c : ECmd => s.lateFor (s.sel.unit / 24) c.id = true
    ((∀ c ∈ o.queue, late c) → exec .commandStart s = .next s) ∧
    (∀ before c rest, o.queue = before ++ c :: rest → (∀ x ∈ before, late x) → ¬ late c → (∀ x ∈ before ++ rest, x.id ≠ c.id) →
      (o.active.length < 4 → ∃ t, exec .commandStart s = .next t ∧ { t with oct := s.oct } = s ∧ t.octOf s.sel.unit = { o with queue := before ++ rest, active := o.active ++ [{ c with started := true }] } ∧ ∀ j, j ≠ s.sel.unit → t.octOf j = s.octOf j) ∧
      (4 ≤ o.active.length → exec .commandStart s = .next s)) ∧
    (∀ c, o.active[s.sel.sub]? = some c →
      let core := coreOfRid c.rid
      let taken := fun t : State => t.mem = s.mem ∧ (t.octOf s.sel.unit).active = o.active.eraseIdx s.sel.sub ∧ ((s.cluOf (s.sel.unit / 24)).late = [] → (t.cluOf (s.sel.unit / 24)).locks = (s.cluOf (s.sel.unit / 24)).locks.filter (fun l => l.id != c.id))
      (c.done = false ∨ s.writeHeld c.id = true → exec .commandComplete s = .next s) ∧
      (c.done = true → s.writeHeld c.id = false → c.id < (s.coreOf core).wiped → ∃ t, exec .commandComplete s = .next t ∧ taken t ∧ ∀ n, t.coreOf n = s.coreOf n) ∧
      (∀ own, c.done = true → s.writeHeld c.id = false → (s.coreOf core).wiped ≤ c.id → (s.coreOf core).loaded = c.tenant → (s.cs core).mbox.find? (fun e => e.1 == c.tag) = some (c.tag, { owner := some own }) →
        ∃ t, exec .commandComplete s = .next t ∧ taken t ∧
          tget { owner := none } (t.cs core).mbox c.tag = { owner := some own, msg := some (num (c.tag * 2 ^ 56 + c.status.toNat * 2 ^ 48 + c.info.toNat)), order := s.seq } ∧
          (∀ i : Nat, (tget 0 (t.cs core).tbs i : BitVec 16) = tget 0 (s.cs core).tbs i + if dwBits c.spec 0 43 43 = 1 ∧ dwBits c.spec 0 47 44 = i then 1 else 0)))

/-- R239, R244, R246: one beat of a `COPY`, of a gather and of a scatter, stated for pages in HBM. A `COPY` beat moves up to 64 bytes of a line; the 16-byte unit `u` of line `l` goes to the place `u` XOR (`l` mod 2^`SW`) of the destination line. A gather position moves the element that its index names to the dense array, a scatter the other way; an index of all ones is skipped and counted, and one at `LIMIT` or above is counted, and
reads as zero in a gather. Each step moves one beat, whether it is named ENGINE_BEAT or, of a `COPY`, COPY. -/
def Sys2Proof.Says.EngineTransfers : Prop :=
  ∀ (s : State) (oct : Nat) (c : ECmd), OnlyActive s oct c →
    let k := oct / 24
    let b := c.spec
    (c.op = .xcopy → dwBits b 0 7 0 = 0 → dwBits b 3 31 0 ≠ 0 → dwBits b 3 31 0 % 16 = 0 → dw b 1 % 16 = 0 → dw b 2 % 16 = 0 → dwBits b 4 31 0 % 16 = 0 → dwBits b 4 63 32 % 16 = 0 →
      let len := dwBits b 3 31 0
      let per := (len + 63) / 64
      let l := c.pos / per
      let u := c.pos % per * 4
      let n := Min.min 4 (len / 16 - u)
      let from' := fun i : Nat => dw b 1 + l * dwBits b 4 31 0 + 16 * (u + i)
      let to' := fun i : Nat => dw b 2 + l * dwBits b 4 63 32 + 16 * ((u + i) ^^^ (l % 2 ^ dwBits b 0 10 8))
      let c' : ECmd := { c with pos := c.pos + 1, beats := c.beats - 1, done := decide (c.pos + 1 = dwBits b 3 63 32 * per) }
      ∀ src dst : Nat → Nat, (∀ i, i < n → Maps s k c.tenant (from' i) (src i) 16 false ∧ Maps s k c.tenant (to' i) (dst i) 16 true) → (∀ i j, i < n → j < n → i ≠ j → dst i + 16 ≤ dst j ∨ dst j + 16 ≤ dst i) →
        let moved := fun t : State => (∀ i j, i < n → j < 16 → mget t.mem (dst i + j) = mget s.mem (src i + j)) ∧ ∀ a, (∀ i, i < n → a < dst i ∨ dst i + 16 ≤ a) → mget t.mem a = mget s.mem a
        s.sel.unit = oct → ∀ i ∈ [Instr.engineBeat, .copy], ∃ t, exec i s = .next t ∧ BeatMoved s t oct c' ∧ moved t) ∧
    (c.op = .xgather ∨ c.op = .xscatter → dwBits b 0 26 24 ≤ 4 → dw b 3 % 4 = 0 → dw b 1 % 2 ^ dwBits b 0 26 24 = 0 → dw b 2 % 2 ^ dwBits b 0 26 24 = 0 → dw b 5 % 2 ^ dwBits b 0 26 24 = 0 → s.sel.unit = oct →
      ∀ ix, Maps s k c.tenant (dw b 3 + 4 * c.pos) ix 4 false →
      let e := 2 ^ dwBits b 0 26 24
      let x := mread s.mem ix 4
      let dense := dw b 2 + c.pos * e
      let table := dw b 1 + x * dw b 5
      let after := fun skip oor : Nat => { c with pos := c.pos + 1, beats := c.beats - 1, skip := skip, oor := oor, info := BitVec.ofNat 48 (skip * 2 ^ 24 + oor), done := decide (c.pos + 1 = dwBits b 4 31 0) }
      (x = 0xFFFFFFFF → ∃ t, exec .engineBeat s = .next t ∧ BeatMoved s t oct (after (c.skip + 1) c.oor) ∧ t.mem = s.mem) ∧
      (x ≠ 0xFFFFFFFF → dwBits b 4 63 32 ≤ x → c.op = .xscatter → ∃ t, exec .engineBeat s = .next t ∧ BeatMoved s t oct (after c.skip (c.oor + 1)) ∧ t.mem = s.mem) ∧
      (∀ p, x ≠ 0xFFFFFFFF → dwBits b 4 63 32 ≤ x → c.op = .xgather → Maps s k c.tenant dense p e true → ∃ t, exec .engineBeat s = .next t ∧ BeatMoved s t oct (after c.skip (c.oor + 1)) ∧ (∀ j, j < e → mget t.mem (p + j) = 0) ∧ ∀ a, a < p ∨ p + e ≤ a → mget t.mem a = mget s.mem a) ∧
      (∀ p q, x ≠ 0xFFFFFFFF → x < dwBits b 4 63 32 → Maps s k c.tenant (if c.op = .xgather then table else dense) p e false → Maps s k c.tenant (if c.op = .xgather then dense else table) q e true →
        ∃ t, exec .engineBeat s = .next t ∧ BeatMoved s t oct (after c.skip c.oor) ∧ (∀ j, j < e → mget t.mem (q + j) = mget s.mem (p + j)) ∧ ∀ a, a < q ∨ q + e ≤ a → mget t.mem a = mget s.mem a))

/-- R247, R242; 18_sketches.md R293, R306; 19_sketch_at_work.md R314: one beat of an elementwise `XREDUCE`, and one step of a sum of sketches, in HBM. Each source but the last takes a beat of its own; the last beat of 64 bytes folds its elements, one after another: on INT32 elements the sum modulo 2^32, the signed maximum or the signed minimum of destination and source;
on FP32 and BF16 elements the rounded sum, or the extreme. A sum of sketches reads its source, 64 bytes in a beat, and then adds counter after counter, each the sum of the two; where no counter leaves ±(2^(n−1) − 1) no flag is set. Flags that it owes a `SATF` are ORed into it in a step of their own, and after the last counter it reads the source's `SATF`, which it owes the destination's; with nothing more owed it has done. -/
def Sys2Proof.Says.EngineReductions : Prop :=
  ∀ (s : State) (oct : Nat) (c : ECmd), OnlyActive s oct c → s.sel.unit = oct → c.op = .xreduce →
    let k := oct / 24
    let b := c.spec
    (∀ f ∈ [((.xreduceSum : Instr), 0), (.xreduceMax, 1), (.xreduceMin, 2)], ∀ i ∈ [f.1, .engineBeat], dwBits b 0 7 0 = f.2 →
      (c.skip < dwBits b 0 29 28 → ∃ t, exec i s = .next t ∧ BeatMoved s t oct { c with skip := c.skip + 1, beats := c.beats - 1 } ∧ t.mem = s.mem) ∧
      (dwBits b 0 29 28 = 0 → dwBits b 0 26 24 ∈ [0, 1, 3] → c.pos < dw b 3 →
        let ty := dwBits b 0 26 24
        let e := if ty = 1 then 2 else 4
        let n := Min.min (64 / e) (dw b 3 - c.pos)
        dw b 1 % e = 0 → dw b 2 % e = 0 →
        ∀ p q : Nat → Nat, (∀ j, j < n → Maps s k c.tenant (dw b 1 + (c.pos + j) * e) (p j) e false ∧ Maps s k c.tenant (dw b 2 + (c.pos + j) * e) (q j) e true ∧ Maps s k c.tenant (dw b 2 + (c.pos + j) * e) (q j) e false) →
          (∀ j l, j < l → l < n → (q j + e ≤ q l ∨ q l + e ≤ q j) ∧ (q j + e ≤ p l ∨ p l + e ≤ q j)) →
          ∃ t, exec i s = .next t ∧ BeatMoved s t oct { c with pos := c.pos + n, skip := 0, beats := c.beats - 1, done := decide (c.pos + n = dw b 3) } ∧ (∀ a, (∀ j, j < n → a < q j ∨ q j + e ≤ a) → mget t.mem a = mget s.mem a) ∧
            ∀ j, j < n → let x := mread s.mem (p j) e
              let v := mread s.mem (q j) e
              mread t.mem (q j) e = redOp f.2 ty v x % 2 ^ (8 * e) ∧
              (ty = 3 → (BitVec.ofNat 32 (mread t.mem (q j) e)).toInt = if f.2 = 0 then (BitVec.ofNat 32 (v + x)).toInt else if f.2 = 1 then Max.max (BitVec.ofNat 32 v).toInt (BitVec.ofNat 32 x).toInt else Min.min (BitVec.ofNat 32 v).toInt (BitVec.ofNat 32 x).toInt))) ∧
    (dwBits b 0 7 0 = 3 → c.pos ≠ 0 → ∀ i ∈ [Instr.sksum, .engineBeat],
      let h := sketchOf c.hd
      let src := sketchOf c.hs
      let bytes := h.width / 8
      ∀ spa dpa p, dw b 1 % 64 = 0 → dw b 2 % 64 = 0 → h.cadr % 64 = 0 → src.cadr % 64 = 0 → src.width = h.width →
        (∀ j, j < 4 → Maps s k c.tenant (dw b 1 + 16 * j) (spa + 16 * j) 16 false ∧ Maps s k c.tenant (dw b 2 + 16 * j) (dpa + 16 * j) 16 false) → Maps s k c.tenant (dw b 2) dpa 16 true →
        (∀ p', c.pos < src.groups → (c.pos + 1) * 64 ≤ src.size → Maps s k c.tenant (src.cadr + 64 * c.pos) p 64 false → Maps s k c.tenant (h.cadr + 64 * c.pos) p' 64 true →
          ∃ t, exec i s = .next t ∧ BeatMoved s t oct { c with pos := c.pos + 1, beats := c.beats - 1, buf := c.buf ++ mbytes s.mem p 64 } ∧ t.mem = s.mem) ∧
        (src.groups ≤ c.pos → c.pos - src.groups < src.count → c.owesS = 0 → c.owesD = 0 → Maps s k c.tenant (h.cadr + (c.pos - src.groups) * bytes) p bytes false → Maps s k c.tenant (h.cadr + (c.pos - src.groups) * bytes) p bytes true →
          let n := c.pos - src.groups
          let old := h.value (mread s.mem p bytes)
          let add := h.value (ofBytes ((c.buf.drop (n * bytes)).take bytes))
          old.2 = false → add.2 = false → (h.clamp (old.1 + add.1)).2 = false →
          ∃ t, exec i s = .next t ∧ BeatMoved s t oct { c with pos := c.pos + 1, beats := if n + 1 = src.count ∨ (n + 1) * bytes % 64 = 0 then c.beats - 1 else c.beats } ∧ (∀ a, a < p ∨ p + bytes ≤ a → mget t.mem a = mget s.mem a) ∧
            (h.value (mread t.mem p bytes)).1 = old.1 + add.1) ∧
        (src.groups ≤ c.pos → src.count ≤ c.pos - src.groups → c.owesS = 0 → c.owesD = 0 →
          let flags := mread s.mem (spa + 32) 8 % 512
          ∃ t, exec i s = .next t ∧ BeatMoved s t oct { c with owesD := flags, skip := 1, done := decide (flags = 0) } ∧ t.mem = s.mem) ∧
        (src.groups ≤ c.pos → ∀ f ∈ [(c.owesS, dw b 1 + 32, spa + 32, { c with owesS := 0 }), (c.owesD, dw b 2 + 32, dpa + 32, { c with owesD := 0, done := decide (c.skip = 1) })], f.1 ≠ 0 → (f.2.1 = dw b 2 + 32 → c.owesS = 0) →
          Maps s k c.tenant f.2.1 f.2.2.1 8 false → Maps s k c.tenant f.2.1 f.2.2.1 8 true →
          ∃ t, exec i s = .next t ∧ BeatMoved s t oct f.2.2.2 ∧ mread t.mem f.2.2.1 8 = (mread s.mem f.2.2.1 8 ||| f.1) % 2 ^ 64 ∧ ∀ a, a < f.2.2.1 ∨ f.2.2.1 + 8 ≤ a → mget t.mem a = mget s.mem a))

/-- R245; 16_translation.md R281, R285, R286: beats of a command of a page kind. PAGESHARE gives source and destination pages the same frame with `COW` 1, and counts the frame once more (that the count of a frame the destination named before stays is log 98); PAGEDROP makes the leaf invalid and takes one from the count of its frame, which returns to the stack at 0. A page of either takes 16 beats (R242), of which the first has the effect.
PAGEMOVE, and MIGRATION_START at its page, begins to move the page to the frame on top of the stack of HBM. Each line of the migration then takes 4 beats, at the last of which it is copied as MIGRATION_LINE_COPY does; when the migration is over the page is done. -/
def Sys2Proof.Says.PageCommands : Prop :=
  ∀ (s : State) (oct : Nat) (c : ECmd) (e0 a0 f0 d0 : Nat), OnlyActive s oct c → s.sel.unit = oct → c.op = .xcopy →
    let b := c.spec
    let ten := c.tenant
    let x := s.tenOf ten
    let src := dw b 1 + 65536 * c.pos
    let dst := dw b 2 + 65536 * c.pos
    let countAt := fun f : Nat => x.ftbase.toNat / 4 % 2 ^ 50 * 4 + 4 * f
    let done : ECmd := { c with pos := c.pos + 1, oor := 0, skip := 0, info := BitVec.ofNat 48 (c.pos + 1), done := decide (c.pos + 1 = dwBits b 3 31 0) }
    let c' : ECmd := { c with skip := 1, beats := c.beats - 1 }
    (dwBits b 0 7 0 = 1 ∨ dwBits b 0 7 0 = 2 → c.skip ≠ 0 → ∃ t, exec .engineBeat s = .next t ∧ t.mem = s.mem ∧ BeatMoved s t oct (if c.skip = 15 then { done with beats := c.beats - 1 } else { c with skip := c.skip + 1, beats := c.beats - 1 })) ∧
    (dwBits b 0 7 0 = 1 → c.skip = 0 → MappedAt s ten src 0 e0 a0 → EntryAt s ten dst 0 f0 d0 → LeafEntry false 0 f0 ∨ f0 % 2 = 0 → e0.testBit 9 = false →
      let f := e0 / 2 ^ 16 % 2 ^ 36
      f < x.ftlen.toNat % 2 ^ 36 → a0 + 8 ≤ 0x8000000000 → d0 + 8 ≤ 0x8000000000 → countAt f + 4 ≤ 0x8000000000 → (a0 + 8 ≤ d0 ∨ d0 + 8 ≤ a0) → (a0 + 8 ≤ countAt f ∨ countAt f + 4 ≤ a0) → (d0 + 8 ≤ countAt f ∨ countAt f + 4 ≤ d0) →
      ∀ i ∈ [Instr.pageshare, .engineBeat], ∃ t, exec i s = .next t ∧ (t.octOf oct).active = [c'] ∧ t.ctl = s.ctl ∧ t.peek (countAt f) 4 = (s.peek (countAt f) 4 + 1) % 2 ^ 32 ∧
        (∀ j, j < 64 → (t.peek a0 8).testBit j = (t.peek d0 8).testBit j ∧ (t.peek a0 8).testBit j = if j = 6 then true else e0.testBit j) ∧
        ∀ q, (q < a0 ∨ a0 + 8 ≤ q) → (q < d0 ∨ d0 + 8 ≤ q) → (q < countAt f ∨ countAt f + 4 ≤ q) → mget t.mem q = mget s.mem q) ∧
    (dwBits b 0 7 0 = 2 → c.skip = 0 → MappedAt s ten dst 0 e0 a0 → e0.testBit 9 = false →
      let f := e0 / 2 ^ 16 % 2 ^ 36
      f < x.ftlen.toNat % 2 ^ 36 → a0 + 8 ≤ 0x8000000000 → countAt f + 4 ≤ 0x8000000000 → (a0 + 8 ≤ countAt f ∨ countAt f + 4 ≤ a0) →
      let slot := x.ffsbase.toNat / 8 % 2 ^ 49 * 8 + 8 * (x.ffstop.toNat % 2 ^ 24)
      (s.peek (countAt f) 4 = 1 → slot + 8 ≤ 0x8000000000 → (a0 + 8 ≤ slot ∨ slot + 8 ≤ a0) → (countAt f + 4 ≤ slot ∨ slot + 8 ≤ countAt f) →
        ∀ i ∈ [Instr.pagedrop, .engineBeat], ∃ t, exec i s = .next t ∧ (t.octOf oct).active = [c'] ∧ t.ctl = s.ctl ∧ t.peek a0 8 = 0 ∧ t.peek (countAt f) 4 = 0 ∧ t.peek slot 8 = f ∧ (t.tenOf ten).ffstop = num ((x.ffstop.toNat + 1) % 2 ^ 24) ∧
          ∀ q, (q < a0 ∨ a0 + 8 ≤ q) → (q < countAt f ∨ countAt f + 4 ≤ q) → (q < slot ∨ slot + 8 ≤ q) → mget t.mem q = mget s.mem q) ∧
      (1 < s.peek (countAt f) 4 → ∀ i ∈ [Instr.pagedrop, .engineBeat], ∃ t, exec i s = .next t ∧ (t.octOf oct).active = [c'] ∧ t.ctl = s.ctl ∧ t.peek a0 8 = 0 ∧ t.peek (countAt f) 4 = s.peek (countAt f) 4 - 1 ∧
        ∀ q, (q < a0 ∨ a0 + 8 ≤ q) → (q < countAt f ∨ countAt f + 4 ≤ q) → mget t.mem q = mget s.mem q)) ∧
    (dwBits b 0 7 0 = 3 → dw b 4 = 0 → c.oor = 0 → MappedAt s ten src 0 e0 a0 → e0.testBit 7 = false → s.pkg.migs = [] → s.pkg.fnmode.getLsbD 2 = false → frameOf e0 < x.ftlen.toNat % 2 ^ 36 → ∀ old new, FrameAt s ten (frameOf e0) old → (∀ q ∈ s.inFlight, q < old ∨ old + 65536 ≤ q) →
      let top := x.ffstop.toNat % 2 ^ 24
      let f := s.peek (x.ffsbase.toNat / 8 % 2 ^ 49 * 8 + 8 * (top - 1)) 8 % 2 ^ 36
      let m : Migration := { tenant := ten, va := src / 65536 * 65536, leaf := a0, old := old, new := new, oldFrame := frameOf e0 }
      let begun := fun t : State => t.pkg.migs = [m] ∧ (t.tenOf ten).ffstop = num (top - 1) ∧ (t.octOf oct).active = [{ c with oor := 1 }] ∧ (t.peek a0 8).testBit 9 = true ∧ t.peek a0 8 / 2 ^ 16 % 2 ^ 36 = f ∧
        ∀ q, q < cellOf a0 ∨ cellOf a0 + 8 ≤ q → mget t.mem q = mget s.mem q
      top ≠ 0 → FrameAt s ten f new → new < 0x8000000000 →
        (∀ i ∈ [Instr.pagemove, .engineBeat], ∃ t, exec i s = .next t ∧ begun t) ∧
        (∀ s' : State, s' = { s with sel := { s.sel with unit := ten, sub := src, idx := f } } → dw b 1 % 65536 = 0 → (∀ o ∈ s.oct, o.1 ≠ oct → o.2.active = []) → (∃ o, (oct, o) ∈ s.oct) → (s.oct.map (·.1)).Nodup → ∃ t, exec .migrationStart s' = .next t ∧ begun t)) ∧
    (dwBits b 0 7 0 = 3 → c.oor = 1 → ∀ i ∈ [Instr.pagemove, .engineBeat],
      (∀ n m, s.pkg.migs[n]? = some m → m.tenant = ten → m.va / 65536 = src / 65536 → (∀ j o, j < n → s.pkg.migs[j]? = some o → o.tenant ≠ ten ∨ o.va / 65536 ≠ src / 65536) →
        (c.skip < 3 → ∃ t, exec i s = .next t ∧ t.mem = s.mem ∧ BeatMoved s t oct { c with skip := c.skip + 1, beats := c.beats - 1 }) ∧
        (3 ≤ c.skip → ∃ t u, exec i s = .next t ∧ exec .migrationLineCopy { s with sel := { s.sel with unit := n } } = .next u ∧ t.mem = u.mem ∧ t.pkg = u.pkg ∧ t.ten = u.ten ∧ t.ctl = s.ctl ∧
          ((∃ m ∈ u.pkg.migs, m.tenant = ten ∧ m.va / 65536 = src / 65536) → (t.octOf oct).active = [{ c with skip := 0, beats := c.beats - 1 }]) ∧
          ((∀ m ∈ u.pkg.migs, m.tenant ≠ ten ∨ m.va / 65536 ≠ src / 65536) → (t.octOf oct).active = [{ done with beats := c.beats - 1 }]))) ∧
      ((∀ m ∈ s.pkg.migs, m.tenant ≠ ten ∨ m.va / 65536 ≠ src / 65536) → ∃ t, exec i s = .next t ∧ BeatMoved s t oct done ∧ t.mem = s.mem))

/-- R252 to R256: transfer barriers and streams. `TBINIT` sets a barrier of the core; `TBWAIT` completes when the count has reached its target, and otherwise waits with `WAIT` 9. `SBIND` binds a stream register: its descriptor is in row bytes 256 to 319, and the engine holds its staging lines and its read lock. `SUNBIND` clears the descriptor and leaves lines and lock to the commit. An arrival made in the cycle of `TBINIT` is counted after it.
STREAM_REFILL stages the next element of a stream whose page translates to HBM. -/
def Sys2Proof.Says.StreamsAndTransferBarriers : Prop :=
  ∀ (s s1 : State) (a d : BitVec 5) (t' g : BitVec 4) (y : W), InThread s →
    (s.src a.toNat = .ok (y, s1) → MayBeAlone s1 →
      (∃ t, exec (.tbinit a t') s = .next t ∧ t.cur.ended = .completed ∧ t.cur.ending = true ∧ Moves s1 t s.me ∧ t.mem = s1.mem ∧ ∀ i : Nat, (tget 0 (t.cs s.myCore).tbs i : BitVec 16) = if i = t'.toNat then BitVec.ofNat 16 (y.toNat + ((s1.coreOf s.myCore).tbNow.filter fun e => e == (s1.cycle, i)).length) else tget 0 (s1.cs s.myCore).tbs i) ∧
      (let n := (tget 0 (s1.cs s.myCore).tbs t'.toNat : BitVec 16).toNat
       (y.toNat % 65536 ≤ n → ∃ t, exec (.tbwait a t') s = .next t ∧ Passes s1 t s.me ∧ Moves s1 t s.me ∧ t.cur.ending = true) ∧
       (n < y.toNat % 65536 → exec (.tbwait a t') s = .next (s.applyStop (.block 9 t'.toNat (y.toNat % 65536) none))))) ∧
    (24 ≤ d.toNat → d.toNat ≤ 27 →
      let off := 256 + 16 * (d.toNat - 24)
      (s.bound s.me d.toNat = false → ∃ t, exec (.sunbind d) s = .next t ∧ Passes s t s.me ∧ Moves s t s.me) ∧
      (s.bound s.me d.toNat = true → ∃ t, exec (.sunbind d) s = .next t ∧ t.cur.ended = .completed ∧ Moves s t s.me ∧ OnlyPc s t s.me ∧ Elsewhere s t ∧ t.rowGet s.me off 16 = 0 ∧ (∀ q, q < rowAddr s.me + off ∨ rowAddr s.me + off + 16 ≤ q → mget t.mem q = mget s.mem q) ∧
        (t.thrOf s.me).chunk.deferred = (s.thrOf s.me).chunk.deferred ++ [.unbind d.toNat]) ∧
      (∀ x, s.seg g.toNat = .ok x →
        let b := BitVec.ofNat 512 x
        let k := s.myCluster
        -- an old binding of the register ends first
        let u := if s.bound s.me d.toNat = true then s.unbind s.me d.toNat else s
        let locksOf := u.commandLocks k (s.rowTenant s.me) (fun _ => true) [streamRange b] []
        let seen := if u.localSources k (s.rowTenant s.me) [streamRange b] = true then s.storesSeen s.me = true ∧ s.postedDone s.me = true else s.storesHome s.me = true
        (streamOk b = false → Traps (.sbind d g) s .illegal 0) ∧
        (streamOk b = true → MayBeAlone s → s.vecBusy s.me = false →
          (64 ≤ (u.coreOf s.myCore).streams.length → Traps (.sbind d g) s .queue 0) ∧
          ((u.coreOf s.myCore).streams.length < 64 → ¬ seen → exec (.sbind d g) s = .next (s.applyStop (.stall false))) ∧
          ((u.coreOf s.myCore).streams.length < 64 → seen →
            (∀ a, locksOf = .error a → Traps (.sbind d g) s .access (num a)) ∧
            (∀ locks, locksOf = .ok locks → locks ≠ [] → u.locksGrant s.me locks.length = false → exec (.sbind d g) s = .next (s.applyStop (.block 11 0 locks.length none))) ∧
            (∀ locks, locksOf = .ok locks → (locks = [] ∨ u.locksGrant s.me locks.length = true) →
              ∃ t, exec (.sbind d g) s = .next t ∧ t.cur.ended = .completed ∧ t.cur.ending = true ∧ Moves s t s.me ∧ PcAndWaiters s t s.me ∧ (∀ q, q < rowAddr s.me + off ∨ rowAddr s.me + off + 16 ≤ q → mget t.mem q = mget s.mem q) ∧
                t.rowGet s.me off 8 = 2 ^ 63 + dwBits b 0 27 27 * 2 ^ 62 + dwBits b 0 25 24 * 2 ^ 57 + dw b 1 ∧ t.rowGet s.me (off + 8) 8 = dw b 2 ∧
                (t.coreOf s.myCore).streams = (u.coreOf s.myCore).streams ++ [{ rid := s.me, reg := d.toNat, lock := s.seq }] ∧ (t.cluOf k).locks = (u.cluOf k).locks ++ locks.map fun l => { l with id := s.seq, matrix := false }))))) ∧
    (let r := stepRow s
     let reg := s.sel.idx
     let off := 256 + 16 * (reg - 24)
     let w0 := s.rowGet r off 8
     let w1 := s.rowGet r (off + 8) 8
     let e := 2 ^ (w0 / 2 ^ 57 % 4)
     ∀ (st : Stage) (p : Nat), isBase r = false → (s.coreOf s.sel.unit).streams = [st] → st.rid = r → st.reg = reg → coreOfRid r = s.sel.unit → 2 ^ 63 ≤ w0 → st.bar = false → s.lateFor (clusterOf s.sel.unit) st.lock = false → st.vals.length < w1 % 2 ^ 32 → (st.vals.length + 1) * e ≤ 128 → (s.ctlOf r).state ≠ .held → s.waits r 4 = false → s.uncorr = [] →
      let addr : Nat := (((w0 % 2 ^ 57 : Nat) + (st.vals.length : Int) * (BitVec.ofNat 32 (w1 / 2 ^ 32)).toInt) % (2 ^ 57 : Int)).toNat
      (st.failed = none ∨ st.failedAt ≠ addr) → addr % e = 0 → Maps s (clusterOf s.sel.unit) (s.rowTenant r) addr p e false →
      ∃ t, exec .streamRefill s = .next t ∧ { t with core := s.core } = s ∧ (t.coreOf s.sel.unit).streams = [{ st with vals := st.vals ++ [num (mread s.mem p e)] }])

/-! ### Sketches -/

namespace Sys2Proof.Says

/-- The state in which a word that executes alone works on. -/
def onItsOwn (s : State) : State := s.modCur fun x => { x with ending := true }
/-- The header at `ea` passes the checks of 18_sketches.md R300 with the physical address `hpa`; its bytes are `h`, and the translation leaves `s2`. `write` says that the word writes it too. -/
def HeaderAt (s1 s2 : State) (ea : W) (write : Bool) (hpa : Nat) (h : BitVec 512) : Prop :=
  MayBeAlone s1 ∧ s1.vecBusy s1.me = false ∧ (onItsOwn s1).headerAt ea write = .ok (hpa, s2) ∧ h = BitVec.ofNat 512 (s2.homeRead hpa 64)
/-- The words that read a header at issue: whether they read a second source first, and whether they write the header (R299, R300). -/
def headerWords (d a b : BitVec 5) (g : BitVec 4) : List (Instr × Bool × Bool) :=
  [(.skupd a g, false, false), (.skupdv a b g, true, false), (.skscl a b, true, true), (.skclr a, false, true), (.skstat d a 0, false, false), (.skstat d a 1, false, true), (.skqry d a g, false, false)]
/-- A sketch word was posted (R301): it completed alone, took the slot `tag` for its row, and handed its operations to the Pip units; its program counter moved. -/
structure Posted (s t : State) (tag opcode : Nat) (ea : W) (hpa : Nat) (h : BitVec 512) (kind : PipKind) : Prop where
  completed : t.cur.ended = .completed
  alone : t.cur.ending = true
  pc : Moves s t s.me
  ctl : OnlyPc s t s.me
  thr : ∀ r, t.thrOf r = s.thrOf r
  pip : t.pip = s.pip ++ [{ id := s.seq, rid := s.me, tenant := s.rowTenant s.me, tag := tag, opcode := opcode, hva := ea.toNat, hpa := hpa, header := h, kind := kind }]
  slot : tget { owner := none } (t.cs s.myCore).mbox tag = { owner := some s.me }
/-- 32-bit lane `k` of a segment. -/
def lane32 (v k : Nat) : Nat := v / 2 ^ (32 * k) % 2 ^ 32
/-- Bytes of interleaved HBM. -/
def InHbm (pa n : Nat) : Prop := pa + n ≤ 0x8000000000
/-- The constants of the hash (R295). -/
def hashTable : List W := [0x9E3779B97F4A7C15, 0xBF58476D1CE4E5B9, 0x94D049BB133111EB, 0xD6E8FEB86659FD93, 0xA0761D6478BD642F, 0xE7037ED1A0B428DB, 0x8EBC6AF09C88C6E3, 0x589965CC75374CC3, 0x1D8E4E27C47D124F]
/-- The integer nearest to z × 2^(−k), ties to even, on a nonnegative z. -/
def nearestEven (z k : Nat) : Nat := if z % 2 ^ k * 2 < 2 ^ k ∨ (z % 2 ^ k * 2 = 2 ^ k ∧ z / 2 ^ k % 2 = 0) then z / 2 ^ k else z / 2 ^ k + 1

end Sys2Proof.Says

/-- 18_sketches.md R292 to R297, R307: the arithmetic of sketches. A header is valid exactly when its fields are in range and every other bit is zero. The hash of index `i` in row `j` is the top `L` bits and the next bit of ((`SEED` XOR `C`[j]) OR 1) × (2i + 1). Counter `b` of row `j` lies at `CADR` + (j × 2^L + b) × n ÷ 8. A counter of −2^(n−1) reads as −lim;
sums are saturated to −lim and lim; NaN adds 0 and counts as clamped; a rescale by k > 0 rounds c × 2^(−k) to the nearest integer, ties to even. -/
def Sys2Proof.Says.SketchArithmetic : Prop :=
  (∀ b : BitVec 512, sketchValid b = true ↔ (b.toNat / 2 ^ 89 % 2 ^ 39 = 0 ∧ b.toNat / 2 ^ 78 % 4 = 0 ∧ 4 ≤ b.toNat / 2 ^ 72 % 64 ∧ b.toNat / 2 ^ 72 % 64 ≤ 32 ∧ b.toNat / 2 ^ 68 % 16 = 0 ∧ b.toNat / 2 ^ 64 % 16 ∈ [1, 3, 5, 7, 9] ∧
    b.toNat / 2 ^ 192 % 64 = 0 ∧ b.toNat / 2 ^ 249 % 128 = 0 ∧ dw b 4 < 2 ^ (b.toNat / 2 ^ 64 % 16) ∧ b.toNat / 2 ^ 320 = 0)) ∧
  (∀ (b : BitVec 512) (i : W) (j : Nat), sketchValid b = true → j < (sketchOf b).rows →
    let h := sketchOf b
    let p : W := (((b.extractLsb' 0 64) ^^^ hashTable.getD j 0) ||| 1) * (2 * i + 1)
    h.hash j i.toNat = (p.toNat / 2 ^ (64 - h.logw), p.getLsbD (63 - h.logw)) ∧ h.addr (h.slot j i.toNat) = dw b 3 + (j * 2 ^ h.logw + p.toNat / 2 ^ (64 - h.logw)) * (if b.getLsbD 88 then 4 else 2)) ∧
  (∀ (h : Sketch) (v : Int), h.width = 16 ∨ h.width = 32 →
    let lim : Int := 2 ^ (h.width - 1) - 1
    h.clamp v = (Max.max (-lim) (Min.min v lim), decide (v < -lim ∨ lim < v)) ∧
    (∀ x : Nat, x < 2 ^ h.width → let y := (if x < 2 ^ (h.width - 1) then (x : Int) else x - 2 ^ h.width)
      h.value x = if y = -lim - 1 then (-lim, true) else (y, false)) ∧
    (∀ k : Nat, k ≤ 32 → h.rescale k v = h.clamp (if v < 0 then -(nearestEven v.natAbs k : Int) else (nearestEven v.natAbs k : Int)) ∧ h.rescale (-(k : Int)) v = h.clamp (v * 2 ^ k)) ∧
    (∀ x, f32 x = .nan → h.quantise x = (0, true)) ∧ (∀ x neg, f32 x = .inf neg → h.quantise x = (if neg then -lim else lim, true)) ∧
    (∀ x neg a b z, f32 x = .fin neg a b → h.exp ≤ 0 → 0 < b → a * 2 ^ (-h.exp).toNat = z * b → h.quantise x = h.clamp (if neg then -(z : Int) else z)))

/-- R300, R303 to R305, R307, R308: the sketch words that read a header. Its address is checked for bits [63:57] and for a multiple of 64, and an invalid header traps `ILLEGAL` with its address in g3. `SKUPD` posts the pairs whose index is not all ones, `SKUPDV` sixteen values from index `b` on, `SKSCL` a rescale, with `EXP` + k written at once, and `SKCLR` a clear, with `SATF` zero at once. `SKSTAT` gives `SATF`,
and clears it with `CLR`; it, `SKSCL` and `SKCLR` wait for the row's earlier posted operations on the sketch. A posted word waits for a mailbox slot. -/
def Sys2Proof.Says.SketchWords : Prop :=
  ∀ (s s1 s2 : State) (d a b : BitVec 5) (g : BitVec 4) (x hpa tag : Nat) (ea : W) (h : BitVec 512), InThread s → s.seg g.toNat = .ok x → s.src a.toNat = .ok (ea, s1) →
    let k := sketchOf h
    let frame := fun t : State => ∀ q, q < hpa ∨ hpa + 64 ≤ q → mget t.mem q = mget s2.mem q
    (∀ y s1', s1.src b.toNat = .ok (y, s1') → ∀ i ∈ headerWords d a b g,
      let sb := if i.2.1 then s1' else s1
      sb.queryOf s.me = none → MayBeAlone sb → sb.vecBusy s.me = false →
      (2 ^ 57 ≤ ea.toNat → Traps i.1 s .access ea) ∧ (ea.toNat < 2 ^ 57 → ea.toNat % 64 ≠ 0 → Traps i.1 s .align ea) ∧ (HeaderAt sb s2 ea i.2.2 hpa h → sketchValid h = false → Traps i.1 s .illegal ea)) ∧
    (HeaderAt s1 s2 ea false hpa h → sketchValid h = true →
      (s2.slotFor s.me = none → exec (.skupd a g) s = .next (s.applyStop (.block 3 0 1 none))) ∧
      (s2.slotFor s.me = some tag → ∃ t, exec (.skupd a g) s = .next t ∧ t.mem = s2.mem ∧ Posted s2 t tag 0x31 ea hpa h (.update ((List.range 8).filterMap fun p => if lane32 x (2 * p) = 0xFFFFFFFF then none else some (num (dw h 2 + lane32 x (2 * p)), BitVec.ofNat 32 (lane32 x (2 * p + 1)))))) ∧
      (s2.dstOpen d.toNat = true → s2.postedBefore s.me hpa s2.seq = false → ∃ t, exec (.skstat d a 0) s = .next t ∧ Writes s2 t s.me d (num k.satf) ∧ t.cur.ending = true)) ∧
    (∀ (y : W) (s1' : State), s1.src b.toNat = .ok (y, s1') →
      (HeaderAt s1' s2 ea false hpa h → sketchValid h = true → s2.slotFor s.me = some tag →
        ∃ t, exec (.skupdv a b g) s = .next t ∧ t.mem = s2.mem ∧ Posted s2 t tag 0x32 ea hpa h (.update ((List.range 16).map fun j => (num (dw h 2 + y.toNat + j), BitVec.ofNat 32 (lane32 x j))))) ∧
      (HeaderAt s1' s2 ea true hpa h → sketchValid h = true →
        ((y.toInt < -32 ∨ 32 < y.toInt ∨ k.exp + y.toInt < -128 ∨ 127 < k.exp + y.toInt) → Traps (.skscl a b) s .illegal ea) ∧
        (-32 ≤ y.toInt → y.toInt ≤ 32 → -128 ≤ k.exp + y.toInt → k.exp + y.toInt ≤ 127 → s2.postedBefore s.me hpa s2.seq = true → exec (.skscl a b) s = .next (s.applyStop (.stall false))) ∧
        (-32 ≤ y.toInt → y.toInt ≤ 32 → -128 ≤ k.exp + y.toInt → k.exp + y.toInt ≤ 127 → s2.postedBefore s.me hpa s2.seq = false → s2.slotFor s.me = some tag → InHbm hpa 64 → s2.uncorr = [] →
          ∃ t, exec (.skscl a b) s = .next t ∧ Posted s2 t tag 0x35 ea hpa h (.scale y.toInt) ∧ frame t ∧ (sketchOf (BitVec.ofNat 512 (t.peek hpa 64))) = { k with exp := k.exp + y.toInt }))) ∧
    (HeaderAt s1 s2 ea true hpa h → sketchValid h = true → s2.postedBefore s.me hpa s2.seq = true → ∀ i ∈ [Instr.skclr a, .skstat d a 1], exec i s = .next (s.applyStop (.stall false))) ∧
    (HeaderAt s1 s2 ea true hpa h → sketchValid h = true → s2.postedBefore s.me hpa s2.seq = false → InHbm hpa 64 → s2.uncorr = [] →
      (s2.slotFor s.me = some tag → ∃ t, exec (.skclr a) s = .next t ∧ Posted s2 t tag 0x36 ea hpa h .clear ∧ frame t ∧ sketchOf (BitVec.ofNat 512 (t.peek hpa 64)) = { k with satf := 0 }) ∧
      (s2.dstOpen d.toNat = true → ∃ t, exec (.skstat d a 1) s = .next t ∧ t.cur.ended = .completed ∧ t.cur.ending = true ∧ Moves s2 t s.me ∧ OnlyPc s2 t s.me ∧ sketchOf (BitVec.ofNat 512 (t.peek hpa 64)) = { k with satf := 0 } ∧ Produced s2 t s.me d (num k.satf)))

/-- R292, R303: `SKDEF` of an invalid image, or of one whose counter array meets the header's 64 bytes, traps `ILLEGAL` with the header's address; otherwise it stores the image with dword 4 zero as a segment store does. -/
def Sys2Proof.Says.SketchDefinition : Prop :=
  ∀ (s s1 s2 s3 : State) (a : BitVec 5) (g : BitVec 4) (x hpa pa : Nat) (ea : W), InThread s → s.seg g.toNat = .ok x → s.src a.toNat = .ok (ea, s1) → MayBeAlone s1 → s1.vecBusy s.me = false → (onItsOwn s1).headerAt ea true false = .ok (hpa, s2) →
    let img := BitVec.ofNat 512 x
    let bad := sketchValid img = false ∨ (dw img 3 < ea.toNat + 64 ∧ ea.toNat < dw img 3 + (sketchOf img).rows * 2 ^ (sketchOf img).logw * ((sketchOf img).width / 8))
    (bad → Traps (.skdef a g) s .illegal ea) ∧
    (¬ bad → s2.postedBefore s.me hpa s2.seq = false → s2.access ea 64 .store = .ok (pa, s3) → InHbm pa 64 → (bufLines ((s3.thrOf s.me).chunk.stores ++ [{ pa := pa, bytes := bytesOf 64 (x - dw img 4 * 2 ^ 256), strong := false, home := false }])).length ≤ 32 →
      ∃ t, exec (.skdef a g) s = .next t ∧ Buffers s3 t pa (bytesOf 64 (x - dw img 4 * 2 ^ 256)) false false ∧ t.cur.ending = true)

/-- R296, R305, R307, R309: `SKQRY` first takes one of sixteen query buffers and blocks with `WAIT` 10; executed again with its results in the buffer it writes them to wD and the low 8 bytes of w(D+1) and frees the buffer. SKQRY_RESULT reads the next counter of a query, with the sign of its hash. After the last it reads the header's `SATF`, and the row is woken. SKETCH_COUNTER_OP applies the next counter operation of a posted word: an update first sets the flag of every row where the quantised value is clamped, and adds the value with
that sign, a rescale and a clear take one counter after the other, and after the last the slot is free. A flag that a counter sets is ORed into the header's `SATF` in a step of its own (19_sketch_at_work.md R314). Neither acts before the row's earlier posted operations on the sketch. -/
def Sys2Proof.Says.SketchSteps : Prop :=
  (∀ (s s1 s2 : State) (d a : BitVec 5) (g : BitVec 4) (x hpa : Nat) (ea : W) (h : BitVec 512), InThread s → s.seg g.toNat = .ok x → s.src a.toNat = .ok (ea, s1) →
    (s1.queryOf s.me = none → HeaderAt s1 s2 ea false hpa h → sketchValid h = true → s2.mayTake s.me (onCore s.myCore) 10 (16 - (s2.coreOf s.myCore).qbufs.length) = true → s2.quiet = true →
      s.quiet = true → (s.thrOf s.me).deferred = [] → (s.thrOf s.me).chunk.steps = 0 → (s.thrOf s.me).stop = none →
      ∃ t, exec (.skqry d a g) s = .next t ∧ t.cur.ended = .stopped ∧ t.mem = s.mem ∧ (t.ctlOf s.me).state = .blocked ∧ (t.ctlOf s.me).wait = 10 ∧ (t.ctlOf s.me).wake = 0 ∧ (t.ctlOf s.me).pc = (s.ctlOf s.me).pc ∧ (∀ r, r ≠ s.me → (s.thrOf r).lockClaim = 0 → s.waits r 3 = false → t.ctlOf r = s.ctlOf r) ∧
        (t.coreOf s.myCore).qbufs = (s.coreOf s.myCore).qbufs ++ [{ rid := s.me, hva := ea.toNat, hpa := hpa, header := h, idx := BitVec.ofNat 512 x, order := s.seq }]) ∧
    (s1.queryOf s.me = none → HeaderAt s1 s2 ea false hpa h → sketchValid h = true → s2.mayTake s.me (onCore s.myCore) 10 (16 - (s2.coreOf s.myCore).qbufs.length) = false → exec (.skqry d a g) s = .next (s.applyStop (.block 10 0 1 none))) ∧
    (∀ q v, s1.queryOf s.me = some q → MayBeAlone s1 → q.failed = some v → Traps (.skqry d a g) s (if q.uncorr then .uncorr else .access) (num v)) ∧
    (∀ q res st, s1.queryOf s.me = some q → MayBeAlone s1 → q.failed = none → q.result = some (res, st) → d.toNat ≤ 9 → NobodyWaits s1 →
      ∃ t, exec (.skqry d a g) s = .next t ∧ t.cur.ended = .completed ∧ t.cur.ending = true ∧ Moves s1 t s.me ∧ OnlyPc s1 t s.me ∧ t.rowGet s.me (320 + 64 * d.toNat) 64 = res.toNat ∧ t.rowGet s.me (384 + 64 * d.toNat) 8 = st.toNat ∧
        (∀ p, p < rowAddr s.me + 320 + 64 * d.toNat ∨ rowAddr s.me + 392 + 64 * d.toNat ≤ p → mget t.mem p = mget s1.mem p) ∧ (t.coreOf s.myCore).qbufs = (s1.coreOf s.myCore).qbufs.filter fun r => r.order != q.order)) ∧
  (∀ (s : State) (q : QBuf), (s.coreOf s.sel.unit).qbufs[s.sel.sub]? = some q →
    (s.postedBefore q.rid q.hpa q.order = true ∨ s.writeHeld q.order = true → exec .skqryResult s = .next s) ∧
    (s.sel.unit < 6144 → q.bar = false → q.result = none → q.failed = none → s.postedBefore q.rid q.hpa q.order = false → s.writeHeld q.order = false → s.uncorr = [] → ((s.coreOf s.sel.unit).qbufs.map (·.order)).Nodup →
      let h := sketchOf q.header
      let row := q.ests.length % h.rows
      let goes := fun q' : QBuf => ∃ t, exec .skqryResult s = .next t ∧ t.mem = s.mem ∧ (t.coreOf s.sel.unit).qbufs = (s.coreOf s.sel.unit).qbufs.set s.sel.sub q' ∧
        (q'.result ≠ none → (s.ctlOf q.rid).state = .blocked → (s.ctlOf q.rid).wait = 10 → (s.thrOf q.rid).waitArg = 0 → (t.ctlOf q.rid).state = .ready) ∧ (q'.result = none → { t with core := s.core } = s)
      (∀ p, q.owes ≠ 0 → Maps s (clusterOf s.sel.unit) (s.rowTenant q.rid) (q.hva + 32) p 8 false → Maps s (clusterOf s.sel.unit) (s.rowTenant q.rid) (q.hva + 32) p 8 true →
        ∃ t, exec .skqryResult s = .next t ∧ { t with core := s.core, mem := s.mem } = s ∧ (t.coreOf s.sel.unit).qbufs = (s.coreOf s.sel.unit).qbufs.set s.sel.sub { q with owes := 0 } ∧
          mread t.mem p 8 = (mread s.mem p 8 ||| q.owes) % 2 ^ 64 ∧ ∀ a, a < p ∨ p + 8 ≤ a → mget t.mem a = mget s.mem a) ∧
      (∀ lane i p, q.owes = 0 → q.lanes[q.ests.length / h.rows]? = some (lane, i) → Maps s (clusterOf s.sel.unit) (s.rowTenant q.rid) (h.addr (h.slot row i)) p (h.width / 8) false →
        let v := h.value (mread s.mem p (h.width / 8))
        goes { q with ests := q.ests ++ [if (h.hash row i).2 then -v.1 else v.1], owes := if v.2 then 2 ^ row else 0 }) ∧
      (∀ p, q.owes = 0 → q.lanes[q.ests.length / h.rows]? = none → q.abandoned = false → Maps s (clusterOf s.sel.unit) (s.rowTenant q.rid) (q.hva + 32) p 8 false → goes { q with result := some (q.finish (mread s.mem p 8)) }))) ∧
  (∀ (s : State) (p : PipOp), s.pip[s.sel.unit]? = some p →
    (s.postedBefore p.rid p.hpa p.id = true ∨ s.writeHeld p.id = true → exec .sketchCounterOp s = .next s) ∧
    (isBase p.rid = false → p.bar = false → s.writeHeld p.id = false → s.postedBefore p.rid p.hpa p.id = false → s.uncorr = [] → (s.pip.map (·.id)).Nodup → sketchValid p.header = true → p.hva % 64 = 0 →
      let h := sketchOf p.header
      let n := h.width / 8
      let k := clusterOfRid p.rid
      let core := coreOfRid p.rid
      let ends := fun (p' : PipOp) (mem : State → Prop) =>
        (p'.next ≠ none ∨ p'.owes ≠ 0 → ∃ t, exec .sketchCounterOp s = .next t ∧ { t with mem := s.mem, pip := s.pip } = s ∧ t.pip = s.pip.set s.sel.unit p' ∧ mem t) ∧
        (p'.next = none → p'.owes = 0 → s.discards core p.id = false → NobodyWaits s → (s.coreOf core).loaded = p.tenant →
          ∃ t, exec .sketchCounterOp s = .next t ∧ { t with mem := s.mem, pip := s.pip, core := s.core } = s ∧ t.pip = s.pip.filter (fun x => x.id != p.id) ∧ (∀ m, (p.tag, m) ∉ (t.cs core).mbox) ∧ mem t)
      let flags := fun pa : Nat => Maps s k p.tenant (p.hva + 32) pa 8 true ∧ Maps s k p.tenant (p.hva + 32) pa 8 false
      let goes := fun (place f : Nat) (v : Int) (p' : PipOp) => ∀ pa, Maps s k p.tenant (h.addr place) pa n true →
        ends { p' with owes := f } fun t => (h.value (mread t.mem pa n)).1 = v ∧ ∀ q, (q < pa ∨ pa + n ≤ q) → mget t.mem q = mget s.mem q
      let old := fun pa : Nat => h.value (mread s.mem pa n)
      (p.owes ≠ 0 → ∀ fpa, flags fpa → ends { p with owes := 0 } fun t => mread t.mem fpa 8 = (mread s.mem fpa 8 ||| p.owes) % 2 ^ 64 ∧ ∀ a, a < fpa ∨ fpa + 8 ≤ a → mget t.mem a = mget s.mem a) ∧
      (∀ pairs i x, p.owes = 0 → p.kind = .update pairs → pairs[p.pos]? = some (i, x) →
        let o := old
        let q := h.quantise x.toNat
        (q.2 = true → p.flagged = false → ∀ fpa, flags fpa → ends { p with flagged := true } fun t => mread t.mem fpa 8 = mread s.mem fpa 8 ||| (2 ^ h.rows - 1) ∧ ∀ a, a < fpa ∨ fpa + 8 ≤ a → mget t.mem a = mget s.mem a) ∧
        (q.2 = false ∨ p.flagged = true → ∀ pa, Maps s k p.tenant (h.addr (h.slot p.row i.toNat)) pa n false →
          let sum := if (h.hash p.row i.toNat).2 then (o pa).1 - q.1 else (o pa).1 + q.1
          goes (h.slot p.row i.toNat) (if (h.clamp sum).2 || (o pa).2 then 2 ^ p.row else 0) (h.clamp sum).1 (if p.row + 1 < h.rows then { p with row := p.row + 1 } else { p with row := 0, pos := p.pos + 1, flagged := false }))) ∧
      (∀ sh pa, p.owes = 0 → p.kind = .scale sh → p.pos < h.rows * 2 ^ h.logw → Maps s k p.tenant (h.addr p.pos) pa n false →
        goes p.pos (if (h.rescale sh (old pa).1).2 || (old pa).2 then 2 ^ (p.pos / 2 ^ h.logw) else 0) (h.rescale sh (old pa).1).1 { p with pos := p.pos + 1 }) ∧
      (p.owes = 0 → p.kind = .clear → p.pos < h.rows * 2 ^ h.logw → goes p.pos 0 0 { p with pos := p.pos + 1 })))

/-! ### Combinators and nests -/

namespace Sys2Proof.Says

/-- The Gambit table of a tenant: its base, and the addresses of an entry's image, stored claim and use count (26_combinators.md R370). -/
def tableBase (s : State) (ten : Nat) : Nat := (s.tenOf ten).gambase.toNat / 2 ^ 16 % 2 ^ 36 * 65536
def imageAt (s : State) (ten e : Nat) : Nat := tableBase s ten + 32 * e
def claimAt (s : State) (ten e : Nat) : Nat := tableBase s ten + 0x20000 + 16 * e
def countAt (s : State) (ten e : Nat) : Nat := tableBase s ten + 0x20000 + 16 * e + 8
/-- The tenant has a table, and it lies in interleaved HBM. -/
def HasTable (s : State) (ten : Nat) : Prop := (s.tenOf ten).gambase.getLsbD 0 = true ∧ tableBase s ten + 0x30000 ≤ 0x8000000000
/-- An entry is defined: its stored claim is not zero, since every claim has `DEPTH` at least 1 (R372, R373). -/
def Defined (s : State) (ten e : Nat) : Prop := e < 4096 ∧ s.peek (claimAt s ten e) 8 ≠ 0
/-- Fields of an entry image (R371). -/
def gambitKind (b : BitVec 512) : Nat := dwBits b 0 63 60
def children (b : BitVec 512) : List Nat := (List.range (dwBits b 0 58 56)).map fun c => dwBits b 1 (12 * c + 11) (12 * c)
/-- The entries whose use counts an entry holds: its children and its handler. -/
def uses (b : BitVec 512) : List Nat := (if gambitKind b ≤ 2 then [] else children b) ++ if dwBits b 0 55 55 = 1 then [dwBits b 0 51 40] else []
/-- `KIND`, `NCH`, `HEN`, `FW` and the bits that must be zero are as R371 says. -/
def Shape (b : BitVec 512) : Prop :=
  1 ≤ gambitKind b ∧ gambitKind b ≤ 7 ∧ dwBits b 0 59 59 = 0 ∧ dwBits b 0 54 52 = 0 ∧ dwBits b 0 39 38 = 0 ∧ dwBits b 0 31 0 = 0 ∧ (dwBits b 0 55 55 = 0 → dwBits b 0 51 40 = 0) ∧ (gambitKind b ≠ 6 → dwBits b 0 37 32 = 0) ∧
  (gambitKind b ≤ 2 → dwBits b 0 58 56 = 0 ∧ dwBits b 0 55 55 = 0 ∧ dwBits b 3 63 32 = 0 ∧ dwBits b 3 15 8 = 0 ∧ dwBits b 3 3 1 = 0) ∧ (gambitKind b ∈ [3, 4, 5] → 2 ≤ dwBits b 0 58 56 ∧ dwBits b 0 58 56 ≤ 4) ∧ (gambitKind b ∈ [6, 7] → dwBits b 0 58 56 = 1) ∧
  (3 ≤ gambitKind b → dw b 1 < 2 ^ (12 * dwBits b 0 58 56) ∧ dw b 2 = 0 ∧ dw b 3 = 0)
/-- The limits of a `FUNC` or `CORO` (R371). -/
def Limits (b : BitVec 512) : Prop := gambitKind b ≤ 2 → dw b 1 < 2 ^ 57 ∧ dw b 1 % 4 = 0 ∧ dw b 2 < 2 ^ 57 ∧ dw b 2 % 1024 = 0 ∧ dwBits b 3 7 4 + dwBits b 3 23 20 ≤ 10
/-- Children and handler are defined, and the handler is a `FUNC` (R375, fail 5). -/
def UsesDefined (s : State) (ten : Nat) (b : BitVec 512) : Prop :=
  (∀ c ∈ uses b, Defined s ten c) ∧ (dwBits b 0 55 55 = 1 → s.peek (imageAt s ten (dwBits b 0 51 40)) 8 / 2 ^ 60 = 1)
/-- The claim of an image (R373), from the stored claims of its children, component by component. -/
def claimSays (s : State) (ten : Nat) (b : BitVec 512) : Claim :=
  let kids := (children b).map fun c => claimOf (s.peek (claimAt s ten c) 8)
  let sum := fun f : Claim → Nat => (kids.map f).sum
  let most := fun f : Claim → Nat => (kids.map f).foldl Nat.max 0
  let farms := (((children b).drop 1).filter fun c => s.peek (imageAt s ten c) 8 / 2 ^ 60 == 6).length
  let width := dwBits b 0 37 32 + 1
  let c : Claim :=
    if gambitKind b ≤ 2 then ⟨1 + dwBits b 3 31 24, dwBits b 3 7 4 + dwBits b 3 23 20, 1, dwBits b 3 0 0, dwBits b 3 19 16, 1⟩
    else if gambitKind b = 4 then ⟨sum Claim.rows, sum Claim.help, sum Claim.cores, sum Claim.mxu, sum Claim.linkq, 1 + most Claim.depth⟩
    else if gambitKind b = 5 then ⟨sum Claim.rows, sum Claim.help, sum Claim.cores, sum Claim.mxu, sum Claim.linkq + (kids.length - 1 - farms), 1 + most Claim.depth⟩
    else if gambitKind b = 6 then ⟨width * sum Claim.rows, width * sum Claim.help, width * sum Claim.cores, width * sum Claim.mxu, width * sum Claim.linkq + 1, 1 + most Claim.depth⟩
    else ⟨most Claim.rows, most Claim.help, most Claim.cores, most Claim.mxu, most Claim.linkq, 1 + most Claim.depth⟩
  if dwBits b 0 55 55 = 1 then { c with rows := c.rows + 1, help := c.help + 1 } else c
/-- A claim vector as a dword (R372). -/
def claimWord (c : Claim) : Nat := c.rows * 2 ^ 45 + c.help * 2 ^ 34 + c.cores * 2 ^ 26 + c.mxu * 2 ^ 18 + c.linkq * 2 ^ 6 + c.depth
/-- A component exceeds its field or its limit (R375, fail 7). -/
def TooBig (c : Claim) : Prop := 2 ^ 19 ≤ c.rows ∨ 2 ^ 11 ≤ c.help ∨ 192 < c.cores ∨ 2 ^ 8 ≤ c.mxu ∨ 512 < c.linkq
/-- A combinator word in an ending bundle of its own, with the thread's earlier stores at their homes (R374). -/
def Settled (s : State) : Prop := MayBeAlone s ∧ s.drained s.me = true
/-- A combinator word completed in an ending bundle and changed nothing of the row but its program counter and the register `d`, which holds `v`. -/
structure Gives (s t : State) (d : BitVec 5) (v : W) : Prop extends Writes s t s.me d v where
  alone : t.cur.ending = true
/-- The handle `x` names the live nest `n` of the tenant in record `slot` of cluster `k` (R378). -/
def Live (s : State) (ten x k slot : Nat) (n : Nest) : Prop := x < 2 ^ 44 ∧ k = x / 2 ^ 31 % 32 ∧ slot = x % 256 ∧ tget none (s.cluOf k).nests slot = some n ∧ n.seq.toNat = x / 2 ^ 8 % 2 ^ 23 ∧ n.tenant = ten
/-- The coroutine name `x` names the leaf `g`, node `i` of a live nest, which has been created (R386; log 105). -/
structure Coro (s : State) (ten x k slot : Nat) (n : Nest) (i : Nat) (g : GNode) : Prop where
  live : Live s ten (x % 2 ^ 44) k slot n
  high : x < 2 ^ 56
  node : n.gnodes[i]? = some g
  coro : g.kind = 2
  inst : g.inst = x / 2 ^ 44
  created : g.live = true ∨ g.co = .done
  first : ∀ j h, j < i → n.gnodes[j]? = some h → ¬ (h.kind = 2 ∧ h.inst = x / 2 ^ 44 ∧ (h.live = true ∨ h.co = .done))
/-- The nest of a single leaf `g`, applied by a thread that waits for nothing, with the mailbox slot `tag` of the row `o`; the leaf's stores are at their homes, and nobody else is concerned by its end. -/
structure LoneLeaf (s : State) (k slot : Nat) (n : Nest) (g : GNode) (tag o : Nat) : Prop where
  record : tget none (s.cluOf k).nests slot = some n
  only : n.gnodes = [g]
  leaf : g.kind = 1 ∧ g.parent = none ∧ g.hnd = none
  cluster : clusterOf (coreOfRid g.rid) = k
  home : s.storesHome g.rid = true
  back : s.writingBack g.rid = false
  free : n.links = [] ∧ n.outer = none ∧ n.lender = none ∧ n.tag = some tag
  inner : ∀ e ∈ (s.cluOf k).nests, ∀ m, e.2 = some m → m.outer = none ∧ m.lender = none
  loaded : (s.coreOf n.core).loaded = n.tenant
  slot : (s.cs n.core).mbox.find? (fun e => e.1 == tag) = some (tag, { owner := some o })
  other : o ≠ g.rid
  nobody : NobodyWaits s
  helpers : (s.csRow g.rid).helpers = []
  mine : ∀ e ∈ (s.csRow g.rid).mbox, e.2.owner ≠ some g.rid
  table : HasTable s n.tenant
/-- Such a nest ended: its record is free, its row NULL, its mailbox slot holds the message, and the use count of its root is one lower. -/
structure Ended (s t : State) (k slot : Nat) (n : Nest) (g : GNode) (tag o status info : Nat) : Prop where
  record : tget none (t.cluOf k).nests slot = none
  row : (t.ctlOf g.rid).state = .null
  posted : ∃ j, tget { owner := none } (t.cs n.core).mbox tag = { owner := some o, msg := some (num (tag * 2 ^ 56 + status * 2 ^ 48 + info)), order := j }
  uses : t.peek (countAt s n.tenant n.root) 4 = s.peek (countAt s n.tenant n.root) 4 - 1

end Sys2Proof.Says

/-- 26_combinators.md R370, R371, R373, R375: `GDEF`. Without a table it traps `ACCESS`. Entry numbers, images, children and claims that R375 refuses trap `ILLEGAL` with the fail code and the entry number, checked in that order. Otherwise the image, the claim and a use count of 0 are stored, each child and the handler is used once more, and the claim is written; everything else keeps its
value. That an entry is defined exactly when its stored claim is not zero is the model's choice (log 25). -/
def Sys2Proof.Says.CombinatorDefinition : Prop :=
  ∀ (s s1 : State) (d a : BitVec 5) (g : BitVec 4) (x : W) (v : Nat), s.src a.toNat = .ok (x, s1) → isBase s.me = false →
    let ten := s1.rowTenant s.me
    let e := x.toNat
    let b := BitVec.ofNat 512 v
    let c := claimSays s1 ten b
    let fails := fun k : Nat => Traps (.gdef d a g) s .illegal (num (k * 65536 + e % 4096))
    ((s1.tenOf ten).gambase.getLsbD 0 = false → Traps (.gdef d a g) s .access x) ∧
    (HasTable s1 ten → (s1.ctlOf s.me).p = false → s1.seg g.toNat = .ok v → Settled s1 → s1.vecBusy s.me = false →
      (4096 ≤ e → fails 1) ∧ (Defined s1 ten e → fails 2) ∧
      (e < 4096 → ¬ Defined s1 ten e →
        (¬ Shape b → fails 3) ∧
        (Shape b → (¬ Limits b → fails 4) ∧
          (Limits b → (¬ UsesDefined s1 ten b → fails 5) ∧
            (UsesDefined s1 ten b → (8 < c.depth → fails 6) ∧
              (c.depth ≤ 8 → (TooBig c → fails 7) ∧
                (¬ TooBig c → s1.dstOpen d.toNat = true →
                  ∃ t, exec (.gdef d a g) s = .next t ∧ t.cur.ended = .completed ∧ t.cur.ending = true ∧ Moves s1 t s.me ∧ OnlyPc s1 t s.me ∧ Elsewhere s1 t ∧ Produced s1 t s.me d (num (claimWord c)) ∧
                    t.peek (imageAt s1 ten e) 32 = v % 2 ^ 256 ∧ t.peek (claimAt s1 ten e) 8 = claimWord c ∧
                    (∀ q, q < 4096 → t.peek (countAt s1 ten q) 4 = if q = e then 0 else (s1.peek (countAt s1 ten q) 4 + (uses b).count q) % 2 ^ 32) ∧
                    (∀ q, q < 4096 → q ≠ e → t.peek (imageAt s1 ten q) 32 = s1.peek (imageAt s1 ten q) 32 ∧ t.peek (claimAt s1 ten q) 8 = s1.peek (claimAt s1 ten q) 8) ∧
                    (∀ q, (q < tableBase s1 ten ∨ tableBase s1 ten + 0x30000 ≤ q) → (d = 0 ∨ q < rowAddr s.me + 8 * d.toNat ∨ rowAddr s.me + 8 * d.toNat + 8 ≤ q) → (q < rowAddr s.me + 224 ∨ rowAddr s.me + 256 ≤ q) → mget t.mem q = mget s1.mem q))))))))

/-- R370, R376: `GDEL` of an entry that is not defined, or is used, traps `ILLEGAL` with 9 × 2^16 and the entry number. Otherwise the entry is no longer defined, and its children and handler are each used once less; nothing outside the table changes. -/
def Sys2Proof.Says.CombinatorDeletion : Prop :=
  ∀ (s s1 : State) (a : BitVec 5) (x : W), s.src a.toNat = .ok (x, s1) → isBase s.me = false →
    let ten := s1.rowTenant s.me
    let e := x.toNat
    ((s1.tenOf ten).gambase.getLsbD 0 = false → Traps (.gdel a) s .access x) ∧
    (HasTable s1 ten → (s1.ctlOf s.me).p = false → Settled s1 →
      (¬ Defined s1 ten e ∨ s1.peek (countAt s1 ten e) 4 ≠ 0 → Traps (.gdel a) s .illegal (num (9 * 65536 + e % 4096))) ∧
      (Defined s1 ten e → s1.peek (countAt s1 ten e) 4 = 0 →
        let us := uses (BitVec.ofNat 512 (s1.peek (imageAt s1 ten e) 32))
        (∀ c, us.count c ≤ s1.peek (countAt s1 ten c) 4) →
        ∃ t, exec (.gdel a) s = .next t ∧ t.cur.ended = .completed ∧ t.cur.ending = true ∧ Moves s1 t s.me ∧ OnlyPc s1 t s.me ∧ Elsewhere s1 t ∧ ¬ Defined t ten e ∧
          (∀ q, q < 4096 → t.peek (countAt s1 ten q) 4 = s1.peek (countAt s1 ten q) 4 - us.count q ∧ t.peek (imageAt s1 ten q) 32 = s1.peek (imageAt s1 ten q) 32 ∧ (q ≠ e → t.peek (claimAt s1 ten q) 8 = s1.peek (claimAt s1 ten q) 8)) ∧
          ∀ q, (q < tableBase s1 ten ∨ tableBase s1 ten + 0x30000 ≤ q) → mget t.mem q = mget s1.mem q))

/-- R370, R377 to R379: `APPLY` and `APPLYQ`. An entry number of 4096 or more traps `ILLEGAL`. An undefined entry gives 2^63 + 4, a claim that cannot fit the cluster 2^63 + 3; the word then waits for a mailbox slot. With no room a nested issuer gets 2^63 + 2 and `APPLYQ` 2^63 + 1, and `APPLY` waits with `WAIT` 13. With room the placement, a nest record and the slot are
reserved, the use count rises by one, the handle is written, and the nest is created at the commit. A leaf that is alone in its tree takes row 0 of its issuer's octet's first core where that row is free. -/
def Sys2Proof.Says.CombinatorApplication : Prop :=
  ∀ (s s1 s2 : State) (d a b : BitVec 5) (x y : W), s.src a.toNat = .ok (x, s1) → s1.src b.toNat = .ok (y, s2) → isBase s.me = false → ∀ f ∈ [((.apply d a b : Instr), true), (.applyq d a b, false)],
    let ten := s2.rowTenant s.me
    let e := x.toNat
    let k := s.myCluster
    let c := s2.peek (claimAt s2 ten e) 8
    let owned := 8 * ((List.range 24).filter fun o => decide ((s2.octOf (24 * k + o)).tag.toNat = ten)).length
    let nested := (s2.thrOf s.me).nest.isSome = true ∨ ∃ v, (s2.thrOf s.me).serves = some v ∧ v.nest.isSome = true
    let plan := s2.planNest (s2.siteOf s.me).1 e (s2.outerOf s.me) (s2.siteOf s.me).2 s.me
    ((s2.tenOf ten).gambase.getLsbD 0 = false → Traps f.1 s .access x) ∧
    (HasTable s2 ten → (s2.ctlOf s.me).p = false →
      (4096 ≤ e → Traps f.1 s .illegal (num (65536 + e % 4096))) ∧
      (e < 4096 → Settled s2 → s2.dstOpen d.toNat = true →
        (c = 0 → ∃ t, exec f.1 s = .next t ∧ Gives s2 t d (num (2 ^ 63 + 4))) ∧
        (c ≠ 0 → (owned < c / 2 ^ 26 % 256 ∨ 512 < c / 2 ^ 6 % 4096) → ∃ t, exec f.1 s = .next t ∧ Gives s2 t d (num (2 ^ 63 + 3))) ∧
        (c ≠ 0 → c / 2 ^ 26 % 256 ≤ owned → c / 2 ^ 6 % 4096 ≤ 512 →
          (s2.slotFor s.me = none → exec f.1 s = .next (s.applyStop (.block 3 0 1 none))) ∧
          (∀ tag, s2.slotFor s.me = some tag →
            (plan (some tag) none y = none → nested → ∃ t, exec f.1 s = .next t ∧ Gives s2 t d (num (2 ^ 63 + 2))) ∧
            (plan (some tag) none y = none → ¬ nested → f.2 = false → ∃ t, exec f.1 s = .next t ∧ Gives s2 t d (num (2 ^ 63 + 1))) ∧
            (plan (some tag) none y = none → ¬ nested → f.2 = true → exec f.1 s = .next (s.applyStop (.block 13 0 0 none))) ∧
            (∀ slot n, (s2.thrOf s.me).nest = none → plan (some tag) none y = some (slot, n) →
              n.seq = (s2.cluOf k).nestSeq ∧ n.tenant = ten ∧ n.tag = some tag ∧ n.root = e ∧ n.arg = y ∧ n.pri = (s2.ctlOf s.me).pri ∧ n.team = (s2.ctlOf s.me).team ∧ slot < 256 ∧ tget none (s2.cluOf k).nests slot = none ∧ (∀ r ∈ n.rows ++ n.pool, (s2.ctlOf r).state = .null ∧ r ∉ s2.nestRows k) ∧
              ∃ t, exec f.1 s = .next t ∧ t.cur.ended = .completed ∧ t.cur.ending = true ∧ Moves s2 t s.me ∧ OnlyPc s2 t s.me ∧ Produced s2 t s.me d (num (tag * 2 ^ 36 + k * 2 ^ 31 + n.seq.toNat * 256 + slot)) ∧
                tget none (t.cluOf k).nests slot = some n ∧ (t.cluOf k).nestSeq = (s2.cluOf k).nestSeq + 1 ∧ tget { owner := none } (t.cs s.myCore).mbox tag = { owner := some s.me } ∧
                (t.thrOf s.me).chunk.deferred = (s2.thrOf s.me).chunk.deferred ++ [.nest slot] ∧ t.peek (countAt s2 ten e) 4 = (s2.peek (countAt s2 ten e) 4 + 1) % 2 ^ 32))))) ∧
    (let core := 192 * k + 8 * (hubOf s.me % 24)
     let i := s2.peek (imageAt s2 ten e) 32
     ∀ tag, i / 2 ^ 60 % 16 = 1 → i / 2 ^ 55 % 2 = 0 → i / 2 ^ 192 = 0 → c = claimWord ⟨1, 0, 1, 0, 0, 1⟩ → (s2.thrOf s.me).nest = none → (s2.cluOf k).nests = [] → (s2.octOf (24 * k + hubOf s.me % 24)).tag.toNat = ten → (s2.octOf (24 * k + hubOf s.me % 24)).busy = false →
       (s2.ctlOf (ridOf core 0)).state = .null → s2.writingBack (ridOf core 0) = false → s2.matrixLocked (ridOf core 0) = false → (s2.csOf core ten).hpoolCount = 0 →
       ∃ n, plan (some tag) none y = some (0, n) ∧ n.rows = [ridOf core 0] ∧ n.pool = [] ∧ n.links = [] ∧ n.mxu = [] ∧ ∃ g, n.gnodes = [g] ∧ g.kind = 1 ∧ g.rid = ridOf core 0 ∧ g.inst = 0 ∧ g.lane = 0 ∧ g.inq = none ∧ g.outq = none)

/-- R382, R383, R386, R387: waiting, aborting, coroutines and ends. `NWAIT` gives 0 when its handle names no live nest of the tenant, and otherwise waits with `WAIT` 14. `NABORT` of such a handle has no effect; of a live nest it stops its rows and ends it with `STATUS` 0x0F and `INFO` 0xFFFF. `CRESUME` delivers what its own resume yielded, gives 2^63 after the end, traps `QUEUE` for a running leaf or another resumer, and otherwise hands over its value, makes the leaf READY and blocks. `CYIELD` traps outside a `CORO` leaf, delivers a resume value, and otherwise leaves its value and closes its row to DORMANT at the same word. -/
def Sys2Proof.Says.CombinatorControl : Prop :=
  ∀ (s s1 : State) (d a b : BitVec 5) (x : W), InThread s → s.src a.toNat = .ok (x, s1) → Settled s1 →
    let ten := s1.rowTenant s.me
    ((∀ k slot n, ¬ Live s1 ten x.toNat k slot n) → (s1.dstOpen d.toNat = true → ∃ t, exec (.nwait d a) s = .next t ∧ Gives s1 t d 0) ∧ ∃ t, exec (.nabort a) s = .next t ∧ Passes s1 t s.me ∧ Moves s1 t s.me ∧ t.cur.ending = true) ∧
    (∀ k slot n, Live s1 ten x.toNat k slot n → exec (.nwait d a) s = .next (s.applyStop (.block 14 (x.toNat % 2 ^ 36) x.toNat none)) ∧
      ∀ g tag o, LoneLeaf s1 k slot n g tag o → (s1.thrOf g.rid).nest = some (slot, 0) → n.aborting = none → (s1.ctlOf g.rid).state = .dormant ∨ (s1.ctlOf g.rid).state = .ready ∨ (s1.ctlOf g.rid).state = .exited → g.rid ≠ s.me →
        ∃ t, exec (.nabort a) s = .next t ∧ t.cur.ended = .completed ∧ t.cur.ending = true ∧ Moves s1 t s.me ∧ Ended s1 t k slot n g tag o 0x0F 0xFFFF) ∧
    (∀ (y : W) (s2 : State), s1.src b.toNat = .ok (y, s2) → Settled s2 →
      ((∀ k slot n i g, ¬ Coro s2 (s2.rowTenant s.me) x.toNat k slot n i g) → Traps (.cresume d a b) s .queue x) ∧
      (∀ k slot n i g, Coro s2 (s2.rowTenant s.me) x.toNat k slot n i g →
        (s2.dstOpen d.toNat = true → g.pending = some s.me → g.co = .yield ∨ g.co = .done → ∃ t, exec (.cresume d a b) s = .next t ∧ t.cur.ended = .completed ∧ t.cur.ending = true ∧ Moves s2 t s.me ∧ OnlyPc s2 t s.me ∧ Produced s2 t s.me d g.yval ∧
          tget none (t.cluOf k).nests slot = some { n with gnodes := n.gnodes.set i { g with pending := none } }) ∧
        (s2.dstOpen d.toNat = true → g.pending ≠ some s.me → g.co = .done → ∃ t, exec (.cresume d a b) s = .next t ∧ Gives s2 t d (num (2 ^ 63))) ∧
        ((g.co = .run ∨ g.co = .res) ∨ (g.co ≠ .done ∧ ∃ q, g.pending = some q ∧ q ≠ s.me) → Traps (.cresume d a b) s .queue x) ∧
        (g.pending = none → g.co = .fresh ∨ g.co = .yield → s2.quiet = true → (s2.thrOf s.me).deferred = [] → (s2.thrOf s.me).stop = none → (s2.ctlOf g.rid).state = .dormant → s2.uncorr = [] → g.rid ≠ s.me →
          ∃ t, exec (.cresume d a b) s = .next t ∧ t.cur.ended = .stopped ∧ t.ctlOf s.me = { s2.ctlOf s.me with state := .blocked, wait := 14, wake := BitVec.ofNat 36 (x.toNat % 2 ^ 36) } ∧ (t.ctlOf g.rid).state = .ready ∧ (t.ctlOf g.rid).pc = (s2.ctlOf g.rid).pc ∧
            tget none (t.cluOf k).nests slot = some { n with gnodes := n.gnodes.set i { g with rval := y, pending := some s.me, co := if g.co = .fresh then .run else .res } } ∧ (g.co = .fresh → t.greg g.rid 4 = y.toNat)))) ∧
    ((s1.thrOf s.me).nest = none → Traps (.cyield d a) s .queue 0) ∧
    (∀ slot i n g, (s1.thrOf s.me).nest = some (slot, i) → tget none (s1.cluOf s.myCluster).nests slot = some n → n.gnodes[i]? = some g →
      (g.kind ≠ 2 → Traps (.cyield d a) s .queue 0) ∧
      (g.kind = 2 → g.co = .res → s1.dstOpen d.toNat = true → ∃ t, exec (.cyield d a) s = .next t ∧ t.cur.ended = .completed ∧ t.cur.ending = true ∧ Moves s1 t s.me ∧ OnlyPc s1 t s.me ∧ Produced s1 t s.me d g.rval ∧
        tget none (t.cluOf s.myCluster).nests slot = some { n with gnodes := n.gnodes.set i { g with co := .run } }) ∧
      (g.kind = 2 → g.co ≠ .res → s1.quiet = true → ∃ t, exec (.cyield d a) s = .next t ∧ t.cur.ended = .completed ∧ t.cur.ending = true ∧ t.cur.close = some .dormant ∧ GoesTo s1 t s.me (s1.cur.pc.setWidth 64) ∧ t.mem = s1.mem ∧
        tget none (t.cluOf s.myCluster).nests slot = some { n with gnodes := n.gnodes.set i { g with co := .yield, yval := x } } ∧ ∀ q, g.pending = some q → q ≠ s.me → (s1.ctlOf q).state = .blocked → (t.ctlOf q).state = .ready))

/-- R382, R383, R387: when a leaf exits, its record takes its exit value, g1. LEAF_END of the only leaf of a nest, EXITED and with its stores home, ends the nest with `STATUS` 0 and the low 48 bits of that value; before its stores are home and its row is written back (02_rows.md R41) it does nothing. Of a nest that is being aborted, whose row is NULL already, it ends the nest with the abort's `STATUS` and `INFO` once the stores
are home. At a row that no nest of the cluster holds it does nothing. -/
def Sys2Proof.Says.LeafEnds : Prop :=
  (∀ (s : State) (rid slot i : Nat) (n : Nest) (g : GNode), (s.thrOf rid).nest = some (slot, i) → tget none (s.cluOf (clusterOf (coreOfRid rid))).nests slot = some n → n.gnodes[i]? = some g → isBase rid = false →
    let x : W := num (s.greg rid 1)
    tget none ((s.leafExit rid).cluOf (clusterOf (coreOfRid rid))).nests slot = some { n with gnodes := n.gnodes.set i (if g.kind = 2 then { g with exit := x, co := .done, yval := x } else { g with exit := x }) } ∧
    (∀ q, g.kind = 2 → g.pending = some q → (s.ctlOf q).state = .blocked → ((s.leafExit rid).ctlOf q).state = .ready)) ∧
  (∀ s : State,
    let rid := ridOf s.sel.unit s.sel.sub
    ((s.thrOf rid).nest = none ∨ (s.ctlOf rid).state ≠ .exited → (∀ e ∈ (s.cluOf (clusterOf s.sel.unit)).nests, ∀ n, e.2 = some n → ∀ g ∈ n.gnodes, ¬ (g.kind ≤ 2 ∧ g.rid = rid) ∧ ¬ (g.hnd.isSome = true ∧ g.hrow = rid)) → exec .leafEnd s = .next s) ∧
    ((s.ctlOf rid).state = .exited → (s.thrOf rid).nest.isSome = true → s.drained rid = false ∨ s.writingBack rid = true → exec .leafEnd s = .next s) ∧
    (∀ k slot n g tag o, LoneLeaf s k slot n g tag o → g.rid = rid → s.sel.sub < 2048 → (s.thrOf rid).nest = some (slot, 0) → n.aborting = none → (s.ctlOf rid).state = .exited → s.drained rid = true →
      ∃ t, exec .leafEnd s = .next t ∧ Ended s t k slot n g tag o 0 (g.exit.toNat % 2 ^ 48)) ∧
    (∀ k slot n g tag o st info, LoneLeaf s k slot n g tag o → (s.cluOf k).nests = [(slot, some n)] → g.rid = rid → s.sel.sub < 2048 → n.aborting = some (st, info) → (s.ctlOf rid).state = .null →
      ∃ t, exec .leafEnd s = .next t ∧ Ended s t k slot n g tag o st.toNat info.toNat))

/-! ### Work: launches, signals, teams, tenants on a cluster -/

namespace Sys2Proof.Says

/-- Fields of a launch record (20_scheduling.md R317). -/
def nodeOfRec (b : BitVec 512) : Nat := dwBits b 0 63 48
def kindOfRec (b : BitVec 512) : Nat := dwBits b 0 29 28
def succsOfRec (b : BitVec 512) : List Nat := (List.range (dwBits b 0 27 24)).map fun i => dwBits b (5 + i / 4) (16 * (i % 4) + 15) (16 * (i % 4))
/-- A launch record is valid (R317). -/
def ValidRecord (b : BitVec 512) : Prop :=
  dwBits b 0 22 0 = 0 ∧ dwBits b 0 27 24 ≤ 8 ∧ (∀ i, i < 8 → dwBits b 0 27 24 ≤ i → dwBits b (5 + i / 4) (16 * (i % 4) + 15) (16 * (i % 4)) = 0) ∧ dwBits b 7 63 32 = 0 ∧ kindOfRec b ≤ 2 ∧
  (kindOfRec b = 0 → dw b 1 < 2 ^ 57 ∧ dw b 1 % 4 = 0 ∧ dw b 2 < 2 ^ 57 ∧ dw b 2 % 1024 = 0 ∧ dwBits b 3 31 27 = 0 ∧ dwBits b 3 23 19 = 0 ∧ dwBits b 3 63 32 ≠ 0 ∧ dwBits b 3 26 24 ≤ 5 ∧ 1 ≤ dwBits b 3 18 0 ∧ dwBits b 3 18 0 ≤ 393216 / 2 ^ dwBits b 3 26 24) ∧
  (kindOfRec b ≠ 0 → (if kindOfRec b = 1 then dw b 1 < 4096 else dw b 1 = 0) ∧ dw b 2 = 0 ∧ dw b 3 = 0)
/-- A node number lies in the tenant's `NODERANGE` (R330). -/
def InRange (s : State) (ten n : Nat) : Prop := (s.tenOf ten).noderange.toNat % 65536 ≤ n ∧ n ≤ (s.tenOf ten).noderange.toNat / 2 ^ 16 % 65536
/-- A node became READY: it stands at the back of its tenant's queue of its priority. -/
def Queued (s t : State) (ten n pri : Nat) : Prop := (t.nodeOf n).state = .ready ∧ ∀ p : Nat, (tget [] (t.tenOf ten).ready p : List Nat) = if p = pri then tget [] (s.tenOf ten).ready p ++ [n] else tget [] (s.tenOf ten).ready p
/-- `LNCHERR` after one more discarded record of node `n`. -/
def discardOf (old : W) (n : Nat) : W := num (old.toNat / 2 ^ 48 * 2 ^ 48 + (old.toNat / 2 ^ 32 % 65536 + 1) % 65536 * 2 ^ 32 + n)
/-- The team `tm` of the record `r` was started in its blocks from the template (R321). -/
structure TeamStarted (s t : State) (tm : Team) (r : BitVec 512) (tmpl : List Byte) : Prop where
  entry : ∀ (j b : Nat), tm.blocks[j]? = some b → (t.ctlOf b).state = .ready ∧ (t.ctlOf b).pri = BitVec.ofNat 2 (dwBits r 0 31 30) ∧ (t.ctlOf b).team = BitVec.ofNat 12 tm.number ∧ (t.ctlOf b).pc = pcOf (num (dw r 1)) ∧ (t.ctlOf b).h = false
  registers : ∀ (j b : Nat), tm.blocks[j]? = some b → t.greg b 1 = j % 2 ^ 64 ∧ t.greg b 2 = tm.index % 2 ^ 64 ∧ t.greg b 3 = dw r 4 ∧ ∀ i, 28 ≤ i → i < 32 → t.greg b i = 0
  bytes : ∀ b ∈ tm.blocks, ∀ i, i < 1024 → (i < 8 ∨ (32 ≤ i ∧ i < 224) ∨ 256 ≤ i) → mget t.mem (rowAddr b + i) = tmpl.getD i 0
  mem : ∀ a, (∀ b ∈ tm.blocks, a < rowAddr b ∨ rowAddr b + 1024 ≤ a) → mget t.mem a = mget s.mem a
  barriers : ∀ i, i < 16 → t.barOf tm.cluster (tm.number * 16 + i) = { arm := true, expect := BitVec.ofNat 19 (dwBits r 3 18 0) }
  handler : tget 0 (t.cluOf tm.cluster).teamhdl tm.number = (0 : W)
  listed : t.teams = s.teams ++ [tm]
/-- The team that is placed for the `index`th of the grid `n` on a cluster, as a slot. -/
def teamOf (s : State) (n index slot k number : Nat) (blocks : List Nat) : Team :=
  let g := s.nodeOf n
  { node := n, index := index, slot := slot, order := s.seq, cluster := k, number := number, blocks := blocks, dlog := dwBits g.record 3 26 24, since := s.cycle, qpri := dwBits g.record 0 31 30, tenant := g.tenant }
/-- A stop reached the row `r` of a tenant that leaves its cluster: OPEN, it stops at its next boundary; waiting or ready, it is HELD over its state (15_traps.md R267). -/
def StoppedFor (s t : State) (r : Nat) (why : StopWhy) : Prop :=
  ((s.ctlOf r).state = .opened → (t.ctlOf r).state = .opened ∧ ((s.thrOf r).stop = none → (t.thrOf r).stop = some why)) ∧
  ∀ st ∈ [RowState.ready, .blocked, .sleeping, .dormant, .exited, .faulted], (s.ctlOf r).state = st → (t.ctlOf r).state = .held ∧ (t.thrOf r).saved = st ∧ (t.thrOf r).heldBy = some why

end Sys2Proof.Says

/-- 20_scheduling.md R317, R319, R320: `LAUNCH` and `LAUNCHQ` of a record that is not valid trap `ILLEGAL`, of a node or successor outside `NODERANGE` `ACCESS` with its number. With the thread's earlier stores home the word waits for a mailbox slot when `NOTIFY` asks for one; on a full launch queue `LAUNCH` waits with `WAIT` 8 and `LAUNCHQ` gives 1 and keeps no slot; otherwise the record joins the queue, and `LAUNCHQ` gives 0. Tag 0 has a queue too, as the model chose (log 92).
`SIGNAL` of a node outside the range traps `ACCESS`; otherwise, with the earlier stores home, the signal goes onto the signal path. -/
def Sys2Proof.Says.LaunchAndSignal : Prop :=
  ∀ (s : State) (d b : BitVec 5) (x : Nat), InThread s →
    let r := BitVec.ofNat 512 x
    let ten := s.rowTenant s.me
    let q := (s.tenOf ten).launchq
    (s.seg b.toNat = .ok x → s.vecBusy s.me = false → ∀ f ∈ [((.launch b : Instr), false), (.launchq d b, true)],
      (¬ ValidRecord r → Traps f.1 s .illegal 0) ∧
      (∀ l n l', ValidRecord r → nodeOfRec r :: succsOfRec r = l ++ n :: l' → (∀ m ∈ l, InRange s ten m) → ¬ InRange s ten n → Traps f.1 s .access (num n)) ∧
      (ValidRecord r → (∀ n ∈ nodeOfRec r :: succsOfRec r, InRange s ten n) → Settled s →
        (dwBits r 0 23 23 = 1 → s.slotFor s.me = none → exec f.1 s = .next (s.applyStop (.block 3 0 1 none))) ∧
        (∀ tag : Option Nat, (if dwBits r 0 23 23 = 1 then s.slotFor s.me = tag ∧ tag ≠ none else tag = none) →
          (256 ≤ q.length → (s.thrOf s.me).claim ≠ 8 → (f.2 = false → exec f.1 s = .next (s.applyStop (.block 8 0 0 none))) ∧ (f.2 = true → s.dstOpen d.toNat = true →
            ((∀ e ∈ (s.cs s.myCore).mbox, e.2.kept = true → e.2.owner ≠ some s.me) → ∃ t, exec f.1 s = .next t ∧ Gives s t d 1) ∧
            (∀ g m, tag = some g → NobodyWaits s → (s.cs s.myCore).mbox.find? (fun e => e.1 == g) = some (g, m) → m.kept = true → m.owner = some s.me →
              ∃ t, exec f.1 s = .next t ∧ t.cur.ended = .completed ∧ t.cur.ending = true ∧ Moves s t s.me ∧ OnlyPc s t s.me ∧ Produced s t s.me d 1 ∧ ∀ m', (g, m') ∉ (t.cs s.myCore).mbox))) ∧
          (s.mayTake s.me (fun p => s.rowTenant p == ten) 8 (256 - q.length) = true → s.dstOpen d.toNat = true →
            ∃ t, exec f.1 s = .next t ∧ t.cur.ended = .completed ∧ t.cur.ending = true ∧ Moves s t s.me ∧ OnlyPc s t s.me ∧ (t.tenOf ten).launchq = q ++ [{ record := r, core := s.myCore, tag := tag }] ∧
              (∀ g, tag = some g → tget { owner := none } (t.cs s.myCore).mbox g = { owner := some s.me }) ∧ (f.2 = true → Produced s t s.me d 0) ∧ (f.2 = false → t.mem = s.mem))))) ∧
    (∀ (a : BitVec 5) (y : W) (s1 : State), s.src a.toNat = .ok (y, s1) →
      let n := y.toNat % 65536
      (¬ InRange s1 (s1.rowTenant s.me) n → Traps (.signal a) s .access (num n)) ∧
      (InRange s1 (s1.rowTenant s.me) n → Settled s1 → ∃ t, exec (.signal a) s = .next t ∧ t.cur.ended = .completed ∧ t.cur.ending = true ∧ Moves s1 t s.me ∧ OnlyPc s1 t s.me ∧ t.mem = s1.mem ∧ t.thr = s1.thr ∧ t.pkg = { s1.pkg with signals := s1.pkg.signals ++ [n] }))

/-- R316, R319: a signal lowers the count of its node, which becomes READY when a PENDING node's count reaches 0; at −65,536 it is lost and counted for the lowest tenant whose range holds the node (the model's choice, log 27). The record at the head of a tenant's launch queue is installed in a FREE node, whose count rises by `PREDS` and which is then READY or PENDING; for a node that is not FREE, and for a grid that
fits no empty cluster, it is discarded, counted, and reported to its slot with `STATUS` 0x21. -/
def Sys2Proof.Says.NodeSignalsAndInstalls : Prop :=
  ∀ s : State,
    (s.pkg.signals = [] → exec .signalDelivery s = .next s) ∧
    (∀ n rest, s.pkg.signals = n :: rest →
      let g := s.nodeOf n
      (-65536 < g.count → ∃ t, exec .signalDelivery s = .next t ∧ { t with pkg := s.pkg, nodes := s.nodes, ten := s.ten } = s ∧ t.pkg = { s.pkg with signals := rest } ∧ (∀ m, m ≠ n → t.nodeOf m = s.nodeOf m) ∧
        t.nodeOf n = { g with count := g.count - 1, state := if g.state = .pending ∧ g.count = 1 then .ready else g.state } ∧ (g.state = .pending → g.count = 1 → Queued s t g.tenant n (dwBits g.record 0 31 30)) ∧ (¬ (g.state = .pending ∧ g.count = 1) → t.ten = s.ten)) ∧
      (∀ ten, g.count = -65536 → ten < 64 → InRange s ten n → (∀ u, u < ten → ¬ InRange s u n) → ∃ t, exec .signalDelivery s = .next t ∧ t.nodes = s.nodes ∧ t.pkg = { s.pkg with signals := rest } ∧ (∀ u, u ≠ ten → t.tenOf u = s.tenOf u) ∧
        t.tenOf ten = { s.tenOf ten with lncherr := num (((s.tenOf ten).lncherr.toNat / 2 ^ 48 + 1) % 65536 * 2 ^ 48 + (s.tenOf ten).lncherr.toNat % 2 ^ 48) })) ∧
    ((s.tenOf s.sel.unit).launchq = [] → exec .launchInstall s = .next s) ∧
    (∀ e rest, (s.tenOf s.sel.unit).launchq = e :: rest → NobodyWaits s →
      let ten := s.sel.unit
      let n := nodeOfRec e.record
      let g := s.nodeOf n
      let c : Int := g.count + dwBits e.record 0 47 32
      (g.state = .free → (kindOfRec e.record = 0 → s.fitsEmpty ten e.record = true) → ∃ t, exec .launchInstall s = .next t ∧ { t with nodes := s.nodes, ten := s.ten } = s ∧ (t.tenOf ten).launchq = rest ∧ (∀ m, m ≠ n → t.nodeOf m = s.nodeOf m) ∧
        (0 < c → t.nodeOf n = { state := .pending, count := c, record := e.record, tenant := ten, core := e.core, tag := e.tag }) ∧
        (c ≤ 0 → t.nodeOf n = { state := .ready, count := 0, record := e.record, tenant := ten, core := e.core, tag := e.tag } ∧ Queued s t ten n (dwBits e.record 0 31 30))) ∧
      (g.state ≠ .free ∨ (kindOfRec e.record = 0 ∧ s.fitsEmpty ten e.record = false) → ∃ t, exec .launchInstall s = .next t ∧ t.nodes = s.nodes ∧ t.mem = s.mem ∧ t.tenOf ten = { s.tenOf ten with launchq := rest, lncherr := discardOf (s.tenOf ten).lncherr n } ∧
        (∀ tag o, e.tag = some tag → (s.coreOf e.core).loaded = ten → (s.cs e.core).mbox.find? (fun m => m.1 == tag) = some (tag, { owner := some o }) → tget { owner := none } (t.cs e.core).mbox tag = { owner := some o, msg := some (num (tag * 2 ^ 56 + 0x21 * 2 ^ 48 + n)), order := s.seq })))

/-- R321, R322: dispatch. A place for a team is the lowest cluster of `CMASK`, ready and granted, on which each thread j has an aligned block of NULL rows outside `HPOOL` and the save rows on core j mod 192, and a free team number from 2048. With no grid waiting, the head of the highest queue that goes is dispatched: a join completes at once, with signals to its successors; a grid takes its template once and starts its teams; a grid whose template
cannot be read and a nest node of an undefined entry return to FREE and are counted. TEAM_PLACEMENT starts the next waiting team in free room. TEAM_END of a team whose rows are all EXITED, written back, with their stores home makes them NULL, disarms its barriers and counts it; the last team completes its node. -/
def Sys2Proof.Says.NodesAndTeams : Prop :=
  ∀ s : State,
    (∀ ten r k number blocks, s.roomFor ten r = some (k, number, blocks) → dwBits r 3 26 24 ≤ 5 →
      k < 32 ∧ (dw r 7 % 2 ^ 32 = 0 ∨ (dw r 7 % 2 ^ 32).testBit k = true) ∧ s.pkg.ready0.getLsbD k = true ∧ 2048 ≤ number ∧ number < 4096 ∧ (∀ t ∈ s.teams, t.image = none → t.cluster = k → t.number ≠ number) ∧ blocks.length = dwBits r 3 18 0 ∧ blocks.Nodup ∧
      (∀ j b, blocks[j]? = some b → coreOfRid b = k * 192 + j % 192 ∧ s.granted ten (coreOfRid b) = true ∧ (s.octOf (hubOf b)).busy = false ∧ b % 2 ^ dwBits r 3 26 24 = 0 ∧ ∀ i, i < 2 ^ dwBits r 3 26 24 → (s.ctlOf (b + i)).state = .null ∧ s.inPool (coreOfRid b) ten (rowOfRid (b + i)) = false ∧ s.saveRow (coreOfRid b) (rowOfRid (b + i)) = false ∧ s.matrixLocked (b + i) = false ∧ b + i ∉ s.nestRows k) ∧
      (∀ k', k' < k → s.freeNumber k' = none ∨ s.teamBlocks ten k' r = none)) ∧
    (∀ ten n rest p, p < 4 → (s.tenOf ten).grids = [] → tget [] (s.tenOf ten).ready p = n :: rest → (∀ p', p' < 4 → p < p' → (tget [] (s.tenOf ten).ready p' : List Nat) = []) → kindOfRec (s.nodeOf n).record = 2 → s.serviceChoice ten = some (.head n)) ∧
    (∀ n, s.serviceChoice s.sel.unit = some (.head n) →
      let ten := s.sel.unit
      let g := s.nodeOf n
      let r := g.record
      let shorter := fun t : State => tget [] (t.tenOf ten).ready (dwBits r 0 31 30) = (tget [] (s.tenOf ten).ready (dwBits r 0 31 30) : List Nat).drop 1
      (kindOfRec r = 2 → g.tag = none → ∃ t, exec .nodeDispatch s = .next t ∧ { t with pkg := s.pkg, nodes := s.nodes, ten := s.ten } = s ∧ t.pkg = { s.pkg with signals := s.pkg.signals ++ succsOfRec r } ∧ t.nodeOf n = { g with state := .free } ∧ (∀ m, m ≠ n → t.nodeOf m = s.nodeOf m) ∧ shorter t) ∧
      (∀ k number blocks bs, kindOfRec r = 0 → g.tenant = ten → dwBits r 3 63 32 = 1 → dwBits r 3 26 24 ≤ 5 → s.roomFor ten r = some (k, number, blocks) → s.template (k * 192) ten (dw r 2) = some bs → bs.length = 1024 →
        ∃ t, exec .nodeDispatch s = .next t ∧ TeamStarted s t (teamOf s n 0 0 k number blocks) r bs ∧ (t.nodeOf n).state = .running ∧ (t.nodeOf n).record = r ∧ (t.tenOf ten).grids = (s.tenOf ten).grids ++ [n] ∧ shorter t) ∧
      (∀ k number blocks, kindOfRec r = 0 → s.roomFor ten r = some (k, number, blocks) → s.template (k * 192) ten (dw r 2) = none → g.tag = none →
        ∃ t, exec .nodeDispatch s = .next t ∧ t.mem = s.mem ∧ t.ctl = s.ctl ∧ t.pkg = s.pkg ∧ t.nodeOf n = { g with state := .free } ∧ shorter t ∧ (t.tenOf ten).lncherr = discardOf (s.tenOf ten).lncherr n) ∧
      (kindOfRec r = 1 → (s.tenOf ten).gambase.getLsbD 0 = false → g.tag = none → ∃ t, exec .nodeDispatch s = .next t ∧ t.mem = s.mem ∧ t.ctl = s.ctl ∧ t.pkg = s.pkg ∧ t.nodeOf n = { g with state := .free } ∧ shorter t ∧ (t.tenOf ten).lncherr = discardOf (s.tenOf ten).lncherr n)) ∧
    (let g := s.nodeOf s.sel.unit
     (s.serviceChoice g.tenant ≠ some (.fresh s.sel.unit) → exec .teamPlacement s = .next s) ∧
     ∀ i slot k number blocks, s.serviceChoice g.tenant = some (.fresh s.sel.unit) → g.nextFresh = some (i, slot) → s.roomFor g.tenant g.record = some (k, number, blocks) → dwBits g.record 3 26 24 ≤ 5 → g.tmpl.length = 1024 →
       ∃ t, exec .teamPlacement s = .next t ∧ TeamStarted s t (teamOf s s.sel.unit i g.slots k number blocks) g.record g.tmpl ∧ (t.nodeOf s.sel.unit).slots = g.slots + 1 ∧ (tget 0 (t.nodeOf s.sel.unit).taken slot : Nat) = tget 0 g.taken slot + 1) ∧
    (∀ tm, s.teams[s.sel.unit]? = some tm → tm.image = none →
      let g := s.nodeOf tm.node
      ((∃ b ∈ tm.blocks, (s.ctlOf b).state ≠ .exited ∨ s.drained b = false ∨ s.writingBack b = true) → exec .teamEnd s = .next s) ∧
      ((∀ b ∈ tm.blocks, (s.ctlOf b).state = .exited ∧ s.drained b = true ∧ s.writingBack b = false ∧ s.helperOf b = none) → NobodyWaits s → g.tag = none →
        ∃ t, exec .teamEnd s = .next t ∧ (∀ b ∈ tm.blocks, (t.ctlOf b).state = .null) ∧ (∀ i, i < 16 → t.barOf tm.cluster (tm.number * 16 + i) = {}) ∧ t.teams = s.teams.eraseIdx s.sel.unit ∧
          (g.ended + 1 ≠ dwBits g.record 3 63 32 → t.nodeOf tm.node = { g with ended := g.ended + 1 } ∧ t.pkg.signals = s.pkg.signals) ∧
          (g.ended + 1 = dwBits g.record 3 63 32 → t.nodeOf tm.node = { g with ended := g.ended + 1, state := .free } ∧ t.pkg.signals = s.pkg.signals ++ succsOfRec g.record ∧ (t.tenOf g.tenant).grids = (s.tenOf g.tenant).grids.filter fun m => m != tm.node)))

/-- R323, R324: castling. A record of a team has a place of its own in its tenant's castle area. A resident team whose slot has a team waiting, after `GRIDSLICE` cycles, with room in the castle area and while its tenant runs on the cluster, is stopped row by row, with its helpers (log 107); before that nothing happens. With all its rows HELD or NULL and its commands done, its rows, their control entries and its barrier words are written to its record of its rows × 1,040 + 128 bytes (the model's layout and size, log 11), the blocks
become NULL and its barriers idle. A castled team that the service chooses is copied back from its record to the same rows and released, as a further slot of its grid; while its tenant does not run on the cluster they stay HELD, as by a switch. -/
def Sys2Proof.Says.Castling : Prop :=
  ∀ (s : State) (tm : Team), s.teams[s.sel.unit]? = some tm →
    let n := tm.blocks.length * 2 ^ tm.dlog
    let len := n * 1040 + 128
    let base := (s.tenOf tm.tenant).castlebase.toNat / 2 ^ 16 % 2 ^ 36 * 65536
    let lenOf := fun o : Team => o.blocks.length * 2 ^ o.dlog * 1040 + 128
    (∀ a, s.castlePlace tm = some a → base ≤ a ∧ a + len ≤ base + (s.tenOf tm.tenant).castlelen.toNat ∧ ∀ o ∈ s.teams, o.tenant = tm.tenant → o.image ≠ none ∨ o.castling = true → o.place + lenOf o ≤ a ∨ a + len ≤ o.place) ∧
    (tm.image = none → tm.castling = false →
      (s.cycle < tm.since + s.pkg.gridslice.toNat ∨ s.slotWaits tm = false ∨ s.castlePlace tm = none ∨ s.runsOn tm.cluster tm.tenant = false → exec .castling s = .next s) ∧
      (∀ a, tm.since + s.pkg.gridslice.toNat ≤ s.cycle → s.slotWaits tm = true → s.castlePlace tm = some a → s.runsOn tm.cluster tm.tenant = true → tm.blocks.Nodup → NobodyWaits s → (∀ b ∈ tm.blocks ++ s.teamHelpers tm, isBase b = false) →
        ∃ t, exec .castling s = .next t ∧ t.mem = s.mem ∧ t.teams = s.teams.set s.sel.unit { tm with castling := true, shed := false, place := a } ∧ (∀ b ∈ tm.blocks ++ s.teamHelpers tm, StoppedFor s t b .castle) ∧ ∀ r, r ∉ tm.blocks ++ s.teamHelpers tm → t.ctlOf r = s.ctlOf r)) ∧
    (tm.image = none → tm.castling = true → (∃ b ∈ tm.blocks, ((s.ctlOf b).state ≠ .held ∧ (s.ctlOf b).state ≠ .null) ∨ s.writingBack b = true) ∨ (∃ r ∈ s.teamHelpers tm, (s.ctlOf r).state ≠ .held) ∨ s.teamBusy tm = true → exec .castling s = .next s) ∧
    (tm.image = none → tm.castling = true → (∀ b ∈ tm.blocks, ((s.ctlOf b).state = .held ∨ (s.ctlOf b).state = .null) ∧ s.writingBack b = false) → (∀ r ∈ s.teamHelpers tm, (s.ctlOf r).state = .held) → s.teamBusy tm = false → (s.nodeOf tm.node).nextIn tm.slot = none → (∀ o ∈ s.teams, o.image = none) → tm.place + len ≤ 0x8000000000 →
      ∃ (t : State) (m : CastleRec), exec .castling s = .next t ∧ t.teams = s.teams.set s.sel.unit { tm with image := some m, castling := false, order := s.seq } ∧
        (∀ j r, tm.allRows[j]? = some r → (t.ctlOf r).state = .null ∧ t.thrOf r = { deferred := (s.thrOf r).deferred, movedAt := some s.cycle } ∧ (r, { s.thrOf r with stop := none, deferred := [], movedAt := none }) ∈ m.thrs ∧ (∀ a, a < 1024 → mget t.mem (tm.place + 1024 * j + a) = mget s.mem (rowAddr r + a)) ∧
          mread t.mem (tm.place + 1024 * n + 16 * j) 8 = (s.ctlWord r 0).toNat ∧ mread t.mem (tm.place + 1024 * n + 16 * j + 8) 8 = (s.ctlWord r 1).toNat) ∧
        m.held = s.teamHelpers tm ∧ (∀ b ∈ tm.blocks, ∀ x ∈ s.helpersOf b, (b, x.2, x.1) ∈ m.helpers) ∧
        (∀ i, i < 16 → mread t.mem (tm.place + 1040 * n + 8 * i) 8 = (s.barOf tm.cluster (tm.number * 16 + i)).pack.toNat ∧ m.ss[i]? = some (s.barOf tm.cluster (tm.number * 16 + i)).ss ∧ t.barOf tm.cluster (tm.number * 16 + i) = {}) ∧
        ∀ a, a < tm.place ∨ tm.place + len ≤ a → mget t.mem a = mget s.mem a) ∧
    (∀ m, tm.image = some m →
      (s.serviceChoice tm.tenant ≠ some (.restore s.sel.unit) → exec .castleRestore s = .next s) ∧
      (∀ b th, s.serviceChoice tm.tenant = some (.restore s.sel.unit) → tm.blocks = [b] → tm.dlog = 0 → m.streams = [] → m.helpers = [] → m.held = [] → (∀ i, m.ss.getD i false = false) → tm.place + len ≤ 0x8000000000 → m.thrs.find? (fun e => e.1 == b) = some (b, th) →
        let c := ctlOfWords (mread s.mem (tm.place + 1024) 8) (mread s.mem (tm.place + 1032) 8)
        c.state = .held → th.saved = .ready →
        ∃ t, exec .castleRestore s = .next t ∧ (s.runsOn tm.cluster tm.tenant = true → t.ctlOf b = { c with state := .ready, wait := 0, wake := 0 }) ∧ (s.runsOn tm.cluster tm.tenant = false → t.ctlOf b = c ∧ (t.thrOf b).saved = .ready ∧ (t.thrOf b).heldBy = some .switch) ∧ (∀ a, a < 1024 → mget t.mem (rowAddr b + a) = mget s.mem (tm.place + a)) ∧ (∀ a, a < rowAddr b ∨ rowAddr b + 1024 ≤ a → mget t.mem a = mget s.mem a) ∧
          (∀ i, i < 16 → t.barOf tm.cluster (tm.number * 16 + i) = BarWord.unpack (mread s.mem (tm.place + 1040 + 8 * i) 8) (m.ss.getD i false)) ∧
          t.teams = s.teams.set s.sel.unit { tm with image := none, castling := false, shed := false, since := s.cycle, order := s.seq, slot := (s.nodeOf tm.node).slots } ∧ (t.nodeOf tm.node).slots = (s.nodeOf tm.node).slots + 1))

/-- R326 to R328: tenants on a cluster by stride. A tenant with `TICKETS` and a READY row is eligible, one without `TICKETS` is not. At a multiple of `TSLICE` the eligible tenant with the lowest pass, of equals the lowest tag, is chosen: V becomes its pass, the pass rises by 2^20 div `TICKETS`, and a switch begins unless it holds the cluster, once a switch that is under way is over (log 108); a newly eligible tenant starts from V. 60,000 cycles after the choice every row of the departing
tenant is stopped. A core whose rows have closed exchanges its core state with the arriving tenant's image, whose 8 KiB are written to their place, and after the last core the cluster is held by that tenant and its rows go on in the states they were held over, or READY where what they waited for has come. -/
def Sys2Proof.Says.StrideScheduling : Prop :=
  ∀ (s : State) (k : Nat), k < 32 →
    let c := s.cluOf k
    (∀ ten, (s.tenOf ten).tickets = 0 → s.isEligible k ten = false) ∧
    (∀ ten r, (s.tenOf ten).tickets ≠ 0 → (s.ctlOf r).state = .ready → isBase r = false → clusterOf (coreOfRid r) = k → s.rowTenant r = ten → s.isEligible k ten = true) ∧
    (s.sel.unit = k →
      (s.pkg.tslice = 0 ∨ s.cycle % s.pkg.tslice.toNat ≠ 0 ∨ c.choseAt = some s.cycle ∨ s.gangHolder k ≠ none → exec .strideChoice s = .next s) ∧
      (s.pkg.tslice ≠ 0 → s.cycle % s.pkg.tslice.toNat = 0 → c.choseAt ≠ some s.cycle → s.gangHolder k = none →
        ((∀ ten, ten < 64 → s.isEligible k ten = false) → ∃ t, exec .strideChoice s = .next t ∧ { t with clu := s.clu } = s ∧ t.cluOf k = { c with eligible := [], choseAt := some s.cycle }) ∧
        (∀ w, w < 64 → s.isEligible k w = true →
          let pass := fun ten : Nat => if ten ∈ c.eligible then (tget 0 c.passes ten : Nat) else Max.max (tget 0 c.passes ten) c.lastV
          (∀ ten, ten < 64 → s.isEligible k ten = true → pass w < pass ten ∨ (pass w = pass ten ∧ w ≤ ten)) →
          ∃ t, exec .strideChoice s = .next t ∧ { t with clu := s.clu } = s ∧ (t.cluOf k).lastV = pass w ∧ (tget 0 (t.cluOf k).passes w : Nat) = pass w + 2 ^ 20 / (s.tenOf w).tickets.toNat ∧
            (∀ ten, ten < 64 → ten ≠ w → s.isEligible k ten = true → (tget 0 (t.cluOf k).passes ten : Nat) = pass ten) ∧
            (c.switch = none → c.inGang = false → (t.cluOf k).switch = (if w = c.holder then none else some { old := c.holder, new := w, since := s.cycle, gang := false, stopped := false }) ∧ (t.cluOf k).next = none) ∧
            (c.switch ≠ none ∨ c.inGang = true → (t.cluOf k).switch = c.switch ∧ (t.cluOf k).next = some (w, s.cycle)) ∧
            (t.cluOf k).holder = c.holder ∧ ∀ j, j ≠ k → t.cluOf j = s.cluOf j))) ∧
    (∀ w, s.sel.unit = k → c.switch = some w →
      (s.cycle < w.since + 60000 ∨ w.stopped = true ∨ w.gang = true → exec .switchForced s = .next s) ∧
      (w.since + 60000 ≤ s.cycle → w.stopped = false → w.gang = false → NobodyWaits s → ∃ t, exec .switchForced s = .next t ∧ t.mem = s.mem ∧ (t.cluOf k).switch = some { w with stopped := true } ∧ (t.cluOf k).holder = c.holder ∧
        (∀ r, isBase r = false → clusterOf (coreOfRid r) = k → s.rowTenant r = w.old → StoppedFor s t r .switch) ∧ ∀ r, isBase r = true ∨ clusterOf (coreOfRid r) ≠ k ∨ s.rowTenant r ≠ w.old → t.ctlOf r = s.ctlOf r)) ∧
    (∀ w core, s.sel.unit = core → core < 6144 → clusterOf core = k → c.switch = some w → w.gang = false → w.stopped = true → core ∉ w.doneCores →
      (s.coreClosed core = false → exec .switchExchange s = .next s) ∧
      (s.coreClosed core = true → w.new ≠ (s.coreOf core).loaded → ∃ t, exec .switchExchange s = .next t ∧ (∀ q, q < s.imagePlace core (s.coreOf core).loaded false ∨ s.imagePlace core (s.coreOf core).loaded false + 8192 ≤ q → mget t.mem q = mget s.mem q) ∧
        (∀ j, (w.doneCores.length + 1 < 192 → (t.coreOf core).loaded = w.new ∧ (t.coreOf core).cs = tget {} (s.coreOf core).images w.new ∧ tget {} (t.coreOf core).images (s.coreOf core).loaded = (s.coreOf core).cs ∧ (j ≠ core → t.coreOf j = s.coreOf j) ∧ t.ctl = s.ctl ∧ (t.cluOf k).switch = some { w with doneCores := core :: w.doneCores })) ∧
        (191 ≤ w.doneCores.length → (∀ r, (s.thrOf r).undispatched = false) → (t.cluOf k).holder = w.new ∧ (c.next = none → (t.cluOf k).switch = none) ∧ (∀ v u, c.next = some (v, u) → c.inGang = false → v ≠ w.new → (t.cluOf k).switch = some { old := w.new, new := v, since := u, gang := false, stopped := false }) ∧ (t.coreOf core).loaded = w.new ∧ (t.coreOf core).cs = tget {} (s.coreOf core).images w.new ∧
          ∀ r, isBase r = false → clusterOf (coreOfRid r) = k → s.rowTenant r = w.new → (s.ctlOf r).state = .held → (s.thrOf r).heldBy = some .switch → ((t.ctlOf r).state = (s.thrOf r).saved ∨ ((t.ctlOf r).state = .ready ∧ (s.thrOf r).saved ∈ [.blocked, .sleeping])))))

/-- R329: gang mode. At a multiple of `GTICK` the written `GANGMASK`s take effect, and a cluster whose holder changes begins a switch with every row of the departing tenant stopped: to the lowest tenant whose enabled mask names the cluster while n mod `PER` < `ON`, and back to the stride side afterwards. Each core spills 128 cycles after it has closed; a die all of whose cores have spilled loads the arriving image in 128 cycles and releases its
rows. After 4,096 cycles a die that has not spilled is late, and is counted and recorded; after 16,384 a row of it that is still OPEN is stopped, and with `P` = 1 takes a `PACKET` trap. -/
def Sys2Proof.Says.GangMode : Prop :=
  ∀ s : State,
    let names := fun (k g : Nat) => (s.tenOf g).gangmask.getLsbD 63 = true ∧ (s.tenOf g).gangmask.getLsbD k = true ∧ s.cycle / s.pkg.gtick.toNat % ((s.tenOf g).gangmask.toNat / 2 ^ 48 % 256) < (s.tenOf g).gangmask.toNat / 2 ^ 40 % 256
    (s.cycle % s.pkg.gtick.toNat ≠ 0 ∨ s.pkg.gangAt = some s.cycle → exec .gangTick s = .next s) ∧
    (s.cycle % s.pkg.gtick.toNat = 0 → s.pkg.gangAt ≠ some s.cycle → ∃ t, exec .gangTick s = .next t ∧ t.mem = s.mem ∧ (∀ g, t.tenOf g = { s.tenOf g with gangNow := (s.tenOf g).gangmask }) ∧ t.pkg = { s.pkg with gangAt := some s.cycle } ∧
      (∀ k g, k < 32 → g < 64 → names k g → (∀ h, h < g → ¬ names k h) → (s.cluOf k).switch = none → (s.cluOf k).next = none → (s.cluOf k).inGang = false → (t.cluOf k).inGang = true ∧ (t.cluOf k).strideSide = (s.cluOf k).holder ∧
        (g ≠ (s.cluOf k).holder → (t.cluOf k).switch = some { old := (s.cluOf k).holder, new := g, since := s.cycle, gang := true, stopped := true } ∧ (NobodyWaits s → ∀ r, isBase r = false → clusterOf (coreOfRid r) = k → s.rowTenant r = (s.cluOf k).holder → StoppedFor s t r .gang)) ∧
        (g = (s.cluOf k).holder → (t.cluOf k).switch = none)) ∧
      (∀ k, k < 32 → (∀ g, g < 64 → ¬ names k g) → (s.cluOf k).switch = none → (s.cluOf k).inGang = true → (t.cluOf k).inGang = false ∧
        ((s.cluOf k).strideSide ≠ (s.cluOf k).holder → (t.cluOf k).switch = some { old := (s.cluOf k).holder, new := (s.cluOf k).strideSide, since := s.cycle, gang := true, stopped := true }))) ∧
    (∀ w, (s.cluOf (clusterOf s.sel.unit)).switch = some w →
      let c := s.coreOf s.sel.unit
      (w.gang = false ∨ c.spilled = true ∨ s.coreClosed s.sel.unit = false → exec .gangSpill s = .next s) ∧
      (w.gang = true → c.spilled = false → s.coreClosed s.sel.unit = true → 
        (c.spillAt = none → ∃ t, exec .gangSpill s = .next t ∧ OnlyCore s t s.sel.unit ∧ t.coreOf s.sel.unit = { c with spillAt := some (s.cycle + 128) }) ∧
        (∀ u, c.spillAt = some u → (s.cycle < u → exec .gangSpill s = .next s) ∧ (u ≤ s.cycle → ∃ t, exec .gangSpill s = .next t ∧ t.coreOf s.sel.unit = { c with spilled := true, spillAt := none } ∧ (∀ j, j ≠ s.sel.unit → t.coreOf j = s.coreOf j) ∧ t.ctl = s.ctl ∧ t.clu = s.clu ∧
          let p := s.imagePlace s.sel.unit c.loaded true
          ∀ q, q < p ∨ p + 8192 ≤ q → mget t.mem q = mget s.mem q)))) ∧
    (let die := s.sel.unit
     (s.dieSwitching die = [] ∨ s.dieSpilled die = false → exec .gangDieLoad s = .next s) ∧
     (s.dieSwitching die ≠ [] → s.dieSpilled die = true → (∀ e ∈ s.pkg.dieLoads, e.1 ≠ die) → ∃ t, exec .gangDieLoad s = .next t ∧ { t with pkg := s.pkg } = s ∧ (tget 0 t.pkg.dieLoads die : Nat) = s.cycle + 128) ∧
     (∀ u, s.dieSwitching die ≠ [] → s.dieSpilled die = true → s.pkg.dieLoads.find? (fun e => e.1 == die) = some (die, u) → u ≤ s.cycle → (∀ r, (s.thrOf r).undispatched = false) → (∀ k, (s.cluOf k).next = none) → ∃ t, exec .gangDieLoad s = .next t ∧
       (∀ q, (∀ k i w, k ∈ s.dieSwitching die → (s.cluOf k).switch = some w → i < 192 → ∀ p ∈ [s.saveArea (k * 192 + i) w.old, rowAddr (ridOf (k * 192 + i) 1976)], q < p ∨ p + 8192 ≤ q) → mget t.mem q = mget s.mem q) ∧
       ∀ k w, k ∈ s.dieSwitching die → (s.cluOf k).switch = some w → (t.cluOf k).holder = w.new ∧ (t.cluOf k).switch = none ∧ (∀ i, i < 192 → (t.coreOf (k * 192 + i)).loaded = w.new ∧ (t.coreOf (k * 192 + i)).spilled = false) ∧
         ∀ r, isBase r = false → clusterOf (coreOfRid r) = k → s.rowTenant r = w.new → (s.ctlOf r).state = .held → (s.thrOf r).heldBy = some .gang → ((t.ctlOf r).state = (s.thrOf r).saved ∨ ((t.ctlOf r).state = .ready ∧ (s.thrOf r).saved ∈ [.blocked, .sleeping])))) ∧
    ((∀ k, k < 32 → (s.cluOf k).switch = none) → exec .gangLate s = .next s) ∧
    (∀ die k w, die < 16 → k ∈ s.dieSwitching die → (s.cluOf k).switch = some w → w.since + 4096 ≤ s.cycle → w.late = false → s.dieSpilled die = false → (∀ e, e < 16 → e ≠ die → s.dieSwitching e = []) →
      ∃ t, exec .gangLate s = .next t ∧ { t with clu := s.clu, pkg := s.pkg } = s ∧ (t.cluOf k).switch = some { w with late := true } ∧ t.pkg = { s.pkg with ganglate := num ((s.pkg.ganglate.toNat / 2 ^ 48 + 1) % 65536 * 2 ^ 48 + die) }) ∧
    (∀ w, s.sel.sub < 2048 → (s.cluOf (clusterOf s.sel.unit)).switch = some w →
      let r := stepRow s
      (w.late = false ∨ s.cycle < w.since + 16384 ∨ s.running r = false ∨ (s.thrOf r).loads ≠ [] → exec .gangForcedStop s = .next s) ∧
      (w.gang = true → w.late = true → w.since + 16384 ≤ s.cycle → AtRest s r → s.rowTenant r = w.old → (s.thrOf r).deferred = [] → (s.thrOf r).stop = none → NobodyWaits s →
        ((s.ctlOf r).p = false → ∃ t, exec .gangForcedStop s = .next t ∧ t.mem = s.mem ∧ (t.ctlOf r).state = .held ∧ (t.thrOf r).saved = .ready ∧ (t.thrOf r).heldBy = some .gang ∧ (t.ctlOf r).pc = (s.ctlOf r).pc) ∧
        ((s.ctlOf r).p = true → ∃ t, exec .gangForcedStop s = .next t ∧ t.mem = s.mem ∧ (t.ctlOf r).state = .held ∧ (t.thrOf r).saved = .faulted ∧ (t.thrOf r).heldBy = some .gang ∧ (t.thrOf r).trapCause = some .packet ∧ (t.thrOf r).undispatched = true ∧ (t.ctlOf r).p = false ∧ (t.thrOf r).packet = none)))

/-! ### Matrix units and near memory -/

namespace Sys2Proof.Says

/-- The head command of a core's matrix queue is `h`, of kind `cmd`, with no wait condition, and the sequencer may run it (12_vector_matrix.md R225, R226), for which it waits for no range-lock entry (log 101); nothing is uncorrectable, and the octet is not BUSY. -/
structure HeadRuns (s : State) (core cmd : Nat) (h : MCmd) (rest : List MCmd) : Prop where
  queue : (s.cs core).mq = h :: rest
  kind : dwBits h.block 0 7 0 = cmd
  noBar : (s.cs core).mqBar = false
  power : (s.quadOf (quadOfCore core)).power = .running
  noWait : dwBits h.block 0 20 20 = 0
  onPackage : core < 6144
  clean : s.uncorr = []
  nobody : NobodyWaits s
  held : s.writeHeld h.id = false
  locked : s.lateFor (clusterOf core) h.id = false
  notBusy : (s.octOf (octetOf core)).busy = false
/-- A head command that has started, with its rows checked. -/
def begun (h : MCmd) : MCmd := if h.checked then h else { h with started := true, checked := true }
/-- The four rows of its accumulator are NULL (R228). -/
def AccNull (s : State) (core : Nat) (b : BitVec 512) : Prop := dwBits b 1 10 0 % 4 = 0 ∧ ∀ i, i < 4 → (s.ctlOf (ridOf core (dwBits b 1 10 0 + i))).state = .null
/-- The head command left the queue: `DONE` is one more, its locks are free (R224, R229). -/
structure HeadDone (s t : State) (core : Nat) (h : MCmd) (rest : List MCmd) : Prop where
  queue : (t.cs core).mq = rest
  done : (t.cs core).mqDone = (s.cs core).mqDone + 1
  locks : (s.cluOf (clusterOf core)).late = [] → (t.cluOf (clusterOf core)).locks = (s.cluOf (clusterOf core)).locks.filter fun l => l.id != h.id
  ctl : t.ctl = s.ctl
/-- Element (m, n) of an accumulator lies in 128-byte rows, eight to a thread row (R222). -/
def accAt (core acc m n : Nat) : Nat := rowAddr (ridOf core (acc + m / 8)) + m % 8 * 128 + 4 * n
def accOf (s : State) (core acc m n : Nat) : Nat := s.peek (accAt core acc m n) 4
/-- Memory outside the four rows of an accumulator is as before. -/
def OnlyAcc (s t : State) (core acc : Nat) : Prop := ∀ a, a < rowAddr (ridOf core acc) ∨ rowAddr (ridOf core acc) + 4096 ≤ a → mget t.mem a = mget s.mem a
/-- The address of the 16-byte unit `u` of line `l` of an operand (R231): base, stride and span code. -/
def unitAt (base ld sw l u : Nat) : Nat := base + l * ld + (u ^^^ (l % 2 ^ sw)) * 16
/-- Bytes of an element of E4M3, E5M2 or BF16, and its format. -/
def elemBytes (f : Nat) : Nat := if f = 5 then 2 else 1
def elemFmt (f : Nat) : Fmt := if f = 3 then e4m3 else if f = 4 then e5m2 else bf16
/-- The value of the element `j` of K-block `kb` on line `l` of such an operand, its units standing at the physical addresses `at'`. -/
def elemAt (s : State) (at' : Nat → Nat → Nat) (f kb l j : Nat) : Val :=
  let o := elemBytes f * (32 * kb + j)
  valOf (elemFmt f) (mread s.mem (at' l (o / 16) + o % 16) (elemBytes f))
/-- `Rne32`, saturating where the context says so (R230). -/
def roundAcc (m : MCtx) (v : Val) : Nat := (rnd fp32 .rne m.sat v).enc
/-- The mailbox slot `tag` of `core`, held by the row `o`, is loaded for the tenant. -/
def SlotHeld (s : State) (core ten tag o : Nat) : Prop := (s.coreOf core).loaded = ten ∧ (s.cs core).mbox.find? (fun e => e.1 == tag) = some (tag, { owner := some o })
/-- It holds the completion. -/
def SlotFilled (t : State) (core tag o status info : Nat) : Prop := ∃ j, tget { owner := none } (t.cs core).mbox tag = { owner := some o, msg := some (num (tag * 2 ^ 56 + status * 2 ^ 48 + info)), order := j }
/-- Bytes of an element of a near-bank command: source and destination (22_near_memory.md R334, R335). -/
def nearDst (b : BitVec 512) : Nat := match dwBits b 0 7 0 with | 0 => if dwBits b 4 32 32 = 1 then 2 else 4 | 1 => 4 | 2 => 2 ^ dwBits b 0 26 24 | _ => 1
def nearSrc (b : BitVec 512) : Nat := match dwBits b 0 7 0 with | 0 => 2 | 1 => if dwBits b 0 26 24 = 1 then 2 else 4 | _ => 1
/-- A bank unit works on its only command `c`, of kind `kind`, which has started and waits for no range-lock entry. -/
structure BankRuns (s : State) (bank kind : Nat) (c : NbCmd) : Prop where
  only : tget [] s.banks bank = [c]
  started : c.started = true
  kind : dwBits c.spec 0 7 0 = kind
  clean : s.uncorr = []
  kept : (s.coreOf (coreOfRid c.rid)).wiped ≤ c.id
  locked : s.lateFor (clusterOfRid c.rid) c.id = false
/-- After an element the command stands at the next one, or has left the bank with its completion. -/
def BankGoesOn (s t : State) (bank : Nat) (c : NbCmd) (c' : NbCmd) (last : Bool) (info : Nat) : Prop :=
  t.ctl = s.ctl ∧ (last = false → tget [] t.banks bank = [c'] ∧ t.core = s.core) ∧
  (last = true → tget [] t.banks bank = [] ∧ ((s.cluOf (clusterOfRid c.rid)).late = [] → (t.cluOf (clusterOfRid c.rid)).locks = (s.cluOf (clusterOfRid c.rid)).locks.filter (fun l => l.id != c.id)) ∧ ∀ o, SlotHeld s (coreOfRid c.rid) c.tenant c.tag o → SlotFilled t (coreOfRid c.rid) c.tag o 0 info)
/-- No cell differs but those of the bytes [pa, pa + n). -/
def OnlyCells (s t : State) (pa n : Nat) : Prop := ∀ a, (∀ i, i < n → a ≠ cellOf (pa + i)) → mget t.mem a = mget s.mem a

end Sys2Proof.Says

/-- 12_vector_matrix.md R223, R227, R229, R235: a segment store to the core's matrix queue window. A block that the pending context does not allow traps `ILLEGAL` with the window's address. Alone and with the earlier accesses done it waits for a place in the queue with `WAIT` 5, for a mailbox slot when it posts, and for its range-lock entries; a 65th entry traps `ACCESS`; then the block joins the queue with its locks. A posting block takes the slot, and `MQPROM` gets its tag and promised cycle. -/
def Sys2Proof.Says.MatrixPush : Prop :=
  ∀ (s s1 s2 : State) (d a b : BitVec 5) (im : BitVec 14) (k : BitVec 2) (ea : W) (pa v core : Nat), (s.ctlOf s.me).p = false → isBase s.me = false → ∀ form : BitVec 14 ⊕ (BitVec 5 × BitVec 2), form = .inl im ∨ form = .inr (b, k) → AddressOf s s1 ea a form →
    s1.seg d.toNat = .ok v → s1.access ea 64 (match form with | .inl _ => .store | .inr _ => .indexed true) = .ok (pa, s2) → regionOf pa = .coreMmio core 0 →
    let i : Instr := match form with | .inl i => .vst d a i | .inr (b, k) => .stxV d a b k
    let x := BitVec.ofNat 512 v
    let c := s2.cs s.myCore
    let posts := dwBits x 0 7 0 = 6 ∧ dwBits x 1 1 1 = 1
    let ranges := cmdRanges (ctxAfter c.mctx c.mq) x
    (blockOk (ctxAfter c.mctx c.mq) x = false → Traps i s .illegal ea) ∧
    (blockOk (ctxAfter c.mctx c.mq) x = true → Settled s2 → s2.vecBusy s.me = false →
      (8 ≤ c.mq.length → exec i s = .next (s.applyStop (.block 5 0 0 none))) ∧
      (c.mq.length < 8 → s2.mayTake s.me (onCore s.myCore) 5 (8 - c.mq.length) = true →
        (posts → s2.slotFor s.me = none → exec i s = .next (s.applyStop (.block 3 0 1 none))) ∧
        (∀ q, (posts → s2.slotFor s.me ≠ none) → s2.commandLocks s.myCluster (s2.rowTenant s.me) (fun _ => true) ranges (accLock s.myCore x) = .error q → Traps i s .access (num q)) ∧
        (∀ (tag : Option Nat) (locks : List Lock), (posts → tag ≠ none ∧ s2.slotFor s.me = tag) → (¬ posts → tag = none) → s2.commandLocks s.myCluster (s2.rowTenant s.me) (fun _ => true) ranges (accLock s.myCore x) = .ok locks →
          (locks ≠ [] → s2.locksGrant s.me locks.length = false → exec i s = .next (s.applyStop (.block 11 0 locks.length none))) ∧
          (locks = [] ∨ s2.locksGrant s.me locks.length = true → ∃ t, exec i s = .next t ∧ t.cur.ended = .completed ∧ t.cur.ending = true ∧ Moves s2 t s.me ∧ PcAndWaiters s2 t s.me ∧ t.mem = s2.mem ∧
            (t.cs s.myCore).mq = c.mq ++ [{ id := s2.seq, block := x, rid := s.me, tag := tag }] ∧ (t.cluOf s.myCluster).locks = (s2.cluOf s.myCluster).locks ++ locks.map (fun l => { l with id := s2.seq, matrix := true }) ∧
            ∀ g, tag = some g → tget { owner := none } (t.cs s.myCore).mbox g = { owner := some s.me } ∧ (t.thrOf s.me).mqprom = num (g * 2 ^ 56 + (s2.cycle + nominalSum c.mctx c.mq + 1) % 2 ^ 56)))))

/-- R225, R226, R230 to R232, R234, R235; 11_formats.md R198: the matrix commands. A head command whose barrier has not reached its target does not start, nor does one that is no command of that kind. `MFMT` sets the context; `MZERO` makes the accumulator zero; `MBIAS` adds v[n], or v[m], to each element, rounded once. A K-block of `MMA`, shown for operands of E4M3, E5M2 and BF16 with K along the line in HBM and no scales, adds to each element the block sum of its 32 products,
rounded, and rounds again; after the last the command is done. `MSIGNAL` makes its arrival and posts its message. -/
def Sys2Proof.Says.MatrixCommands : Prop :=
  ∀ (s : State) (core : Nat) (h : MCmd) (rest : List MCmd), s.sel.unit = core →
    let steps : List (Nat × Instr) := [(1, .mfmt), (2, .mzero), (3, .mma), (3, .mmaKblock), (4, .mout), (5, .mbias), (6, .msignal)]
    let b := h.block
    let acc := dwBits b 1 10 0
    let ten := (s.coreOf core).loaded
    let k := clusterOf core
    let m := (s.cs core).mctx
    ((s.cs core).mq = [] → ∀ p ∈ steps, exec p.2 s = .next s) ∧
    ((s.cs core).mq = h :: rest → ∀ p ∈ steps, dwBits b 0 7 0 ≠ p.1 ∨ (s.cs core).mqBar = true ∨ s.writeHeld h.id = true ∨ s.lateFor (clusterOf core) h.id = true ∨ (h.started = false ∧ dwBits b 0 20 20 = 1 ∧ (tget 0 (s.cs core).tbs (dwBits b 0 19 16) : BitVec 16).toNat < dwBits b 0 63 48) → exec p.2 s = .next s) ∧
    (HeadRuns s core 1 h rest → ∃ t, exec .mfmt s = .next t ∧ HeadDone s t core h rest ∧ t.mem = s.mem ∧
      (t.cs core).mctx = { afmt := dwBits b 1 3 0, bfmt := dwBits b 1 7 4, asm := dwBits b 1 9 8, bsm := dwBits b 1 11 10, sat := decide (dwBits b 1 12 12 = 1), ats := BitVec.ofNat 32 (dwBits b 2 31 0), bts := BitVec.ofNat 32 (dwBits b 2 63 32) }) ∧
    (HeadRuns s core 2 h rest → AccNull s core b → ∃ t, exec .mzero s = .next t ∧ HeadDone s t core h rest ∧ OnlyAcc s t core acc ∧ ∀ i n, i < 32 → n < 32 → accOf t core acc i n = 0) ∧
    (HeadRuns s core 5 h rest → AccNull s core b → dw b 2 % 16 = 0 → ∀ at' : Nat → Nat, (∀ u, u < 8 → Maps s k ten (dw b 2 + 16 * u) (at' u) 16 false) →
      ∃ t, exec .mbias s = .next t ∧ HeadDone s t core h rest ∧ OnlyAcc s t core acc ∧ ∀ i n, i < 32 → n < 32 →
        accOf t core acc i n = roundAcc m ((f32 (accOf s core acc i n)).add false (f32 (let q := if dwBits b 1 16 16 = 1 then i else n; mread s.mem (at' (q / 4) + 4 * (q % 4)) 4)))) ∧
    (HeadRuns s core 3 h rest → AccNull s core b → m.afmt ∈ [3, 4, 5] → m.bfmt ∈ [3, 4, 5] → m.asm = 0 → m.bsm = 0 → dwBits b 3 32 32 = 0 → dwBits b 5 32 32 = 1 → dw b 2 % 16 = 0 → dw b 4 % 16 = 0 → dwBits b 3 31 0 % 16 = 0 → dwBits b 5 31 0 % 16 = 0 → h.pos < dwBits b 1 23 16 →
      ∀ aAt bAt : Nat → Nat → Nat, (∀ l u, l < 32 → u < 2 * elemBytes m.afmt * dwBits b 1 23 16 → Maps s k ten (unitAt (dw b 2) (dwBits b 3 31 0) (dwBits b 3 35 33) l u) (aAt l u) 16 false) →
        (∀ l u, l < 32 → u < 2 * elemBytes m.bfmt * dwBits b 1 23 16 → Maps s k ten (unitAt (dw b 4) (dwBits b 5 31 0) (dwBits b 5 35 33) l u) (bAt l u) 16 false) →
        let summed := fun t : State => OnlyAcc s t core acc ∧ ∀ i n, i < 32 → n < 32 →
          let sum := blockSum ((List.range 32).map fun j => (elemAt s aAt m.afmt h.pos i j).mul (elemAt s bAt m.bfmt h.pos n j))
          accOf t core acc i n = roundAcc m ((f32 (accOf s core acc i n)).add false (if sum.isZero then .fin false 0 1 else f32 (roundAcc m sum)))
        (h.pos + 1 < dwBits b 1 23 16 → ∃ t, exec .mmaKblock s = .next t ∧ summed t ∧ (t.cs core).mq = { begun h with pos := h.pos + 1 } :: rest) ∧
        (h.pos + 1 = dwBits b 1 23 16 → ∀ i ∈ [Instr.mmaKblock, .mma], ∃ t, exec i s = .next t ∧ summed t ∧ HeadDone s t core h rest)) ∧
    (HeadRuns s core 6 h rest → ∃ t, exec .msignal s = .next t ∧ HeadDone s t core h rest ∧ t.mem = s.mem ∧
      (∀ i : Nat, (tget 0 (t.cs core).tbs i : BitVec 16) = tget 0 (s.cs core).tbs i + if dwBits b 1 0 0 = 1 ∧ dwBits b 1 7 4 = i then 1 else 0) ∧ ∀ tag o, h.tag = some tag → SlotHeld s core ten tag o → SlotFilled t core tag o 0 (dwBits b 2 47 0))

/-- R233; 11_formats.md R202: `MOUT` from its first line. Line m of 32 elements goes to `DST` + m × `LD`, converted as a block from row m of the accumulator, or unchanged for FP32; `CLR` leaves the accumulator zero, and otherwise it keeps its value. -/
def Sys2Proof.Says.MatrixOutput : Prop :=
  ∀ (s : State) (core : Nat) (h : MCmd) (rest : List MCmd) (at' : Nat → Nat → Nat), s.sel.unit = core → HeadRuns s core 4 h rest → AccNull s core h.block → h.pos = 0 →
    let b := h.block
    let acc := dwBits b 1 10 0
    let ty := dwBits b 1 18 16
    let units := laneBits ty / 4
    dw b 2 % 16 = 0 → dw b 3 % 16 = 0 → (∀ l u, l < 32 → u < units → Maps s (clusterOf core) (s.coreOf core).loaded (dw b 2 + l * dw b 3 + 16 * u) (at' l u) 16 true) →
    (∀ l u l' u', l < 32 → u < units → l' < 32 → u' < units → (l ≠ l' ∨ u ≠ u') → at' l u + 16 ≤ at' l' u' ∨ at' l' u' + 16 ≤ at' l u) →
    ∃ t, exec .mout s = .next t ∧ HeadDone s t core h rest ∧ (∀ i n, i < 32 → n < 32 → accOf t core acc i n = if dwBits b 1 21 21 = 1 then 0 else accOf s core acc i n) ∧
      (∀ l u, l < 32 → u < units →
        let row := (List.range 32).map fun n => accOf s core acc l n
        let out := if ty = 0 then row else cvtBlock ty (decide (dwBits b 1 20 20 = 1)) (decide (dwBits b 1 19 19 = 1)) false (row.map f32)
        mread t.mem (at' l u) 16 = joinLanes (laneBits ty) out / 2 ^ (128 * u) % 2 ^ 128) ∧
      ∀ a, (a < rowAddr (ridOf core acc) ∨ rowAddr (ridOf core acc) + 4096 ≤ a) → (∀ l u, l < 32 → u < units → a < at' l u ∨ at' l u + 16 ≤ a) → mget t.mem a = mget s.mem a

/-- 22_near_memory.md R334, R336, R340, R341: `NBCMD` of a specification that R334 does not allow traps `ILLEGAL`. Otherwise, alone, with every vector operation landed and its earlier stores visible at the widest scope of its sources, it waits for a mailbox slot and for the range-lock entries of its bank-linear runs, joins the queue of the bank its home address names (bank 0 until it has one: the model's reading, log 79), and promises 300 cycles after the work of the commands before it and its own ceil(N × w ÷ 16) (with the write of `NBRED` counted in w: log 39). `NHSEND` traps `ACCESS` for a selector with a reserved bit, or an entry that is not valid for the tenant; otherwise it waits for a slot and
for a place in the base-die core's queue of 64, and appends its payload and the sender's name. -/
def Sys2Proof.Says.NearWords : Prop :=
  ∀ (s : State) (d a b : BitVec 5) (x : Nat), InThread s → s.seg b.toNat = .ok x →
    let v := BitVec.ofNat 512 x
    let k := s.myCluster
    let ten := s.rowTenant s.me
    let kind := dwBits v 0 7 0
    let width := if kind = 3 then 1 else if kind = 1 ∧ dwBits v 4 34 34 = 0 then nearSrc v else Max.max (nearDst v) (nearSrc v)
    let seen := if s.localSources k ten (nbRanges v) = true then s.storesSeen s.me = true ∧ s.postedDone s.me = true else s.storesHome s.me = true
    let locksOf := s.commandLocks k ten (fun l => isBankLinear l.lo) (nbRanges v) []
    (nbSpecOk v = false → Traps (.nbcmd d b) s .illegal 0) ∧
    (nbSpecOk v = true → MayBeAlone s → s.vecBusy s.me = true ∨ ¬ seen → exec (.nbcmd d b) s = .next (s.applyStop (.stall false))) ∧
    (nbSpecOk v = true → MayBeAlone s → s.vecBusy s.me = false → seen →
      (s.slotFor s.me = none → exec (.nbcmd d b) s = .next (s.applyStop (.block 3 0 1 none))) ∧
      (∀ tag, s.slotFor s.me = some tag →
        (∀ q, locksOf = .error q → Traps (.nbcmd d b) s .access (num q)) ∧
        (∀ locks, locksOf = .ok locks → locks ≠ [] → s.locksGrant s.me locks.length = false → exec (.nbcmd d b) s = .next (s.applyStop (.block 11 0 locks.length none))) ∧
        (∀ locks, locksOf = .ok locks → locks = [] ∨ s.locksGrant s.me locks.length = true → s.dstOpen d.toNat = true →
          let bank := (s.nbBank k ten v).getD 0
          let before := ((tget [] s.banks bank : List NbCmd).map NbCmd.owes).sum
          ∃ t, exec (.nbcmd d b) s = .next t ∧ t.cur.ended = .completed ∧ t.cur.ending = true ∧ Moves s t s.me ∧ PcAndWaiters s t s.me ∧ Produced s t s.me d (num (tag * 2 ^ 56 + (s.cycle + 300 + before + (dwBits v 4 31 0 * width + 15) / 16) % 2 ^ 56)) ∧
            tget [] t.banks bank = tget [] s.banks bank ++ [{ id := s.seq, rid := s.me, tenant := ten, tag := tag, spec := v }] ∧ (∀ o, o ≠ bank → (tget [] t.banks o : List NbCmd) = tget [] s.banks o) ∧
            tget { owner := none } (t.cs s.myCore).mbox tag = { owner := some s.me } ∧ (t.cluOf k).locks = (s.cluOf k).locks ++ locks.map fun l => { l with id := s.seq, matrix := false }))) ∧
    (∀ (y : W) (s1 : State), s.src a.toNat = .ok (y, s1) → s1.vecBusy s.me = false → s1.seg b.toNat = .ok x →
      let n := y.toNat
      let c := n / 256 % 8 * 8 + n / 16 % 8
      let e : W × W := tget (0, 0) (s1.bdcOf c).nhtab (n % 16)
      let refused := 2048 ≤ n ∨ n.testBit 7 = true ∨ e.1.getLsbD 0 = false ∨ e.2.toNat ≠ s1.rowTenant s.me
      (refused → Traps (.nhsend a b) s .access y) ∧
      (¬ refused → Settled s1 → (s1.slotFor s.me = none → exec (.nhsend a b) s = .next (s.applyStop (.block 3 0 1 none))) ∧
        (∀ tag, s1.slotFor s.me = some tag →
          (s1.mayTake s.me (fun _ => true) (0x1B + 256 * c) (64 - (s1.bdcOf c).inq.length) = false → exec (.nhsend a b) s = .next (s.applyStop (.block 1 0x1B c none))) ∧
          (s1.mayTake s.me (fun _ => true) (0x1B + 256 * c) (64 - (s1.bdcOf c).inq.length) = true → ∃ t, exec (.nhsend a b) s = .next t ∧ t.cur.ended = .completed ∧ t.cur.ending = true ∧ Moves s1 t s.me ∧ OnlyPc s1 t s.me ∧ t.mem = s1.mem ∧
            (t.bdcOf c).inq = (s1.bdcOf c).inq ++ [(v, num (coreOfRid s.me * 2048 + rowOfRid s.me), n % 16, tag, s1.rowTenant s.me)] ∧ (∀ o, o ≠ c → t.bdcOf o = s1.bdcOf o) ∧ tget { owner := none } (t.cs s.myCore).mbox tag = { owner := some s.me }))))

/-- R332, R335, R337, R339, R342: the bank units and the start of a handler. One element of a started command: `NBMAC` adds a[i] × b to y[i], rounded once; `NBRED` adds x[i] to its sum, rounded, and writes the sum at the end with `WR`; `NBFILL` writes the pattern; `NBCOPY` copies 16 bytes. After the last element the command leaves, its locks are freed, and its slot gets `STATUS` 0 and, for `NBRED`, the sum. A command whose operand is not compute-capable ends with `STATUS` 0x25 and
writes nothing; one whose home lies in another bank goes there (the model's reading: log 79), and one that waits for range-lock entries does not run (log 101). A base-die core with no handler starts the oldest in its queue, in its private row. -/
def Sys2Proof.Says.NearSteps : Prop :=
  ∀ (s : State) (bank : Nat) (c : NbCmd), s.sel.unit = bank → NobodyWaits s →
    let b := c.spec
    let i := c.pos
    let n := dwBits b 4 31 0
    let last := decide (n ≤ i + 1)
    let next : NbCmd := { c with pos := i + 1 }
    dwBits b 0 43 43 = 0 →
    (BankRuns s bank 0 c → i < n → c.dst % 4 = 0 → c.srcA % 2 = 0 → c.srcB % 2 = 0 →
      let w := nearDst b
      let f := if w = 2 then bf16 else fp32
      let x := if dwBits b 4 33 33 = 1 then dw b 5 % 65536 else s.peek (c.srcB + 2 * i) 2
      ∃ t, exec .nbmac s = .next t ∧ BankGoesOn s t bank c next last 0 ∧ OnlyCells s t (c.dst + w * i) w ∧
        t.peek (c.dst + w * i) w = (rnd f .rne false ((valOf f (s.peek (c.dst + w * i) w)).add false ((valOf bf16 (s.peek (c.srcA + 2 * i) 2)).mul (valOf bf16 x)))).enc) ∧
    (BankRuns s bank 1 c → i < n → c.srcA % 4 = 0 → c.dst % 4 = 0 →
      let w := nearSrc b
      let sum := rne32 ((f32 c.acc).add false (valOf (if w = 2 then bf16 else fp32) (s.peek (c.srcA + w * i) w)))
      ∃ t, exec .nbred s = .next t ∧ BankGoesOn s t bank c { next with acc := sum } last sum ∧
        (if i + 1 = n ∧ dwBits b 4 34 34 = 1 then OnlyCells s t c.dst 4 ∧ t.peek c.dst 4 = sum else t.mem = s.mem)) ∧
    (BankRuns s bank 2 c → i < n → c.dst % 8 = 0 → dwBits b 0 26 24 ≤ 3 →
      let w := nearDst b
      ∃ t, exec .nbfill s = .next t ∧ BankGoesOn s t bank c next last 0 ∧ OnlyCells s t (c.dst + w * i) w ∧ t.peek (c.dst + w * i) w = dw b 5 % 2 ^ (8 * w)) ∧
    (BankRuns s bank 3 c → 16 * i < n → ∃ t, exec .nbcopy s = .next t ∧ BankGoesOn s t bank c next (decide (n ≤ 16 * (i + 1))) 0 ∧ OnlyCells s t (c.dst + 16 * i) 16 ∧
      (0x8000000000 ≤ c.dst → c.dst + 16 * i + 16 ≤ 0x10000000000 → ∀ j, j < 16 → t.peek (c.dst + 16 * i + j) 1 = s.peek (c.srcA + 16 * i + j) 1)) ∧
    (∀ pa o, tget [] s.banks bank = [c] → c.started = false → c.bar = false → s.lateFor (clusterOfRid c.rid) c.id = false → dwBits b 0 7 0 = 2 → isBase c.rid = false → (s.coreOf (coreOfRid c.rid)).wiped ≤ c.id → Maps s (clusterOfRid c.rid) c.tenant (dw b 1) pa 8 true → SlotHeld s (coreOfRid c.rid) c.tenant c.tag o →
      ∃ t, exec .nbfill s = .next t ∧ t.mem = s.mem ∧ tget [] t.banks bank = [] ∧ SlotFilled t (coreOfRid c.rid) c.tag o 0x25 0) ∧
    (∀ p ∈ [((.nbmac : Instr), 0), (.nbred, 1), (.nbfill, 2), (.nbcopy, 3)], ∀ other, tget [] s.banks bank = [c] → c.started = false → c.bar = false → s.lateFor (clusterOfRid c.rid) c.id = false → dwBits b 0 7 0 = p.2 → s.nbBank (clusterOfRid c.rid) c.tenant b = some other → other ≠ bank →
      ∃ t, exec p.1 s = .next t ∧ { t with banks := s.banks } = s ∧ tget [] t.banks bank = [] ∧ tget [] t.banks other = tget [] s.banks other ++ [c]) ∧
    (∀ p ∈ [((.nbmac : Instr), 0), (.nbred, 1), (.nbfill, 2), (.nbcopy, 3)], tget [] s.banks bank = [] ∨ (tget [] s.banks bank = [c] ∧ (dwBits b 0 7 0 ≠ p.2 ∨ s.lateFor (clusterOfRid c.rid) c.id = true)) → exec p.1 s = .next s) ∧
    (let x := s.bdcOf bank
     let rid := 12582912 + bank
     (x.run ≠ none ∨ x.inq = [] → exec .nhHandlerStart s = .next s) ∧
     ∀ payload sender hnd slot ten rest, x.run = none → x.inq = (payload, sender, hnd, slot, ten) :: rest → bank < 64 → hnd < 2 ^ 64 →
       ∃ t, exec .nhHandlerStart s = .next t ∧ t.bdcOf bank = { x with inq := rest, run := some (sender, hnd, slot, ten), bundles := 0, tenant := ten } ∧ t.ctlOf rid = { state := .opened, pc := BitVec.ofNat 57 ((tget (0, 0) x.nhtab hnd : W × W).1.toNat / 4 % 2 ^ 55 * 4) } ∧
         t.greg rid 1 = sender.toNat ∧ t.greg rid 2 = hnd ∧ t.rowGet rid 320 64 = payload.toNat ∧ (∀ j, 3 ≤ j → j < 32 → t.greg rid j = 0) ∧ (∀ r, r ≠ rid → t.ctlOf r = s.ctlOf r) ∧ ∀ q, q < rowAddr rid ∨ rowAddr rid + 384 ≤ q → mget t.mem q = mget s.mem q)

/-! ### The platform: reset, firmware, elevators, links, power, owners -/

namespace Sys2Proof.Says

/-- The answer `r` to the host, and to the package `src`, and nothing else. -/
def AnswersHost (i : Instr) (s : State) (r : Reply) : Prop := exec i s = .next { s with pkg := { s.pkg with hostReplies := s.pkg.hostReplies ++ [r] } }
def AnswersFabric (i : Instr) (s : State) (r : Reply) : Prop := exec i s = .next { s with pkg := { s.pkg with fabReplies := s.pkg.fabReplies ++ [(s.sel.unit, r)] } }
/-- The lines that a sum of sketches of another package may have worked on, with that of an access of more than 8 bytes at `pa` (log 102). -/
def linesWith (s : State) (pa n : Nat) : List Nat := if n ≤ 8 ∨ pa / 64 ∈ s.pkg.farLines then s.pkg.farLines else s.pkg.farLines ++ [pa / 64]
/-- The answer `r` to the package `src` to a read of `n` bytes at `pa`, whose line is noted, and nothing else. -/
def AnswersRead (i : Instr) (s : State) (pa n : Nat) (r : Reply) : Prop :=
  exec i s = .next { s with pkg := { s.pkg with farLines := linesWith s pa n, fabReplies := s.pkg.fabReplies ++ [(s.sel.unit, r)] } }
/-- `n` bytes at `pa`, in one 64-byte line of the interleaved view of HBM, all memory stacks ready. -/
structure HbmBytes (s : State) (pa n : Nat) : Prop where
  inside : InHbm pa n
  some : 1 ≤ n
  line : pa / 64 = (pa + n - 1) / 64
  ready : ∀ i, 32 ≤ i → i < 40 → s.pkg.ready0.getLsbD i = true
/-- Clusters and 64 KiB frames of a tenant's minima (24_tenancy_boot.md R362, R367). -/
def minClusters (s : State) (ten : Nat) : Nat := (s.tenOf ten).tenmin.toNat % 64
def minFrames (s : State) (ten : Nat) : Nat := (s.tenOf ten).tenmin.toNat / 2 ^ 32
/-- What is left of `c` clusters and `f` frames after the tenants of a list, of which those that are not degraded in `t` took their minima. -/
def leftAfter (s t : State) : List Nat → Nat × Nat → Nat × Nat
  | [], x => x
  | u :: l, x => leftAfter s t l (if (t.tenOf u).deg then x else (x.1 - minClusters s u, x.2 - minFrames s u))
/-- The minima of the tenants `l` are recomputed in `t` for `READYMAP0` of `t`. -/
def Recomputed (s t : State) (l : List Nat) : Prop :=
  ∀ a u b, l = a ++ u :: b →
    let x := leftAfter s t a (((List.range 32).filter fun i => t.pkg.ready0.getLsbD i).length, ((List.range 8).filter fun i => t.pkg.ready0.getLsbD (32 + i)).length * 1048576)
    ((t.tenOf u).deg = false ↔ minClusters s u ≤ x.1 ∧ minFrames s u ≤ x.2)
/-- Entry `i` of a tenant's bar, `b`, is the one that the record answered was about. -/
def AnswerFor (s : State) (ten i : Nat) (b : BarEntry) : Prop :=
  (s.tenOf ten).bar[i]? = some b ∧ b.record = some s.sel.unit ∧ ∀ (j : Nat) (c : BarEntry), j < i → (s.tenOf ten).bar[j]? = some c → c.record ≠ some s.sel.unit
/-- Elevator `e` is in retirement's reach: it exists and is ready; its stack has another ready one. -/
def OtherElevator (s : State) (e : Nat) : Prop := ∃ x, x / 4 = e / 4 ∧ x ≠ e ∧ s.pkg.ready1.getLsbD x = true
/-- A row's outbound entries and released packets of its octet that were sent toward `v` go over `w` now. -/
def Resent (s t : State) (oct v w : Nat) : Prop :=
  let new := fun (rid : Nat) (via : Option Nat) => if hubOf rid = oct ∧ via = some v then some w else via
  (∀ k, t.cluOf k = { s.cluOf k with outq := (s.cluOf k).outq.map fun e => { e with via := new e.rid e.via } }) ∧
  ∀ o i, (tget none (t.octOf o).hub i : Option SendBuf) = (tget none (s.octOf o).hub i).map fun b => { b with via := new b.rid b.via }

end Sys2Proof.Says

/-- 01_machine.md R12; the register tables of R33, R273, R330, R357 and R367 give the values: RESET puts the cycle counter, every row, every register and every byte of the package at its reset value. What is not of the package stays: host memory and other packages; and spent one-time keys, the comparisons made, the answers given and the rest of the schedule, which is the model's choice (log 1 and 3). -/
def Sys2Proof.Says.ResetRestores : Prop :=
  ∀ s : State, ∃ t, exec .reset s = .next t ∧
    { t with mem := State.reset.mem, uncorr := State.reset.uncorr, pkg := State.reset.pkg, schedule := State.reset.schedule, seq := State.reset.seq } = State.reset ∧
    { t.pkg with lmsUsed := 0, compares := 0, spdmLog := [], hostReplies := [], fabReplies := [] } = State.reset.pkg ∧ t.pkg.lmsUsed = s.pkg.lmsUsed ∧
    (∀ a, mget t.mem a = if outsidePkg a then mget s.mem a else mget State.reset.mem a) ∧ t.schedule = s.schedule

/-- 24_tenancy_boot.md R364 to R366: a firmware image is accepted, once, when both its signatures verify and its version is at least `FWSVN`, which rises to it; otherwise no function is ready (that an image is accepted once, and functions become ready only after it, is the model's reading, log 23; whether an image verifies is a free value, so a closed state shows the refused and the second image only). A measurement report of the accepted image, `FWSVN` and the fuses with both signatures is given while one-time keys are left, and uses one; after 2^20 the request is refused. A function that completes its self-test once an image has been accepted, or is
retired, sets or clears its own bit of `READYMAP`; where the bit is that of a cluster or a memory stack and changes, the minima are recomputed (R362): in order of admission each tenant takes its clusters and frames while what is left covers both, a tenant that cannot be honoured is degraded and takes nothing, the later ones still being tried (log 24), and a newly degraded one gets a record of type 9. -/
def Obligations.FirmwareAndReadiness : Prop :=
  ∀ s : State,
    let img := s.sel.unit
    let good := Config.ecdsaOk img = true ∧ Config.lmsOk img = true ∧ s.pkg.fwsvn.toNat ≤ (Config.imageVersion img).toNat
    (s.pkg.firmware ≠ none → exec .firmwareImage s = .next s) ∧
    (s.pkg.firmware = none → good → exec .firmwareImage s = .next { s with pkg := { s.pkg with firmware := some (Config.imageHash img), fwsvn := Config.imageVersion img } }) ∧
    (s.pkg.firmware = none → ¬ good → exec .firmwareImage s = .next { s with pkg := { s.pkg with ready0 := 0, ready1 := 0 } }) ∧
    (s.pkg.lmsUsed < 1048576 → exec .spdmRequest s = .next { s with pkg := { s.pkg with lmsUsed := s.pkg.lmsUsed + 1, spdmLog := s.pkg.spdmLog ++ [some { firmware := s.pkg.firmware, svn := s.pkg.fwsvn, fuses := Config.fuses, signatures := Config.signature s.sel.unit s.pkg.lmsUsed s.pkg.firmware s.pkg.fwsvn }] } }) ∧
    (1048576 ≤ s.pkg.lmsUsed → exec .spdmRequest s = .next { s with pkg := { s.pkg with spdmLog := s.pkg.spdmLog ++ [none] } }) ∧
    (s.pkg.firmware = none → exec .functionReady s = .next s) ∧
    (s.pkg.firmware ≠ none → s.sel.unit = 1 → s.sel.sub < 50 → exec .functionReady s = .next { s with pkg := { s.pkg with ready1 := s.pkg.ready1 ||| BitVec.ofNat 64 (2 ^ s.sel.sub) } }) ∧
    (s.sel.unit = 0 → ∀ f ∈ [((.functionReady : Instr), true), (.functionRetire, false)], (f.2 = true → s.pkg.firmware ≠ none) →
      (s.sel.sub < 58 → ∃ t, exec f.1 s = .next t ∧ { t with pkg := s.pkg, ten := s.ten } = s ∧ { t.pkg with ready0 := s.pkg.ready0, hfrHeld := s.pkg.hfrHeld, hfrNextId := s.pkg.hfrNextId } = s.pkg ∧
        (∀ j, t.pkg.ready0.getLsbD j = if j = s.sel.sub then f.2 else s.pkg.ready0.getLsbD j) ∧ (∀ u, t.tenOf u = { s.tenOf u with deg := (t.tenOf u).deg }) ∧ (∀ u, (s.tenOf u).tenmin = 0 → t.tenOf u = s.tenOf u) ∧
        (40 ≤ s.sel.sub ∨ s.pkg.ready0.getLsbD s.sel.sub = f.2 → t.ten = s.ten ∧ t.pkg.hfrHeld = s.pkg.hfrHeld) ∧
        (∀ l : List Nat, s.sel.sub < 40 → s.pkg.ready0.getLsbD s.sel.sub ≠ f.2 → (∀ u, u ∈ l ↔ u < 64 ∧ (s.tenOf u).tenmin ≠ 0) → l.Pairwise (fun u v => (s.tenOf u).admission.toNat < (s.tenOf v).admission.toNat) →
          Recomputed s t l ∧ t.pkg.hfrHeld.map (fun r => (r.ty, r.ten)) = s.pkg.hfrHeld.map (fun r => (r.ty, r.ten)) ++ (l.filter fun u => !(s.tenOf u).deg && (t.tenOf u).deg).map fun u => (9, u))) ∧
      (58 ≤ s.sel.sub → exec f.1 s = .next s))

/-- 23_stack_fabric.md R349 to R354: an elevator that retires clears its bit of `READYMAP1`. In hardware mode every route of its stack that names it is rewritten: a retired primary gives way to the secondary, and the secondary becomes the lowest ready elevator of the stack other than the new primary; in host-assisted mode a record of type 6 is posted. With the last ready elevator of a stack, its clusters' bits of `READYMAP0` clear.
A packet that is not acknowledged and was sent toward a retired elevator goes over its octet's route as it is now, in its place. A wavelength that is dropped is recorded, to the host in its mode, and the port whose last wavelength goes is no longer ready, nor is a port after 16 failed retries of a flit in a row (that fibre f is of port f div 12, a record for each dropped wavelength, and the payloads of these records are the model's choices: log 38, 26 and 30). -/
def Obligations.ElevatorsAndLinks : Prop :=
  ∀ s : State,
    let u := s.sel.unit
    (∀ f ∈ [((.elevatorRetire : Instr), u), (.functionRetire, s.sel.sub)], (f.1 = .functionRetire → u = 1) →
      let e := f.2
      (50 ≤ e ∨ s.pkg.ready1.getLsbD e = false → exec f.1 s = .next s) ∧
      (e < 50 → s.pkg.ready1.getLsbD e = true → ∃ t, exec f.1 s = .next t ∧ { t with pkg := s.pkg, oct := s.oct, ten := s.ten } = s ∧ (∀ j, t.pkg.ready1.getLsbD j = if j = e then false else s.pkg.ready1.getLsbD j) ∧
        (32 ≤ e ∨ OtherElevator s e → t.pkg.ready0 = s.pkg.ready0 ∧ t.ten = s.ten) ∧
        (e < 32 → ¬ OtherElevator s e → ∀ j, t.pkg.ready0.getLsbD j = if j / 4 = e / 4 then false else s.pkg.ready0.getLsbD j) ∧
        (s.pkg.fnmode.getLsbD 5 = true → t.oct = s.oct ∧ (32 ≤ e ∨ OtherElevator s e → t.pkg.hfrHeld = s.pkg.hfrHeld ++ [{ ty := 6, ten := 0, rid := s.pkg.hfrNextId, payload := [num e] }])) ∧
        (s.pkg.fnmode.getLsbD 5 = false → (∀ oct, { t.octOf oct with route := (s.octOf oct).route } = s.octOf oct) ∧ ∀ oct p q, oct < 768 → s.routeOf oct = (p, q) →
          (oct / 96 ≠ e / 4 ∨ 32 ≤ e ∨ (p.toNat ≠ e ∧ q.toNat ≠ e) → t.routeOf oct = (p, q)) ∧
          (oct / 96 = e / 4 → e < 32 → (p.toNat = e ∨ q.toNat = e) →
            let new := if p.toNat = e then q else p
            (t.routeOf oct).1 = new ∧ ∀ x, x < 4 → t.pkg.ready1.getLsbD (4 * (e / 4) + x) = true → 4 * (e / 4) + x ≠ new.toNat → (∀ y, y < x → t.pkg.ready1.getLsbD (4 * (e / 4) + y) = false ∨ 4 * (e / 4) + y = new.toNat) →
              (t.routeOf oct).2.toNat = 4 * (e / 4) + x)))) ∧
    ((∀ rid v, s.unacked[u]? = some (rid, some v) → s.pkg.ready1.getLsbD v = true) → exec .packetRetry s = .next s) ∧
    (∀ rid v p q, s.unacked[u]? = some (rid, some v) → s.pkg.ready1.getLsbD v = false → s.routeOf (hubOf rid) = (p, q) →
      ∃ t, exec .packetRetry s = .next t ∧ { t with clu := s.clu, oct := s.oct } = s ∧ Resent s t (hubOf rid) v (if s.pkg.ready1.getLsbD p.toNat then p.toNat else q.toNat)) ∧
    (192 ≤ u ∨ 24 ≤ s.sel.sub → exec .wavelengthDrop s = .next s) ∧
    (u < 192 → s.sel.sub < 24 → ∃ t, exec .wavelengthDrop s = .next t ∧ { t with pkg := s.pkg } = s ∧
      (∀ f j, (tget 0 t.pkg.lambdas f : BitVec 24).getLsbD j = ((tget 0 s.pkg.lambdas f : BitVec 24).getLsbD j || decide (f = u ∧ j = s.sel.sub))) ∧
      t.pkg.hfrHeld = s.pkg.hfrHeld ++ (if s.pkg.fnmode.getLsbD 6 then [{ ty := 7, ten := 0, rid := s.pkg.hfrNextId, payload := [num u, num s.sel.sub] }] else []) ∧
      ∀ j, t.pkg.ready0.getLsbD j = true ↔ s.pkg.ready0.getLsbD j = true ∧ ¬ (j = 40 + u / 12 ∧ ∀ i, i < 12 → (tget 0 t.pkg.lambdas (u / 12 * 12 + i) : BitVec 24) = BitVec.allOnes 24)) ∧
    (16 ≤ u → exec .flitRetry s = .next s) ∧
    (u < 16 → ∃ t, exec .flitRetry s = .next t ∧ { t with pkg := s.pkg } = s ∧ (∀ p, p ≠ u → (tget 0 t.pkg.flitRetries p : Nat) = tget 0 s.pkg.flitRetries p) ∧
      (tget 0 t.pkg.flitRetries u : Nat) = (if s.sel.flag ∨ tget 0 s.pkg.flitRetries u = 15 then 0 else tget 0 s.pkg.flitRetries u + 1) ∧
      ∀ j, t.pkg.ready0.getLsbD j = (s.pkg.ready0.getLsbD j && !decide (j = 40 + u ∧ s.sel.flag = false ∧ tget 0 s.pkg.flitRetries u = 15)))

/-- 23_stack_fabric.md R356; 01_machine.md R21: the host reads and writes the package: HBM through CXL.mem while a link is ready or through the service window, registers through the window (that it does so by 1, 2, 4 or 8 aligned bytes, and what each way reaches, is the model's choice, log 32); a read of an uncorrectable word is aborted, and anything else is an unsupported request.
The oldest held record is written at `HFRTAIL` of the host fault ring while the ring has room, and `HFRTAIL` rises; an answer of the host to a record about an item at a tenant's bar marks it serviced or refused, and no record asks about the page again while no other item of the bar waits for its service. -/
def Sys2Proof.Says.HostLink : Prop :=
  ∀ s : State,
    let pa := s.sel.unit
    let n := s.sel.sub
    (0x2000000_0000 ≤ pa ∨ (n ≠ 1 ∧ n ≠ 2 ∧ n ≠ 4 ∧ n ≠ 8) ∨ pa % n ≠ 0 → AnswersHost .hostAccess s .unsupported) ∧
    (InHbm pa n → s.sel.flag2 = false → s.pkg.ready0.getLsbD 56 = false → s.pkg.ready0.getLsbD 57 = false → AnswersHost .hostAccess s .unsupported) ∧
    (HbmBytes s pa n → n ∈ [1, 2, 4, 8] → pa % n = 0 → (s.sel.flag2 = true ∨ s.pkg.ready0.getLsbD 56 = true ∨ s.pkg.ready0.getLsbD 57 = true) →
      (s.sel.flag = false → (s.uncorrAt pa n ≠ none → AnswersHost .hostAccess s .abort) ∧ (s.uncorrAt pa n = none → AnswersHost .hostAccess s (.data (s.peek pa n)))) ∧
      (s.sel.flag = true → ∃ t, exec .hostAccess s = .next t ∧ { t with mem := s.mem, uncorr := s.uncorr, pkg := s.pkg } = s ∧ t.pkg = { s.pkg with hostReplies := s.pkg.hostReplies ++ [.done] } ∧ t.peek pa n = s.sel.data.toNat % 2 ^ (8 * n) ∧
        ∀ a, a < cellOf pa ∨ cellOf pa + n ≤ a → mget t.mem a = mget s.mem a)) ∧
    (pa = 0x1F00000_0000 + 0xA0 → n = 8 →
      (s.sel.flag2 = false → AnswersHost .hostAccess s .unsupported) ∧
      (s.sel.flag2 = true → s.sel.flag = false → AnswersHost .hostAccess s (.data s.pkg.pwrcap.toNat)) ∧
      (s.sel.flag2 = true → s.sel.flag = true → 1000 ≤ s.sel.data.toNat % 65536 → exec .hostAccess s = .next { s with pkg := { s.pkg with pwrcap := BitVec.ofNat 16 s.sel.data.toNat, hostReplies := s.pkg.hostReplies ++ [.done] } })) ∧
    (let log := s.pkg.hfrbase.toNat % 32
     let at' := s.pkg.hfrbase.toNat / 64 % 2 ^ 51 * 64 + 64 * (s.pkg.hfrtail.toNat % 2 ^ log)
     (s.pkg.hfrHeld = [] ∨ log = 0 ∨ 2 ^ log ≤ (s.pkg.hfrtail - s.pkg.hfrhead).toNat → exec .hfrRecord s = .next s) ∧
     (∀ r rest, s.pkg.hfrHeld = r :: rest → log ≠ 0 → (s.pkg.hfrtail - s.pkg.hfrhead).toNat < 2 ^ log → 0x2000000_0000 ≤ at' → at' < 0x4000000_0000 → r.ty < 256 → r.ten < 256 → r.rid < 65536 → r.payload.length ≤ 7 →
       ∃ t, exec .hfrRecord s = .next t ∧ { t with mem := s.mem, pkg := s.pkg } = s ∧ t.pkg = { s.pkg with hfrHeld := rest, hfrtail := s.pkg.hfrtail + 1 } ∧ t.peek at' 8 = r.ty * 2 ^ 56 + r.ten * 2 ^ 48 + r.rid * 2 ^ 32 ∧
         (∀ i, i < 7 → t.peek (at' + 8 + 8 * i) 8 = (r.payload.getD i 0).toNat) ∧ ∀ a, a < at' ∨ at' + 64 ≤ a → mget t.mem a = mget s.mem a)) ∧
    (∀ f ∈ [((.hfrrespServiced : Instr), true), (.hfrrespFailed, false)],
      (65536 ≤ s.sel.unit ∨ (∀ e ∈ s.pkg.hfrOpen, e.1 ≠ s.sel.unit) → exec f.1 s = .next s) ∧
      (∀ ten i (b : BarEntry), s.sel.unit < 65536 → s.pkg.hfrOpen.find? (fun e => e.1 == s.sel.unit) = some (s.sel.unit, .bar ten) → AnswerFor s ten i b →
        ∃ t, exec f.1 s = .next t ∧ t.mem = s.mem ∧ (f.2 = false ∨ NobodyWaits s → t.ctl = s.ctl) ∧ (∀ v, v ≠ ten → t.tenOf v = s.tenOf v) ∧
        (∃ b' : BarEntry, (t.tenOf ten).bar[i]? = some b' ∧ { b' with need := b.need } = { b with record := none, served := f.2, refused := !f.2, order := s.seq } ∧ (f.2 = false → b'.need = b.need)) ∧
        (∀ (j : Nat) (c : BarEntry), j ≠ i → (s.tenOf ten).bar[j]? = some c → ∃ r, (t.tenOf ten).bar[j]? = some { c with record := r } ∧ (c.record ≠ none ∨ c.va / 65536 ≠ b.va / 65536 → r = c.record)) ∧
        ((∀ (j : Nat) (c : BarEntry), j ≠ i → (s.tenOf ten).bar[j]? = some c → c.va / 65536 = b.va / 65536 → c.far = true ∨ c.served = true ∨ c.refused = true ∨ c.host = false) →
          t.pkg = { s.pkg with hfrOpen := s.pkg.hfrOpen.filter fun e => e.1 != s.sel.unit })))

/-- R353 (channels `REQ`, `XLAT`, `MSG`), 18_sketches.md R313, 24_tenancy_boot.md R358: requests of another package. A load, a store and an atomic of bytes of one line of HBM act there and are answered; an address that names no target of this package is unsupported, a bank of another tenant denied, an uncorrectable word aborted. A request for an array is translated for its tenant first: a missing permission is answered with a fault, and any other failure goes to the tenant's bar as well.
An addition to a counter is one step here, clamped, and answered with the counter as it was (R314). That the line of an access of more than 8 bytes is noted, so that stores there are decided word by word (R313), is the model's choice (log 102).
A packet for a NULL or EXITED row is dropped and counted, one that the receive queue has no room for stays, and another is received; which answers are sent is the model's choice where the spec names none (log 11). -/
def Sys2Proof.Says.FabricRequests : Prop :=
  ∀ s : State,
    (320 ≤ s.sel.unit ∨ s.sel.unit = s.pkg.pkgid.toNat → exec .fabricRequest s = .next s) ∧
    (s.sel.unit < 320 → s.sel.unit ≠ s.pkg.pkgid.toNat →
      (∀ ten pa n, s.sel.req = .load ten pa n → (0x4000000_0000 ≤ pa → AnswersFabric .fabricRequest s .unsupported) ∧
        (HbmBytes s pa n → n ≤ 64 → (s.uncorrAt pa n = none → AnswersRead .fabricRequest s pa n (.data (s.peek pa n))) ∧ (s.uncorrAt pa n ≠ none → AnswersRead .fabricRequest s pa n .abort)) ∧
        (∀ row off, regionOf pa = .rowStore row off → 1 ≤ n → n ≤ 64 → pa / 64 = (pa + n - 1) / 64 → s.assigned none pa = true → ten ≠ 0 → (s.octOf (hubOf row)).tag.toNat ≠ ten → AnswersFabric .fabricRequest s .denied)) ∧
      (∀ ten pa n v, s.sel.req = .store ten pa n v → HbmBytes s pa n → n ≤ 64 → ∃ t, exec .fabricRequest s = .next t ∧ { t with mem := s.mem, uncorr := s.uncorr, pkg := s.pkg } = s ∧
        t.pkg = { s.pkg with farLines := linesWith s pa n, fabReplies := s.pkg.fabReplies ++ [(s.sel.unit, .done)] } ∧ t.peek pa n = v % 2 ^ (8 * n) ∧ ∀ a, a < cellOf pa ∨ cellOf pa + n ≤ a → mget t.mem a = mget s.mem a) ∧
      (∀ ten aop pa n x e, s.sel.req = .atomic ten aop pa n x e → HbmBytes s pa n → n = 4 ∨ n = 8 → pa % n = 0 →
        (9 < aop → AnswersFabric .fabricRequest s .unsupported) ∧
        (aop ≤ 9 → s.uncorrAt pa n = none → ∃ t, exec .fabricRequest s = .next t ∧ { t with mem := s.mem, pkg := s.pkg } = s ∧ t.pkg = { s.pkg with fabReplies := s.pkg.fabReplies ++ [(s.sel.unit, .data (s.peek pa n))] } ∧
          t.peek pa n = atomNew aop n (s.peek pa n) x e ∧ ∀ a, a < cellOf pa ∨ cellOf pa + n ≤ a → mget t.mem a = mget s.mem a)) ∧
      (∀ ten va n data, s.sel.req = .array ten va n data → 1 ≤ n → n ≤ 64 → va / 64 = (va + n - 1) / 64 →
        (∀ x, s.engXlat fabCluster ten va data.isSome = .error x → (x.cause = .perm → AnswersFabric .fabricRequest s (.fault .perm)) ∧
          (x.cause ≠ .perm → ∃ t, exec .fabricRequest s = .next t ∧ t.mem = s.mem ∧ t.pkg.fabReplies = s.pkg.fabReplies ++ [(s.sel.unit, .fault x.cause)] ∧ (∀ u, u ≠ ten → t.tenOf u = s.tenOf u) ∧
            (t.tenOf ten).bar.length = (s.tenOf ten).bar.length + 1 ∧ ∃ b : BarEntry, (t.tenOf ten).bar[(s.tenOf ten).bar.length]? = some b ∧ b.what = .fabric s.sel.unit ∧ b.cause = x.cause ∧ b.va = x.va)) ∧
        (∀ pa e s1, s.engXlat fabCluster ten va data.isSome = .ok (pa, e, s1) → HbmBytes s1 pa n →
          (data = none → s1.uncorrAt pa n = none → ∃ t, exec .fabricRequest s = .next t ∧ t.mem = s1.mem ∧ t.pkg.fabReplies = s1.pkg.fabReplies ++ [(s.sel.unit, .data (s1.peek pa n))]) ∧
          (∀ v, data = some v → ∃ t, exec .fabricRequest s = .next t ∧ t.pkg.fabReplies = s1.pkg.fabReplies ++ [(s.sel.unit, .done)] ∧ t.peek pa n = v % 2 ^ (8 * n) ∧ ∀ a, a < cellOf pa ∨ cellOf pa + n ≤ a → mget t.mem a = mget s1.mem a))) ∧
      (∀ ten va width addend, s.sel.req = .add ten va width addend → width = 16 ∨ width = 32 → va % (width / 8) = 0 →
        ∀ pa e s1 pa' e' s2, s.engXlat fabCluster ten va false = .ok (pa', e', s1) → s1.engXlat fabCluster ten va true = .ok (pa, e, s2) → HbmBytes s2 pa (width / 8) → s2.uncorrAt pa (width / 8) = none →
          let k : Sketch := { sketchOf 0 with width := width }
          ∃ t, exec .fabricRequest s = .next t ∧ t.pkg.fabReplies = s2.pkg.fabReplies ++ [(s.sel.unit, .data (s2.peek pa (width / 8)))] ∧
            t.peek pa (width / 8) = ofInt width (k.clamp ((k.value (s2.peek pa (width / 8))).1 + addend)).1 ∧ ∀ a, a < cellOf pa ∨ cellOf pa + width / 8 ≤ a → mget t.mem a = mget s2.mem a) ∧
      (∀ core row dest hdr flits, s.sel.req = .packet core row dest hdr flits → core < 6144 → row < 2048 → dest / 2048 < 6144 → flits.length ≤ 8 →
        let c := dest / 2048
        let r := ridOf c (dest % 2048)
        ((s.ctlOf r).state = .null ∨ (s.ctlOf r).state = .exited → ∃ t, exec .fabricRequest s = .next t ∧ OnlyCore s t c ∧ t.coreOf c = { s.coreOf c with rxdrop := (s.coreOf c).rxdrop + 1 }) ∧
        ((s.ctlOf r).state ≠ .null → (s.ctlOf r).state ≠ .exited → (64 < rxFlits (s.csRow r).rxq + 1 + flits.length → exec .fabricRequest s = .next s) ∧
          (rxFlits (s.csRow r).rxq + 1 + flits.length ≤ 64 → NobodyWaits s → ∃ t, exec .fabricRequest s = .next t ∧ t.mem = s.mem ∧ t.ctl = s.ctl ∧ t.pkg = s.pkg ∧
            (t.csRow r).rxq = (s.csRow r).rxq ++ [{ row := dest % 2048, remote := true, pkg := s.sel.unit, core := core, srow := row, hdr := hdr, flits := flits }]))))

/-- 23_stack_fabric.md R347; 24_tenancy_boot.md R363: a GATING quad is GATED once no row of its four cores is OPEN, no port is held and no vector operation is under way. A WAKING quad runs when its 4,096 cycles are over; a gate request that came meanwhile takes effect then. Every 1,200,000 cycles the measured power is compared with `PWRCAP`: above it the controller advances one step, to 9 at most; after ten comparisons in a row below
95 % of it, it retreats one. At step 8 a quad with no READY or OPEN row for 65,536 cycles is gated, and one so gated is ungated after the retreat. -/
def Obligations.QuadPower : Prop :=
  ∀ s : State,
    let q := s.sel.unit
    let closed := fun i : Nat => (∀ e ∈ s.ctl, isBase e.1 = false → coreOfRid e.1 = i → e.2.state ≠ .opened) ∧ (∀ e ∈ (s.coreOf i).ports, e.2 = none) ∧ (s.coreOf i).vq = []
    ((s.quadOf q).power ≠ .gating ∨ (∃ i, i < 4 ∧ ¬ closed (4 * q + i)) → exec .quadGated s = .next s) ∧
    ((s.quadOf q).power = .gating → (∀ i, i < 4 → closed (4 * q + i)) → ∃ t, exec .quadGated s = .next t ∧ { t with quad := s.quad } = s ∧ t.quadOf q = { s.quadOf q with power := .gated } ∧ ∀ p, p ≠ q → t.quadOf p = s.quadOf p) ∧
    ((s.quadOf q).power ≠ .waking ∨ s.cycle < (s.quadOf q).wakeAt → exec .quadWakeDone s = .next s) ∧
    ((s.quadOf q).power = .waking → (s.quadOf q).wakeAt ≤ s.cycle → ∃ t, exec .quadWakeDone s = .next t ∧ t.mem = s.mem ∧ t.ctl = s.ctl ∧ t.core = s.core ∧ t.quadOf q = { s.quadOf q with power := if (s.quadOf q).gateNext then .gating else .running, gateNext := false } ∧
      (∀ p, p ≠ q → t.quadOf p = s.quadOf p) ∧ ((s.quadOf q).gateNext = false → t.thr = s.thr) ∧
      ((s.quadOf q).gateNext = true → ∀ r, (s.ctlOf r).state = .opened → isBase r = false → quadOfCore (coreOfRid r) = q → (t.thrOf r).stop = some ((s.thrOf r).stop.getD .gating))) ∧
    (s.cycle = 0 ∨ s.cycle % 1200000 ≠ 0 ∨ s.pkg.comparedAt = some s.cycle → exec .powerCompare s = .next s) ∧
    (s.cycle ≠ 0 → s.cycle % 1200000 = 0 → s.pkg.comparedAt ≠ some s.cycle → ∃ t, exec .powerCompare s = .next t ∧
      let w := (Config.measuredWatts s.pkg.compares).toNat
      let cap := s.pkg.pwrcap.toNat
      t.pkg.pwrWatts.toNat = w ∧ t.pkg.compares = s.pkg.compares + 1 ∧ t.pkg.comparedAt = some s.cycle ∧ t.pkg.pwrcap = s.pkg.pwrcap ∧
      (cap < w → t.pkg.pwrStep = min 9 (s.pkg.pwrStep + 1) ∧ t.pkg.pwrBelow = 0) ∧
      (w * 100 < cap * 95 → s.pkg.pwrBelow = 9 → t.pkg.pwrStep = s.pkg.pwrStep - 1 ∧ t.pkg.pwrBelow = 0) ∧
      (w * 100 < cap * 95 → s.pkg.pwrBelow ≠ 9 → t.pkg.pwrStep = s.pkg.pwrStep ∧ t.pkg.pwrBelow = s.pkg.pwrBelow + 1) ∧
      (w ≤ cap → cap * 95 ≤ w * 100 → t.pkg.pwrStep = s.pkg.pwrStep ∧ t.pkg.pwrBelow = 0) ∧
      (∀ p, p < 1536 → t.pkg.pwrStep < 8 → t.quadOf p = if (s.quadOf p).shed then (match (s.quadOf p).power with
        | .gating => { s.quadOf p with power := .running, shed := false }
        | .gated => { s.quadOf p with power := .waking, wakeAt := s.cycle + 4096, gateNext := false, shed := false }
        | _ => { s.quadOf p with shed := false }) else s.quadOf p) ∧
      (∀ p, p < 1536 → 8 ≤ t.pkg.pwrStep → (s.quadOf p).power = .running → (s.quadOf p).idleSince + 65536 ≤ s.cycle →
        (∀ e ∈ s.ctl, isBase e.1 = false → quadOfCore (coreOfRid e.1) = p → e.2.state ≠ .ready ∧ e.2.state ≠ .opened) → (t.quadOf p).power = .gating ∧ (t.quadOf p).shed = true) ∧
      (t.pkg.pwrStep < 8 → t.ctl = s.ctl ∧ t.mem = s.mem))

/-- 24_tenancy_boot.md R361, R368: a store to `OCTOWN` of the current tag, or of a BUSY octet, is ignored. A new tag is taken at once, with `BUSY`, permission words of 0 and every row of the octet that is not NULL stopped; the scrub takes 4,096 cycles, or waits for the host, which a record of type 8 asks. Before that, or while a row is OPEN, the scrub does not end. When it ends,
rows, control entries, queues, mailboxes, transfer barriers and the rest of the core state of the octet's cores are as at reset, `BUSY` is 0, and writes that waited have applied. -/
def Obligations.OwnersAndScrub : Prop :=
  ∀ s : State,
    let oct := s.sel.unit
    let o := s.octOf oct
    let tag := BitVec.ofNat 6 s.sel.sub
    (768 ≤ oct ∨ 64 ≤ s.sel.sub ∨ o.busy = true ∨ o.tag = tag → exec .octownReassign s = .next s) ∧
    (oct < 768 → s.sel.sub < 64 → o.busy = false → o.tag ≠ tag → NobodyWaits s → (∀ i u, i < 8 → (s.csOf (oct * 8 + i) u).mq = []) → ∃ t, exec .octownReassign s = .next t ∧ t.mem = s.mem ∧
      t.octOf oct = { o with tag := tag, busy := true, scrubAt := if s.pkg.fnmode.getLsbD 7 then none else some (s.cycle + 4096) } ∧ (∀ p, p ≠ oct → t.octOf p = s.octOf p) ∧
      (∀ i, i < 8 → (t.coreOf (oct * 8 + i)).perm = 0) ∧ (∀ r, isBase r = false → hubOf r = oct → StoppedFor s t r .scrub) ∧ (∀ r, isBase r = true ∨ hubOf r ≠ oct → t.ctlOf r = s.ctlOf r) ∧
      t.pkg = if s.pkg.fnmode.getLsbD 7 then { s.pkg with hfrHeld := s.pkg.hfrHeld ++ [{ ty := 8, ten := s.sel.sub, rid := s.pkg.hfrNextId, payload := [num oct] }], hfrNextId := (s.pkg.hfrNextId + 1) % 65536, hfrOpen := s.pkg.hfrOpen ++ [(s.pkg.hfrNextId, .scrub oct)] } else s.pkg) ∧
    (o.busy = false ∨ o.scrubAt = none ∨ (∃ u, o.scrubAt = some u ∧ s.cycle < u) ∨ (∃ e ∈ s.ctl, isBase e.1 = false ∧ hubOf e.1 = oct ∧ e.2.state = .opened) → exec .scrubDone s = .next s) ∧
    (∀ u, oct < 768 → o.busy = true → o.scrubAt = some u → u ≤ s.cycle → (∀ e ∈ s.ctl, isBase e.1 = false → hubOf e.1 = oct → e.2.state ≠ .opened) → o.heldWrites = [] → (∀ i, i < 8 → (s.coreOf (oct * 8 + i)).streams = []) → (s.cluOf (oct / 24)).nests = [] →
      ∃ t, exec .scrubDone s = .next t ∧ t.octOf oct = { o with busy := false, scrubAt := none } ∧ t.pkg = s.pkg ∧ t.ten = s.ten ∧
        (∀ i, i < 8 → (t.coreOf (oct * 8 + i)).cs = {} ∧ (t.coreOf (oct * 8 + i)).vq = [] ∧ (t.coreOf (oct * 8 + i)).streams = [] ∧ (t.coreOf (oct * 8 + i)).perm = (s.coreOf (oct * 8 + i)).perm) ∧
        (∀ r, isBase r = false → hubOf r = oct → t.ctlOf r = {} ∧ ∀ i, i < 1024 → mget t.mem (rowAddr r + i) = mget State.reset.mem (rowAddr r + i)) ∧
        (∀ r, isBase r = true ∨ hubOf r ≠ oct → t.ctlOf r = s.ctlOf r) ∧ ∀ a, (∀ r, isBase r = false → hubOf r = oct → a < rowAddr r ∨ rowAddr r + 1024 ≤ a) → mget t.mem a = mget s.mem a)

/-! ### Statements put together from the parts above -/

/-- What reset leaves, and what the device step RESET puts back: the parts ResetState and ResetRestores above, whose comments say what each states. -/
def Obligations.ResetRestores : Prop := Says.ResetState ∧ Says.ResetRestores

/-- A bundle that is no instruction traps ILLEGAL at the word the checks name: the parts BadBundleIsUndecodable and UndecodableTraps above, whose comments say what each states. -/
def Obligations.BadBundlesTrap : Prop := Says.BadBundleIsUndecodable ∧ Says.UndecodableTraps

/-- What a scalar source and a bound stream register read: the parts Sources, StreamSources and StreamStep above, whose comments say what each states. -/
def Obligations.Sources : Prop := Says.Sources ∧ Says.StreamSources ∧ Says.StreamStep

/-- NaN, infinity, comparison, minimum, class and sign results of floating-point words: the parts FloatSpecialCases and FloatOrderAndSign above, whose comments say what each states. -/
def Obligations.FloatResults : Prop := Says.FloatSpecialCases ∧ Says.FloatOrderAndSign

/-- Branches and jumps change the program counter as their rules say: the parts Branches and Jumps above, whose comments say what each states. -/
def Obligations.TransfersOfControl : Prop := Says.Branches ∧ Says.Jumps

/-- LDR and STR act on the bytes of the thread's own row: the parts RowLocalLoads and RowLocalStores above, whose comments say what each states. -/
def Obligations.RowLocalAccesses : Prop := Says.RowLocalLoads ∧ Says.RowLocalStores

/-- CYCLE, SETPRI, CHUNK, YIELD and TEXIT; helpers are started and joined: the parts ThreadControl, YieldCloses, HelperStart and HelperJoin above, whose comments say what each states. -/
def Obligations.ThreadControlAndHelpers : Prop := Says.ThreadControl ∧ Says.YieldCloses ∧ Says.HelperStart ∧ Says.HelperJoin

/-- Taking a trap, to the fault queue or a handler, and returning from it: the parts TrapWord, TrapToFaultQueue, TrapToHandler and TrapReturn above, whose comments say what each states. -/
def Obligations.TrapsAndReturn : Prop := Says.TrapWord ∧ Says.TrapToFaultQueue ∧ Says.TrapToHandler ∧ Says.TrapReturn

/-- FENCE.I, TLBINV and PGATE with their checks: the parts FenceI, TlbInvalidate and PowerGate above, whose comments say what each states. -/
def Obligations.SystemWords : Prop := Says.FenceI ∧ Says.TlbInvalidate ∧ Says.PowerGate

/-- Special registers are read and written by CSR words as their table says: the parts CsrReads and CsrWrites above, whose comments say what each states. -/
def Obligations.CsrWords : Prop := Says.CsrReads ∧ Says.CsrWrites

/-- The checks of a thread's memory access and what a translation may change: the parts AccessChecks and AccessLeavesOnlyTranslations above, whose comments say what each states. -/
def Obligations.AccessChecksAndFrame : Prop := Says.AccessChecks ∧ Says.AccessLeavesOnlyTranslations

/-- Scalar loads complete, pending at issue, and what cluster memory reads as: the parts ScalarLoads and ClusterReadBytes above, whose comments say what each states. -/
def Obligations.ScalarLoadsComplete : Prop := Says.ScalarLoads ∧ Says.ClusterReadBytes

/-- Scalar stores and segment accesses store to and read the computed address only: the parts ScalarStores and SegmentAccesses above, whose comments say what each states. -/
def Obligations.StoresAndSegments : Prop := Says.ScalarStores ∧ Says.SegmentAccesses

/-- Atomics give the result of their operation; ordered accesses and fences wait: the parts AtomicResults, Atomics, OrderedAccesses and Fences above, whose comments say what each states. -/
def Obligations.AtomicsAndOrder : Prop := Says.AtomicResults ∧ Says.Atomics ∧ Says.OrderedAccesses ∧ Says.Fences

/-- Device steps of memory: commit, grant, drain and load: the parts ChunkCommits, CommitGrants, OutboundDrains and LoadPerforms above, whose comments say what each states. -/
def Obligations.MemorySteps : Prop := Says.ChunkCommits ∧ Says.CommitGrants ∧ Says.OutboundDrains ∧ Says.LoadPerforms

/-- SEND builds packets and RECV takes them: the parts SendHeader, SendFlits and Receive above, whose comments say what each states. -/
def Obligations.Packets : Prop := Says.SendHeader ∧ Says.SendFlits ∧ Says.Receive

/-- Barrier words, streams and transfer barriers: the parts Barriers and StreamsAndTransferBarriers above, whose comments say what each states. -/
def Obligations.BarriersAndStreams : Prop := Says.Barriers ∧ Says.StreamsAndTransferBarriers

/-- Mailbox words and the device steps that deliver messages: the parts Mailbox and MessageSteps above, whose comments say what each states. -/
def Obligations.MailboxAndMessages : Prop := Says.Mailbox ∧ Says.MessageSteps

/-- Vector arithmetic lane by lane, and on integer lanes two's complement: the parts VectorLanes and VectorIntegerLanes above, whose comments say what each states. -/
def Obligations.VectorLanes : Prop := Says.VectorLanes ∧ Says.VectorIntegerLanes

/-- Vector words with scalar results, and lane movement: the parts VectorToScalar and VectorMoves above, whose comments say what each states. -/
def Obligations.VectorMoves : Prop := Says.VectorToScalar ∧ Says.VectorMoves

/-- Vector conversions and quantization, and the quad's vector unit: the parts VectorConversions and VectorUnit above, whose comments say what each states. -/
def Obligations.VectorConversionsAndUnit : Prop := Says.VectorConversions ∧ Says.VectorUnit

/-- Control-word stores and outside accesses that wait for a boundary: the parts ControlStores and BoundaryAccesses above, whose comments say what each states. -/
def Obligations.ControlStoresAndBoundaries : Prop := Says.ControlStores ∧ Says.BoundaryAccesses

/-- Rows open in priority order and close at the end of a turn or on a stop: the parts RowOpens and RowCloses above, whose comments say what each states. -/
def Obligations.RowsOpenAndClose : Prop := Says.RowOpens ∧ Says.RowCloses

/-- Stores by system software to the mapped registers: the parts ServiceRegisters and RegisterSteps above, whose comments say what each states. -/
def Obligations.RegisterStores : Prop := Says.ServiceRegisters ∧ Says.RegisterSteps

/-- Fault-queue entries, memory scrub and stalemates: the parts FaultQueueAndScrub and Stalemate above, whose comments say what each states. -/
def Obligations.FaultQueuesAndStalemate : Prop := Says.FaultQueueAndScrub ∧ Says.Stalemate

/-- Page walks, and commands that invalidate translations: the parts TranslationWalks and TranslationCommands above, whose comments say what each states. -/
def Obligations.Translation : Prop := Says.TranslationWalks ∧ Says.TranslationCommands

/-- The service of faults at a tenant's bar, and lines of a migrating page: the parts BarService and MigrationLines above, whose comments say what each states. -/
def Obligations.BarAndMigration : Prop := Says.BarService ∧ Says.MigrationLines

/-- Engine commands are issued, started and moved beat by beat: the parts EngineIssue, EngineQueue and EngineTransfers above, whose comments say what each states. -/
def Obligations.Engines : Prop := Says.EngineIssue ∧ Says.EngineQueue ∧ Says.EngineTransfers

/-- Engine reductions, and page commands: the parts EngineReductions and PageCommands above, whose comments say what each states. -/
def Obligations.EngineReductionsAndPages : Prop := Says.EngineReductions ∧ Says.PageCommands

/-- Sketch words, and the header of a defined sketch: the parts SketchWords and SketchDefinition above, whose comments say what each states. -/
def Obligations.SketchWordsAndDefinition : Prop := Says.SketchWords ∧ Says.SketchDefinition

/-- The arithmetic of sketches and the steps of posted operations: the parts SketchArithmetic and SketchSteps above, whose comments say what each states. -/
def Obligations.SketchOperations : Prop := Says.SketchArithmetic ∧ Says.SketchSteps

/-- GDEF defines and GDEL deletes an entry (log 25): the parts CombinatorDefinition and CombinatorDeletion above, whose comments say what each states. -/
def Obligations.CombinatorDefinitions : Prop := Says.CombinatorDefinition ∧ Says.CombinatorDeletion

/-- Nests are applied, controlled and ended: the parts CombinatorApplication, CombinatorControl and LeafEnds above, whose comments say what each states. -/
def Obligations.CombinatorCalls : Prop := Says.CombinatorApplication ∧ Says.CombinatorControl ∧ Says.LeafEnds

/-- Launches and signals, and nodes installed and made ready (log 27): the parts LaunchAndSignal and NodeSignalsAndInstalls above, whose comments say what each states. -/
def Obligations.GraphNodes : Prop := Says.LaunchAndSignal ∧ Says.NodeSignalsAndInstalls

/-- Nodes are dispatched as teams, which end or are castled (log 11): the parts NodesAndTeams and Castling above, whose comments say what each states. -/
def Obligations.TeamsAndCastling : Prop := Says.NodesAndTeams ∧ Says.Castling

/-- Tenants hold a cluster by stride, and in gang mode by their masks: the parts StrideScheduling and GangMode above, whose comments say what each states. -/
def Obligations.TenantsOnAClusterByTurn : Prop := Says.StrideScheduling ∧ Says.GangMode

/-- Matrix commands, from the queue to their output rows: the parts MatrixPush, MatrixCommands and MatrixOutput above, whose comments say what each states. -/
def Obligations.MatrixUnit : Prop := Says.MatrixPush ∧ Says.MatrixCommands ∧ Says.MatrixOutput

/-- Near-memory words, handlers and near-bank commands: the parts NearWords and NearSteps above, whose comments say what each states. -/
def Obligations.NearMemory : Prop := Says.NearWords ∧ Says.NearSteps

/-- The host link and requests of other packages (log 11 where the spec names no answer): the parts HostLink and FabricRequests above, whose comments say what each states. -/
def Obligations.HostAndFabric : Prop := Says.HostLink ∧ Says.FabricRequests
end

