-- ==== Sys2Proof/Laws/Memory.lean ====
section
/-! SUPPORT. Laws of sparse tables and of memory: a read after a write, a read elsewhere, and the canonical form that every memory
operation keeps. -/

namespace Sys2Proof.Machine

/-! ### Tables -/

@[simp] theorem tget_nil {α : Type} (d : α) (i : Nat) : tget d ([] : Tab α) i = d := rfl

theorem tget_tinsert {α : Type} (d v : α) (i j : Nat) : ∀ t : Tab α, (∀ e ∈ t, e.1 ≠ i) →
    tget d (tinsert i v t) j = if i = j then v else tget d t j
  | [], _ => by simp [tinsert, tget]
  | (k, x) :: t, h => by
    have hk : k ≠ i := h (k, x) (by simp)
    have ih := tget_tinsert d v i j t (fun e he => h e (by simp [he]))
    unfold tinsert
    split
    · simp [tget]
    · simp only [tget, ih]
      split <;> split <;> simp_all

theorem tget_terase {α : Type} (d : α) (i j : Nat) : ∀ t : Tab α, tget d (terase t i) j = if i = j then d else tget d t j
  | [] => by simp [terase, tget]
  | (k, x) :: t => by
    have ih := tget_terase d i j t
    unfold terase at ih ⊢
    by_cases hk : k = i
    · subst hk
      simp only [List.filter_cons, bne_self_eq_false, Bool.false_eq_true, ↓reduceIte, ih, tget]
      split <;> simp_all
    · simp only [List.filter_cons, bne_iff_ne, ne_eq, hk, not_false_eq_true, ↓reduceIte, tget, ih]
      split <;> split <;> simp_all

theorem not_mem_terase {α : Type} (i : Nat) (t : Tab α) : ∀ e ∈ terase t i, e.1 ≠ i := by
  intro e he
  simp [terase] at he
  exact he.2

/-- A table read after one index is changed. -/
@[simp] theorem tget_tset {α : Type} (d v : α) (t : Tab α) (i j : Nat) : tget d (tset t i v) j = if i = j then v else tget d t j := by
  unfold tset
  rw [tget_tinsert d v i j _ (not_mem_terase i t), tget_terase]
  split <;> simp_all

/-! ### Parts of the state -/

@[simp] theorem State.ctlOf_setCtl (s : State) (r q : Nat) (c : Ctl) : (s.setCtl r c).ctlOf q = if r = q then c else s.ctlOf q := by
  simp [State.setCtl, State.ctlOf]
@[simp] theorem State.ctlOf_modCtl (s : State) (r q : Nat) (f : Ctl → Ctl) :
    (s.modCtl r f).ctlOf q = if r = q then f (s.ctlOf r) else s.ctlOf q := by simp [State.modCtl]
@[simp] theorem State.thrOf_setThr (s : State) (r q : Nat) (t : Thr) : (s.setThr r t).thrOf q = if r = q then t else s.thrOf q := by
  simp [State.setThr, State.thrOf]
@[simp] theorem State.thrOf_modThr (s : State) (r q : Nat) (f : Thr → Thr) :
    (s.modThr r f).thrOf q = if r = q then f (s.thrOf r) else s.thrOf q := by simp [State.modThr]
@[simp] theorem State.coreOf_setCore (s : State) (c q : Nat) (x : Core) : (s.setCore c x).coreOf q = if c = q then x else s.coreOf q := by
  simp [State.setCore, State.coreOf]
@[simp] theorem State.coreOf_modCore (s : State) (c q : Nat) (f : Core → Core) :
    (s.modCore c f).coreOf q = if c = q then f (s.coreOf c) else s.coreOf q := by simp [State.modCore]
@[simp] theorem State.quadOf_modQuad (s : State) (c q : Nat) (f : Quad → Quad) :
    (s.modQuad c f).quadOf q = if c = q then f (s.quadOf c) else s.quadOf q := by simp [State.modQuad, State.quadOf]
@[simp] theorem State.octOf_modOct (s : State) (c q : Nat) (f : Octet → Octet) :
    (s.modOct c f).octOf q = if c = q then f (s.octOf c) else s.octOf q := by simp [State.modOct, State.octOf]
@[simp] theorem State.cluOf_modClu (s : State) (c q : Nat) (f : Cluster → Cluster) :
    (s.modClu c f).cluOf q = if c = q then f (s.cluOf c) else s.cluOf q := by simp [State.modClu, State.cluOf]
@[simp] theorem State.tenOf_modTen (s : State) (c q : Nat) (f : Tenant → Tenant) :
    (s.modTen c f).tenOf q = if c = q then f (s.tenOf c) else s.tenOf q := by simp [State.modTen, State.tenOf]
@[simp] theorem State.nodeOf_modNode (s : State) (c q : Nat) (f : GraphNode → GraphNode) :
    (s.modNode c f).nodeOf q = if c = q then f (s.nodeOf c) else s.nodeOf q := by simp [State.modNode, State.nodeOf]
@[simp] theorem State.bdcOf_modBdc (s : State) (c q : Nat) (f : BaseCore → BaseCore) :
    (s.modBdc c f).bdcOf q = if c = q then f (s.bdcOf c) else s.bdcOf q := by simp [State.modBdc, State.bdcOf]

/-! ### Bytes of memory -/

/-- A byte read after one byte is written. -/
theorem mget_mset (m : Mem) (a c : Nat) (b : Byte) : mget (mset m a b) c = if a = c then b else mget m c := by
  unfold mset mget
  split
  · rw [tget_terase]; split <;> simp_all
  · simp

theorem mget_mwrite_below (c : Nat) : ∀ (bs : List Byte) (m : Mem) (a : Nat), c < a → mget (mwrite m a bs) c = mget m c
  | [], _, _, _ => rfl
  | b :: bs, m, a, h => by
    simp only [mwrite]
    rw [mget_mwrite_below c bs _ _ (by omega), mget_mset]
    simp [show a ≠ c by omega]

/-- A byte read after bytes are written at ascending addresses. -/
theorem mget_mwrite (c : Nat) : ∀ (bs : List Byte) (m : Mem) (a : Nat),
    mget (mwrite m a bs) c = if a ≤ c ∧ c < a + bs.length then bs.getD (c - a) 0 else mget m c
  | [], _, _ => by simp [mwrite]
  | b :: bs, m, a => by
    simp only [mwrite]
    by_cases h : c ≤ a
    · rcases Nat.lt_or_eq_of_le h with h1 | h1
      · rw [mget_mwrite_below c bs _ _ (by omega), mget_mset]
        simp [show a ≠ c by omega, show ¬(a ≤ c) by omega]
      · subst h1
        rw [mget_mwrite_below c bs _ _ (by omega), mget_mset]
        simp
    · rw [mget_mwrite c bs]
      rw [mget_mset]
      have : c - a = (c - (a + 1)) + 1 := by omega
      simp only [List.length_cons, this, List.getD_cons_succ]
      by_cases h2 : c < a + 1 + bs.length
      · rw [if_pos ⟨by omega, h2⟩, if_pos ⟨by omega, by omega⟩]
      · rw [if_neg (by omega), if_neg (by omega), if_neg (by omega)]

@[simp] theorem bytesOf_length (n : Nat) : ∀ v : Nat, (bytesOf n v).length = n := by
  induction n with
  | zero => intro v; rfl
  | succ n ih => intro v; simp [bytesOf, ih]

/-- A range read from memory that agrees on it. -/
theorem mread_congr (m m' : Mem) : ∀ (n a : Nat), (∀ c, a ≤ c → c < a + n → mget m c = mget m' c) → mread m a n = mread m' a n
  | 0, _, _ => rfl
  | n + 1, a, h => by
    simp only [mread]
    rw [h a (by omega) (by omega), mread_congr m m' n (a + 1) (fun c h1 h2 => h c (by omega) (by omega))]

/-- A range read outside the bytes written. -/
theorem mread_mwrite_of_disjoint (m : Mem) (a c n : Nat) (bs : List Byte) (h : c + n ≤ a ∨ a + bs.length ≤ c) :
    mread (mwrite m a bs) c n = mread m c n := by
  apply mread_congr
  intro x h1 h2
  rw [mget_mwrite, if_neg]
  omega

/-- A range read where its bytes were written. -/
theorem mread_mwrite_bytesOf (n : Nat) : ∀ (m : Mem) (a v : Nat), mread (mwrite m a (bytesOf n v)) a n = v % 2 ^ (8 * n) := by
  induction n with
  | zero => intro m a v; simp [mread, Nat.mod_one]
  | succ n ih =>
    intro m a v
    simp only [bytesOf, mwrite, mread]
    rw [ih, mget_mwrite_below a _ _ _ (by omega), mget_mset]
    simp only [↓reduceIte, BitVec.toNat_ofNat]
    have : 2 ^ (8 * (n + 1)) = 256 * 2 ^ (8 * n) := by rw [show 8 * (n + 1) = 8 + 8 * n by omega, Nat.pow_add]
    rw [this, Nat.mod_mul]

theorem mread_lt (m : Mem) : ∀ (n a : Nat), mread m a n < 2 ^ (8 * n)
  | 0, _ => by simp [mread]
  | n + 1, a => by
    have h := mread_lt m n (a + 1)
    have h2 := (mget m a).isLt
    have : 2 ^ (8 * (n + 1)) = 256 * 2 ^ (8 * n) := by rw [show 8 * (n + 1) = 8 + 8 * n by omega, Nat.pow_add]
    simp only [mread]
    omega

/-! ### The canonical form -/

/-- Every address of a list in canonical form lies above a bound. -/
theorem wfFrom_above : ∀ (m : Mem) (l : Nat), wfFrom (some l) m = true → ∀ e ∈ m, l < e.1
  | [], _, _ => by simp
  | (a, b) :: m, l, h => by
    simp only [wfFrom, Bool.and_eq_true, decide_eq_true_eq] at h
    intro e he
    rcases List.mem_cons.1 he with rfl | he
    · exact h.1.1
    · have := wfFrom_above m a h.2 e he
      omega

/-- A lower bound may be lowered. -/
theorem wfFrom_weaken (o : Option Nat) (m : Mem) (l : Nat) (h : wfFrom (some l) m = true) (ho : ∀ x, o = some x → x ≤ l) :
    wfFrom o m = true := by
  cases m with
  | nil => rfl
  | cons e m =>
    obtain ⟨a, b⟩ := e
    simp only [wfFrom, Bool.and_eq_true, decide_eq_true_eq] at h ⊢
    refine ⟨⟨?_, h.1.2⟩, h.2⟩
    cases o with
    | none => rfl
    | some x => have := ho x rfl; simp; omega

theorem wfFrom_filter (p : Host.Cell → Bool) : ∀ (m : Mem) (o : Option Nat), wfFrom o m = true → wfFrom o (m.filter p) = true
  | [], _, _ => rfl
  | (a, b) :: m, o, h => by
    have h' := h
    simp only [wfFrom, Bool.and_eq_true] at h
    rw [List.filter_cons]
    split
    · simp only [wfFrom, Bool.and_eq_true]
      exact ⟨h.1, wfFrom_filter p m _ h.2⟩
    · refine wfFrom_weaken o _ a (wfFrom_filter p m _ h.2) ?_
      intro x hx
      subst hx
      have := h.1.1
      simp at this
      omega

theorem wfFrom_tinsert (i : Nat) (v : Byte) (hv : v ≠ unlisted) : ∀ (m : Mem) (o : Option Nat), wfFrom o m = true →
    (∀ x, o = some x → x < i) → (∀ e ∈ m, e.1 ≠ i) → wfFrom o (tinsert i v m) = true
  | [], o, _, ho, _ => by
    cases o with
    | none => simp [tinsert, wfFrom, hv]
    | some x => simp [tinsert, wfFrom, hv, ho x rfl]
  | (a, b) :: m, o, h, ho, hm => by
    have ha : a ≠ i := hm (a, b) (by simp)
    simp only [wfFrom, Bool.and_eq_true] at h
    unfold tinsert
    split
    · rename_i hlt
      simp only [wfFrom, Bool.and_eq_true]
      refine ⟨⟨?_, by simp [hv]⟩, ⟨by simpa using hlt, h.1.2⟩, h.2⟩
      cases o with
      | none => rfl
      | some x => simpa using ho x rfl
    · simp only [wfFrom, Bool.and_eq_true]
      refine ⟨h.1, wfFrom_tinsert i v hv m _ h.2 ?_ (fun e he => hm e (by simp [he]))⟩
      intro x hx
      cases hx
      omega

/-- Every memory operation keeps the canonical form: one byte, bytes in a row, a filter, and a replaced range. -/
theorem Memory.wf_mset (m : Mem) (a : Nat) (b : Byte) (h : Memory.wf m = true) : Memory.wf (mset m a b) = true := by
  unfold Memory.wf at *
  unfold mset
  split
  · exact wfFrom_filter _ _ _ h
  · exact wfFrom_tinsert a b ‹_› _ _ (wfFrom_filter _ _ _ h) (by simp) (not_mem_terase a m)
theorem Memory.wf_filter (p : Host.Cell → Bool) (m : Mem) (h : Memory.wf m = true) : Memory.wf (m.filter p) = true := wfFrom_filter p m _ h
theorem Memory.wf_mwrite : ∀ (bs : List Byte) (m : Mem) (a : Nat), Memory.wf m = true → Memory.wf (mwrite m a bs) = true
  | [], _, _, h => h
  | b :: bs, m, a, h => Memory.wf_mwrite bs _ _ (Memory.wf_mset m a b h)
theorem Memory.wf_foldl (l : List Host.Cell) : ∀ m : Mem, Memory.wf m = true → Memory.wf (l.foldl (fun m e => mset m e.1 e.2) m) = true := by
  induction l with
  | nil => intro m h; exact h
  | cons e l ih => intro m h; exact ih _ (Memory.wf_mset m e.1 e.2 h)
theorem Memory.wf_msplice (m : Mem) (lo n : Nat) (cells : Mem) (h : Memory.wf m = true) : Memory.wf (msplice m lo n cells) = true :=
  Memory.wf_foldl _ _ (Memory.wf_filter _ _ h)
/-- Memory after reset is in its canonical form. -/
theorem Memory.wf_reset : Memory.wf State.reset.mem = true := rfl

end Sys2Proof.Machine
end

