-- ==== Sys2Proof/Laws/State.lean ====
section
/-! SUPPORT. What each update of the state leaves: one lemma for every other field. The proofs are written (rfl), so that simp records each rewriting and
the kernel never compares two memories to find two states equal. -/

namespace Sys2Proof.Machine

/-! ### setCtl -/
@[simp] theorem State.setCtl_cycle (s : State) (r : Nat) (c : Ctl) : (s.setCtl r c).cycle = s.cycle := (rfl)
@[simp] theorem State.setCtl_mem (s : State) (r : Nat) (c : Ctl) : (s.setCtl r c).mem = s.mem := (rfl)
@[simp] theorem State.setCtl_thr (s : State) (r : Nat) (c : Ctl) : (s.setCtl r c).thr = s.thr := (rfl)
@[simp] theorem State.setCtl_core (s : State) (r : Nat) (c : Ctl) : (s.setCtl r c).core = s.core := (rfl)
@[simp] theorem State.setCtl_quad (s : State) (r : Nat) (c : Ctl) : (s.setCtl r c).quad = s.quad := (rfl)
@[simp] theorem State.setCtl_oct (s : State) (r : Nat) (c : Ctl) : (s.setCtl r c).oct = s.oct := (rfl)
@[simp] theorem State.setCtl_clu (s : State) (r : Nat) (c : Ctl) : (s.setCtl r c).clu = s.clu := (rfl)
@[simp] theorem State.setCtl_ten (s : State) (r : Nat) (c : Ctl) : (s.setCtl r c).ten = s.ten := (rfl)
@[simp] theorem State.setCtl_pkg (s : State) (r : Nat) (c : Ctl) : (s.setCtl r c).pkg = s.pkg := (rfl)
@[simp] theorem State.setCtl_nodes (s : State) (r : Nat) (c : Ctl) : (s.setCtl r c).nodes = s.nodes := (rfl)
@[simp] theorem State.setCtl_teams (s : State) (r : Nat) (c : Ctl) : (s.setCtl r c).teams = s.teams := (rfl)
@[simp] theorem State.setCtl_bdc (s : State) (r : Nat) (c : Ctl) : (s.setCtl r c).bdc = s.bdc := (rfl)
@[simp] theorem State.setCtl_banks (s : State) (r : Nat) (c : Ctl) : (s.setCtl r c).banks = s.banks := (rfl)
@[simp] theorem State.setCtl_pip (s : State) (r : Nat) (c : Ctl) : (s.setCtl r c).pip = s.pip := (rfl)
@[simp] theorem State.setCtl_uncorr (s : State) (r : Nat) (c : Ctl) : (s.setCtl r c).uncorr = s.uncorr := (rfl)
@[simp] theorem State.setCtl_cur (s : State) (r : Nat) (c : Ctl) : (s.setCtl r c).cur = s.cur := (rfl)
@[simp] theorem State.setCtl_sel (s : State) (r : Nat) (c : Ctl) : (s.setCtl r c).sel = s.sel := (rfl)
@[simp] theorem State.setCtl_schedule (s : State) (r : Nat) (c : Ctl) : (s.setCtl r c).schedule = s.schedule := (rfl)
@[simp] theorem State.setCtl_seq (s : State) (r : Nat) (c : Ctl) : (s.setCtl r c).seq = s.seq := (rfl)
@[simp] theorem State.setCtl_at_thrOf (s : State) (r : Nat) (c : Ctl) (j : Nat) : (s.setCtl r c).thrOf j = s.thrOf j := (rfl)
@[simp] theorem State.setCtl_at_coreOf (s : State) (r : Nat) (c : Ctl) (j : Nat) : (s.setCtl r c).coreOf j = s.coreOf j := (rfl)
@[simp] theorem State.setCtl_at_cs (s : State) (r : Nat) (c : Ctl) (j : Nat) : (s.setCtl r c).cs j = s.cs j := (rfl)
@[simp] theorem State.setCtl_at_quadOf (s : State) (r : Nat) (c : Ctl) (j : Nat) : (s.setCtl r c).quadOf j = s.quadOf j := (rfl)
@[simp] theorem State.setCtl_at_octOf (s : State) (r : Nat) (c : Ctl) (j : Nat) : (s.setCtl r c).octOf j = s.octOf j := (rfl)
@[simp] theorem State.setCtl_at_cluOf (s : State) (r : Nat) (c : Ctl) (j : Nat) : (s.setCtl r c).cluOf j = s.cluOf j := (rfl)
@[simp] theorem State.setCtl_at_tenOf (s : State) (r : Nat) (c : Ctl) (j : Nat) : (s.setCtl r c).tenOf j = s.tenOf j := (rfl)
@[simp] theorem State.setCtl_at_nodeOf (s : State) (r : Nat) (c : Ctl) (j : Nat) : (s.setCtl r c).nodeOf j = s.nodeOf j := (rfl)
@[simp] theorem State.setCtl_at_bdcOf (s : State) (r : Nat) (c : Ctl) (j : Nat) : (s.setCtl r c).bdcOf j = s.bdcOf j := (rfl)
@[simp] theorem State.setCtl_at_rowTenant (s : State) (r : Nat) (c : Ctl) (j : Nat) : (s.setCtl r c).rowTenant j = s.rowTenant j := (rfl)
@[simp] theorem State.setCtl_at_tenantOf (s : State) (r : Nat) (c : Ctl) (j : Nat) : (s.setCtl r c).tenantOf j = s.tenantOf j := (rfl)
@[simp] theorem State.setCtl_me (s : State) (r : Nat) (c : Ctl) : (s.setCtl r c).me = s.me := (rfl)
@[simp] theorem State.setCtl_rowGet (s : State) (r : Nat) (c : Ctl) (j p m : Nat) : (s.setCtl r c).rowGet j p m = s.rowGet j p m := (rfl)
@[simp] theorem State.setCtl_greg (s : State) (r : Nat) (c : Ctl) (j p : Nat) : (s.setCtl r c).greg j p = s.greg j p := (rfl)
@[simp] theorem State.setCtl_peek (s : State) (r : Nat) (c : Ctl) (j p : Nat) : (s.setCtl r c).peek j p = s.peek j p := (rfl)

/-! ### modCtl -/
@[simp] theorem State.modCtl_cycle (s : State) (r : Nat) (f : Ctl → Ctl) : (s.modCtl r f).cycle = s.cycle := (rfl)
@[simp] theorem State.modCtl_mem (s : State) (r : Nat) (f : Ctl → Ctl) : (s.modCtl r f).mem = s.mem := (rfl)
@[simp] theorem State.modCtl_thr (s : State) (r : Nat) (f : Ctl → Ctl) : (s.modCtl r f).thr = s.thr := (rfl)
@[simp] theorem State.modCtl_core (s : State) (r : Nat) (f : Ctl → Ctl) : (s.modCtl r f).core = s.core := (rfl)
@[simp] theorem State.modCtl_quad (s : State) (r : Nat) (f : Ctl → Ctl) : (s.modCtl r f).quad = s.quad := (rfl)
@[simp] theorem State.modCtl_oct (s : State) (r : Nat) (f : Ctl → Ctl) : (s.modCtl r f).oct = s.oct := (rfl)
@[simp] theorem State.modCtl_clu (s : State) (r : Nat) (f : Ctl → Ctl) : (s.modCtl r f).clu = s.clu := (rfl)
@[simp] theorem State.modCtl_ten (s : State) (r : Nat) (f : Ctl → Ctl) : (s.modCtl r f).ten = s.ten := (rfl)
@[simp] theorem State.modCtl_pkg (s : State) (r : Nat) (f : Ctl → Ctl) : (s.modCtl r f).pkg = s.pkg := (rfl)
@[simp] theorem State.modCtl_nodes (s : State) (r : Nat) (f : Ctl → Ctl) : (s.modCtl r f).nodes = s.nodes := (rfl)
@[simp] theorem State.modCtl_teams (s : State) (r : Nat) (f : Ctl → Ctl) : (s.modCtl r f).teams = s.teams := (rfl)
@[simp] theorem State.modCtl_bdc (s : State) (r : Nat) (f : Ctl → Ctl) : (s.modCtl r f).bdc = s.bdc := (rfl)
@[simp] theorem State.modCtl_banks (s : State) (r : Nat) (f : Ctl → Ctl) : (s.modCtl r f).banks = s.banks := (rfl)
@[simp] theorem State.modCtl_pip (s : State) (r : Nat) (f : Ctl → Ctl) : (s.modCtl r f).pip = s.pip := (rfl)
@[simp] theorem State.modCtl_uncorr (s : State) (r : Nat) (f : Ctl → Ctl) : (s.modCtl r f).uncorr = s.uncorr := (rfl)
@[simp] theorem State.modCtl_cur (s : State) (r : Nat) (f : Ctl → Ctl) : (s.modCtl r f).cur = s.cur := (rfl)
@[simp] theorem State.modCtl_sel (s : State) (r : Nat) (f : Ctl → Ctl) : (s.modCtl r f).sel = s.sel := (rfl)
@[simp] theorem State.modCtl_schedule (s : State) (r : Nat) (f : Ctl → Ctl) : (s.modCtl r f).schedule = s.schedule := (rfl)
@[simp] theorem State.modCtl_seq (s : State) (r : Nat) (f : Ctl → Ctl) : (s.modCtl r f).seq = s.seq := (rfl)
@[simp] theorem State.modCtl_at_thrOf (s : State) (r : Nat) (f : Ctl → Ctl) (j : Nat) : (s.modCtl r f).thrOf j = s.thrOf j := (rfl)
@[simp] theorem State.modCtl_at_coreOf (s : State) (r : Nat) (f : Ctl → Ctl) (j : Nat) : (s.modCtl r f).coreOf j = s.coreOf j := (rfl)
@[simp] theorem State.modCtl_at_cs (s : State) (r : Nat) (f : Ctl → Ctl) (j : Nat) : (s.modCtl r f).cs j = s.cs j := (rfl)
@[simp] theorem State.modCtl_at_quadOf (s : State) (r : Nat) (f : Ctl → Ctl) (j : Nat) : (s.modCtl r f).quadOf j = s.quadOf j := (rfl)
@[simp] theorem State.modCtl_at_octOf (s : State) (r : Nat) (f : Ctl → Ctl) (j : Nat) : (s.modCtl r f).octOf j = s.octOf j := (rfl)
@[simp] theorem State.modCtl_at_cluOf (s : State) (r : Nat) (f : Ctl → Ctl) (j : Nat) : (s.modCtl r f).cluOf j = s.cluOf j := (rfl)
@[simp] theorem State.modCtl_at_tenOf (s : State) (r : Nat) (f : Ctl → Ctl) (j : Nat) : (s.modCtl r f).tenOf j = s.tenOf j := (rfl)
@[simp] theorem State.modCtl_at_nodeOf (s : State) (r : Nat) (f : Ctl → Ctl) (j : Nat) : (s.modCtl r f).nodeOf j = s.nodeOf j := (rfl)
@[simp] theorem State.modCtl_at_bdcOf (s : State) (r : Nat) (f : Ctl → Ctl) (j : Nat) : (s.modCtl r f).bdcOf j = s.bdcOf j := (rfl)
@[simp] theorem State.modCtl_at_rowTenant (s : State) (r : Nat) (f : Ctl → Ctl) (j : Nat) : (s.modCtl r f).rowTenant j = s.rowTenant j := (rfl)
@[simp] theorem State.modCtl_at_tenantOf (s : State) (r : Nat) (f : Ctl → Ctl) (j : Nat) : (s.modCtl r f).tenantOf j = s.tenantOf j := (rfl)
@[simp] theorem State.modCtl_me (s : State) (r : Nat) (f : Ctl → Ctl) : (s.modCtl r f).me = s.me := (rfl)
@[simp] theorem State.modCtl_rowGet (s : State) (r : Nat) (f : Ctl → Ctl) (j p m : Nat) : (s.modCtl r f).rowGet j p m = s.rowGet j p m := (rfl)
@[simp] theorem State.modCtl_greg (s : State) (r : Nat) (f : Ctl → Ctl) (j p : Nat) : (s.modCtl r f).greg j p = s.greg j p := (rfl)
@[simp] theorem State.modCtl_peek (s : State) (r : Nat) (f : Ctl → Ctl) (j p : Nat) : (s.modCtl r f).peek j p = s.peek j p := (rfl)

/-! ### setThr -/
@[simp] theorem State.setThr_cycle (s : State) (r : Nat) (t : Thr) : (s.setThr r t).cycle = s.cycle := (rfl)
@[simp] theorem State.setThr_mem (s : State) (r : Nat) (t : Thr) : (s.setThr r t).mem = s.mem := (rfl)
@[simp] theorem State.setThr_ctl (s : State) (r : Nat) (t : Thr) : (s.setThr r t).ctl = s.ctl := (rfl)
@[simp] theorem State.setThr_core (s : State) (r : Nat) (t : Thr) : (s.setThr r t).core = s.core := (rfl)
@[simp] theorem State.setThr_quad (s : State) (r : Nat) (t : Thr) : (s.setThr r t).quad = s.quad := (rfl)
@[simp] theorem State.setThr_oct (s : State) (r : Nat) (t : Thr) : (s.setThr r t).oct = s.oct := (rfl)
@[simp] theorem State.setThr_clu (s : State) (r : Nat) (t : Thr) : (s.setThr r t).clu = s.clu := (rfl)
@[simp] theorem State.setThr_ten (s : State) (r : Nat) (t : Thr) : (s.setThr r t).ten = s.ten := (rfl)
@[simp] theorem State.setThr_pkg (s : State) (r : Nat) (t : Thr) : (s.setThr r t).pkg = s.pkg := (rfl)
@[simp] theorem State.setThr_nodes (s : State) (r : Nat) (t : Thr) : (s.setThr r t).nodes = s.nodes := (rfl)
@[simp] theorem State.setThr_teams (s : State) (r : Nat) (t : Thr) : (s.setThr r t).teams = s.teams := (rfl)
@[simp] theorem State.setThr_bdc (s : State) (r : Nat) (t : Thr) : (s.setThr r t).bdc = s.bdc := (rfl)
@[simp] theorem State.setThr_banks (s : State) (r : Nat) (t : Thr) : (s.setThr r t).banks = s.banks := (rfl)
@[simp] theorem State.setThr_pip (s : State) (r : Nat) (t : Thr) : (s.setThr r t).pip = s.pip := (rfl)
@[simp] theorem State.setThr_uncorr (s : State) (r : Nat) (t : Thr) : (s.setThr r t).uncorr = s.uncorr := (rfl)
@[simp] theorem State.setThr_cur (s : State) (r : Nat) (t : Thr) : (s.setThr r t).cur = s.cur := (rfl)
@[simp] theorem State.setThr_sel (s : State) (r : Nat) (t : Thr) : (s.setThr r t).sel = s.sel := (rfl)
@[simp] theorem State.setThr_schedule (s : State) (r : Nat) (t : Thr) : (s.setThr r t).schedule = s.schedule := (rfl)
@[simp] theorem State.setThr_seq (s : State) (r : Nat) (t : Thr) : (s.setThr r t).seq = s.seq := (rfl)
@[simp] theorem State.setThr_at_ctlOf (s : State) (r : Nat) (t : Thr) (j : Nat) : (s.setThr r t).ctlOf j = s.ctlOf j := (rfl)
@[simp] theorem State.setThr_at_coreOf (s : State) (r : Nat) (t : Thr) (j : Nat) : (s.setThr r t).coreOf j = s.coreOf j := (rfl)
@[simp] theorem State.setThr_at_cs (s : State) (r : Nat) (t : Thr) (j : Nat) : (s.setThr r t).cs j = s.cs j := (rfl)
@[simp] theorem State.setThr_at_quadOf (s : State) (r : Nat) (t : Thr) (j : Nat) : (s.setThr r t).quadOf j = s.quadOf j := (rfl)
@[simp] theorem State.setThr_at_octOf (s : State) (r : Nat) (t : Thr) (j : Nat) : (s.setThr r t).octOf j = s.octOf j := (rfl)
@[simp] theorem State.setThr_at_cluOf (s : State) (r : Nat) (t : Thr) (j : Nat) : (s.setThr r t).cluOf j = s.cluOf j := (rfl)
@[simp] theorem State.setThr_at_tenOf (s : State) (r : Nat) (t : Thr) (j : Nat) : (s.setThr r t).tenOf j = s.tenOf j := (rfl)
@[simp] theorem State.setThr_at_nodeOf (s : State) (r : Nat) (t : Thr) (j : Nat) : (s.setThr r t).nodeOf j = s.nodeOf j := (rfl)
@[simp] theorem State.setThr_at_bdcOf (s : State) (r : Nat) (t : Thr) (j : Nat) : (s.setThr r t).bdcOf j = s.bdcOf j := (rfl)
@[simp] theorem State.setThr_at_rowTenant (s : State) (r : Nat) (t : Thr) (j : Nat) : (s.setThr r t).rowTenant j = s.rowTenant j := (rfl)
@[simp] theorem State.setThr_at_tenantOf (s : State) (r : Nat) (t : Thr) (j : Nat) : (s.setThr r t).tenantOf j = s.tenantOf j := (rfl)
@[simp] theorem State.setThr_me (s : State) (r : Nat) (t : Thr) : (s.setThr r t).me = s.me := (rfl)
@[simp] theorem State.setThr_rowGet (s : State) (r : Nat) (t : Thr) (j p m : Nat) : (s.setThr r t).rowGet j p m = s.rowGet j p m := (rfl)
@[simp] theorem State.setThr_greg (s : State) (r : Nat) (t : Thr) (j p : Nat) : (s.setThr r t).greg j p = s.greg j p := (rfl)
@[simp] theorem State.setThr_peek (s : State) (r : Nat) (t : Thr) (j p : Nat) : (s.setThr r t).peek j p = s.peek j p := (rfl)

/-! ### modThr -/
@[simp] theorem State.modThr_cycle (s : State) (r : Nat) (f : Thr → Thr) : (s.modThr r f).cycle = s.cycle := (rfl)
@[simp] theorem State.modThr_mem (s : State) (r : Nat) (f : Thr → Thr) : (s.modThr r f).mem = s.mem := (rfl)
@[simp] theorem State.modThr_ctl (s : State) (r : Nat) (f : Thr → Thr) : (s.modThr r f).ctl = s.ctl := (rfl)
@[simp] theorem State.modThr_core (s : State) (r : Nat) (f : Thr → Thr) : (s.modThr r f).core = s.core := (rfl)
@[simp] theorem State.modThr_quad (s : State) (r : Nat) (f : Thr → Thr) : (s.modThr r f).quad = s.quad := (rfl)
@[simp] theorem State.modThr_oct (s : State) (r : Nat) (f : Thr → Thr) : (s.modThr r f).oct = s.oct := (rfl)
@[simp] theorem State.modThr_clu (s : State) (r : Nat) (f : Thr → Thr) : (s.modThr r f).clu = s.clu := (rfl)
@[simp] theorem State.modThr_ten (s : State) (r : Nat) (f : Thr → Thr) : (s.modThr r f).ten = s.ten := (rfl)
@[simp] theorem State.modThr_pkg (s : State) (r : Nat) (f : Thr → Thr) : (s.modThr r f).pkg = s.pkg := (rfl)
@[simp] theorem State.modThr_nodes (s : State) (r : Nat) (f : Thr → Thr) : (s.modThr r f).nodes = s.nodes := (rfl)
@[simp] theorem State.modThr_teams (s : State) (r : Nat) (f : Thr → Thr) : (s.modThr r f).teams = s.teams := (rfl)
@[simp] theorem State.modThr_bdc (s : State) (r : Nat) (f : Thr → Thr) : (s.modThr r f).bdc = s.bdc := (rfl)
@[simp] theorem State.modThr_banks (s : State) (r : Nat) (f : Thr → Thr) : (s.modThr r f).banks = s.banks := (rfl)
@[simp] theorem State.modThr_pip (s : State) (r : Nat) (f : Thr → Thr) : (s.modThr r f).pip = s.pip := (rfl)
@[simp] theorem State.modThr_uncorr (s : State) (r : Nat) (f : Thr → Thr) : (s.modThr r f).uncorr = s.uncorr := (rfl)
@[simp] theorem State.modThr_cur (s : State) (r : Nat) (f : Thr → Thr) : (s.modThr r f).cur = s.cur := (rfl)
@[simp] theorem State.modThr_sel (s : State) (r : Nat) (f : Thr → Thr) : (s.modThr r f).sel = s.sel := (rfl)
@[simp] theorem State.modThr_schedule (s : State) (r : Nat) (f : Thr → Thr) : (s.modThr r f).schedule = s.schedule := (rfl)
@[simp] theorem State.modThr_seq (s : State) (r : Nat) (f : Thr → Thr) : (s.modThr r f).seq = s.seq := (rfl)
@[simp] theorem State.modThr_at_ctlOf (s : State) (r : Nat) (f : Thr → Thr) (j : Nat) : (s.modThr r f).ctlOf j = s.ctlOf j := (rfl)
@[simp] theorem State.modThr_at_coreOf (s : State) (r : Nat) (f : Thr → Thr) (j : Nat) : (s.modThr r f).coreOf j = s.coreOf j := (rfl)
@[simp] theorem State.modThr_at_cs (s : State) (r : Nat) (f : Thr → Thr) (j : Nat) : (s.modThr r f).cs j = s.cs j := (rfl)
@[simp] theorem State.modThr_at_quadOf (s : State) (r : Nat) (f : Thr → Thr) (j : Nat) : (s.modThr r f).quadOf j = s.quadOf j := (rfl)
@[simp] theorem State.modThr_at_octOf (s : State) (r : Nat) (f : Thr → Thr) (j : Nat) : (s.modThr r f).octOf j = s.octOf j := (rfl)
@[simp] theorem State.modThr_at_cluOf (s : State) (r : Nat) (f : Thr → Thr) (j : Nat) : (s.modThr r f).cluOf j = s.cluOf j := (rfl)
@[simp] theorem State.modThr_at_tenOf (s : State) (r : Nat) (f : Thr → Thr) (j : Nat) : (s.modThr r f).tenOf j = s.tenOf j := (rfl)
@[simp] theorem State.modThr_at_nodeOf (s : State) (r : Nat) (f : Thr → Thr) (j : Nat) : (s.modThr r f).nodeOf j = s.nodeOf j := (rfl)
@[simp] theorem State.modThr_at_bdcOf (s : State) (r : Nat) (f : Thr → Thr) (j : Nat) : (s.modThr r f).bdcOf j = s.bdcOf j := (rfl)
@[simp] theorem State.modThr_at_rowTenant (s : State) (r : Nat) (f : Thr → Thr) (j : Nat) : (s.modThr r f).rowTenant j = s.rowTenant j := (rfl)
@[simp] theorem State.modThr_at_tenantOf (s : State) (r : Nat) (f : Thr → Thr) (j : Nat) : (s.modThr r f).tenantOf j = s.tenantOf j := (rfl)
@[simp] theorem State.modThr_me (s : State) (r : Nat) (f : Thr → Thr) : (s.modThr r f).me = s.me := (rfl)
@[simp] theorem State.modThr_rowGet (s : State) (r : Nat) (f : Thr → Thr) (j p m : Nat) : (s.modThr r f).rowGet j p m = s.rowGet j p m := (rfl)
@[simp] theorem State.modThr_greg (s : State) (r : Nat) (f : Thr → Thr) (j p : Nat) : (s.modThr r f).greg j p = s.greg j p := (rfl)
@[simp] theorem State.modThr_peek (s : State) (r : Nat) (f : Thr → Thr) (j p : Nat) : (s.modThr r f).peek j p = s.peek j p := (rfl)

/-! ### modChunk -/
@[simp] theorem State.modChunk_cycle (s : State) (r : Nat) (f : Chunk → Chunk) : (s.modChunk r f).cycle = s.cycle := (rfl)
@[simp] theorem State.modChunk_mem (s : State) (r : Nat) (f : Chunk → Chunk) : (s.modChunk r f).mem = s.mem := (rfl)
@[simp] theorem State.modChunk_ctl (s : State) (r : Nat) (f : Chunk → Chunk) : (s.modChunk r f).ctl = s.ctl := (rfl)
@[simp] theorem State.modChunk_core (s : State) (r : Nat) (f : Chunk → Chunk) : (s.modChunk r f).core = s.core := (rfl)
@[simp] theorem State.modChunk_quad (s : State) (r : Nat) (f : Chunk → Chunk) : (s.modChunk r f).quad = s.quad := (rfl)
@[simp] theorem State.modChunk_oct (s : State) (r : Nat) (f : Chunk → Chunk) : (s.modChunk r f).oct = s.oct := (rfl)
@[simp] theorem State.modChunk_clu (s : State) (r : Nat) (f : Chunk → Chunk) : (s.modChunk r f).clu = s.clu := (rfl)
@[simp] theorem State.modChunk_ten (s : State) (r : Nat) (f : Chunk → Chunk) : (s.modChunk r f).ten = s.ten := (rfl)
@[simp] theorem State.modChunk_pkg (s : State) (r : Nat) (f : Chunk → Chunk) : (s.modChunk r f).pkg = s.pkg := (rfl)
@[simp] theorem State.modChunk_nodes (s : State) (r : Nat) (f : Chunk → Chunk) : (s.modChunk r f).nodes = s.nodes := (rfl)
@[simp] theorem State.modChunk_teams (s : State) (r : Nat) (f : Chunk → Chunk) : (s.modChunk r f).teams = s.teams := (rfl)
@[simp] theorem State.modChunk_bdc (s : State) (r : Nat) (f : Chunk → Chunk) : (s.modChunk r f).bdc = s.bdc := (rfl)
@[simp] theorem State.modChunk_banks (s : State) (r : Nat) (f : Chunk → Chunk) : (s.modChunk r f).banks = s.banks := (rfl)
@[simp] theorem State.modChunk_pip (s : State) (r : Nat) (f : Chunk → Chunk) : (s.modChunk r f).pip = s.pip := (rfl)
@[simp] theorem State.modChunk_uncorr (s : State) (r : Nat) (f : Chunk → Chunk) : (s.modChunk r f).uncorr = s.uncorr := (rfl)
@[simp] theorem State.modChunk_cur (s : State) (r : Nat) (f : Chunk → Chunk) : (s.modChunk r f).cur = s.cur := (rfl)
@[simp] theorem State.modChunk_sel (s : State) (r : Nat) (f : Chunk → Chunk) : (s.modChunk r f).sel = s.sel := (rfl)
@[simp] theorem State.modChunk_schedule (s : State) (r : Nat) (f : Chunk → Chunk) : (s.modChunk r f).schedule = s.schedule := (rfl)
@[simp] theorem State.modChunk_seq (s : State) (r : Nat) (f : Chunk → Chunk) : (s.modChunk r f).seq = s.seq := (rfl)
@[simp] theorem State.modChunk_at_ctlOf (s : State) (r : Nat) (f : Chunk → Chunk) (j : Nat) : (s.modChunk r f).ctlOf j = s.ctlOf j := (rfl)
@[simp] theorem State.modChunk_at_coreOf (s : State) (r : Nat) (f : Chunk → Chunk) (j : Nat) : (s.modChunk r f).coreOf j = s.coreOf j := (rfl)
@[simp] theorem State.modChunk_at_cs (s : State) (r : Nat) (f : Chunk → Chunk) (j : Nat) : (s.modChunk r f).cs j = s.cs j := (rfl)
@[simp] theorem State.modChunk_at_quadOf (s : State) (r : Nat) (f : Chunk → Chunk) (j : Nat) : (s.modChunk r f).quadOf j = s.quadOf j := (rfl)
@[simp] theorem State.modChunk_at_octOf (s : State) (r : Nat) (f : Chunk → Chunk) (j : Nat) : (s.modChunk r f).octOf j = s.octOf j := (rfl)
@[simp] theorem State.modChunk_at_cluOf (s : State) (r : Nat) (f : Chunk → Chunk) (j : Nat) : (s.modChunk r f).cluOf j = s.cluOf j := (rfl)
@[simp] theorem State.modChunk_at_tenOf (s : State) (r : Nat) (f : Chunk → Chunk) (j : Nat) : (s.modChunk r f).tenOf j = s.tenOf j := (rfl)
@[simp] theorem State.modChunk_at_nodeOf (s : State) (r : Nat) (f : Chunk → Chunk) (j : Nat) : (s.modChunk r f).nodeOf j = s.nodeOf j := (rfl)
@[simp] theorem State.modChunk_at_bdcOf (s : State) (r : Nat) (f : Chunk → Chunk) (j : Nat) : (s.modChunk r f).bdcOf j = s.bdcOf j := (rfl)
@[simp] theorem State.modChunk_at_rowTenant (s : State) (r : Nat) (f : Chunk → Chunk) (j : Nat) : (s.modChunk r f).rowTenant j = s.rowTenant j := (rfl)
@[simp] theorem State.modChunk_at_tenantOf (s : State) (r : Nat) (f : Chunk → Chunk) (j : Nat) : (s.modChunk r f).tenantOf j = s.tenantOf j := (rfl)
@[simp] theorem State.modChunk_me (s : State) (r : Nat) (f : Chunk → Chunk) : (s.modChunk r f).me = s.me := (rfl)
@[simp] theorem State.modChunk_rowGet (s : State) (r : Nat) (f : Chunk → Chunk) (j p m : Nat) : (s.modChunk r f).rowGet j p m = s.rowGet j p m := (rfl)
@[simp] theorem State.modChunk_greg (s : State) (r : Nat) (f : Chunk → Chunk) (j p : Nat) : (s.modChunk r f).greg j p = s.greg j p := (rfl)
@[simp] theorem State.modChunk_peek (s : State) (r : Nat) (f : Chunk → Chunk) (j p : Nat) : (s.modChunk r f).peek j p = s.peek j p := (rfl)

/-! ### setCore -/
@[simp] theorem State.setCore_cycle (s : State) (c : Nat) (x : Core) : (s.setCore c x).cycle = s.cycle := (rfl)
@[simp] theorem State.setCore_mem (s : State) (c : Nat) (x : Core) : (s.setCore c x).mem = s.mem := (rfl)
@[simp] theorem State.setCore_ctl (s : State) (c : Nat) (x : Core) : (s.setCore c x).ctl = s.ctl := (rfl)
@[simp] theorem State.setCore_thr (s : State) (c : Nat) (x : Core) : (s.setCore c x).thr = s.thr := (rfl)
@[simp] theorem State.setCore_quad (s : State) (c : Nat) (x : Core) : (s.setCore c x).quad = s.quad := (rfl)
@[simp] theorem State.setCore_oct (s : State) (c : Nat) (x : Core) : (s.setCore c x).oct = s.oct := (rfl)
@[simp] theorem State.setCore_clu (s : State) (c : Nat) (x : Core) : (s.setCore c x).clu = s.clu := (rfl)
@[simp] theorem State.setCore_ten (s : State) (c : Nat) (x : Core) : (s.setCore c x).ten = s.ten := (rfl)
@[simp] theorem State.setCore_pkg (s : State) (c : Nat) (x : Core) : (s.setCore c x).pkg = s.pkg := (rfl)
@[simp] theorem State.setCore_nodes (s : State) (c : Nat) (x : Core) : (s.setCore c x).nodes = s.nodes := (rfl)
@[simp] theorem State.setCore_teams (s : State) (c : Nat) (x : Core) : (s.setCore c x).teams = s.teams := (rfl)
@[simp] theorem State.setCore_bdc (s : State) (c : Nat) (x : Core) : (s.setCore c x).bdc = s.bdc := (rfl)
@[simp] theorem State.setCore_banks (s : State) (c : Nat) (x : Core) : (s.setCore c x).banks = s.banks := (rfl)
@[simp] theorem State.setCore_pip (s : State) (c : Nat) (x : Core) : (s.setCore c x).pip = s.pip := (rfl)
@[simp] theorem State.setCore_uncorr (s : State) (c : Nat) (x : Core) : (s.setCore c x).uncorr = s.uncorr := (rfl)
@[simp] theorem State.setCore_cur (s : State) (c : Nat) (x : Core) : (s.setCore c x).cur = s.cur := (rfl)
@[simp] theorem State.setCore_sel (s : State) (c : Nat) (x : Core) : (s.setCore c x).sel = s.sel := (rfl)
@[simp] theorem State.setCore_schedule (s : State) (c : Nat) (x : Core) : (s.setCore c x).schedule = s.schedule := (rfl)
@[simp] theorem State.setCore_seq (s : State) (c : Nat) (x : Core) : (s.setCore c x).seq = s.seq := (rfl)
@[simp] theorem State.setCore_at_ctlOf (s : State) (c : Nat) (x : Core) (j : Nat) : (s.setCore c x).ctlOf j = s.ctlOf j := (rfl)
@[simp] theorem State.setCore_at_thrOf (s : State) (c : Nat) (x : Core) (j : Nat) : (s.setCore c x).thrOf j = s.thrOf j := (rfl)
@[simp] theorem State.setCore_at_quadOf (s : State) (c : Nat) (x : Core) (j : Nat) : (s.setCore c x).quadOf j = s.quadOf j := (rfl)
@[simp] theorem State.setCore_at_octOf (s : State) (c : Nat) (x : Core) (j : Nat) : (s.setCore c x).octOf j = s.octOf j := (rfl)
@[simp] theorem State.setCore_at_cluOf (s : State) (c : Nat) (x : Core) (j : Nat) : (s.setCore c x).cluOf j = s.cluOf j := (rfl)
@[simp] theorem State.setCore_at_tenOf (s : State) (c : Nat) (x : Core) (j : Nat) : (s.setCore c x).tenOf j = s.tenOf j := (rfl)
@[simp] theorem State.setCore_at_nodeOf (s : State) (c : Nat) (x : Core) (j : Nat) : (s.setCore c x).nodeOf j = s.nodeOf j := (rfl)
@[simp] theorem State.setCore_at_bdcOf (s : State) (c : Nat) (x : Core) (j : Nat) : (s.setCore c x).bdcOf j = s.bdcOf j := (rfl)
@[simp] theorem State.setCore_at_rowTenant (s : State) (c : Nat) (x : Core) (j : Nat) : (s.setCore c x).rowTenant j = s.rowTenant j := (rfl)
@[simp] theorem State.setCore_at_tenantOf (s : State) (c : Nat) (x : Core) (j : Nat) : (s.setCore c x).tenantOf j = s.tenantOf j := (rfl)
@[simp] theorem State.setCore_me (s : State) (c : Nat) (x : Core) : (s.setCore c x).me = s.me := (rfl)
@[simp] theorem State.setCore_rowGet (s : State) (c : Nat) (x : Core) (j p m : Nat) : (s.setCore c x).rowGet j p m = s.rowGet j p m := (rfl)
@[simp] theorem State.setCore_greg (s : State) (c : Nat) (x : Core) (j p : Nat) : (s.setCore c x).greg j p = s.greg j p := (rfl)
@[simp] theorem State.setCore_peek (s : State) (c : Nat) (x : Core) (j p : Nat) : (s.setCore c x).peek j p = s.peek j p := (rfl)

/-! ### modCore -/
@[simp] theorem State.modCore_cycle (s : State) (c : Nat) (f : Core → Core) : (s.modCore c f).cycle = s.cycle := (rfl)
@[simp] theorem State.modCore_mem (s : State) (c : Nat) (f : Core → Core) : (s.modCore c f).mem = s.mem := (rfl)
@[simp] theorem State.modCore_ctl (s : State) (c : Nat) (f : Core → Core) : (s.modCore c f).ctl = s.ctl := (rfl)
@[simp] theorem State.modCore_thr (s : State) (c : Nat) (f : Core → Core) : (s.modCore c f).thr = s.thr := (rfl)
@[simp] theorem State.modCore_quad (s : State) (c : Nat) (f : Core → Core) : (s.modCore c f).quad = s.quad := (rfl)
@[simp] theorem State.modCore_oct (s : State) (c : Nat) (f : Core → Core) : (s.modCore c f).oct = s.oct := (rfl)
@[simp] theorem State.modCore_clu (s : State) (c : Nat) (f : Core → Core) : (s.modCore c f).clu = s.clu := (rfl)
@[simp] theorem State.modCore_ten (s : State) (c : Nat) (f : Core → Core) : (s.modCore c f).ten = s.ten := (rfl)
@[simp] theorem State.modCore_pkg (s : State) (c : Nat) (f : Core → Core) : (s.modCore c f).pkg = s.pkg := (rfl)
@[simp] theorem State.modCore_nodes (s : State) (c : Nat) (f : Core → Core) : (s.modCore c f).nodes = s.nodes := (rfl)
@[simp] theorem State.modCore_teams (s : State) (c : Nat) (f : Core → Core) : (s.modCore c f).teams = s.teams := (rfl)
@[simp] theorem State.modCore_bdc (s : State) (c : Nat) (f : Core → Core) : (s.modCore c f).bdc = s.bdc := (rfl)
@[simp] theorem State.modCore_banks (s : State) (c : Nat) (f : Core → Core) : (s.modCore c f).banks = s.banks := (rfl)
@[simp] theorem State.modCore_pip (s : State) (c : Nat) (f : Core → Core) : (s.modCore c f).pip = s.pip := (rfl)
@[simp] theorem State.modCore_uncorr (s : State) (c : Nat) (f : Core → Core) : (s.modCore c f).uncorr = s.uncorr := (rfl)
@[simp] theorem State.modCore_cur (s : State) (c : Nat) (f : Core → Core) : (s.modCore c f).cur = s.cur := (rfl)
@[simp] theorem State.modCore_sel (s : State) (c : Nat) (f : Core → Core) : (s.modCore c f).sel = s.sel := (rfl)
@[simp] theorem State.modCore_schedule (s : State) (c : Nat) (f : Core → Core) : (s.modCore c f).schedule = s.schedule := (rfl)
@[simp] theorem State.modCore_seq (s : State) (c : Nat) (f : Core → Core) : (s.modCore c f).seq = s.seq := (rfl)
@[simp] theorem State.modCore_at_ctlOf (s : State) (c : Nat) (f : Core → Core) (j : Nat) : (s.modCore c f).ctlOf j = s.ctlOf j := (rfl)
@[simp] theorem State.modCore_at_thrOf (s : State) (c : Nat) (f : Core → Core) (j : Nat) : (s.modCore c f).thrOf j = s.thrOf j := (rfl)
@[simp] theorem State.modCore_at_quadOf (s : State) (c : Nat) (f : Core → Core) (j : Nat) : (s.modCore c f).quadOf j = s.quadOf j := (rfl)
@[simp] theorem State.modCore_at_octOf (s : State) (c : Nat) (f : Core → Core) (j : Nat) : (s.modCore c f).octOf j = s.octOf j := (rfl)
@[simp] theorem State.modCore_at_cluOf (s : State) (c : Nat) (f : Core → Core) (j : Nat) : (s.modCore c f).cluOf j = s.cluOf j := (rfl)
@[simp] theorem State.modCore_at_tenOf (s : State) (c : Nat) (f : Core → Core) (j : Nat) : (s.modCore c f).tenOf j = s.tenOf j := (rfl)
@[simp] theorem State.modCore_at_nodeOf (s : State) (c : Nat) (f : Core → Core) (j : Nat) : (s.modCore c f).nodeOf j = s.nodeOf j := (rfl)
@[simp] theorem State.modCore_at_bdcOf (s : State) (c : Nat) (f : Core → Core) (j : Nat) : (s.modCore c f).bdcOf j = s.bdcOf j := (rfl)
@[simp] theorem State.modCore_at_rowTenant (s : State) (c : Nat) (f : Core → Core) (j : Nat) : (s.modCore c f).rowTenant j = s.rowTenant j := (rfl)
@[simp] theorem State.modCore_at_tenantOf (s : State) (c : Nat) (f : Core → Core) (j : Nat) : (s.modCore c f).tenantOf j = s.tenantOf j := (rfl)
@[simp] theorem State.modCore_me (s : State) (c : Nat) (f : Core → Core) : (s.modCore c f).me = s.me := (rfl)
@[simp] theorem State.modCore_rowGet (s : State) (c : Nat) (f : Core → Core) (j p m : Nat) : (s.modCore c f).rowGet j p m = s.rowGet j p m := (rfl)
@[simp] theorem State.modCore_greg (s : State) (c : Nat) (f : Core → Core) (j p : Nat) : (s.modCore c f).greg j p = s.greg j p := (rfl)
@[simp] theorem State.modCore_peek (s : State) (c : Nat) (f : Core → Core) (j p : Nat) : (s.modCore c f).peek j p = s.peek j p := (rfl)

/-! ### modCs -/
@[simp] theorem State.modCs_cycle (s : State) (c t : Nat) (f : CState → CState) : (s.modCs c t f).cycle = s.cycle := (rfl)
@[simp] theorem State.modCs_mem (s : State) (c t : Nat) (f : CState → CState) : (s.modCs c t f).mem = s.mem := (rfl)
@[simp] theorem State.modCs_ctl (s : State) (c t : Nat) (f : CState → CState) : (s.modCs c t f).ctl = s.ctl := (rfl)
@[simp] theorem State.modCs_thr (s : State) (c t : Nat) (f : CState → CState) : (s.modCs c t f).thr = s.thr := (rfl)
@[simp] theorem State.modCs_quad (s : State) (c t : Nat) (f : CState → CState) : (s.modCs c t f).quad = s.quad := (rfl)
@[simp] theorem State.modCs_oct (s : State) (c t : Nat) (f : CState → CState) : (s.modCs c t f).oct = s.oct := (rfl)
@[simp] theorem State.modCs_clu (s : State) (c t : Nat) (f : CState → CState) : (s.modCs c t f).clu = s.clu := (rfl)
@[simp] theorem State.modCs_ten (s : State) (c t : Nat) (f : CState → CState) : (s.modCs c t f).ten = s.ten := (rfl)
@[simp] theorem State.modCs_pkg (s : State) (c t : Nat) (f : CState → CState) : (s.modCs c t f).pkg = s.pkg := (rfl)
@[simp] theorem State.modCs_nodes (s : State) (c t : Nat) (f : CState → CState) : (s.modCs c t f).nodes = s.nodes := (rfl)
@[simp] theorem State.modCs_teams (s : State) (c t : Nat) (f : CState → CState) : (s.modCs c t f).teams = s.teams := (rfl)
@[simp] theorem State.modCs_bdc (s : State) (c t : Nat) (f : CState → CState) : (s.modCs c t f).bdc = s.bdc := (rfl)
@[simp] theorem State.modCs_banks (s : State) (c t : Nat) (f : CState → CState) : (s.modCs c t f).banks = s.banks := (rfl)
@[simp] theorem State.modCs_pip (s : State) (c t : Nat) (f : CState → CState) : (s.modCs c t f).pip = s.pip := (rfl)
@[simp] theorem State.modCs_uncorr (s : State) (c t : Nat) (f : CState → CState) : (s.modCs c t f).uncorr = s.uncorr := (rfl)
@[simp] theorem State.modCs_cur (s : State) (c t : Nat) (f : CState → CState) : (s.modCs c t f).cur = s.cur := (rfl)
@[simp] theorem State.modCs_sel (s : State) (c t : Nat) (f : CState → CState) : (s.modCs c t f).sel = s.sel := (rfl)
@[simp] theorem State.modCs_schedule (s : State) (c t : Nat) (f : CState → CState) : (s.modCs c t f).schedule = s.schedule := (rfl)
@[simp] theorem State.modCs_seq (s : State) (c t : Nat) (f : CState → CState) : (s.modCs c t f).seq = s.seq := (rfl)
@[simp] theorem State.modCs_at_ctlOf (s : State) (c t : Nat) (f : CState → CState) (j : Nat) : (s.modCs c t f).ctlOf j = s.ctlOf j := (rfl)
@[simp] theorem State.modCs_at_thrOf (s : State) (c t : Nat) (f : CState → CState) (j : Nat) : (s.modCs c t f).thrOf j = s.thrOf j := (rfl)
@[simp] theorem State.modCs_at_quadOf (s : State) (c t : Nat) (f : CState → CState) (j : Nat) : (s.modCs c t f).quadOf j = s.quadOf j := (rfl)
@[simp] theorem State.modCs_at_octOf (s : State) (c t : Nat) (f : CState → CState) (j : Nat) : (s.modCs c t f).octOf j = s.octOf j := (rfl)
@[simp] theorem State.modCs_at_cluOf (s : State) (c t : Nat) (f : CState → CState) (j : Nat) : (s.modCs c t f).cluOf j = s.cluOf j := (rfl)
@[simp] theorem State.modCs_at_tenOf (s : State) (c t : Nat) (f : CState → CState) (j : Nat) : (s.modCs c t f).tenOf j = s.tenOf j := (rfl)
@[simp] theorem State.modCs_at_nodeOf (s : State) (c t : Nat) (f : CState → CState) (j : Nat) : (s.modCs c t f).nodeOf j = s.nodeOf j := (rfl)
@[simp] theorem State.modCs_at_bdcOf (s : State) (c t : Nat) (f : CState → CState) (j : Nat) : (s.modCs c t f).bdcOf j = s.bdcOf j := (rfl)
@[simp] theorem State.modCs_at_rowTenant (s : State) (c t : Nat) (f : CState → CState) (j : Nat) : (s.modCs c t f).rowTenant j = s.rowTenant j := (rfl)
@[simp] theorem State.modCs_at_tenantOf (s : State) (c t : Nat) (f : CState → CState) (j : Nat) : (s.modCs c t f).tenantOf j = s.tenantOf j := (rfl)
@[simp] theorem State.modCs_me (s : State) (c t : Nat) (f : CState → CState) : (s.modCs c t f).me = s.me := (rfl)
@[simp] theorem State.modCs_rowGet (s : State) (c t : Nat) (f : CState → CState) (j p m : Nat) : (s.modCs c t f).rowGet j p m = s.rowGet j p m := (rfl)
@[simp] theorem State.modCs_greg (s : State) (c t : Nat) (f : CState → CState) (j p : Nat) : (s.modCs c t f).greg j p = s.greg j p := (rfl)
@[simp] theorem State.modCs_peek (s : State) (c t : Nat) (f : CState → CState) (j p : Nat) : (s.modCs c t f).peek j p = s.peek j p := (rfl)

/-! ### modLoaded -/
@[simp] theorem State.modLoaded_cycle (s : State) (c : Nat) (f : CState → CState) : (s.modLoaded c f).cycle = s.cycle := (rfl)
@[simp] theorem State.modLoaded_mem (s : State) (c : Nat) (f : CState → CState) : (s.modLoaded c f).mem = s.mem := (rfl)
@[simp] theorem State.modLoaded_ctl (s : State) (c : Nat) (f : CState → CState) : (s.modLoaded c f).ctl = s.ctl := (rfl)
@[simp] theorem State.modLoaded_thr (s : State) (c : Nat) (f : CState → CState) : (s.modLoaded c f).thr = s.thr := (rfl)
@[simp] theorem State.modLoaded_quad (s : State) (c : Nat) (f : CState → CState) : (s.modLoaded c f).quad = s.quad := (rfl)
@[simp] theorem State.modLoaded_oct (s : State) (c : Nat) (f : CState → CState) : (s.modLoaded c f).oct = s.oct := (rfl)
@[simp] theorem State.modLoaded_clu (s : State) (c : Nat) (f : CState → CState) : (s.modLoaded c f).clu = s.clu := (rfl)
@[simp] theorem State.modLoaded_ten (s : State) (c : Nat) (f : CState → CState) : (s.modLoaded c f).ten = s.ten := (rfl)
@[simp] theorem State.modLoaded_pkg (s : State) (c : Nat) (f : CState → CState) : (s.modLoaded c f).pkg = s.pkg := (rfl)
@[simp] theorem State.modLoaded_nodes (s : State) (c : Nat) (f : CState → CState) : (s.modLoaded c f).nodes = s.nodes := (rfl)
@[simp] theorem State.modLoaded_teams (s : State) (c : Nat) (f : CState → CState) : (s.modLoaded c f).teams = s.teams := (rfl)
@[simp] theorem State.modLoaded_bdc (s : State) (c : Nat) (f : CState → CState) : (s.modLoaded c f).bdc = s.bdc := (rfl)
@[simp] theorem State.modLoaded_banks (s : State) (c : Nat) (f : CState → CState) : (s.modLoaded c f).banks = s.banks := (rfl)
@[simp] theorem State.modLoaded_pip (s : State) (c : Nat) (f : CState → CState) : (s.modLoaded c f).pip = s.pip := (rfl)
@[simp] theorem State.modLoaded_uncorr (s : State) (c : Nat) (f : CState → CState) : (s.modLoaded c f).uncorr = s.uncorr := (rfl)
@[simp] theorem State.modLoaded_cur (s : State) (c : Nat) (f : CState → CState) : (s.modLoaded c f).cur = s.cur := (rfl)
@[simp] theorem State.modLoaded_sel (s : State) (c : Nat) (f : CState → CState) : (s.modLoaded c f).sel = s.sel := (rfl)
@[simp] theorem State.modLoaded_schedule (s : State) (c : Nat) (f : CState → CState) : (s.modLoaded c f).schedule = s.schedule := (rfl)
@[simp] theorem State.modLoaded_seq (s : State) (c : Nat) (f : CState → CState) : (s.modLoaded c f).seq = s.seq := (rfl)
@[simp] theorem State.modLoaded_at_ctlOf (s : State) (c : Nat) (f : CState → CState) (j : Nat) : (s.modLoaded c f).ctlOf j = s.ctlOf j := (rfl)
@[simp] theorem State.modLoaded_at_thrOf (s : State) (c : Nat) (f : CState → CState) (j : Nat) : (s.modLoaded c f).thrOf j = s.thrOf j := (rfl)
@[simp] theorem State.modLoaded_at_quadOf (s : State) (c : Nat) (f : CState → CState) (j : Nat) : (s.modLoaded c f).quadOf j = s.quadOf j := (rfl)
@[simp] theorem State.modLoaded_at_octOf (s : State) (c : Nat) (f : CState → CState) (j : Nat) : (s.modLoaded c f).octOf j = s.octOf j := (rfl)
@[simp] theorem State.modLoaded_at_cluOf (s : State) (c : Nat) (f : CState → CState) (j : Nat) : (s.modLoaded c f).cluOf j = s.cluOf j := (rfl)
@[simp] theorem State.modLoaded_at_tenOf (s : State) (c : Nat) (f : CState → CState) (j : Nat) : (s.modLoaded c f).tenOf j = s.tenOf j := (rfl)
@[simp] theorem State.modLoaded_at_nodeOf (s : State) (c : Nat) (f : CState → CState) (j : Nat) : (s.modLoaded c f).nodeOf j = s.nodeOf j := (rfl)
@[simp] theorem State.modLoaded_at_bdcOf (s : State) (c : Nat) (f : CState → CState) (j : Nat) : (s.modLoaded c f).bdcOf j = s.bdcOf j := (rfl)
@[simp] theorem State.modLoaded_at_rowTenant (s : State) (c : Nat) (f : CState → CState) (j : Nat) : (s.modLoaded c f).rowTenant j = s.rowTenant j := (rfl)
@[simp] theorem State.modLoaded_at_tenantOf (s : State) (c : Nat) (f : CState → CState) (j : Nat) : (s.modLoaded c f).tenantOf j = s.tenantOf j := (rfl)
@[simp] theorem State.modLoaded_me (s : State) (c : Nat) (f : CState → CState) : (s.modLoaded c f).me = s.me := (rfl)
@[simp] theorem State.modLoaded_rowGet (s : State) (c : Nat) (f : CState → CState) (j p m : Nat) : (s.modLoaded c f).rowGet j p m = s.rowGet j p m := (rfl)
@[simp] theorem State.modLoaded_greg (s : State) (c : Nat) (f : CState → CState) (j p : Nat) : (s.modLoaded c f).greg j p = s.greg j p := (rfl)
@[simp] theorem State.modLoaded_peek (s : State) (c : Nat) (f : CState → CState) (j p : Nat) : (s.modLoaded c f).peek j p = s.peek j p := (rfl)

/-! ### modQuad -/
@[simp] theorem State.modQuad_cycle (s : State) (q : Nat) (f : Quad → Quad) : (s.modQuad q f).cycle = s.cycle := (rfl)
@[simp] theorem State.modQuad_mem (s : State) (q : Nat) (f : Quad → Quad) : (s.modQuad q f).mem = s.mem := (rfl)
@[simp] theorem State.modQuad_ctl (s : State) (q : Nat) (f : Quad → Quad) : (s.modQuad q f).ctl = s.ctl := (rfl)
@[simp] theorem State.modQuad_thr (s : State) (q : Nat) (f : Quad → Quad) : (s.modQuad q f).thr = s.thr := (rfl)
@[simp] theorem State.modQuad_core (s : State) (q : Nat) (f : Quad → Quad) : (s.modQuad q f).core = s.core := (rfl)
@[simp] theorem State.modQuad_oct (s : State) (q : Nat) (f : Quad → Quad) : (s.modQuad q f).oct = s.oct := (rfl)
@[simp] theorem State.modQuad_clu (s : State) (q : Nat) (f : Quad → Quad) : (s.modQuad q f).clu = s.clu := (rfl)
@[simp] theorem State.modQuad_ten (s : State) (q : Nat) (f : Quad → Quad) : (s.modQuad q f).ten = s.ten := (rfl)
@[simp] theorem State.modQuad_pkg (s : State) (q : Nat) (f : Quad → Quad) : (s.modQuad q f).pkg = s.pkg := (rfl)
@[simp] theorem State.modQuad_nodes (s : State) (q : Nat) (f : Quad → Quad) : (s.modQuad q f).nodes = s.nodes := (rfl)
@[simp] theorem State.modQuad_teams (s : State) (q : Nat) (f : Quad → Quad) : (s.modQuad q f).teams = s.teams := (rfl)
@[simp] theorem State.modQuad_bdc (s : State) (q : Nat) (f : Quad → Quad) : (s.modQuad q f).bdc = s.bdc := (rfl)
@[simp] theorem State.modQuad_banks (s : State) (q : Nat) (f : Quad → Quad) : (s.modQuad q f).banks = s.banks := (rfl)
@[simp] theorem State.modQuad_pip (s : State) (q : Nat) (f : Quad → Quad) : (s.modQuad q f).pip = s.pip := (rfl)
@[simp] theorem State.modQuad_uncorr (s : State) (q : Nat) (f : Quad → Quad) : (s.modQuad q f).uncorr = s.uncorr := (rfl)
@[simp] theorem State.modQuad_cur (s : State) (q : Nat) (f : Quad → Quad) : (s.modQuad q f).cur = s.cur := (rfl)
@[simp] theorem State.modQuad_sel (s : State) (q : Nat) (f : Quad → Quad) : (s.modQuad q f).sel = s.sel := (rfl)
@[simp] theorem State.modQuad_schedule (s : State) (q : Nat) (f : Quad → Quad) : (s.modQuad q f).schedule = s.schedule := (rfl)
@[simp] theorem State.modQuad_seq (s : State) (q : Nat) (f : Quad → Quad) : (s.modQuad q f).seq = s.seq := (rfl)
@[simp] theorem State.modQuad_at_ctlOf (s : State) (q : Nat) (f : Quad → Quad) (j : Nat) : (s.modQuad q f).ctlOf j = s.ctlOf j := (rfl)
@[simp] theorem State.modQuad_at_thrOf (s : State) (q : Nat) (f : Quad → Quad) (j : Nat) : (s.modQuad q f).thrOf j = s.thrOf j := (rfl)
@[simp] theorem State.modQuad_at_coreOf (s : State) (q : Nat) (f : Quad → Quad) (j : Nat) : (s.modQuad q f).coreOf j = s.coreOf j := (rfl)
@[simp] theorem State.modQuad_at_cs (s : State) (q : Nat) (f : Quad → Quad) (j : Nat) : (s.modQuad q f).cs j = s.cs j := (rfl)
@[simp] theorem State.modQuad_at_octOf (s : State) (q : Nat) (f : Quad → Quad) (j : Nat) : (s.modQuad q f).octOf j = s.octOf j := (rfl)
@[simp] theorem State.modQuad_at_cluOf (s : State) (q : Nat) (f : Quad → Quad) (j : Nat) : (s.modQuad q f).cluOf j = s.cluOf j := (rfl)
@[simp] theorem State.modQuad_at_tenOf (s : State) (q : Nat) (f : Quad → Quad) (j : Nat) : (s.modQuad q f).tenOf j = s.tenOf j := (rfl)
@[simp] theorem State.modQuad_at_nodeOf (s : State) (q : Nat) (f : Quad → Quad) (j : Nat) : (s.modQuad q f).nodeOf j = s.nodeOf j := (rfl)
@[simp] theorem State.modQuad_at_bdcOf (s : State) (q : Nat) (f : Quad → Quad) (j : Nat) : (s.modQuad q f).bdcOf j = s.bdcOf j := (rfl)
@[simp] theorem State.modQuad_at_rowTenant (s : State) (q : Nat) (f : Quad → Quad) (j : Nat) : (s.modQuad q f).rowTenant j = s.rowTenant j := (rfl)
@[simp] theorem State.modQuad_at_tenantOf (s : State) (q : Nat) (f : Quad → Quad) (j : Nat) : (s.modQuad q f).tenantOf j = s.tenantOf j := (rfl)
@[simp] theorem State.modQuad_me (s : State) (q : Nat) (f : Quad → Quad) : (s.modQuad q f).me = s.me := (rfl)
@[simp] theorem State.modQuad_rowGet (s : State) (q : Nat) (f : Quad → Quad) (j p m : Nat) : (s.modQuad q f).rowGet j p m = s.rowGet j p m := (rfl)
@[simp] theorem State.modQuad_greg (s : State) (q : Nat) (f : Quad → Quad) (j p : Nat) : (s.modQuad q f).greg j p = s.greg j p := (rfl)
@[simp] theorem State.modQuad_peek (s : State) (q : Nat) (f : Quad → Quad) (j p : Nat) : (s.modQuad q f).peek j p = s.peek j p := (rfl)

/-! ### modOct -/
@[simp] theorem State.modOct_cycle (s : State) (o : Nat) (f : Octet → Octet) : (s.modOct o f).cycle = s.cycle := (rfl)
@[simp] theorem State.modOct_mem (s : State) (o : Nat) (f : Octet → Octet) : (s.modOct o f).mem = s.mem := (rfl)
@[simp] theorem State.modOct_ctl (s : State) (o : Nat) (f : Octet → Octet) : (s.modOct o f).ctl = s.ctl := (rfl)
@[simp] theorem State.modOct_thr (s : State) (o : Nat) (f : Octet → Octet) : (s.modOct o f).thr = s.thr := (rfl)
@[simp] theorem State.modOct_core (s : State) (o : Nat) (f : Octet → Octet) : (s.modOct o f).core = s.core := (rfl)
@[simp] theorem State.modOct_quad (s : State) (o : Nat) (f : Octet → Octet) : (s.modOct o f).quad = s.quad := (rfl)
@[simp] theorem State.modOct_clu (s : State) (o : Nat) (f : Octet → Octet) : (s.modOct o f).clu = s.clu := (rfl)
@[simp] theorem State.modOct_ten (s : State) (o : Nat) (f : Octet → Octet) : (s.modOct o f).ten = s.ten := (rfl)
@[simp] theorem State.modOct_pkg (s : State) (o : Nat) (f : Octet → Octet) : (s.modOct o f).pkg = s.pkg := (rfl)
@[simp] theorem State.modOct_nodes (s : State) (o : Nat) (f : Octet → Octet) : (s.modOct o f).nodes = s.nodes := (rfl)
@[simp] theorem State.modOct_teams (s : State) (o : Nat) (f : Octet → Octet) : (s.modOct o f).teams = s.teams := (rfl)
@[simp] theorem State.modOct_bdc (s : State) (o : Nat) (f : Octet → Octet) : (s.modOct o f).bdc = s.bdc := (rfl)
@[simp] theorem State.modOct_banks (s : State) (o : Nat) (f : Octet → Octet) : (s.modOct o f).banks = s.banks := (rfl)
@[simp] theorem State.modOct_pip (s : State) (o : Nat) (f : Octet → Octet) : (s.modOct o f).pip = s.pip := (rfl)
@[simp] theorem State.modOct_uncorr (s : State) (o : Nat) (f : Octet → Octet) : (s.modOct o f).uncorr = s.uncorr := (rfl)
@[simp] theorem State.modOct_cur (s : State) (o : Nat) (f : Octet → Octet) : (s.modOct o f).cur = s.cur := (rfl)
@[simp] theorem State.modOct_sel (s : State) (o : Nat) (f : Octet → Octet) : (s.modOct o f).sel = s.sel := (rfl)
@[simp] theorem State.modOct_schedule (s : State) (o : Nat) (f : Octet → Octet) : (s.modOct o f).schedule = s.schedule := (rfl)
@[simp] theorem State.modOct_seq (s : State) (o : Nat) (f : Octet → Octet) : (s.modOct o f).seq = s.seq := (rfl)
@[simp] theorem State.modOct_at_ctlOf (s : State) (o : Nat) (f : Octet → Octet) (j : Nat) : (s.modOct o f).ctlOf j = s.ctlOf j := (rfl)
@[simp] theorem State.modOct_at_thrOf (s : State) (o : Nat) (f : Octet → Octet) (j : Nat) : (s.modOct o f).thrOf j = s.thrOf j := (rfl)
@[simp] theorem State.modOct_at_coreOf (s : State) (o : Nat) (f : Octet → Octet) (j : Nat) : (s.modOct o f).coreOf j = s.coreOf j := (rfl)
@[simp] theorem State.modOct_at_cs (s : State) (o : Nat) (f : Octet → Octet) (j : Nat) : (s.modOct o f).cs j = s.cs j := (rfl)
@[simp] theorem State.modOct_at_quadOf (s : State) (o : Nat) (f : Octet → Octet) (j : Nat) : (s.modOct o f).quadOf j = s.quadOf j := (rfl)
@[simp] theorem State.modOct_at_cluOf (s : State) (o : Nat) (f : Octet → Octet) (j : Nat) : (s.modOct o f).cluOf j = s.cluOf j := (rfl)
@[simp] theorem State.modOct_at_tenOf (s : State) (o : Nat) (f : Octet → Octet) (j : Nat) : (s.modOct o f).tenOf j = s.tenOf j := (rfl)
@[simp] theorem State.modOct_at_nodeOf (s : State) (o : Nat) (f : Octet → Octet) (j : Nat) : (s.modOct o f).nodeOf j = s.nodeOf j := (rfl)
@[simp] theorem State.modOct_at_bdcOf (s : State) (o : Nat) (f : Octet → Octet) (j : Nat) : (s.modOct o f).bdcOf j = s.bdcOf j := (rfl)
@[simp] theorem State.modOct_me (s : State) (o : Nat) (f : Octet → Octet) : (s.modOct o f).me = s.me := (rfl)
@[simp] theorem State.modOct_rowGet (s : State) (o : Nat) (f : Octet → Octet) (j p m : Nat) : (s.modOct o f).rowGet j p m = s.rowGet j p m := (rfl)
@[simp] theorem State.modOct_greg (s : State) (o : Nat) (f : Octet → Octet) (j p : Nat) : (s.modOct o f).greg j p = s.greg j p := (rfl)
@[simp] theorem State.modOct_peek (s : State) (o : Nat) (f : Octet → Octet) (j p : Nat) : (s.modOct o f).peek j p = s.peek j p := (rfl)

/-! ### modClu -/
@[simp] theorem State.modClu_cycle (s : State) (k : Nat) (f : Cluster → Cluster) : (s.modClu k f).cycle = s.cycle := (rfl)
@[simp] theorem State.modClu_mem (s : State) (k : Nat) (f : Cluster → Cluster) : (s.modClu k f).mem = s.mem := (rfl)
@[simp] theorem State.modClu_ctl (s : State) (k : Nat) (f : Cluster → Cluster) : (s.modClu k f).ctl = s.ctl := (rfl)
@[simp] theorem State.modClu_thr (s : State) (k : Nat) (f : Cluster → Cluster) : (s.modClu k f).thr = s.thr := (rfl)
@[simp] theorem State.modClu_core (s : State) (k : Nat) (f : Cluster → Cluster) : (s.modClu k f).core = s.core := (rfl)
@[simp] theorem State.modClu_quad (s : State) (k : Nat) (f : Cluster → Cluster) : (s.modClu k f).quad = s.quad := (rfl)
@[simp] theorem State.modClu_oct (s : State) (k : Nat) (f : Cluster → Cluster) : (s.modClu k f).oct = s.oct := (rfl)
@[simp] theorem State.modClu_ten (s : State) (k : Nat) (f : Cluster → Cluster) : (s.modClu k f).ten = s.ten := (rfl)
@[simp] theorem State.modClu_pkg (s : State) (k : Nat) (f : Cluster → Cluster) : (s.modClu k f).pkg = s.pkg := (rfl)
@[simp] theorem State.modClu_nodes (s : State) (k : Nat) (f : Cluster → Cluster) : (s.modClu k f).nodes = s.nodes := (rfl)
@[simp] theorem State.modClu_teams (s : State) (k : Nat) (f : Cluster → Cluster) : (s.modClu k f).teams = s.teams := (rfl)
@[simp] theorem State.modClu_bdc (s : State) (k : Nat) (f : Cluster → Cluster) : (s.modClu k f).bdc = s.bdc := (rfl)
@[simp] theorem State.modClu_banks (s : State) (k : Nat) (f : Cluster → Cluster) : (s.modClu k f).banks = s.banks := (rfl)
@[simp] theorem State.modClu_pip (s : State) (k : Nat) (f : Cluster → Cluster) : (s.modClu k f).pip = s.pip := (rfl)
@[simp] theorem State.modClu_uncorr (s : State) (k : Nat) (f : Cluster → Cluster) : (s.modClu k f).uncorr = s.uncorr := (rfl)
@[simp] theorem State.modClu_cur (s : State) (k : Nat) (f : Cluster → Cluster) : (s.modClu k f).cur = s.cur := (rfl)
@[simp] theorem State.modClu_sel (s : State) (k : Nat) (f : Cluster → Cluster) : (s.modClu k f).sel = s.sel := (rfl)
@[simp] theorem State.modClu_schedule (s : State) (k : Nat) (f : Cluster → Cluster) : (s.modClu k f).schedule = s.schedule := (rfl)
@[simp] theorem State.modClu_seq (s : State) (k : Nat) (f : Cluster → Cluster) : (s.modClu k f).seq = s.seq := (rfl)
@[simp] theorem State.modClu_at_ctlOf (s : State) (k : Nat) (f : Cluster → Cluster) (j : Nat) : (s.modClu k f).ctlOf j = s.ctlOf j := (rfl)
@[simp] theorem State.modClu_at_thrOf (s : State) (k : Nat) (f : Cluster → Cluster) (j : Nat) : (s.modClu k f).thrOf j = s.thrOf j := (rfl)
@[simp] theorem State.modClu_at_coreOf (s : State) (k : Nat) (f : Cluster → Cluster) (j : Nat) : (s.modClu k f).coreOf j = s.coreOf j := (rfl)
@[simp] theorem State.modClu_at_cs (s : State) (k : Nat) (f : Cluster → Cluster) (j : Nat) : (s.modClu k f).cs j = s.cs j := (rfl)
@[simp] theorem State.modClu_at_quadOf (s : State) (k : Nat) (f : Cluster → Cluster) (j : Nat) : (s.modClu k f).quadOf j = s.quadOf j := (rfl)
@[simp] theorem State.modClu_at_octOf (s : State) (k : Nat) (f : Cluster → Cluster) (j : Nat) : (s.modClu k f).octOf j = s.octOf j := (rfl)
@[simp] theorem State.modClu_at_tenOf (s : State) (k : Nat) (f : Cluster → Cluster) (j : Nat) : (s.modClu k f).tenOf j = s.tenOf j := (rfl)
@[simp] theorem State.modClu_at_nodeOf (s : State) (k : Nat) (f : Cluster → Cluster) (j : Nat) : (s.modClu k f).nodeOf j = s.nodeOf j := (rfl)
@[simp] theorem State.modClu_at_bdcOf (s : State) (k : Nat) (f : Cluster → Cluster) (j : Nat) : (s.modClu k f).bdcOf j = s.bdcOf j := (rfl)
@[simp] theorem State.modClu_at_rowTenant (s : State) (k : Nat) (f : Cluster → Cluster) (j : Nat) : (s.modClu k f).rowTenant j = s.rowTenant j := (rfl)
@[simp] theorem State.modClu_at_tenantOf (s : State) (k : Nat) (f : Cluster → Cluster) (j : Nat) : (s.modClu k f).tenantOf j = s.tenantOf j := (rfl)
@[simp] theorem State.modClu_me (s : State) (k : Nat) (f : Cluster → Cluster) : (s.modClu k f).me = s.me := (rfl)
@[simp] theorem State.modClu_rowGet (s : State) (k : Nat) (f : Cluster → Cluster) (j p m : Nat) : (s.modClu k f).rowGet j p m = s.rowGet j p m := (rfl)
@[simp] theorem State.modClu_greg (s : State) (k : Nat) (f : Cluster → Cluster) (j p : Nat) : (s.modClu k f).greg j p = s.greg j p := (rfl)
@[simp] theorem State.modClu_peek (s : State) (k : Nat) (f : Cluster → Cluster) (j p : Nat) : (s.modClu k f).peek j p = s.peek j p := (rfl)

/-! ### modTen -/
@[simp] theorem State.modTen_cycle (s : State) (t : Nat) (f : Tenant → Tenant) : (s.modTen t f).cycle = s.cycle := (rfl)
@[simp] theorem State.modTen_mem (s : State) (t : Nat) (f : Tenant → Tenant) : (s.modTen t f).mem = s.mem := (rfl)
@[simp] theorem State.modTen_ctl (s : State) (t : Nat) (f : Tenant → Tenant) : (s.modTen t f).ctl = s.ctl := (rfl)
@[simp] theorem State.modTen_thr (s : State) (t : Nat) (f : Tenant → Tenant) : (s.modTen t f).thr = s.thr := (rfl)
@[simp] theorem State.modTen_core (s : State) (t : Nat) (f : Tenant → Tenant) : (s.modTen t f).core = s.core := (rfl)
@[simp] theorem State.modTen_quad (s : State) (t : Nat) (f : Tenant → Tenant) : (s.modTen t f).quad = s.quad := (rfl)
@[simp] theorem State.modTen_oct (s : State) (t : Nat) (f : Tenant → Tenant) : (s.modTen t f).oct = s.oct := (rfl)
@[simp] theorem State.modTen_clu (s : State) (t : Nat) (f : Tenant → Tenant) : (s.modTen t f).clu = s.clu := (rfl)
@[simp] theorem State.modTen_pkg (s : State) (t : Nat) (f : Tenant → Tenant) : (s.modTen t f).pkg = s.pkg := (rfl)
@[simp] theorem State.modTen_nodes (s : State) (t : Nat) (f : Tenant → Tenant) : (s.modTen t f).nodes = s.nodes := (rfl)
@[simp] theorem State.modTen_teams (s : State) (t : Nat) (f : Tenant → Tenant) : (s.modTen t f).teams = s.teams := (rfl)
@[simp] theorem State.modTen_bdc (s : State) (t : Nat) (f : Tenant → Tenant) : (s.modTen t f).bdc = s.bdc := (rfl)
@[simp] theorem State.modTen_banks (s : State) (t : Nat) (f : Tenant → Tenant) : (s.modTen t f).banks = s.banks := (rfl)
@[simp] theorem State.modTen_pip (s : State) (t : Nat) (f : Tenant → Tenant) : (s.modTen t f).pip = s.pip := (rfl)
@[simp] theorem State.modTen_uncorr (s : State) (t : Nat) (f : Tenant → Tenant) : (s.modTen t f).uncorr = s.uncorr := (rfl)
@[simp] theorem State.modTen_cur (s : State) (t : Nat) (f : Tenant → Tenant) : (s.modTen t f).cur = s.cur := (rfl)
@[simp] theorem State.modTen_sel (s : State) (t : Nat) (f : Tenant → Tenant) : (s.modTen t f).sel = s.sel := (rfl)
@[simp] theorem State.modTen_schedule (s : State) (t : Nat) (f : Tenant → Tenant) : (s.modTen t f).schedule = s.schedule := (rfl)
@[simp] theorem State.modTen_seq (s : State) (t : Nat) (f : Tenant → Tenant) : (s.modTen t f).seq = s.seq := (rfl)
@[simp] theorem State.modTen_at_ctlOf (s : State) (t : Nat) (f : Tenant → Tenant) (j : Nat) : (s.modTen t f).ctlOf j = s.ctlOf j := (rfl)
@[simp] theorem State.modTen_at_thrOf (s : State) (t : Nat) (f : Tenant → Tenant) (j : Nat) : (s.modTen t f).thrOf j = s.thrOf j := (rfl)
@[simp] theorem State.modTen_at_coreOf (s : State) (t : Nat) (f : Tenant → Tenant) (j : Nat) : (s.modTen t f).coreOf j = s.coreOf j := (rfl)
@[simp] theorem State.modTen_at_cs (s : State) (t : Nat) (f : Tenant → Tenant) (j : Nat) : (s.modTen t f).cs j = s.cs j := (rfl)
@[simp] theorem State.modTen_at_quadOf (s : State) (t : Nat) (f : Tenant → Tenant) (j : Nat) : (s.modTen t f).quadOf j = s.quadOf j := (rfl)
@[simp] theorem State.modTen_at_octOf (s : State) (t : Nat) (f : Tenant → Tenant) (j : Nat) : (s.modTen t f).octOf j = s.octOf j := (rfl)
@[simp] theorem State.modTen_at_cluOf (s : State) (t : Nat) (f : Tenant → Tenant) (j : Nat) : (s.modTen t f).cluOf j = s.cluOf j := (rfl)
@[simp] theorem State.modTen_at_nodeOf (s : State) (t : Nat) (f : Tenant → Tenant) (j : Nat) : (s.modTen t f).nodeOf j = s.nodeOf j := (rfl)
@[simp] theorem State.modTen_at_bdcOf (s : State) (t : Nat) (f : Tenant → Tenant) (j : Nat) : (s.modTen t f).bdcOf j = s.bdcOf j := (rfl)
@[simp] theorem State.modTen_at_rowTenant (s : State) (t : Nat) (f : Tenant → Tenant) (j : Nat) : (s.modTen t f).rowTenant j = s.rowTenant j := (rfl)
@[simp] theorem State.modTen_at_tenantOf (s : State) (t : Nat) (f : Tenant → Tenant) (j : Nat) : (s.modTen t f).tenantOf j = s.tenantOf j := (rfl)
@[simp] theorem State.modTen_me (s : State) (t : Nat) (f : Tenant → Tenant) : (s.modTen t f).me = s.me := (rfl)
@[simp] theorem State.modTen_rowGet (s : State) (t : Nat) (f : Tenant → Tenant) (j p m : Nat) : (s.modTen t f).rowGet j p m = s.rowGet j p m := (rfl)
@[simp] theorem State.modTen_greg (s : State) (t : Nat) (f : Tenant → Tenant) (j p : Nat) : (s.modTen t f).greg j p = s.greg j p := (rfl)
@[simp] theorem State.modTen_peek (s : State) (t : Nat) (f : Tenant → Tenant) (j p : Nat) : (s.modTen t f).peek j p = s.peek j p := (rfl)

/-! ### modNode -/
@[simp] theorem State.modNode_cycle (s : State) (n : Nat) (f : GraphNode → GraphNode) : (s.modNode n f).cycle = s.cycle := (rfl)
@[simp] theorem State.modNode_mem (s : State) (n : Nat) (f : GraphNode → GraphNode) : (s.modNode n f).mem = s.mem := (rfl)
@[simp] theorem State.modNode_ctl (s : State) (n : Nat) (f : GraphNode → GraphNode) : (s.modNode n f).ctl = s.ctl := (rfl)
@[simp] theorem State.modNode_thr (s : State) (n : Nat) (f : GraphNode → GraphNode) : (s.modNode n f).thr = s.thr := (rfl)
@[simp] theorem State.modNode_core (s : State) (n : Nat) (f : GraphNode → GraphNode) : (s.modNode n f).core = s.core := (rfl)
@[simp] theorem State.modNode_quad (s : State) (n : Nat) (f : GraphNode → GraphNode) : (s.modNode n f).quad = s.quad := (rfl)
@[simp] theorem State.modNode_oct (s : State) (n : Nat) (f : GraphNode → GraphNode) : (s.modNode n f).oct = s.oct := (rfl)
@[simp] theorem State.modNode_clu (s : State) (n : Nat) (f : GraphNode → GraphNode) : (s.modNode n f).clu = s.clu := (rfl)
@[simp] theorem State.modNode_ten (s : State) (n : Nat) (f : GraphNode → GraphNode) : (s.modNode n f).ten = s.ten := (rfl)
@[simp] theorem State.modNode_pkg (s : State) (n : Nat) (f : GraphNode → GraphNode) : (s.modNode n f).pkg = s.pkg := (rfl)
@[simp] theorem State.modNode_teams (s : State) (n : Nat) (f : GraphNode → GraphNode) : (s.modNode n f).teams = s.teams := (rfl)
@[simp] theorem State.modNode_bdc (s : State) (n : Nat) (f : GraphNode → GraphNode) : (s.modNode n f).bdc = s.bdc := (rfl)
@[simp] theorem State.modNode_banks (s : State) (n : Nat) (f : GraphNode → GraphNode) : (s.modNode n f).banks = s.banks := (rfl)
@[simp] theorem State.modNode_pip (s : State) (n : Nat) (f : GraphNode → GraphNode) : (s.modNode n f).pip = s.pip := (rfl)
@[simp] theorem State.modNode_uncorr (s : State) (n : Nat) (f : GraphNode → GraphNode) : (s.modNode n f).uncorr = s.uncorr := (rfl)
@[simp] theorem State.modNode_cur (s : State) (n : Nat) (f : GraphNode → GraphNode) : (s.modNode n f).cur = s.cur := (rfl)
@[simp] theorem State.modNode_sel (s : State) (n : Nat) (f : GraphNode → GraphNode) : (s.modNode n f).sel = s.sel := (rfl)
@[simp] theorem State.modNode_schedule (s : State) (n : Nat) (f : GraphNode → GraphNode) : (s.modNode n f).schedule = s.schedule := (rfl)
@[simp] theorem State.modNode_seq (s : State) (n : Nat) (f : GraphNode → GraphNode) : (s.modNode n f).seq = s.seq := (rfl)
@[simp] theorem State.modNode_at_ctlOf (s : State) (n : Nat) (f : GraphNode → GraphNode) (j : Nat) : (s.modNode n f).ctlOf j = s.ctlOf j := (rfl)
@[simp] theorem State.modNode_at_thrOf (s : State) (n : Nat) (f : GraphNode → GraphNode) (j : Nat) : (s.modNode n f).thrOf j = s.thrOf j := (rfl)
@[simp] theorem State.modNode_at_coreOf (s : State) (n : Nat) (f : GraphNode → GraphNode) (j : Nat) : (s.modNode n f).coreOf j = s.coreOf j := (rfl)
@[simp] theorem State.modNode_at_cs (s : State) (n : Nat) (f : GraphNode → GraphNode) (j : Nat) : (s.modNode n f).cs j = s.cs j := (rfl)
@[simp] theorem State.modNode_at_quadOf (s : State) (n : Nat) (f : GraphNode → GraphNode) (j : Nat) : (s.modNode n f).quadOf j = s.quadOf j := (rfl)
@[simp] theorem State.modNode_at_octOf (s : State) (n : Nat) (f : GraphNode → GraphNode) (j : Nat) : (s.modNode n f).octOf j = s.octOf j := (rfl)
@[simp] theorem State.modNode_at_cluOf (s : State) (n : Nat) (f : GraphNode → GraphNode) (j : Nat) : (s.modNode n f).cluOf j = s.cluOf j := (rfl)
@[simp] theorem State.modNode_at_tenOf (s : State) (n : Nat) (f : GraphNode → GraphNode) (j : Nat) : (s.modNode n f).tenOf j = s.tenOf j := (rfl)
@[simp] theorem State.modNode_at_bdcOf (s : State) (n : Nat) (f : GraphNode → GraphNode) (j : Nat) : (s.modNode n f).bdcOf j = s.bdcOf j := (rfl)
@[simp] theorem State.modNode_at_rowTenant (s : State) (n : Nat) (f : GraphNode → GraphNode) (j : Nat) : (s.modNode n f).rowTenant j = s.rowTenant j := (rfl)
@[simp] theorem State.modNode_at_tenantOf (s : State) (n : Nat) (f : GraphNode → GraphNode) (j : Nat) : (s.modNode n f).tenantOf j = s.tenantOf j := (rfl)
@[simp] theorem State.modNode_me (s : State) (n : Nat) (f : GraphNode → GraphNode) : (s.modNode n f).me = s.me := (rfl)
@[simp] theorem State.modNode_rowGet (s : State) (n : Nat) (f : GraphNode → GraphNode) (j p m : Nat) : (s.modNode n f).rowGet j p m = s.rowGet j p m := (rfl)
@[simp] theorem State.modNode_greg (s : State) (n : Nat) (f : GraphNode → GraphNode) (j p : Nat) : (s.modNode n f).greg j p = s.greg j p := (rfl)
@[simp] theorem State.modNode_peek (s : State) (n : Nat) (f : GraphNode → GraphNode) (j p : Nat) : (s.modNode n f).peek j p = s.peek j p := (rfl)

/-! ### modBdc -/
@[simp] theorem State.modBdc_cycle (s : State) (b : Nat) (f : BaseCore → BaseCore) : (s.modBdc b f).cycle = s.cycle := (rfl)
@[simp] theorem State.modBdc_mem (s : State) (b : Nat) (f : BaseCore → BaseCore) : (s.modBdc b f).mem = s.mem := (rfl)
@[simp] theorem State.modBdc_ctl (s : State) (b : Nat) (f : BaseCore → BaseCore) : (s.modBdc b f).ctl = s.ctl := (rfl)
@[simp] theorem State.modBdc_thr (s : State) (b : Nat) (f : BaseCore → BaseCore) : (s.modBdc b f).thr = s.thr := (rfl)
@[simp] theorem State.modBdc_core (s : State) (b : Nat) (f : BaseCore → BaseCore) : (s.modBdc b f).core = s.core := (rfl)
@[simp] theorem State.modBdc_quad (s : State) (b : Nat) (f : BaseCore → BaseCore) : (s.modBdc b f).quad = s.quad := (rfl)
@[simp] theorem State.modBdc_oct (s : State) (b : Nat) (f : BaseCore → BaseCore) : (s.modBdc b f).oct = s.oct := (rfl)
@[simp] theorem State.modBdc_clu (s : State) (b : Nat) (f : BaseCore → BaseCore) : (s.modBdc b f).clu = s.clu := (rfl)
@[simp] theorem State.modBdc_ten (s : State) (b : Nat) (f : BaseCore → BaseCore) : (s.modBdc b f).ten = s.ten := (rfl)
@[simp] theorem State.modBdc_pkg (s : State) (b : Nat) (f : BaseCore → BaseCore) : (s.modBdc b f).pkg = s.pkg := (rfl)
@[simp] theorem State.modBdc_nodes (s : State) (b : Nat) (f : BaseCore → BaseCore) : (s.modBdc b f).nodes = s.nodes := (rfl)
@[simp] theorem State.modBdc_teams (s : State) (b : Nat) (f : BaseCore → BaseCore) : (s.modBdc b f).teams = s.teams := (rfl)
@[simp] theorem State.modBdc_banks (s : State) (b : Nat) (f : BaseCore → BaseCore) : (s.modBdc b f).banks = s.banks := (rfl)
@[simp] theorem State.modBdc_pip (s : State) (b : Nat) (f : BaseCore → BaseCore) : (s.modBdc b f).pip = s.pip := (rfl)
@[simp] theorem State.modBdc_uncorr (s : State) (b : Nat) (f : BaseCore → BaseCore) : (s.modBdc b f).uncorr = s.uncorr := (rfl)
@[simp] theorem State.modBdc_cur (s : State) (b : Nat) (f : BaseCore → BaseCore) : (s.modBdc b f).cur = s.cur := (rfl)
@[simp] theorem State.modBdc_sel (s : State) (b : Nat) (f : BaseCore → BaseCore) : (s.modBdc b f).sel = s.sel := (rfl)
@[simp] theorem State.modBdc_schedule (s : State) (b : Nat) (f : BaseCore → BaseCore) : (s.modBdc b f).schedule = s.schedule := (rfl)
@[simp] theorem State.modBdc_seq (s : State) (b : Nat) (f : BaseCore → BaseCore) : (s.modBdc b f).seq = s.seq := (rfl)
@[simp] theorem State.modBdc_at_ctlOf (s : State) (b : Nat) (f : BaseCore → BaseCore) (j : Nat) : (s.modBdc b f).ctlOf j = s.ctlOf j := (rfl)
@[simp] theorem State.modBdc_at_thrOf (s : State) (b : Nat) (f : BaseCore → BaseCore) (j : Nat) : (s.modBdc b f).thrOf j = s.thrOf j := (rfl)
@[simp] theorem State.modBdc_at_coreOf (s : State) (b : Nat) (f : BaseCore → BaseCore) (j : Nat) : (s.modBdc b f).coreOf j = s.coreOf j := (rfl)
@[simp] theorem State.modBdc_at_cs (s : State) (b : Nat) (f : BaseCore → BaseCore) (j : Nat) : (s.modBdc b f).cs j = s.cs j := (rfl)
@[simp] theorem State.modBdc_at_quadOf (s : State) (b : Nat) (f : BaseCore → BaseCore) (j : Nat) : (s.modBdc b f).quadOf j = s.quadOf j := (rfl)
@[simp] theorem State.modBdc_at_octOf (s : State) (b : Nat) (f : BaseCore → BaseCore) (j : Nat) : (s.modBdc b f).octOf j = s.octOf j := (rfl)
@[simp] theorem State.modBdc_at_cluOf (s : State) (b : Nat) (f : BaseCore → BaseCore) (j : Nat) : (s.modBdc b f).cluOf j = s.cluOf j := (rfl)
@[simp] theorem State.modBdc_at_tenOf (s : State) (b : Nat) (f : BaseCore → BaseCore) (j : Nat) : (s.modBdc b f).tenOf j = s.tenOf j := (rfl)
@[simp] theorem State.modBdc_at_nodeOf (s : State) (b : Nat) (f : BaseCore → BaseCore) (j : Nat) : (s.modBdc b f).nodeOf j = s.nodeOf j := (rfl)
@[simp] theorem State.modBdc_at_tenantOf (s : State) (b : Nat) (f : BaseCore → BaseCore) (j : Nat) : (s.modBdc b f).tenantOf j = s.tenantOf j := (rfl)
@[simp] theorem State.modBdc_me (s : State) (b : Nat) (f : BaseCore → BaseCore) : (s.modBdc b f).me = s.me := (rfl)
@[simp] theorem State.modBdc_rowGet (s : State) (b : Nat) (f : BaseCore → BaseCore) (j p m : Nat) : (s.modBdc b f).rowGet j p m = s.rowGet j p m := (rfl)
@[simp] theorem State.modBdc_greg (s : State) (b : Nat) (f : BaseCore → BaseCore) (j p : Nat) : (s.modBdc b f).greg j p = s.greg j p := (rfl)
@[simp] theorem State.modBdc_peek (s : State) (b : Nat) (f : BaseCore → BaseCore) (j p : Nat) : (s.modBdc b f).peek j p = s.peek j p := (rfl)

/-! ### modPkg -/
@[simp] theorem State.modPkg_cycle (s : State) (f : Package → Package) : (s.modPkg f).cycle = s.cycle := (rfl)
@[simp] theorem State.modPkg_mem (s : State) (f : Package → Package) : (s.modPkg f).mem = s.mem := (rfl)
@[simp] theorem State.modPkg_ctl (s : State) (f : Package → Package) : (s.modPkg f).ctl = s.ctl := (rfl)
@[simp] theorem State.modPkg_thr (s : State) (f : Package → Package) : (s.modPkg f).thr = s.thr := (rfl)
@[simp] theorem State.modPkg_core (s : State) (f : Package → Package) : (s.modPkg f).core = s.core := (rfl)
@[simp] theorem State.modPkg_quad (s : State) (f : Package → Package) : (s.modPkg f).quad = s.quad := (rfl)
@[simp] theorem State.modPkg_oct (s : State) (f : Package → Package) : (s.modPkg f).oct = s.oct := (rfl)
@[simp] theorem State.modPkg_clu (s : State) (f : Package → Package) : (s.modPkg f).clu = s.clu := (rfl)
@[simp] theorem State.modPkg_ten (s : State) (f : Package → Package) : (s.modPkg f).ten = s.ten := (rfl)
@[simp] theorem State.modPkg_nodes (s : State) (f : Package → Package) : (s.modPkg f).nodes = s.nodes := (rfl)
@[simp] theorem State.modPkg_teams (s : State) (f : Package → Package) : (s.modPkg f).teams = s.teams := (rfl)
@[simp] theorem State.modPkg_bdc (s : State) (f : Package → Package) : (s.modPkg f).bdc = s.bdc := (rfl)
@[simp] theorem State.modPkg_banks (s : State) (f : Package → Package) : (s.modPkg f).banks = s.banks := (rfl)
@[simp] theorem State.modPkg_pip (s : State) (f : Package → Package) : (s.modPkg f).pip = s.pip := (rfl)
@[simp] theorem State.modPkg_uncorr (s : State) (f : Package → Package) : (s.modPkg f).uncorr = s.uncorr := (rfl)
@[simp] theorem State.modPkg_cur (s : State) (f : Package → Package) : (s.modPkg f).cur = s.cur := (rfl)
@[simp] theorem State.modPkg_sel (s : State) (f : Package → Package) : (s.modPkg f).sel = s.sel := (rfl)
@[simp] theorem State.modPkg_schedule (s : State) (f : Package → Package) : (s.modPkg f).schedule = s.schedule := (rfl)
@[simp] theorem State.modPkg_seq (s : State) (f : Package → Package) : (s.modPkg f).seq = s.seq := (rfl)
@[simp] theorem State.modPkg_at_ctlOf (s : State) (f : Package → Package) (j : Nat) : (s.modPkg f).ctlOf j = s.ctlOf j := (rfl)
@[simp] theorem State.modPkg_at_thrOf (s : State) (f : Package → Package) (j : Nat) : (s.modPkg f).thrOf j = s.thrOf j := (rfl)
@[simp] theorem State.modPkg_at_coreOf (s : State) (f : Package → Package) (j : Nat) : (s.modPkg f).coreOf j = s.coreOf j := (rfl)
@[simp] theorem State.modPkg_at_cs (s : State) (f : Package → Package) (j : Nat) : (s.modPkg f).cs j = s.cs j := (rfl)
@[simp] theorem State.modPkg_at_quadOf (s : State) (f : Package → Package) (j : Nat) : (s.modPkg f).quadOf j = s.quadOf j := (rfl)
@[simp] theorem State.modPkg_at_octOf (s : State) (f : Package → Package) (j : Nat) : (s.modPkg f).octOf j = s.octOf j := (rfl)
@[simp] theorem State.modPkg_at_cluOf (s : State) (f : Package → Package) (j : Nat) : (s.modPkg f).cluOf j = s.cluOf j := (rfl)
@[simp] theorem State.modPkg_at_tenOf (s : State) (f : Package → Package) (j : Nat) : (s.modPkg f).tenOf j = s.tenOf j := (rfl)
@[simp] theorem State.modPkg_at_nodeOf (s : State) (f : Package → Package) (j : Nat) : (s.modPkg f).nodeOf j = s.nodeOf j := (rfl)
@[simp] theorem State.modPkg_at_bdcOf (s : State) (f : Package → Package) (j : Nat) : (s.modPkg f).bdcOf j = s.bdcOf j := (rfl)
@[simp] theorem State.modPkg_at_rowTenant (s : State) (f : Package → Package) (j : Nat) : (s.modPkg f).rowTenant j = s.rowTenant j := (rfl)
@[simp] theorem State.modPkg_at_tenantOf (s : State) (f : Package → Package) (j : Nat) : (s.modPkg f).tenantOf j = s.tenantOf j := (rfl)
@[simp] theorem State.modPkg_me (s : State) (f : Package → Package) : (s.modPkg f).me = s.me := (rfl)
@[simp] theorem State.modPkg_rowGet (s : State) (f : Package → Package) (j p m : Nat) : (s.modPkg f).rowGet j p m = s.rowGet j p m := (rfl)
@[simp] theorem State.modPkg_greg (s : State) (f : Package → Package) (j p : Nat) : (s.modPkg f).greg j p = s.greg j p := (rfl)
@[simp] theorem State.modPkg_peek (s : State) (f : Package → Package) (j p : Nat) : (s.modPkg f).peek j p = s.peek j p := (rfl)

/-! ### modCur -/
@[simp] theorem State.modCur_cycle (s : State) (f : Cur → Cur) : (s.modCur f).cycle = s.cycle := (rfl)
@[simp] theorem State.modCur_mem (s : State) (f : Cur → Cur) : (s.modCur f).mem = s.mem := (rfl)
@[simp] theorem State.modCur_ctl (s : State) (f : Cur → Cur) : (s.modCur f).ctl = s.ctl := (rfl)
@[simp] theorem State.modCur_thr (s : State) (f : Cur → Cur) : (s.modCur f).thr = s.thr := (rfl)
@[simp] theorem State.modCur_core (s : State) (f : Cur → Cur) : (s.modCur f).core = s.core := (rfl)
@[simp] theorem State.modCur_quad (s : State) (f : Cur → Cur) : (s.modCur f).quad = s.quad := (rfl)
@[simp] theorem State.modCur_oct (s : State) (f : Cur → Cur) : (s.modCur f).oct = s.oct := (rfl)
@[simp] theorem State.modCur_clu (s : State) (f : Cur → Cur) : (s.modCur f).clu = s.clu := (rfl)
@[simp] theorem State.modCur_ten (s : State) (f : Cur → Cur) : (s.modCur f).ten = s.ten := (rfl)
@[simp] theorem State.modCur_pkg (s : State) (f : Cur → Cur) : (s.modCur f).pkg = s.pkg := (rfl)
@[simp] theorem State.modCur_nodes (s : State) (f : Cur → Cur) : (s.modCur f).nodes = s.nodes := (rfl)
@[simp] theorem State.modCur_teams (s : State) (f : Cur → Cur) : (s.modCur f).teams = s.teams := (rfl)
@[simp] theorem State.modCur_bdc (s : State) (f : Cur → Cur) : (s.modCur f).bdc = s.bdc := (rfl)
@[simp] theorem State.modCur_banks (s : State) (f : Cur → Cur) : (s.modCur f).banks = s.banks := (rfl)
@[simp] theorem State.modCur_pip (s : State) (f : Cur → Cur) : (s.modCur f).pip = s.pip := (rfl)
@[simp] theorem State.modCur_uncorr (s : State) (f : Cur → Cur) : (s.modCur f).uncorr = s.uncorr := (rfl)
@[simp] theorem State.modCur_sel (s : State) (f : Cur → Cur) : (s.modCur f).sel = s.sel := (rfl)
@[simp] theorem State.modCur_schedule (s : State) (f : Cur → Cur) : (s.modCur f).schedule = s.schedule := (rfl)
@[simp] theorem State.modCur_seq (s : State) (f : Cur → Cur) : (s.modCur f).seq = s.seq := (rfl)
@[simp] theorem State.modCur_at_ctlOf (s : State) (f : Cur → Cur) (j : Nat) : (s.modCur f).ctlOf j = s.ctlOf j := (rfl)
@[simp] theorem State.modCur_at_thrOf (s : State) (f : Cur → Cur) (j : Nat) : (s.modCur f).thrOf j = s.thrOf j := (rfl)
@[simp] theorem State.modCur_at_coreOf (s : State) (f : Cur → Cur) (j : Nat) : (s.modCur f).coreOf j = s.coreOf j := (rfl)
@[simp] theorem State.modCur_at_cs (s : State) (f : Cur → Cur) (j : Nat) : (s.modCur f).cs j = s.cs j := (rfl)
@[simp] theorem State.modCur_at_quadOf (s : State) (f : Cur → Cur) (j : Nat) : (s.modCur f).quadOf j = s.quadOf j := (rfl)
@[simp] theorem State.modCur_at_octOf (s : State) (f : Cur → Cur) (j : Nat) : (s.modCur f).octOf j = s.octOf j := (rfl)
@[simp] theorem State.modCur_at_cluOf (s : State) (f : Cur → Cur) (j : Nat) : (s.modCur f).cluOf j = s.cluOf j := (rfl)
@[simp] theorem State.modCur_at_tenOf (s : State) (f : Cur → Cur) (j : Nat) : (s.modCur f).tenOf j = s.tenOf j := (rfl)
@[simp] theorem State.modCur_at_nodeOf (s : State) (f : Cur → Cur) (j : Nat) : (s.modCur f).nodeOf j = s.nodeOf j := (rfl)
@[simp] theorem State.modCur_at_bdcOf (s : State) (f : Cur → Cur) (j : Nat) : (s.modCur f).bdcOf j = s.bdcOf j := (rfl)
@[simp] theorem State.modCur_at_rowTenant (s : State) (f : Cur → Cur) (j : Nat) : (s.modCur f).rowTenant j = s.rowTenant j := (rfl)
@[simp] theorem State.modCur_at_tenantOf (s : State) (f : Cur → Cur) (j : Nat) : (s.modCur f).tenantOf j = s.tenantOf j := (rfl)
@[simp] theorem State.modCur_rowGet (s : State) (f : Cur → Cur) (j p m : Nat) : (s.modCur f).rowGet j p m = s.rowGet j p m := (rfl)
@[simp] theorem State.modCur_greg (s : State) (f : Cur → Cur) (j p : Nat) : (s.modCur f).greg j p = s.greg j p := (rfl)
@[simp] theorem State.modCur_peek (s : State) (f : Cur → Cur) (j p : Nat) : (s.modCur f).peek j p = s.peek j p := (rfl)

/-! ### poke -/
@[simp] theorem State.poke_cycle (s : State) (a : Nat) (b : List Byte) : (s.poke a b).cycle = s.cycle := (rfl)
@[simp] theorem State.poke_ctl (s : State) (a : Nat) (b : List Byte) : (s.poke a b).ctl = s.ctl := (rfl)
@[simp] theorem State.poke_thr (s : State) (a : Nat) (b : List Byte) : (s.poke a b).thr = s.thr := (rfl)
@[simp] theorem State.poke_core (s : State) (a : Nat) (b : List Byte) : (s.poke a b).core = s.core := (rfl)
@[simp] theorem State.poke_quad (s : State) (a : Nat) (b : List Byte) : (s.poke a b).quad = s.quad := (rfl)
@[simp] theorem State.poke_oct (s : State) (a : Nat) (b : List Byte) : (s.poke a b).oct = s.oct := (rfl)
@[simp] theorem State.poke_clu (s : State) (a : Nat) (b : List Byte) : (s.poke a b).clu = s.clu := (rfl)
@[simp] theorem State.poke_ten (s : State) (a : Nat) (b : List Byte) : (s.poke a b).ten = s.ten := (rfl)
@[simp] theorem State.poke_pkg (s : State) (a : Nat) (b : List Byte) : (s.poke a b).pkg = s.pkg := (rfl)
@[simp] theorem State.poke_nodes (s : State) (a : Nat) (b : List Byte) : (s.poke a b).nodes = s.nodes := (rfl)
@[simp] theorem State.poke_teams (s : State) (a : Nat) (b : List Byte) : (s.poke a b).teams = s.teams := (rfl)
@[simp] theorem State.poke_bdc (s : State) (a : Nat) (b : List Byte) : (s.poke a b).bdc = s.bdc := (rfl)
@[simp] theorem State.poke_banks (s : State) (a : Nat) (b : List Byte) : (s.poke a b).banks = s.banks := (rfl)
@[simp] theorem State.poke_pip (s : State) (a : Nat) (b : List Byte) : (s.poke a b).pip = s.pip := (rfl)
@[simp] theorem State.poke_uncorr (s : State) (a : Nat) (b : List Byte) : (s.poke a b).uncorr = s.uncorr := (rfl)
@[simp] theorem State.poke_cur (s : State) (a : Nat) (b : List Byte) : (s.poke a b).cur = s.cur := (rfl)
@[simp] theorem State.poke_sel (s : State) (a : Nat) (b : List Byte) : (s.poke a b).sel = s.sel := (rfl)
@[simp] theorem State.poke_schedule (s : State) (a : Nat) (b : List Byte) : (s.poke a b).schedule = s.schedule := (rfl)
@[simp] theorem State.poke_seq (s : State) (a : Nat) (b : List Byte) : (s.poke a b).seq = s.seq := (rfl)
@[simp] theorem State.poke_at_ctlOf (s : State) (a : Nat) (b : List Byte) (j : Nat) : (s.poke a b).ctlOf j = s.ctlOf j := (rfl)
@[simp] theorem State.poke_at_thrOf (s : State) (a : Nat) (b : List Byte) (j : Nat) : (s.poke a b).thrOf j = s.thrOf j := (rfl)
@[simp] theorem State.poke_at_coreOf (s : State) (a : Nat) (b : List Byte) (j : Nat) : (s.poke a b).coreOf j = s.coreOf j := (rfl)
@[simp] theorem State.poke_at_cs (s : State) (a : Nat) (b : List Byte) (j : Nat) : (s.poke a b).cs j = s.cs j := (rfl)
@[simp] theorem State.poke_at_quadOf (s : State) (a : Nat) (b : List Byte) (j : Nat) : (s.poke a b).quadOf j = s.quadOf j := (rfl)
@[simp] theorem State.poke_at_octOf (s : State) (a : Nat) (b : List Byte) (j : Nat) : (s.poke a b).octOf j = s.octOf j := (rfl)
@[simp] theorem State.poke_at_cluOf (s : State) (a : Nat) (b : List Byte) (j : Nat) : (s.poke a b).cluOf j = s.cluOf j := (rfl)
@[simp] theorem State.poke_at_tenOf (s : State) (a : Nat) (b : List Byte) (j : Nat) : (s.poke a b).tenOf j = s.tenOf j := (rfl)
@[simp] theorem State.poke_at_nodeOf (s : State) (a : Nat) (b : List Byte) (j : Nat) : (s.poke a b).nodeOf j = s.nodeOf j := (rfl)
@[simp] theorem State.poke_at_bdcOf (s : State) (a : Nat) (b : List Byte) (j : Nat) : (s.poke a b).bdcOf j = s.bdcOf j := (rfl)
@[simp] theorem State.poke_at_rowTenant (s : State) (a : Nat) (b : List Byte) (j : Nat) : (s.poke a b).rowTenant j = s.rowTenant j := (rfl)
@[simp] theorem State.poke_at_tenantOf (s : State) (a : Nat) (b : List Byte) (j : Nat) : (s.poke a b).tenantOf j = s.tenantOf j := (rfl)
@[simp] theorem State.poke_me (s : State) (a : Nat) (b : List Byte) : (s.poke a b).me = s.me := (rfl)

/-! ### rowPut -/
@[simp] theorem State.rowPut_cycle (s : State) (r o n v : Nat) : (s.rowPut r o n v).cycle = s.cycle := (rfl)
@[simp] theorem State.rowPut_ctl (s : State) (r o n v : Nat) : (s.rowPut r o n v).ctl = s.ctl := (rfl)
@[simp] theorem State.rowPut_thr (s : State) (r o n v : Nat) : (s.rowPut r o n v).thr = s.thr := (rfl)
@[simp] theorem State.rowPut_core (s : State) (r o n v : Nat) : (s.rowPut r o n v).core = s.core := (rfl)
@[simp] theorem State.rowPut_quad (s : State) (r o n v : Nat) : (s.rowPut r o n v).quad = s.quad := (rfl)
@[simp] theorem State.rowPut_oct (s : State) (r o n v : Nat) : (s.rowPut r o n v).oct = s.oct := (rfl)
@[simp] theorem State.rowPut_clu (s : State) (r o n v : Nat) : (s.rowPut r o n v).clu = s.clu := (rfl)
@[simp] theorem State.rowPut_ten (s : State) (r o n v : Nat) : (s.rowPut r o n v).ten = s.ten := (rfl)
@[simp] theorem State.rowPut_pkg (s : State) (r o n v : Nat) : (s.rowPut r o n v).pkg = s.pkg := (rfl)
@[simp] theorem State.rowPut_nodes (s : State) (r o n v : Nat) : (s.rowPut r o n v).nodes = s.nodes := (rfl)
@[simp] theorem State.rowPut_teams (s : State) (r o n v : Nat) : (s.rowPut r o n v).teams = s.teams := (rfl)
@[simp] theorem State.rowPut_bdc (s : State) (r o n v : Nat) : (s.rowPut r o n v).bdc = s.bdc := (rfl)
@[simp] theorem State.rowPut_banks (s : State) (r o n v : Nat) : (s.rowPut r o n v).banks = s.banks := (rfl)
@[simp] theorem State.rowPut_pip (s : State) (r o n v : Nat) : (s.rowPut r o n v).pip = s.pip := (rfl)
@[simp] theorem State.rowPut_uncorr (s : State) (r o n v : Nat) : (s.rowPut r o n v).uncorr = s.uncorr := (rfl)
@[simp] theorem State.rowPut_cur (s : State) (r o n v : Nat) : (s.rowPut r o n v).cur = s.cur := (rfl)
@[simp] theorem State.rowPut_sel (s : State) (r o n v : Nat) : (s.rowPut r o n v).sel = s.sel := (rfl)
@[simp] theorem State.rowPut_schedule (s : State) (r o n v : Nat) : (s.rowPut r o n v).schedule = s.schedule := (rfl)
@[simp] theorem State.rowPut_seq (s : State) (r o n v : Nat) : (s.rowPut r o n v).seq = s.seq := (rfl)
@[simp] theorem State.rowPut_at_ctlOf (s : State) (r o n v : Nat) (j : Nat) : (s.rowPut r o n v).ctlOf j = s.ctlOf j := (rfl)
@[simp] theorem State.rowPut_at_thrOf (s : State) (r o n v : Nat) (j : Nat) : (s.rowPut r o n v).thrOf j = s.thrOf j := (rfl)
@[simp] theorem State.rowPut_at_coreOf (s : State) (r o n v : Nat) (j : Nat) : (s.rowPut r o n v).coreOf j = s.coreOf j := (rfl)
@[simp] theorem State.rowPut_at_cs (s : State) (r o n v : Nat) (j : Nat) : (s.rowPut r o n v).cs j = s.cs j := (rfl)
@[simp] theorem State.rowPut_at_quadOf (s : State) (r o n v : Nat) (j : Nat) : (s.rowPut r o n v).quadOf j = s.quadOf j := (rfl)
@[simp] theorem State.rowPut_at_octOf (s : State) (r o n v : Nat) (j : Nat) : (s.rowPut r o n v).octOf j = s.octOf j := (rfl)
@[simp] theorem State.rowPut_at_cluOf (s : State) (r o n v : Nat) (j : Nat) : (s.rowPut r o n v).cluOf j = s.cluOf j := (rfl)
@[simp] theorem State.rowPut_at_tenOf (s : State) (r o n v : Nat) (j : Nat) : (s.rowPut r o n v).tenOf j = s.tenOf j := (rfl)
@[simp] theorem State.rowPut_at_nodeOf (s : State) (r o n v : Nat) (j : Nat) : (s.rowPut r o n v).nodeOf j = s.nodeOf j := (rfl)
@[simp] theorem State.rowPut_at_bdcOf (s : State) (r o n v : Nat) (j : Nat) : (s.rowPut r o n v).bdcOf j = s.bdcOf j := (rfl)
@[simp] theorem State.rowPut_at_rowTenant (s : State) (r o n v : Nat) (j : Nat) : (s.rowPut r o n v).rowTenant j = s.rowTenant j := (rfl)
@[simp] theorem State.rowPut_at_tenantOf (s : State) (r o n v : Nat) (j : Nat) : (s.rowPut r o n v).tenantOf j = s.tenantOf j := (rfl)
@[simp] theorem State.rowPut_me (s : State) (r o n v : Nat) : (s.rowPut r o n v).me = s.me := (rfl)

/-! ### rowZero -/
@[simp] theorem State.rowZero_cycle (s : State) (r o n : Nat) : (s.rowZero r o n).cycle = s.cycle := (rfl)
@[simp] theorem State.rowZero_ctl (s : State) (r o n : Nat) : (s.rowZero r o n).ctl = s.ctl := (rfl)
@[simp] theorem State.rowZero_thr (s : State) (r o n : Nat) : (s.rowZero r o n).thr = s.thr := (rfl)
@[simp] theorem State.rowZero_core (s : State) (r o n : Nat) : (s.rowZero r o n).core = s.core := (rfl)
@[simp] theorem State.rowZero_quad (s : State) (r o n : Nat) : (s.rowZero r o n).quad = s.quad := (rfl)
@[simp] theorem State.rowZero_oct (s : State) (r o n : Nat) : (s.rowZero r o n).oct = s.oct := (rfl)
@[simp] theorem State.rowZero_clu (s : State) (r o n : Nat) : (s.rowZero r o n).clu = s.clu := (rfl)
@[simp] theorem State.rowZero_ten (s : State) (r o n : Nat) : (s.rowZero r o n).ten = s.ten := (rfl)
@[simp] theorem State.rowZero_pkg (s : State) (r o n : Nat) : (s.rowZero r o n).pkg = s.pkg := (rfl)
@[simp] theorem State.rowZero_nodes (s : State) (r o n : Nat) : (s.rowZero r o n).nodes = s.nodes := (rfl)
@[simp] theorem State.rowZero_teams (s : State) (r o n : Nat) : (s.rowZero r o n).teams = s.teams := (rfl)
@[simp] theorem State.rowZero_bdc (s : State) (r o n : Nat) : (s.rowZero r o n).bdc = s.bdc := (rfl)
@[simp] theorem State.rowZero_banks (s : State) (r o n : Nat) : (s.rowZero r o n).banks = s.banks := (rfl)
@[simp] theorem State.rowZero_pip (s : State) (r o n : Nat) : (s.rowZero r o n).pip = s.pip := (rfl)
@[simp] theorem State.rowZero_uncorr (s : State) (r o n : Nat) : (s.rowZero r o n).uncorr = s.uncorr := (rfl)
@[simp] theorem State.rowZero_cur (s : State) (r o n : Nat) : (s.rowZero r o n).cur = s.cur := (rfl)
@[simp] theorem State.rowZero_sel (s : State) (r o n : Nat) : (s.rowZero r o n).sel = s.sel := (rfl)
@[simp] theorem State.rowZero_schedule (s : State) (r o n : Nat) : (s.rowZero r o n).schedule = s.schedule := (rfl)
@[simp] theorem State.rowZero_seq (s : State) (r o n : Nat) : (s.rowZero r o n).seq = s.seq := (rfl)
@[simp] theorem State.rowZero_at_ctlOf (s : State) (r o n : Nat) (j : Nat) : (s.rowZero r o n).ctlOf j = s.ctlOf j := (rfl)
@[simp] theorem State.rowZero_at_thrOf (s : State) (r o n : Nat) (j : Nat) : (s.rowZero r o n).thrOf j = s.thrOf j := (rfl)
@[simp] theorem State.rowZero_at_coreOf (s : State) (r o n : Nat) (j : Nat) : (s.rowZero r o n).coreOf j = s.coreOf j := (rfl)
@[simp] theorem State.rowZero_at_cs (s : State) (r o n : Nat) (j : Nat) : (s.rowZero r o n).cs j = s.cs j := (rfl)
@[simp] theorem State.rowZero_at_quadOf (s : State) (r o n : Nat) (j : Nat) : (s.rowZero r o n).quadOf j = s.quadOf j := (rfl)
@[simp] theorem State.rowZero_at_octOf (s : State) (r o n : Nat) (j : Nat) : (s.rowZero r o n).octOf j = s.octOf j := (rfl)
@[simp] theorem State.rowZero_at_cluOf (s : State) (r o n : Nat) (j : Nat) : (s.rowZero r o n).cluOf j = s.cluOf j := (rfl)
@[simp] theorem State.rowZero_at_tenOf (s : State) (r o n : Nat) (j : Nat) : (s.rowZero r o n).tenOf j = s.tenOf j := (rfl)
@[simp] theorem State.rowZero_at_nodeOf (s : State) (r o n : Nat) (j : Nat) : (s.rowZero r o n).nodeOf j = s.nodeOf j := (rfl)
@[simp] theorem State.rowZero_at_bdcOf (s : State) (r o n : Nat) (j : Nat) : (s.rowZero r o n).bdcOf j = s.bdcOf j := (rfl)
@[simp] theorem State.rowZero_at_rowTenant (s : State) (r o n : Nat) (j : Nat) : (s.rowZero r o n).rowTenant j = s.rowTenant j := (rfl)
@[simp] theorem State.rowZero_at_tenantOf (s : State) (r o n : Nat) (j : Nat) : (s.rowZero r o n).tenantOf j = s.tenantOf j := (rfl)
@[simp] theorem State.rowZero_me (s : State) (r o n : Nat) : (s.rowZero r o n).me = s.me := (rfl)

end Sys2Proof.Machine
end

