-- ==== Sys2Proof/Laws/Operands.lean ====
section
/-! SUPPORT. Laws of row bytes and of operands: what a source reads, and everything that writing a destination does. -/

namespace Sys2Proof.Machine

/-! ### Part of a written range -/

theorem mwrite_append (l1 : List Byte) : ∀ (l2 : List Byte) (m : Mem) (a : Nat),
    mwrite m a (l1 ++ l2) = mwrite (mwrite m a l1) (a + l1.length) l2 := by
  induction l1 with
  | nil => intros; rfl
  | cons b l ih => intro l2 m a; simp only [List.cons_append, mwrite, ih, List.length_cons, Nat.add_assoc, Nat.add_comm 1]

theorem bytesOf_append (o : Nat) : ∀ (n v : Nat), bytesOf (o + n) v = bytesOf o v ++ bytesOf n (v / 2 ^ (8 * o)) := by
  induction o with
  | zero => intro n v; simp [bytesOf]
  | succ o ih =>
    intro n v
    rw [show o + 1 + n = (o + n) + 1 by omega]
    simp only [bytesOf, ih, List.cons_append, Nat.div_div_eq_div_mul]
    rw [show 8 * (o + 1) = 8 + 8 * o by omega, Nat.pow_add]

/-- Bytes `o` to `o + k - 1` of a number that was written. -/
theorem mread_mwrite_part (m : Mem) (a v o k n : Nat) (h : o + k ≤ n) :
    mread (mwrite m a (bytesOf n v)) (a + o) k = v / 2 ^ (8 * o) % 2 ^ (8 * k) := by
  obtain ⟨r, rfl⟩ := Nat.exists_eq_add_of_le h
  rw [Nat.add_assoc, bytesOf_append, mwrite_append, bytesOf_append k, mwrite_append]
  rw [mread_mwrite_of_disjoint _ _ _ _ _ (by simp)]
  simp only [bytesOf_length]
  exact mread_mwrite_bytesOf k _ _ _

/-! ### Row bytes -/

theorem State.rowGet_rowPut (s : State) (r o n v : Nat) : (s.rowPut r o n v).rowGet r o n = v % 2 ^ (8 * n) := mread_mwrite_bytesOf n _ _ _
theorem State.rowGet_rowPut_disjoint (s : State) (r o n v p k : Nat) (h : p + k ≤ o ∨ o + n ≤ p) :
    (s.rowPut r o n v).rowGet r p k = s.rowGet r p k := by
  apply mread_mwrite_of_disjoint
  simp
  omega
theorem State.rowGet_rowPut_part (s : State) (r o n v p k : Nat) (h : p + k ≤ n) :
    (s.rowPut r o n v).rowGet r (o + p) k = v / 2 ^ (8 * p) % 2 ^ (8 * k) := by
  unfold State.rowGet State.rowPut
  rw [← Nat.add_assoc]
  exact mread_mwrite_part _ _ _ _ _ _ h
theorem State.rowGet_lt (s : State) (r o n : Nat) : s.rowGet r o n < 2 ^ (8 * n) := mread_lt _ _ _
theorem State.greg_lt (s : State) (r k : Nat) : s.greg r k < 2 ^ 64 := s.rowGet_lt r _ 8

/-- Row bytes of a state with the same memory. -/
theorem State.rowGet_congr (s t : State) (h : t.mem = s.mem) (r o n : Nat) : t.rowGet r o n = s.rowGet r o n := by
  unfold State.rowGet; rw [h]
theorem State.greg_congr (s t : State) (h : t.mem = s.mem) (r k : Nat) : t.greg r k = s.greg r k := State.rowGet_congr s t h r _ 8


/-! ### Destinations (R61, R66, R67) -/

/-- A result put at a destination: register and distance window. -/
def State.put (s : State) (d : Nat) (v : W) : State := (s.setReg d v).pushWin v

theorem State.dst_open (s : State) (d : Nat) (v : W) (h : s.dstOpen d = true) : s.dst d v = .ok (s.put d v) := by
  simp [State.dst, h, State.put]
theorem State.dst_closed (s : State) (d : Nat) (v : W) (h : s.dstOpen d = false) : s.dst d v = trap .illegal (s.cur.pc.setWidth 64) := by
  simp [State.dst, h]

/-- Memory after a register is written, at row bytes above the registers. -/
theorem State.setReg_rowGet (s : State) (d : Nat) (v : W) (hd : d < 28) (p k : Nat) (h : 224 ≤ p) :
    (s.setReg d v).rowGet s.me p k = s.rowGet s.me p k := by
  unfold State.setReg
  split
  · rfl
  · exact s.rowGet_rowPut_disjoint s.me (8 * d) 8 v.toNat p k (by omega)
theorem State.setReg_greg (s : State) (d : Nat) (v : W) (k : Nat) :
    (s.setReg d v).greg s.me k = if k = d ∧ d ≠ 0 then v.toNat else s.greg s.me k := by
  unfold State.setReg State.greg
  split
  · simp_all
  · rename_i h
    by_cases hk : k = d
    · subst hk
      rw [if_pos ⟨rfl, h⟩]
      refine (s.rowGet_rowPut s.me (8 * k) 8 v.toNat).trans ?_
      exact Nat.mod_eq_of_lt v.isLt
    · rw [if_neg (by tauto)]
      exact s.rowGet_rowPut_disjoint s.me (8 * d) 8 v.toNat (8 * k) 8 (by omega)
theorem State.setReg_mget (s : State) (d : Nat) (v : W) (a : Nat) (h : d = 0 ∨ a < rowAddr s.me + 8 * d ∨ rowAddr s.me + 8 * d + 8 ≤ a) :
    mget (s.setReg d v).mem a = mget s.mem a := by
  unfold State.setReg
  split
  · rfl
  · simp only [State.modThr_mem, State.rowPut]
    rw [mget_mwrite, if_neg]
    simp
    omega
@[simp] theorem State.setReg_me (s : State) (d : Nat) (v : W) : (s.setReg d v).me = s.me := by unfold State.setReg; split <;> simp

theorem mread_add (m : Mem) (n : Nat) : ∀ (k a : Nat), mread m a (n + k) = mread m a n + 2 ^ (8 * n) * mread m (a + n) k := by
  induction n with
  | zero => intro k a; simp [mread]
  | succ n ih =>
    intro k a
    rw [show n + 1 + k = (n + k) + 1 by omega]
    simp only [mread, ih]
    rw [show 2 ^ (8 * (n + 1)) = 256 * 2 ^ (8 * n) by rw [show 8 * (n + 1) = 8 + 8 * n by omega, Nat.pow_add],
      show a + (n + 1) = a + 1 + n by omega]
    ring
theorem State.rowGet_three (s : State) (r : Nat) :
    s.rowGet r 224 24 = s.rowGet r 224 8 + 2 ^ 64 * (s.rowGet r 232 8 + 2 ^ 64 * s.rowGet r 240 8) := by
  have h1 := mread_add s.mem 8 16 (rowAddr r + 224)
  have h2 := mread_add s.mem 8 8 (rowAddr r + 224 + 8)
  simp only [Nat.add_assoc, Nat.reduceAdd, Nat.reduceMul] at h1 h2
  simp only [State.rowGet]
  omega
/-- Four 8-byte fields of a number. -/
theorem four_fields (v x y z : Nat) (hv : v < 2 ^ 64) (hx : x < 2 ^ 64) (hy : y < 2 ^ 64) (hz : z < 2 ^ 64) :
    (v + (x + 2 ^ 64 * (y + 2 ^ 64 * z)) * 2 ^ 64) / 2 ^ 0 % 2 ^ 64 = v ∧ (v + (x + 2 ^ 64 * (y + 2 ^ 64 * z)) * 2 ^ 64) / 2 ^ 64 % 2 ^ 64 = x ∧
    (v + (x + 2 ^ 64 * (y + 2 ^ 64 * z)) * 2 ^ 64) / 2 ^ 128 % 2 ^ 64 = y ∧ (v + (x + 2 ^ 64 * (y + 2 ^ 64 * z)) * 2 ^ 64) / 2 ^ 192 % 2 ^ 64 = z := by
  omega
theorem State.pushWin_rowGet (s : State) (v : W) (p : Nat) (h : p + 8 ≤ 32) : (s.pushWin v).rowGet s.me (224 + p) 8 =
    (v.toNat + (s.rowGet s.me 224 8 + 2 ^ 64 * (s.rowGet s.me 232 8 + 2 ^ 64 * s.rowGet s.me 240 8)) * 2 ^ 64) / 2 ^ (8 * p) % 2 ^ 64 := by
  rw [← s.rowGet_three s.me, State.rowGet_congr (s.rowPut s.me 224 32 (v.toNat + s.rowGet s.me 224 24 * 2 ^ 64)) (s.pushWin v) rfl, s.rowGet_rowPut_part s.me 224 32 _ p 8 h]
/-- The window after a value enters it (R67). -/
theorem State.pushWin_greg (s : State) (v : W) (k : Nat) :
    (s.pushWin v).greg s.me k =
      if k = 28 then v.toNat else if k = 29 ∨ k = 30 ∨ k = 31 then s.greg s.me (k - 1) else s.greg s.me k := by
  have f := four_fields v.toNat _ _ _ v.isLt (s.rowGet_lt s.me 224 8) (s.rowGet_lt s.me 232 8) (s.rowGet_lt s.me 240 8)
  simp only [State.greg]
  by_cases h0 : k = 28
  · subst h0
    rw [if_pos rfl, show 8 * 28 = 224 + 0 by rfl, s.pushWin_rowGet v 0 (by omega)]
    exact f.1
  by_cases h1 : k = 29
  · subst h1
    rw [if_neg (by omega), if_pos (by omega), show 8 * 29 = 224 + 8 by rfl, s.pushWin_rowGet v 8 (by omega)]
    exact f.2.1
  by_cases h2 : k = 30
  · subst h2
    rw [if_neg (by omega), if_pos (by omega), show 8 * 30 = 224 + 16 by rfl, s.pushWin_rowGet v 16 (by omega)]
    exact f.2.2.1
  by_cases h3 : k = 31
  · subst h3
    rw [if_neg (by omega), if_pos (by omega), show 8 * 31 = 224 + 24 by rfl, s.pushWin_rowGet v 24 (by omega)]
    exact f.2.2.2
  rw [if_neg h0, if_neg (by omega), State.rowGet_congr (s.rowPut s.me 224 32 (v.toNat + s.rowGet s.me 224 24 * 2 ^ 64)) (s.pushWin v) rfl,
    s.rowGet_rowPut_disjoint s.me 224 32 _ (8 * k) 8 (by omega)]
theorem State.pushWin_mget (s : State) (v : W) (a : Nat) (h : a < rowAddr s.me + 224 ∨ rowAddr s.me + 256 ≤ a) :
    mget (s.pushWin v).mem a = mget s.mem a := by
  simp only [State.pushWin, State.modThr_mem, State.rowPut]
  rw [mget_mwrite, if_neg]
  simp
  omega

/-- Registers and window after a result is put. -/
theorem State.put_greg (s : State) (d : Nat) (v : W) (k : Nat) (hd : d < 28) :
    (s.put d v).greg s.me k = if k = 28 then v.toNat else if k = 29 ∨ k = 30 ∨ k = 31 then s.greg s.me (k - 1)
      else if k = d ∧ d ≠ 0 then v.toNat else s.greg s.me k := by
  have h := State.pushWin_greg (s.setReg d v) v k
  simp only [State.setReg_me] at h
  unfold State.put
  rw [h]
  simp only [State.setReg_greg]
  split
  · rfl
  split
  · rw [if_neg (by omega)]
  · rfl
/-- Memory outside the register and the window. -/
theorem State.put_mget (s : State) (d : Nat) (v : W) (a : Nat) (h1 : d = 0 ∨ a < rowAddr s.me + 8 * d ∨ rowAddr s.me + 8 * d + 8 ≤ a)
    (h2 : a < rowAddr s.me + 224 ∨ rowAddr s.me + 256 ≤ a) : mget (s.put d v).mem a = mget s.mem a := by
  unfold State.put
  rw [State.pushWin_mget _ _ _ (by simpa using h2), State.setReg_mget _ _ _ _ h1]

/-! ### What a result leaves -/

@[simp] theorem State.setReg_cycle (s : State) (d : Nat) (v : W) : (s.setReg d v).cycle = s.cycle := by unfold State.setReg; split <;> simp
@[simp] theorem State.setReg_ctl (s : State) (d : Nat) (v : W) : (s.setReg d v).ctl = s.ctl := by unfold State.setReg; split <;> simp
@[simp] theorem State.setReg_core (s : State) (d : Nat) (v : W) : (s.setReg d v).core = s.core := by unfold State.setReg; split <;> simp
@[simp] theorem State.setReg_quad (s : State) (d : Nat) (v : W) : (s.setReg d v).quad = s.quad := by unfold State.setReg; split <;> simp
@[simp] theorem State.setReg_oct (s : State) (d : Nat) (v : W) : (s.setReg d v).oct = s.oct := by unfold State.setReg; split <;> simp
@[simp] theorem State.setReg_clu (s : State) (d : Nat) (v : W) : (s.setReg d v).clu = s.clu := by unfold State.setReg; split <;> simp
@[simp] theorem State.setReg_ten (s : State) (d : Nat) (v : W) : (s.setReg d v).ten = s.ten := by unfold State.setReg; split <;> simp
@[simp] theorem State.setReg_pkg (s : State) (d : Nat) (v : W) : (s.setReg d v).pkg = s.pkg := by unfold State.setReg; split <;> simp
@[simp] theorem State.setReg_nodes (s : State) (d : Nat) (v : W) : (s.setReg d v).nodes = s.nodes := by unfold State.setReg; split <;> simp
@[simp] theorem State.setReg_teams (s : State) (d : Nat) (v : W) : (s.setReg d v).teams = s.teams := by unfold State.setReg; split <;> simp
@[simp] theorem State.setReg_bdc (s : State) (d : Nat) (v : W) : (s.setReg d v).bdc = s.bdc := by unfold State.setReg; split <;> simp
@[simp] theorem State.setReg_banks (s : State) (d : Nat) (v : W) : (s.setReg d v).banks = s.banks := by unfold State.setReg; split <;> simp
@[simp] theorem State.setReg_pip (s : State) (d : Nat) (v : W) : (s.setReg d v).pip = s.pip := by unfold State.setReg; split <;> simp
@[simp] theorem State.setReg_uncorr (s : State) (d : Nat) (v : W) : (s.setReg d v).uncorr = s.uncorr := by unfold State.setReg; split <;> simp
@[simp] theorem State.setReg_cur (s : State) (d : Nat) (v : W) : (s.setReg d v).cur = s.cur := by unfold State.setReg; split <;> simp
@[simp] theorem State.setReg_sel (s : State) (d : Nat) (v : W) : (s.setReg d v).sel = s.sel := by unfold State.setReg; split <;> simp
@[simp] theorem State.setReg_schedule (s : State) (d : Nat) (v : W) : (s.setReg d v).schedule = s.schedule := by unfold State.setReg; split <;> simp
@[simp] theorem State.setReg_seq (s : State) (d : Nat) (v : W) : (s.setReg d v).seq = s.seq := by unfold State.setReg; split <;> simp
@[simp] theorem State.setReg_at_ctlOf (s : State) (d : Nat) (v : W) (j : Nat) : (s.setReg d v).ctlOf j = s.ctlOf j := by unfold State.setReg; split <;> simp
@[simp] theorem State.setReg_at_coreOf (s : State) (d : Nat) (v : W) (j : Nat) : (s.setReg d v).coreOf j = s.coreOf j := by unfold State.setReg; split <;> simp
@[simp] theorem State.setReg_at_cs (s : State) (d : Nat) (v : W) (j : Nat) : (s.setReg d v).cs j = s.cs j := by unfold State.setReg; split <;> simp
@[simp] theorem State.setReg_at_quadOf (s : State) (d : Nat) (v : W) (j : Nat) : (s.setReg d v).quadOf j = s.quadOf j := by unfold State.setReg; split <;> simp
@[simp] theorem State.setReg_at_octOf (s : State) (d : Nat) (v : W) (j : Nat) : (s.setReg d v).octOf j = s.octOf j := by unfold State.setReg; split <;> simp
@[simp] theorem State.setReg_at_cluOf (s : State) (d : Nat) (v : W) (j : Nat) : (s.setReg d v).cluOf j = s.cluOf j := by unfold State.setReg; split <;> simp
@[simp] theorem State.setReg_at_tenOf (s : State) (d : Nat) (v : W) (j : Nat) : (s.setReg d v).tenOf j = s.tenOf j := by unfold State.setReg; split <;> simp
@[simp] theorem State.setReg_at_nodeOf (s : State) (d : Nat) (v : W) (j : Nat) : (s.setReg d v).nodeOf j = s.nodeOf j := by unfold State.setReg; split <;> simp
@[simp] theorem State.setReg_at_bdcOf (s : State) (d : Nat) (v : W) (j : Nat) : (s.setReg d v).bdcOf j = s.bdcOf j := by unfold State.setReg; split <;> simp
@[simp] theorem State.setReg_at_rowTenant (s : State) (d : Nat) (v : W) (j : Nat) : (s.setReg d v).rowTenant j = s.rowTenant j := by unfold State.setReg; split <;> simp
@[simp] theorem State.setReg_at_tenantOf (s : State) (d : Nat) (v : W) (j : Nat) : (s.setReg d v).tenantOf j = s.tenantOf j := by unfold State.setReg; split <;> simp
@[simp] theorem State.pushWin_cycle (s : State) (v : W) : (s.pushWin v).cycle = s.cycle := by unfold State.pushWin; simp
@[simp] theorem State.pushWin_ctl (s : State) (v : W) : (s.pushWin v).ctl = s.ctl := by unfold State.pushWin; simp
@[simp] theorem State.pushWin_core (s : State) (v : W) : (s.pushWin v).core = s.core := by unfold State.pushWin; simp
@[simp] theorem State.pushWin_quad (s : State) (v : W) : (s.pushWin v).quad = s.quad := by unfold State.pushWin; simp
@[simp] theorem State.pushWin_oct (s : State) (v : W) : (s.pushWin v).oct = s.oct := by unfold State.pushWin; simp
@[simp] theorem State.pushWin_clu (s : State) (v : W) : (s.pushWin v).clu = s.clu := by unfold State.pushWin; simp
@[simp] theorem State.pushWin_ten (s : State) (v : W) : (s.pushWin v).ten = s.ten := by unfold State.pushWin; simp
@[simp] theorem State.pushWin_pkg (s : State) (v : W) : (s.pushWin v).pkg = s.pkg := by unfold State.pushWin; simp
@[simp] theorem State.pushWin_nodes (s : State) (v : W) : (s.pushWin v).nodes = s.nodes := by unfold State.pushWin; simp
@[simp] theorem State.pushWin_teams (s : State) (v : W) : (s.pushWin v).teams = s.teams := by unfold State.pushWin; simp
@[simp] theorem State.pushWin_bdc (s : State) (v : W) : (s.pushWin v).bdc = s.bdc := by unfold State.pushWin; simp
@[simp] theorem State.pushWin_banks (s : State) (v : W) : (s.pushWin v).banks = s.banks := by unfold State.pushWin; simp
@[simp] theorem State.pushWin_pip (s : State) (v : W) : (s.pushWin v).pip = s.pip := by unfold State.pushWin; simp
@[simp] theorem State.pushWin_uncorr (s : State) (v : W) : (s.pushWin v).uncorr = s.uncorr := by unfold State.pushWin; simp
@[simp] theorem State.pushWin_cur (s : State) (v : W) : (s.pushWin v).cur = s.cur := by unfold State.pushWin; simp
@[simp] theorem State.pushWin_sel (s : State) (v : W) : (s.pushWin v).sel = s.sel := by unfold State.pushWin; simp
@[simp] theorem State.pushWin_schedule (s : State) (v : W) : (s.pushWin v).schedule = s.schedule := by unfold State.pushWin; simp
@[simp] theorem State.pushWin_seq (s : State) (v : W) : (s.pushWin v).seq = s.seq := by unfold State.pushWin; simp
@[simp] theorem State.pushWin_at_ctlOf (s : State) (v : W) (j : Nat) : (s.pushWin v).ctlOf j = s.ctlOf j := by unfold State.pushWin; simp
@[simp] theorem State.pushWin_at_coreOf (s : State) (v : W) (j : Nat) : (s.pushWin v).coreOf j = s.coreOf j := by unfold State.pushWin; simp
@[simp] theorem State.pushWin_at_cs (s : State) (v : W) (j : Nat) : (s.pushWin v).cs j = s.cs j := by unfold State.pushWin; simp
@[simp] theorem State.pushWin_at_quadOf (s : State) (v : W) (j : Nat) : (s.pushWin v).quadOf j = s.quadOf j := by unfold State.pushWin; simp
@[simp] theorem State.pushWin_at_octOf (s : State) (v : W) (j : Nat) : (s.pushWin v).octOf j = s.octOf j := by unfold State.pushWin; simp
@[simp] theorem State.pushWin_at_cluOf (s : State) (v : W) (j : Nat) : (s.pushWin v).cluOf j = s.cluOf j := by unfold State.pushWin; simp
@[simp] theorem State.pushWin_at_tenOf (s : State) (v : W) (j : Nat) : (s.pushWin v).tenOf j = s.tenOf j := by unfold State.pushWin; simp
@[simp] theorem State.pushWin_at_nodeOf (s : State) (v : W) (j : Nat) : (s.pushWin v).nodeOf j = s.nodeOf j := by unfold State.pushWin; simp
@[simp] theorem State.pushWin_at_bdcOf (s : State) (v : W) (j : Nat) : (s.pushWin v).bdcOf j = s.bdcOf j := by unfold State.pushWin; simp
@[simp] theorem State.pushWin_at_rowTenant (s : State) (v : W) (j : Nat) : (s.pushWin v).rowTenant j = s.rowTenant j := by unfold State.pushWin; simp
@[simp] theorem State.pushWin_at_tenantOf (s : State) (v : W) (j : Nat) : (s.pushWin v).tenantOf j = s.tenantOf j := by unfold State.pushWin; simp
@[simp] theorem State.pushWin_me (s : State) (v : W) : (s.pushWin v).me = s.me := by unfold State.pushWin; simp
@[simp] theorem State.put_cycle (s : State) (d : Nat) (v : W) : (s.put d v).cycle = s.cycle := by simp [State.put]
@[simp] theorem State.put_ctl (s : State) (d : Nat) (v : W) : (s.put d v).ctl = s.ctl := by simp [State.put]
@[simp] theorem State.put_core (s : State) (d : Nat) (v : W) : (s.put d v).core = s.core := by simp [State.put]
@[simp] theorem State.put_quad (s : State) (d : Nat) (v : W) : (s.put d v).quad = s.quad := by simp [State.put]
@[simp] theorem State.put_oct (s : State) (d : Nat) (v : W) : (s.put d v).oct = s.oct := by simp [State.put]
@[simp] theorem State.put_clu (s : State) (d : Nat) (v : W) : (s.put d v).clu = s.clu := by simp [State.put]
@[simp] theorem State.put_ten (s : State) (d : Nat) (v : W) : (s.put d v).ten = s.ten := by simp [State.put]
@[simp] theorem State.put_pkg (s : State) (d : Nat) (v : W) : (s.put d v).pkg = s.pkg := by simp [State.put]
@[simp] theorem State.put_nodes (s : State) (d : Nat) (v : W) : (s.put d v).nodes = s.nodes := by simp [State.put]
@[simp] theorem State.put_teams (s : State) (d : Nat) (v : W) : (s.put d v).teams = s.teams := by simp [State.put]
@[simp] theorem State.put_bdc (s : State) (d : Nat) (v : W) : (s.put d v).bdc = s.bdc := by simp [State.put]
@[simp] theorem State.put_banks (s : State) (d : Nat) (v : W) : (s.put d v).banks = s.banks := by simp [State.put]
@[simp] theorem State.put_pip (s : State) (d : Nat) (v : W) : (s.put d v).pip = s.pip := by simp [State.put]
@[simp] theorem State.put_uncorr (s : State) (d : Nat) (v : W) : (s.put d v).uncorr = s.uncorr := by simp [State.put]
@[simp] theorem State.put_cur (s : State) (d : Nat) (v : W) : (s.put d v).cur = s.cur := by simp [State.put]
@[simp] theorem State.put_sel (s : State) (d : Nat) (v : W) : (s.put d v).sel = s.sel := by simp [State.put]
@[simp] theorem State.put_schedule (s : State) (d : Nat) (v : W) : (s.put d v).schedule = s.schedule := by simp [State.put]
@[simp] theorem State.put_seq (s : State) (d : Nat) (v : W) : (s.put d v).seq = s.seq := by simp [State.put]
@[simp] theorem State.put_at_ctlOf (s : State) (d : Nat) (v : W) (j : Nat) : (s.put d v).ctlOf j = s.ctlOf j := by simp [State.put]
@[simp] theorem State.put_at_coreOf (s : State) (d : Nat) (v : W) (j : Nat) : (s.put d v).coreOf j = s.coreOf j := by simp [State.put]
@[simp] theorem State.put_at_cs (s : State) (d : Nat) (v : W) (j : Nat) : (s.put d v).cs j = s.cs j := by simp [State.put]
@[simp] theorem State.put_at_quadOf (s : State) (d : Nat) (v : W) (j : Nat) : (s.put d v).quadOf j = s.quadOf j := by simp [State.put]
@[simp] theorem State.put_at_octOf (s : State) (d : Nat) (v : W) (j : Nat) : (s.put d v).octOf j = s.octOf j := by simp [State.put]
@[simp] theorem State.put_at_cluOf (s : State) (d : Nat) (v : W) (j : Nat) : (s.put d v).cluOf j = s.cluOf j := by simp [State.put]
@[simp] theorem State.put_at_tenOf (s : State) (d : Nat) (v : W) (j : Nat) : (s.put d v).tenOf j = s.tenOf j := by simp [State.put]
@[simp] theorem State.put_at_nodeOf (s : State) (d : Nat) (v : W) (j : Nat) : (s.put d v).nodeOf j = s.nodeOf j := by simp [State.put]
@[simp] theorem State.put_at_bdcOf (s : State) (d : Nat) (v : W) (j : Nat) : (s.put d v).bdcOf j = s.bdcOf j := by simp [State.put]
@[simp] theorem State.put_at_rowTenant (s : State) (d : Nat) (v : W) (j : Nat) : (s.put d v).rowTenant j = s.rowTenant j := by simp [State.put]
@[simp] theorem State.put_at_tenantOf (s : State) (d : Nat) (v : W) (j : Nat) : (s.put d v).tenantOf j = s.tenantOf j := by simp [State.put]
@[simp] theorem State.put_me (s : State) (d : Nat) (v : W) : (s.put d v).me = s.me := by simp [State.put]
@[simp] theorem State.setSeg_cycle (s : State) (d v : Nat) : (s.setSeg d v).cycle = s.cycle := by unfold State.setSeg; simp
@[simp] theorem State.setSeg_ctl (s : State) (d v : Nat) : (s.setSeg d v).ctl = s.ctl := by unfold State.setSeg; simp
@[simp] theorem State.setSeg_core (s : State) (d v : Nat) : (s.setSeg d v).core = s.core := by unfold State.setSeg; simp
@[simp] theorem State.setSeg_quad (s : State) (d v : Nat) : (s.setSeg d v).quad = s.quad := by unfold State.setSeg; simp
@[simp] theorem State.setSeg_oct (s : State) (d v : Nat) : (s.setSeg d v).oct = s.oct := by unfold State.setSeg; simp
@[simp] theorem State.setSeg_clu (s : State) (d v : Nat) : (s.setSeg d v).clu = s.clu := by unfold State.setSeg; simp
@[simp] theorem State.setSeg_ten (s : State) (d v : Nat) : (s.setSeg d v).ten = s.ten := by unfold State.setSeg; simp
@[simp] theorem State.setSeg_pkg (s : State) (d v : Nat) : (s.setSeg d v).pkg = s.pkg := by unfold State.setSeg; simp
@[simp] theorem State.setSeg_nodes (s : State) (d v : Nat) : (s.setSeg d v).nodes = s.nodes := by unfold State.setSeg; simp
@[simp] theorem State.setSeg_teams (s : State) (d v : Nat) : (s.setSeg d v).teams = s.teams := by unfold State.setSeg; simp
@[simp] theorem State.setSeg_bdc (s : State) (d v : Nat) : (s.setSeg d v).bdc = s.bdc := by unfold State.setSeg; simp
@[simp] theorem State.setSeg_banks (s : State) (d v : Nat) : (s.setSeg d v).banks = s.banks := by unfold State.setSeg; simp
@[simp] theorem State.setSeg_pip (s : State) (d v : Nat) : (s.setSeg d v).pip = s.pip := by unfold State.setSeg; simp
@[simp] theorem State.setSeg_uncorr (s : State) (d v : Nat) : (s.setSeg d v).uncorr = s.uncorr := by unfold State.setSeg; simp
@[simp] theorem State.setSeg_cur (s : State) (d v : Nat) : (s.setSeg d v).cur = s.cur := by unfold State.setSeg; simp
@[simp] theorem State.setSeg_sel (s : State) (d v : Nat) : (s.setSeg d v).sel = s.sel := by unfold State.setSeg; simp
@[simp] theorem State.setSeg_schedule (s : State) (d v : Nat) : (s.setSeg d v).schedule = s.schedule := by unfold State.setSeg; simp
@[simp] theorem State.setSeg_seq (s : State) (d v : Nat) : (s.setSeg d v).seq = s.seq := by unfold State.setSeg; simp
@[simp] theorem State.setSeg_at_ctlOf (s : State) (d v : Nat) (j : Nat) : (s.setSeg d v).ctlOf j = s.ctlOf j := by unfold State.setSeg; simp
@[simp] theorem State.setSeg_at_coreOf (s : State) (d v : Nat) (j : Nat) : (s.setSeg d v).coreOf j = s.coreOf j := by unfold State.setSeg; simp
@[simp] theorem State.setSeg_at_cs (s : State) (d v : Nat) (j : Nat) : (s.setSeg d v).cs j = s.cs j := by unfold State.setSeg; simp
@[simp] theorem State.setSeg_at_quadOf (s : State) (d v : Nat) (j : Nat) : (s.setSeg d v).quadOf j = s.quadOf j := by unfold State.setSeg; simp
@[simp] theorem State.setSeg_at_octOf (s : State) (d v : Nat) (j : Nat) : (s.setSeg d v).octOf j = s.octOf j := by unfold State.setSeg; simp
@[simp] theorem State.setSeg_at_cluOf (s : State) (d v : Nat) (j : Nat) : (s.setSeg d v).cluOf j = s.cluOf j := by unfold State.setSeg; simp
@[simp] theorem State.setSeg_at_tenOf (s : State) (d v : Nat) (j : Nat) : (s.setSeg d v).tenOf j = s.tenOf j := by unfold State.setSeg; simp
@[simp] theorem State.setSeg_at_nodeOf (s : State) (d v : Nat) (j : Nat) : (s.setSeg d v).nodeOf j = s.nodeOf j := by unfold State.setSeg; simp
@[simp] theorem State.setSeg_at_bdcOf (s : State) (d v : Nat) (j : Nat) : (s.setSeg d v).bdcOf j = s.bdcOf j := by unfold State.setSeg; simp
@[simp] theorem State.setSeg_at_rowTenant (s : State) (d v : Nat) (j : Nat) : (s.setSeg d v).rowTenant j = s.rowTenant j := by unfold State.setSeg; simp
@[simp] theorem State.setSeg_at_tenantOf (s : State) (d v : Nat) (j : Nat) : (s.setSeg d v).tenantOf j = s.tenantOf j := by unfold State.setSeg; simp
@[simp] theorem State.setSeg_me (s : State) (d v : Nat) : (s.setSeg d v).me = s.me := by unfold State.setSeg; simp

/-- Records of rows after a result: only the pending loads of its own row can differ. -/
theorem State.put_thrOf (s : State) (d : Nat) (v : W) (q : Nat) :
    (s.put d v).thrOf q = if s.me = q then { s.thrOf s.me with loads := ((s.put d v).thrOf s.me).loads } else s.thrOf q := by
  by_cases h : s.me = q
  · subst h
    by_cases hd : d = 0 <;> simp [State.put, State.pushWin, State.setReg, hd]
  · by_cases hd : d = 0 <;> simp [State.put, State.pushWin, State.setReg, hd, h]

/-! ### Sources (R61, R66) -/

theorem State.src_zero (s : State) : s.src 0 = .ok (0, s) := rfl
/-- A source that is no stream leaves the state as it is. -/
theorem State.src_state (s t : State) (a : Nat) (v : W) (h : s.src a = .ok (v, t)) (hb : s.seenBound a = false) : t = s := by
  unfold State.src at h
  split at h
  · simp at h; exact h.2.symm
  split at h
  · split at h
    · cases h
    · cases hr : s.readRow (8 * a) 8 <;> rw [hr] at h
      · cases h
      · cases h; rfl
  split at h
  · simp_all
  split at h
  · cases h
  · cases hr : s.readRow (8 * a) 8 <;> rw [hr] at h
    · cases h
    · cases h; rfl

end Sys2Proof.Machine
end

