-- ==== Sys2Proof/Laws/Pages.lean ====
section
/-! SUPPORT. Laws of the free-frame stacks: what a pop takes and what it leaves (16_translation.md R285, R286). -/

namespace Sys2Proof.Machine

/-- A pop of HBM's stack: entry `FFSTOP` - 1, and `FFSTOP` is one less. -/
theorem State.popFrame_cases {s t : State} {ten f : Nat} (h : s.popFrame ten = some (f, t)) :
    let n := bits (s.tenOf ten).ffstop.toNat 23 0
    n ≠ 0 ∧ f = s.peek (s.freeAddr ten (n - 1)) 8 % 2 ^ 36 ∧ t = s.modTen ten fun x => { x with ffstop := BitVec.ofNat 64 (n - 1) } := by
  simp only [State.popFrame] at h
  split at h
  · cases h
  · obtain ⟨rfl, rfl⟩ := Prod.mk.inj (Option.some.inj h); exact ⟨‹_›, rfl, rfl⟩

/-- A pop of a pool's stack: HBM's, or the first of the frames that the CXL pool has. -/
theorem State.popPool_cases {s t : State} {ten pool f : Nat} (h : s.popPool ten pool = some (f, t)) :
    (pool = 0 ∧ s.popFrame ten = some (f, t)) ∨
    (pool ≠ 0 ∧ ∃ rest, (s.tenOf ten).cxlFrames = f :: rest ∧ t = s.modTen ten fun x => { x with cxlFrames := rest }) := by
  unfold State.popPool at h
  split at h
  · exact .inl ⟨‹_›, h⟩
  · split at h
    · cases h
    · obtain ⟨rfl, rfl⟩ := Prod.mk.inj (Option.some.inj h); exact .inr ⟨‹_›, _, ‹_›, rfl⟩

/-- A pop changes one tenant's registers alone: memory stays. -/
theorem State.popPool_mem {s t : State} {ten pool f : Nat} (h : s.popPool ten pool = some (f, t)) : t.mem = s.mem := by
  obtain ⟨-, h⟩ | ⟨-, rest, -, rfl⟩ := State.popPool_cases h
  · obtain ⟨-, -, rfl⟩ := State.popFrame_cases h; simp
  · simp

end Sys2Proof.Machine
end

