-- ==== Sys2Proof/Laws/Words.lean ====
section
/-! SUPPORT. Laws of a word's completion: what `retire`, issue cycles, transfers and closes change, and what a source leaves of the
state. -/

namespace Sys2Proof.Machine

/-! ### What completion and the scratch of a step leave -/

@[simp] theorem State.retire_cycle (s : State) : s.retire.cycle = s.cycle := by unfold State.retire; dsimp only; split <;> simp
@[simp] theorem State.retire_mem (s : State) : s.retire.mem = s.mem := by unfold State.retire; dsimp only; split <;> simp
@[simp] theorem State.retire_thr (s : State) : s.retire.thr = s.thr := by unfold State.retire; dsimp only; split <;> simp
@[simp] theorem State.retire_core (s : State) : s.retire.core = s.core := by unfold State.retire; dsimp only; split <;> simp
@[simp] theorem State.retire_quad (s : State) : s.retire.quad = s.quad := by unfold State.retire; dsimp only; split <;> simp
@[simp] theorem State.retire_oct (s : State) : s.retire.oct = s.oct := by unfold State.retire; dsimp only; split <;> simp
@[simp] theorem State.retire_clu (s : State) : s.retire.clu = s.clu := by unfold State.retire; dsimp only; split <;> simp
@[simp] theorem State.retire_ten (s : State) : s.retire.ten = s.ten := by unfold State.retire; dsimp only; split <;> simp
@[simp] theorem State.retire_pkg (s : State) : s.retire.pkg = s.pkg := by unfold State.retire; dsimp only; split <;> simp
@[simp] theorem State.retire_nodes (s : State) : s.retire.nodes = s.nodes := by unfold State.retire; dsimp only; split <;> simp
@[simp] theorem State.retire_teams (s : State) : s.retire.teams = s.teams := by unfold State.retire; dsimp only; split <;> simp
@[simp] theorem State.retire_bdc (s : State) : s.retire.bdc = s.bdc := by unfold State.retire; dsimp only; split <;> simp
@[simp] theorem State.retire_banks (s : State) : s.retire.banks = s.banks := by unfold State.retire; dsimp only; split <;> simp
@[simp] theorem State.retire_pip (s : State) : s.retire.pip = s.pip := by unfold State.retire; dsimp only; split <;> simp
@[simp] theorem State.retire_uncorr (s : State) : s.retire.uncorr = s.uncorr := by unfold State.retire; dsimp only; split <;> simp
@[simp] theorem State.retire_sel (s : State) : s.retire.sel = s.sel := by unfold State.retire; dsimp only; split <;> simp
@[simp] theorem State.retire_schedule (s : State) : s.retire.schedule = s.schedule := by unfold State.retire; dsimp only; split <;> simp
@[simp] theorem State.retire_seq (s : State) : s.retire.seq = s.seq := by unfold State.retire; dsimp only; split <;> simp
@[simp] theorem State.spend_cycle (s : State) (n : Nat) : (s.spend n).cycle = s.cycle := by simp [State.spend]
@[simp] theorem State.jumpTo_cycle (s : State) (x : W) : (s.jumpTo x).cycle = s.cycle := by simp [State.jumpTo]
@[simp] theorem State.closeAs_cycle (s : State) (x : RowState) : (s.closeAs x).cycle = s.cycle := by simp [State.closeAs]
@[simp] theorem State.spend_mem (s : State) (n : Nat) : (s.spend n).mem = s.mem := by simp [State.spend]
@[simp] theorem State.jumpTo_mem (s : State) (x : W) : (s.jumpTo x).mem = s.mem := by simp [State.jumpTo]
@[simp] theorem State.closeAs_mem (s : State) (x : RowState) : (s.closeAs x).mem = s.mem := by simp [State.closeAs]
@[simp] theorem State.spend_thr (s : State) (n : Nat) : (s.spend n).thr = s.thr := by simp [State.spend]
@[simp] theorem State.jumpTo_thr (s : State) (x : W) : (s.jumpTo x).thr = s.thr := by simp [State.jumpTo]
@[simp] theorem State.closeAs_thr (s : State) (x : RowState) : (s.closeAs x).thr = s.thr := by simp [State.closeAs]
@[simp] theorem State.spend_core (s : State) (n : Nat) : (s.spend n).core = s.core := by simp [State.spend]
@[simp] theorem State.jumpTo_core (s : State) (x : W) : (s.jumpTo x).core = s.core := by simp [State.jumpTo]
@[simp] theorem State.closeAs_core (s : State) (x : RowState) : (s.closeAs x).core = s.core := by simp [State.closeAs]
@[simp] theorem State.spend_quad (s : State) (n : Nat) : (s.spend n).quad = s.quad := by simp [State.spend]
@[simp] theorem State.jumpTo_quad (s : State) (x : W) : (s.jumpTo x).quad = s.quad := by simp [State.jumpTo]
@[simp] theorem State.closeAs_quad (s : State) (x : RowState) : (s.closeAs x).quad = s.quad := by simp [State.closeAs]
@[simp] theorem State.spend_oct (s : State) (n : Nat) : (s.spend n).oct = s.oct := by simp [State.spend]
@[simp] theorem State.jumpTo_oct (s : State) (x : W) : (s.jumpTo x).oct = s.oct := by simp [State.jumpTo]
@[simp] theorem State.closeAs_oct (s : State) (x : RowState) : (s.closeAs x).oct = s.oct := by simp [State.closeAs]
@[simp] theorem State.spend_clu (s : State) (n : Nat) : (s.spend n).clu = s.clu := by simp [State.spend]
@[simp] theorem State.jumpTo_clu (s : State) (x : W) : (s.jumpTo x).clu = s.clu := by simp [State.jumpTo]
@[simp] theorem State.closeAs_clu (s : State) (x : RowState) : (s.closeAs x).clu = s.clu := by simp [State.closeAs]
@[simp] theorem State.spend_ten (s : State) (n : Nat) : (s.spend n).ten = s.ten := by simp [State.spend]
@[simp] theorem State.jumpTo_ten (s : State) (x : W) : (s.jumpTo x).ten = s.ten := by simp [State.jumpTo]
@[simp] theorem State.closeAs_ten (s : State) (x : RowState) : (s.closeAs x).ten = s.ten := by simp [State.closeAs]
@[simp] theorem State.spend_pkg (s : State) (n : Nat) : (s.spend n).pkg = s.pkg := by simp [State.spend]
@[simp] theorem State.jumpTo_pkg (s : State) (x : W) : (s.jumpTo x).pkg = s.pkg := by simp [State.jumpTo]
@[simp] theorem State.closeAs_pkg (s : State) (x : RowState) : (s.closeAs x).pkg = s.pkg := by simp [State.closeAs]
@[simp] theorem State.spend_nodes (s : State) (n : Nat) : (s.spend n).nodes = s.nodes := by simp [State.spend]
@[simp] theorem State.jumpTo_nodes (s : State) (x : W) : (s.jumpTo x).nodes = s.nodes := by simp [State.jumpTo]
@[simp] theorem State.closeAs_nodes (s : State) (x : RowState) : (s.closeAs x).nodes = s.nodes := by simp [State.closeAs]
@[simp] theorem State.spend_teams (s : State) (n : Nat) : (s.spend n).teams = s.teams := by simp [State.spend]
@[simp] theorem State.jumpTo_teams (s : State) (x : W) : (s.jumpTo x).teams = s.teams := by simp [State.jumpTo]
@[simp] theorem State.closeAs_teams (s : State) (x : RowState) : (s.closeAs x).teams = s.teams := by simp [State.closeAs]
@[simp] theorem State.spend_bdc (s : State) (n : Nat) : (s.spend n).bdc = s.bdc := by simp [State.spend]
@[simp] theorem State.jumpTo_bdc (s : State) (x : W) : (s.jumpTo x).bdc = s.bdc := by simp [State.jumpTo]
@[simp] theorem State.closeAs_bdc (s : State) (x : RowState) : (s.closeAs x).bdc = s.bdc := by simp [State.closeAs]
@[simp] theorem State.spend_banks (s : State) (n : Nat) : (s.spend n).banks = s.banks := by simp [State.spend]
@[simp] theorem State.jumpTo_banks (s : State) (x : W) : (s.jumpTo x).banks = s.banks := by simp [State.jumpTo]
@[simp] theorem State.closeAs_banks (s : State) (x : RowState) : (s.closeAs x).banks = s.banks := by simp [State.closeAs]
@[simp] theorem State.spend_pip (s : State) (n : Nat) : (s.spend n).pip = s.pip := by simp [State.spend]
@[simp] theorem State.jumpTo_pip (s : State) (x : W) : (s.jumpTo x).pip = s.pip := by simp [State.jumpTo]
@[simp] theorem State.closeAs_pip (s : State) (x : RowState) : (s.closeAs x).pip = s.pip := by simp [State.closeAs]
@[simp] theorem State.spend_uncorr (s : State) (n : Nat) : (s.spend n).uncorr = s.uncorr := by simp [State.spend]
@[simp] theorem State.jumpTo_uncorr (s : State) (x : W) : (s.jumpTo x).uncorr = s.uncorr := by simp [State.jumpTo]
@[simp] theorem State.closeAs_uncorr (s : State) (x : RowState) : (s.closeAs x).uncorr = s.uncorr := by simp [State.closeAs]
@[simp] theorem State.spend_sel (s : State) (n : Nat) : (s.spend n).sel = s.sel := by simp [State.spend]
@[simp] theorem State.jumpTo_sel (s : State) (x : W) : (s.jumpTo x).sel = s.sel := by simp [State.jumpTo]
@[simp] theorem State.closeAs_sel (s : State) (x : RowState) : (s.closeAs x).sel = s.sel := by simp [State.closeAs]
@[simp] theorem State.spend_schedule (s : State) (n : Nat) : (s.spend n).schedule = s.schedule := by simp [State.spend]
@[simp] theorem State.jumpTo_schedule (s : State) (x : W) : (s.jumpTo x).schedule = s.schedule := by simp [State.jumpTo]
@[simp] theorem State.closeAs_schedule (s : State) (x : RowState) : (s.closeAs x).schedule = s.schedule := by simp [State.closeAs]
@[simp] theorem State.spend_seq (s : State) (n : Nat) : (s.spend n).seq = s.seq := by simp [State.spend]
@[simp] theorem State.jumpTo_seq (s : State) (x : W) : (s.jumpTo x).seq = s.seq := by simp [State.jumpTo]
@[simp] theorem State.closeAs_seq (s : State) (x : RowState) : (s.closeAs x).seq = s.seq := by simp [State.closeAs]
@[simp] theorem State.spend_ctl (s : State) (n : Nat) : (s.spend n).ctl = s.ctl := by simp [State.spend]
@[simp] theorem State.jumpTo_ctl (s : State) (x : W) : (s.jumpTo x).ctl = s.ctl := by simp [State.jumpTo]
@[simp] theorem State.closeAs_ctl (s : State) (x : RowState) : (s.closeAs x).ctl = s.ctl := by simp [State.closeAs]
@[simp] theorem State.retire_at_thrOf (s : State) (j : Nat) : s.retire.thrOf j = s.thrOf j := by unfold State.retire; dsimp only; split <;> simp
@[simp] theorem State.retire_at_coreOf (s : State) (j : Nat) : s.retire.coreOf j = s.coreOf j := by unfold State.retire; dsimp only; split <;> simp
@[simp] theorem State.retire_at_cs (s : State) (j : Nat) : s.retire.cs j = s.cs j := by unfold State.retire; dsimp only; split <;> simp
@[simp] theorem State.retire_at_quadOf (s : State) (j : Nat) : s.retire.quadOf j = s.quadOf j := by unfold State.retire; dsimp only; split <;> simp
@[simp] theorem State.retire_at_octOf (s : State) (j : Nat) : s.retire.octOf j = s.octOf j := by unfold State.retire; dsimp only; split <;> simp
@[simp] theorem State.retire_at_cluOf (s : State) (j : Nat) : s.retire.cluOf j = s.cluOf j := by unfold State.retire; dsimp only; split <;> simp
@[simp] theorem State.retire_at_tenOf (s : State) (j : Nat) : s.retire.tenOf j = s.tenOf j := by unfold State.retire; dsimp only; split <;> simp
@[simp] theorem State.retire_at_nodeOf (s : State) (j : Nat) : s.retire.nodeOf j = s.nodeOf j := by unfold State.retire; dsimp only; split <;> simp
@[simp] theorem State.retire_at_bdcOf (s : State) (j : Nat) : s.retire.bdcOf j = s.bdcOf j := by unfold State.retire; dsimp only; split <;> simp
@[simp] theorem State.retire_at_rowTenant (s : State) (j : Nat) : s.retire.rowTenant j = s.rowTenant j := by unfold State.retire; dsimp only; split <;> simp
@[simp] theorem State.retire_at_tenantOf (s : State) (j : Nat) : s.retire.tenantOf j = s.tenantOf j := by unfold State.retire; dsimp only; split <;> simp
@[simp] theorem State.spend_at_thrOf (s : State) (n j : Nat) : (s.spend n).thrOf j = s.thrOf j := by simp [State.spend]
@[simp] theorem State.jumpTo_at_thrOf (s : State) (x : W) (j : Nat) : (s.jumpTo x).thrOf j = s.thrOf j := by simp [State.jumpTo]
@[simp] theorem State.closeAs_at_thrOf (s : State) (x : RowState) (j : Nat) : (s.closeAs x).thrOf j = s.thrOf j := by simp [State.closeAs]
@[simp] theorem State.spend_at_coreOf (s : State) (n j : Nat) : (s.spend n).coreOf j = s.coreOf j := by simp [State.spend]
@[simp] theorem State.jumpTo_at_coreOf (s : State) (x : W) (j : Nat) : (s.jumpTo x).coreOf j = s.coreOf j := by simp [State.jumpTo]
@[simp] theorem State.closeAs_at_coreOf (s : State) (x : RowState) (j : Nat) : (s.closeAs x).coreOf j = s.coreOf j := by simp [State.closeAs]
@[simp] theorem State.spend_at_cs (s : State) (n j : Nat) : (s.spend n).cs j = s.cs j := by simp [State.spend]
@[simp] theorem State.jumpTo_at_cs (s : State) (x : W) (j : Nat) : (s.jumpTo x).cs j = s.cs j := by simp [State.jumpTo]
@[simp] theorem State.closeAs_at_cs (s : State) (x : RowState) (j : Nat) : (s.closeAs x).cs j = s.cs j := by simp [State.closeAs]
@[simp] theorem State.spend_at_quadOf (s : State) (n j : Nat) : (s.spend n).quadOf j = s.quadOf j := by simp [State.spend]
@[simp] theorem State.jumpTo_at_quadOf (s : State) (x : W) (j : Nat) : (s.jumpTo x).quadOf j = s.quadOf j := by simp [State.jumpTo]
@[simp] theorem State.closeAs_at_quadOf (s : State) (x : RowState) (j : Nat) : (s.closeAs x).quadOf j = s.quadOf j := by simp [State.closeAs]
@[simp] theorem State.spend_at_octOf (s : State) (n j : Nat) : (s.spend n).octOf j = s.octOf j := by simp [State.spend]
@[simp] theorem State.jumpTo_at_octOf (s : State) (x : W) (j : Nat) : (s.jumpTo x).octOf j = s.octOf j := by simp [State.jumpTo]
@[simp] theorem State.closeAs_at_octOf (s : State) (x : RowState) (j : Nat) : (s.closeAs x).octOf j = s.octOf j := by simp [State.closeAs]
@[simp] theorem State.spend_at_cluOf (s : State) (n j : Nat) : (s.spend n).cluOf j = s.cluOf j := by simp [State.spend]
@[simp] theorem State.jumpTo_at_cluOf (s : State) (x : W) (j : Nat) : (s.jumpTo x).cluOf j = s.cluOf j := by simp [State.jumpTo]
@[simp] theorem State.closeAs_at_cluOf (s : State) (x : RowState) (j : Nat) : (s.closeAs x).cluOf j = s.cluOf j := by simp [State.closeAs]
@[simp] theorem State.spend_at_tenOf (s : State) (n j : Nat) : (s.spend n).tenOf j = s.tenOf j := by simp [State.spend]
@[simp] theorem State.jumpTo_at_tenOf (s : State) (x : W) (j : Nat) : (s.jumpTo x).tenOf j = s.tenOf j := by simp [State.jumpTo]
@[simp] theorem State.closeAs_at_tenOf (s : State) (x : RowState) (j : Nat) : (s.closeAs x).tenOf j = s.tenOf j := by simp [State.closeAs]
@[simp] theorem State.spend_at_nodeOf (s : State) (n j : Nat) : (s.spend n).nodeOf j = s.nodeOf j := by simp [State.spend]
@[simp] theorem State.jumpTo_at_nodeOf (s : State) (x : W) (j : Nat) : (s.jumpTo x).nodeOf j = s.nodeOf j := by simp [State.jumpTo]
@[simp] theorem State.closeAs_at_nodeOf (s : State) (x : RowState) (j : Nat) : (s.closeAs x).nodeOf j = s.nodeOf j := by simp [State.closeAs]
@[simp] theorem State.spend_at_bdcOf (s : State) (n j : Nat) : (s.spend n).bdcOf j = s.bdcOf j := by simp [State.spend]
@[simp] theorem State.jumpTo_at_bdcOf (s : State) (x : W) (j : Nat) : (s.jumpTo x).bdcOf j = s.bdcOf j := by simp [State.jumpTo]
@[simp] theorem State.closeAs_at_bdcOf (s : State) (x : RowState) (j : Nat) : (s.closeAs x).bdcOf j = s.bdcOf j := by simp [State.closeAs]
@[simp] theorem State.spend_at_rowTenant (s : State) (n j : Nat) : (s.spend n).rowTenant j = s.rowTenant j := by simp [State.spend]
@[simp] theorem State.jumpTo_at_rowTenant (s : State) (x : W) (j : Nat) : (s.jumpTo x).rowTenant j = s.rowTenant j := by simp [State.jumpTo]
@[simp] theorem State.closeAs_at_rowTenant (s : State) (x : RowState) (j : Nat) : (s.closeAs x).rowTenant j = s.rowTenant j := by simp [State.closeAs]
@[simp] theorem State.spend_at_tenantOf (s : State) (n j : Nat) : (s.spend n).tenantOf j = s.tenantOf j := by simp [State.spend]
@[simp] theorem State.jumpTo_at_tenantOf (s : State) (x : W) (j : Nat) : (s.jumpTo x).tenantOf j = s.tenantOf j := by simp [State.jumpTo]
@[simp] theorem State.closeAs_at_tenantOf (s : State) (x : RowState) (j : Nat) : (s.closeAs x).tenantOf j = s.tenantOf j := by simp [State.closeAs]
@[simp] theorem State.spend_at_ctlOf (s : State) (n j : Nat) : (s.spend n).ctlOf j = s.ctlOf j := by simp [State.spend]
@[simp] theorem State.jumpTo_at_ctlOf (s : State) (x : W) (j : Nat) : (s.jumpTo x).ctlOf j = s.ctlOf j := by simp [State.jumpTo]
@[simp] theorem State.closeAs_at_ctlOf (s : State) (x : RowState) (j : Nat) : (s.closeAs x).ctlOf j = s.ctlOf j := by simp [State.closeAs]
@[simp] theorem State.retire_rowGet (s : State) (j p m : Nat) : s.retire.rowGet j p m = s.rowGet j p m := by unfold State.retire; dsimp only; split <;> simp
@[simp] theorem State.spend_rowGet (s : State) (n : Nat) (j p m : Nat) : (s.spend n).rowGet j p m = s.rowGet j p m := by simp [State.spend]
@[simp] theorem State.jumpTo_rowGet (s : State) (x : W) (j p m : Nat) : (s.jumpTo x).rowGet j p m = s.rowGet j p m := by simp [State.jumpTo]
@[simp] theorem State.closeAs_rowGet (s : State) (x : RowState) (j p m : Nat) : (s.closeAs x).rowGet j p m = s.rowGet j p m := by simp [State.closeAs]
@[simp] theorem State.retire_greg (s : State) (j p : Nat) : s.retire.greg j p = s.greg j p := by unfold State.retire; dsimp only; split <;> simp
@[simp] theorem State.spend_greg (s : State) (n : Nat) (j p : Nat) : (s.spend n).greg j p = s.greg j p := by simp [State.spend]
@[simp] theorem State.jumpTo_greg (s : State) (x : W) (j p : Nat) : (s.jumpTo x).greg j p = s.greg j p := by simp [State.jumpTo]
@[simp] theorem State.closeAs_greg (s : State) (x : RowState) (j p : Nat) : (s.closeAs x).greg j p = s.greg j p := by simp [State.closeAs]
@[simp] theorem State.retire_peek (s : State) (j p : Nat) : s.retire.peek j p = s.peek j p := by unfold State.retire; dsimp only; split <;> simp
@[simp] theorem State.spend_peek (s : State) (n : Nat) (j p : Nat) : (s.spend n).peek j p = s.peek j p := by simp [State.spend]
@[simp] theorem State.jumpTo_peek (s : State) (x : W) (j p : Nat) : (s.jumpTo x).peek j p = s.peek j p := by simp [State.jumpTo]
@[simp] theorem State.closeAs_peek (s : State) (x : RowState) (j p : Nat) : (s.closeAs x).peek j p = s.peek j p := by simp [State.closeAs]

@[simp] theorem State.retire_ended (s : State) : s.retire.cur.ended = .completed := by
  unfold State.retire; dsimp only; split <;> rfl
@[simp] theorem State.retire_me (s : State) : s.retire.me = s.me := by unfold State.retire; dsimp only; split <;> rfl
@[simp] theorem State.jumpTo_me (s : State) (x : W) : (s.jumpTo x).me = s.me := rfl
@[simp] theorem State.closeAs_me (s : State) (x : RowState) : (s.closeAs x).me = s.me := rfl
@[simp] theorem State.spend_slot (s : State) (n : Nat) : (s.spend n).cur.slot = s.cur.slot := rfl
@[simp] theorem State.spend_pc (s : State) (n : Nat) : (s.spend n).cur.pc = s.cur.pc := rfl
@[simp] theorem State.spend_jump (s : State) (n : Nat) : (s.spend n).cur.jump = s.cur.jump := rfl
@[simp] theorem State.spend_view (s : State) (n : Nat) : (s.spend n).cur.view = s.cur.view := rfl
/-- Control entries after a word completes: only its row's program counter moves, and in word 1 of a PAIR nothing does. -/
theorem State.retire_ctlOf (s : State) (q : Nat) : s.retire.ctlOf q =
    if s.me = q ∧ s.cur.slot ≠ .pair1 then { s.ctlOf s.me with pc := s.cur.jump.getD s.cur.next } else s.ctlOf q := by
  obtain ⟨sl, hsl⟩ : ∃ x, s.cur.slot = x := ⟨_, rfl⟩
  cases sl <;> simp only [State.retire, State.modCur, hsl] <;>
    simp [State.ctlOf, State.modCtl, State.setCtl, State.me, Cur.next, hsl]

/-! ### The row of a word after a source -/

@[simp] theorem State.orSts_me (s : State) (f : Nat) : (s.orSts f).me = s.me := by simp [State.orSts]

theorem State.popStream_me (s t : State) (k : Nat) (v : W) (h : s.popStream k = .ok (v, t)) : t.me = s.me := by
  unfold State.popStream at h
  cases hr : s.readRow (256 + 16 * (k - 24)) 16 with
  | error e => rw [hr] at h; cases h
  | ok x =>
  rw [hr] at h
  simp only [bind, Except.bind] at h
  split at h
  · injection h with h; injection h with _ h; subst h; simp
  split at h
  · cases h
  split at h
  · split at h
    · split at h <;> cases h
    · cases h
  · injection h with h; injection h with _ h; subst h; simp only [State.takeElement, State.modChunk_me]; split <;> simp
theorem State.src_me (s t : State) (a : Nat) (v : W) (h : s.src a = .ok (v, t)) : t.me = s.me := by
  by_cases hb : s.seenBound a = true
  · have ha : ¬ 28 ≤ a := by
      intro ha; simp [State.seenBound] at hb; omega
    by_cases h0 : a = 0
    · subst h0; simp [State.src] at h; obtain ⟨-, rfl⟩ := h; rfl
    · rw [State.src, if_neg h0, if_neg ha, if_pos hb] at h
      exact State.popStream_me s t a v h
  · rw [State.src_state s t a v h (by simpa using hb)]
/-- A destination that may be written is no bound stream. -/
theorem State.dstOpen_iff (s : State) (d : Nat) : s.dstOpen d = true ↔ d < 28 ∧ s.seenBound d = false := by
  simp [State.dstOpen]

end Sys2Proof.Machine
end

