-- ==== Sys2Proof/Tests/Slice0.lean ====
section
/-! SUPPORT. Tests: ill-formed terms that the limits refuse; words written out bit by bit from the formats of 03_encoding.md and the
descriptions of the instructions; results of single instructions and device steps computed by hand from the rules; and, for every statement
that has hypotheses, states and operands that meet them. A statement merged of several parts has the witnesses of its parts, each named after its
part. -/

open Sys2Proof Sys2Proof.Machine Sys2Proof.Says

set_option maxRecDepth 100000
set_option exponentiation.threshold 4096

namespace Sys2Proof.Tests

/-! ### Ill-formed terms, one for each check -/

theorem test_refuses_destination : illFormed (.add 28 1 2) = some .destination := by decide
theorem test_refuses_load_destination : illFormed (.ldb 31 1 0) = some .destination := by decide
theorem test_refuses_segment : illFormed (.vld 11 1 0) = some .segment := by decide
theorem test_refuses_vector_segment : illFormed (.vadd 0 15 0 0) = some .segment := by decide
theorem test_refuses_queue : illFormed (.qpush 1 11) = some .queue := by decide
theorem test_refuses_scope : illFormed (.ldaD 1 2 6) = some .scope := by decide
theorem test_refuses_rounding : illFormed (.fadd 1 2 3 0 5) = some .rounding := by decide
theorem test_refuses_lane_type : illFormed (.vshl 0 1 2 0) = some .laneType := by decide
theorem test_refuses_special_lane_type : illFormed (.vexp2 0 1 3) = some .laneType := by decide
theorem test_refuses_register : illFormed (.csrr 1 0x13) = some .register := by decide
theorem test_refuses_row_offset : illFormed (.ldrB 1 319) = some .limit := by decide
theorem test_refuses_fence_order : illFormed (.fence 0 0) = some .limit := by decide
theorem test_refuses_stream_register : illFormed (.sbind 23 0) = some .limit := by decide
theorem test_refuses_query_segment : illFormed (.skqry 10 1 0) = some .limit := by decide
theorem test_refuses_field : illFormed (.exts 1 2 63 1) = some .limit := by decide
theorem test_refuses_same_types : illFormed (.fcvt 1 2 1 1 0) = some .limit := by decide
theorem test_refuses_part : illFormed (.vcvt 0 1 1 1 0 0 0 0) = some .limit := by decide
theorem test_refuses_quantizing_into_scale : illFormed (.vquantMx 3 1 3 1 0 0) = some .limit := by decide
theorem test_refuses_quantizing_past_w10 : illFormed (.vquantMx 3 10 4 0 0 0) = some .limit := by decide
theorem test_refuses_scale_slot : illFormed (.vquantGq 3 1 4 1 32 0) = some .limit := by decide
theorem test_refuses_lane_number : illFormed (.vins 0 1 0 0 1) = some .limit := by decide
theorem test_accepts : WellFormed (.vins 0 0 0 15 1) = true ∧ WellFormed (.ldrB 27 320) = true ∧ WellFormed (.exts 1 2 63 0) = true ∧ WellFormed (.qpop 0 10) = true := by decide

/-! ### Words written out bit by bit: class, `OP`, and the fields of the format (R58, R59, R69, R70) -/

theorem word_bne : decodeChecked 0b0_000010_00011_00000_11111111111101 = .ok (.bne 3 0 (-3)) := by decide
theorem word_jal : decodeChecked 0b0_000111_00001_1111111111111111111 = .ok (.jal 1 (-1)) := by decide
theorem word_jalr : decodeChecked 0b0_001000_00000_00001_00000000000000 = .ok (.jalr 0 1 0) := by decide
theorem word_str : decodeChecked 0b0_001010_00101_00010_00000101000000 = .ok (.strW 5 320) := by decide
theorem word_ldr : decodeChecked 0b0_001001_00101_00110_00000101000000 = .ok (.ldrWu 5 320) := by decide
theorem word_hstart : decodeChecked 0b0_001011_00111_00100_00101_000000000 = .ok (.hstart 7 4 5) := by decide
theorem word_setpri : decodeChecked 0b0_000000_00000_00100_00000_000001000 = .ok (.setpri 4) := by decide
theorem word_pgate : decodeChecked 0b0_000000_00000_00100_00000_000001101 = .ok (.pgate 4) := by decide
theorem word_ldd : decodeChecked 0b0_010011_00100_00011_11111111111000 = .ok (.ldd 4 3 (-8)) := by decide
theorem word_stb : decodeChecked 0b0_011000_00100_00011_00000000000001 = .ok (.stb 4 3 1) := by decide
theorem word_vst : decodeChecked 0b0_011100_01010_00011_00000001000000 = .ok (.vst 10 3 64) := by decide
theorem word_atomd_cas : decodeChecked 0b0_011111_00010_01010_00001_0010_100_11 = .ok (.atomdCas 2 10 1 4 3) := by decide
theorem word_qpush : decodeChecked 0b0_100000_00000_00110_00010_000000000 = .ok (.qpush 6 2) := by decide
theorem word_qpop : decodeChecked 0b0_100001_00101_00000_00010_000000000 = .ok (.qpop 5 2) := by decide
theorem word_lui : decodeChecked 0b1_001101_00101_1000000000000000000 = .ok (.lui 5 (-262144)) := by decide
theorem word_add : decodeChecked 0b1_000000_00110_00101_11100_000000000 = .ok (.add 6 5 28) := by decide
theorem word_sari : decodeChecked 0b1_001100_00110_00101_10_000000_111111 = .ok (.sari 6 5 63) := by decide
theorem word_exts : decodeChecked 0b1_000011_00110_00101_00_000111_001000 = .ok (.exts 6 5 7 8) := by decide
theorem word_fcvt : decodeChecked 0b1_010011_00010_00001_00000_001_101_000 = .ok (.fcvt 2 1 1 5 0) := by decide
theorem word_fsub_double_rtz : decodeChecked 0b1_010000_00010_00001_00011_1_001_00001 = .ok (.fsub 2 1 3 1 1) := by decide
theorem word_vcvt : decodeChecked 0b1_101000_0101_0100_0000_000_000110100 = .ok (.vcvt 5 4 0 0 6 1 0 0) := by decide
theorem word_xcopy : decodeChecked 0b0_101000_00110_00000_00000_000000010 = .ok (.xcopy 6 2) := by decide
theorem word_tbwait : decodeChecked 0b0_101111_00000_00110_00000_000000011 = .ok (.tbwait 6 3) := by decide
theorem word_skupd : decodeChecked 0b0_110001_00000_00110_00000_000000011 = .ok (.skupd 6 3) := by decide
theorem word_gdef : decodeChecked 0b0_111000_00101_00100_00000_000000010 = .ok (.gdef 5 4 2) := by decide
theorem word_csrr : decodeChecked 0b0_111110_00101_00000_00_000000010000 = .ok (.csrr 5 0x010) := by decide
theorem word_launch : decodeChecked 0b0_111111_00000_00000_00011_000000000 = .ok (.launch 3) := by decide
theorem word_reserved : decodeChecked 0b0_001101_00000_00000_00000_000000000 = .error (.reserved 13) := by decide

/-! ### States -/

/-- A fact about the state that an instruction or device step gives. -/
def after (i : Instr) (s : State) (f : State → Bool) : Bool := match exec i s with | .next t => f t | _ => false
/-- Registers and distance values of a row, by number. -/
def regs (rid : Nat) (l : List (Nat × Nat)) : Mem := l.foldl (fun m e => mwrite m (rowAddr rid + 8 * e.1) (bytesOf 8 e.2)) []
/-- Pages that the sample core's TLBs hold: HBM from 0, the first rows of core 0 at 0x10000, their control column at 0x20000. -/
def pages : List TlbEntry :=
  [⟨0, 0, 65536, 0, 0, true, true, true, true, false, false, false, 0, 0, 65536, false, 65536⟩, ⟨0, 0x10000, 65536, 0x10000000000, 2, true, true, true, true, false, false, false, 0, 0, 65536, false, 65536⟩,
   ⟨0, 0x20000, 65536, 0x10800000000, 3, true, true, false, true, false, false, false, 0, 0, 65536, false, 65536⟩]
/-- A running row 0 of core 0 of tenant 0, every unit ready, with registers. -/
def row (l : List (Nat × Nat)) : State :=
  { mem := regs 0 l, ctl := [(0, { state := .opened, pc := 0x200 })], cur := { pc := 0x200 },
    core := [(0, { ports := [(0, some { row := 0, phase := .running, busy := 0 })], itlb := pages, dtlb := pages })],
    pkg := { ready0 := BitVec.allOnes 64, ready1 := BitVec.allOnes 64 } }
/-- The same with what a device step is about. -/
def about (u b : Nat) (s : State) : State := { s with sel := { unit := u, sub := b } }

theorem w_inThread (l : List (Nat × Nat)) : InThread (row l) := ⟨rfl, rfl⟩
theorem w_mayBeAlone (l : List (Nat × Nat)) : MayBeAlone (row l) := ⟨rfl, rfl, .inr ⟨rfl, .inl rfl⟩⟩

/-- Row 0 with core 0 in a core state. -/
def inCore (cs : CState) (l : List (Nat × Nat)) : State := { row l with core := [(0, { cs := cs })] }
/-- A 64-byte specification of dwords. -/
def spec (l : List Nat) : BitVec 512 := BitVec.ofNat 512 (l.reverse.foldl (fun n d => n * 2 ^ 64 + d) 0)
/-- HBM from 0, in the TLB of the cluster. -/
abbrev hbmPage : TlbEntry := ⟨0, 0, 65536, 0, 0, true, true, true, true, false, false, false, 0, 0, 65536, false, 65536⟩

/-! ### Witnesses: steps, sources, scalar words -/

/-- Row 0 with a bundle at its program counter, named by the schedule. -/
def code (w0 w1 : Nat) (l : List (Nat × Nat)) : State := { row l with mem := mwrite (regs 0 l) 0x200 (bytesOf 8 (w0 + w1 * 2 ^ 32)), schedule := [.issue 0 0] }
/-- The same after the schedule's first action was taken. -/
def coded (w0 w1 : Nat) (l : List (Nat × Nat)) : State := { code w0 w1 l with schedule := [] }
theorem w_reaches : Reaches (coded (2 ^ 31 + 0x46280007) 0x46280007 []) (coded (2 ^ 31 + 0x46280007) 0x46280007 []) (ridOf 0 0) :=
  { issues := rfl, first := by decide, boundary := rfl, budget := fun h => absurd h (by decide), packet := fun p h => absurd h (by intro h; cases h), line := by decide, grant := rfl }
/-- The two words are those of the bundle at the program counter. -/
abbrev Bundle (w0 w1 : Nat) : Prop := Fetched (coded w0 w1 []) (coded w0 w1 []) (ridOf 0 0) 0x200 0x200 0 w0 w1

/-- StepRunsWord: `addi g5, g0, 7` as word 0 of a SERIAL bundle. -/
theorem witness_StepRunsWord : (code (2 ^ 31 + 0x46280007) 0x46280007 []).schedule = .issue 0 0 :: [] ∧ Reaches (coded (2 ^ 31 + 0x46280007) 0x46280007 []) (coded (2 ^ 31 + 0x46280007) 0x46280007 []) (ridOf 0 0) ∧ Bundle (2 ^ 31 + 0x46280007) 0x46280007 ∧
    decodeChecked 0x46280007 = .ok (.addi 5 0 7) ∧ (coded (2 ^ 31 + 0x46280007) 0x46280007 []).boundDest (ridOf 0 0) (.addi 5 0 7) = false :=
  ⟨rfl, w_reaches, { xlat := rfl, code := by decide, good := rfl, words := by decide, small := by decide }, by decide, by decide⟩
/-- A step of it runs it. -/
theorem test_step_runs_addi : (match step (code (2 ^ 31 + 0x46280007) 0x46280007 []) with | .next t => t.greg 0 5 == 7 && (t.ctlOf 0).pc == 0x204 && t.schedule == [] | _ => false) = true := by decide
/-- StepRunsPair: `nop` with `addi g5, g0, 7`. -/
theorem witness_StepRunsPair : Bundle 0 0x46280007 ∧ decodeChecked 0 = .ok .nop ∧ decodeChecked 0x46280007 = .ok (.addi 5 0 7) ∧
    conflict .nop (.addi 5 0 7) = false ∧ barrierWord .nop = false ∧ (coded 0 0x46280007 []).boundDest (ridOf 0 0) .nop = false ∧ (coded 0 0x46280007 []).boundDest (ridOf 0 0) (.addi 5 0 7) = false :=
  ⟨{ xlat := rfl, code := by decide, good := rfl, words := by decide, small := by decide }, by decide, by decide, by decide, by decide, by decide, by decide⟩
theorem test_step_runs_pair : (match step (code 0 0x46280007 []) with | .next t => t.greg 0 5 == 7 && (t.ctlOf 0).pc == 0x208 | _ => false) = true := by decide
/-- BadBundleIsUndecodable: both words with bit 31; a SERIAL word that does not decode; a PAIR entered at word 1; one of two C-class words; one whose words both write g5; the same where word 1 does not decode; one
with `bar` in word 0; one whose word 0, or only word 1, does not decode. -/
theorem witness_BadBundleIsUndecodable : Bundle (2 ^ 31) (2 ^ 31) ∧ Bundle (2 ^ 31 + 0x0D000000) 0 ∧ decodeChecked 0x0D000000 = .error (.reserved 13) ∧
    Fetched { coded 0 0x46280007 [] with ctl := [(0, { state := .opened, pc := 0x204 })] } { coded 0 0x46280007 [] with ctl := [(0, { state := .opened, pc := 0x204 })] } (ridOf 0 0) 0x204 0x200 0 0 0x46280007 ∧ Bundle 0 0 ∧
    Bundle 0x10280000 0x46280007 ∧ decodeChecked 0x10280000 = .ok (.ldb 5 0 0) ∧ conflict (.ldb 5 0 0) (.addi 5 0 7) = true :=
  ⟨{ xlat := rfl, code := by decide, good := rfl, words := by decide, small := by decide }, { xlat := rfl, code := by decide, good := rfl, words := by decide, small := by decide }, by decide,
    { xlat := rfl, code := by decide, good := rfl, words := by decide, small := by decide }, { xlat := rfl, code := by decide, good := rfl, words := by decide, small := by decide }, { xlat := rfl, code := by decide, good := rfl, words := by decide, small := by decide }, by decide, by decide⟩
theorem witness_BadBundleIsUndecodable_pairs : Bundle 0x10280000 0x4029781A ∧ decodeChecked 0x4029781A = .error (.unassigned 64) ∧ namesDest (.ldb 5 0 0) 0x4029781A = true ∧ Bundle 0x25000000 0x46280007 ∧ decodeChecked 0x25000000 = .ok (.bar 0) ∧ barrierWord (.bar 0) = true ∧
    Bundle 0x0D000000 0x46280007 ∧ (coded 0 0 []).decodeFor 0 0x0D000000 = none ∧ Bundle 0 0x4031781A ∧ (coded 0 0 []).decodeFor 0 0 = some .nop ∧ (coded 0 0 []).decodeFor 0 0x4031781A = none :=
  ⟨{ xlat := rfl, code := by decide, good := rfl, words := by decide, small := by decide }, by decide, by decide, { xlat := rfl, code := by decide, good := rfl, words := by decide, small := by decide }, by decide, by decide,
    { xlat := rfl, code := by decide, good := rfl, words := by decide, small := by decide }, by decide, { xlat := rfl, code := by decide, good := rfl, words := by decide, small := by decide }, by decide, by decide⟩
theorem test_bad_bundle_traps : (match step (code 0 0 []) with | .next t => (t.ctlOf 0).state == .faulted && (t.thrOf 0).trapCause == some .illegal | _ => false) = true := by decide
/-- A step that goes on gives a state. -/
theorem goes {s : State} (h : (match step s with | .next _ => true | _ => false) = true) : ∃ t, step s = .next t := by
  cases hs : step s with
  | next t => exact ⟨t, rfl⟩
  | fault f => rw [hs] at h; exact absurd h (by simp)
  | refused f => rw [hs] at h; exact absurd h (by simp)
/-- StepKeepsMemoryCanonical, DecodeEncode, EncodeDecode. -/
theorem witness_StepKeepsMemoryCanonical : Safety.Inv (code 0 0x46280007 []) ∧ ∃ t, step (code 0 0x46280007 []) = .next t :=
  ⟨by unfold Safety.Inv; decide, goes (by decide)⟩
theorem witness_DecodeEncode : WellFormed (.vins 10 1 1 15 31) = true ∧ ∃ w, encode (.vins 10 1 1 15 31) = some w := ⟨by decide, _, rfl⟩
theorem witness_EncodeDecode : (0x46280007 : Nat) < 2 ^ 31 ∧ decodeWord 0x46280007 = .ok (.addi 5 0 7) := by decide

/-- Sources: a register, a distance value, word 1 of a PAIR, a register that a load has not bound; a bound stream register. -/
theorem witness_Sources : (row [(5, 3), (31, 4)]).seenBound 5 = false ∧ (row [(5, 3), (31, 4)]).seenBound 31 = false ∧ (row []).uncorrAt (rowAddr 0 + 40) 8 = none ∧
    ({ row [] with cur := { slot := .pair1, view := some { cells := regs 0 [(5, 9)] } } } : State).cur.view = some { cells := regs 0 [(5, 9)] } ∧
    (∃ l ∈ ({ row [] with thr := [(0, { loads := [⟨0, 64, 8, false, some 5, some 1, none, [], false, false, false, none⟩] })] } : State).thrOf (row []).me |>.loads, (5 < 28 ∧ l.reg = some 5)) ∧
    (∃ l ∈ ({ row [] with thr := [(0, { loads := [⟨0, 64, 8, false, some 5, some 4, none, [], false, false, false, none⟩] })] } : State).thrOf (row []).me |>.loads, (28 ≤ 31 ∧ l.win = some (31 - 27))) :=
  ⟨by decide, by decide, rfl, rfl, ⟨_, .head _, by decide⟩, ⟨_, .head _, by decide⟩⟩
/-- A row whose g24 is bound to a stream of 2-byte elements, signed, with steps of 4 and `LEFT` 2 or 0, and these elements staged. -/
def bound (left : Nat) (st : List Stage) : State :=
  { row [] with mem := mwrite [] (rowAddr 0 + 256) (bytesOf 16 (2 ^ 63 + 2 ^ 62 + 2 ^ 57 + 0x100 + (4 * 2 ^ 32 + left) * 2 ^ 64)), core := [(0, { ports := [(0, some { row := 0, phase := .running, busy := 0 })], itlb := pages, dtlb := pages, streams := st })] }
theorem witness_StreamSources : (bound 2 []).seenBound 24 = true ∧ (bound 2 []).uncorrAt (rowAddr 0 + 256) 16 = none ∧ (bound 0 []).seenBound 24 = true ∧ bits ((bound 0 []).seenStream 24).2 31 0 = 0 ∧ bits ((bound 2 []).seenStream 24).2 31 0 ≠ 0 ∧ (bound 2 []).seenStage 24 = none ∧
    (bound 2 [{ rid := 0, reg := 24, lock := 3, failed := some 0x100 }]).seenStage 24 = some { rid := 0, reg := 24, lock := 3, failed := some 0x100 } ∧ (bound 2 [{ rid := 0, reg := 24, lock := 3, vals := [0xFFFE, 5] }]).seenStage 24 = some { rid := 0, reg := 24, lock := 3, vals := [0xFFFE, 5] } ∧
    ({ bound 2 [] with cur := { slot := .pair1, view := some ((bound 2 []).viewOf 0) } } : State).pairPops 24 = 0 := by decide
theorem witness_StreamSources_popped : let s := bound 2 [{ rid := 0, reg := 24, lock := 3, vals := [5] }]
    let t := { s with thr := [(0, { chunk := { pops := [(24, 7)] } })] }
    ({ t with cur := { slot := .pair1, view := some (s.viewOf 0) } } : State).pairPops 24 = 1 := by decide
theorem test_stream_source : after (.addi 6 24 0) (bound 2 [{ rid := 0, reg := 24, lock := 3, vals := [0xFFFE, 5] }]) (fun t => t.greg 0 6 == 2 ^ 64 - 2 && t.rowGet 0 256 8 % 2 ^ 57 == 0x104 && t.rowGet 0 264 8 % 2 ^ 32 == 1) = true := by decide
theorem test_stream_end : after (.addi 6 24 9) (bound 0 []) (fun t => t.greg 0 6 == 9 && (t.thrOf 0).chunk.pops == []) = true := by decide
theorem test_sources : (row [(5, 3), (31, 4)]).src 5 = .ok (3, row [(5, 3), (31, 4)]) ∧ (row [(5, 3), (31, 4)]).src 31 = .ok (4, row [(5, 3), (31, 4)]) := ⟨rfl, rfl⟩
/-- AluResults, BitsResults, ImmediateResults, ShiftImmediateResults, FieldResults, RegisterWordsFrame: sources read and the destination open, at codes 0, 27 and 31. -/
theorem witness_registerWords : ∃ x y, (row [(27, 5), (31, 9)]).src 27 = .ok (x, row [(27, 5), (31, 9)]) ∧ (row [(27, 5), (31, 9)]).src 31 = .ok (y, row [(27, 5), (31, 9)]) ∧
    (row [(27, 5), (31, 9)]).dstOpen 27 = true ∧ (row [(27, 5), (31, 9)]).dstOpen 0 = true ∧ (63 : BitVec 6).toNat + 1 + (0 : BitVec 6).toNat ≤ 64 := ⟨5, 9, rfl, rfl, by decide, by decide, by decide⟩
/-- Encodings of AluResults, BitsResults and ShiftImmediateResults at the edges of `FN`. -/
theorem witness_registerEncodings : aluTable[25]? ≠ none ∧ aluTable[26]? = none ∧ mulDivTable[7]? ≠ none ∧ mulDivTable[8]? = none ∧ bitsTable[4]? ≠ none ∧ bitsTable[5]? = none ∧ immTable[5]? ≠ none ∧ shiftTable[3]? ≠ none :=
  ⟨by simp [aluTable], by simp [aluTable], by simp [mulDivTable], by simp [mulDivTable], by simp [bitsTable], by simp [bitsTable], by simp [immTable], by simp [shiftTable]⟩
theorem test_add_wraps : after (.add 6 5 28) (row [(5, 2 ^ 64 - 1), (28, 3)]) (fun t => t.greg 0 6 == 2 && t.greg 0 28 == 2 && t.greg 0 29 == 3) = true := by decide
theorem test_sar_of_negative : after (.sar 6 5 4) (row [(5, 2 ^ 63), (4, 64 + 63)]) (fun t => t.greg 0 6 == 2 ^ 64 - 1) = true := by decide
theorem test_div_by_zero : after (.div 6 5 0) (row [(5, 7)]) (fun t => t.greg 0 6 == 2 ^ 64 - 1) = true := by decide
theorem test_div_overflow : after (.div 6 5 4) (row [(5, 2 ^ 63), (4, 2 ^ 64 - 1)]) (fun t => t.greg 0 6 == 2 ^ 63) = true := by decide
theorem test_rem_sign : after (.rem 6 5 4) (row [(5, 2 ^ 64 - 7), (4, 2)]) (fun t => t.greg 0 6 == 2 ^ 64 - 1) = true := by decide
theorem test_subw : after (.subw 6 5 4) (row [(5, 2 ^ 32), (4, 1)]) (fun t => t.greg 0 6 == 2 ^ 64 - 1) = true := by decide
theorem test_clz : after (.clz 6 5) (row [(5, 1)]) (fun t => t.greg 0 6 == 63) = true ∧ after (.ctz 6 0) (row []) (fun t => t.greg 0 6 == 64) = true := by decide
theorem test_ins_reads_destination : after (.ins 6 5 7 8) (row [(5, 0xAB), (6, 0x111111)]) (fun t => t.greg 0 6 == 0x11AB11) = true := by decide
theorem test_auipc : after (.auipc 6 1) (row []) (fun t => t.greg 0 6 == 0x4200) = true := by decide
theorem test_g0_is_not_written : after (.addi 0 0 7) (row []) (fun t => t.greg 0 0 == 0 && t.greg 0 28 == 7) = true := by decide

/-! ### Witnesses: floating point, control, traps, registers, memory -/

theorem witness_FloatWordsComplete : (row [(5, 1), (6, 2), (7, 3)]).src 5 = .ok (1, row [(5, 1), (6, 2), (7, 3)]) ∧ (row [(5, 1), (6, 2), (7, 3)]).src 6 = .ok (2, row [(5, 1), (6, 2), (7, 3)]) ∧
    (row [(5, 1), (6, 2), (7, 3)]).src 7 = .ok (3, row [(5, 1), (6, 2), (7, 3)]) ∧ (row [(5, 1), (6, 2), (7, 3)]).dstOpen 7 = true := ⟨rfl, rfl, rfl, by decide⟩
theorem witness_FloatSpecialCases : isNaN (fpFmt 0) (fpBits 0 0x7FC00000) = true ∧ isSNaN (fpFmt 1) (fpBits 1 0x7FF0000000000001) = true ∧ finite (valOf (fpFmt 0) (fpBits 0 0x3F800000)) ∧ ratOf (valOf (fpFmt 0) (fpBits 0 0x80000000)) = 0 :=
  ⟨by decide, by decide, by trivial, by rw [show valOf (fpFmt 0) (fpBits 0 0x80000000) = .fin true 0 (2 ^ 149) from by decide]; simp [ratOf]⟩
theorem witness_FloatOrderAndSign : isNaN (fpFmt 0) (fpBits 0 0x7FC00000) = true ∧ isNaN (fpFmt 0) (fpBits 0 0x3F800000) = false ∧ finite (valOf (fpFmt 0) (fpBits 0 0x3F800000)) ∧ finite (valOf (fpFmt 1) (fpBits 1 0x4000000000000000)) :=
  ⟨by decide, by decide, by trivial, by trivial⟩
theorem witness_RoundingIsCorrect : isNaN fp16 0x3C00 = false ∧ finite (valOf fp16 0x7BFF) ∧ (rnd fp16 .rne false (.fin false 1 3)).overflow = false ∧ (rnd fp16 .rdn false (.fin true 65504 1)).overflow = false ∧ (rnd fp16 .rup false (.fin false 65504 1)).overflow = false :=
  ⟨by decide, by trivial, by decide, by decide, by decide⟩
theorem test_fadd : after (.fadd 6 5 4 1 0) (row [(5, 0x3FF0000000000000), (4, 0x4000000000000000)]) (fun t => t.greg 0 6 == 0x4008000000000000 && t.greg 0 0 == 0) = true := by decide
theorem test_fdiv_by_zero : after (.fdiv 6 5 0 0 0) (row [(5, 0x3F800000)]) (fun t => t.greg 0 6 == 0x7F800000 && t.greg 0 0 == 2 ^ 59) = true := by decide
theorem test_fsub_rounds_down_to_minus_zero : after (.fsub 6 5 5 0 2) (row [(5, 0x3F800000)]) (fun t => t.greg 0 6 == 0x80000000) = true := by decide
theorem test_fcvt_e4m3_overflow : after (.fcvt 6 5 1 5 0) (row [(5, 0x44000000)]) (fun t => t.greg 0 6 == 0x7F) = true := by decide

theorem witness_Branches : ((row [(3, 7)]).ctlOf (row [(3, 7)]).me).p = false ∧ (row [(3, 7)]).src 3 = .ok (7, row [(3, 7)]) ∧ (row [(3, 7)]).src 0 = .ok (0, row [(3, 7)]) := ⟨rfl, rfl, rfl⟩
theorem test_bne_taken : after (.bne 3 0 (-3)) (row [(3, 7)]) (fun t => (t.ctlOf 0).pc == 0x1F4) = true := by decide
theorem test_bge_not_taken : after (.bge 0 3 5) (row [(3, 7)]) (fun t => (t.ctlOf 0).pc == 0x204) = true := by decide
theorem witness_Jumps : (row [(1, 0x1003)]).dstOpen 1 = true ∧ (row [(1, 0x1003)]).src 1 = .ok (0x1003, row [(1, 0x1003)]) := ⟨by decide, rfl⟩
theorem test_jalr_reads_before_it_writes : after (.jalr 1 1 4) (row [(1, 0x1003)]) (fun t => (t.ctlOf 0).pc == 0x1004 && t.greg 0 1 == 0x204) = true := by decide
theorem witness_RowLocalLoads : (row []).cur.slot ≠ .pair1 ∧ (321 : Nat) % 2 ≠ 0 ∧ (row []).segPending 1016 8 = false ∧ (row []).uncorrAt (0x10000000000 + 1016) 8 = none ∧
    ({ row [] with clu := [(0, { locks := [⟨0x10000000000 + 320, 0x10000000000 + 383, true, 0, false, []⟩] })] } : State).rangeLocked 0 (0x10000000000 + 320) 8 false = true :=
  ⟨by decide, by decide, by decide, rfl, by decide⟩
theorem witness_RowLocalStores : ({ row [] with clu := [(0, { locks := [⟨0x10000000000 + 320, 0x10000000000 + 383, false, 0, false, []⟩] })] } : State).rangeLocked 0 (0x10000000000 + 320) 8 true = true ∧
    (row [(5, 1)]).rangeLocked 0 (0x10000000000 + 320) 8 true = false ∧ (row [(5, 1)]).src 5 = .ok (1, row [(5, 1)]) := ⟨by decide, by decide, rfl⟩
theorem test_str_then_ldr : after (.strH 5 1022) (row [(5, 0x18000)]) (fun t => after (.ldrH 6 1022) { t with cur := { pc := 0x204 } } fun u => u.greg 0 6 == 2 ^ 64 - 0x8000) = true := by decide
theorem test_ldr_misaligned : after (.ldrW 6 322) (row []) (fun t => (t.ctlOf 0).state == .faulted && (t.thrOf 0).trapCause == some .align && (t.thrOf 0).trapG3 == 0x10000000142) = true := by decide

theorem witness_NopHasNoEffect : ((row []).ctlOf (row []).me).p = false ∧ (({ row [] with ctl := [(0, { state := .opened, p := true })] } : State).ctlOf 0).p = true ∧ (0x200 : Nat) % 8 = 0 := by decide
theorem witness_ThreadControl : ((row [(5, 9)]).ctlOf (row [(5, 9)]).me).p = false ∧ (row [(5, 9)]).src 5 = .ok (9, row [(5, 9)]) ∧ MayBeAlone (row [(5, 9)]) ∧ (row [(5, 9)]).quiet = true ∧ (row [(5, 9)]).helpersOf 0 = [] ∧
    ({ row [] with core := [(0, { cs := { helpers := [(1984, ⟨0, 0⟩)] } })] } : State).helpersOf 0 ≠ [] := ⟨rfl, rfl, w_mayBeAlone _, by decide, by decide, by decide⟩
/-- A step whose `yield` has completed. -/
def yielded : State := { row [] with cur := { pc := 0x200, slot := .serial1, ended := .completed, ending := true, close := some .ready } }
theorem witness_YieldCloses : yielded.vecBusy 0 = false ∧ ({ yielded with core := [(0, { vq := [⟨0, 0, [3], [1], 3, 1, 0, none⟩] })] } : State).vecBusy 0 = true ∧ yielded.portOf yielded.me = some 0 ∧ yielded.cur.endsBundle = true ∧ (yielded.thrOf yielded.me).chunk.stores = [] ∧ (yielded.thrOf yielded.me).deferred = [] := by decide
theorem test_yield_closes : ((yielded.finishOne false).ctlOf 0).state = .ready ∧ tget none ((yielded.finishOne false).coreOf 0).ports 0 = some { row := 0, phase := .writeback, busy := 3 } := by decide
theorem witness_HelperStart : (row []).freeHelperSlot 0 = some 0 ∧ (row []).helperRow 0 = some 1984 ∧ ((row []).ctlOf 0).h = false ∧ (({ row [] with ctl := [(0, { h := true })] } : State).ctlOf 0).h = true ∧ (row []).dstOpen 7 = true := by decide
theorem test_hstart_handle : after (.hstart 7 4 5) (row [(4, 0x40002000), (5, 99)]) (fun t => t.greg 0 7 == 1984 * 65536) = true := by decide
/-- Row 0 with a helper in slot 0, in a state. -/
def helped (st : RowState) : State := { row [(5, 1)] with ctl := [(0, { state := .opened }), (1984, { state := st, h := true })], core := [(0, { cs := { helpers := [(1984, ⟨0, 0⟩)] } })] }
theorem witness_HelperJoin : (helped .exited).src 5 = .ok (1, helped .exited) ∧ MayBeAlone (helped .exited) ∧ ((helped .exited).ctlOf (ridOf 0 1984)).state = .exited ∧ ((helped .ready).ctlOf (ridOf 0 1984)).state = .ready ∧
    ((helped .ready).helpersOf 0).filter (fun h => (1 : Nat).testBit h.1) ≠ [] ∧ ((helped .ready).helpersOf 0).filter (fun h => (2 : Nat).testBit h.1) = [] := ⟨rfl, ⟨rfl, rfl, .inr ⟨rfl, .inl rfl⟩⟩, by decide, by decide, by decide, by decide⟩
theorem test_hjoin_waits : after (.hjoin 5) (helped .ready) (fun t => (t.ctlOf 0).state == .blocked && (t.ctlOf 0).wait == 6 && (t.ctlOf 0).wake == 1) = true := by decide

theorem w_trapsNow : TrapsNow (row []) := ⟨by decide, rfl, rfl, rfl, rfl, rfl, rfl, rfl, rfl, rfl⟩
theorem witness_TrapWord : InThread (row []) ∧ TrapsNow (row []) ∧ isBase ({ row [] with cur := { rid := baseRid } } : State).me = true := ⟨w_inThread _, w_trapsNow, by decide⟩
/-- A tenant's fault queue of 16 entries, empty or full, and a team with a handler. -/
def queued (tail : BitVec 32) : State := { row [] with ten := [(0, { fqbase := 4, fqtail := tail })] }
def handled : State := { row [] with clu := [(0, { teamhdl := [(0, 0x40003001)] })] }
theorem witness_TrapToFaultQueue : TrapsNow (queued 3) ∧ (row []).quiet = true ∧ (row []).teamHandler (row []).me = none ∧ ((row []).coreOf (row []).myCore).qbufs = [] ∧ bits ((queued 3).tenOf ((queued 3).rowTenant 0)).fqbase.toNat 4 0 = 4 ∧
    (((queued 3).tenOf 0).fqtail + BitVec.ofNat 32 0 - ((queued 3).tenOf 0).fqhead).toNat ≠ 2 ^ 4 ∧ (((queued 16).tenOf 0).fqtail + BitVec.ofNat 32 0 - ((queued 16).tenOf 0).fqhead).toNat = 2 ^ 4 :=
  ⟨⟨by decide, rfl, rfl, rfl, rfl, rfl, rfl, rfl, rfl, rfl⟩, by decide⟩
theorem test_trap_is_queued : after (.trap 5) (queued 3) (fun t => (t.tenOf 0).fqWay.length == 1 && (t.ctlOf 0).pc == 0x200) = true ∧ after (.trap 5) (queued 16) (fun t => (t.tenOf 0).fqlost == 1) = true := by decide
theorem witness_TrapToHandler : ∃ h, handled.teamHandler handled.me = some h ∧ handled.freeHelperSlot handled.me = some 0 ∧ handled.freePoolRow handled.myCore = some 1984 ∧ ridOf handled.myCore 1984 ≠ handled.me ∧ handled.quiet = true :=
  ⟨_, rfl, by decide, by decide, by decide, by decide⟩
theorem test_trap_starts_handler : after (.trap 5) handled (fun t => (t.ctlOf 1984).state == .ready && (t.ctlOf 1984).pc == 0x40003000 && t.greg 1984 3 == 5) = true := by decide
/-- A handler row 0 of the faulted row 9. -/
def handling : State := { row [(5, 1), (6, 3)] with ctl := [(0, { state := .opened, h := true }), (9, { state := .faulted, pc := 0x1004 })], thr := [(0, { serves := some { faulted := 9 } }), (9, { fetchTrap := true })] }
theorem witness_TrapReturn : (handling.thrOf handling.me).serves = some { faulted := 9 } ∧ handling.src 5 = .ok (1, handling) ∧ handling.src 0 = .ok (0, handling) ∧ handling.src 6 = .ok (3, handling) ∧ MayBeAlone handling ∧ handling.quiet = true ∧
    handling.resumeWaits 9 = false ∧ (∃ pa tt u, ({ handling with thr := [(9, {})], ctl := [(9, { state := .faulted, pc := 0x204 })] } : State).coreXlat 9 0x200 .fetch = .ok pa tt u) ∧
    (handling.ctlOf 9).state = .faulted ∧ ((row []).thrOf 0).serves = none := ⟨by decide, rfl, rfl, rfl, ⟨rfl, rfl, .inr ⟨rfl, .inl rfl⟩⟩, by decide, by decide, ⟨_, _, _, rfl⟩, by decide, by decide⟩
theorem test_tret_resumes : after (.tret 0) handling (fun t => (t.ctlOf 9).state == .ready && (t.ctlOf 9).pc == 0x1004) = true ∧ after (.tret 5) handling (fun t => (t.ctlOf 9).pc == 0x1008) = true := by decide
theorem witness_FenceI : InThread (row []) ∧ MayBeAlone (row []) ∧ (row []).drained (row []).me = true ∧ ({ row [] with clu := [(0, { outq := [⟨64, [0], 0, 0, true, none, none, none⟩] })] } : State).drained 0 = false := ⟨w_inThread _, w_mayBeAlone _, by decide, by decide⟩
theorem witness_CsrReads : (row []).cur.slot ≠ .pair1 ∧ (row []).uncorrAt (rowAddr 0) 8 = none ∧ ((0x020 : BitVec 12), (16 : W)) ∈ csrTable (row []) := ⟨by decide, rfl, by simp [csrTable, num]; decide⟩
theorem witness_CsrWrites : (row [(5, 17)]).src 5 = .ok (17, row [(5, 17)]) ∧ MayBeAlone (row [(5, 17)]) ∧ (0x024 : BitVec 12) ∉ csrReadOnly ∧ (0x030 : BitVec 12) ∉ csrReadOnly := ⟨rfl, w_mayBeAlone _, by decide, by decide⟩
theorem test_csrw_openlim : after (.csrw 6 5 0x020) (row [(5, 17)]) (fun t => (t.cs 0).openlim == 16 && t.greg 0 6 == 16) = true ∧ after (.csrw 6 5 0x020) (row [(5, 1)]) (fun t => (t.cs 0).openlim == 1) = true := by decide
theorem test_csrw_read_only : after (.csrs 6 5 0x040) (row []) (fun t => (t.thrOf 0).trapCause == some .access && (t.thrOf 0).trapG3 == 0x40) = true := by decide
theorem witness_TlbInvalidate : (row [(5, 64), (6, 1), (7, 2)]).src 6 = .ok (1, row [(5, 64), (6, 1), (7, 2)]) ∧ (row [(5, 64), (6, 1), (7, 2)]).src 7 = .ok (2, row [(5, 64), (6, 1), (7, 2)]) ∧ (row []).entryBusy (fun _ => true) = false := ⟨rfl, rfl, by decide⟩
theorem test_tlbinv_page : after (.tlbinv 5 0) (row [(5, 64)]) (fun t => (t.coreOf 0).dtlb.length == 2) = true ∧ after (.tlbinv 5 6) (row [(6, 1)]) (fun t => (t.coreOf 0).dtlb.length == 0) = true := by decide
theorem witness_PowerGate : (row [(5, 2 ^ 63)]).src 5 = .ok (BitVec.ofNat 64 (2 ^ 63), row [(5, 2 ^ 63)]) ∧ (∀ i, i < 4 → (row []).granted 0 (4 * 0 + i) = true) ∧ (2 ^ 63 + 2048 : Nat) / 2048 % 2 ^ 52 ≠ 0 := ⟨rfl, by decide, by decide⟩
theorem test_pgate_own_quad : after (.pgate 5) (row [(5, 2 ^ 63)]) (fun t => (t.quadOf 0).power == .gating && (t.thrOf 0).stop == some .gating) = true := by decide

theorem witness_AccessChecks : ((2 ^ 57 : Nat)) ≤ (BitVec.ofNat 64 (2 ^ 57)).toNat ∧ (65 : Nat) % 8 ≠ 0 ∧ (row []).coreXlat 0 64 .read = .ok 64 0 (row []) ∧ (row []).coreXlat 0 0x10040 .read = .ok 0x10000000040 2 (row []) ∧
    (row []).targetTakes 64 8 .load = true ∧ (row []).targetTakes 0x10800000000 4 .load = false := ⟨by decide, by decide, rfl, rfl, by decide, by decide⟩
/-- A page that is migrating, whose first line has not come; and a word of HBM that cannot be corrected. -/
def migrating : State :=
  let l := [{ hbmPage with mig := true }]
  { row [] with core := [(0, { dtlb := l })], pkg := { (row []).pkg with migs := [{ tenant := 0, va := 0, leaf := 0xA000, old := 0x550000, new := 0, oldFrame := 0x55 }] } }
theorem witness_AccessChecks_stops : (∃ r, (row []).coreXlat 0 0x30000 .read = .access r) ∧ migrating.coreXlat 0 64 .read = .line ∧ ({ row [] with uncorr := [64] } : State).uncorrAt 64 8 = some 64 ∧ (row []).rangeLocked 0 64 8 false = false ∧
    ({ row [] with clu := [(0, { locks := [⟨64, 127, true, 0, false, []⟩] })] } : State).rangeLocked 0 64 8 false = true := ⟨⟨_, rfl⟩, rfl, by decide, by decide, by decide⟩
theorem test_uncorrectable_word : after (.ldd 6 5 0) { row [(5, 64)] with uncorr := [64] } (fun t => (t.thrOf 0).trapCause == some .uncorr && (t.thrOf 0).trapG3 == 64) = true := by decide
theorem witness_AccessLeavesOnlyTranslations : (row []).access 64 8 .load = .ok (64, row []) := rfl
theorem test_access_own_header : after (.ldd 6 5 0) (row [(5, 0x10138)]) (fun t => (t.thrOf 0).trapCause == some .access) = true ∧ after (.ldd 6 5 0) (row [(5, 0x10140)]) (fun t => (t.thrOf 0).trapCause == none) = true := by decide
/-- A thread with a load, from its own row, from another row of the cluster at a boundary, and from HBM, of its chunk's bytes or pending. -/
theorem witness_ScalarLoads : LoadsFrom (row [(5, 64)]) (row [(5, 64)]) (.ldd 6 5 0) 6 8 false 64 ∧ (row [(5, 64)]).access 64 8 .load = .ok (64, row [(5, 64)]) ∧ (row [(5, 64)]).dstOpen 6 = true ∧ clusterHome 64 ≠ some 0 ∧ deviceHome 64 = false ∧
    rowAt 0x10000000140 = some 0 ∧ clusterHome 0x10000000140 = some 0 ∧ (row [(5, 64)]).segPending 320 8 = false ∧ (row []).reach 0x10000000540 8 = .ok (row []) ∧ deviceHome 0x20000000000 = true ∧ regionOf 0x20000000000 = .host ∧
    (row []).mmioRead (some 0) 0x1F0000000A0 = some 5500 :=
  ⟨⟨rfl, .inl ⟨5, 0, by simp [immLoads], 64, rfl, rfl⟩⟩, rfl, by decide, by decide, by decide, by decide, by decide, by decide, rfl, by decide, by decide, by decide⟩
theorem witness_ClusterReadBytes : (∀ r w o, regionOf 0x10000000140 ≠ .control r w o) ∧ ({ row [] with oct := [(0, { busy := true })] } : State).busyBank 0x10000000140 = true ∧ (row []).busyBank 0x10000000140 = false :=
  ⟨(fun r w o h => by rw [show regionOf 0x10000000140 = .rowStore 0 320 from by decide] at h; cases h), by decide, by decide⟩
theorem test_load_of_own_segment : after (.ldd 6 5 0) { row [(5, 0x10140)] with mem := mwrite (regs 0 [(5, 0x10140)]) (0x10000000140) (bytesOf 8 77) } (fun t => t.greg 0 6 == 77) = true := by decide
theorem test_load_of_hbm_pends : after (.ldb 6 5 1) (row [(5, 64)]) (fun t => (t.thrOf 0).loads.map (fun l => (l.pa, l.size, l.sext, l.reg)) == [(65, 1, true, some 6)]) = true := by decide
theorem witness_ScalarStores : StoresTo (row [(5, 64), (6, 9)]) (row [(5, 64), (6, 9)]) (.stw 6 5 4) 4 68 9 ∧ (row [(5, 64)]).access 64 8 .store = .ok (64, row [(5, 64)]) ∧
    (bufLines [{ pa := 64, bytes := bytesOf 8 9, strong := false, home := false }]).length ≤ 32 :=
  ⟨⟨rfl, 6, row [(5, 64), (6, 9)], rfl, .inl ⟨5, 4, by simp [immStores], 64, rfl, rfl⟩⟩, rfl, by decide⟩
theorem test_store_is_buffered : after (.stw 6 5 4) (row [(5, 64), (6, 9)]) (fun t => (t.thrOf 0).chunk.stores.map (fun b => (b.pa, b.bytes)) == [(68, bytesOf 4 9)] && mget t.mem 68 == 0) = true := by decide
theorem test_store_to_own_segment : after (.stb 6 5 0) (row [(5, 0x10140), (6, 0x1FF)]) (fun t => mget t.mem 0x10000000140 == 0xFF && mget t.mem 0x10000000141 == 0) = true := by decide
theorem witness_SegmentAccesses : AddressOf (row [(5, 64)]) (row [(5, 64)]) 64 5 (.inl 0) ∧ (row [(5, 64)]).access 64 64 .load = .ok (64, row [(5, 64)]) ∧ ∃ v, (row [(5, 64)]).seg 3 = .ok v := ⟨⟨64, rfl, rfl⟩, rfl, _, rfl⟩

/-! ### Witnesses: atomics, ordered accesses, fences, commits, drains -/

theorem witness_Atomics : AtomOperands (row [(5, 64), (6, 9), (7, 8)]) (row [(5, 64), (6, 9), (7, 8)]) 7 5 6 2 64 9 8 ∧ AtomOperands (row [(5, 64), (6, 9)]) (row [(5, 64), (6, 9)]) 7 5 6 0 64 9 0 ∧
    (row [(5, 64)]).access 64 8 (.atomic true) = .ok (64, row [(5, 64)]) ∧ MayBeAlone (row [(5, 64)]) ∧ ((1 : BitVec 2)).getLsbD 1 = false ∧ (row []).segPending 320 4 = false ∧ ((row []).ctlOf 1).state = .null ∧
    rowAt 0x10000000540 = some 1 ∧ clusterHome 0x10000000540 = some 0 :=
  ⟨⟨rfl, _, _, rfl, rfl, rfl⟩, ⟨rfl, _, _, rfl, rfl, rfl, rfl⟩, rfl, w_mayBeAlone _, by decide, by decide, by decide, by decide, by decide⟩
theorem test_atomic_on_own_segment : after (.atomwMin 7 5 6 0 0) { row [(5, 0x10140), (6, 2)] with mem := mwrite (regs 0 [(5, 0x10140), (6, 2)]) 0x10000000140 (bytesOf 4 (2 ^ 32 - 1)) }
    (fun t => t.greg 0 7 == 2 ^ 64 - 1 && mread t.mem 0x10000000140 4 == 2 ^ 32 - 1) = true := by decide
theorem test_cas_on_own_segment : after (.atomdCas 7 5 6 0 0) { row [(5, 0x10140), (6, 9), (7, 3)] with mem := mwrite (regs 0 [(5, 0x10140), (6, 9), (7, 3)]) 0x10000000140 (bytesOf 8 3) }
    (fun t => t.greg 0 7 == 3 && mread t.mem 0x10000000140 8 == 9) = true := by decide
theorem test_atomic_on_hbm_pends : after (.atomdAdd 7 5 6 5 0) (row [(5, 64), (6, 9)]) (fun t => (t.cluOf 0).outq.map (fun e => (e.pa, e.atomic)) == [(64, some (0, 9, 0))] && t.cur.ending) = true := by decide
theorem witness_OrderedAccesses : (row [(5, 64), (6, 9)]).src 5 = .ok (64, row [(5, 64), (6, 9)]) ∧ regionOf 64 = .hbm ∧ (row [(5, 64)]).access 64 4 .load = .ok (64, row [(5, 64)]) ∧ (row [(5, 64)]).releaseReady 0 { before := 0, stores := true } = true ∧
    (let s4 := (row [(5, 64)]).modChunk 0 fun ch => { ch with release := some { before := 0, stores := true } }; s4.access 64 8 .store = .ok (64, s4)) ∧ MayBeAlone (row [(5, 64)]) ∧
    (let s4 := (row [(5, 64)]).modCur fun y => { y with ending := true }; s4.access 64 8 .store = .ok (64, s4) ∧ s4.access 64 8 .load = .ok (64, s4)) ∧ (row [(5, 64)]).drained 0 = true :=
  ⟨rfl, by decide, rfl, by decide, rfl, w_mayBeAlone _, ⟨rfl, rfl⟩, by decide⟩
theorem test_stl_narrow_releases : after (.stlD 5 6 3) (row [(5, 64), (6, 9)]) (fun t => (t.thrOf 0).chunk.release == some { before := 0, stores := true } && !t.cur.ending) = true ∧ after (.stlD 5 6 4) (row [(5, 64), (6, 9)]) (fun t => t.cur.ending) = true := by decide
theorem witness_Fences : InThread (row []) ∧ (row []).releaseReady (row []).me { before := 0, stores := true } = true ∧ MayBeAlone (row []) ∧ (row []).drained 0 = true := ⟨w_inThread _, by decide, w_mayBeAlone _, by decide⟩
theorem test_fence_both_sides : after (.fence 3 3) (row []) (fun t => (t.thrOf 0).fence == some { before := 0, stores := true } && (t.thrOf 0).chunk.ended) = true := by decide

/-- Row 0 with an ended chunk, and what stands in its cluster. -/
def ended (ch : Chunk) (c : Cluster) : State := { row [] with thr := [(0, { chunk := { ch with live := true, ended := true } })], clu := [(0, c)] }
/-- A load that a release waits for, one issued after it, and a store that only a release wider than `THREAD` waits for (R141). -/
theorem witness_Sides : Sides (row []) (row []) 0 true false ∧ Sides (row []) ((row []).modChunk 0 fun ch => { ch with release := some { before := 0, stores := false } }) 0 false true ∧ Sides (row []) ((row []).modCur fun x => { x with ending := true }) 5 true true :=
  ⟨rfl, ⟨.inr (by decide), rfl⟩, w_mayBeAlone _, fun _ => by decide, rfl⟩
def releases : State := { row [] with seq := 5, thr := [(0, { loads := [⟨3, 64, 8, false, none, none, none, [], false, false, false, none⟩] })], clu := [(0, { outq := [⟨64, bytesOf 8 9, 0, 1, false, none, none, none⟩] })] }
theorem test_release_waits : releases.releaseReady 0 { before := 5, stores := true } = false ∧ releases.releaseReady 0 { before := 5, stores := false } = false ∧ releases.releaseReady 0 { before := 3, stores := false } = true ∧ releases.releaseReady 0 { before := 3, stores := true } = false := by decide
/-- The chunk without a conflict; with one; under another row's grant; and its own. -/
theorem witness_ChunkCommits : (ended {} {}).running 0 = true ∧ (ended {} {}).vecBusy 0 = false ∧ conflicts ((ended {} {}).cluOf 0) ((ended {} {}).thrOf 0).chunk = false ∧
    conflicts ((ended { rsig := 1 } { nextSlot := 1, sigs := [(0, 1)] }).cluOf 0) ((ended { rsig := 1 } { nextSlot := 1, sigs := [(0, 1)] }).thrOf 0).chunk = true ∧
    ((ended {} { grant := some 7 }).cluOf 0).grant = some 7 ∧ (row []).releaseReady 0 { before := 0, stores := true } = true ∧ (ended {} {}).stepDone 0 = true ∧ (ended {} {}).commitFull 0 = false ∧ ({ ended {} {} with clu := [(0, { commitAt := 0, commits := 2 })] } : State).commitFull 0 = true ∧ (ended {} {}).startsBlocked 0 = false ∧ ((ended {} {}).thrOf 0).closeAs = none ∧ (∀ r w o, regionOf 0x10000000140 ≠ .control r w o) :=
  ⟨by decide, by decide, by decide, by decide, by decide, by decide, by decide, by decide, by decide, by decide, by decide, (fun r w o h => by rw [show regionOf 0x10000000140 = .rowStore 0 320 from by decide] at h; cases h)⟩
theorem test_commit_sends_store : after .chunkCommit (ended { stores := [⟨64, bytesOf 8 9, false, false⟩] } {}) (fun t => (t.cluOf 0).outq.map (fun e => (e.pa, e.bytes)) == [(64, bytesOf 8 9)] && (t.cluOf 0).nextSlot == 1) = true := by decide
theorem test_conflict_replays : after .chunkCommit (ended { rsig := 1, pc := 0x100 } { nextSlot := 1, sigs := [(0, 1)] }) (fun t => (t.ctlOf 0).pc == 0x100 && (t.thrOf 0).chunk.limit == 32) = true := by decide
theorem witness_CommitGrants : (({ row [] with clu := [(0, { grantq := [7, 8] })] } : State).cluOf 0).grant = none ∧ (({ row [] with clu := [(0, { grantq := [7, 8] })] } : State).cluOf 0).grantq = 7 :: [8] := by decide
theorem test_commit_grant : after .commitGrant { row [] with clu := [(0, { grantq := [7, 8] })] } (fun t => (t.cluOf 0).grant == some 7) = true := by decide
/-- An outbound queue with two stores to one line. -/
def outbound : State := { row [] with clu := [(0, { outq := [⟨64, bytesOf 8 9, 0, 0, true, none, none, none⟩, ⟨72, bytesOf 8 7, 0, 1, true, none, none, none⟩] })] }
theorem witness_OutboundDrains : (outbound.cluOf 0).outq[0]? = some ⟨64, bytesOf 8 9, 0, 0, true, none, none, none⟩ ∧ (∃ o, (outbound.cluOf 0).outq[0]? = some o ∧ o.pa / 64 = 72 / 64) ∧ outbound.viaReady none = true := ⟨rfl, ⟨_, rfl, by decide⟩, by decide⟩
/-- A 16-byte store beside one of the same cell through the other view; its second word alone applied. -/
def twoViews : State := { row [] with clu := [(0, { outq := [⟨64, bytesOf 16 (9 + 7 * 2 ^ 64), 0, 0, true, none, none, none⟩] }), (1, { locks := [⟨0, 4095, true, 5, false, []⟩] })], sel := { flag := true, idx := 1 } }
theorem witness_OutboundDrains_words : twoViews.wordWise 0 ⟨64, bytesOf 16 (9 + 7 * 2 ^ 64), 0, 0, true, none, none, none⟩ = true ∧ outbound.wordWise 0 ⟨64, bytesOf 8 9, 0, 0, true, none, none, none⟩ = false ∧ outbound.heldBack (hubOf 0) (destOf 64) 0 = false ∧ (64 : Nat) % 8 = 0 ∧ 8 * 1 + 8 ≤ (bytesOf 16 0).length := by decide
theorem test_drain_one_word : after .outboundDrain twoViews (fun t => mread t.mem 72 8 == 7 && mread t.mem 64 8 == 0 && (t.cluOf 0).outq.map (fun e => (e.pa, e.bytes)) == [(64, bytesOf 8 9)]) = true := by decide
theorem test_drain_in_line_order : after .outboundDrain outbound (fun t => mread t.mem 64 8 == 9 && (t.cluOf 0).outq.length == 1) = true ∧ after .outboundDrain (about 0 1 outbound) (fun t => (t.cluOf 0).outq.length == 2) = true := by decide
/-- A pending load of HBM. -/
def loading : State := { row [] with mem := mwrite [] 64 [0x80], thr := [(0, { loads := [⟨0, 64, 1, true, some 6, some 2, none, [], false, false, false, none⟩] })] }
theorem witness_LoadPerforms : (loading.thrOf 0).loads[0]? = some ⟨0, 64, 1, true, some 6, some 2, none, [], false, false, false, none⟩ ∧ regionOf 64 = .hbm ∧ (loading.cluOf 0).outq = [] := ⟨rfl, by decide, rfl⟩
theorem test_load_performed : after .loadPerform loading (fun t => t.greg 0 6 == 2 ^ 64 - 128 && t.greg 0 29 == 2 ^ 64 - 128 && (t.thrOf 0).loads == []) = true := by decide
/-- The promise of an issued `SKSUM` whose destination header at 0x40 gives 2 groups of counters: 32 of 32 bits in one row. -/
def promising : State := { row [] with mem := mwrite [] 64 (bytesOf 64 (spec [7, 2 ^ 24 + 5 * 256 + 1, 0, 0x2000, 0, 0, 0, 0]).toNat), thr := [(0, { loads := [⟨0, 64, 64, false, some 6, some 1, none, [], false, false, false, some (false, 3, 10)⟩] })] }
theorem witness_LoadPerforms_promise : (promising.thrOf 0).loads[0]? = some ⟨0, 64, 64, false, some 6, some 1, none, [], false, false, false, some (false, 3, 10)⟩ ∧ sketchValid (BitVec.ofNat 512 (mread promising.mem 64 64)) = true := ⟨rfl, by decide⟩
theorem test_promise_bound : after .loadPerform promising (fun t => t.greg 0 6 == 3 * 2 ^ 56 + 14) = true := by decide
theorem witness_AtomicResults : (32 = 32 ∨ 32 = 64) ∧ (64 = 32 ∨ 64 = 64) := by decide

/-! ### Witnesses: queues, packets, barriers, mailboxes -/

def fullQ : CState := { queues := [(2, { items := List.replicate 8 ⟨5, none⟩ })] }
theorem w_inCore (cs : CState) (l : List (Nat × Nat)) : InThread (inCore cs l) ∧ MayBeAlone (inCore cs l) := ⟨⟨rfl, rfl⟩, ⟨rfl, rfl, .inr ⟨rfl, .inl rfl⟩⟩⟩
theorem witness_CoreQueues : (row [(6, 9)]).src 6 = .ok (9, row [(6, 9)]) ∧ (row []).qref 0 2 = some (.core 0 2) ∧ queueWay 0 2 true = true ∧ queueWay 0 2 false = true ∧ (row []).canPush (.core 0 2) = true ∧ (inCore fullQ []).canPush (.core 0 2) = false ∧
    (row []).releaseReady 0 ((row []).releaseNow true) = true ∧ ((inCore fullQ []).queueOf (.core 0 2)).items = [] ++ [{ value := 5, resv := none }] ++ ((inCore fullQ []).queueOf (.core 0 2)).items.drop 1 ∧ ((row []).qref 0 11 = none ∨ queueWay 0 11 true = false) :=
  ⟨rfl, by decide, by decide, by decide, by decide, by decide, by decide, by decide, by decide⟩
theorem w_nobodyWaits (l : List (Nat × Nat)) : NobodyWaits (row l) := by intro e he; simp [row] at he; subst he; decide
theorem test_qpush : after (.qpush 6 2) (row [(6, 9)]) (fun t => valuesOf t (.core 0 2) == [9]) = true ∧ after (.qpush 6 2) (inCore fullQ [(6, 9)]) (fun t => (t.ctlOf 0).state == .blocked && (t.ctlOf 0).wait == 1 && (t.ctlOf 0).wake == 0x12) = true := by decide
theorem test_qpop : after (.qpop 6 2) (inCore fullQ []) (fun t => t.greg 0 6 == 5 && (valuesOf t (.core 0 2)).length == 7) = true ∧ after (.qpop 6 2) (row []) (fun t => (t.ctlOf 0).wake == 2) = true := by decide
theorem test_qcnt : after (.qcntHeld 6 2) (inCore fullQ []) (fun t => t.greg 0 6 == 8) = true ∧ after (.qcntFree 6 8) (row []) (fun t => t.greg 0 6 == 16) = true := by decide

/-- Row 0 in an open packet of some flits. -/
def packed (n : Nat) : State :=
  { row [(5, 1)] with ctl := [(0, { state := .opened, p := true })], thr := [(0, { packet := some { buf := 0, bundles := 0 } })], oct := [(0, { hub := [(0, some { rid := 0, dest := 1, hdr := 7, flits := List.replicate n 0 })] })] }
theorem witness_SendHeader : (row [(5, 1)]).src 5 = .ok (1, row [(5, 1)]) ∧ ((packed 0).ctlOf 0).p = true ∧ (packed 0).src 5 = .ok (1, packed 0) ∧ (row []).destOk 1 = true ∧ (row []).destOk (6144 * 2048) = false ∧ MayBeAlone (row [(5, 1)]) ∧
    (row []).mayTake 0 (fun r => !isBase r && hubOf r == 0) 0x1A (16 - ((row []).octOf 0).hub.length) = true ∧ (∀ e ∈ ((packed 0).octOf 0).hub, e.1 ≠ 1) ∧ (∀ j, j < 1 → ∃ e ∈ ((packed 0).octOf 0).hub, e.1 = j) :=
  ⟨rfl, by decide, rfl, by decide, by decide, w_mayBeAlone _, by decide, by decide, by decide⟩
theorem test_send_header : after (.sendH 5 6) (row [(5, 1), (6, 7)]) (fun t => tget none (t.octOf 0).hub 0 == some { rid := 0, dest := 1, hdr := 7 } && (t.ctlOf 0).p) = true := by decide
theorem witness_SendFlits : ((packed 7).thrOf 0).packet = some { buf := 0, bundles := 0 } ∧ (∃ x, tget none ((packed 7).octOf 0).hub 0 = some x ∧ x.flits.length ≠ 8) ∧ (∃ x, tget none ((packed 8).octOf 0).hub 0 = some x ∧ x.flits.length = 8) ∧ ∃ v, (packed 7).seg 3 = .ok v :=
  ⟨by decide, ⟨_, rfl, by decide⟩, ⟨_, rfl, by decide⟩, _, rfl⟩
theorem test_send_eighth_flit : after (.sendPe 3) (packed 7) (fun t => !(t.ctlOf 0).p && (t.thrOf 0).chunk.deferred == [.release]) = true ∧ after (.sendP 3) (packed 8) (fun t => (t.thrOf 0).trapCause == some .packet) = true := by decide
/-- Core 0 with a packet for row 0 of a sender. -/
def received : State := inCore { rxq := [{ row := 0, remote := false, pkg := 0, core := 3, srow := 4, hdr := 7, flits := [0xAB] }] } [(5, 2 ^ 63), (6, 1), (7, 2 ^ 56 - 1), (8, 5)]
theorem witness_Receive : received.src 5 = .ok (BitVec.ofNat 64 (2 ^ 63), received) ∧ nameReserved (BitVec.ofNat 64 (2 ^ 63)).toNat = false ∧ (BitVec.ofNat 64 (2 ^ 63) : W).getLsbD 63 = true ∧ 9 + 1 ≤ 11 ∧ received.dstOpen 6 = true ∧
    ((row []).cs 0).rxq = [] ∧ (0 + 2 ^ 56 - (2 ^ 56 - 1) % 2 ^ 56) % 2 ^ 56 < 2 ^ 55 ∧ 2 ^ 55 ≤ (0 + 2 ^ 56 - 1 % 2 ^ 56) % 2 ^ 56 ∧ InThread received ∧ MayBeAlone received :=
  ⟨rfl, by decide, by decide, by decide, by decide, by decide, by decide, by decide, w_inCore _ _⟩
theorem test_recv : after (.recv 6 5 10) received (fun t => t.greg 0 6 == 2 ^ 59 + 3 * 2 ^ 45 + 4 * 2 ^ 34 + 7 && t.rowGet 0 (320 + 640) 64 == 0xAB && (t.cs 0).rxq == []) = true := by decide
theorem test_recv_waits : after (.recv 6 8 0) received (fun t => (t.ctlOf 0).state == .blocked && (t.ctlOf 0).wait == 2) = true := by decide
/-- An armed barrier of three arrivals, two counted. -/
def armed (n : BitVec 19) : State := { row [(5, 3), (6, 16)] with clu := [(0, { bars := [(3, { arm := true, expect := 3, count := n })] })] }
theorem witness_Barriers : (armed 2).src 5 = .ok (3, armed 2) ∧ (armed 2).src 6 = .ok (16, armed 2) ∧ ((armed 2).barOf 0 (barIndex 0 3)).arm = true ∧ (armed 2).releaseReady 0 ((armed 2).releaseNow true) = true ∧ (armed 2).quiet = true ∧ MayBeAlone (armed 2) ∧ (∀ o, ((armed 2).octOf o).hub = []) ∧
    ((armed 2).barOf 0 3).count + 1 = ((armed 2).barOf 0 3).expect ∧ ((armed 1).barOf 0 3).count + 1 ≠ ((armed 1).barOf 0 3).expect ∧ ((row []).barOf 0 3).arm = false :=
  ⟨rfl, rfl, by decide, by decide, by decide, ⟨rfl, rfl, .inr ⟨rfl, .inl rfl⟩⟩, fun o => rfl, by decide, by decide, by decide⟩
theorem test_barrier_completes : after (.bar 5) (armed 2) (fun t => t.barOf 0 3 == { arm := true, expect := 3, phase := 1 } && (t.ctlOf 0).pc == 0x204) = true ∧ after (.ssync 5) (armed 1) (fun t => (t.ctlOf 0).wait == 7 && (t.ctlOf 0).wake == 19) = true := by decide
/-- A message of row 0 in a slot, or a slot that waits for one. -/
def mailed (m : Option W) : State := inCore { mbox := [(4, { owner := some 0, msg := m })] } [(5, 4 * 2 ^ 56 + 9), (6, 5 * 2 ^ 56), (7, 4 * 2 ^ 56)]
theorem witness_Mailbox : ((4, ({ owner := some 0, msg := some 0x400 } : MSlot)) ∈ ((mailed (some 0x400)).cs 0).mbox) ∧ (AtCommit.mbx 4 ∉ ((mailed (some 0x400)).thrOf 0).chunk.deferred) ∧ (mailed none).src 5 = .ok (BitVec.ofNat 64 (4 * 2 ^ 56 + 9), mailed none) ∧
    ((mailed none).cs 0).mbox.find? (fun e => e.1 == 4 && e.2.owner == some 0 && !e.2.kept) = some (4, { owner := some 0 }) ∧ reached 0 9 = false ∧ reached 0 0 = true ∧ ((mailed none).cs 0).mbox.find? (fun e => e.1 == 5 && e.2.owner == some 0 && !e.2.kept) = none :=
  ⟨by decide, by decide, rfl, by decide, by decide, by decide, by decide⟩
theorem test_mbxpop : after (.mbxpop 6) (mailed (some 0x400)) (fun t => t.greg 0 6 == 0x400) = true ∧ after (.mbxpop 6) (mailed none) (fun t => t.greg 0 6 == 0xFF00000000000000) = true := by decide
theorem test_sleepuntil : after (.sleepuntil 5) (mailed none) (fun t => (t.ctlOf 0).state == .sleeping && t.rowGet 0 0 7 == 9) = true ∧ after (.sleepuntil 7) (mailed none) (fun t => (t.thrOf 0).trapCause == some .promise) = true := by decide
/-- A released packet for row 5 of core 0. -/
def releasing : State := { row [] with ctl := [(0, { state := .opened }), (5, { state := .ready })], oct := [(0, { hub := [(2, some { rid := 0, dest := 5, hdr := 7, released := true })] })], sel := { unit := 0, sub := 2 } }
/-- Row 0 in a packet that has been open for 64 bundles, and asleep with its deadline reached. -/
def timedOut : State := { row [] with ctl := [(0, { state := .opened, p := true })], thr := [(0, { packet := some { buf := 0, bundles := 64 } })] }
def asleep (c : Nat) : State := { row [(0, 9)] with cycle := c, ctl := [(0, { state := .sleeping, wait := 12 })] }
theorem witness_MessageSteps : (∃ b : SendBuf, tget none (releasing.octOf 0).hub 2 = some b ∧ b.released = true ∧ b.dest = num (0 * 2048 + 5) ∧ releasing.viaReady b.via = true) ∧ (releasing.ctlOf (ridOf 0 5)).state = .ready ∧
    timedOut.running 0 = true ∧ 64 ≤ 64 ∧ (timedOut.ctlOf 0).pc.toNat % 8 = 0 ∧ timedOut.teamHandler 0 = none ∧ (asleep 9).waits 0 12 = true ∧ reached 9 ((asleep 9).rowGet 0 0 7) = true ∧ reached 8 ((asleep 8).rowGet 0 0 7) = false :=
  ⟨⟨_, rfl, by decide, by decide, by decide⟩, by decide, by decide, by decide, by decide, by decide, by decide, by decide, by decide⟩
theorem test_packet_entry : after .packetEntry releasing (fun t => (t.cs 0).rxq.map (fun p => (p.row, p.hdr)) == [(5, 7)] && (t.octOf 0).hub == []) = true := by decide
theorem test_deadline_wake : after .deadlineWake (asleep 9) (fun t => (t.ctlOf 0).state == .ready) = true ∧ after .deadlineWake (asleep 8) (fun t => (t.ctlOf 0).state == .sleeping) = true := by decide

/-! ### Witnesses: vector words -/

/-- Row 0 with segments. -/
def segs (l : List (Nat × Nat)) (r : List (Nat × Nat)) : State := { row r with mem := l.foldl (fun m e => mwrite m (rowAddr 0 + 320 + 64 * e.1) (bytesOf 64 e.2)) (regs 0 r) }
theorem witness_VectorLanes : RoomForVector (segs [(1, 5), (2, 7)] []) ∧ ∃ x z w, (segs [(1, 5), (2, 7)] []).seg 1 = .ok x ∧ (segs [(1, 5), (2, 7)] []).seg 2 = .ok z ∧ (segs [(1, 5), (2, 7)] []).seg 3 = .ok w := ⟨.inr (by decide), _, _, _, rfl, rfl, rfl⟩
theorem test_vadd_i8_wraps : after (.vadd 3 1 2 5) (segs [(1, 0xFF80), (2, 0x0181)] []) (fun t => t.rowGet 0 (320 + 192) 64 == 0x0001) = true := by decide
theorem test_vfma_i32 : after (.vfma 3 1 2 3) (segs [(1, 5), (2, 2 ^ 32 - 1), (3, 7)] []) (fun t => t.rowGet 0 (320 + 192) 4 == 2) = true := by decide
theorem test_vsar_i16 : after (.vsar 3 1 2 4) (segs [(1, 0x8000), (2, 17)] []) (fun t => t.rowGet 0 (320 + 192) 2 == 0xC000) = true := by decide
theorem witness_VectorIntegerLanes : (3 : BitVec 3).toNat ≥ 3 ∧ laneBits 5 = 8 ∧ 255 < 2 ^ laneBits 5 ∧ (List.replicate 64 255).length = laneCount 5 ∧ (∀ v ∈ List.replicate 16 (2 ^ 32 - 1), v < 2 ^ laneBits 3) := by decide
theorem witness_VectorToScalar : RoomForVector (segs [(1, 5)] []) ∧ (segs [(1, 5)] []).dstOpen 6 = true ∧ ∃ x, (segs [(1, 5)] []).seg 1 = .ok x := ⟨.inr (by decide), by decide, _, rfl⟩
theorem test_vcmp_mask : after (.vcmpLt 6 1 2 5) (segs [(1, 0x0180), (2, 0x0100)] []) (fun t => t.greg 0 6 == 1) = true := by decide
theorem test_vred_sum_i8 : after (.vredSum 6 1 5) (segs [(1, 0xFFFF)] []) (fun t => t.greg 0 6 == 2 ^ 64 - 2) = true := by decide
theorem test_vdot_f32 : after (.vdot 6 1 1 0) (segs [(1, 0x40000000_40400000)] []) (fun t => t.greg 0 6 == 0x41500000) = true := by decide
theorem witness_VectorMoves : RoomForVector (segs [(1, 5), (2, 7)] [(5, 1)]) ∧ (segs [(1, 5), (2, 7)] [(5, 1)]).src 5 = .ok (1, segs [(1, 5), (2, 7)] [(5, 1)]) ∧ ∃ x z w, (segs [(1, 5), (2, 7)] [(5, 1)]).seg 1 = .ok x ∧ (segs [(1, 5), (2, 7)] [(5, 1)]).seg 2 = .ok z ∧ (segs [(1, 5), (2, 7)] [(5, 1)]).seg 3 = .ok w :=
  ⟨.inr (by decide), rfl, _, _, _, rfl, rfl, rfl⟩
theorem test_vsel : after (.vsel 3 1 2 5 5) (segs [(1, 0x1111), (2, 0x2222)] [(5, 2)]) (fun t => t.rowGet 0 (320 + 192) 2 == 0x1122) = true := by decide
theorem test_vperm : after (.vperm 3 1 2 5) (segs [(1, 0xBBAA), (2, 0x4081), (3, 0xCC)] []) (fun t => t.rowGet 0 (320 + 192) 2 == 0xCCBB) = true := by decide
theorem witness_VectorConversions : RoomForVector (segs [(1, 5), (2, 7)] []) ∧ laneCount 0 < laneCount 1 ∧ (1 + 1) * laneCount 0 ≤ laneCount 1 ∧ laneCount 1 = laneCount 2 ∧ (3 : BitVec 4) ≠ 4 ∧ 8 * 63 + 8 ≤ 512 ∧ ∃ x, (segs [(1, 5), (2, 7)] []).seg 2 = .ok x := ⟨.inr (by decide), by decide, by decide, by decide, by decide, by decide, _, rfl⟩
/-- 11_formats.md R202: the first two lanes of 1 + 2⁻⁸ narrowed to BF16 with feedback. -/
theorem test_vcvt_feedback : after (.vcvt 3 1 0 0 1 1 0 0) (segs [(1, 0x3F808000_3F808000)] []) (fun t => t.rowGet 0 (320 + 192) 4 == 0x3F81_3F80) = true := by decide
theorem test_vcvt_widens_part : after (.vcvt 3 1 0 1 0 0 0 1) (segs [(1, 0x4000 * 2 ^ 256)] []) (fun t => t.rowGet 0 (320 + 192) 4 == 0x40000000) = true := by decide
/-- A vector operation at the head of core 0's queue, issued in an earlier cycle. -/
def vqueued : State := { row [] with cycle := 5, core := [(0, { vq := [{ id := 0, rid := 0, writes := [3], reads := [1], landing := 3, occupancy := 1, issued := 4 }] })] }
theorem witness_VectorUnit : (vqueued.coreOf 0).vq = [{ id := 0, rid := 0, writes := [3], reads := [1], landing := 3, occupancy := 1, issued := 4 }] ∧ (vqueued.cs 0).vshare ≠ 0 ∧ (vqueued.quadOf 0).groups.getD 0 0 ≤ vqueued.cycle ∧ (∀ c', c' / 4 = 0 → c' ≠ 0 → (vqueued.coreOf c').vq = []) :=
  ⟨by decide, by decide, by decide, (by
    intro c h h0
    have hc : c = 1 ∨ c = 2 ∨ c = 3 := by omega
    rcases hc with rfl | rfl | rfl <;> decide)⟩
theorem test_vector_bind : after .vectorBind vqueued (fun t => (t.coreOf 0).vpass == 256 && (t.quadOf 0).groups == [6, 0, 0, 0]) = true := by decide

/-! ### Witnesses: rows, registers -/

/-- Row 5 of core 0 in a state, named by a device step that brings a control word 0. -/
def stored (st : RowState) (v : Nat) : State := { row [] with ctl := [(0, { state := .opened }), (5, { state := st, pc := 0x100 })], sel := { unit := 0, sub := 5, data := BitVec.ofNat 64 v } }
theorem w_free : (stored .null 0).ctlFree 5 = true := by decide
theorem w_storeReaches (st : RowState) (v : Nat) : StoreReaches (stored st v) := { core := by simp [stored, row], row := by simp [stored, row], free := rfl, good := rfl, entry := w_free }
theorem witness_ControlStores : ((stored .null (2 ^ 60)).ctlOf (stepRow (stored .null (2 ^ 60)))).state = .null ∧ storedState (stored .null (2 ^ 60)) = 1 ∧ ((stored .dormant (2 * 2 ^ 60)).ctlOf (stepRow (stored .dormant (2 * 2 ^ 60)))).state = .dormant ∧
    storedState (stored .dormant (2 * 2 ^ 60)) = 2 ∧ ((stored .sleeping (2 ^ 60)).ctlOf 5).state = .sleeping ∧ ((stored .faulted 0).ctlOf 5).state = .faulted ∧ storedState (stored .faulted 0) = 0 ∧ ((stored .held 0).ctlOf 5).state = .held ∧ ((stored .exited 0).ctlOf 5).state = .exited ∧
    storedState (stored .null (15 * 2 ^ 60)) = 15 := by decide
theorem test_ctl_make_thread : after .ctlMakeThread (stored .null (2 ^ 60 + 3 * 2 ^ 54 + 7 * 2 ^ 36 + 9)) (fun t => t.ctlOf 5 == { state := .dormant, pri := 3, team := 7, pc := 0x100 }) = true := by decide
theorem test_ctl_make_data_unbinds : after .ctlMakeData { stored .dormant 9 with mem := mwrite [] (rowAddr 5 + 263) [0x80] } (fun t => t.ctlOf 5 == { wake := 9, pc := 0x100 } && mget t.mem (rowAddr 5 + 263) == 0) = true := by decide
theorem test_ctl_redirect_wakes : after .ctlRedirect { stored .blocked 0x300 with ctl := [(5, { state := .blocked, wait := 2, wake := 9 })] } (fun t => t.ctlOf 5 == { state := .ready, pc := 0x300 }) = true := by decide
/-- Row 0, running and at rest, with what waits for it, its turn and its stop. -/
def resting (d : List Deferred) (turn : Nat) (stop : Option StopWhy) (extra : List (Nat × Ctl)) : State :=
  { row [] with ctl := (0, { state := .opened, pc := 0x200 }) :: extra, thr := [(0, { deferred := d, turn := turn, stop := stop })] }
theorem w_atRest (d : List Deferred) (turn : Nat) (stop : Option StopWhy) (extra : List (Nat × Ctl)) : AtRest (resting d turn stop extra) 0 :=
  { thread := rfl, running := rfl, chunk := rfl, whole := rfl, done := rfl, close := rfl, loads := rfl, vector := rfl }
theorem witness_BoundaryAccesses : AtRest (resting [.control 0 0 (2 ^ 60)] 0 none []) (stepRow (resting [.control 0 0 (2 ^ 60)] 0 none [])) ∧ ((resting [.control 0 0 (2 ^ 60)] 0 none []).thrOf 0).deferred = [.control 0 0 (2 ^ 60)] ∧
    ((resting [.control 0 0 (2 ^ 60)] 0 none []).ctlOf 0).p = false ∧ (resting [] 0 none []).ctlBad 0 = none ∧ ((resting [.store (rowAddr 0 + 1023) [7]] 0 none []).thrOf 0).deferred = [.store (rowAddr 0 + 1023) [7]] ∧ 1023 + [7].length ≤ 1024 := ⟨w_atRest _ _ _ _, by decide, by decide, by decide, by decide, by decide⟩
theorem test_control_request_closes : after .controlRequest (resting [.control 0 0 (2 ^ 60)] 7 none []) (fun t => (t.ctlOf 0).state == .dormant && (t.thrOf 0).deferred == []) = true := by decide
theorem test_outside_access_lands : after .outsideAccess (resting [.store (rowAddr 0 + 320) [7]] 0 none []) (fun t => mget t.mem (rowAddr 0 + 320) == 7 && (t.ctlOf 0).state == .opened) = true := by decide
/-- Core 0 with READY rows 3 (priority 1) and 4 (priority 2) and no row OPEN. -/
def waiting : State := { row [] with core := [], ctl := [(3, { state := .ready, pri := 1 }), (4, { state := .ready, pri := 2 })], thr := [(3, { effPri := 1 }), (4, { effPri := 2 })] }
def opening (p : PortPhase) (b : Nat) : State := { row [] with core := [(0, { ports := [(0, some { row := 0, phase := p, busy := b })] })] }
theorem witness_RowOpens : waiting.pkg.ready0.getLsbD 0 = true ∧ (waiting.cluOf 0).holder = (waiting.octOf 0).tag.toNat ∧ (waiting.quadOf 0).power = .running ∧ (waiting.openPorts 0).length < (waiting.cs 0).openlim.toNat ∧ waiting.freePort 0 = some 0 ∧ waiting.nextRow 0 = some 4 ∧
    tget none ((opening .opening 0).coreOf 0).ports 0 = some { row := 0, phase := .opening, busy := 0 } ∧ (State.reset.pkg.ready0.getLsbD 0 = false) ∧ (waiting.thrOf 4).effPri < 3 ∧
    (waiting.thrOf 4).riseAt + 16 * (waiting.cs 0).turnlen.toNat ≤ ({ waiting with cycle := 4096 } : State).cycle := by decide
theorem test_row_open : after .rowOpen waiting (fun t => (t.ctlOf 4).state == .opened && tget none (t.coreOf 0).ports 0 == some { row := 4, phase := .opening, busy := 4 }) = true := by decide
theorem test_priority_rise : after .priorityRise { waiting with cycle := 4096, sel := { sub := 4 } } (fun t => (t.thrOf 4).effPri == 3) = true ∧ after .priorityRise { waiting with cycle := 4095, sel := { sub := 4 } } (fun t => (t.thrOf 4).effPri == 2) = true := by decide
theorem witness_RowCloses : AtRest (resting [] 256 none [(1, { state := .ready })]) (ridOf 0 0) ∧ (∃ e ∈ (resting [] 256 none [(1, { state := .ready })]).ctl, e.2.state = .ready ∧ coreOfRid e.1 = 0 ∧ ((resting [] 256 none []).ctlOf 0).pri.toNat ≤ ((resting [] 256 none []).thrOf e.1).effPri) ∧
    ((resting [] 256 none []).cs 0).turnlen.toNat ≤ ((resting [] 256 none []).thrOf 0).turn ∧ tget none ((opening .writeback 2).coreOf 0).ports 0 = some { row := 0, phase := .writeback, busy := 2 } ∧
    (({ resting [] 0 none [] with core := [(0, { cs := { openlim := 0 }, ports := [(0, some { row := 0, phase := .running, busy := 0 })] })] } : State).longestTurn 0 = some 0) ∧ ((resting [] 0 (some .preempt) []).thrOf 0).stop = some .preempt :=
  ⟨w_atRest _ _ _ _, ⟨(1, { state := .ready }), by decide, by decide⟩, by decide, by decide, by decide, by decide⟩
theorem test_turn_end : after .turnEnd (resting [] 256 none [(1, { state := .ready })]) (fun t => (t.ctlOf 0).state == .ready && (t.thrOf 0).turn == 0) = true ∧ after .turnEnd (resting [] 255 none [(1, { state := .ready })]) (fun t => (t.ctlOf 0).state == .opened) = true := by decide
theorem test_row_hold : after .rowHold (resting [] 0 (some .preempt) []) (fun t => (t.ctlOf 0).state == .held && (t.thrOf 0).saved == .ready) = true := by decide

/-! ### Witnesses: mapped registers, faults without a word, stalemates -/

/-- A store of a value to an address. -/
def storing (pa : Nat) (v : Nat) : State := { row [] with sel := { unit := pa, data := BitVec.ofNat 64 v } }
theorem witness_ServiceRegisters : (storing (serviceAt 0xA0) 999).sel.unit = serviceAt 0xA0 ∧ ∃ e ∈ packageTable ++ tenantTable 63, e.1 = 0xA0 ∧ e.2.1 999 = false ∧ e.2.1 1000 = true :=
  ⟨rfl, (0xA0, fun v => decide (1000 ≤ v.toNat % 65536), fun v => field v 15 0), by simp [packageTable], rfl, by decide, by decide⟩
theorem test_pwrcap_range : after .registerWrite (storing (serviceAt 0xA0) 999) (fun t => t.pkg.pwrcap == 5500) = true ∧ after .registerWrite (storing (serviceAt 0xA0) 1000) (fun t => t.pkg.pwrcap == 1000) = true := by decide
theorem test_fnmode_bit_3 : after .registerWrite (storing (serviceAt 0x40) 0) (fun t => t.pkg.fnmode == 8) = true := by decide
theorem test_gangmask_range : after .registerWrite (storing (serviceAt (0x5018 + 64 * 63)) (2 ^ 63 + 2 * 2 ^ 48 + 3 * 2 ^ 40)) (fun t => (t.tenOf 63).gangmask == 0) = true := by decide
theorem witness_RegisterSteps : (0 < 6144 ∧ 1 ≤ 16 % 32 ∧ 16 % 32 ≤ 16) ∧ ¬ (1 ≤ 17 % 32 ∧ 17 % 32 ≤ 16) ∧ (2 ^ 16 + 2046) % 2048 + (2 ^ 16 + 2046) / 2 ^ 16 % 64 ≤ 2047 ∧ ¬ (2 ^ 16 + 2047) % 2048 + (2 ^ 16 + 2047) / 2 ^ 16 % 64 ≤ 2047 ∧ 32 < 33 % 64 := by decide
theorem test_hpool_edge : after .hpoolWrite (storing 0 (2 ^ 16 + 2046)) (fun t => (t.cs 0).hpoolBase == 2046) = true ∧ after .hpoolWrite (storing 0 (2 ^ 16 + 2047)) (fun t => (t.cs 0).hpoolBase == 1984) = true := by decide
theorem test_tenmin_admission : after .tenminWrite (storing 5 1) (fun t => (t.tenOf 5).admission == 1 && t.pkg.admitNext == 2) = true ∧ after .tenminWrite (storing 5 33) (fun t => (t.tenOf 5).tenmin == 0) = true := by decide
theorem test_route_of_own_stack : after .routeWrite (storing 0 (1 * 256 + 2)) (fun t => t.routeOf 0 == (2, 1)) = true ∧ after .routeWrite (storing 0 (4 * 256 + 2)) (fun t => t.routeOf 0 == (0, 1)) = true := by decide
theorem witness_UndecodableTraps : (row []).cur.ended = .running ∧ (row []).running (row []).me = true ∧ (row []).quiet = true ∧ (row []).teamHandler 0 = none ∧ ((row []).coreOf 0).qbufs = [] ∧ State.reset.running State.reset.me = false := by decide
theorem test_fetch_fault : after .fetchFault (storing 0x1234 0) (fun t => (t.thrOf 0).trapCause == some .access && (t.thrOf 0).trapG3 == 0x1234 && (t.thrOf 0).fetchTrap) = true := by decide
/-- A tenant's fault queue with an entry on its way, and an uncorrectable word in a row of cluster 0. -/
def faulting : State := { row [] with ten := [(0, { fqbase := 0x1004, fqtail := 17, fqWay := [{ dwords := [1, 2, 3, 4] }] })], uncorr := [0x10000000140], sel := { sub := 0x10000000143 } }
theorem witness_FaultQueueAndScrub : (faulting.tenOf 0).fqWay = { dwords := [1, 2, 3, 4] } :: [] ∧ 0x10000000143 / 8 * 8 ∈ faulting.uncorr ∧ clusterHome 0x10000000140 = some 0 ∧ (row []).uncorr = [] := by decide
theorem test_fqtail_advance : after .fqtailAdvance faulting (fun t => t.peek (0x1000 + 32) 8 == 1 && t.peek (0x1000 + 56) 8 == 4 && (t.tenOf 0).fqtail == 18) = true := by decide
theorem test_ecc_scrub : after .eccScrub faulting (fun t => (t.cluOf 0).ecclog == BitVec.ofNat 64 (2 ^ 63 + 0x10000000140)) = true := by decide
/-- Rows 3 and 4 of core 0, which wait for packets of each other. -/
def locked : State :=
  { row [] with cycle := 65536, ctl := [(3, { state := .blocked, wait := 2 }), (4, { state := .blocked, wait := 2 })], thr := [(3, { waitArg := 4 }), (4, { waitArg := 3 })] }
theorem witness_Stalemate : WaitsOn locked (locked.cycle - 65536) 3 4 ∧ WaitsOn locked (locked.cycle - 65536) 4 3 ∧ locked.cycle % 65536 = 0 ∧ (locked.cluOf 0).staleAt ≠ some locked.cycle ∧ locked.pkg.fnmode.getLsbD 4 = false ∧ (∀ o ∈ locked.oct, o.2.hub = []) ∧
    (∀ r, locked.teamHandler r = none ∧ (locked.thrOf r).nest = none ∧ (locked.thrOf r).serves = none) :=
  ⟨⟨rfl, rfl, by decide, by decide, rfl, rfl, by decide⟩, ⟨rfl, rfl, by decide, by decide, rfl, rfl, by decide⟩, by decide, by decide, by decide, by decide, fun r => by
    refine ⟨rfl, ?_, ?_⟩ <;> (unfold State.thrOf; simp only [locked, tget]; split <;> [rfl; (split <;> rfl)])⟩
theorem test_stalemate : after .stalemateInterval locked (fun t => (t.ctlOf 3).state == .faulted && (t.thrOf 3).trapG3 == 4 && (t.thrOf 4).trapG3 == 3) = true := by decide

/-! ### Witnesses: translation and paging -/

/-- A memory of dwords. -/
def dwords (l : List (Nat × Nat)) : Mem := l.foldl (fun m e => mwrite m e.1 (bytesOf 8 e.2)) []
/-- The tables of tenant 0 for the page of 0x12345678, whose leaf holds `e`; a free-frame stack at 0x3000 with one frame, 0x66; counts from 0x3800. -/
def tables (e : Nat) : State :=
  { row [] with mem := dwords [(0x2000, 0x4003), (0x4000, 0x6003), (0x6000, 0x8003), (0x8488, 0xA003), (0xA0A0, e), (0x3000, 0x66), (0x3950, 2)],
                core := [], ten := [(0, { s1root := 0x2001, root1 := 0x2001, ffsbase := 0x3000, ffstop := 1, ftbase := 0x3800, ftlen := 256,
                                          bar := [{ what := .matrix 0, cause := .page, va := 0x12345678 }] })], sel := { unit := 0, sub := 0x12345678 } }
/-- The same, with a step at the first entry of the bar, which has a cause. -/
def barred (e : Nat) (c : Cause) : State :=
  let s := tables e
  { s with sel := { unit := 0, sub := 0 }, ten := [(0, { s.tenOf 0 with bar := [{ what := .matrix 0, cause := c, va := 0x12345678 }] })] }
/-- A leaf that names frame 0x55, read, write, execute, PIN. -/
abbrev leafWord : Nat := 0x55003D
theorem w_reads (s : State) (e : Nat) (hr : (s.tenOf 0).root1 = 0x2001) (ht : (s.tenOf 0).root2 = 0)
    (h : s.peek 0x2000 8 = 0x4003 ∧ s.peek 0x4000 8 = 0x6003 ∧ s.peek 0x6000 8 = 0x8003 ∧ s.peek 0x8488 8 = 0xA003 ∧ s.peek 0xA0A0 8 = e) : EntryAt s 0 0x12345678 0 e 0xA0A0 := by
  have i (a : Nat) : IpaAt s 0 a a := by unfold IpaAt; rw [ht]; simp
  refine ⟨by rw [hr]; decide, ?_⟩
  rw [hr]
  exact .next (i _) (by decide) h.1 (by decide) (.next (i _) (by decide) h.2.1 (by decide) (.next (i _) (by decide) h.2.2.1 (by decide) (.next (i _) (by decide) h.2.2.2.1 (by decide) (.here (i _) (by decide) h.2.2.2.2))))
theorem w_mapped (s : State) (e : Nat) (h : EntryAt s 0 0x12345678 0 e 0xA0A0) (ht : (s.tenOf 0).root2 = 0) (hv : LeafEntry false 0 e) : MappedAt s 0 0x12345678 0 e 0xA0A0 := ⟨h, hv, fun x => by rw [ht] at x; exact absurd x (by decide)⟩
/-- Stage-2 tables that map the first GiB onto itself with one leaf, of which `W` is 0. -/
def twoStages : State :=
  let s := tables 0x55003D
  { s with mem := [(0x10000, 0x12003), (0x12000, 0x14003), (0x14000, 0x35)].foldl (fun m e => mwrite m e.1 (bytesOf 8 e.2)) s.mem, ten := [(0, { s.tenOf 0 with s2root := 0x10001, root2 := 0x10001 })] }
theorem w_second (ipa : Nat) (h : ipa / 2 ^ 48 % 512 = 0 ∧ ipa / 2 ^ 39 % 512 = 0 ∧ ipa / 2 ^ 30 % 512 = 0) : WalkReads twoStages Eq ipa 4 0x10000 2 0x35 0x14000 := by
  have i4 : indexOf 4 ipa = 0 := h.1
  have i3 : indexOf (2 + 1) ipa = 0 := h.2.1
  have i2 : indexOf 2 ipa = 0 := h.2.2
  exact .next (l := 3) (e := 0x12003) (a := 0x10000) (by rw [i4]) (by decide) (by decide) (by decide) (.next (e := 0x14003) (a := 0x12000) (by rw [i3]; decide) (by decide) (by decide) (by decide) (.here (a := 0x14000) (by rw [i2]; decide) (by decide) (by decide)))
theorem witness_TranslationWalks : EntryAt (tables leafWord) ((tables leafWord).tenantOf 0) 0x12345678 0 leafWord 0xA0A0 ∧ LeafEntry false 0 leafWord ∧ ((tables leafWord).tenOf 0).root2.toNat % 2 = 0 ∧ (∀ e ∈ ((tables leafWord).coreOf 0).dtlb, ¬ e.tag = 0) ∧ (∀ e ∈ ((tables leafWord).cluOf 0).tlb, ¬ e.tag = 0) ∧
    (∃ e ∈ ((row []).coreOf 0).dtlb, e.tag = (row []).tenantOf 0 ∧ e.va ≤ 0x10020 ∧ 0x10020 < e.va + e.size) ∧ (State.reset.tenOf (State.reset.tenantOf 0)).root1.toNat % 2 = 0 ∧ (State.reset.coreOf 0).dtlb = [] ∧ (State.reset.cluOf 0).tlb = [] ∧
    ({ tables leafWord with clu := [(0, { tlb := pages })] } : State).cluOf 0 = { tlb := [] ++ pages.head! :: pages.tail } ∧ ¬ LeafEntry false 0 0x55003C ∧ ¬ TableEntry 0 0x55003C :=
  ⟨w_reads _ _ rfl rfl (by decide), by decide, by decide, by decide, by decide, ⟨_, .tail _ (.head _), by decide⟩, by decide, by decide, by decide, by decide, by decide, by decide⟩
theorem w_through (a : Nat) (h : a < 2 ^ 30) : IpaAt twoStages 0 a a := by
  unfold IpaAt
  rw [if_neg (by decide)]
  exact ⟨2, 0x35, ⟨0x14000, w_second a (by omega), by decide⟩, by decide, by show a = 0x35 / 2 ^ 16 % 2 ^ 36 * 65536 + a % 2 ^ 30; omega⟩
theorem witness_TranslationWalks_second : EntryAt twoStages 0 0x12345678 0 0x55003D 0xA0A0 ∧ (twoStages.tenOf 0).root2.toNat % 2 = 1 ∧ WalkReads twoStages Eq (frameOf 0x55003D * 65536 + 0x12345678 % 2 ^ shiftOf 0) 4 (rootOf (twoStages.tenOf 0).root2) 2 0x35 0x14000 ∧ LeafEntry true 2 0x35 ∧
    (∀ e ∈ (twoStages.coreOf 0).dtlb, ¬ e.tag = 0) ∧ (∀ e ∈ (twoStages.cluOf 0).tlb, ¬ e.tag = 0) :=
  ⟨⟨by decide, .next (w_through 0x2000 (by decide)) (by decide) (e := 0x4003) (by decide) (by decide) (.next (w_through 0x4000 (by decide)) (by decide) (e := 0x6003) (by decide) (by decide) (.next (w_through 0x6000 (by decide)) (by decide) (e := 0x8003) (by decide) (by decide)
    (.next (w_through 0x8488 (by decide)) (by decide) (e := 0xA003) (by decide) (by decide) (.here (w_through 0xA0A0 (by decide)) (by decide) (by decide)))))⟩, by decide, w_second _ (by decide), by decide, by decide, by decide⟩
theorem test_walk : after .tlbWalk (tables leafWord) (fun t => (t.coreOf 0).dtlb == [⟨0, 0x12340000, 65536, 0x550000, 0, true, true, true, true, false, false, false, 0xA0A0, 0x550000, 0, false, 65536⟩] && (t.cluOf 0).tlb.length == 1) = true := by decide
theorem test_walk_two_stages : after .tlbWalk twoStages (fun t => (t.coreOf 0).dtlb == [⟨0, 0x12340000, 65536, 0x550000, 0, true, false, true, true, false, false, false, 0xA0A0, 0, 2 ^ 30, false, 65536⟩]) = true := by decide
theorem test_walk_invalid : after .tlbWalk (tables 0x55003C) (fun t => (t.coreOf 0).dtlb == []) = true := by decide
/-- The sample core with a store to TLBCMD. -/
def tlbStore (v : Nat) : State := { row [] with sel := { data := BitVec.ofNat 64 v } }
theorem witness_TranslationCommands : (tlbStore 2).sel.data.toNat % 4 ≠ 0 ∧ (tlbStore 0x10000).sel.data.toNat % 4 = 0 ∧ (tlbStore 1).sel.data.toNat % 4 = 1 ∧ (tlbStore 2).sel.data.toNat % 4 = 2 ∧ (tlbStore 3).sel.data.toNat % 4 = 3 ∧
    (tlbStore 0).pkg.tlbcmd.getLsbD 63 = false ∧ ({ tlbStore 0 with pkg := { tlbcmd := BitVec.ofNat 64 (2 ^ 63) } } : State).pkg.tlbcmd.getLsbD 63 = true ∧ (tlbStore 0).pkg.tlbWait = [] := by decide
theorem test_tlbcmd_page : after .tlbcmdPage (tlbStore 0x10000) (fun t => (t.coreOf 0).dtlb.map (·.va) == [0, 0x20000] && t.pkg.tlbcmd == BitVec.ofNat 64 (2 ^ 63 + 0x10000)) = true := by decide
theorem test_tlbcmd_other_tenant : after .tlbcmdTenant (tlbStore (5 * 256 + 1)) (fun t => (t.coreOf 0).dtlb.length == 3) = true ∧ after .tlbcmdAll (tlbStore 3) (fun t => (t.coreOf 0).dtlb == []) = true := by decide
theorem w_atBar (e : Nat) (c : Cause) : AtBar (barred e c) { what := .matrix 0, cause := c, va := 0x12345678 } c := ⟨rfl, rfl, ⟨rfl, rfl, rfl, rfl, rfl⟩, fun _ _ h => absurd h (Nat.not_lt_zero _)⟩
/-- The first entry of the bar served, or refused. -/
def answered (sv rf : Bool) : State := { row [] with ten := [(0, { bar := [{ what := .matrix 0, cause := .page, va := 0, served := sv, refused := rf }] })] }
theorem witness_BarService : AtBar (barred leafWord .page) { what := .matrix 0, cause := .page, va := 0x12345678 } .page ∧ MappedAt (barred leafWord .page) 0 0x12345678 0 leafWord 0xA0A0 ∧ AbsentAt (barred 0x44 .page) 0 0x12345678 ∧ ParkedAt (barred 0x551414 .page) 0 0x12345678 0x551414 0xA0A0 ∧
    ((barred 0x551414 .page).tenOf 0).ffstop.toNat % 2 ^ 24 = 1 ∧ (barred 0x551414 .page).peek 0x3000 8 = 0x66 ∧ FrameAt (barred 0x551414 .page) 0 0x66 0x660000 ∧ (barred 0x551414 .page).inFlight = [] ∧
    AtBar (barred 0x55007D .cow) { what := .matrix 0, cause := .cow, va := 0x12345678 } .cow ∧ MappedAt (barred 0x55007D .cow) 0 0x12345678 0 0x55007D 0xA0A0 ∧ (0x55007D : Nat).testBit 6 = true ∧
    (barred 0x55007D .cow).pkg.fnmode.getLsbD 1 = false ∧ (barred 0x55007D .cow).pkg.migs = [] ∧ 0x55 < ((barred 0x55007D .cow).tenOf 0).ftlen.toNat ∧ (barred 0x55007D .cow).peek 0x3954 4 = 0 :=
  ⟨w_atBar _ _, w_mapped _ _ (w_reads _ _ rfl rfl (by decide)) rfl (by decide), .inr ⟨0, 0x44, 0xA0A0, w_reads _ _ rfl rfl (by decide), by decide, by decide⟩, ⟨w_reads _ _ rfl rfl (by decide), by decide⟩, by decide, by decide, rfl, by decide,
    w_atBar _ _, w_mapped _ _ (w_reads _ _ rfl rfl (by decide)) rfl (by decide), by decide, by decide, rfl, by decide, by decide⟩
theorem witness_BarReentry : ((answered false false).tenOf 0).bar[0]? = some { what := .matrix 0, cause := .page, va := 0, served := false, refused := false } ∧ (answered true false).barUser 0 { what := .matrix 0, cause := .page, va := 0, served := true } = none ∧
    ((answered false true).tenOf 0).bar[0]? = some { what := .matrix 0, cause := .page, va := 0, served := false, refused := true } := ⟨rfl, by decide, rfl⟩
theorem witness_BarService_counts : ({ barred 0x55007D .cow with mem := dwords [(0x3950, 2 ^ 32)] } : State).peek (0x3800 + 4 * 0x55) 4 = 1 ∧ 1 < (barred 0x54007D .cow).peek (0x3800 + 4 * 0x54) 4 ∧ (barred 0x54007D .cow).peek 0x3000 8 = 0x66 ∧ 0x66 * 65536 + 65536 ≤ 0x8000000000 := by decide
theorem test_fault_in : after .faultIn (barred 0x551414 .page) (fun t => t.peek 0xA0A0 8 == 0x660215 && (t.tenOf 0).ffstop == 0 && (t.pkg.migs.map fun m => (m.old, m.new)) == [(0x550000, 0x660000)]) = true := by decide
theorem test_cow_count_one : after .cowService { barred 0x55007D .cow with mem := dwords [(0x2000, 0x4003), (0x4000, 0x6003), (0x6000, 0x8003), (0x8488, 0xA003), (0xA0A0, 0x55007D), (0x3950, 2 ^ 32)] } (fun t => t.peek 0xA0A0 8 == 0x55003D) = true := by decide
theorem test_reentry : after .barReentry (answered true false) (fun t => (t.tenOf 0).bar == []) = true ∧ after .barReentry (answered false false) (fun t => (t.tenOf 0).bar.length == 1) = true := by decide
/-- A migration from 0x550000 to 0x660000 whose first line, and all but the last, have come. -/
def moving (v : Nat) : State :=
  { row [] with mem := dwords [(0x550100, 0x77), (0x55FF00, 0x88)], ten := [(0, { ffsbase := 0x3000 })], pkg := { migs := [{ tenant := 0, va := 0, leaf := 0xA0A0, old := 0x550000, new := 0x660000, oldFrame := 0x55, valid := BitVec.ofNat 256 v }] }, sel := { sub := 1 } }
theorem witness_MigrationLines : (moving 1).pkg.migs[(moving 1).sel.unit]? = some { tenant := 0, va := 0, leaf := 0xA0A0, old := 0x550000, new := 0x660000, oldFrame := 0x55, valid := 1 } ∧ (1 : BitVec 256).getLsbD 1 = false ∧ (∀ j, j < 1 → (1 : BitVec 256).getLsbD j = true) ∧
    (1 : BitVec 256) ||| (1#256 <<< 1) ≠ BitVec.allOnes 256 ∧ (moving 1).sel.sub = 1 ∧ BitVec.ofNat 256 (2 ^ 255 - 1) ||| (1#256 <<< 255) = BitVec.allOnes 256 :=
  ⟨rfl, by decide, by decide, by decide, rfl, by decide⟩
theorem test_migration_line : after .migrationLineCopy (moving 1) (fun t => t.peek 0x660100 8 == 0x77 && (t.pkg.migs.map (·.valid)) == [3]) = true := by decide
theorem test_migration_end : after .migrationLineCopy (moving (2 ^ 255 - 1)) (fun t => t.peek 0x66FF00 8 == 0x88 && t.pkg.migs == [] && (t.tenOf 0).ffstop == 1 && t.peek 0x3000 8 == 0x55) = true := by decide

/-! ### Witnesses: engines, streams, transfer barriers -/

/-- An engine command of row 0 with a beat left. -/
def command (op : EngOp) (l : List Nat) : ECmd := { id := 9, op := op, rid := 0, tenant := 0, tag := 4, spec := spec l }
/-- Octet 0 with one active command. -/
def engine (m : Mem) (c : ECmd) : State := { row [] with mem := m, core := [], oct := [(0, { active := [c] })], clu := [(0, { tlb := [hbmPage] })] }
def bytesAt (l : List (Nat × Nat)) : Mem := l.foldl (fun m e => mwrite m e.1 (bytesOf 8 e.2)) []
theorem w_onlyActive (m : Mem) (c : ECmd) (h : c.done = false) : OnlyActive (engine m c) 0 c := ⟨rfl, h, fun _ _ => rfl, rfl, rfl, rfl⟩
theorem w_maps (m : Mem) (c : ECmd) (va n : Nat) (w : Bool) (h : va < 65536) (hn : va + n ≤ 0x8000000000) : Maps (engine m c) 0 0 va va n w :=
  ⟨by omega, hn, by simp only [State.assigned, regionOf, show va < 0x8000000000 by omega, if_true]; rw [show (engine m c).stackReady (0 / 4) = true from (show _ = (row []).stackReady 0 from rfl).trans (by decide), show (engine m c).allHbmReady = true from (show _ = (row []).allHbmReady from rfl).trans (by decide)]; rfl, hbmPage, by simp [engine, State.cluOf, tget, h], by simp, rfl, rfl, by cases w <;> decide⟩
/-- One line of 32 bytes, from 0x1000 to 0x2000. -/
abbrev copyOne : List Nat := [0, 0x1000, 0x2000, 2 ^ 32 + 32, 32 * 2 ^ 32 + 32, 0, 0, 0]
/-- Row 0 with specifications in segments 1 (a `COPY`), 2 (all ones) and 3 (a stream of 4-byte elements). -/
def issuing : State :=
  { row [(5, 3)] with mem := [(1, copyOne), (2, List.replicate 8 (2 ^ 64 - 1)), (3, [2 * 2 ^ 24, 0x100, 4 * 2 ^ 32 + 5, 0, 0, 0, 0, 0])].foldl (fun m e => mwrite m (rowAddr 0 + 320 + 64 * e.1) (bytesOf 64 (spec e.2).toNat)) (regs 0 [(5, 3)]), clu := [(0, { tlb := [hbmPage] })] }
/-- 65 pages of which no two are neighbours. -/
def scattered : State := { row [] with clu := [(0, { tlb := (List.range 65).map fun i => ⟨0, 65536 * i, 65536, 131072 * i, 0, true, true, true, true, false, false, false, 0, 0, 65536, false, 65536⟩ })] }
theorem witness_EngineIssue : InThread issuing ∧ MayBeAlone issuing ∧ (issuing.seg 1 = .ok (spec copyOne).toNat ∧ specOk .xcopy (BitVec.ofNat 512 (spec copyOne).toNat) = true) ∧ (∃ x, issuing.seg 2 = .ok x ∧ specOk .xcopy (BitVec.ofNat 512 x) = false) ∧ issuing.vecBusy 0 = false ∧ (issuing.farSketch 0 0 .xcopy (spec copyOne) = false ∧ issuing.localSources 0 0 (issuing.engineRanges 0 0 .xcopy (spec copyOne)) = false ∧ issuing.storesHome 0 = true ∧ issuing.storesSeen 0 = true ∧ issuing.postedDone 0 = true ∧ issuing.ownHeader 0 .xcopy (spec copyOne) = .ok none) ∧
    issuing.slotFor 0 = some 0 ∧ ({ issuing with core := [(0, { cs := { mbox := (List.range 128).map fun i => (i, { owner := some 1 }) } })] } : State).slotFor 0 = none ∧ (∃ l, issuing.commandLocks 0 0 (fun _ => true) (issuing.engineRanges 0 0 .xcopy (spec copyOne)) [] = .ok l ∧ l ≠ [] ∧ issuing.locksGrant 0 l.length = true) ∧ issuing.dstOpen 6 = true ∧
    scattered.commandLocks 0 0 (fun _ => true) [{ va := 0, len := 65 * 65536, write := true }] [] = .error 0 :=
  ⟨⟨rfl, rfl⟩, ⟨rfl, rfl, .inr ⟨rfl, .inl rfl⟩⟩, ⟨rfl, by decide⟩, ⟨_, rfl, by decide⟩, by decide, ⟨by decide, by decide, by decide, by decide, by decide, by rfl⟩, by decide, by decide, ⟨_, rfl, by decide, by decide⟩, by decide, rfl⟩
theorem test_xcopy_promise : after (.xcopy 6 1) issuing (fun t => t.greg 0 6 == 301 && ((t.octOf 0).queue.map fun c => (c.tag, c.beats)) == [(0, 1)] && (t.cluOf 0).locks.length == 2) = true := by decide
theorem test_xcopy_refuses : after (.xcopy 6 2) issuing (fun t => (t.thrOf 0).trapCause == some .illegal) = true := by decide
/-- The octet's queue with a command, and its engine with a finished one whose slot waits; it arrives at transfer barrier 3. -/
def finishing (dn : Bool) (n : Nat) : State :=
  let c : ECmd := { command .xcopy [2 ^ 43 + 3 * 2 ^ 44] with done := dn, info := 7 }
  { inCore { mbox := [(4, { owner := some 0 })], tbs := [(3, 0xFFFF)] } [] with oct := [(0, { queue := [c], active := List.replicate n c })], clu := [(0, { locks := [{ id := 9, lo := 0, hi := 63, write := true }] })] }
theorem witness_EngineQueue : ((finishing true 1).octOf 0).queue = ((finishing true 1).octOf 0).active ++ [] ∧ ((finishing true 1).octOf 0).active.length < 4 ∧ 4 ≤ ((finishing true 4).octOf 0).active.length ∧ (∃ c : ECmd, ((finishing false 1).octOf 0).active[0]? = some c ∧ c.done = false) ∧
    ((finishing true 1).coreOf 0).loaded = 0 ∧ ((finishing true 1).cs 0).mbox.find? (fun e => e.1 == 4) = some (4, { owner := some 0 }) := ⟨rfl, by decide, by decide, ⟨_, rfl, rfl⟩, by decide, by decide⟩
theorem test_command_start : after .commandStart (finishing true 1) (fun t => (t.octOf 0).queue == [] && (t.octOf 0).active.length == 2) = true := by decide
theorem test_command_complete : after .commandComplete (finishing true 1) (fun t => (t.cs 0).mbox == [(4, { owner := some 0, msg := some (BitVec.ofNat 64 (4 * 2 ^ 56 + 7)) })] && (t.octOf 0).active == [] && tget 0 (t.cs 0).tbs 3 == 0) = true := by decide
/-- The second of two gather positions: the indices stand at 0x3000, the table at 0x1000, the dense array at 0x2000. -/
def gathering (op : EngOp) (index : Nat) : State := engine (bytesAt [(0x1018, 0x77), (0x2008, 0x88), (0x3000, index * 2 ^ 32)]) { command op [3 * 2 ^ 24, 0x1000, 0x2000, 0x3000, 4 * 2 ^ 32 + 2, 8, 0, 0] with pos := 1 }
theorem witness_EngineTransfers : OnlyActive (engine [] (command .xcopy copyOne)) 0 (command .xcopy copyOne) ∧ (dwBits (spec copyOne) 0 7 0 = 0 ∧ dwBits (spec copyOne) 3 31 0 = 32 ∧ dwBits (spec copyOne) 3 63 32 = 1 ∧ dw (spec copyOne) 1 = 0x1000 ∧ dw (spec copyOne) 2 = 0x2000 ∧ dwBits (spec copyOne) 4 31 0 = 32 ∧ dwBits (spec copyOne) 4 63 32 = 32 ∧ dwBits (spec copyOne) 0 10 8 = 0) ∧
    (∀ i, i < 2 → Maps (engine [] (command .xcopy copyOne)) 0 0 (0x1000 + 16 * i) (0x1000 + 16 * i) 16 false ∧ Maps (engine [] (command .xcopy copyOne)) 0 0 (0x2000 + 16 * i) (0x2000 + 16 * i) 16 true) ∧
    (dwBits (spec [3 * 2 ^ 24, 0x1000, 0x2000, 0x3000, 4 * 2 ^ 32 + 2, 8, 0, 0]) 0 26 24 = 3 ∧ dwBits (spec [3 * 2 ^ 24, 0x1000, 0x2000, 0x3000, 4 * 2 ^ 32 + 2, 8, 0, 0]) 4 63 32 = 4) ∧ (gathering .xgather 3).mem ≠ [] ∧ mread (gathering .xgather 3).mem 0x3004 4 = 3 ∧ mread (gathering .xgather 4).mem 0x3004 4 = 4 ∧ mread (gathering .xscatter 0xFFFFFFFF).mem 0x3004 4 = 0xFFFFFFFF ∧
    (Maps (gathering .xgather 3) 0 0 0x3004 0x3004 4 false ∧ Maps (gathering .xgather 3) 0 0 0x1018 0x1018 8 false ∧ Maps (gathering .xgather 3) 0 0 0x2008 0x2008 8 true) :=
  ⟨w_onlyActive _ _ rfl, by decide, fun i h => ⟨w_maps _ _ _ _ _ (by omega) (by omega), w_maps _ _ _ _ _ (by omega) (by omega)⟩, by decide, by decide, by decide, by decide, by decide, w_maps _ _ _ _ _ (by decide) (by decide), w_maps _ _ _ _ _ (by decide) (by decide), w_maps _ _ _ _ _ (by decide) (by decide)⟩
theorem test_copy_beat : after .engineBeat (engine (bytesAt [(0x1010, 0x77)]) (command .xcopy copyOne)) (fun t => t.peek 0x2010 8 == 0x77 && ((t.octOf 0).active.map (·.done)) == [true]) = true := by decide
theorem test_copy_swizzles : after .engineBeat (engine (bytesAt [(0x1020, 0x77)]) { command .xcopy [2 ^ 8, 0x1000, 0x2000, 2 * 2 ^ 32 + 32, 32 * 2 ^ 32 + 32, 0, 0, 0] with pos := 1 }) (fun t => t.peek 0x2030 8 == 0x77) = true := by decide
theorem test_gather : after .engineBeat (gathering .xgather 3) (fun t => t.peek 0x2008 8 == 0x77) = true ∧ after .engineBeat (gathering .xgather 4) (fun t => t.peek 0x2008 8 == 0 && ((t.octOf 0).active.map (·.info)) == [1]) = true := by decide
theorem test_scatter : after .engineBeat (gathering .xscatter 3) (fun t => t.peek 0x1018 8 == 0x88) = true ∧ after .engineBeat (gathering .xscatter 0xFFFFFFFF) (fun t => t.peek 0x1018 8 == 0x77 && ((t.octOf 0).active.map (·.info)) == [BitVec.ofNat 48 (2 ^ 24)]) = true := by decide
/-- One INT32 element, -2 at 0x1000 and 3 at 0x2000. -/
def reducing (kind : Nat) : ECmd := command .xreduce [kind + 3 * 2 ^ 24, 0x1000, 0x2000, 1, 0, 0, 0, 0]
def reduced (kind : Nat) : State := engine (bytesAt [(0x1000, 0xFFFFFFFE), (0x2000, 3)]) (reducing kind)
/-- A sum of two sketches of one group: headers at 0x1000 and 0x2000, 16 counters of 16 bits at 0x3000 and 0x4000, their sum about to be written. -/
def sketching : ECmd :=
  { command .xreduce [3, 0x1000, 0x2000, 0, 0, 0, 0, 0] with pos := 1, hs := spec [7, 2 ^ 24 + 4 * 256 + 1, 0, 0x3000, 0, 0, 0, 0], hd := spec [7, 2 ^ 24 + 4 * 256 + 1, 0, 0x4000, 0, 0, 0, 0], buf := bytesOf 64 5 }
def sketched : State := engine ([(0x1000, spec [7, 2 ^ 24 + 4 * 256 + 1, 0, 0x3000, 0, 0, 0, 0]), (0x2000, spec [7, 2 ^ 24 + 4 * 256 + 1, 0, 0x4000, 0, 0, 0, 0]), (0x4000, 3)].foldl (fun m e => mwrite m e.1 (bytesOf 64 e.2.toNat)) []) sketching
theorem witness_EngineReductions : OnlyActive (reduced 0) 0 (reducing 0) ∧ (dwBits (reducing 0).spec 0 7 0 = 0 ∧ dwBits (reducing 1).spec 0 7 0 = 1 ∧ dwBits (reducing 2).spec 0 7 0 = 2 ∧ dwBits (reducing 0).spec 0 26 24 = 3 ∧ dwBits (reducing 0).spec 0 29 28 = 0 ∧ (reducing 0).pos + 1 = dw (reducing 0).spec 3) ∧
    (Maps (reduced 0) 0 0 0x1000 0x1000 4 false ∧ Maps (reduced 0) 0 0 0x2000 0x2000 4 true ∧ Maps (reduced 0) 0 0 0x2000 0x2000 4 false) ∧ OnlyActive sketched 0 sketching ∧ (dwBits sketching.spec 0 7 0 = 3 ∧ (sketchOf sketching.hs).groups = 1 ∧ (sketchOf sketching.hs).width = 32 ∧ (sketchOf sketching.hs).size = 64 ∧ sketching.buf.length = 64) ∧
    (∀ i, i < 4 → Maps sketched 0 0 (0x1000 + 16 * i) (0x1000 + 16 * i) 64 false ∧ Maps sketched 0 0 (0x2000 + 16 * i) (0x2000 + 16 * i) 64 false) ∧ Maps sketched 0 0 0x2000 0x2000 64 true ∧ Maps sketched 0 0 0x4000 0x4000 64 false ∧ Maps sketched 0 0 0x4000 0x4000 64 true ∧ sketched.peek 0x1020 8 % 512 = 0 :=
  ⟨w_onlyActive _ _ rfl, by decide, ⟨w_maps _ _ _ _ _ (by decide) (by decide), w_maps _ _ _ _ _ (by decide) (by decide), w_maps _ _ _ _ _ (by decide) (by decide)⟩, w_onlyActive _ _ rfl, by decide, fun i h => ⟨w_maps _ _ _ _ _ (by omega) (by omega), w_maps _ _ _ _ _ (by omega) (by omega)⟩,
    w_maps _ _ _ _ _ (by decide) (by decide), w_maps _ _ _ _ _ (by decide) (by decide), w_maps _ _ _ _ _ (by decide) (by decide), by decide⟩
theorem witness_EngineReductions_counters : ∀ i, i < 16 → ((sketchOf sketching.hd).value (mread sketched.mem (0x4000 + 4 * i) 4)).2 = false ∧ ((sketchOf sketching.hd).value (ofBytes ((sketching.buf.drop (4 * i)).take 4))).2 = false ∧
    ((sketchOf sketching.hd).clamp (((sketchOf sketching.hd).value (mread sketched.mem (0x4000 + 4 * i) 4)).1 + ((sketchOf sketching.hd).value (ofBytes ((sketching.buf.drop (4 * i)).take 4))).1)).2 = false := by decide
theorem test_reductions : after .xreduceSum (reduced 0) (fun t => t.peek 0x2000 8 == 1) = true ∧ after .xreduceMax (reduced 1) (fun t => t.peek 0x2000 8 == 3) = true ∧ after .xreduceMin (reduced 2) (fun t => t.peek 0x2000 8 == 0xFFFFFFFE) = true := by decide
theorem test_sketch_sum : after .sksum sketched (fun t => t.peek 0x4000 4 == 8 && ((t.octOf 0).active.map fun c => (c.pos, c.done)) == [(2, false)]) = true := by decide
/-- A page command on tenant 0's pages 0 and 0x10000, whose leaves name frames 0x55 and 0x56 of counts 1 and 2. -/
def paging (kind : Nat) (d : List Nat) : ECmd := { command .xcopy (kind :: d) with beats := 16 }
def paged (c : ECmd) : State :=
  { engine (bytesAt [(0x2000, 0x4003), (0x4000, 0x6003), (0x6000, 0x8003), (0x8000, 0xA003), (0xA000, 0x55003D), (0xA008, 0x56003D), (0x3000, 0x66), (0x3950, 2 ^ 32), (0x3958, 2)]) c with
      ten := [(0, { s1root := 0x2001, root1 := 0x2001, ffsbase := 0x3000, ffstop := 1, ftbase := 0x3800, ftlen := 256 })] }
theorem w_paged (c : ECmd) (h : c.done = false) : OnlyActive (paged c) 0 c := ⟨rfl, h, fun _ _ => rfl, rfl, rfl, rfl⟩
abbrev shareOne : ECmd := paging 1 [0, 0x10000, 1, 0, 0, 0, 0]
abbrev dropOne : ECmd := paging 2 [0, 0x10000, 1, 0, 0, 0, 0]
abbrev moveOne : ECmd := paging 3 [0, 0, 1, 0, 0, 0, 0]
theorem w_pageEntry (c : ECmd) (va e a : Nat) (h : (va, e, a) ∈ [(0, 0x55003D, 0xA000), (0x10000, 0x56003D, 0xA008)]) : EntryAt (paged c) 0 va 0 e a := by
  simp only [List.mem_cons, List.not_mem_nil, or_false, Prod.mk.injEq] at h
  have r : (paged c).tenOf 0 = (paged shareOne).tenOf 0 := rfl
  have m (a : Nat) : (paged c).peek a 8 = (paged shareOne).peek a 8 := rfl
  have i (a : Nat) : IpaAt (paged c) 0 a a := rfl
  refine ⟨by rw [r]; decide, ?_⟩
  rw [r]
  rcases h with ⟨rfl, rfl, rfl⟩ | ⟨rfl, rfl, rfl⟩ <;>
  exact .next (i 0x2000) (by decide) (e := 0x4003) ((m _).trans (by decide)) (by decide) (.next (i 0x4000) (by decide) (e := 0x6003) ((m _).trans (by decide)) (by decide) (.next (i 0x6000) (by decide) (e := 0x8003) ((m _).trans (by decide)) (by decide)
    (.next (i 0x8000) (by decide) (e := 0xA003) ((m _).trans (by decide)) (by decide) (.here (i _) (by decide) ((m _).trans (by decide))))))
theorem w_pageMapped (c : ECmd) (va e a : Nat) (h : (va, e, a) ∈ [(0, 0x55003D, 0xA000), (0x10000, 0x56003D, 0xA008)]) (hl : LeafEntry false 0 e) : MappedAt (paged c) 0 va 0 e a :=
  ⟨w_pageEntry c va e a h, hl, fun x => absurd x (by show ¬ ((paged shareOne).tenOf 0).root2.toNat % 2 = 1; decide)⟩
theorem witness_PageCommands : OnlyActive (paged shareOne) 0 shareOne ∧ (shareOne.pos + 1 = dwBits shareOne.spec 3 31 0 ∧ dwBits shareOne.spec 0 7 0 = 1) ∧ MappedAt (paged shareOne) 0 (dw shareOne.spec 1) 0 0x55003D 0xA000 ∧ EntryAt (paged shareOne) 0 (dw shareOne.spec 2) 0 0x56003D 0xA008 ∧ LeafEntry false 0 0x56003D ∧
    OnlyActive (paged dropOne) 0 dropOne ∧ (dropOne.pos + 1 = dwBits dropOne.spec 3 31 0 ∧ dwBits dropOne.spec 0 7 0 = 2 ∧ 1 < (paged dropOne).peek (0x3800 + 4 * 0x56) 4 ∧ 0x56 < 256) ∧ MappedAt (paged dropOne) 0 (dw dropOne.spec 2) 0 0x56003D 0xA008 ∧
    OnlyActive (paged moveOne) 0 moveOne ∧ (dwBits moveOne.spec 0 7 0 = 3 ∧ dw moveOne.spec 4 = 0 ∧ (paged moveOne).pkg.migs = [] ∧ (paged moveOne).pkg.fnmode.getLsbD 2 = false ∧ (paged moveOne).peek 0x3000 8 = 0x66 ∧ moveOne.pos + 1 = dwBits moveOne.spec 3 31 0) ∧
    MappedAt (paged moveOne) 0 (dw moveOne.spec 1) 0 0x55003D 0xA000 ∧ FrameAt (paged moveOne) 0 0x55 0x550000 ∧ FrameAt (paged moveOne) 0 0x66 0x660000 ∧ (paged moveOne).inFlight = [] ∧ (∀ o ∈ (paged moveOne).oct, o.1 ≠ 0 → o.2.active = []) ∧ ((paged moveOne).oct.map (·.1)).Nodup :=
  ⟨w_paged _ rfl, by decide, w_pageMapped _ 0 _ _ (by decide) (by decide), w_pageEntry _ 0x10000 _ _ (by decide), by decide, w_paged _ rfl, by decide, w_pageMapped _ 0x10000 _ _ (by decide) (by decide), w_paged _ rfl, by decide, w_pageMapped _ 0 _ _ (by decide) (by decide), rfl, rfl, by decide, by decide, by decide⟩
theorem test_pageshare : after .pageshare (paged shareOne) (fun t => t.peek 0xA000 8 == 0x55007D && t.peek 0xA008 8 == 0x55007D && t.peek 0x3954 4 == 2) = true := by decide
theorem test_pagedrop : after .pagedrop (paged dropOne) (fun t => t.peek 0xA008 8 == 0 && t.peek 0x3958 4 == 1) = true := by decide
theorem test_migration_start : after .migrationStart { paged moveOne with sel := { unit := 0, sub := 0, idx := 0x66 } } (fun t => t.peek 0xA000 8 == 0x66023D && t.pkg.migs.length == 1 && (t.tenOf 0).ffstop == 0) = true := by decide
/-- Row 0 with stream register 24 bound: four-byte elements from 0x100, a step of 4, two left, none staged. -/
def streaming : State :=
  { row [(5, 3)] with mem := mwrite (regs 0 [(5, 3)]) (rowAddr 0 + 256) (bytesOf 16 (2 ^ 63 + 2 * 2 ^ 57 + 0x100 + (4 * 2 ^ 32 + 2) * 2 ^ 64)),
                      core := [(0, { ports := [(0, some { row := 0, phase := .running, busy := 0 })], itlb := pages, dtlb := pages, streams := [{ rid := 0, reg := 24, lock := 3 }] })], clu := [(0, { tlb := [hbmPage] })], sel := { unit := 0, sub := 0, idx := 24 } }
theorem witness_StreamsAndTransferBarriers : InThread issuing ∧ MayBeAlone issuing ∧ issuing.src 5 = .ok (3, issuing) ∧ (tget 0 (issuing.cs 0).tbs 3 : BitVec 16).toNat < 3 % 65536 ∧ 0 % 65536 ≤ (tget 0 (issuing.cs 0).tbs 3 : BitVec 16).toNat ∧ issuing.bound 0 24 = false ∧ streaming.bound 0 24 = true ∧ InThread streaming ∧
    (∃ x, issuing.seg 3 = .ok x ∧ streamOk (BitVec.ofNat 512 x) = true) ∧ (∃ x, issuing.seg 2 = .ok x ∧ streamOk (BitVec.ofNat 512 x) = false) ∧ (issuing.coreOf 0).streams.length < 64 ∧ (∃ l, issuing.commandLocks 0 0 (fun _ => true) [streamRange (spec [2 * 2 ^ 24, 0x100, 4 * 2 ^ 32 + 5, 0, 0, 0, 0, 0])] [] = .ok l ∧ issuing.locksGrant 0 l.length = true) ∧
    ((streaming.coreOf 0).streams = [{ rid := 0, reg := 24, lock := 3 }] ∧ 2 ^ 63 ≤ streaming.rowGet 0 256 8 ∧ 0 < streaming.rowGet 0 264 8 % 2 ^ 32 ∧ (0 + 1) * 2 ^ 2 ≤ 128 ∧ (streaming.ctlOf 0).state ≠ .held ∧ streaming.waits 0 4 = false ∧ streaming.uncorr = []) :=
  ⟨⟨rfl, rfl⟩, ⟨rfl, rfl, .inr ⟨rfl, .inl rfl⟩⟩, rfl, by decide, by decide, by decide, by decide, ⟨rfl, rfl⟩, ⟨_, rfl, by decide⟩, ⟨_, rfl, by decide⟩, by decide, ⟨_, rfl, by decide⟩, by decide⟩
theorem witness_StreamsAndTransferBarriers_page : Maps streaming 0 0 0x100 0x100 4 false := ⟨by decide, by decide, by decide, hbmPage, by decide, by decide, rfl, rfl, by decide⟩
theorem test_tbwait : after (.tbwait 5 3) issuing (fun t => (t.ctlOf 0).wait == 9 && (t.ctlOf 0).wake == 3) = true := by decide
theorem test_tbinit : after (.tbinit 5 3) issuing (fun t => tget 0 (t.cs 0).tbs 3 == (3 : BitVec 16)) = true := by decide
theorem test_sbind : after (.sbind 24 3) issuing (fun t => t.rowGet 0 256 8 == 2 ^ 63 + 2 * 2 ^ 57 + 0x100 && t.rowGet 0 264 8 == 4 * 2 ^ 32 + 5 && (t.coreOf 0).streams.length == 1) = true := by decide
theorem test_sunbind : after (.sunbind 24) streaming (fun t => t.rowGet 0 256 16 == 0 && (t.thrOf 0).chunk.deferred == [.unbind 24]) = true := by decide
theorem test_stream_refill : after .streamRefill { streaming with mem := mwrite streaming.mem 0x100 [7, 6, 0, 0, 9] } (fun t => ((t.coreOf 0).streams.map (·.vals)) == [[0x607]]) = true := by decide

/-! ### Witnesses: sketches -/

/-- The header of a sketch of one row of 16 counters of 32 bits, whose indices count from 100. -/
abbrev header : BitVec 512 := spec [7, 2 ^ 24 + 4 * 256 + 1, 100, 0x2000, 1, 0, 0, 0]
theorem witness_SketchArithmetic : sketchValid header = true ∧ 0 < (sketchOf header).rows ∧ (sketchOf header).width = 32 ∧ f32 0x7FC00000 = .nan ∧ f32 0xFF800000 = .inf true ∧ (∃ a b, f32 0x40400000 = .fin false a b ∧ 0 < b ∧ a * 2 ^ (-(sketchOf header).exp).toNat = 3 * b) ∧ (sketchOf header).exp ≤ 0 :=
  ⟨by decide, by decide, by decide, by decide, by decide, ⟨_, _, rfl, by decide, by decide⟩, by decide⟩
theorem test_sketch_valid : sketchValid (spec [7, 3 * 256 + 1, 0, 0x2000, 0, 0, 0, 0]) = false ∧ sketchValid (spec [7, 4 * 256 + 2, 0, 0x2000, 0, 0, 0, 0]) = false ∧ sketchValid (spec [7, 4 * 256 + 1, 0, 0x2000, 2, 0, 0, 0]) = false := by decide
theorem test_sketch_hash : (sketchOf (spec [0, 4 * 256 + 1, 0, 0, 0, 0, 0, 0])).hash 0 0 = (9, true) := by decide
theorem test_sketch_rescale : (sketchOf header).rescale 1 5 = (2, false) ∧ (sketchOf header).rescale 1 (-7) = (-4, false) ∧ (sketchOf header).rescale (-31) 2 = (2 ^ 31 - 1, true) := by decide
/-- Row 0 with the header at 0x1000: g5 names it, g6 is 3, g7 names no multiple of 64; segments 1 (two pairs, then all ones), 2 (an image) and 3 (all ones). -/
def atSketch (h : BitVec 512) : State :=
  let r : List (Nat × Nat) := [(5, 0x1000), (6, 3), (7, 0x1008), (8, 2 ^ 57), (9, 33)]
  { row r with mem := [(0x1000, h.toNat), (rowAddr 0 + 384, 2 ^ 512 - 2 ^ 128 + 9 * 2 ^ 96 + 0xFFFFFFFF * 2 ^ 64 + 0x40400000 * 2 ^ 32 + 5), (rowAddr 0 + 448, header.toNat), (rowAddr 0 + 512, 2 ^ 512 - 1)].foldl (fun m e => mwrite m e.1 (bytesOf 64 e.2)) (regs 0 r) }
theorem w_headerAt (h : BitVec 512) (w : Bool) (hh : h = header ∨ h = spec [7, 1, 0, 0, 0, 0, 0, 0]) : HeaderAt (atSketch h) (onItsOwn (atSketch h)) 0x1000 w 0x1000 h := by
  rcases hh with rfl | rfl <;> cases w <;> exact ⟨⟨rfl, rfl, .inr ⟨rfl, .inl rfl⟩⟩, by decide, rfl, by decide⟩
theorem w_atSketch (h : BitVec 512) : InThread (atSketch h) := ⟨rfl, rfl⟩
def noSlot (h : BitVec 512) : State := { atSketch h with core := [(0, { cs := { mbox := (List.range 128).map fun i => (i, { owner := some 1 }) } })] }
theorem witness_SketchWords : (∃ x, (atSketch header).seg 1 = .ok x) ∧ ((atSketch header).src 5 = .ok (0x1000, atSketch header) ∧ (atSketch header).src 6 = .ok (3, atSketch header)) ∧ (atSketch header).queryOf 0 = none ∧ (atSketch header).vecBusy 0 = false ∧ ((atSketch header).src 7 = .ok (0x1008, atSketch header) ∧ 0x1008 % 64 ≠ 0) ∧ (atSketch header).src 8 = .ok (BitVec.ofNat 64 (2 ^ 57), atSketch header) ∧
    sketchValid header = true ∧ sketchValid (spec [7, 1, 0, 0, 0, 0, 0, 0]) = false ∧ (onItsOwn (atSketch header)).slotFor 0 = some 0 ∧ (onItsOwn (noSlot header)).slotFor 0 = none ∧ (onItsOwn (atSketch header)).dstOpen 6 = true ∧ (onItsOwn (atSketch header)).postedBefore 0 0x1000 0 = false ∧
    ((32 : Int) < (33 : W).toInt ∧ -128 ≤ (sketchOf header).exp + (3 : W).toInt ∧ (sketchOf header).exp + (3 : W).toInt ≤ 127) ∧ InHbm 0x1000 64 ∧ (onItsOwn (atSketch header)).uncorr = [] :=
  ⟨⟨_, rfl⟩, ⟨rfl, rfl⟩, by decide, by decide, ⟨rfl, by decide⟩, rfl, by decide, by decide, by decide, by decide, by decide, by decide, by decide, (by decide : 0x1000 + 64 ≤ 0x8000000000), rfl⟩
theorem test_skupd_posts : after (.skupd 5 1) (atSketch header) (fun t => (t.pip.map fun p => match p.kind with | .update l => l | _ => []) == [[(105, 0x40400000)]] && (t.cs 0).mbox == [(0, { owner := some 0 })]) = true := by decide
theorem test_sketch_address : after (.skclr 7) (atSketch header) (fun t => (t.thrOf 0).trapCause == some .align && (t.thrOf 0).trapG3 == 0x1008) = true := by decide
theorem test_skscl : after (.skscl 5 6) (atSketch header) (fun t => t.peek 0x1008 8 == 2 ^ 24 + 3 * 2 ^ 16 + 4 * 256 + 1) = true ∧ after (.skscl 5 9) (atSketch header) (fun t => (t.thrOf 0).trapCause == some .illegal) = true := by decide
theorem test_skstat_clears : after (.skstat 6 5 1) (atSketch header) (fun t => t.greg 0 6 == 1 && t.peek 0x1020 8 == 0) = true := by decide
theorem witness_SketchDefinition : (onItsOwn (atSketch header)).headerAt 0x1000 true = .ok (0x1000, onItsOwn (atSketch header)) ∧ (atSketch header).seg 2 = .ok header.toNat ∧ (∃ x, (atSketch header).seg 3 = .ok x ∧ sketchValid (BitVec.ofNat 512 x) = false) ∧ sketchValid (BitVec.ofNat 512 header.toNat) = true ∧
    ¬ (dw header 3 < 0x1000 + 64) ∧ (onItsOwn (atSketch header)).access 0x1000 64 .store = .ok (0x1000, onItsOwn (atSketch header)) ∧ ((onItsOwn (atSketch header)).thrOf 0).chunk.stores = [] := ⟨rfl, rfl, ⟨_, rfl, by decide⟩, by decide, by decide, rfl, by decide⟩
theorem test_skdef : after (.skdef 5 2) (atSketch header) (fun t => ((t.thrOf 0).chunk.stores.map fun x => (x.pa, ofBytes x.bytes)) == [(0x1000, header.toNat - 2 ^ 256)]) = true ∧ after (.skdef 5 3) (atSketch header) (fun t => (t.thrOf 0).trapCause == some .illegal) = true := by decide
/-- A query of row 0 with its first counter read, or with its results. -/
def query (r : Option (BitVec 512 × W)) : QBuf := { rid := 0, hva := 0x1000, hpa := 0x1000, header := header, idx := BitVec.ofNat 512 (2 ^ 512 - 2 ^ 64 + 4 * 2 ^ 32 + 5), order := 3, ests := [7], result := r }
def querying (n : Nat) (r : Option (BitVec 512 × W)) : State :=
  let s := atSketch header
  { s with core := [(0, { (s.coreOf 0) with qbufs := (List.range n).map fun i => { query r with rid := if i = 0 then 0 else i, order := 3 + i } })], clu := [(0, { tlb := [hbmPage] })], sel := { unit := 0, sub := 0 } }
/-- A posted operation on the header at 0x1000, with what stands before it. -/
def post (k : PipKind) : PipOp := { id := 9, rid := 0, tenant := 0, tag := 4, opcode := 0x31, hva := 0x1000, hpa := 0x1000, header := header, kind := k }
def posted (l : List PipOp) : State := { atSketch header with clu := [(0, { tlb := [hbmPage] })], pip := l, sel := { unit := l.length - 1 } }
theorem w_postMaps (l : List PipOp) (va n : Nat) (w : Bool) (h : va < 65536) (hn : va + n ≤ 0x8000000000) : Maps (posted l) 0 0 va va n w :=
  ⟨by omega, hn, by simp only [State.assigned, regionOf, show va < 0x8000000000 by omega, if_true]; rw [show (posted l).stackReady (0 / 4) = true from (show _ = (row []).stackReady 0 from rfl).trans (by decide), show (posted l).allHbmReady = true from (show _ = (row []).allHbmReady from rfl).trans (by decide)]; rfl,
    hbmPage, by simp [posted, State.cluOf, tget, h], by simp, rfl, rfl, by cases w <;> decide⟩
theorem witness_SketchSteps : (atSketch header).queryOf 0 = none ∧ (onItsOwn (atSketch header)).mayTake 0 (onCore 0) 10 16 = true ∧ (onItsOwn (atSketch header)).quiet = true ∧ ((onItsOwn (atSketch header)).thrOf 0).deferred = [] ∧ ((onItsOwn (atSketch header)).thrOf 0).chunk.steps = 0 ∧ (onItsOwn (atSketch header)).mayTake 0 (onCore 0) 10 0 = false ∧
    (querying 1 (some (8, 9))).queryOf 0 = some (query (some (8, 9))) ∧ MayBeAlone (querying 1 (some (8, 9))) ∧ ((querying 2 none).coreOf 0).qbufs[0]? = some (query none) ∧ (querying 2 none).postedBefore 0 0x1000 3 = false ∧ ({ querying 2 none with pip := [{ post .clear with id := 1 }] } : State).postedBefore 0 0x1000 3 = true ∧
    (query none).lanes[1]? = some (1, 104) ∧ (((querying 2 none).coreOf 0).qbufs.map (·.order)).Nodup ∧
    ({ querying 1 none with core := [(0, { qbufs := [{ query none with failed := some 0x2000 }] })] } : State).queryOf 0 = some { query none with failed := some 0x2000 } ∧ ({ query none with ests := [7, 1, 2] } : QBuf).lanes[3]? = none ∧ (query none).abandoned = false :=
  ⟨by decide, by decide, by decide, by decide, by decide, by decide, by decide, ⟨rfl, rfl, .inr ⟨rfl, .inl rfl⟩⟩, by decide, by decide, by decide, by decide, by decide, by decide, by decide, by decide⟩
theorem witness_SketchSteps_posted (k : PipKind) : ((posted [post k]).pip[(posted [post k]).sel.unit]? = some (post k)) ∧ (posted [post k]).postedBefore 0 0x1000 9 = false ∧ (posted [{ post k with id := 1 }, post k]).postedBefore 0 0x1000 9 = true ∧ (posted [post k]).uncorr = [] ∧ ((posted [post k]).pip.map (·.id)).Nodup ∧
    (∀ i, i < 16 → Maps (posted [post k]) 0 0 (0x2000 + 4 * i) (0x2000 + 4 * i) 4 true ∧ Maps (posted [post k]) 0 0 (0x2000 + 4 * i) (0x2000 + 4 * i) 4 false) ∧ (posted [post k]).peek 0x1020 8 < 512 ∧ (sketchOf header).addr 0 = 0x2000 ∧ 0 < (sketchOf header).rows * 2 ^ (sketchOf header).logw ∧
    (Maps (posted [post k]) 0 0 ((post k).hva + 32) 0x1020 8 true ∧ Maps (posted [post k]) 0 0 ((post k).hva + 32) 0x1020 8 false) ∧ (post k).flagged = false ∧ (sketchOf header).quantise 0x7FC00000 = (0, true) ∧ ((sketchOf header).quantise 0x40400000).2 = false ∧
    ({ post (.update [(105, 0x40400000), (106, 0)]) with pos := 1 } : PipOp).next ≠ none ∧ (post .clear).next ≠ none ∧ ([(105, 0x40400000)] : List (W × BitVec 32))[0]? = some (105, 0x40400000) :=
  ⟨rfl, rfl, rfl, rfl, List.nodup_singleton 9, fun i h => ⟨w_postMaps _ _ _ _ (by omega) (by omega), w_postMaps _ _ _ _ (by omega) (by omega)⟩, (show _ = (posted []).peek 0x1020 8 from rfl) ▸ (by decide), by decide, by decide, ⟨w_postMaps _ 0x1020 8 _ (by decide) (by decide), w_postMaps _ 0x1020 8 _ (by decide) (by decide)⟩, rfl, by decide, by decide, by decide, by decide, by decide⟩
theorem test_skqry_waits : after (.skqry 2 5 1) (atSketch header) (fun t => (t.ctlOf 0).wait == 10 && (t.coreOf 0).qbufs.length == 1) = true := by decide
theorem test_skqry_ends : after (.skqry 2 5 1) (querying 1 (some (8, 9))) (fun t => t.rowGet 0 448 64 == 8 && t.rowGet 0 512 8 == 9 && (t.coreOf 0).qbufs == []) = true := by decide
theorem test_posted_update : after .sketchCounterOp { posted [post (.update [(105, 0x40400000), (106, 0)])] with mem := mwrite (atSketch header).mem 0x2000 (List.replicate 64 0) }
    (fun t => (t.pip.map (·.pos)) == [1] && let x := t.peek ((sketchOf header).addr ((sketchOf header).slot 0 105)) 4; x == 3 || x == 2 ^ 32 - 3) = true := by decide
theorem test_posted_clamped : after .sketchCounterOp (posted [post (.update [(105, 0x7FC00000)])]) (fun t => (t.pip.map fun p => (p.pos, p.flagged)) == [(0, true)] && t.peek 0x1020 8 == 1) = true := by decide
theorem test_posted_waits : after .sketchCounterOp (posted [{ post .clear with id := 1 }, post .clear]) (fun t => (t.pip.map (·.pos)) == [0, 0]) = true := by decide

/-! ### Witnesses: combinators and nests -/

/-- The image of a `FUNC`, a `SEQ` of two entries, a `FARM` of 64 of an entry. -/
abbrev funcImage : Nat := (spec [2 ^ 60, 0x300, 0x400, 0, 0, 0, 0, 0]).toNat
def seqImage (a b : Nat) : Nat := (spec [3 * 2 ^ 60 + 2 * 2 ^ 56, a + 4096 * b, 0, 0, 0, 0, 0, 0]).toNat
def farmImage (a : Nat) : Nat := (spec [6 * 2 ^ 60 + 2 ^ 56 + 63 * 2 ^ 32, a, 0, 0, 0, 0, 0, 0]).toNat
/-- Row 0 of a tenant whose table at 0x200000 defines entry 2 (a `FUNC`), entry 4 of depth 8, entry 5 of 2^18 rows, and entry 6 (a `SEQ` of 2 and 4, whose counts are 1); `v` stands in segment 1. -/
def gambit (v : Nat) : State :=
  let r : List (Nat × Nat) := [(5, 3), (6, 4096), (7, 2), (8, 6)]
  { row r with mem := [(0x200040, 32, funcImage), (0x2200C0, 0, 0), (0x200000 + 32 * 6, 32, seqImage 2 4), (0x220020, 8, claimWord ⟨1, 0, 1, 0, 0, 1⟩), (0x220028, 8, 1), (0x220040, 8, claimWord ⟨1, 0, 1, 0, 0, 8⟩), (0x220048, 8, 1), (0x220050, 8, claimWord ⟨2 ^ 18, 0, 1, 0, 0, 1⟩), (0x220060, 8, claimWord ⟨2, 0, 1, 0, 0, 2⟩),
                   (rowAddr 0 + 384, 64, v)].foldl (fun m e => mwrite m e.1 (bytesOf e.2.1 e.2.2)) (regs 0 r), ten := [(0, { gambase := 0x200001 })] }
theorem w_hasTable (v : Nat) : HasTable (gambit v) 0 := ⟨(show _ = (0x200001 : W).getLsbD 0 from rfl).trans (by decide), (show _ = (0x200001 : W).toNat / 2 ^ 16 % 2 ^ 36 * 65536 + 0x30000 from rfl) ▸ (by decide)⟩
theorem w_settled (v : Nat) : Settled (gambit v) := ⟨⟨rfl, rfl, .inr ⟨rfl, .inl rfl⟩⟩, (show _ = (row []).drained 0 from rfl).trans (by decide)⟩
theorem witness_CombinatorDefinition : (gambit funcImage).src 5 = .ok (3, gambit funcImage) ∧ isBase 0 = false ∧ ((row []).tenOf 0).gambase.getLsbD 0 = false ∧ HasTable (gambit funcImage) 0 ∧ (gambit funcImage).seg 1 = .ok funcImage ∧ Settled (gambit funcImage) ∧ (gambit funcImage).vecBusy 0 = false ∧ ((gambit funcImage).ctlOf 0).p = false ∧ (gambit funcImage).dstOpen 9 = true :=
  ⟨rfl, by decide, by decide, w_hasTable _, rfl, w_settled _, by decide, by decide, by decide⟩
theorem witness_CombinatorDefinition_fails :
    Defined (gambit 0) 0 2 ∧ ¬ Defined (gambit 0) 0 3 ∧ ¬ Shape 0 ∧ Shape (BitVec.ofNat 512 funcImage) ∧ Limits (BitVec.ofNat 512 funcImage) ∧ UsesDefined (gambit 0) 0 (BitVec.ofNat 512 funcImage) ∧ ¬ TooBig (claimSays (gambit 0) 0 (BitVec.ofNat 512 funcImage)) ∧ (claimSays (gambit 0) 0 (BitVec.ofNat 512 funcImage)).depth ≤ 8 ∧
    (Shape (spec [2 ^ 60, 0x302, 0, 0, 0, 0, 0, 0]) ∧ ¬ Limits (spec [2 ^ 60, 0x302, 0, 0, 0, 0, 0, 0])) ∧ ¬ UsesDefined (gambit 0) 0 (BitVec.ofNat 512 (seqImage 2 9)) ∧ 8 < (claimSays (gambit 0) 0 (BitVec.ofNat 512 (seqImage 2 4))).depth ∧ TooBig (claimSays (gambit 0) 0 (BitVec.ofNat 512 (farmImage 5))) := by
  refine ⟨⟨by decide, by decide⟩, fun h => h.2 (by decide), fun h => absurd h.1 (by decide), by unfold Shape; decide, by unfold Limits; decide, ⟨fun c hc => absurd hc (by rw [show uses (BitVec.ofNat 512 funcImage) = [] by decide]; simp), by decide⟩, by unfold TooBig; decide, by decide, ⟨by unfold Shape; decide, by unfold Limits; decide⟩, ?_, by decide, by unfold TooBig; decide⟩
  exact fun h => (h.1 9 (by decide)).2 (by decide)
theorem test_gdef : after (.gdef 9 5 1) (gambit funcImage) (fun t => t.greg 0 9 == 2 ^ 45 + 2 ^ 26 + 1 && t.peek 0x200060 8 == 2 ^ 60 && t.peek 0x220030 8 == 2 ^ 45 + 2 ^ 26 + 1) = true := by decide
theorem test_gdef_fails : after (.gdef 9 5 1) (gambit (seqImage 2 9)) (fun t => (t.thrOf 0).trapCause == some .illegal && (t.thrOf 0).trapG3 == 5 * 65536 + 3) = true ∧ after (.gdef 9 6 1) (gambit 0) (fun t => (t.thrOf 0).trapG3 == 65536) = true := by decide
theorem witness_CombinatorDeletion : (gambit 0).src 8 = .ok (6, gambit 0) ∧ Defined (gambit 0) 0 6 ∧ (gambit 0).peek (countAt (gambit 0) 0 6) 4 = 0 ∧ (∀ c, (uses (BitVec.ofNat 512 ((gambit 0).peek (imageAt (gambit 0) 0 6) 32))).count c ≤ (gambit 0).peek (countAt (gambit 0) 0 c) 4) ∧ (gambit 0).peek (countAt (gambit 0) 0 2) 4 ≠ 0 := by
  refine ⟨rfl, ⟨by decide, by decide⟩, by decide, fun c => ?_, by decide⟩
  rw [show uses (BitVec.ofNat 512 ((gambit 0).peek (imageAt (gambit 0) 0 6) 32)) = [2, 4] by decide]
  by_cases h2 : c = 2
  · subst h2; decide
  · by_cases h4 : c = 4
    · subst h4; decide
    · simp [List.count_eq_zero_of_not_mem, h2, h4]
theorem test_gdel : after (.gdel 8) (gambit 0) (fun t => t.peek 0x220060 8 == 0 && t.peek 0x220028 4 == 0 && t.peek 0x220048 4 == 0) = true ∧ after (.gdel 7) (gambit 0) (fun t => (t.thrOf 0).trapG3 == 9 * 65536 + 2) = true := by decide
theorem witness_CombinatorApplication : (gambit 0).src 7 = .ok (2, gambit 0) ∧ (gambit 0).src 8 = .ok (6, gambit 0) ∧ (gambit 0).peek (claimAt (gambit 0) 0 3) 8 = 0 ∧ ((gambit 0).peek (claimAt (gambit 0) 0 2) 8 = claimWord ⟨1, 0, 1, 0, 0, 1⟩ ∧ (gambit 0).peek (claimAt (gambit 0) 0 2) 8 ≠ 0 ∧ claimWord ⟨1, 0, 1, 0, 0, 1⟩ / 2 ^ 26 % 256 ≤ 192 ∧ claimWord ⟨1, 0, 1, 0, 0, 1⟩ / 2 ^ 6 % 4096 ≤ 512) ∧
    512 < claimWord ⟨1, 0, 1, 0, 513, 1⟩ / 2 ^ 6 % 4096 ∧ (gambit 0).slotFor 0 = some 0 := ⟨rfl, rfl, by decide, by decide, by decide, by decide⟩
/-- A nest of one leaf `g` in row 3 of core 0, and its record. -/
def leaf (k : Nat) (co : CoState) (p : Option Nat) : GNode := { kind := k, entry := 2, parent := none, rid := 3, live := true, co := co, pending := p, yval := 8, rval := 9, exit := num (2 ^ 50 + 6) }
def lone (g : GNode) : Nest := { seq := 1, tenant := 0, core := 0, tag := some 4, node := none, root := 2, arg := 0, pri := 0, team := 0, gnodes := [g], rows := [3], pool := [], mxu := [], links := [] }
/-- The same table with the issuer in row 1, so that row 0 of the octet's first core is free; no nest, or all 256 records taken. -/
def applying (full : Bool) : State :=
  let m := regs 1 [(5, 3), (7, 2), (8, 6)]
  { gambit 0 with mem := mwrite (gambit 0).mem (rowAddr 1 + 40) (mbytes m (rowAddr 1 + 40) 32), cur := { rid := 1, pc := 0x200 }, ctl := [(1, { state := .opened, pc := 0x200 })],
                  core := [(0, { ports := [(0, some { row := 1, phase := .running, busy := 0 })], cs := { hpoolCount := 0 }, itlb := pages, dtlb := pages })],
                  clu := [(0, { nests := if full then (List.range 256).map fun i => (i, some (lone (leaf 1 .fresh none))) else [] })] }
theorem witness_CombinatorApplication_plan : (((applying false).thrOf 1).nest = none ∧ ((applying false).cluOf 0).nests = [] ∧ (applying false).peek (imageAt (applying false) 0 2) 32 / 2 ^ 60 % 16 = 1 ∧ (applying false).peek (imageAt (applying false) 0 2) 32 / 2 ^ 192 = 0 ∧ (applying false).peek (claimAt (applying false) 0 2) 8 = claimWord ⟨1, 0, 1, 0, 0, 1⟩ ∧
      ((applying false).octOf 0).tag.toNat = 0 ∧ ((applying false).octOf 0).busy = false ∧ (applying false).matrixLocked (ridOf 0 0) = false ∧ ((applying false).cs 0).hpoolCount = 0) ∧ ((applying false).ctlOf (ridOf 0 0)).state = .null ∧ (∃ n, (applying false).planNest ((applying false).siteOf 1).1 2 none ((applying false).siteOf 1).2 1 (some 0) none 6 = some (0, n)) := ⟨by decide, by decide, Option.isSome_iff_exists.mp (by decide) |>.elim fun p h => ⟨p.2, h.trans (by rw [show p = (0, p.2) from Prod.ext (by
  have : ((applying false).planNest ((applying false).siteOf 1).1 2 none ((applying false).siteOf 1).2 1 (some 0) none 6).map (·.1) = some 0 := by decide
  rw [h] at this; exact Option.some.inj this) rfl])⟩⟩
theorem test_apply : after (.apply 9 7 8) (applying false) (fun t => t.greg 1 9 == 0 && ((t.cluOf 0).nests.map fun e => e.2.map (·.rows)) == [some [0]] && t.peek 0x220028 4 == 2) = true := by decide
theorem witness_CombinatorApplication_full : (applying true).planNest ((applying true).siteOf 1).1 2 none ((applying true).siteOf 1).2 1 (some 0) none 6 = none ∧ ((applying true).thrOf 1).nest = none ∧ ((applying true).thrOf 1).serves = none ∧ ({ gambit 0 with thr := [(0, { nest := some (5, 0) })] } : State).thrOf 0 = { nest := some (5, 0) } ∧
    Settled (applying true) ∧ (applying true).src 7 = .ok (2, applying true) := ⟨Option.isNone_iff_eq_none.mp (by decide), by decide, by decide, by decide, ⟨⟨rfl, rfl, .inr ⟨rfl, .inl rfl⟩⟩, by decide⟩, rfl⟩
theorem test_applyq_full : after (.applyq 9 7 8) (applying true) (fun t => t.greg 1 9 == 2 ^ 63 + 1) = true ∧ after (.apply 9 7 8) (applying true) (fun t => (t.ctlOf 1).wait == 13) = true := by decide
theorem test_apply_undefined : after (.apply 9 5 8) (applying false) (fun t => t.greg 1 9 == 2 ^ 63 + 4) = true ∧ after (.apply 9 6 8) (gambit 0) (fun t => (t.thrOf 0).trapG3 == 65536) = true := by decide
/-- Row 0 beside a nest of one leaf in row 3; g5 is its handle (and the name of its coroutine), g6 no handle. -/
def nested (g : GNode) (st : RowState) (me : Nat) : State :=
  { gambit 0 with mem := regs 0 [(5, 261), (6, 262), (7, 77)] |> fun m => mwrite m (rowAddr 3 + 8) (bytesOf 8 (2 ^ 50 + 6)), ctl := [(0, { state := .opened, pc := 0x200 }), (3, { state := st, pc := 0x300 })],
                  thr := [(0, {}), (3, { nest := some (5, 0) })], cur := { rid := me, pc := 0x200 },
                  core := [(0, { ports := [(0, some { row := me, phase := .running, busy := 0 })], itlb := pages, dtlb := pages, cs := { mbox := [(4, { owner := some 0 })] } })], clu := [(0, { nests := [(5, some (lone g))], nestSeq := 2 })] }
theorem w_live (g : GNode) (st : RowState) : Live (nested g st 0) 0 261 0 5 (lone g) := ⟨by decide, by decide, by decide, rfl, (show (1 : BitVec 23).toNat = 261 / 2 ^ 8 % 2 ^ 23 by decide), rfl⟩
theorem w_coro (co : CoState) (p : Option Nat) (st : RowState) : Coro (nested (leaf 2 co p) st 0) 0 261 0 5 (lone (leaf 2 co p)) 0 (leaf 2 co p) :=
  { live := w_live _ _, high := by decide, node := rfl, coro := rfl, inst := (show 0 = 261 / 2 ^ 44 by decide), created := .inl rfl, first := fun j _ h => absurd h (Nat.not_lt_zero j) }
theorem w_lone (st : RowState) (h : st = .exited ∨ st = .ready) : LoneLeaf (nested (leaf 1 .fresh none) st 0) 0 5 (lone (leaf 1 .fresh none)) (leaf 1 .fresh none) 4 0 := by
  rcases h with rfl | rfl <;>
  exact { record := rfl, only := rfl, leaf := ⟨rfl, rfl, rfl⟩, cluster := by decide, home := by decide, back := by decide, free := ⟨rfl, rfl, rfl, rfl⟩,
          inner := by intro e he m hm; simp [nested, State.cluOf, tget] at he; subst he; cases hm; exact ⟨rfl, rfl⟩,
          loaded := by decide, slot := by decide, other := by decide, nobody := by intro e he; simp [nested] at he; rcases he with rfl | rfl <;> decide,
          helpers := by decide, mine := by decide, table := w_hasTable 0 }
theorem w_settledNested : Settled (nested (leaf 1 .fresh none) .exited 0) ∧ Settled (nested (leaf 2 .yield none) .dormant 0) ∧ Settled (nested (leaf 2 .run none) .opened 3) ∧ InThread (nested (leaf 2 .yield none) .dormant 0) :=
  ⟨⟨⟨rfl, by decide, .inr ⟨rfl, .inl (by decide)⟩⟩, by decide⟩, ⟨⟨rfl, by decide, .inr ⟨rfl, .inl (by decide)⟩⟩, by decide⟩, ⟨⟨rfl, by decide, .inr ⟨rfl, .inl (by decide)⟩⟩, by decide⟩, ⟨rfl, rfl⟩⟩
theorem w_dead (g : GNode) (st : RowState) : ∀ k slot n, ¬ Live (nested g st 0) 0 262 k slot n := by
  intro k slot n h
  obtain ⟨-, hk, hs, h, -⟩ := h
  rw [show k = 0 by omega, show slot = 6 by omega, show ((nested g st 0).cluOf 0).nests = [(5, some (lone g))] from rfl] at h
  simp [tget] at h
theorem witness_CombinatorControl : ((nested (leaf 2 .yield none) .dormant 0).src 5 = .ok (261, nested (leaf 2 .yield none) .dormant 0) ∧ (nested (leaf 2 .yield none) .dormant 0).src 6 = .ok (262, nested (leaf 2 .yield none) .dormant 0) ∧ (nested (leaf 2 .yield none) .dormant 0).src 7 = .ok (77, nested (leaf 2 .yield none) .dormant 0)) ∧ ((leaf 2 .yield (some 0)).pending = some 0 ∧ (leaf 2 .yield (some 0)).co = .yield) ∧ ((leaf 2 .done none).pending ≠ some 0) ∧
    ((leaf 2 .yield none).pending = none ∧ ((nested (leaf 2 .yield none) .dormant 0).ctlOf 3).state = .dormant ∧ (nested (leaf 2 .yield none) .dormant 0).quiet = true ∧ ((nested (leaf 2 .yield none) .dormant 0).thrOf 0).deferred = [] ∧ (nested (leaf 2 .yield none) .dormant 0).dstOpen 9 = true) ∧
    ((nested (leaf 2 .run none) .opened 3).thrOf 3).nest = some (5, 0) ∧ tget none ((nested (leaf 2 .run none) .opened 3).cluOf 0).nests 5 = some (lone (leaf 2 .run none)) ∧ ((nested (leaf 2 .run none) .opened 3).thrOf 0).nest = none := ⟨⟨rfl, rfl, rfl⟩, by decide, by decide, by decide, rfl, rfl, rfl⟩
theorem test_nwait : after (.nwait 9 5) (nested (leaf 1 .fresh none) .ready 0) (fun t => (t.ctlOf 0).wait == 14) = true ∧ after (.nwait 9 6) (nested (leaf 1 .fresh none) .ready 0) (fun t => t.greg 0 9 == 0 && (t.ctlOf 0).pc == 0x204) = true := by decide
theorem test_nabort : after (.nabort 5) (nested (leaf 1 .fresh none) .ready 0) (fun t => (t.ctlOf 3).state == .null && ((t.cs 0).mbox.map fun e => e.2.msg) == [some (BitVec.ofNat 64 (4 * 2 ^ 56 + 0x0F * 2 ^ 48 + 0xFFFF))]) = true := by decide
theorem test_cresume : after (.cresume 9 5 7) (nested (leaf 2 .fresh none) .dormant 0) (fun t => (t.ctlOf 3).state == .ready && t.greg 3 4 == 77 && (t.ctlOf 0).wait == 14) = true ∧ after (.cresume 9 5 7) (nested (leaf 2 .yield (some 0)) .dormant 0) (fun t => t.greg 0 9 == 8) = true := by decide
theorem test_cyield : after (.cyield 9 5) (nested (leaf 2 .res none) .opened 3) (fun t => t.greg 3 9 == 9) = true ∧ after (.cyield 9 5) (nested (leaf 2 .run none) .opened 3) (fun t => t.cur.close == some .dormant) = true := by decide
/-- The step of the leaf's end. -/
def ending (st : RowState) : State := { nested (leaf 1 .fresh none) st 0 with sel := { unit := 0, sub := 3 } }
theorem witness_LeafEnds : ((ending .exited).ctlOf 3).state = .exited ∧ (ending .exited).drained 3 = true ∧ ((ending .ready).ctlOf 3).state ≠ .exited ∧ ((ending .ready).thrOf 0).nest = none := by decide
/-- The nest of `ending` after an abort: its row is NULL, and its record waits for its stores. -/
def aborted : State := { nested (leaf 1 .fresh none) .null 0 with sel := { unit := 0, sub := 3 }, clu := [(0, { nests := [(5, some { lone (leaf 1 .fresh none) with aborting := some (0x0F, 0xFFFF) })], nestSeq := 2 })] }
theorem witness_LeafEnds_abort : LoneLeaf aborted 0 5 { lone (leaf 1 .fresh none) with aborting := some (0x0F, 0xFFFF) } (leaf 1 .fresh none) 4 0 ∧ (aborted.cluOf 0).nests.length = 1 ∧ (aborted.ctlOf 3).state = .null :=
  ⟨{ record := rfl, only := rfl, leaf := ⟨rfl, rfl, rfl⟩, cluster := by decide, home := by decide, back := by decide, free := ⟨rfl, rfl, rfl, rfl⟩,
     inner := by intro e he m hm; simp [aborted, nested, State.cluOf, tget] at he; subst he; cases hm; exact ⟨rfl, rfl⟩,
     loaded := by decide, slot := by decide, other := by decide, nobody := by intro e he; simp [aborted, nested] at he; rcases he with rfl | rfl <;> decide,
     helpers := by decide, mine := by decide, table := w_hasTable 0 }, rfl, by decide⟩
theorem witness_LeafEnds_exit : ((ending .exited).thrOf 3).nest = some (5, 0) ∧ tget none ((ending .exited).cluOf 0).nests 5 = some (lone (leaf 1 .fresh none)) ∧ ((nested (leaf 2 .run (some 0)) .opened 3).thrOf 3).nest = some (5, 0) := ⟨rfl, rfl, rfl⟩
theorem test_leaf_exit : (((ending .exited).leafExit 3).cluOf 0).nests.map (fun e => e.2.map fun n => n.gnodes.map (·.exit)) = [some [num ((ending .exited).greg 3 1)]] := by decide
theorem test_abort_ends : after .leafEnd aborted (fun t => (t.cluOf 0).nests.all (fun e => e.2.isNone) && ((t.cs 0).mbox.map fun e => e.2.msg) == [some (BitVec.ofNat 64 (4 * 2 ^ 56 + 0x0F * 2 ^ 48 + 0xFFFF))]) = true := by decide
theorem test_leaf_end : after .leafEnd (ending .exited) (fun t => (t.cluOf 0).nests.all (fun e => e.2.isNone) && (t.ctlOf 3).state == .null && ((t.cs 0).mbox.map fun e => e.2.msg) == [some (BitVec.ofNat 64 (4 * 2 ^ 56 + 2 ^ 48 * 4 % 2 ^ 48 + 6))]) = true ∧ after .leafEnd (ending .ready) (fun t => (t.cluOf 0).nests.length == 1) = true := by decide
/-- R373, R384: the two pipes of a `SEQ` have their links in turn, so that both use the one link that the claim of the `SEQ` counts. -/
theorem test_apply_seq_links :
    let g : Nat → Option Nat → List Nat → GNode := fun k p c => { kind := k, entry := 0, parent := p, children := c }
    let r := wireTree [7] (fun _ => 0) 10 0 none none false (0, [g 3 none [1, 4], g 5 (some 0) [2, 3], g 1 (some 1) [], g 1 (some 1) [], g 5 (some 0) [5, 6], g 1 (some 4) [], g 1 (some 4) []])
    r.1 = 1 ∧ r.2.map (fun x => (x.inq, x.outq)) = [(none, none), (none, none), (none, some 7), (some 7, none), (none, none), (none, some 7), (some 7, none)] := by decide

/-! ### Witnesses: work and tenants -/

/-- A grid record of node 3 with one team of one thread (code 0x300, template 0x400, argument 77) that names node 5 as its successor; the same for a join. -/
abbrev gridRec : BitVec 512 := spec [3 * 2 ^ 48 + 2 ^ 24, 0x300, 0x400, 2 ^ 32 + 1, 77, 5, 0, 0]
abbrev joinRec : BitVec 512 := spec [3 * 2 ^ 48 + 2 * 2 ^ 28 + 2 ^ 24, 0, 0, 0, 0, 5, 0, 0]
/-- Row 0 of tenant 0, whose nodes are 0 to 5, with records in segments 1 (the grid), 2 (all ones), 3 (a grid whose successor is 6), 4 (a grid with a notice). -/
def launching (n : Nat) : State :=
  { row [] with mem := [(1, gridRec.toNat), (2, 2 ^ 512 - 1), (3, gridRec.toNat + 2 ^ 320), (4, gridRec.toNat + 2 ^ 23)].foldl (fun m e => mwrite m (rowAddr 0 + 320 + 64 * e.1) (bytesOf 64 e.2)) (regs 0 [(5, 3), (6, 9)]),
                ten := [(0, { noderange := 5 * 2 ^ 16, launchq := List.replicate n { record := gridRec, core := 0, tag := none } })] }
theorem w_validRecord : ValidRecord gridRec ∧ ValidRecord joinRec ∧ ¬ ValidRecord (BitVec.ofNat 512 (2 ^ 512 - 1)) :=
  ⟨⟨by decide, by decide, by decide, by decide, by decide, fun _ => by decide, fun h => absurd (by decide) h⟩, ⟨by decide, by decide, by decide, by decide, by decide, fun h => absurd h (by decide), fun _ => ⟨by rw [if_neg (by decide)]; decide, by decide, by decide⟩⟩, fun h => absurd h.1 (by decide)⟩
theorem witness_LaunchAndSignal : InThread (launching 0) ∧ Settled (launching 0) ∧ ((launching 0).seg 1 = .ok gridRec.toNat ∧ nodeOfRec (BitVec.ofNat 512 gridRec.toNat) :: succsOfRec (BitVec.ofNat 512 gridRec.toNat) = [3, 5]) ∧ (∃ x, (launching 0).seg 2 = .ok x) ∧ (∃ x, (launching 0).seg 3 = .ok x ∧ nodeOfRec (BitVec.ofNat 512 x) :: succsOfRec (BitVec.ofNat 512 x) = [3] ++ 6 :: []) ∧
    (InRange (launching 0) 0 3 ∧ InRange (launching 0) 0 5 ∧ ¬ InRange (launching 0) 0 6 ∧ ¬ InRange (launching 0) 0 9) ∧ (launching 0).vecBusy 0 = false ∧ (launching 0).slotFor 0 = some 0 ∧ 256 ≤ ((launching 256).tenOf 0).launchq.length ∧ ((launching 256).thrOf 0).claim ≠ 8 ∧ (launching 0).mayTake 0 (fun p => (launching 0).rowTenant p == 0) 8 256 = true ∧
    (launching 0).dstOpen 9 = true ∧ (launching 0).src 5 = .ok (3, launching 0) ∧ (launching 0).src 6 = .ok (9, launching 0) :=
  ⟨⟨rfl, rfl⟩, ⟨⟨rfl, rfl, .inr ⟨rfl, .inl rfl⟩⟩, by decide⟩, ⟨rfl, by decide⟩, ⟨_, rfl⟩, ⟨_, rfl, by decide⟩, by unfold InRange; decide, by decide, by decide, by decide, by decide, by decide, by decide, rfl, rfl⟩
/-- The full launch queue of a thread for which slot 4 is kept, with a record that asks for a notice. -/
def keptSlot : State := { launching 256 with core := [(0, { cs := { mbox := [(4, { owner := some 0, kept := true })] } })] }
theorem witness_LaunchAndSignal_kept : keptSlot.slotFor 0 = some 4 ∧ (keptSlot.cs 0).mbox.find? (fun e => e.1 == 4) = some (4, { owner := some 0, kept := true }) ∧ NobodyWaits keptSlot ∧ (∀ e ∈ ((launching 256).cs 0).mbox, e.2.kept = true → e.2.owner ≠ some 0) ∧ (∃ x, keptSlot.seg 4 = .ok x ∧ dwBits (BitVec.ofNat 512 x) 0 23 23 = 1) :=
  ⟨by decide, by decide, by intro e he; simp [keptSlot, launching, row] at he; subst he; decide, by decide, _, rfl, by decide⟩
theorem test_launch : after (.launch 1) (launching 0) (fun t => (t.tenOf 0).launchq == [{ record := gridRec, core := 0, tag := none }]) = true ∧ after (.launch 2) (launching 0) (fun t => (t.thrOf 0).trapCause == some .illegal) = true ∧ after (.launch 3) (launching 0) (fun t => (t.thrOf 0).trapCause == some .access && (t.thrOf 0).trapG3 == 6) = true := by decide
theorem test_launchq_full : after (.launchq 9 1) (launching 256) (fun t => t.greg 0 9 == 1 && (t.tenOf 0).launchq.length == 256) = true ∧ after (.launch 1) (launching 256) (fun t => (t.ctlOf 0).wait == 8) = true := by decide
theorem test_signal : after (.signal 5) (launching 0) (fun t => t.pkg.signals == [3]) = true ∧ after (.signal 6) (launching 0) (fun t => (t.thrOf 0).trapG3 == 9) = true := by decide
/-- Node 3 with a count, pending or free; a signal for it; and a record for it at the head of the launch queue. -/
def node (st : NodeState) (c : Int) (r : BitVec 512) : State :=
  { row [] with nodes := [(3, { state := st, count := c, record := r })], pkg := { ready0 := BitVec.allOnes 64, ready1 := BitVec.allOnes 64, signals := [3, 4] }, ten := [(0, { noderange := 5 * 2 ^ 16, launchq := [{ record := joinRec, core := 0, tag := some 4 }] })],
                core := [(0, { cs := { mbox := [(4, { owner := some 0 })] } })], sel := { unit := 0 } }
theorem witness_NodeSignalsAndInstalls : (row []).pkg.signals = [] ∧ (node .pending 1 joinRec).pkg.signals = 3 :: [4] ∧ ((node .pending 1 joinRec).nodeOf 3).state = .pending ∧ ((node .pending 1 joinRec).nodeOf 3).count = 1 ∧ ((node .free (-65536) 0).nodeOf 3).count = -65536 ∧ InRange (node .free 0 0) 0 3 ∧ ((row []).tenOf 0).launchq = [] ∧
    ((node .free 0 0).tenOf 0).launchq = { record := joinRec, core := 0, tag := some 4 } :: [] ∧ NobodyWaits (node .free 0 0) ∧ ((node .free 1 0).nodeOf 3).state = .free ∧ 0 < ((node .free 1 0).nodeOf 3).count + dwBits joinRec 0 47 32 ∧ ((node .free 0 0).nodeOf 3).count + dwBits joinRec 0 47 32 ≤ 0 ∧ kindOfRec joinRec ≠ 0 ∧
    ((node .ready 0 joinRec).nodeOf 3).state ≠ .free ∧ ((node .ready 0 joinRec).cs 0).mbox.find? (fun m => m.1 == 4) = some (4, { owner := some 0 }) :=
  ⟨by decide, by decide, by decide, by decide, by decide, by unfold InRange; decide, by decide, by decide, by intro e he; simp [node, row] at he; subst he; decide, by decide, by decide, by decide, by decide, by decide, by decide⟩
theorem test_signal_delivery : after .signalDelivery (node .pending 1 joinRec) (fun t => (t.nodeOf 3).state == .ready && tget [] (t.tenOf 0).ready 0 == [3] && t.pkg.signals == [4]) = true := by decide
theorem test_signal_lost : after .signalDelivery (node .free (-65536) 0) (fun t => (t.tenOf 0).lncherr == BitVec.ofNat 64 (2 ^ 48)) = true := by decide
theorem test_install : after .launchInstall (node .free 0 0) (fun t => (t.nodeOf 3).state == .ready && (t.tenOf 0).launchq == []) = true := by decide
theorem test_install_discards : after .launchInstall (node .ready 0 joinRec) (fun t => (t.tenOf 0).lncherr == BitVec.ofNat 64 (2 ^ 32 + 3) && ((t.cs 0).mbox.map fun e => e.2.msg) == [some (BitVec.ofNat 64 (4 * 2 ^ 56 + 0x21 * 2 ^ 48 + 3))]) = true := by decide
/-- Node 3 READY at the head of its queue; the template at 0x400 holds 0x55 in byte 33. -/
def ready (r : BitVec 512) (tlb : Bool) : State :=
  { row [] with mem := mset [] 0x421 0x55, nodes := [(3, { state := .ready, record := r })], ten := [(0, { ready := [(0, [3, 4])] })], core := [], clu := if tlb then [(0, { tlb := [hbmPage] })] else [], sel := { unit := 0 } }
abbrev nestRec : BitVec 512 := spec [3 * 2 ^ 48 + 2 ^ 28, 2, 0, 0, 0, 0, 0, 0]
/-- The grid dispatched with one team to go, or with a team in row 5 that has EXITED or not. -/
def running (st : RowState) : State :=
  { ready gridRec true with nodes := [(3, { state := .running, record := gridRec, tmpl := List.replicate 1024 0, slots0 := 1, slots := 1 })], ten := [(0, { grids := [3] })], sel := { unit := 0 },
                            ctl := [(0, { state := .opened, pc := 0x200 }), (5, { state := st, team := 2048 })], clu := [(0, { bars := [(2048 * 16, { arm := true, expect := 1 })] })],
                            teams := [{ node := 3, index := 0, slot := 0, order := 0, cluster := 0, number := 2048, blocks := [5], dlog := 0, since := 0, qpri := 0, tenant := 0 }] }
def unplaced : State := { running .exited with teams := [], sel := { unit := 3 }, ctl := [(0, { state := .opened, pc := 0x200 })] }
theorem witness_NodesAndTeams : ((ready gridRec true).roomFor 0 gridRec = some (0, 2048, [1]) ∧ dwBits gridRec 3 26 24 ≤ 5) ∧ ((ready joinRec true).tenOf 0).grids = [] ∧ tget [] ((ready joinRec true).tenOf 0).ready 0 = 3 :: [4] ∧ (∀ p, p < 4 → 0 < p → (tget [] ((ready joinRec true).tenOf 0).ready p : List Nat) = []) ∧ kindOfRec joinRec = 2 ∧
    (ready joinRec true).serviceChoice 0 = some (.head 3) ∧ (ready gridRec true).serviceChoice 0 = some (.head 3) ∧ (ready gridRec false).serviceChoice 0 = some (.head 3) ∧ (ready nestRec true).serviceChoice 0 = some (.head 3) ∧ (kindOfRec nestRec = 1 ∧ ((ready nestRec true).tenOf 0).gambase.getLsbD 0 = false ∧ ((ready nestRec true).nodeOf 3).tag = none) ∧
    (kindOfRec gridRec = 0 ∧ dwBits gridRec 3 63 32 = 1) ∧ ((ready gridRec true).template 0 0 (dw gridRec 2)).map List.length = some 1024 ∧ (ready gridRec false).template 0 0 (dw gridRec 2) = none ∧ (unplaced.serviceChoice 0 = some (.fresh 3) ∧ (unplaced.nodeOf 3).nextFresh = some (0, 0) ∧ unplaced.roomFor 0 gridRec = some (0, 2048, [1]) ∧ (unplaced.nodeOf 3).tmpl.length = 1024) ∧
    ((ready gridRec true).serviceChoice 0 ≠ some (.fresh 3)) ∧ ((running .exited).ctlOf 5).state = .exited ∧ (running .exited).drained 5 = true ∧ (running .exited).helperOf 5 = none ∧ ((running .ready).ctlOf 5).state ≠ .exited ∧ ((running .exited).nodeOf 3).ended + 1 = dwBits gridRec 3 63 32 ∧ 0 + 1 ≠ dwBits (spec [0, 0, 0, 2 * 2 ^ 32]) 3 63 32 := by decide
theorem test_join : after .nodeDispatch (ready joinRec true) (fun t => t.pkg.signals == [5] && (t.nodeOf 3).state == .free && tget [] (t.tenOf 0).ready 0 == [4]) = true := by decide
theorem test_grid : after .nodeDispatch (ready gridRec true) (fun t => t.ctlOf 1 == { state := .ready, team := 2048, pc := 0x300 } && t.greg 1 3 == 77 && mget t.mem (rowAddr 1 + 33) == 0x55 && t.barOf 0 (2048 * 16 + 15) == { arm := true, expect := 1 } && (t.tenOf 0).grids == [3]) = true := by decide
theorem test_grid_without_template : after .nodeDispatch (ready gridRec false) (fun t => (t.nodeOf 3).state == .free && (t.tenOf 0).lncherr == BitVec.ofNat 64 (2 ^ 32 + 3)) = true := by decide
theorem test_team_placement : after .teamPlacement unplaced (fun t => t.teams.map (·.blocks) == [[1]] && (t.ctlOf 1).state == .ready) = true := by decide
theorem test_team_end : after .teamEnd (running .exited) (fun t => (t.ctlOf 5).state == .null && t.teams == [] && t.pkg.signals == [5] && t.barOf 0 (2048 * 16) == {}) = true ∧ after .teamEnd (running .ready) (fun t => t.teams.length == 1) = true := by decide
/-- The team in row 5 whose slot has another team to come, after GRIDSLICE or before it, with room in the castle area or not. -/
def sliced (st : RowState) (since len : Nat) (castling : Bool) : State :=
  let s := running st
  { s with cycle := 2400000, nodes := [(3, { state := .running, record := spec [3 * 2 ^ 48, 0x300, 0x400, 2 * 2 ^ 32 + 1], tmpl := List.replicate 1024 0, bound := 1, slots0 := 1, slots := 1, taken := if castling then [(0, 1)] else [] })],
           ten := [(0, { grids := [3], castlelen := BitVec.ofNat 64 len })], teams := s.teams.map fun t => { t with since := since, castling := castling }, thr := [(5, { heldBy := some .castle, saved := .ready })], mem := mset [] (rowAddr 5 + 70) 9 }
/-- A castled team of row 5. -/
def castled : State :=
  let s := sliced .null 0 5000 true
  { s with mem := mwrite (mwrite (mset [] 70 9) 1024 (bytesOf 8 (8 * 2 ^ 60 + 2048 * 2 ^ 36) ++ bytesOf 8 0x300)) 1040 (bytesOf 8 ({ arm := true, expect := 1 } : BarWord).pack.toNat),
           teams := s.teams.map fun t => { t with image := some { thrs := [(5, { heldBy := some .castle, saved := .ready })], ss := List.replicate 16 false, streams := [], applies := [] } } }
theorem witness_Castling : (((sliced .ready 0 5000 false).teams[0]?.map fun t => (t.image.isNone, t.castling)) = some (true, false) ∧ 0 + (sliced .ready 0 5000 false).pkg.gridslice.toNat ≤ (sliced .ready 0 5000 false).cycle ∧ (sliced .ready 1 5000 false).cycle < 1 + (sliced .ready 1 5000 false).pkg.gridslice.toNat) ∧
    (∀ tm ∈ (sliced .ready 0 5000 false).teams, (sliced .ready 0 5000 false).slotWaits tm = true ∧ (sliced .ready 0 5000 false).castlePlace tm = some 0 ∧ (sliced .ready 0 100 false).castlePlace tm = none ∧ ((sliced .ready 0 5000 false).cluOf tm.cluster).holder = tm.tenant ∧ ((sliced .ready 0 5000 false).cluOf tm.cluster).switch = none ∧ tm.blocks.Nodup ∧ ∀ b ∈ tm.blocks, isBase b = false) ∧
    (∀ tm ∈ (sliced .held 0 5000 true).teams, tm.castling = true ∧ (∀ b ∈ tm.blocks, ((sliced .held 0 5000 true).ctlOf b).state = .held) ∧ (sliced .held 0 5000 true).teamBusy tm = false ∧ tm.place + 1168 ≤ 0x8000000000 ∧ (∀ o ∈ (sliced .held 0 5000 true).teams, o.image = none) ∧ ((sliced .held 0 5000 true).nodeOf tm.node).nextIn tm.slot = none ∧ tm.image = none) ∧
    (castled.serviceChoice 0 = some (.restore 0) ∧ ∀ tm ∈ castled.teams, tm.blocks = [5] ∧ tm.dlog = 0 ∧ tm.place + 1168 ≤ 0x8000000000 ∧ (ctlOfWords (mread castled.mem (tm.place + 1024) 8) (mread castled.mem (tm.place + 1032) 8)).state = .held ∧ ∀ m ∈ tm.image, m.thrs.find? (fun e => e.1 == 5) = some (5, { heldBy := some .castle, saved := .ready }) ∧ m.streams = []) := by decide
theorem test_castle_stops : after .castling (sliced .ready 0 5000 false) (fun t => (t.ctlOf 5).state == .held && t.teams.map (·.castling) == [true]) = true ∧ after .castling (sliced .ready 1 5000 false) (fun t => (t.ctlOf 5).state == .ready) = true := by decide
theorem test_castle_copies : after .castling (sliced .held 0 5000 true) (fun t => (t.ctlOf 5).state == .null && (t.teams.map fun x => x.image.map fun m => m.thrs.map (·.1)) == [some [5]] && mget t.mem 70 == 9) = true := by decide
theorem test_castle_restores : after .castleRestore castled (fun t => t.ctlOf 5 == { state := .ready, team := 2048, pc := 0x300 } && mget t.mem (rowAddr 5 + 70) == 9) = true := by decide
/-- Cluster 0 between tenants 1 (row 5 of core 1) and 2 (row 6 of core 8), whose octet tags say so; a switch from 1 to 2. -/
def shared (cyc : Nat) (w : Option Switch) : State :=
  { row [] with cycle := cyc, ctl := [(ridOf 1 5, { state := .ready }), (ridOf 8 6, { state := .ready })], core := [], oct := [(0, { tag := 1 }), (1, { tag := 2 })], ten := [(1, { tickets := 2 }), (2, { tickets := 4 })],
                clu := [(0, { holder := 1, passes := [(1, 7), (2, 5)], eligible := [1, 2], switch := w })], thr := [(ridOf 8 6, { saved := .blocked, heldBy := some .switch })] }
def switching (since n : Nat) (st : Bool) : Switch := { old := 1, new := 2, since := since, gang := false, stopped := st, doneCores := List.range n |>.map (· + 1) }
theorem witness_StrideScheduling : ((shared 1200000 none).tenOf 3).tickets = 0 ∧ ((shared 1200000 none).tenOf 1).tickets ≠ 0 ∧ ((shared 1200000 none).ctlOf (ridOf 1 5)).state = .ready ∧ (shared 1200000 none).rowTenant (ridOf 1 5) = 1 ∧ (shared 1200000 none).pkg.tslice = 1200000 ∧ (shared 1200000 none).cycle % 1200000 = 0 ∧ (shared 1200001 none).cycle % 1200000 ≠ 0 ∧
    ((shared 1200000 none).cluOf 0).choseAt ≠ some 1200000 ∧ ((shared 1200000 none).cluOf 0).switch = none ∧ (shared 1200000 none).isEligible 0 2 = true ∧ (∀ t, t < 64 → (shared 1200000 none).isEligible 0 t = true → t = 1 ∨ t = 2) ∧ (tget 0 ((shared 1200000 none).cluOf 0).passes 2 : Nat) < tget 0 ((shared 1200000 none).cluOf 0).passes 1 ∧ (∀ t, t < 64 → State.reset.isEligible 0 t = false) ∧
    ((shared 60000 (some (switching 0 0 false))).cluOf 0).switch = some (switching 0 0 false) ∧ (switching 0 0 false).since + 60000 ≤ 60000 ∧ 60000 < (switching 1 0 false).since + 60000 ∧ (shared 60000 (some (switching 0 0 true))).coreClosed 0 = true ∧ (row []).coreClosed 0 = false ∧ (switching 0 0 true).new ≠ ((shared 60000 none).coreOf 0).loaded ∧ 0 ∉ (switching 0 191 true).doneCores ∧ 191 ≤ (switching 0 191 true).doneCores.length := by decide
theorem witness_StrideScheduling_gang : (shared 1200000 none).gangHolder 0 = none := by decide
theorem witness_StrideScheduling_switch : ((shared 1200000 (some (switching 0 0 true))).cluOf 0).switch ≠ none ∧ ((shared 1200000 none).cluOf 0).next = none ∧ ((shared 1200000 none).cluOf 0).inGang = false ∧
    (∀ r, ((shared 60000 (some (switching 0 191 true))).thrOf r).undispatched = false) :=
  ⟨by decide, by decide, by decide, fun r => by
    by_cases h : r = ridOf 8 6
    · subst h; decide
    · have : ((shared 60000 (some (switching 0 191 true))).thrOf r) = {} := by simp [State.thrOf, shared, tget, Ne.symm h]
      rw [this]⟩
theorem test_stride_choice : after .strideChoice (shared 1200000 none) (fun t => (t.cluOf 0).switch == some { old := 1, new := 2, since := 1200000, gang := false, stopped := false } && (tget 0 (t.cluOf 0).passes 2 : Nat) == 5 + 2 ^ 18 && (t.cluOf 0).lastV == 5) = true := by decide
theorem test_switch_forced : after .switchForced (shared 60000 (some (switching 0 0 false))) (fun t => (t.ctlOf (ridOf 1 5)).state == .held && (t.ctlOf (ridOf 8 6)).state == .ready) = true := by decide
theorem test_switch_exchange : after .switchExchange { shared 60000 (some (switching 0 191 true)) with sel := { unit := 0 }, ctl := [(ridOf 8 6, { state := .held })] } (fun t => (t.cluOf 0).holder == 2 && (t.cluOf 0).switch == none && (t.ctlOf (ridOf 8 6)).state == .blocked && (t.coreOf 0).loaded == 2) = true := by decide
/-- A gang of tenant 2 on cluster 0 for one tick in two. -/
def ganged (cyc : Nat) (w : Option Switch) : State :=
  { shared cyc w with ten := [(2, { gangmask := BitVec.ofNat 64 (2 ^ 63 + 2 * 2 ^ 48 + 2 ^ 40 + 1) })] }
def gangSwitch (since : Nat) (lt : Bool) : Switch := { old := 1, new := 2, since := since, gang := true, stopped := true, late := lt }
/-- The same with every core of cluster 0 spilled and its die's load under way. -/
def dieLoading : State := { ganged 5000 (some (gangSwitch 0 false)) with core := (List.range 192).map fun i => (i, { spilled := true }), ctl := [(ridOf 8 6, { state := .held })], thr := [(ridOf 8 6, { saved := .blocked, heldBy := some .gang })], pkg := { dieLoads := [(0, 4000)] }, sel := { unit := 0 } }
theorem witness_GangMode : (ganged 2400000 none).cycle % (ganged 2400000 none).pkg.gtick.toNat = 0 ∧ (ganged 2400000 none).pkg.gangAt ≠ some 2400000 ∧ (ganged 2400001 none).cycle % (ganged 2400001 none).pkg.gtick.toNat ≠ 0 ∧ (((ganged 2400000 none).tenOf 2).gangmask.getLsbD 63 = true ∧ ((ganged 2400000 none).tenOf 2).gangmask.getLsbD 0 = true ∧ 2400000 / 1200000 % 2 < 1) ∧
    (∀ g, g < 2 → ((ganged 2400000 none).tenOf g).gangmask.getLsbD 63 = false) ∧ ((ganged 2400000 none).cluOf 0).switch = none ∧ ((ganged 2400000 none).cluOf 0).inGang = false ∧ ((ganged 100 (some (gangSwitch 0 false))).cluOf (clusterOf 0)).switch = some (gangSwitch 0 false) ∧ (ganged 100 (some (gangSwitch 0 false))).coreClosed 0 = true ∧ ((ganged 100 (some (gangSwitch 0 false))).coreOf 0).spilled = false := by decide
theorem witness_GangMode_dies : (ganged 4096 (some (gangSwitch 0 false))).dieSwitching 0 = [0] ∧ (ganged 4096 (some (gangSwitch 0 false))).dieSpilled 0 = false ∧ (∀ e, e < 16 → e ≠ 0 → (ganged 4096 (some (gangSwitch 0 false))).dieSwitching e = []) ∧ (gangSwitch 0 false).since + 4096 ≤ 4096 ∧ dieLoading.dieSpilled 0 = true ∧ dieLoading.dieSwitching 0 = [0] ∧ dieLoading.pkg.dieLoads.find? (fun e => e.1 == 0) = some (0, 4000) ∧
    (∀ k, k < 32 → ((row []).cluOf k).switch = none) ∧ (gangSwitch 0 true).since + 16384 ≤ 16384 := by decide
/-- Row 0 of core 1, running at rest for tenant 1 in a late gang switch. -/
def lateRow (p : Bool) : State :=
  { ganged 16384 (some (gangSwitch 0 true)) with ctl := [(ridOf 1 0, { state := .opened, pc := 0x200, p := p })], thr := [(ridOf 1 0, {})], core := [(1, { ports := [(0, some { row := 0, phase := .running, busy := 0 })] })], cur := { rid := ridOf 1 0, pc := 0x200 }, sel := { unit := 1, sub := 0 } }
theorem witness_GangMode_late (p : Bool) : AtRest (lateRow p) (stepRow (lateRow p)) ∧ (lateRow p).rowTenant (ridOf 1 0) = 1 ∧ ((lateRow p).ctlOf (ridOf 1 0)).p = p := by
  cases p <;> exact ⟨{ thread := by decide, running := by decide, chunk := by decide, whole := by decide, done := by decide, close := by decide, loads := by decide, vector := by decide }, by decide, by decide⟩
theorem test_gang_tick : after .gangTick (ganged 2400000 none) (fun t => (t.cluOf 0).inGang && (t.cluOf 0).strideSide == 1 && (t.cluOf 0).switch == some (gangSwitch 2400000 false) && (t.ctlOf (ridOf 1 5)).state == .held) = true := by decide
theorem test_gang_spill : after .gangSpill (ganged 100 (some (gangSwitch 0 false))) (fun t => (t.coreOf 0).spillAt == some 228) = true := by decide
theorem test_gang_die_load : after .gangDieLoad dieLoading (fun t => (t.cluOf 0).holder == 2 && (t.coreOf 191).loaded == 2 && (t.ctlOf (ridOf 8 6)).state == .blocked) = true := by decide
theorem test_gang_late : after .gangLate (ganged 4096 (some (gangSwitch 0 false))) (fun t => t.pkg.ganglate == BitVec.ofNat 64 (2 ^ 48)) = true := by decide
theorem test_gang_forced_stop : after .gangForcedStop (lateRow true) (fun t => (t.ctlOf (ridOf 1 0)).state == .held && (t.thrOf (ridOf 1 0)).trapCause == some .packet && (t.thrOf (ridOf 1 0)).undispatched) = true := by decide

/-! ### Witnesses: matrix units, near memory -/

/-- The pages of the sample core and one of its matrix queue window, at 0x30000. -/
def windowPages : List TlbEntry := pages ++ [⟨0, 0x30000, 65536, 0x10C00000000, 4, true, true, false, true, false, false, false, 0, 0, 65536, false, 65536⟩]
/-- Row 0 with g5 = 0x30000 and a matrix block in segment 1; `q` commands in the core's queue, `m` slots of its mailbox taken. -/
def pushing (b : BitVec 512) (q m : Nat) : State :=
  { row [] with mem := mwrite (regs 0 [(5, 0x30000)]) (rowAddr 0 + 384) (bytesOf 64 b.toNat),
                core := [(0, { ports := [(0, some { row := 0, phase := .running, busy := 0 })], itlb := pages, dtlb := windowPages, cs := { mq := List.replicate q { id := 7, block := spec [2, 0], rid := 0 }, mbox := (List.range m).map fun i => (i, { owner := some 1 }) } })] }
abbrev zeroBlock : BitVec 512 := spec [2, 64]
abbrev biasBlock : BitVec 512 := spec [5, 64, 0x1000]
abbrev signalBlock : BitVec 512 := spec [6, 3 + 3 * 16, 9]
theorem ok_of {ε α : Type} [DecidableEq α] {x : Except ε α} {y : α} (h : (match x with | .ok z => decide (z = y) | .error _ => false) = true) : x = .ok y := by
  cases x <;> simp_all
theorem w_window : (pushing zeroBlock 0 0).access 0x30000 64 .store = .ok (0x10C00000000, pushing zeroBlock 0 0) := ok_of (by decide)
theorem witness_MatrixPush : ((pushing zeroBlock 0 0).ctlOf 0).p = false ∧ AddressOf (pushing zeroBlock 0 0) (pushing zeroBlock 0 0) 0x30000 5 (.inl 0) ∧ (pushing zeroBlock 0 0).seg 1 = .ok zeroBlock.toNat ∧ (pushing zeroBlock 0 0).access 0x30000 64 .store = .ok (0x10C00000000, pushing zeroBlock 0 0) ∧ regionOf 0x10C00000000 = .coreMmio 0 0 ∧ Settled (pushing zeroBlock 0 0) := ⟨by decide, ⟨0x30000, rfl, rfl⟩, rfl, w_window, by decide, ⟨⟨rfl, rfl, .inr ⟨rfl, .inl rfl⟩⟩, by decide⟩⟩
theorem witness_MatrixPush_queue :
    blockOk (ctxAfter ((pushing zeroBlock 0 0).cs 0).mctx []) zeroBlock = true ∧ blockOk (ctxAfter ((pushing zeroBlock 0 0).cs 0).mctx []) (spec [2, 65]) = false ∧ (pushing zeroBlock 0 0).vecBusy 0 = false ∧ 8 ≤ ((pushing zeroBlock 8 0).cs 0).mq.length ∧ (pushing zeroBlock 0 0).mayTake 0 (onCore 0) 5 8 = true ∧
    (dwBits signalBlock 0 7 0 = 6 ∧ dwBits signalBlock 1 1 1 = 1 ∧ (pushing signalBlock 0 128).slotFor 0 = none ∧ (pushing signalBlock 0 0).slotFor 0 = some 0) ∧ (∃ l, (pushing zeroBlock 0 0).commandLocks 0 0 (fun _ => true) (cmdRanges (ctxAfter ((pushing zeroBlock 0 0).cs 0).mctx []) zeroBlock) (accLock 0 zeroBlock) = .ok l ∧ l = []) ∧ (∃ l, (pushing biasBlock 0 0).commandLocks 0 0 (fun _ => true) (cmdRanges (ctxAfter ((pushing biasBlock 0 0).cs 0).mctx []) biasBlock) (accLock 0 biasBlock) = .ok l ∧ l ≠ [] ∧ (pushing biasBlock 0 0).locksGrant 0 l.length = true) :=
  ⟨by decide, by decide, by decide, by decide, by decide, by decide, ⟨_, rfl, by decide⟩, ⟨_, rfl, by decide, by decide⟩⟩
theorem test_matrix_push : after (.vst 1 5 0) (pushing signalBlock 0 0) (fun t => ((t.cs 0).mq.map (·.tag)) == [some 0] && (t.cs 0).mbox == [(0, { owner := some 0 })]) = true ∧ after (.vst 1 5 0) (pushing (spec [2, 65]) 0 0) (fun t => (t.thrOf 0).trapCause == some .illegal && (t.thrOf 0).trapG3 == 0x30000) = true := by decide
theorem test_matrix_waits : after (.vst 1 5 0) (pushing zeroBlock 8 0) (fun t => (t.ctlOf 0).wait == 5) = true ∧ after (.vst 1 5 0) (pushing signalBlock 0 128) (fun t => (t.ctlOf 0).wait == 3) = true := by decide
/-- Core 0 with one command in its matrix queue and a mailbox slot of row 0; the accumulator in rows 64 to 67, HBM translated for the cluster. -/
def matrix (b : BitVec 512) : State :=
  { row [] with mem := mwrite [] (rowAddr 64 + 132) (bytesOf 4 0x3F800000), core := [(0, { cs := { mq := [{ id := 7, block := b, rid := 0, tag := some 4 }], mbox := [(4, { owner := some 0 })] } })], clu := [(0, { tlb := [hbmPage] })], sel := { unit := 0 } }
theorem w_headRuns (b : BitVec 512) (c : Nat) (h : dwBits b 0 7 0 = c) (hw : dwBits b 0 20 20 = 0) : HeadRuns (matrix b) 0 c { id := 7, block := b, rid := 0, tag := some 4 } [] :=
  { queue := rfl, kind := h, noBar := rfl, power := rfl, noWait := hw, onPackage := by decide, clean := rfl, nobody := by intro e he; simp [matrix, row] at he; subst he; decide, held := (show _ = (matrix 0).writeHeld 7 from rfl).trans (by decide), locked := (show _ = (matrix 0).lateFor 0 7 from rfl).trans (by decide), notBusy := (show _ = ((row []).octOf 0).busy from rfl).trans (by decide) }
theorem w_accNull (b : BitVec 512) (h : dwBits b 1 10 0 = 64) : AccNull (matrix b) 0 b := by
  unfold AccNull
  rw [h]
  exact ⟨by decide, fun i hi => by
    have : i = 0 ∨ i = 1 ∨ i = 2 ∨ i = 3 := by omega
    rcases this with rfl | rfl | rfl | rfl <;> exact (show _ = ((row []).ctlOf _).state from rfl).trans (by decide)⟩
theorem w_matrixMaps (b : BitVec 512) (va n : Nat) (w : Bool) (h : va < 65536) (hn : va + n ≤ 0x8000000000) : Maps (matrix b) 0 0 va va n w :=
  ⟨by omega, hn, by simp only [State.assigned, regionOf, show va < 0x8000000000 by omega, if_true]; rw [show (matrix b).stackReady (0 / 4) = true from (show _ = (row []).stackReady 0 from rfl).trans (by decide), show (matrix b).allHbmReady = true from (show _ = (row []).allHbmReady from rfl).trans (by decide)]; rfl,
    hbmPage, by simp [matrix, State.cluOf, tget, h], by simp, rfl, rfl, by cases w <;> decide⟩
/-- One K-block of E4M3, K along the line of both, lines of 32 bytes at 0x1000 and 0x2000; the output of FP32 lines of 128 bytes at 0x3000. -/
abbrev mmaBlock : BitVec 512 := spec [3, 2 ^ 16 + 64, 0x1000, 2 ^ 32 * 0 + 32, 0x2000, 2 ^ 32 + 32]
abbrev outBlock : BitVec 512 := spec [4, 64 + 2 ^ 21, 0x3000, 128]
theorem witness_MatrixCommands : ((row []).cs 0).mq = [] ∧ (dwBits zeroBlock 0 7 0 = 2 ∧ dwBits zeroBlock 0 7 0 ≠ 1) ∧ HeadRuns (matrix (spec [1, 3 + 3 * 16])) 0 1 { id := 7, block := spec [1, 3 + 3 * 16], rid := 0, tag := some 4 } [] ∧ HeadRuns (matrix zeroBlock) 0 2 { id := 7, block := zeroBlock, rid := 0, tag := some 4 } [] ∧ AccNull (matrix zeroBlock) 0 zeroBlock ∧
    HeadRuns (matrix biasBlock) 0 5 { id := 7, block := biasBlock, rid := 0, tag := some 4 } [] ∧ AccNull (matrix biasBlock) 0 biasBlock ∧ (∀ u, u < 8 → Maps (matrix biasBlock) 0 0 (dw biasBlock 2 + 16 * u) (0x1000 + 16 * u) 16 false) ∧ HeadRuns (matrix mmaBlock) 0 3 { id := 7, block := mmaBlock, rid := 0, tag := some 4 } [] ∧ AccNull (matrix mmaBlock) 0 mmaBlock ∧
    (((matrix mmaBlock).cs 0).mctx.afmt = 3 ∧ ((matrix mmaBlock).cs 0).mctx.bfmt = 3 ∧ ((matrix mmaBlock).cs 0).mctx.asm = 0 ∧ dwBits mmaBlock 3 32 32 = 0 ∧ dwBits mmaBlock 5 32 32 = 1 ∧ dwBits mmaBlock 1 23 16 = 1 ∧ dwBits mmaBlock 3 31 0 = 32 ∧ dwBits mmaBlock 5 31 0 = 32) ∧
    (∀ l u, l < 32 → u < 2 → Maps (matrix mmaBlock) 0 0 (unitAt 0x1000 32 0 l u) (unitAt 0x1000 32 0 l u) 16 false ∧ Maps (matrix mmaBlock) 0 0 (unitAt 0x2000 32 0 l u) (unitAt 0x2000 32 0 l u) 16 false) ∧
    HeadRuns (matrix signalBlock) 0 6 { id := 7, block := signalBlock, rid := 0, tag := some 4 } [] ∧ SlotHeld (matrix signalBlock) 0 0 4 0 := by
  refine ⟨by decide, by decide, w_headRuns _ _ (by decide) (by decide), w_headRuns _ _ (by decide) (by decide), w_accNull _ (by decide), w_headRuns _ _ (by decide) (by decide), w_accNull _ (by decide), fun u h => ?_, w_headRuns _ _ (by decide) (by decide), w_accNull _ (by decide), by decide, fun l u hl hu => ?_, w_headRuns _ _ (by decide) (by decide), ⟨by decide, by decide⟩⟩
  · rw [show dw biasBlock 2 = 0x1000 by decide]; exact w_matrixMaps _ _ _ _ (by omega) (by omega)
  · have hx : u ^^^ (l % 2 ^ 0) < 2 ^ 1 := Nat.xor_lt_two_pow (by omega) (by omega)
    unfold unitAt
    exact ⟨w_matrixMaps _ _ _ _ (by omega) (by omega), w_matrixMaps _ _ _ _ (by omega) (by omega)⟩
theorem test_mfmt : after .mfmt (matrix (spec [1, 3 + 4 * 16 + 2 ^ 12])) (fun t => (t.cs 0).mctx == { afmt := 3, bfmt := 4, sat := true } && (t.cs 0).mq == [] && (t.cs 0).mqDone == 1) = true := by decide
theorem test_mzero : after .mzero (matrix zeroBlock) (fun t => t.peek (rowAddr 64 + 132) 4 == 0) = true ∧ after .mout (matrix zeroBlock) (fun t => (t.cs 0).mq.length == 1) = true := by decide
theorem test_msignal : after .msignal (matrix signalBlock) (fun t => tget 0 (t.cs 0).tbs 3 == (1 : BitVec 16) && ((t.cs 0).mbox.map fun e => e.2.msg) == [some (BitVec.ofNat 64 (4 * 2 ^ 56 + 9))]) = true := by decide
theorem witness_MatrixOutput : HeadRuns (matrix outBlock) 0 4 { id := 7, block := outBlock, rid := 0, tag := some 4 } [] ∧ AccNull (matrix outBlock) 0 outBlock ∧ (dwBits outBlock 1 18 16 = 0 ∧ laneBits 0 / 4 = 8 ∧ dw outBlock 2 = 0x3000 ∧ dw outBlock 3 = 128) ∧ (∀ l u, l < 32 → u < 8 → Maps (matrix outBlock) 0 0 (0x3000 + l * 128 + 16 * u) (0x3000 + l * 128 + 16 * u) 16 true) :=
  ⟨w_headRuns _ _ (by decide) (by decide), w_accNull _ (by decide), by decide, fun l u hl hu => w_matrixMaps _ _ _ _ (by omega) (by omega)⟩
theorem test_mout : after .mout (matrix outBlock) (fun t => t.peek (0x3000 + 128 + 4) 4 == 0x3F800000 && t.peek (rowAddr 64 + 132) 4 == 0) = true := by decide
/-- Row 0 with near-bank specifications in segments 1 (a fill of 4 dwords) and 2 (all ones), and an entry 3 of base-die core 0 for tenant 0; `m` slots taken, `n` requests queued. -/
abbrev fillSpec : BitVec 512 := spec [2 + 3 * 2 ^ 24, 0x1000, 0, 0, 4, 0x77]
def near (m n : Nat) : State :=
  { row [] with mem := mwrite (mwrite (regs 0 [(5, 3), (6, 4)]) (rowAddr 0 + 384) (bytesOf 64 fillSpec.toNat)) (rowAddr 0 + 448) (bytesOf 64 (2 ^ 512 - 1)), core := [(0, { ports := [(0, some { row := 0, phase := .running, busy := 0 })], itlb := pages, dtlb := pages, cs := { mbox := (List.range m).map fun i => (i, { owner := some 1 }) } })],
                clu := [(0, { tlb := [hbmPage] })], bdc := [(0, { nhtab := [(3, (0x301, 0))], inq := List.replicate n (0, 0, 3, 0, 0) })] }
theorem witness_NearWords : InThread (near 0 0) ∧ MayBeAlone (near 0 0) ∧ ((near 0 0).seg 1 = .ok fillSpec.toNat ∧ nbSpecOk fillSpec = true) ∧ (∃ x, (near 0 0).seg 2 = .ok x ∧ nbSpecOk (BitVec.ofNat 512 x) = false) ∧ (near 0 0).vecBusy 0 = false ∧ (near 0 0).drained 0 = true ∧ (near 128 0).slotFor 0 = none ∧ (near 0 0).slotFor 0 = some 0 ∧ (∃ l, (near 0 0).commandLocks 0 0 (fun l => isBankLinear l.lo) (nbRanges fillSpec) [] = .ok l) ∧
    (near 0 0).dstOpen 9 = true ∧ ((near 0 0).src 5 = .ok (3, near 0 0) ∧ (near 0 0).src 6 = .ok (4, near 0 0)) ∧ ((tget (0, 0) ((near 0 0).bdcOf 0).nhtab 3 : W × W).1.getLsbD 0 = true ∧ (tget (0, 0) ((near 0 0).bdcOf 0).nhtab 4 : W × W).1.getLsbD 0 = false) ∧ Settled (near 0 0) ∧
    (near 0 0).mayTake 0 (fun _ => true) 0x1B 64 = true ∧ (near 0 64).mayTake 0 (fun _ => true) 0x1B (64 - ((near 0 64).bdcOf 0).inq.length) = false :=
  ⟨⟨rfl, rfl⟩, ⟨rfl, by decide, .inr ⟨rfl, .inl (by decide)⟩⟩, ⟨rfl, by decide⟩, ⟨_, rfl, by decide⟩, by decide, by decide, by decide, by decide, ⟨_, rfl⟩, by decide, ⟨rfl, rfl⟩, by decide, ⟨⟨rfl, by decide, .inr ⟨rfl, .inl (by decide)⟩⟩, by decide⟩, by decide, by decide⟩
theorem test_nbcmd : after (.nbcmd 9 1) (near 0 0) (fun t => t.greg 0 9 == 302 && ((tget [] t.banks 0).map fun c => (c.tag, c.rid)) == [(0, 0)]) = true ∧ after (.nbcmd 9 2) (near 0 0) (fun t => (t.thrOf 0).trapCause == some .illegal) = true := by decide
theorem test_nhsend : after (.nhsend 5 1) (near 0 0) (fun t => ((t.bdcOf 0).inq.map fun e => (e.1, e.2.2.1)) == [(fillSpec, 3)]) = true ∧ after (.nhsend 6 1) (near 0 0) (fun t => (t.thrOf 0).trapCause == some .access && (t.thrOf 0).trapG3 == 4) = true := by decide
/-- Bank 2 with one command of row 0, which has started, and its slot. -/
def banked (l : List Nat) (pos : Nat) (m : Mem) : State :=
  { row [] with mem := m, core := [(0, { cs := { mbox := [(4, { owner := some 0 })] } })], clu := [(0, { tlb := [hbmPage] })], banks := [(2, [{ id := 7, rid := 0, tenant := 0, tag := 4, spec := spec l, started := true, dst := 0x1000, srcA := 0x2000, srcB := 0x3000, pos := pos }])], sel := { unit := 2 } }
def nbOf (l : List Nat) (pos : Nat) : NbCmd := { id := 7, rid := 0, tenant := 0, tag := 4, spec := spec l, started := true, dst := 0x1000, srcA := 0x2000, srcB := 0x3000, pos := pos }
abbrev macSpec : List Nat := [0, 0x1000, 0x2000, 0x3000, 2]
abbrev redSpec : List Nat := [1, 0x1000, 0x2000, 0, 2 ^ 34 + 2]
abbrev bankFill : List Nat := [2 + 3 * 2 ^ 24, 0x1000, 0, 0, 2, 0x77]
abbrev bankCopy : List Nat := [3, 0x1000, 0x2000, 0, 32]
theorem witness_NearSteps (m : Mem) : (BankRuns (banked macSpec 1 m) 2 0 (nbOf macSpec 1) ∧ dwBits (spec macSpec) 0 43 43 = 0 ∧ 1 < dwBits (spec macSpec) 4 31 0) ∧ BankRuns (banked redSpec 1 m) 2 1 (nbOf redSpec 1) ∧ (BankRuns (banked bankFill 1 m) 2 2 (nbOf bankFill 1) ∧ dwBits (spec bankFill) 0 26 24 ≤ 3) ∧ (BankRuns (banked bankCopy 1 m) 2 3 (nbOf bankCopy 1) ∧ 16 * 1 < dwBits (spec bankCopy) 4 31 0) ∧
    tget [] (banked bankCopy 1 m).banks 3 = [] ∧ dwBits (spec bankCopy) 0 7 0 ≠ 0 ∧ NobodyWaits (banked macSpec 1 m) ∧ SlotHeld (banked macSpec 1 m) 0 0 4 0 :=
  ⟨⟨⟨rfl, rfl, by decide, rfl, Nat.zero_le _, rfl⟩, by decide, by decide⟩, ⟨rfl, rfl, by decide, rfl, Nat.zero_le _, rfl⟩, ⟨⟨rfl, rfl, by decide, rfl, Nat.zero_le _, rfl⟩, by decide⟩, ⟨⟨rfl, rfl, by decide, rfl, Nat.zero_le _, rfl⟩, by decide⟩, rfl, by decide, by intro e he; simp [banked, row] at he; subst he; decide, ⟨rfl, rfl⟩⟩
/-- The same command before its start, its operand in interleaved HBM; and a base-die core with a request. -/
def starting : State := { banked bankFill 0 [] with banks := [(2, [{ nbOf bankFill 0 with started := false }])], bdc := [(2, { nhtab := [(3, (0x301, 0))], inq := [(0x99, 5, 3, 4, 0)] })] }
theorem witness_NearSteps_start : tget [] starting.banks 2 = [{ nbOf bankFill 0 with started := false }] ∧ SlotHeld starting 0 0 4 0 ∧ (starting.bdcOf 2).run = none ∧ (starting.bdcOf 2).inq = (0x99, 5, 3, 4, 0) :: [] ∧ ((row []).bdcOf 2).inq = [] := ⟨by decide, ⟨rfl, rfl⟩, by decide, by decide, by decide⟩
theorem witness_NearSteps_page : Maps starting 0 0 0x1000 0x1000 8 true := ⟨by decide, by decide, by simp only [State.assigned, regionOf, show 0x1000 < 0x8000000000 by decide, if_true]; rw [show starting.stackReady (0 / 4) = true by decide, show starting.allHbmReady = true by decide]; rfl, hbmPage, by decide, by decide, rfl, rfl, by decide⟩
theorem test_nbmac : after .nbmac (banked macSpec 1 [(0x1006, 0x80), (0x1007, 0x3F), (0x2003, 0x40), (0x3002, 0x40), (0x3003, 0x40)]) (fun t => t.peek 0x1004 4 == 0x40E00000 && ((t.cs 0).mbox.map fun e => e.2.msg) == [some (BitVec.ofNat 64 (4 * 2 ^ 56))]) = true := by decide
theorem test_nbred : after .nbred (banked redSpec 1 [(0x2006, 0x80), (0x2007, 0x3F)]) (fun t => t.peek 0x1000 4 == 0x3F800000 && ((t.cs 0).mbox.map fun e => e.2.msg) == [some (BitVec.ofNat 64 (4 * 2 ^ 56 + 0x3F800000))]) = true := by decide
theorem test_nbfill : after .nbfill (banked bankFill 1 []) (fun t => t.peek 0x1008 8 == 0x77) = true ∧ after .nbfill starting (fun t => t.peek 0x1000 8 == 0 && ((t.cs 0).mbox.map fun e => e.2.msg) == [some (BitVec.ofNat 64 (4 * 2 ^ 56 + 0x25 * 2 ^ 48))]) = true := by decide
theorem test_nbcopy : after .nbcopy (banked bankCopy 1 [(0x2011, 9)]) (fun t => t.peek 0x1011 1 == 9 && tget [] t.banks 2 == []) = true := by decide
theorem test_handler_start : after .nhHandlerStart starting (fun t => (t.ctlOf (baseRid + 2)).pc == 0x300 && t.greg (baseRid + 2) 1 == 5 && t.rowGet (baseRid + 2) 320 64 == 0x99 && (t.bdcOf 2).inq == []) = true := by decide

/-! ### Witnesses: the platform -/

/-- A package about which a step is. -/
def platform (p : Package) (x : Sel) : State := { row [] with core := [], pkg := p, sel := x }
def allReady : Package := { ready0 := BitVec.allOnes 64, ready1 := BitVec.allOnes 64, firmware := some 0 }
/-- Tenants 3 (two clusters, admitted first) and 2 (31 clusters). -/
def minima (x : Sel) : State := { platform allReady x with ten := [(3, { tenmin := 2, admission := 1 }), (2, { tenmin := 31, admission := 2 })] }
theorem witness_FirmwareAndReadiness : State.reset.pkg.firmware = none ∧ (platform allReady {}).pkg.firmware ≠ none ∧ State.reset.pkg.lmsUsed < 1048576 ∧ 1048576 ≤ (platform { lmsUsed := 1048576 } {}).pkg.lmsUsed ∧ (minima { unit := 0, sub := 5 }).sel.sub < 40 ∧ (minima { unit := 0, sub := 5 }).pkg.ready0.getLsbD 5 ≠ false ∧ (minima {}).pkg.ready0.getLsbD 41 = true ∧
    (∀ u, u ∈ [3, 2] ↔ u < 64 ∧ ((minima {}).tenOf u).tenmin ≠ 0) ∧ [3, 2].Pairwise (fun u v => ((minima {}).tenOf u).admission.toNat < ((minima {}).tenOf v).admission.toNat) := by
  refine ⟨by decide, by decide, by decide, by decide, by decide, by decide, by decide, fun u => ?_, by decide⟩
  by_cases h3 : u = 3
  · subst h3; decide
  · by_cases h2 : u = 2
    · subst h2; decide
    · simp [h3, h2, minima, State.tenOf, tget, Ne.symm h3, Ne.symm h2]
theorem test_minima_degrade : after .functionRetire (minima { unit := 0, sub := 5 }) (fun t => !(t.tenOf 3).deg && (t.tenOf 2).deg && (t.pkg.hfrHeld.map fun r => (r.ty, r.ten)) == [(9, 2)]) = true := by decide
theorem test_function_waits_for_firmware : after .functionReady (platform {} { unit := 0, sub := 3 }) (fun t => t.pkg.ready0 == 0) = true ∧ after .functionReady (platform { firmware := some 0 } { unit := 0, sub := 3 }) (fun t => t.pkg.ready0 == 8) = true := by decide
theorem test_spdm_exhausted : after .spdmRequest (platform { lmsUsed := 1048576 } {}) (fun t => t.pkg.spdmLog == [none]) = true := by decide
/-- A package whose elevators 0 to 3 (all of stack 0), or only 0, are ready; octet 0 goes over 0 and 2, and holds a released packet sent toward elevator 1. -/
def elevators (r : Nat) (mode : BitVec 8) (x : Sel) : State :=
  { platform { ready0 := BitVec.allOnes 64, ready1 := BitVec.ofNat 64 r, fnmode := mode } x with oct := [(0, { route := some (0, 2), hub := [(4, some { rid := 0, dest := 5, hdr := 7, released := true, via := some 1 })] })] }
theorem witness_ElevatorsAndLinks : (elevators 15 0 {}).pkg.ready1.getLsbD 0 = true ∧ (elevators 14 0 {}).pkg.ready1.getLsbD 0 = false ∧ OtherElevator (elevators 15 0 {}) 0 ∧ ¬ OtherElevator (elevators 1 0 {}) 0 ∧ (elevators 15 0 {}).routeOf 0 = (0, 2) ∧ 0 / 96 = 0 / 4 ∧ (elevators 15 32 {}).pkg.fnmode.getLsbD 5 = true ∧ (elevators 15 0 {}).pkg.fnmode.getLsbD 5 = false ∧
    (elevators 13 0 {}).unacked[0]? = some (0, some 1) ∧ (elevators 13 0 {}).pkg.ready1.getLsbD 1 = false ∧ (elevators 15 0 {}).pkg.ready1.getLsbD 1 = true := by
  refine ⟨by decide, by decide, ⟨1, by decide⟩, ?_, by decide, by decide, by decide, by decide, by decide, by decide, by decide⟩
  rintro ⟨x, hx, h0, hr⟩
  have : x = 1 ∨ x = 2 ∨ x = 3 := by omega
  rcases this with rfl | rfl | rfl <;> exact absurd hr (by decide)
theorem test_elevator_retires : after .elevatorRetire (elevators 15 0 { unit := 0 }) (fun t => t.routeOf 0 == (2, 1) && t.pkg.ready1 == 14) = true ∧ after .elevatorRetire (elevators 1 0 { unit := 0 }) (fun t => t.pkg.ready0 == BitVec.ofNat 64 (2 ^ 64 - 16)) = true := by decide
theorem test_elevator_host : after .elevatorRetire (elevators 15 32 { unit := 0 }) (fun t => t.routeOf 0 == (0, 2) && (t.pkg.hfrHeld.map (·.ty)) == [6]) = true := by decide
theorem test_packet_retry : after .packetRetry (elevators 13 0 { unit := 0 }) (fun t => (t.unacked.map (·.2)) == [some 0]) = true := by decide
theorem test_flit_retry : after .flitRetry (platform { ready0 := BitVec.allOnes 64, flitRetries := [(3, 15)] } { unit := 3 }) (fun t => !t.pkg.ready0.getLsbD 43 && tget 0 t.pkg.flitRetries 3 == 0) = true := by decide
theorem test_wavelength : after .wavelengthDrop (platform { ready0 := BitVec.allOnes 64, lambdas := (List.range 12).map fun i => (i, if i = 0 then 0xFFFFFE else 0xFFFFFF) } { unit := 0, sub := 0 }) (fun t => !t.pkg.ready0.getLsbD 40 && t.pkg.ready0.getLsbD 41) = true := by decide
/-- The host at an address. -/
def hosting (pa n : Nat) (w win : Bool) (v : Nat) : State := { platform allReady { unit := pa, sub := n, flag := w, flag2 := win, data := BitVec.ofNat 64 v } with mem := mwrite [] 0x1000 [9, 8], uncorr := [0x2000] }
/-- A held record and a ring of two entries, one of them free or none. -/
def ringing (full : Bool) : State := platform { hfrbase := BitVec.ofNat 64 (0x20000000000 + 1), hfrtail := 1, hfrhead := if full then -1 else 0, hfrHeld := [{ ty := 9, ten := 2, rid := 7, payload := [5] }], hfrOpen := [(7, .bar 0)] } { unit := 7 }
theorem witness_HostLink : HbmBytes (hosting 0x1000 8 false true 0) 0x1000 8 ∧ (hosting 0x1000 8 false true 0).uncorrAt 0x1000 8 = none ∧ (hosting 0x2000 8 false true 0).uncorrAt 0x2000 8 ≠ none ∧ (platform {} { unit := 0x1000, sub := 8 }).pkg.ready0.getLsbD 56 = false ∧ (1000 ≤ (hosting (0x1F000000000 + 0xA0) 8 true true 2000).sel.data.toNat % 65536) ∧
    ((ringing false).pkg.hfrHeld = { ty := 9, ten := 2, rid := 7, payload := [5] } :: [] ∧ (ringing false).pkg.hfrbase.toNat % 32 = 1 ∧ ((ringing false).pkg.hfrtail - (ringing false).pkg.hfrhead).toNat < 2 ∧ 2 ≤ ((ringing true).pkg.hfrtail - (ringing true).pkg.hfrhead).toNat ∧ (ringing false).pkg.hfrbase.toNat / 64 % 2 ^ 51 * 64 + 64 * (1 % 2) = 0x20000000040) ∧
    (ringing false).pkg.hfrOpen.find? (fun e => e.1 == 7) = some (7, .bar 0) ∧ ((platform {} {}).pkg.hfrHeld = []) :=
  ⟨⟨(by decide : 0x1000 + 8 ≤ 0x8000000000), by decide, by decide, fun i h h' => (show _ = (BitVec.allOnes 64).getLsbD i from rfl).trans (by rw [BitVec.getLsbD_allOnes]; exact decide_eq_true (by omega))⟩, by decide, by decide, by decide, by decide, by decide, by decide, by decide⟩
theorem witness_HostLink_answer : AnswerFor { ringing false with ten := [(0, { bar := [{ what := .matrix 0, cause := .page, va := 0, record := some 7 }] })] } 0 0 { what := .matrix 0, cause := .page, va := 0, record := some 7 } :=
  ⟨rfl, rfl, fun j _ h => absurd h (Nat.not_lt_zero j)⟩
theorem test_host_reads : after .hostAccess (hosting 0x1000 8 false true 0) (fun t => t.pkg.hostReplies == [.data 0x809]) = true ∧ after .hostAccess (hosting 0x2000 8 false true 0) (fun t => t.pkg.hostReplies == [.abort]) = true := by decide
theorem test_host_writes : after .hostAccess (hosting 0x1000 2 true true 7) (fun t => t.peek 0x1000 8 == 7 && t.pkg.hostReplies == [.done]) = true ∧ after .hostAccess (hosting (0x1F000000000 + 0xA0) 8 true true 2000) (fun t => t.pkg.pwrcap == 2000) = true := by decide
theorem test_hfr_record : after .hfrRecord (ringing false) (fun t => t.peek 0x20000000040 8 == 9 * 2 ^ 56 + 2 * 2 ^ 48 + 7 * 2 ^ 32 && t.peek 0x20000000048 8 == 5 && t.pkg.hfrtail == 2) = true ∧ after .hfrRecord (ringing true) (fun t => t.pkg.hfrtail == 1) = true := by decide
theorem test_hfrresp : after .hfrrespServiced { ringing false with ten := [(0, { bar := [{ what := .matrix 0, cause := .page, va := 0, record := some 7 }] })] } (fun t => ((t.tenOf 0).bar.map (·.served)) == [true] && t.pkg.hfrOpen == []) = true := by decide
/-- A request of package 5. -/
def asked (r : FabReq) : State := { hosting 0 0 false false 0 with sel := { unit := 5, req := r }, ctl := [(9, { state := .ready })], oct := [(0, { tag := 1 })], core := [(0, { cs := { rxq := [] } })] }
theorem witness_FabricRequests (r : FabReq) : ((asked r).sel.unit < 320 ∧ (asked r).sel.unit ≠ (asked r).pkg.pkgid.toNat) ∧ (asked r).sel.req = r ∧ HbmBytes (asked r) 0x1000 8 ∧ (asked r).uncorrAt 0x1000 8 = none ∧ (asked r).uncorrAt 0x2000 8 ≠ none ∧ regionOf (rowAddr 9) = .rowStore 9 0 ∧ (asked r).assigned none (rowAddr 9) = true ∧ ((asked r).octOf (hubOf 9)).tag.toNat ≠ 2 ∧
    ((asked r).ctlOf 9).state = .ready ∧ ((asked r).ctlOf 8).state = .null ∧ rxFlits ((asked r).csRow 9).rxq + 1 + 8 ≤ 64 ∧ 320 ≤ ({ asked r with sel := { unit := 320 } } : State).sel.unit ∧ NobodyWaits (asked r) :=
  ⟨⟨by show 5 < 320; decide, by show 5 ≠ (0 : BitVec 9).toNat; decide⟩, rfl, ⟨(by decide : 0x1000 + 8 ≤ 0x8000000000), by decide, by decide, fun i h h' => (show _ = (BitVec.allOnes 64).getLsbD i from rfl).trans (by rw [BitVec.getLsbD_allOnes]; exact decide_eq_true (by omega))⟩, (show _ = (hosting 0 0 false false 0).uncorrAt 0x1000 8 from rfl).trans (by decide),
    (show _ = (hosting 0 0 false false 0).uncorrAt 0x2000 8 from rfl) ▸ (by decide), by decide, (show _ = (platform allReady {}).assigned none (rowAddr 9) from rfl).trans (by decide), (show 1 ≠ 2 by decide), rfl, rfl, (show 0 + 1 + 8 ≤ 64 by decide), (show 320 ≤ 320 by decide), by intro e he; simp [asked] at he; subst he; decide⟩
/-- The translation of an array for a tenant: it has no root, or the page is in the TLB. -/
def arrays (tlb : List TlbEntry) : State := { asked (.array 0 0x1000 8 none) with clu := [(96, { tlb := tlb })] }
theorem witness_FabricRequests_arrays : ((match (arrays []).engXlat fabCluster 0 0x1000 false with | .error x => x.cause == .page | .ok _ => false) = true) ∧ (match (arrays [{ hbmPage with r := false }]).engXlat fabCluster 0 0x1000 false with | .error x => x.cause == .perm | .ok _ => false) = true ∧ (match (arrays [hbmPage]).engXlat fabCluster 0 0x1000 false with | .error _ => false | .ok x => x.1 == 0x1000) = true := by decide
theorem witness_FabricRequests_add : (match (arrays [hbmPage]).engXlat fabCluster 0 0x1000 false with | .ok x => x.1 == 0x1000 && (match x.2.2.engXlat fabCluster 0 0x1000 true with | .ok y => y.1 == 0x1000 && (y.2.2.uncorrAt 0x1000 4).isNone && y.2.2.peek 0x1000 4 == 0x809 | .error _ => false) | .error _ => false) = true := by decide
theorem test_fabric_add : after .fabricRequest { arrays [hbmPage] with sel := { unit := 5, req := .add 0 0x1000 32 (-9) } } (fun t => t.pkg.fabReplies == [(5, .data 0x809)] && t.peek 0x1000 4 == 0x800) = true := by decide
theorem test_fabric_load : after .fabricRequest (asked (.load 0 0x1000 8)) (fun t => t.pkg.fabReplies == [(5, .data 0x809)]) = true ∧ after .fabricRequest (asked (.load 2 (rowAddr 9) 8)) (fun t => t.pkg.fabReplies == [(5, .denied)]) = true := by decide
theorem test_fabric_atomic : after .fabricRequest (asked (.atomic 0 0 0x1000 8 5 0)) (fun t => t.pkg.fabReplies == [(5, .data 0x809)] && t.peek 0x1000 8 == 0x80E) = true := by decide
theorem test_fabric_array : after .fabricRequest (arrays [hbmPage]) (fun t => t.pkg.fabReplies == [(5, .data 0x809)]) = true ∧ after .fabricRequest (arrays []) (fun t => t.pkg.fabReplies == [(5, .fault .page)] && (t.tenOf 0).bar.length == 1) = true := by decide
theorem test_fabric_packet : after .fabricRequest (asked (.packet 3 4 9 7 [1])) (fun t => (t.csRow 9).rxq == [{ row := 9, remote := true, pkg := 5, core := 3, srow := 4, hdr := 7, flits := [1] }]) = true ∧ after .fabricRequest (asked (.packet 3 4 8 7 [1])) (fun t => (t.coreOf 0).rxdrop == 1) = true := by decide
/-- Quad 0 in a power state. -/
def quads (p : Power) (next : Bool) (c : Nat) : State := { row [] with cycle := c, ctl := [(0, { state := .ready })], core := [], quad := [(0, { power := p, wakeAt := 4096, gateNext := next })], sel := { unit := 0 } }
theorem witness_QuadPower : ((quads .gating false 0).quadOf 0).power = .gating ∧ ((quads .waking true 4096).quadOf 0).power = .waking ∧ ((quads .waking true 4096).quadOf 0).wakeAt ≤ 4096 ∧ ¬ ((quads .waking true 4096).quadOf 0).wakeAt ≤ 4095 ∧ (∀ i, i < 4 → (∀ e ∈ (quads .gating false 0).ctl, isBase e.1 = false → coreOfRid e.1 = i → e.2.state ≠ .opened) ∧ (∀ e ∈ ((quads .gating false 0).coreOf i).ports, e.2 = none) ∧ ((quads .gating false 0).coreOf i).vq = []) ∧
    (quads .running false 1200000).cycle % 1200000 = 0 ∧ (quads .running false 1200000).pkg.comparedAt ≠ some 1200000 := by decide
theorem test_quad_gated : after .quadGated (quads .gating false 0) (fun t => (t.quadOf 0).power == .gated) = true ∧ after .quadGated { row [] with quad := [(0, { power := .gating })] } (fun t => (t.quadOf 0).power == .gating) = true := by decide
theorem test_quad_wakes : after .quadWakeDone (quads .waking true 4096) (fun t => (t.quadOf 0).power == .gating && !(t.quadOf 0).gateNext) = true ∧ after .quadWakeDone (quads .waking false 4095) (fun t => (t.quadOf 0).power == .waking) = true := by decide
/-- Octet 0 of tenant 1, not BUSY or in a scrub, with row 3 READY, HELD or OPEN. -/
def owned (st : RowState) (bz : Bool) (c : Nat) (x : Nat) : State :=
  { row [] with mem := mset [] (rowAddr 3 + 9) 7, cycle := c, ctl := [(3, { state := st })], core := [(0, { perm := 5, cs := { tbs := [(3, 1)] } })], oct := [(0, { tag := 1, busy := bz, scrubAt := if bz then some 4096 else none })], sel := { unit := 0, sub := x } }
theorem witness_OwnersAndScrub : (((owned .ready false 0 2).octOf 0).busy = false ∧ ((owned .ready false 0 2).octOf 0).tag ≠ BitVec.ofNat 6 2) ∧ ((owned .ready false 0 1).octOf 0).tag = BitVec.ofNat 6 1 ∧ NobodyWaits (owned .ready false 0 2) ∧ (∀ i, i < 8 → ((owned .ready false 0 2).cs (0 * 8 + i)).mq = []) ∧ (((owned .held true 4096 0).octOf 0).scrubAt = some 4096 ∧ ((owned .held true 4096 0).octOf 0).heldWrites = []) ∧
    (∀ e ∈ (owned .held true 4096 0).ctl, isBase e.1 = false → hubOf e.1 = 0 → e.2.state ≠ .opened) ∧ (∃ e ∈ (owned .opened true 4096 0).ctl, isBase e.1 = false ∧ hubOf e.1 = 0 ∧ e.2.state = .opened) ∧ (∀ i, i < 8 → ((owned .held true 4096 0).coreOf (0 * 8 + i)).streams = []) ∧ ((owned .held true 4096 0).cluOf 0).nests = [] ∧ 4095 < 4096 :=
  ⟨by decide, by decide, by intro e he; simp [owned] at he; subst he; decide, by decide, by decide, by decide, ⟨(3, { state := .opened }), by decide⟩, by decide, by decide, by decide⟩
theorem test_octown : after .octownReassign (owned .ready false 0 2) (fun t => (t.octOf 0).busy && (t.octOf 0).tag == 2 && (t.octOf 0).scrubAt == some 4096 && (t.ctlOf 3).state == .held && (t.coreOf 0).perm == 0) = true ∧ after .octownReassign (owned .ready false 0 1) (fun t => !(t.octOf 0).busy) = true := by decide
theorem test_scrub : after .scrubDone (owned .held true 4096 0) (fun t => !(t.octOf 0).busy && (t.ctlOf 3).state == .null && mget t.mem (rowAddr 3 + 9) == 0 && (t.cs 0).tbs == []) = true ∧ after .scrubDone (owned .held true 4095 0) (fun t => (t.octOf 0).busy) = true := by decide

/-! ### Witnesses: further clauses -/

theorem witness_StepRunsPair_sleeps : after (.sleepuntil 5) { mailed none with cur := { pc := 0x200, slot := .pair0 } } (fun t => t.cur.ended == .sleeps 4 9 && t.cur.sleeping == some (4, 9) && (t.ctlOf 0).state == .opened) = true := by decide
theorem witness_StreamSources_failed : let s := bound 2 [{ rid := 0, reg := 24, lock := 3, failed := some 0x180, failedAt := 0x180 }]
    (s.seenStage 24).map (fun st => (st.vals, st.failedAt)) = some ([], 0x180) ∧ bits (s.seenStream 24).1 56 0 = 0x100 ∧ bits (s.seenStream 24).2 31 0 ≠ 0 := by decide
/-- The helper of row 0 that has EXITED, on a port for its write-back; row 0 waits for it. -/
def joining : State :=
  { helped .exited with ctl := [(0, { state := .blocked, wait := 6, wake := 1 }), (1984, { state := .exited, h := true })],
                        core := [(0, { cs := { helpers := [(1984, ⟨0, 0⟩)] }, ports := [(1, some { row := 1984, phase := .writeback, busy := 0 })] })], sel := { unit := 0, sub := 1 } }
theorem witness_HelperJoin_back : (helped .exited).writingBack (ridOf 0 1984) = false ∧ ((helped .exited).helpersOf 0).filter (fun h => (1 : Nat).testBit h.1) ≠ [] ∧ joining.writingBack (ridOf 0 1984) = true := by decide
theorem witness_RowCloses_join : joining.helperOf (ridOf 0 1984) = some ⟨0, 0⟩ ∧ joining.waits (ridOf 0 0) 6 = true ∧ (joining.ctlOf (ridOf 0 0)).state = .blocked ∧ (joining.ctlOf (ridOf 0 1984)).state = .exited ∧ (∀ e ∈ (joining.coreOf 0).ports, e.1 ≠ 1 → ∀ y, e.2 = some y → y.row ≠ 1984) ∧
    (∀ e ∈ joining.helpersOf (ridOf 0 0), ((joining.ctlOf (ridOf 0 0)).wake.toNat.testBit e.1 = true → e.2 = 1984)) ∧ tget none (joining.coreOf 0).ports 1 = some { row := 1984, phase := .writeback, busy := 0 } :=
  ⟨by decide, by decide, by decide, by decide, fun e he h => by rw [show (joining.coreOf 0).ports = [(1, some { row := 1984, phase := .writeback, busy := 0 })] from rfl] at he; simp at he; subst he; exact absurd rfl h, by decide, by decide⟩
theorem test_writeback_wakes_parent : after .closeWriteback joining (fun t => (t.ctlOf 0).state == .ready && (t.coreOf 0).ports == []) = true := by decide
/-- Row 3 waits READY since cycle 0 with priority 1. -/
def rising (v : Nat) : State := { storing 0 v with cycle := 200, ctl := [(0, { state := .opened }), (3, { state := .ready })], thr := [(3, { effPri := 1 })] }
theorem witness_TurnlenWrites : (3, ({ effPri := 1 } : Thr)) ∈ (rising 8).thr ∧ coreOfRid 3 = 0 ∧ ((rising 8).ctlOf 3).state = .ready ∧ 3 ≠ (rising 8).me ∧ 16 * 8 ≤ ((rising 8).cycle - ((rising 8).thrOf 3).riseAt) % (16 * ((rising 8).cs 0).turnlen.toNat) := by decide
theorem test_turnlen_rises_next_cycle : after .turnlenWrite (rising 8) (fun t => (t.cs 0).turnlen == 8 && t.effNow 3 == 1 && State.effNow { t with cycle := 201 } 3 == 2) = true := by decide
theorem witness_ClusterReadBytes_status : ((row []).thrOf 0).chunk.stores = [] ∧ (row []).busyBank (rowAddr 0) = false ∧ regionOf (rowAddr 0) = .rowStore 0 0 ∧ ((row []).ctlOf 0).state ≠ .null := by decide
theorem test_status_reserved_bits : ({ row [] with mem := mwrite [] (rowAddr 0) (bytesOf 8 (2 ^ 64 - 1)) } : State).clusterRead' (rowAddr 0) 8 = 2 ^ 62 - 1 ∧
    after .outsideAccess (resting [.store (rowAddr 0) (bytesOf 8 (2 ^ 64 - 1))] 0 none []) (fun t => t.peek (rowAddr 0) 8 == 2 ^ 62 - 1) = true := by decide
/-- A one-bundle chunk whose first word has issued, with a load that a release waits for. -/
def oneBundle : State := { releases with thr := [(0, { (releases.thrOf 0) with chunk := { limit := 1, steps := 1, live := true } })] }
theorem witness_OrderedAccesses_oneBundle : (oneBundle.thrOf oneBundle.me).chunk.limit = 1 ∧ (oneBundle.thrOf oneBundle.me).chunk.steps ≠ 0 ∧ oneBundle.releaseReady oneBundle.me { before := oneBundle.seq, stores := true } = false := by decide
theorem test_one_bundle_release_waits : after (.fence 3 2) oneBundle (fun t => t.cur.ended == .stalled && (t.thrOf 0).fence.isNone) = true := by decide
theorem witness_ChunkCommits_granted : let s := ended { steps := 1 } { grant := some 7 }
    (s.cluOf 0).grant = some 7 ∧ s.vecBusy 0 = false ∧ s.commitFull 0 = false ∧ s.startsBlocked 0 = false ∧ conflicts (s.cluOf 0) (s.thrOf 0).chunk = false ∧ (s.thrOf 0).chunk.steps ≠ 0 ∧ (s.thrOf 0).closeAs = none ∧ (s.thrOf 0).chunk.release = none ∧ (s.thrOf 0).fence = none := by decide
theorem test_commit_for_the_holder : ((ended { steps := 1 } { grant := some 7 }).boundary 0 (some 7)).2 = true ∧ ((ended { steps := 1 } { grant := some 7 }).boundary 0 (some 8)).2 = false := by decide
theorem witness_Barriers_claims : ((armed 1).thrOf (armed 1).me).lockClaim = 0 ∧ ∀ e ∈ ((armed 1).cs (armed 1).myCore).mbox, e.2.kept = false ∨ e.2.owner ≠ some (armed 1).me := by decide
theorem witness_BoundaryAccesses_stop : ((resting [.control 0 0 (2 ^ 60)] 7 none []).thrOf 0).stop = none ∧ 0 + (bytesOf 8 0).length ≤ 1024 := by decide
theorem witness_RowOpens_level : 0 < 16 * (waiting.cs (coreOfRid 4)).turnlen.toNat ∧ 16 * (waiting.cs (coreOfRid 4)).turnlen.toNat ≤ 4096 - (waiting.thrOf 4).riseAt ∧ waiting.writingBack 4 = false := by decide
/-- Rows 3 and 4 of `locked` while the host is told of stalemates. -/
def told : State := { locked with pkg := { locked.pkg with fnmode := 24 } }
theorem witness_Stalemate_told : told.pkg.fnmode.getLsbD 4 = true ∧ told.cycle % 65536 = 0 ∧ (told.cluOf told.sel.unit).staleAt ≠ some told.cycle ∧ 3 < 4 ∧ clusterOf (coreOfRid 3) = told.sel.unit ∧ WaitsOn told (told.cycle - 65536) 3 4 ∧ WaitsOn told (told.cycle - 65536) 4 3 ∧ ∀ o ∈ told.oct, o.2.hub = [] :=
  ⟨by decide, by decide, by decide, by decide, by decide, ⟨rfl, rfl, by decide, by decide, rfl, rfl, by decide⟩, ⟨rfl, rfl, by decide, by decide, rfl, rfl, by decide⟩, by decide⟩
theorem test_stalemate_record : after .stalemateInterval told (fun t => t.pkg.hfrHeld.map (fun r => (r.ty, r.payload)) == [(3, [3, 4])] && (t.ctlOf 3).state == .blocked) = true := by decide

/-- The same state with one entry at the bar of tenant 0, refused or served. -/
def atBar (s : State) (w : BarWhat) (served : Bool) : State := { s with ten := [(0, { bar := [{ what := w, cause := .page, va := 0x1000, served := served, refused := !served }] })], sel := { unit := 0, sub := 0 } }
def refusedEngine : State := atBar (inCore { mbox := [(4, { owner := some 0 })] } []) (.engine 0 (command .xcopy copyOne)) false
def refusedPost : State := atBar (posted [post .clear]) (.posted 9) false
theorem witness_BarService_refused : (refusedEngine.discards 0 9 = false ∧ (refusedEngine.csOf 0 0).mbox.find? (fun e => e.1 == 4) = some (4, { owner := some 0 })) ∧ (∃ y ∈ ((atBar streaming (.stream 0 0 24) false).coreOf (coreOfRid 0)).streams, y.rid = 0 ∧ y.reg = 24) ∧
    (((atBar (querying 1 none) (.query 0 3) false).coreOf 0).qbufs.find? (fun q => q.order == 3) = some (query none) ∧ (query none).abandoned = false) ∧ (refusedPost.pip.find? (fun p => p.id == 9) = some (post .clear) ∧ refusedPost.discards 0 9 = false) ∧
    ((tget [] (atBar starting (.nearbank 2 7) false).banks 2).find? (fun c => c.id == 7) = some { nbOf bankFill 0 with started := false } ∧ (atBar starting (.nearbank 2 7) false).discards 0 7 = false) := by
  refine ⟨by decide, ⟨{ rid := 0, reg := 24, lock := 3 }, by decide, rfl, rfl⟩, by decide, by decide, by decide⟩
theorem test_refused_engine : after .barReentry refusedEngine (fun t => ((t.cs 0).mbox.map fun e => e.2.msg.map fun v => v.toNat / 2 ^ 48) == [some (4 * 256 + 0x20)]) = true := by decide
theorem test_refused_stream : after .barReentry (atBar streaming (.stream 0 0 24) false) (fun t => ((t.coreOf 0).streams.map fun y => (y.failed, y.failedAt)) == [(some 0x1000, 0x1000)]) = true := by decide
/-- A served command whose entries are still waited for. -/
def lateItem : State := { atBar (row []) (.engine 0 (command .xcopy copyOne)) true with clu := [(0, { late := [(5, [{ id := 9, lo := 0, hi := 63, write := true }])] })] }
theorem witness_BarService_late : ∃ b u, (lateItem.tenOf 0).bar[0]? = some b ∧ lateItem.barUser 0 b = some u ∧ lateItem.lateFor u.cluster u.id = true := ⟨_, _, rfl, rfl, by decide⟩
theorem test_late_item_stays : after .barReentry lateItem (fun t => (t.tenOf 0).bar.length == 1) = true := by decide
/-- A `PAGEMOVE` of one page stands at the migration of `moving`, 2 of the 4 beats of its next line spent. -/
def moveCmd : ECmd := { command .xcopy [3, 0, 0, 1, 0, 0, 0, 0] with oor := 1, skip := 2, beats := 100 }
def movingFor : State := { moving 1 with oct := [(0, { active := [moveCmd] })] }
theorem witness_MigrationLines_command : MovesPage moveCmd { tenant := 0, va := 0, leaf := 0xA0A0, old := 0x550000, new := 0x660000, oldFrame := 0x55, valid := 1 } ∧ ((movingFor.octOf 0).active[0]? = some moveCmd) ∧ ((movingFor.octOf 0).active = [moveCmd]) := ⟨⟨rfl, by decide, rfl, rfl, by decide⟩, by decide, by decide⟩
theorem test_migration_line_spends_beats : after .migrationLineCopy movingFor (fun t => ((t.octOf 0).active.map fun c => (c.beats, c.skip)) == [(98, 0)]) = true ∧
    after .linePull { movingFor with sel := { unit := 0, sub := 5 } } (fun t => ((t.octOf 0).active.map fun c => (c.beats, c.skip)) == [(96, 2)]) = true := by decide

/-- Two commands in the queue, of which the first waits for range-lock entries. -/
def lateHead : State := { row [] with oct := [(0, { queue := [command .xcopy copyOne, { command .xcopy copyOne with id := 10 }] })], clu := [(0, { late := [(5, [{ id := 9, lo := 0, hi := 63, write := true }])] })] }
theorem witness_EngineQueue_late : lateHead.lateFor (lateHead.sel.unit / 24) 9 = true ∧ lateHead.lateFor (lateHead.sel.unit / 24) 10 = false ∧ (lateHead.octOf 0).queue = [command .xcopy copyOne] ++ { command .xcopy copyOne with id := 10 } :: [] ∧
    (∀ x ∈ [command .xcopy copyOne] ++ ([] : List ECmd), x.id ≠ 10) ∧ ∀ c ∈ (row []).oct, c.2.queue = [] := by decide
theorem test_late_head_is_passed : after .commandStart lateHead (fun t => (t.octOf 0).queue.map (·.id) == [9] && (t.octOf 0).active.map (·.id) == [10]) = true := by decide
/-- The sum of `sketched` after its last counter, and with flags that it owes; the source's `SATF` is 6. -/
def summed (s d : Nat) : State := engine (mwrite sketched.mem 0x1020 [6]) { sketching with pos := 17, owesS := s, owesD := d, skip := if s = 0 ∧ d = 0 then 0 else 1 }
theorem witness_EngineReductions_flags : (sketchOf sketching.hs).groups ≤ 17 ∧ (sketchOf sketching.hs).count ≤ 17 - (sketchOf sketching.hs).groups ∧ (mread (summed 0 0).mem 0x1020 8 % 512 = 6) ∧ (∀ s d : Nat, OnlyActive (summed s d) 0 { sketching with pos := 17, owesS := s, owesD := d, skip := if s = 0 ∧ d = 0 then 0 else 1 }) ∧
    (∀ s d va w, va = 0x1020 ∨ va = 0x2020 → Maps (summed s d) 0 0 va va 8 w) :=
  ⟨by decide, by decide, by decide, fun s d => w_onlyActive _ _ rfl, fun s d va w h => w_maps _ _ _ _ _ (by omega) (by omega)⟩
theorem test_sum_reads_flags : after .sksum (summed 0 0) (fun t => ((t.octOf 0).active.map fun c => (c.owesD, c.skip, c.done)) == [(6, 1, false)]) = true ∧
    after .sksum (summed 0 6) (fun t => t.peek 0x2020 8 == 6 && ((t.octOf 0).active.map fun c => (c.owesD, c.done)) == [(0, true)]) = true := by decide
/-- A `PAGEDROP` of the page of count 1; a `PAGESHARE` before its last beat; a `PAGEMOVE` at a line, with the page's migration or after it. -/
abbrev dropLast : ECmd := paging 2 [0, 0, 1, 0, 0, 0, 0]
abbrev shareLast : ECmd := { shareOne with skip := 15 }
def atLine (k : Nat) (valid : BitVec 256) : State :=
  { paged { moveOne with oor := 1, skip := k } with pkg := { (row []).pkg with migs := [{ tenant := 0, va := 0, leaf := 0xA000, old := 0x550000, new := 0x660000, oldFrame := 0x55, valid := valid }] } }
theorem witness_PageCommands_beats : OnlyActive (paged shareLast) 0 shareLast ∧ (dwBits shareLast.spec 0 7 0 = 1 ∧ shareLast.skip = 15) ∧ OnlyActive (paged dropLast) 0 dropLast ∧ MappedAt (paged dropLast) 0 (dw dropLast.spec 2) 0 0x55003D 0xA000 ∧ ((paged dropLast).peek (0x3800 + 4 * 0x55) 4 = 1 ∧ dropLast.skip = 0 ∧ (0x55003D : Nat).testBit 9 = false) ∧
    (0x3000 + 8 * 1 + 8 ≤ 0x8000000000 ∧ 0x3000 + 8 * 1 + 8 ≤ 0xA000 ∧ 0x3000 + 8 * 1 + 8 ≤ 0x3800 + 4 * 0x55) ∧ (∀ k v, OnlyActive (atLine k v) 0 { moveOne with oor := 1, skip := k }) ∧ (∀ k v, ∃ m, (atLine k v).pkg.migs[0]? = some m ∧ m.tenant = 0 ∧ m.va / 65536 = dw moveOne.spec 1 / 65536) ∧ (paged { moveOne with oor := 1 }).pkg.migs = [] :=
  ⟨w_paged _ rfl, by decide, w_paged _ rfl, w_pageMapped _ 0 _ _ (by decide) (by decide), by decide, by decide, fun k v => ⟨rfl, rfl, fun _ _ => rfl, rfl, rfl, rfl⟩, fun k v => ⟨_, rfl, rfl, (show 0 / 65536 = dw moveOne.spec 1 / 65536 by decide)⟩, rfl⟩
theorem test_pagedrop_last : after .pagedrop (paged dropLast) (fun t => t.peek 0xA000 8 == 0 && t.peek 0x3954 4 == 0 && t.peek 0x3008 8 == 0x55 && (t.tenOf 0).ffstop == 2 && ((t.octOf 0).active.map fun c => (c.skip, c.beats)) == [(1, 15)]) = true ∧
    after .pageshare (paged shareLast) (fun t => ((t.octOf 0).active.map fun c => (c.pos, c.done)) == [(1, true)]) = true := by decide
theorem test_pagemove_line : after .pagemove (atLine 2 1) (fun t => ((t.octOf 0).active.map fun c => (c.skip, c.beats)) == [(3, 15)] && t.pkg.migs.map (·.valid) == [1]) = true ∧ after .pagemove (atLine 3 1) (fun t => ((t.octOf 0).active.map fun c => (c.skip, c.beats)) == [(0, 15)] && t.pkg.migs.map (·.valid) == [3]) = true := by decide
theorem witness_StreamRefill_failed : (0x180 : Nat) ≠ 0x100 ∧ streaming.lateFor (clusterOf 0) 3 = false := by decide

/-- A query that owes a flag, and one with a write held by a BUSY octet; a posted operation that owes a flag. -/
def owing : State := { querying 1 none with core := [(0, { qbufs := [{ query none with owes := 1 }] })] }
def heldQuery : State := { querying 1 none with oct := [(5, { heldWrites := [{ pa := 0, bytes := [0], tenant := 0, what := .count 3 none (.flags 1) 0 }] })] }
theorem witness_SketchSteps_owes (k : PipKind) : ((owing.coreOf 0).qbufs[0]? = some { query none with owes := 1 } ∧ owing.writeHeld 3 = false ∧ owing.postedBefore 0 0x1000 3 = false ∧ heldQuery.writeHeld 3 = true) ∧ (posted [{ post k with owes := 1 }]).pip[0]? = some { post k with owes := 1 } := ⟨by decide, rfl⟩
theorem test_owed_flag : after .skqryResult { owing with mem := mwrite owing.mem 0x1020 [4] } (fun t => t.peek 0x1020 8 == 5 && ((t.coreOf 0).qbufs.map (·.owes)) == [0]) = true ∧ after .sketchCounterOp (posted [{ post .clear with owes := 4 }]) (fun t => t.peek 0x1020 8 == 5 && t.pip.map (fun p => (p.pos, p.owes)) == [(0, 0)]) = true := by decide
theorem witness_LeafEnds_back : (ending .exited).writingBack 3 = false ∧ ({ ending .exited with core := [(0, { ports := [(0, some { row := 3, phase := .writeback, busy := 2 })] })] } : State).writingBack 3 = true ∧ aborted.writingBack 3 = false := by decide
theorem witness_TeamEnd_back : (running .exited).writingBack 5 = false ∧ ({ running .exited with core := [(0, { ports := [(0, some { row := 5, phase := .writeback, busy := 2 })] })] } : State).writingBack 5 = true := by decide
/-- The team of `sliced` with a helper of row 5 in pool row 1984; and its cluster with a switch that has stopped its tenant. -/
def slicedHelper (st h : RowState) (castling : Bool) : State :=
  let s := sliced st 0 9000 castling
  { s with ctl := s.ctl ++ [(1984, { state := h, h := true })], core := [(0, { cs := { helpers := [(1984, ⟨5, 2⟩)] } })] }
def stoppedCluster (s : State) : State := { s with clu := [(0, { (s.cluOf 0) with switch := some { old := 0, new := 2, since := 0, gang := false, stopped := true } })] }
theorem witness_Castling_helpers : (∀ tm ∈ (slicedHelper .ready .blocked false).teams, (slicedHelper .ready .blocked false).teamHelpers tm = [1984] ∧ (slicedHelper .ready .blocked false).runsOn tm.cluster tm.tenant = true ∧ (stoppedCluster (slicedHelper .ready .blocked false)).runsOn tm.cluster tm.tenant = false) ∧
    (∀ tm ∈ (slicedHelper .held .blocked true).teams, ∃ r ∈ (slicedHelper .held .blocked true).teamHelpers tm, ((slicedHelper .held .blocked true).ctlOf r).state ≠ .held) ∧ (∀ b ∈ [5], (slicedHelper .held .held true).writingBack b = false ∧ (slicedHelper .null .held true).writingBack b = false) ∧ (NobodyWaits (sliced .ready 0 5000 false)) := by
  refine ⟨by decide, by decide, by decide, ?_⟩
  intro e he; simp [sliced, running, ready] at he; rcases he with rfl | rfl <;> decide
theorem test_castle_takes_helpers : after .castling (slicedHelper .ready .ready false) (fun t => (t.ctlOf 1984).state == .held && (t.ctlOf 5).state == .held) = true ∧
    after .castling (slicedHelper .held .held true) (fun t => (t.ctlOf 1984).state == .held && (t.cs 0).helpers == [] && t.teams.map (fun x => x.image.map fun m => (m.helpers, m.held)) == [some ([(5, 1984, 2)], [1984])]) = true := by decide
theorem witness_CastleRestore_away : (∀ tm ∈ castled.teams, castled.runsOn tm.cluster tm.tenant = true ∧ (stoppedCluster castled).runsOn tm.cluster tm.tenant = false ∧ (stoppedCluster castled).serviceChoice 0 = some (.restore 0) ∧ ∀ m ∈ tm.image, m.helpers = [] ∧ m.held = []) ∧ ∀ i, (List.replicate 16 false).getD i false = false := by
  refine ⟨by decide, fun i => ?_⟩
  rw [List.getD_eq_getElem?_getD, List.getElem?_replicate]; split <;> rfl
theorem test_castle_restores_held : after .castleRestore (stoppedCluster castled) (fun t => (t.ctlOf 5).state == .held && (t.thrOf 5).heldBy == some .switch && (t.thrOf 5).saved == .ready) = true := by decide
/-- A matrix head and a near-bank command that wait for range-lock entries. -/
def lateUnits : State := { matrix zeroBlock with banks := starting.banks, clu := [(0, { tlb := [hbmPage], late := [(5, [{ id := 7, lo := 0, hi := 63, write := true }])] })] }
theorem witness_Units_late : lateUnits.lateFor (clusterOf 0) 7 = true ∧ (lateUnits.cs 0).mq = [{ id := 7, block := zeroBlock, rid := 0, tag := some 4 }] ∧ tget [] lateUnits.banks 2 = [{ nbOf bankFill 0 with started := false }] := by decide
theorem test_late_units_wait : after .mzero lateUnits (fun t => (t.cs 0).mq.length == 1) = true ∧ after .nbfill { lateUnits with sel := { unit := 2 } } (fun t => (tget [] t.banks 2).map (·.started) == [false]) = true := by decide
theorem witness_FabricRequests_lines : InHbm 0x1000 64 ∧ 0x1000 / 64 = (0x1000 + 64 - 1) / 64 ∧ 0x1000 / 64 ∉ (asked (.load 0 0x1000 64)).pkg.farLines ∧ (asked (.load 0 0x1000 64)).uncorrAt 0x1000 64 = none := ⟨(by decide : 0x1000 + 64 ≤ 0x8000000000), by decide, by decide, by decide⟩
theorem test_fabric_line_noted : after .fabricRequest (asked (.load 0 0x1000 64)) (fun t => t.pkg.farLines == [64]) = true := by decide

/-! ### More instructions, grouped: one result of each, by hand from its rule -/

/-- The results of words on the same state: each leaves its value in g9. -/
def all9 (s : State) (l : List (Instr × Nat)) : Bool := l.all fun e => after e.1 s fun t => t.greg 0 9 == e.2
/-- g5 = −6, g6 = 3, g7 = 0. -/
def minusSix : State := row [(5, 2 ^ 64 - 6), (6, 3), (9, 1)]
theorem test_alu : all9 minusSix [(.sub 9 5 6, 2 ^ 64 - 9), (.and 9 5 6, 2), (.or 9 5 6, 2 ^ 64 - 5), (.xor 9 5 6, 2 ^ 64 - 7), (.andn 9 5 6, 2 ^ 64 - 8), (.shl 9 5 6, 2 ^ 64 - 48), (.shr 9 5 6, 2 ^ 61 - 1), (.rol 9 5 6, 2 ^ 64 - 41), (.ror 9 5 6, 2 ^ 62 + 2 ^ 61 - 1), (.min 9 5 6, 2 ^ 64 - 6), (.max 9 5 6, 3), (.minu 9 5 6, 3), (.maxu 9 5 6, 2 ^ 64 - 6)] = true := by decide
theorem test_alu_compares : all9 minusSix [(.slt 9 5 6, 1), (.sltu 9 5 6, 0), (.seq 9 5 6, 0), (.sne 9 5 6, 1), (.cmovz 9 5 7, 2 ^ 64 - 6), (.cmovz 9 5 6, 0), (.cmovnz 9 5 7, 0), (.cmovnz 9 5 6, 2 ^ 64 - 6), (.addw 9 5 6, 2 ^ 64 - 3), (.shlw 9 5 6, 2 ^ 64 - 48), (.shrw 9 5 6, 2 ^ 29 - 1), (.sarw 9 5 6, 2 ^ 64 - 1)] = true := by decide
theorem test_muldiv : all9 minusSix [(.mul 9 5 6, 2 ^ 64 - 18), (.mulh 9 5 6, 2 ^ 64 - 1), (.mulhu 9 5 6, 2), (.mulw 9 5 6, 2 ^ 64 - 18), (.divu 9 5 6, 6148914691236517203), (.remu 9 5 6, 1), (.divu 9 5 7, 2 ^ 64 - 1), (.remu 9 5 7, 2 ^ 64 - 6)] = true := by decide
theorem test_bits : all9 minusSix [(.popc 9 5, 62), (.brev 9 6, 2 ^ 63 + 2 ^ 62), (.bswap 9 6, 3 * 2 ^ 56), (.extz 9 5 3 1, 13), (.exts 9 5 3 1, 2 ^ 64 - 3)] = true := by decide
theorem test_immediates : all9 minusSix [(.andi 9 5 15, 10), (.ori 9 5 5, 2 ^ 64 - 1), (.xori 9 5 0x3FFF, 5), (.slti 9 5 0x3FFB, 1), (.sltiu 9 6 0x3FFB, 1), (.shli 9 6 4, 48), (.shri 9 5 60, 15), (.sari 9 5 2, 2 ^ 64 - 2), (.rori 9 6 1, 2 ^ 63 + 1), (.lui 9 0x7FFFF, 2 ^ 64 - 2 ^ 14)] = true := by decide
theorem test_branches : ([(.beq 6 6 2, 0x208), (.blt 5 6 2, 0x208), (.bltu 5 6 2, 0x204), (.bgeu 5 6 2, 0x208), (.bgeu 6 5 2, 0x204)] : List (Instr × W)).all (fun e => after e.1 minusSix fun t => (t.ctlOf 0).pc == e.2.setWidth 57) = true := by decide
theorem test_jal : after (.jal 9 0x7FFFF) minusSix (fun t => (t.ctlOf 0).pc == 0x1FC && t.greg 0 9 == 0x204) = true := by decide
/-- 2.0, 3.0, −0.0, a signalling NaN and infinity in g4 to g8. -/
def floats : State := row [(4, 0x40000000), (5, 0x40400000), (6, 0x80000000), (7, 0x7F800001), (8, 0x7F800000)]
theorem test_float : all9 floats [(.fmul 9 4 5 0 0, 0x40C00000), (.fmin 9 4 6 0, 0x80000000), (.fmax 9 4 7 0, 0x40000000), (.feq 9 6 0 0, 1), (.flt 9 4 5 0, 1), (.fle 9 5 4 0, 0), (.fclass 9 6 0, 8), (.fclass 9 7 0, 256), (.fclass 9 8 0, 128), (.fsgnj 9 4 6 0, 0xC0000000), (.fsgnjn 9 4 6 0, 0x40000000), (.fsgnjx 9 6 6 0, 0)] = true := by decide
theorem test_fused : all9 { floats with mem := regs 0 [(4, 0x40000000), (5, 0x40400000), (9, 0x3F800000)] } [(.ffma 9 4 5 0 0, 0x40E00000), (.ffms 9 4 5 0 0, 0xC0A00000)] = true := by decide
theorem test_fsqrt : all9 (row [(5, 0x41100000), (6, 0xBF800000)]) [(.fsqrt 9 5 0 0, 0x40400000), (.fsqrt 9 6 0 0, 0x7FC00000)] = true := by decide
/-- Row 0 whose segment 0, at row address 0x140 (0x10140 in its page), holds 0x80 bytes, g6 = 2. -/
def bytes80 : State := { row [(5, 0x10140), (6, 2)] with mem := mwrite (regs 0 [(5, 0x10140), (6, 2)]) 0x10000000140 (List.replicate 64 0x80) }
theorem test_loads : all9 bytes80 [(.ldh 9 5 2, 2 ^ 64 - 0x7F80), (.ldw 9 5 4, 2 ^ 64 - 0x7F7F7F80), (.ldbu 9 5 1, 0x80), (.ldhu 9 5 2, 0x8080), (.ldwu 9 5 4, 0x80808080), (.ldxB 9 5 6 0, 2 ^ 64 - 0x80), (.ldxBu 9 5 6 0, 0x80), (.ldxH 9 5 6 1, 2 ^ 64 - 0x7F80), (.ldxHu 9 5 6 0, 0x8080), (.ldxW 9 5 6 1, 2 ^ 64 - 0x7F7F7F80), (.ldxWu 9 5 6 1, 0x80808080), (.ldxD 9 5 6 2, 0x8080808080808080)] = true := by decide
theorem test_row_loads : all9 bytes80 [(.ldrD 9 320, 0x8080808080808080), (.ldrBu 9 321, 0x80), (.ldrHu 9 322, 0x8080), (.ldrWu 9 324, 0x80808080), (.ldaW 9 5 0, 2 ^ 64 - 0x7F7F7F80)] = true := by decide
theorem test_row_stores : ([(.strB 6 321, 0x80800280), (.strW 6 320, 2), (.sth 6 5 0, 0x80800002), (.stxB 6 5 6 0, 0x80028080), (.stxH 6 5 6 0, 0x00028080), (.stlW 5 6 0, 2)] : List (Instr × Nat)).all (fun e => after e.1 bytes80 fun t => t.peek 0x10000000140 4 == e.2) = true := by decide
theorem test_row_stores_wide : ([(.strD 6 320, 2), (.std 6 5 0, 2), (.stxD 6 5 7 3, 2)] : List (Instr × Nat)).all (fun e => after e.1 bytes80 fun t => t.peek 0x10000000140 8 == e.2) = true ∧ after (.stxW 6 5 6 1) bytes80 (fun t => t.peek 0x10000000144 4 == 2) = true := by decide
theorem test_segment_moves : after (.ldxV 2 5 7 0) bytes80 (fun t => t.rowGet 0 (320 + 128) 8 == 0x8080808080808080) = true ∧ after (.stxV 0 6 7 0) { bytes80 with mem := mwrite bytes80.mem (rowAddr 0 + 48) (bytesOf 8 128) } (fun t => (t.thrOf 0).chunk.stores.map (fun b => (b.pa, b.bytes)) == [(128, List.replicate 64 0x80)]) = true := by decide
theorem test_strong_stores : after (.stmcW 5 6 4) (row [(5, 64), (6, 9)]) (fun t => (t.thrOf 0).chunk.stores.map (fun b => (b.pa, b.bytes, b.strong)) == [(64, bytesOf 4 9, true)]) = true ∧ after (.stmcD 5 6 3) (row [(5, 64), (6, 9)]) (fun t => (t.thrOf 0).chunk.stores.map (fun b => (b.pa, b.bytes, b.strong)) == [(64, bytesOf 8 9, false)]) = true := by decide
/-- g6 = −2 as the operand of atomics on the bytes 5, 0, … of the row's own segment; g9 = 5 is the expected value. -/
def atomicRow : State := { row [(5, 0x10140), (6, 2 ^ 64 - 2), (9, 5)] with mem := mwrite (regs 0 [(5, 0x10140), (6, 2 ^ 64 - 2), (9, 5)]) 0x10000000140 (bytesOf 8 5) }
theorem test_atomics_w : ([(.atomwAdd 9 5 6 0 0, 3), (.atomwSwap 9 5 6 0 0, 2 ^ 32 - 2), (.atomwCas 9 5 6 0 0, 2 ^ 32 - 2), (.atomwAnd 9 5 6 0 0, 4), (.atomwOr 9 5 6 0 0, 2 ^ 32 - 1), (.atomwXor 9 5 6 0 0, 2 ^ 32 - 5), (.atomwMax 9 5 6 0 0, 5), (.atomwMinu 9 5 6 0 0, 5), (.atomwMaxu 9 5 6 0 0, 2 ^ 32 - 2)] : List (Instr × Nat)).all (fun e => after e.1 atomicRow fun t => t.peek 0x10000000140 8 == e.2 && t.greg 0 9 == 5) = true := by decide
theorem test_atomics_d : ([(.atomdSwap 9 5 6 0 0, 2 ^ 64 - 2), (.atomdAnd 9 5 6 0 0, 4), (.atomdOr 9 5 6 0 0, 2 ^ 64 - 1), (.atomdXor 9 5 6 0 0, 2 ^ 64 - 5), (.atomdMin 9 5 6 0 0, 2 ^ 64 - 2), (.atomdMax 9 5 6 0 0, 5), (.atomdMinu 9 5 6 0 0, 5), (.atomdMaxu 9 5 6 0 0, 2 ^ 64 - 2)] : List (Instr × Nat)).all (fun e => after e.1 atomicRow fun t => t.peek 0x10000000140 8 == e.2 && t.greg 0 9 == 5) = true := by decide
/-- Vector lanes of 16 bits 5, −1 in segment 1 and 3, 3 in segment 2; −1 in every lane of segment 3. -/
def lanes : State := segs [(1, 0xFFFF0005), (2, 0x00030003), (3, 2 ^ 512 - 1)] [(5, 2)]
theorem test_vector_integers : ([(.vsub 3 1 2 4, 0xFFFC0002), (.vmul 3 1 2 4, 0xFFFD000F), (.vmax 3 1 2 4, 0x00030005), (.vmin 3 1 2 4, 0xFFFF0003), (.vabs 3 1 4, 0x00010005), (.vneg 3 1 4, 0x0001FFFB), (.vmov 3 1 4, 0xFFFF0005), (.vfms 3 1 2 4, 0x0002FFF0), (.vand 3 1 2 4, 0x00030001), (.vor 3 1 2 4, 0xFFFF0007), (.vxor 3 1 2 4, 0xFFFC0006), (.vshr 3 1 2 4, 0x1FFF0000), (.vbcast 3 4 5, 0x00020002)] : List (Instr × Nat)).all (fun e => after e.1 lanes fun t => t.rowGet 0 512 4 == e.2) = true := by decide
theorem test_vector_to_scalar : all9 lanes [(.vcmpEq 9 1 2 4, 2 ^ 32 - 4), (.vcmpLe 9 1 2 4, 2 ^ 32 - 2), (.vredMax 9 1 4, 5), (.vredMin 9 1 4, 2 ^ 64 - 1), (.vext 9 1 4 1, 2 ^ 64 - 1)] = true := by decide
theorem test_vector_floats : ([(.vrcp 3 1 0, 0x3F000000), (.vscale 3 1 2 0, 0x41800000)] : List (Instr × Nat)).all (fun e => after e.1 (segs [(1, 0x40000000), (2, 3)] []) fun t => t.rowGet 0 512 4 == e.2) = true ∧ after (.vrsq 3 1 0) (segs [(1, 0x40800000)] []) (fun t => t.rowGet 0 512 4 == 0x3F000000) = true ∧ after (.vlog2 3 1 0) (segs [(1, 0x41000000)] []) (fun t => t.rowGet 0 512 4 == 0x40400000) = true := by decide
theorem test_control_words : after .nop (row []) (fun t => (t.ctlOf 0).pc == 0x204) = true ∧ after .texit (row []) (fun t => t.cur.close == some .exited) = true ∧ after .fenceI (row []) (fun t => t.cur.ending && (t.ctlOf 0).pc == 0x204) = true ∧ after (.setpri 5) (row [(5, 2)]) (fun t => (t.thrOf 0).chunk.deferred == [.setpri 2]) = true ∧ after (.cycle 9) { row [] with cycle := 77 } (fun t => t.greg 0 9 == 77) = true := by decide
theorem test_messages : after .waitmsg (row []) (fun t => (t.ctlOf 0).state == .blocked && (t.ctlOf 0).wait == 3) = true ∧ after (.csrc 9 5 0x020) (inCore { openlim := 5 } [(5, 1)]) (fun t => t.greg 0 9 == 5 && (t.cs 0).openlim == 4) = true := by decide

/-! ### More device steps, one result of each by hand from its rule -/

theorem test_ctl_start_stop_resume : after .ctlStart (stored .dormant (2 * 2 ^ 60 + 2 ^ 54)) (fun t => (t.ctlOf 5).state == .ready && (t.ctlOf 5).pri == 1) = true ∧ after .ctlStop (stored .blocked (2 ^ 60)) (fun t => (t.ctlOf 5).state == .dormant) = true ∧ after .ctlResume (stored .faulted (2 * 2 ^ 60)) (fun t => (t.ctlOf 5).state == .ready) = true := by decide
theorem test_ctl_field : after .ctlFieldWrite (stored .ready (2 * 2 ^ 60 + 3 * 2 ^ 54)) (fun t => (t.ctlOf 5).state == .ready && (t.ctlOf 5).pri == 3) = true ∧ after .ctlFieldWrite (stored .held (3 * 2 ^ 54)) (fun t => (t.ctlOf 5).pri == 0) = true := by decide
theorem test_port_phases : after .openComplete { opening .opening 4 with cycle := 4 } (fun t => tget none (t.coreOf 0).ports 0 == some { row := 0, phase := .running, busy := 4 }) = true ∧ after .openComplete (opening .opening 4) (fun t => tget none (t.coreOf 0).ports 0 == some { row := 0, phase := .opening, busy := 4 }) = true ∧
    after .closeWriteback { opening .writeback 2 with cycle := 2 } (fun t => tget none (t.coreOf 0).ports 0 == none) = true := by decide
theorem test_openlim_close : after .openlimClose { resting [] 0 none [] with core := [(0, { cs := { openlim := 0 }, ports := [(0, some { row := 0, phase := .running, busy := 0 })] })] } (fun t => (t.ctlOf 0).state == .ready) = true := by decide
theorem test_core_registers : after .openlimWrite (storing 0 17) (fun t => (t.cs 0).openlim == 16) = true ∧ after .openlimWrite (storing 0 3) (fun t => (t.cs 0).openlim == 3) = true ∧ after .turnlenWrite (storing 0 9) (fun t => (t.cs 0).turnlen == 9) = true := by decide
theorem test_named_registers : after .pwrcapWrite (storing 0 2000) (fun t => t.pkg.pwrcap == 2000) = true ∧ after .fnmodeWrite (storing 0 1) (fun t => t.pkg.fnmode == 9) = true ∧ after .gangmaskWrite (storing 5 (2 ^ 63 + 2 * 2 ^ 48 + 2 ^ 40 + 1)) (fun t => (t.tenOf 5).gangmask == BitVec.ofNat 64 (2 ^ 63 + 2 * 2 ^ 48 + 2 ^ 40 + 1)) = true ∧ after .ticketsWrite (storing 5 7) (fun t => (t.tenOf 5).tickets == 7) = true := by decide
theorem test_packet_timeout : after .packetTimeout timedOut (fun t => (t.ctlOf 0).state == .faulted && (t.thrOf 0).trapCause == some .packet && !(t.ctlOf 0).p) = true := by decide
theorem test_line_pull : after .linePull (moving 1) (fun t => t.peek 0x660100 8 == 0x77 && (t.pkg.migs.map (·.valid)) == [3]) = true := by decide
theorem test_copy_word : after .copy (engine (bytesAt [(0x1000, 0x66), (0x1010, 0x77)]) (command .xcopy copyOne)) (fun t => t.peek 0x2010 8 == 0x77 && t.peek 0x2000 8 == 0x66 && ((t.octOf 0).active.map (·.done)) == [true]) = true := by decide
theorem test_mbias : after .mbias { matrix biasBlock with mem := mwrite (matrix biasBlock).mem 0x1004 (bytesOf 4 0x40000000) } (fun t => t.peek (rowAddr 64 + 132) 4 == 0x40400000 && t.peek (rowAddr 64 + 4) 4 == 0x40000000) = true := by decide
theorem test_skqry_result : after .skqryResult { querying 2 none with mem := mwrite (querying 2 none).mem 0x2000 ((List.range 16).flatMap fun _ => bytesOf 4 6) } (fun t => ((t.coreOf 0).qbufs.map fun q => q.ests.length) == [2, 1] && (t.coreOf 0).qbufs.all fun q => q.ests.drop 1 == [] || q.ests.drop 1 == [6] || q.ests.drop 1 == [-6]) = true := by decide
theorem test_power_compare : after .powerCompare (quads .running false 1200001) (fun t => t.pkg.compares == 0) = true := by decide
theorem test_hfrresp_failed : after .hfrrespFailed { ringing false with ten := [(0, { bar := [{ what := .matrix 0, cause := .page, va := 0, record := some 7 }] })] } (fun t => ((t.tenOf 0).bar.map fun b => (b.served, b.refused)) == [(false, true)]) = true := by decide
theorem test_tlbcmd_done : after .tlbcmdDone { row [] with pkg := { tlbcmd := BitVec.ofNat 64 (2 ^ 63 + 3) }, ten := [(4, { s1root := 0x2001 })] } (fun t => t.pkg.tlbcmd == 3 && (t.tenOf 4).root1 == 0x2001) = true ∧ after .tlbcmdIpa (tlbStore (0x10000 + 2)) (fun t => (t.coreOf 0).dtlb.length == 3) = true := by decide
theorem test_reset : after .reset { row [(5, 7)] with cycle := 9 } (fun t => t.greg 0 5 == 0 && t.ctl == [] && t.cycle == 0 && t.pkg.ready0 == 0) = true := by decide
theorem test_messages_between_rows : after (.sendHe 5 6) (row [(5, 1), (6, 7)]) (fun t => (tget none (t.octOf 0).hub 0).isSome && !(t.ctlOf 0).p && (t.thrOf 0).chunk.deferred == [.release]) = true ∧ after (.recvDl 6 8 7 0) received (fun t => t.greg 0 6 == 2 ^ 63) = true ∧ after (.recvDl 6 8 6 0) received (fun t => (t.ctlOf 0).wait == 2) = true := by decide
theorem test_engine_words : after (.xreduce 9 2) issuing (fun t => (t.thrOf 0).trapCause == some .illegal) = true ∧ after (.skadd 9 2) issuing (fun t => (t.thrOf 0).trapCause == some .illegal) = true ∧ after (.skupdv 5 6 1) (atSketch header) (fun t => (t.pip.map fun p => match p.kind with | .update l => (l.length, l.head?) | _ => (0, none)) == [(16, some (103, 5))]) = true := by decide
theorem test_barrier_word : after .barrierWordWrite { row [] with sel := { unit := 0, sub := 3, idx := 1, data := BitVec.ofNat 64 (2 ^ 63 + 5 * 2 ^ 24) } } (fun t => t.barOf 0 49 == { arm := true, expect := 5 }) = true ∧ after .barrierWordWrite { row [] with sel := { unit := 0, sub := 3, idx := 1, data := BitVec.ofNat 64 (2 ^ 63) } } (fun t => t.barOf 0 49 == {}) = true := by decide
theorem test_undecodable : after .undecodableWord (row []) (fun t => (t.ctlOf 0).state == .faulted && (t.thrOf 0).trapCause == some .illegal) = true := by decide

end Sys2Proof.Tests
end

section
namespace Sys2Proof.Machine

/-- The write-back of a pending load is a sequence of stores, each of which keeps the canonical form. -/
theorem Memory.wf_bindCells {rid : Nat} {l : PLoad} {v : List Byte} {m : Mem} (h : Memory.wf m = true) :
    Memory.wf (bindCells rid l v m) = true := by
  unfold bindCells
  extract_lets x full m1 m2
  have h1 : Memory.wf m1 = true := by
    unfold m1
    split
    · split
      · exact h
      · exact wf_mwrite _ _ _ h
    · exact h
  have h2 : Memory.wf m2 = true := by
    unfold m2
    split
    · exact wf_mwrite _ _ _ h1
    · exact h1
  split
  · exact wf_mwrite _ _ _ h2
  · exact h2

end Sys2Proof.Machine

/-! ## Memory stays canonical

`Safety.Inv` speaks of the bytes of a state alone, and few functions of the model write them: `State.poke`, the row and leaf writes, the
write-back of a load, the scrub of a core, the reset. Every other function changes the other fields, or runs functions that do. So there is one
lemma for each function of the model, named after it, which says that the function keeps the invariant, and whose proof follows the function's
text: a chain `h.f.g` where the text runs `f` and then `g`, `.ite` at an `if`, `.bind` at a `←`, `split` at a `match`. A function whose result
is not a state has a predicate here that says which states of the result meet the invariant. -/

namespace Sys2Proof.Safety
open Sys2Proof Sys2Proof.Machine

section
variable {α β ε : Type} {s t : State} {P : α → Prop} {Q : β → Prop}

/-! ### States -/

/-- A state meets the invariant when its bytes are canonical, whatever the other fields are. -/
theorem Inv.ofMem {cycle m ctl thr core quad oct clu ten pkg nodes teams bdc banks pip uncorr cur sel schedule seq}
    (h : Memory.wf m = true) :
    Inv ⟨cycle, m, ctl, thr, core, quad, oct, clu, ten, pkg, nodes, teams, bdc, banks, pip, uncorr, cur, sel, schedule, seq⟩ := h

/-- An update of any fields but the bytes keeps the invariant. The state is written out so that every record update unifies with it. -/
theorem Inv.same {cycle ctl thr core quad oct clu ten pkg nodes teams bdc banks pip uncorr cur sel schedule seq} (h : Inv s) :
    Inv ⟨cycle, s.mem, ctl, thr, core, quad, oct, clu, ten, pkg, nodes, teams, bdc, banks, pip, uncorr, cur, sel, schedule, seq⟩ := h

theorem Inv.fst_eq {p : State × α} {a : α} (h : Inv p.1) (e : p = (t, a)) : Inv t := by
  subst e
  exact h

theorem Inv.snd_eq {p : α × State} {a : α} (h : Inv p.2) (e : p = (a, t)) : Inv t := by
  subst e
  exact h

theorem Inv.ite {c : Prop} {_ : Decidable c} (hs : Inv s) (ht : Inv t) : Inv (if c then s else t) := by
  split <;> assumption

theorem Inv.foldl {f : State → α → State} {l : List α} (h : Inv s) (hf : ∀ s a, Inv s → Inv (f s a)) : Inv (l.foldl f s) := by
  induction l generalizing s with
  | nil => exact h
  | cons a l ih => exact ih (hf s a h)

/-! ### Options -/

/-- The value of the option, if there is one, meets `P`. -/
def InOption (P : α → Prop) : Option α → Prop
  | some a => P a
  | none => True

theorem InOption.some_eq {x : Option α} {a : α} (h : InOption P x) (e : x = some a) : P a := by
  subst e
  exact h

theorem InOption.ite {c : Prop} {_ : Decidable c} {x y : Option α} (hx : InOption P x) (hy : InOption P y) :
    InOption P (if c then x else y) := by
  split <;> assumption

theorem InOption.map {x : Option α} {f : α → β} (hx : InOption (fun a => Q (f a)) x) : InOption Q (x.map f) := by
  cases x with
  | some a => exact hx
  | none => trivial

theorem InOption.findSome? {f : β → Option α} {l : List β} (hf : ∀ b, InOption P (f b)) : InOption P (l.findSome? f) := by
  induction l with
  | nil => trivial
  | cons b l ih =>
    rw [List.findSome?_cons]
    split
    next e => exact (hf b).some_eq e
    · exact ih

theorem InOption.getD {x : Option α} {a : α} (h : InOption P x) (ha : P a) : P (x.getD a) := by
  cases x with
  | some b => exact h
  | none => exact ha

/-! ### Words: a result, or a stop that leaves the state as it was -/

/-- The result, if the word does not stop, meets `P`. -/
def InOk (P : α → Prop) : Except ε α → Prop
  | .ok a => P a
  | .error _ => True

theorem InOk.ok_eq {x : Except ε α} {a : α} (h : InOk P x) (e : x = .ok a) : P a := by
  subst e
  exact h

theorem InOk.ite {c : Prop} {_ : Decidable c} {x y : Except ε α} (hx : InOk P x) (hy : InOk P y) : InOk P (if c then x else y) := by
  split <;> assumption

theorem InOk.bind {x : Except ε α} {f : α → Except ε β} (hx : InOk P x) (hf : ∀ a, P a → InOk Q (f a)) : InOk Q (x >>= f) := by
  cases x with
  | ok a => exact hf a hx
  | error e => trivial

/-- A first part that says nothing of a state: a check, or a value read. -/
theorem InOk.skip {x : Except ε α} {f : α → Except ε β} (hf : ∀ a, InOk Q (f a)) : InOk Q (x >>= f) := by
  cases x with
  | ok a => exact hf a
  | error e => trivial

theorem InOk.pure {a : α} {f : α → Except ε β} (h : InOk Q (f a)) : InOk Q (.ok a >>= f) := h

theorem InOk.map {x : Except ε α} {f : α → β} (hx : InOk (fun a => Q (f a)) x) : InOk Q (x.map f) := by
  cases x with
  | ok a => exact hx
  | error e => trivial

/-! ### Engines: a result, or a stop that may carry a state -/

/-- The state that a stop of an engine carries, if it carries one, meets the invariant. -/
def InStop : EStop → Prop
  | .dropped t => Inv t
  | _ => True

/-- The result meets `P`, and so does the state of a stop meet the invariant. -/
def InEng (P : α → Prop) : Except EStop α → Prop
  | .ok a => P a
  | .error e => InStop e

theorem InEng.ok_eq {x : Except EStop α} {a : α} (h : InEng P x) (e : x = .ok a) : P a := by
  subst e
  exact h

theorem InEng.error_eq {x : Except EStop α} {i : EStop} (h : InEng P x) (e : x = .error i) : InStop i := by
  subst e
  exact h

theorem InEng.dropped_eq {x : Except EStop α} (h : InEng P x) (e : x = .error (.dropped t)) : Inv t := h.error_eq e

theorem InEng.ite {c : Prop} {_ : Decidable c} {x y : Except EStop α} (hx : InEng P x) (hy : InEng P y) :
    InEng P (if c then x else y) := by
  split <;> assumption

theorem InEng.bind {x : Except EStop α} {f : α → Except EStop β} (hx : InEng P x) (hf : ∀ a, P a → InEng Q (f a)) :
    InEng Q (x >>= f) := by
  cases x with
  | ok a => exact hf a hx
  | error e => exact hx

theorem InEng.pure {a : α} {f : α → Except EStop β} (h : InEng Q (f a)) : InEng Q (.ok a >>= f) := h

theorem InEng.map {x : Except EStop α} {f : α → β} (hx : InEng (fun a => Q (f a)) x) : InEng Q (x.map f) := by
  cases x with
  | ok a => exact hx
  | error e => exact hx

/-! ### The other results of the model -/

/-- The state after an instruction or a step, when it is not refused. -/
def InOut : Out → Prop
  | .next t => Inv t
  | _ => True

theorem InOut.ite {c : Prop} {_ : Decidable c} {x y : Out} (hx : InOut x) (hy : InOut y) : InOut (if c then x else y) := by
  split <;> assumption

theorem InOut.next_eq {x : Out} (h : InOut x) (e : x = .next t) : Inv t := by
  subst e
  exact h

/-- The state after an attempt to commit a chunk. -/
def InCommit : CommitRes → Prop
  | .done t | .replayed t => Inv t
  | .notYet => True

theorem InCommit.ite {c : Prop} {_ : Decidable c} {x y : CommitRes} (hx : InCommit x) (hy : InCommit y) :
    InCommit (if c then x else y) := by
  split <;> assumption

theorem InCommit.done_eq {x : CommitRes} (h : InCommit x) (e : x = .done t) : Inv t := by
  subst e
  exact h

theorem InCommit.replayed_eq {x : CommitRes} (h : InCommit x) (e : x = .replayed t) : Inv t := by
  subst e
  exact h

/-- The state after the start of a migration. -/
def InMig : MigStart → Prop
  | .begun t => Inv t
  | _ => True

theorem InMig.ite {c : Prop} {_ : Decidable c} {x y : MigStart} (hx : InMig x) (hy : InMig y) : InMig (if c then x else y) := by
  split <;> assumption

theorem InMig.begun_eq {x : MigStart} (h : InMig x) (e : x = .begun t) : Inv t := by
  subst e
  exact h

/-- The state in which a row's next words issue. -/
def InPrep : Prep → Prop
  | .idle t | .one _ t | .two _ _ t => Inv t

theorem InPrep.ite {c : Prop} {_ : Decidable c} {x y : Prep} (hx : InPrep x) (hy : InPrep y) : InPrep (if c then x else y) := by
  split <;> assumption

theorem InPrep.idle_eq {x : Prep} (h : InPrep x) (e : x = .idle t) : Inv t := by
  subst e
  exact h

theorem InPrep.one_eq {x : Prep} {i : Instr} (h : InPrep x) (e : x = .one i t) : Inv t := by
  subst e
  exact h

theorem InPrep.two_eq {x : Prep} {i j : Instr} (h : InPrep x) (e : x = .two i j t) : Inv t := by
  subst e
  exact h

/-- The state after a core's translation. -/
def InXlat : CoreX → Prop
  | .ok _ _ t => Inv t
  | _ => True

theorem InXlat.ite {c : Prop} {_ : Decidable c} {x y : CoreX} (hx : InXlat x) (hy : InXlat y) : InXlat (if c then x else y) := by
  split <;> assumption

theorem InXlat.ok_eq {x : CoreX} {a b : Nat} (h : InXlat x) (e : x = .ok a b t) : Inv t := by
  subst e
  exact h

/-- The state after the start of a matrix command, started or not. -/
def InEither : Except State State → Prop
  | .ok t | .error t => Inv t

theorem InEither.ite {c : Prop} {_ : Decidable c} {x y : Except State State} (hx : InEither x) (hy : InEither y) :
    InEither (if c then x else y) := by
  split <;> assumption

theorem InEither.ok_eq {x : Except State State} (h : InEither x) (e : x = .ok t) : Inv t := by
  subst e
  exact h

theorem InEither.error_eq {x : Except State State} (h : InEither x) (e : x = .error t) : Inv t := by
  subst e
  exact h

end

section
variable {s : State}

/-! ### The functions of Machine/Base -/

theorem Inv.setCtl {rid c} (h : Inv s) : Inv (s.setCtl rid c) := h.same
theorem Inv.modCtl {rid f} (h : Inv s) : Inv (s.modCtl rid f) := h.setCtl
theorem Inv.setThr {rid t} (h : Inv s) : Inv (s.setThr rid t) := h.same
theorem Inv.modThr {rid f} (h : Inv s) : Inv (s.modThr rid f) := h.setThr
theorem Inv.setCore {c x} (h : Inv s) : Inv (s.setCore c x) := h.same
theorem Inv.modCore {c f} (h : Inv s) : Inv (s.modCore c f) := h.setCore
theorem Inv.modQuad {q f} (h : Inv s) : Inv (s.modQuad q f) := h.same
theorem Inv.modOct {o f} (h : Inv s) : Inv (s.modOct o f) := h.same
theorem Inv.modClu {k f} (h : Inv s) : Inv (s.modClu k f) := h.same
theorem Inv.modTen {t f} (h : Inv s) : Inv (s.modTen t f) := h.same
theorem Inv.modNode {n f} (h : Inv s) : Inv (s.modNode n f) := h.same
theorem Inv.modBdc {b f} (h : Inv s) : Inv (s.modBdc b f) := h.same
theorem Inv.modPkg {f} (h : Inv s) : Inv (s.modPkg f) := h.same
theorem Inv.modCur {f} (h : Inv s) : Inv (s.modCur f) := h.same
theorem Inv.tick (h : Inv s) : Inv s.tick.2 := h.same
theorem Inv.poke {pa bs} (h : Inv s) : Inv (s.poke pa bs) := Memory.wf_mwrite _ _ _ h

theorem Inv.pokeLong {fuel pa bs} (h : Inv s) : Inv (State.pokeLong fuel s pa bs) := by
  induction fuel generalizing s pa bs with
  | zero => exact h
  | succ n ih =>
    unfold State.pokeLong
    exact .ite h (ih h.poke)

theorem Inv.modCs {core ten f} (h : Inv s) : Inv (s.modCs core ten f) := h.modCore
theorem Inv.modCsRow {rid f} (h : Inv s) : Inv (s.modCsRow rid f) := h.modCs
theorem Inv.modLoaded {core f} (h : Inv s) : Inv (s.modLoaded core f) := h.modCore

/-! ### The functions of Machine/Sync -/

theorem Inv.rowPut {rid off n v} (h : Inv s) : Inv (s.rowPut rid off n v) := Memory.wf_mwrite _ _ _ h
theorem Inv.rowZero {rid off n} (h : Inv s) : Inv (s.rowZero rid off n) := Memory.wf_msplice _ _ _ _ h
theorem Inv.enterReady {rid} (h : Inv s) : Inv (s.enterReady rid) := h.modCtl.modThr
theorem Inv.moved {rid} (h : Inv s) : Inv (s.moved rid) := h.modThr
theorem Inv.makeReady {rid} (h : Inv s) : Inv (s.makeReady rid) := h.enterReady.moved
theorem Inv.writeTurnlen {core f} (h : Inv s) : Inv (s.writeTurnlen core f) := h.same.modLoaded
theorem Inv.wakeRow {rid} (h : Inv s) : Inv (s.wakeRow rid) := .ite h.makeReady (.ite h.modThr h)
theorem Inv.wakeAll {l} (h : Inv s) : Inv (s.wakeAll l) := h.foldl fun _ _ h => h.wakeRow

theorem Inv.modQueue {r f} (h : Inv s) : Inv (s.modQueue r f) := by
  unfold State.modQueue
  split
  · exact h.modLoaded
  · exact h.modCs
  · exact h.modClu

theorem Inv.takeRoom {r} (h : Inv s) : Inv (s.takeRoom r) := by
  unfold State.takeRoom
  dsimp only
  split
  · exact h
  · exact h
  · exact .ite h h.modQueue.modClu

theorem Inv.giveRoom {r} (h : Inv s) : Inv (s.giveRoom r) := by
  unfold State.giveRoom
  split
  · exact h
  · exact h
  · exact .ite h h.modQueue.modClu

theorem Inv.serveQueue {fuel r} (h : Inv s) : Inv (serveQueue fuel r s) := by
  induction fuel generalizing r s with
  | zero => exact h
  | succ n ih =>
    unfold Machine.serveQueue
    split
    · exact ih h.modQueue.makeReady
    · split
      · exact h
      · split
        · exact h
        · exact .ite (ih h.takeRoom.modQueue.makeReady) h

theorem Inv.serve {r} (h : Inv s) : Inv (s.serve r) := (Inv.ite h.serveQueue.wakeAll h.serveQueue).wakeAll

theorem Inv.push {r rid v} (h : Inv s) : InOption Inv (s.push r rid v) :=
  .ite h.modQueue.modQueue.serve (.ite h.takeRoom.modQueue.serve trivial)

theorem Inv.pop {r rid} (h : Inv s) : InOption (fun p => Inv p.2) (s.pop r rid) := by
  unfold State.pop
  split
  · trivial
  · exact h.modQueue.giveRoom.serve

theorem Inv.serveClaims {fuel cands inScope code free} (h : Inv s) : Inv (State.serveClaims fuel cands inScope code free s) := by
  induction fuel generalizing cands inScope code free s with
  | zero => exact h
  | succ n ih =>
    unfold State.serveClaims
    refine .ite h ?_
    split
    · exact h.wakeAll
    · exact ih h.wakeRow.modThr

theorem Inv.serveHub {oct} (h : Inv s) : Inv (s.serveHub oct) := h.serveClaims
theorem Inv.mqServe {core} (h : Inv s) : Inv (s.mqServe core) := h.serveClaims
theorem Inv.serveQbufs {core} (h : Inv s) : Inv (s.serveQbufs core) := h.serveClaims
theorem Inv.serveLaunch {ten} (h : Inv s) : Inv (s.serveLaunch ten) := h.serveClaims
theorem Inv.serveInbound {b} (h : Inv s) : Inv (s.serveInbound b) := h.serveClaims

theorem Inv.dropClaim {rid} (h : Inv s) : Inv (s.dropClaim rid) :=
  .ite h.modThr (.ite h.modThr.mqServe (.ite h.modThr.serveLaunch (.ite h.modThr.serveHub
    (.ite h.modThr.serveQbufs h.modThr.serveInbound))))

theorem Inv.takeSlot {rid tag} (h : Inv s) : Inv (s.takeSlot rid tag) := h.modLoaded

theorem Inv.freeSlot {core ten tag} (h : Inv s) : Inv (s.freeSlot core ten tag) := by
  unfold State.freeSlot
  dsimp only
  split
  · exact h.modCs.wakeAll
  · exact h.modCs.modLoaded.wakeRow

theorem Inv.post {core ten tag status info} (h : Inv s) : Inv (s.post core ten tag status info) := by
  unfold State.post
  split
  · exact h
  · dsimp only
    split
    · exact .ite h.tick.modCs h.tick.freeSlot
    · exact .ite h.tick.modCs.wakeRow h.tick.modCs

theorem Inv.dropKept {rid} (h : Inv s) : Inv (s.dropKept rid) := h.foldl fun _ _ h => h.freeSlot

theorem Inv.dropReservations {rid} (h : Inv s) : Inv (s.dropReservations rid) :=
  h.dropClaim.dropKept.foldl (fun _ _ h => .ite ((Inv.ite h.modQueue.giveRoom h).modQueue.serve) h)

theorem Inv.tbWake {core ten i} (h : Inv s) : Inv (s.tbWake core ten i) := h.wakeAll
theorem Inv.tbArrive {core ten i} (h : Inv s) : Inv (s.tbArrive core ten i) := (Inv.ite h.modCs.modCore h.modCs).tbWake
theorem Inv.tbInit {core i v} (h : Inv s) : Inv (s.tbInit core i v) := h.modLoaded.tbWake

theorem Inv.serveLate {fuel k} (h : Inv s) : Inv (State.serveLate fuel s k) := by
  induction fuel generalizing s k with
  | zero => exact h
  | succ n ih =>
    unfold State.serveLate
    split
    · exact h
    · exact .ite (ih h.modClu) h

theorem Inv.serveLocks {k} (h : Inv s) : Inv (s.serveLocks k) := by
  unfold State.serveLocks
  dsimp only
  split
  · exact h.serveLate.wakeAll
  · exact .ite h.serveLate.wakeRow h.serveLate

theorem Inv.freeLocks {k id} (h : Inv s) : Inv (s.freeLocks k id) := h.modClu.serveLocks
theorem Inv.hfr {ty ten payload} (h : Inv s) : Inv (s.hfr ty ten payload) := h.modPkg
theorem Inv.hfrAsk {ty ten payload about} (h : Inv s) : Inv (s.hfrAsk ty ten payload about).2 := h.hfr.modPkg
theorem Inv.modBarEntry {ten i f} (h : Inv s) : Inv (s.modBarEntry ten i f) := h.modTen

theorem Inv.askNext {ten page} (h : Inv s) : Inv (s.askNext ten page) := by
  unfold State.askNext
  split
  · exact h
  · split
    · exact h
    · exact .ite h h.hfrAsk.modBarEntry

theorem Inv.dropBar {ten what} (h : Inv s) : Inv (s.dropBar ten what) := h.modTen.foldl fun _ _ h => h.askNext.serveLocks

/-! ### The functions of Machine/Rows -/

theorem Inv.noteIdle {rid} (h : Inv s) : Inv (s.noteIdle rid) := .ite h h.modQuad
theorem Inv.dropPackets {rid} (h : Inv s) : Inv (s.dropPackets rid) := .ite h h.modCsRow.modCore

theorem Inv.unbind {rid k} (h : Inv s) : Inv (s.unbind rid k) := by
  unfold State.unbind
  dsimp only
  split
  · exact h.rowZero.dropBar
  · exact h.rowZero.dropBar.modCore.freeLocks

theorem Inv.unbindAll {rid} (h : Inv s) : Inv (s.unbindAll rid) := h.foldl fun _ _ h => .ite h.unbind h
theorem Inv.unstage {rid} (h : Inv s) : Inv (s.unstage rid) := h.modCore
theorem Inv.abandonQueries {rid} (h : Inv s) : Inv (s.abandonQueries rid) := .ite h h.modCore.serveQbufs
theorem Inv.wakeParent {core parent} (h : Inv s) : Inv (s.wakeParent core parent) := .ite h.wakeRow h

theorem Inv.backDone {rid} (h : Inv s) : Inv (s.backDone rid) := by
  unfold State.backDone
  split
  · exact h
  · exact (Inv.ite h.modCsRow h).wakeParent

theorem Inv.withdrawArrival {rid} (h : Inv s) : Inv (s.withdrawArrival rid) := h.modClu

theorem Inv.leaveWait {rid} (h : Inv s) : Inv (s.leaveWait rid) := by
  unfold State.leaveWait
  exact (Inv.ite h.withdrawArrival h).dropReservations.abandonQueries.modThr.serveLocks

theorem Inv.exitRow {rid} (h : Inv s) : Inv (s.exitRow rid) := by
  unfold State.exitRow
  dsimp only
  split
  · exact h.modCtl.unbindAll.dropPackets.dropReservations.wakeParent
  · exact h.modCtl.unbindAll.dropPackets.dropReservations

theorem Inv.nullRow {rid ltag} (h : Inv s) : Inv (s.nullRow rid ltag) := by
  unfold State.nullRow
  extract_lets core s1 s2 s3 done s4 s5 k s6 waiting s7
  have h3 : Inv s3 := h.leaveWait.unbindAll.modCtl.dropPackets.abandonQueries
  have h7 : Inv s7 := (h3.modCsRow.foldl fun _ _ h => h.freeSlot).modClu.same
  exact .ite h7 h7.backDone

theorem Inv.holdRow {rid why} (h : Inv s) : Inv (s.holdRow rid why) := by
  unfold State.holdRow
  refine .ite h ?_
  extract_lets left s1 asks s2 s3
  have h1 : Inv s1 := .ite h.dropReservations h
  have h3 : Inv s3 := h1.unstage.abandonQueries.noteIdle.modThr.modCtl.moved
  exact .ite h3.serveLocks h3

theorem Inv.releaseRow {rid} (h : Inv s) : Inv (s.releaseRow rid) :=
  .ite (.ite h.tick.modThr.makeReady (.ite h.tick.modThr.modCtl.moved.dropPackets h.tick.modThr.modCtl.moved)) h

theorem Inv.stopRow {rid why} (h : Inv s) : Inv (s.stopRow rid why) := by
  unfold State.stopRow
  split
  · exact h
  · exact h.modThr
  · split
    · exact h.nullRow.noteIdle.moved
    · exact h
    · exact h.holdRow

theorem Inv.queueFault {rid cause why addr pc cyc} (h : Inv s) : Inv (s.queueFault rid cause why addr pc cyc) := h.modTen

theorem Inv.ctlReport {rid} (h : Inv s) : Inv (s.ctlReport rid) := by
  unfold State.ctlReport
  split
  · exact h
  · exact .ite h h.queueFault.modThr

theorem Inv.ctlRewrite {rid word} (h : Inv s) : Inv (s.ctlRewrite rid word) :=
  .ite h (.ite h.ctlReport.modThr (.ite h.ctlReport.same.modThr h.ctlReport))

theorem Inv.ctlStore0 {rid v} (h : Inv s) : Inv (s.ctlStore0 rid v) := by
  unfold State.ctlStore0
  dsimp only
  split
  · exact .ite h.modCtl.modCtl h.modCtl.modCtl
  · exact h.modCtl.modCtl
  · exact h.modCtl.enterReady
  · exact h.modCtl.leaveWait.noteIdle.modCtl
  · exact h.modCtl.leaveWait.noteIdle.modCtl
  · exact h.modCtl.leaveWait.noteIdle.modCtl
  · exact h.modCtl.enterReady
  · exact h.modCtl.nullRow
  · exact h.modCtl.nullRow
  · exact h.modCtl.nullRow
  · exact h.modCtl

theorem Inv.ctlStore1 {rid v} (h : Inv s) : Inv (s.ctlStore1 rid v) := (Inv.ite h.leaveWait.enterReady h.leaveWait).modCtl.modThr

theorem Inv.ctlStore {rid word v} (h : Inv s) : Inv (s.ctlStore rid word v) :=
  .ite h.ctlRewrite (.ite h.ctlRewrite.ctlStore0 h.ctlRewrite.ctlStore1)

theorem Inv.ctlCas {rid word expected new} (h : Inv s) : Inv (s.ctlCas rid word expected new).2 := .ite h.ctlStore h
theorem Inv.clearUncorr {pa n} (h : Inv s) : Inv (s.clearUncorr pa n) := .ite h h.same

theorem Inv.rowStoreBytes {pa bs} (h : Inv s) : Inv (s.rowStoreBytes pa bs) := by
  unfold State.rowStoreBytes
  dsimp only
  split
  · exact .ite h.clearUncorr.poke (.ite h (.ite h.clearUncorr.poke h.clearUncorr.poke))
  · exact h.clearUncorr.poke

theorem Inv.flushDeferred {l} (h : Inv s) : Inv (s.flushDeferred l) := by
  unfold State.flushDeferred
  refine h.foldl ?_
  intro s _ h1
  split
  · exact h1.rowStoreBytes
  · exact h1.ctlStore

theorem Inv.closeRow {rid st wait wake} (h : Inv s) : Inv (s.closeRow rid st wait wake) := by
  unfold State.closeRow
  extract_lets core port busy s1 k s2
  have h1 : Inv s1 := by
    unfold s1
    clear_value core port busy k
    split
    · exact h.modCore
    · exact h
  have h2 : Inv s2 := h1.modClu
  clear_value s2
  refine Inv.flushDeferred ?_
  split
  · exact h2.same.noteIdle.modThr.makeReady
  · exact h2.same.noteIdle.modThr.exitRow.moved
  · exact h2.same.noteIdle.modThr.nullRow.moved
  · exact h2.same.noteIdle.modThr.modCtl.moved

/-! ### The functions of Machine/Translate -/

theorem Inv.xlatCluster {k ten va} (h : Inv s) : Inv (s.xlatCluster k ten va).2 := by
  unfold State.xlatCluster
  split
  · exact h
  · split
    · exact h.modClu
    · exact h

theorem Inv.xlatCore {core ten va fetch} (h : Inv s) : Inv (s.xlatCore core ten va fetch).2 := by
  unfold State.xlatCore
  dsimp only
  split
  · exact h
  · split
    next e => exact (h.xlatCluster.snd_eq e).modCore
    · exact h.xlatCluster

theorem Inv.tlbRemove {p} (h : Inv s) : Inv (s.tlbRemove p) := h.same
theorem Inv.tlbPage {ten va} (h : Inv s) : Inv (s.tlbPage ten va) := h.tlbRemove

theorem Inv.pullLine {i line} (h : Inv s) : Inv (s.pullLine i line) := by
  unfold State.pullLine
  split
  · exact h
  · exact .ite h h.poke.same.modPkg

theorem Inv.coreXlat {rid va a} (h : Inv s) : InXlat (s.coreXlat rid va a) := by
  unfold State.coreXlat
  extract_lets core ten r
  have hr : Inv r.2 := by
    unfold r
    split
    · exact h.xlatCluster
    · exact h.xlatCore
  clear_value r
  split
  · refine .ite trivial ?_
    split
    · trivial
    · exact hr
  · trivial
  · trivial

theorem Inv.engXlat {k ten va write} (h : Inv s) : InOk (fun p => Inv p.2.2) (s.engXlat k ten va write) := by
  unfold State.engXlat
  refine .ite trivial ?_
  split
  · trivial
  · trivial
  · trivial
  next e =>
    have h1 := h.xlatCluster.snd_eq e
    refine .ite trivial (.ite trivial ?_)
    show Inv _
    split
    · exact h1.pullLine
    · exact h1

/-! ### The functions of Machine/Nest -/

theorem Inv.notifyNode {n status} (h : Inv s) : Inv (s.notifyNode n status) := by
  unfold State.notifyNode
  dsimp only
  split
  · exact h.post
  · exact h

theorem Inv.nodeComplete {n} (h : Inv s) : Inv (s.nodeComplete n) := h.modPkg.notifyNode.modNode
theorem Inv.countDiscard {ten n} (h : Inv s) : Inv (s.countDiscard ten n) := h.modTen
theorem Inv.setUseCount {ten e n} (h : Inv s) : Inv (s.setUseCount ten e n) := h.poke
theorem Inv.modNest {k slot f} (h : Inv s) : Inv (s.modNest k slot f) := h.modClu
theorem Inv.modGNode {k slot i f} (h : Inv s) : Inv (s.modGNode k slot i f) := h.modNest
theorem Inv.enterNest {k slot n} (h : Inv s) : Inv (s.enterNest k slot n) := h.modClu.setUseCount
theorem Inv.clearLinks {k ids} (h : Inv s) : Inv (s.clearLinks k ids) := .ite h.modClu h.modClu.serve

theorem Inv.nestEnd {k slot status info} (h : Inv s) : Inv (s.nestEnd k slot status info) := by
  unfold State.nestEnd
  split
  · exact h
  next n _ =>
    extract_lets s1 s2 s3 s4 s5 s6
    have h1 : Inv s1 := h.foldl fun _ _ h => .ite h.modThr h
    have h5 : Inv s5 := h1.clearLinks.modClu.same.setUseCount
    have h6 : Inv s6 := by
      unfold s6
      clear_value s5
      split
      · exact h5.post
      · exact h5.nodeComplete
      · exact h5
    exact h6.wakeAll.wakeAll

theorem Inv.abortProgress {k slot} (h : Inv s) : Inv (s.abortProgress k slot) := by
  unfold State.abortProgress
  split
  · split
    · exact .ite h.nestEnd h
    · exact h
  · exact h

theorem Inv.nestAbort {fuel k slot status info} (h : Inv s) : Inv (State.nestAbort fuel s k slot status info) := by
  induction fuel generalizing s k slot status info with
  | zero => exact h
  | succ n ih =>
    unfold State.nestAbort
    split
    · exact h
    · exact .ite h (((h.modNest.foldl (fun _ _ h => h.stopRow)).foldl (fun _ _ h => ih h)).abortProgress)

theorem Inv.makeThread {rid pc pri team hdl ready} (h : Inv s) : Inv (s.makeThread rid pc pri team hdl ready) :=
  .ite h.same.modCtl.moved.makeReady h.same.modCtl.moved

theorem Inv.createLeaf {k slot i n} (h : Inv s) : InOption Inv (s.createLeaf k slot i n) := by
  unfold State.createLeaf
  dsimp only
  split
  · trivial
  · exact (Inv.ofMem (Memory.wf_mwrite _ _ _ (Memory.wf_msplice _ _ _ _ h))).rowPut.rowPut.rowPut.rowPut.rowZero.makeThread.modThr

theorem Inv.createLeaves {k slot leaves} (h : Inv s) : Inv (s.createLeaves k slot leaves) := by
  unfold State.createLeaves
  split
  · exact h
  · split
    · exact h.nestAbort
    · exact h.foldl fun _ _ h => h.createLeaf.getD h

theorem Inv.instantiate {k slot} (h : Inv s) : Inv (s.instantiate k slot) := by
  unfold State.instantiate
  split
  · exact h
  · exact h.modNest.createLeaves

theorem Inv.nodeEnd {k slot i} (h : Inv s) : Inv (s.nodeEnd k slot i) := by
  unfold State.nodeEnd
  split
  · exact h
  · dsimp only
    split
    · exact h.modNest.clearLinks.nestEnd
    · exact .ite h.modNest.clearLinks h.modNest.clearLinks.createLeaves

theorem Inv.startNestHandler {k slot i x} (h : Inv s) : Inv (s.startNestHandler k slot i x) := by
  unfold State.startNestHandler
  split
  · exact h
  · exact h.rowZero.rowPut.rowPut.rowPut.rowPut.rowPut.makeThread.modThr.modGNode

theorem Inv.handlerNext {k slot i} (h : Inv s) : Inv (s.handlerNext k slot i) := by
  unfold State.handlerNext
  split
  · exact h
  · refine .ite h ?_
    split
    · exact h
    · split
      · exact h.modGNode.startNestHandler
      · exact h

theorem Inv.passFault {k slot x from_} (h : Inv s) : Inv (s.passFault k slot x from_) := by
  unfold State.passFault
  split
  · exact h
  · split
    · exact h.nestAbort
    · exact h.modGNode.handlerNext

theorem Inv.routeFault {k slot faulted from_} (h : Inv s) : Inv (s.routeFault k slot faulted from_) := by
  unfold State.routeFault
  split
  · exact h
  · exact h.passFault

theorem Inv.nestHandlerEnd {k slot i} (h : Inv s) : Inv (s.nestHandlerEnd k slot i) := by
  unfold State.nestHandlerEnd
  split
  · exact h
  · refine Inv.handlerNext ?_
    split
    · exact .ite h.modGNode.passFault h.modGNode
    · exact h.modGNode

/-! ### The functions of Machine/Ops -/

theorem Inv.freeSendBuf {oct buf} (h : Inv s) : Inv (s.freeSendBuf oct buf) := h.modOct.serveHub

theorem Inv.cancelPacket {rid} (h : Inv s) : Inv (s.cancelPacket rid) := by
  unfold State.cancelPacket
  split
  · exact h.modCtl
  · exact h.modThr.modCtl.freeSendBuf

theorem Inv.startHandler {faulted row cause g3 pc hdl} (h : Inv s) : Inv (s.startHandler faulted row cause g3 pc hdl) :=
  h.rowZero.rowPut.rowPut.rowPut.rowPut.makeThread.modThr

theorem Inv.dispatchTrap {rid c g3} (h : Inv s) : Inv (s.dispatchTrap rid c g3) := by
  unfold State.dispatchTrap
  dsimp only
  split
  · exact h.routeFault
  · split
    · split
      · exact h.nestAbort
      · exact h.queueFault
    · exact h.queueFault
  · split
    · exact h.queueFault
    · split
      · exact h.modCsRow.startHandler
      · exact .ite h.startHandler h.queueFault

theorem Inv.endBaseHandler {rid status info} (h : Inv s) : Inv (s.endBaseHandler rid status info) := by
  unfold State.endBaseHandler
  dsimp only
  split
  · exact h
  · exact h.post.same.modBdc

theorem Inv.killBaseHandler {rid c pc} (h : Inv s) : Inv (s.killBaseHandler rid c pc) := h.endBaseHandler.hfr

theorem Inv.takeMark {rid} (h : Inv s) : Inv (s.takeMark rid) := by
  unfold State.takeMark
  split
  · exact h
  · dsimp only
    split
    · exact h.stopRow.abortProgress
    · exact h.stopRow
  · exact .ite h.modThr h.modThr.stopRow
  · exact h

theorem Inv.takeTrap {rid c g3 pc fetch} (h : Inv s) : Inv (s.takeTrap rid c g3 pc fetch) :=
  .ite h.killBaseHandler h.cancelPacket.abandonQueries.modCtl.modThr.closeRow.modThr.serveLocks.dropKept.dispatchTrap.flushDeferred.takeMark

theorem Inv.trapClosed {rid c g3} (h : Inv s) : Inv (s.trapClosed rid c g3) := by
  unfold State.trapClosed
  exact h.modCtl.noteIdle.moved.modThr.serveLocks.dropKept.dispatchTrap

theorem Inv.noteBundle {rid} (h : Inv s) : Inv (s.noteBundle rid) := h.modThr

theorem Inv.resolveFault {r mode} (h : Inv s) : Inv (s.resolveFault r mode) := by
  unfold State.resolveFault
  refine .ite h ?_
  extract_lets held s1
  have h1 : Inv s1 := .ite h.modCtl.modThr h
  exact .ite (.ite h1.modThr h1.makeReady) h1

theorem Inv.endHandler {rid} (h : Inv s) : Inv (s.endHandler rid) := by
  unfold State.endHandler
  split
  · exact h
  · dsimp only
    split
    · exact h.closeRow.nestHandlerEnd.abortProgress
    · exact h.closeRow

theorem Inv.trapReturn {rid mode} (h : Inv s) : Inv (s.trapReturn rid mode) := by
  unfold State.trapReturn
  split
  · exact h
  · exact h.resolveFault.endHandler

/-! ### The functions of Machine/Chunk -/

theorem Inv.countCommit {k} (h : Inv s) : Inv (s.countCommit k) := h.modClu
theorem Inv.commitSlot {k sig} (h : Inv s) : Inv (s.commitSlot k sig) := h.modClu
theorem Inv.ctlArrive {rid w v} (h : Inv s) : Inv (s.ctlArrive rid w v) := .ite h.modThr h.ctlStore

theorem Inv.holdWrite {pa bs ten what} (h : Inv s) : Inv (s.holdWrite pa bs ten what) := by
  unfold State.holdWrite
  split
  · exact h
  · exact h.modOct

theorem Inv.homeStore {pa bs ten what} (h : Inv s) : Inv (s.homeStore pa bs ten what) := by
  unfold State.homeStore
  split
  · exact h.clearUncorr.poke
  · refine .ite h.holdWrite ?_
    split
    · exact h.ctlArrive
    · exact .ite h.modThr h.rowStoreBytes

theorem Inv.slotAt {pa n} (h : Inv s) : Inv (s.slotAt pa n) := by
  unfold State.slotAt
  split
  · exact h.commitSlot
  · exact h

theorem Inv.arriveStore {pa bs ten what} (h : Inv s) : Inv (s.arriveStore pa bs ten what) := h.slotAt.homeStore
theorem Inv.beginChunk {rid} (h : Inv s) : Inv (s.beginChunk rid) := .ite h h.modThr
theorem Inv.modChunk {rid f} (h : Inv s) : Inv (s.modChunk rid f) := h.modThr

theorem Inv.startHelper {parent row pc arg} (h : Inv s) : Inv (s.startHelper parent row pc arg) :=
  h.rowZero.rowPut.rowPut.makeThread

theorem Inv.applyAtCommit {rid e} (h : Inv s) : Inv (s.applyAtCommit rid e) := by
  unfold State.applyAtCommit
  split
  · exact h.startHelper
  · exact h.foldl (fun _ _ h => h.nullRow.moved)
  · exact h.modCtl
  · exact h.tick.modOct
  · exact h.instantiate
  · exact h.unbind
  · exact h.freeSlot

theorem Inv.commitStore {rid b} (h : Inv s) : Inv (s.commitStore rid b) := .ite h.homeStore h.tick.modClu

theorem Inv.applyCommit {rid} (h : Inv s) : Inv (s.applyCommit rid) :=
  (h.commitSlot.countCommit.modThr.modClu.foldl (fun _ _ h => h.commitStore)).foldl fun _ _ h => h.applyAtCommit

theorem Inv.undoDeferred {rid l} (h : Inv s) : Inv (s.undoDeferred rid l) := by
  unfold State.undoDeferred
  refine h.foldl ?_
  intro s _ h1
  split
  · exact h1.modLoaded
  · exact h1

theorem Inv.replay {rid} (h : Inv s) : Inv (s.replay rid) := by
  unfold State.replay
  extract_lets t ch core s1 s2 s3 s4 s5
  have h3 : Inv s3 := (Inv.ofMem (Memory.wf_msplice _ _ _ _ h.undoDeferred)).modCtl
  have h4 : Inv s4 := by
    unfold s4
    clear_value s3
    split
    · exact h3.modOct
    · exact h3
  exact h4.modThr.modCore

theorem Inv.tryCommit {rid asker} (h : Inv s) : InCommit (s.tryCommit rid asker) := by
  unfold State.tryCommit
  refine .ite trivial (.ite trivial ?_)
  split
  · exact .ite h.replay h.applyCommit
  · exact .ite h.applyCommit (.ite (.ite h.replay h.applyCommit) trivial)

theorem Inv.controlRequest {rid word v behind} (h : Inv s) : Inv (s.controlRequest rid word v behind) := by
  unfold State.controlRequest
  extract_lets turn s1 s2
  have h2 : Inv s2 := by
    unfold s2
    cases v with
    | some v => exact h.closeRow.ctlStore
    | none => exact h.closeRow
  exact (Inv.ite h2.modThr h2).flushDeferred.takeMark

theorem Inv.applyDeferred {fuel rid} (h : Inv s) : Inv (State.applyDeferred fuel s rid) := by
  induction fuel generalizing s rid with
  | zero => exact h
  | succ n ih =>
    unfold State.applyDeferred
    refine .ite h ?_
    split
    · exact h
    · split
      · exact .ite h (ih h.modThr.rowStoreBytes)
      · exact .ite h h.modThr.controlRequest

theorem Inv.boundary {rid asker} (h : Inv s) : Inv (s.boundary rid asker).1 := by
  unfold State.boundary
  dsimp only
  split
  · exact h
  · split
    · exact h
    · split
      · exact h
      · split
        · exact h
        · split
          next e => exact h.tryCommit.done_eq e
          next e => exact h.tryCommit.replayed_eq e
          · exact h

theorem Inv.settle {rid pa n asker} (h : Inv s) : InOption Inv (s.settle rid pa n asker) := by
  unfold State.settle
  refine .ite (.ite h trivial) ?_
  split
  · trivial
  next e => exact .ite trivial (.ite trivial (h.boundary.fst_eq e).applyDeferred)

theorem Inv.settleAt {pa n self} (h : Inv s) : InOption Inv (s.settleAt pa n self) := by
  unfold State.settleAt
  split
  · exact .ite h h.settle
  · exact h

theorem Inv.pressAt {pa self} (h : Inv s) : Inv (s.pressAt pa self) := by
  unfold State.pressAt
  split
  · exact .ite h h.boundary
  · exact h

theorem Inv.casControl {rid word expected new} (h : Inv s) : Inv (s.casControl rid word expected new).2 := by
  unfold State.casControl
  split
  · exact h.controlRequest
  · exact h.ctlCas

theorem Inv.atomHome {pa n aop x e ten} (h : Inv s) : InOption (fun p => Inv p.2) (s.atomHome pa n aop x e ten) := by
  unfold State.atomHome
  split
  · exact .ite trivial h.casControl
  · exact h.rowStoreBytes
  · exact h.homeStore

theorem Inv.bindLoad {rid l v} (h : Inv s) : Inv (s.bindLoad rid l v) := (Inv.ofMem (Memory.wf_bindCells h)).modThr

theorem Inv.performLoad {rid i} (h : Inv s) : Inv (s.performLoad rid i) := by
  unfold State.performLoad
  split
  · exact h
  · refine .ite h (.ite h ?_)
    split
    · exact h.pressAt
    next e => exact (h.settleAt.some_eq e).bindLoad

theorem Inv.atomReturn {e old} (h : Inv s) : Inv (s.atomReturn e old) := by
  unfold State.atomReturn
  split
  · exact h.bindLoad
  · exact h

theorem Inv.wordOp {pa op} (h : Inv s) : Inv (s.wordOp pa op).2.2.2 := by
  unfold State.wordOp
  dsimp only
  split
  · exact h.rowStoreBytes
  · exact h.clearUncorr.poke

theorem Inv.countDone {id flags sat} (h : Inv s) : Inv (s.countDone id flags sat) := h.same

theorem Inv.tagNull {pa o} (h : Inv s) : Inv (s.tagNull pa o) := by
  unfold State.tagNull
  split
  · exact h
  · split
    · exact .ite h.modCtl h
    · exact h

theorem Inv.applyHeld {w} (h : Inv s) : Inv (s.applyHeld w) := by
  unfold State.applyHeld
  dsimp only
  split
  · split
    · exact (h.atomHome.getD h).atomReturn
    · exact h
  · exact (h.atomHome.getD h).modPkg
  · exact h.homeStore.modPkg
  · exact h.homeStore.modPkg
  · exact h.homeStore
  · exact h.tagNull.homeStore
  · exact h.tagNull.wordOp.countDone
  · exact h.wordOp.modPkg

theorem Inv.drain {k i} (h : Inv s) : Inv (s.drain k i) := by
  unfold State.drain
  refine .ite h ?_
  split
  · exact h
  · dsimp only
    split
    · exact h.modClu.arriveStore
    · refine .ite h.modClu.slotAt.holdWrite ?_
      split
      · exact h.pressAt
      next e =>
        have h1 := h.settleAt.some_eq e
        split
        · exact h1
        next e => exact (h1.atomHome.some_eq e).slotAt.modClu.atomReturn

/-! ### The functions of Machine/Barrier -/

theorem Inv.modBar {k x f} (h : Inv s) : Inv (s.modBar k x f) := h.modClu
theorem Inv.barStore {k x v} (h : Inv s) : Inv (s.barStore k x v) := h.modBar
theorem Inv.stopTenant {k ten why} (h : Inv s) : Inv (s.stopTenant k ten why) := h.foldl fun _ _ h => h.stopRow

theorem Inv.superstep {k ten} (h : Inv s) : Inv (s.superstep k ten) := by
  unfold State.superstep
  split
  · exact .ite h.modClu.stopTenant h
  · exact h

theorem Inv.phaseComplete {k team i ten} (h : Inv s) : Inv (s.phaseComplete k team i ten) := by
  unfold State.phaseComplete
  extract_lets x ss rows s1 s2
  have h2 : Inv s2 := h.modBar.foldl fun _ _ h => h.modCtl.wakeRow
  exact .ite h2.superstep h2

theorem Inv.barsRecheck {k team ten} (h : Inv s) : Inv (s.barsRecheck k team ten) := h.foldl fun _ _ h => .ite h.phaseComplete h
theorem Inv.barRecheck {rid} (h : Inv s) : Inv (s.barRecheck rid) := h.barsRecheck

theorem Inv.arriveBar {rid i ss} (h : Inv s) : Inv (s.arriveBar rid i ss).2 := by
  unfold State.arriveBar
  dsimp only
  split
  · exact h.modBar.phaseComplete
  · exact h.modBar

/-! ### The functions of Machine/Ranges -/

theorem Inv.addLocks {k id l matrix} (h : Inv s) : Inv (s.addLocks k id l matrix) := h.modClu.serveLocks

theorem Inv.barLocks {ten i} (h : Inv s) : Inv (s.barLocks ten i).2 := by
  unfold State.barLocks
  split
  · exact h
  · split
    · exact h
    · dsimp only
      split
      · exact h
      · split
        · exact h.modBarEntry
        · split
          · exact h.modBarEntry.addLocks
          · exact h.modBarEntry

theorem Inv.registerUser {ten order u} (h : Inv s) : Inv (s.registerUser ten order u) := .ite h (.ite h.addLocks h.modClu)

theorem Inv.serveEntry {ten i ok} (h : Inv s) : Inv (s.serveEntry ten i ok) := by
  unfold State.serveEntry
  split
  · exact h
  · exact (Inv.ite (h.tick.modBarEntry.barLocks.foldl (fun _ _ h => h.registerUser)) h.tick.modBarEntry).askNext

/-! ### The functions of Machine/Mmio -/

theorem Inv.mqWake {core ten cause m} (h : Inv s) : Inv (s.mqWake core ten cause m) := by
  unfold State.mqWake
  refine .ite h.freeLocks ?_
  extract_lets s1
  have h1 : Inv s1 := .ite h.freeLocks.tbArrive h.freeLocks
  clear_value s1
  split
  · exact h1.post
  · exact h1

theorem Inv.mqAbort {core ten cause} (h : Inv s) : Inv (s.mqAbort core ten cause) := by
  unfold State.mqAbort
  refine .ite h ?_
  extract_lets s1 s2 s3
  have h3 : Inv s3 := h.modCs.dropBar.foldl fun _ _ h => h.mqWake
  exact .ite h3.mqServe h3

theorem Inv.forgetSenders {cs} (h : Inv s) : Inv (s.forgetSenders cs) := h.same

theorem Inv.setOwner {oct v} (h : Inv s) : Inv (s.setOwner oct v) := by
  unfold State.setOwner
  refine .ite h ?_
  extract_lets cs s1 s2 s3 s4
  have h2 : Inv s2 := h.modOct.foldl fun _ _ h => h.modCore
  have h4 : Inv s4 := (h2.foldl fun _ _ h => h.stopRow).foldl fun _ _ h => h.foldl fun _ _ h => h.mqAbort
  clear_value s4
  split
  next n s5 e =>
    have h5 : Inv s5 := h4.tick.snd_eq e
    extract_lets s6 s7
    have h7 : Inv s7 := (h5.foldl fun _ _ h => h.modCore).forgetSenders
    exact .ite h7.hfrAsk h7

theorem Inv.scrubCore {core} (h : Inv s) : Inv (s.scrubCore core) := by
  unfold State.scrubCore
  extract_lets mine s1 lo s2 s3 s4 clear
  have h1 : Inv s1 := h.foldl fun _ _ h => h.freeLocks
  have h2 : Inv s2 := Memory.wf_msplice _ _ _ _ h1
  have h4 : Inv s4 := h2.modClu.modCore
  exact .ite h4 h4.modCore

theorem Inv.endNests {oct} (h : Inv s) : Inv (s.endNests oct) := h.foldl fun _ _ h => h.nestAbort

theorem Inv.scrubOctet {oct} (h : Inv s) : Inv (s.scrubOctet oct) := by
  unfold State.scrubOctet
  refine (h.endNests.foldl (fun _ _ h => h.scrubCore)).modOct.foldl ?_
  intro s _ h1
  exact h1.applyHeld

theorem Inv.setTenmin {ten v} (h : Inv s) : Inv (s.setTenmin ten v) := .ite h (.ite h.modTen (.ite h.modTen.modPkg h.modTen))
theorem Inv.tlbcmdRemove (h : Inv s) : Inv s.tlbcmdRemove := h.modPkg.tlbRemove
theorem Inv.tlbcmd {v} (h : Inv s) : Inv (s.tlbcmd v) := .ite h h.modPkg.tlbcmdRemove

theorem Inv.hfrresp {v} (h : Inv s) : Inv (s.hfrresp v) := by
  unfold State.hfrresp
  dsimp only
  split
  · exact h
  · split
    · exact h.modPkg.serveEntry
    · exact h.modPkg
  · exact .ite h.modPkg (.ite h.modPkg.scrubOctet h.modPkg.modOct)

theorem Inv.tenWrite {ten block i v} (h : Inv s) : InOption Inv (s.tenWrite ten block i v) :=
  .ite (.ite h.modTen (.ite trivial (.ite h.modTen h.modTen))) (.ite (.ite h.modTen (.ite h.modTen (.ite h.modTen (.ite h.modTen
    (.ite h.modTen (.ite h.modTen trivial)))))) (.ite (.ite h.modTen (.ite h.modTen (.ite h.modTen (.ite h.modTen (.ite h.modTen
    (.ite h.modTen (.ite h.modTen h.modTen))))))) (.ite h.setTenmin trivial)))

theorem Inv.serviceWrite {off v} (h : Inv s) : InOption Inv (s.serviceWrite off v) := by
  unfold State.serviceWrite
  dsimp only
  split
  · exact h.tenWrite
  · exact .ite h.modPkg (.ite h.modPkg (.ite h.modPkg (.ite h.modPkg (.ite h.modPkg (.ite h.tlbcmd (.ite h.modPkg (.ite h.modPkg
    (.ite h.modPkg (.ite h.hfrresp (.ite h.modPkg (.ite h.modBdc (.ite h.modPkg trivial))))))))))))

theorem Inv.setRoute {oct v} (h : Inv s) : Inv (s.setRoute oct v) := .ite h.modOct h
theorem Inv.setTeamhdl {k team v} (h : Inv s) : Inv (s.setTeamhdl k team v) := h.modClu

theorem Inv.clusterWrite {k off v} (h : Inv s) : InOption Inv (s.clusterWrite k off v) :=
  .ite h.modClu (.ite h.setRoute (.ite h.modCore (.ite h.setOwner (.ite h.setTeamhdl (.ite h.barStore trivial)))))

theorem Inv.coreWrite {core off v} (h : Inv s) : InOption Inv (s.coreWrite core off v) :=
  .ite h.modLoaded (.ite h.writeTurnlen (.ite h.modLoaded (.ite h.modLoaded (.ite h.modCore trivial))))

theorem Inv.mmioWrite {pa v} (h : Inv s) : InOption Inv (s.mmioWrite pa v) := by
  unfold State.mmioWrite
  split
  · exact h.serviceWrite
  · exact h.clusterWrite
  · exact h.coreWrite
  · trivial

/-! ### The functions of Machine/Bar -/

theorem Inv.unitXlat {k ten va write ok} (h : Inv s) : InEng (fun p => Inv p.2) (s.unitXlat k ten va write ok) := by
  unfold State.unitXlat
  split
  · split <;> trivial
  next e =>
    have h1 := h.engXlat.ok_eq e
    refine .ite trivial ?_
    split
    · exact .ite trivial h1
    · exact h1

theorem Inv.unitSettle {pa n} (h : Inv s) : InEng Inv (s.unitSettle pa n) := by
  unfold State.unitSettle
  split
  next e => exact h.settleAt.some_eq e
  · trivial

theorem Inv.unitReadAt {pa n} (h : Inv s) : InEng (fun p => Inv p.2) (s.unitReadAt pa n) :=
  .ite h (.ite trivial (.bind h.unitSettle fun _ h1 => h1))

theorem Inv.unitRead {k ten va n ok} (h : Inv s) : InEng (fun p => Inv p.2) (s.unitRead k ten va n ok) :=
  .bind h.unitXlat fun ⟨_, _⟩ h1 => h1.unitReadAt

theorem Inv.landStore {w pa bs} (h : Inv s) : Inv (s.landStore w pa bs) := by
  unfold State.landStore
  refine .ite h.holdWrite ?_
  split
  · exact h.rowStoreBytes
  · exact h.clearUncorr.poke

theorem Inv.beatSlots {l} (h : Inv s) : Inv (s.beatSlots l) := h.foldl fun _ _ h => h.commitSlot
theorem Inv.tagPieces {w l} (h : Inv s) : Inv (s.tagPieces w l) := h.foldl fun _ _ h => .ite h h.tagNull

theorem Inv.landAll {w outs acc} (h : Inv s) : InEng (fun p => Inv p.2) (s.landAll w outs acc) := by
  induction outs generalizing s w acc with
  | nil => exact h
  | cons x l ih =>
    unfold State.landAll
    exact .ite h.beatSlots.tagPieces (.ite (ih h.landStore) (.bind h.unitSettle fun _ h1 => ih h1.landStore))

theorem Inv.unitXlats {k ten ok outs} (h : Inv s) : InEng (fun p => Inv p.2) (s.unitXlats k ten ok outs) := by
  induction outs generalizing s k ten ok with
  | nil => exact h
  | cons x l ih =>
    unfold State.unitXlats
    exact .bind h.unitXlat fun ⟨_, _⟩ h1 => .bind (ih h1) fun ⟨_, _⟩ h2 => h2

theorem Inv.unitPuts {k w outs ok} (h : Inv s) : InEng (fun p => Inv p.2) (s.unitPuts k w outs ok) :=
  .bind h.unitXlats fun ⟨_, _⟩ h1 => h1.landAll

theorem Inv.unitPut {k w va bs ok} (h : Inv s) : InEng (fun p => Inv p.2) (s.unitPut k w va bs ok) :=
  .bind h.unitPuts fun ⟨_, _⟩ h1 => h1.beatSlots

theorem Inv.unitOp {w pa op row} (h : Inv s) : InEng (fun p => Inv p.2.2) (s.unitOp w pa op row) :=
  .ite trivial (.ite h.holdWrite.beatSlots (.bind h.unitSettle fun _ h1 => .ite h1 h1.wordOp.beatSlots.tagPieces))

theorem Inv.unitReads {k ten ok reads} (h : Inv s) : InEng (fun p => Inv p.2) (s.unitReads k ten ok reads) := by
  induction reads generalizing s k ten ok with
  | nil => exact h
  | cons x l ih =>
    unfold State.unitReads
    exact .bind h.unitRead fun ⟨_, _⟩ h1 => .bind (ih h1) fun ⟨_, _⟩ h2 => h2

theorem Inv.unitGet {k ten va n ok} (h : Inv s) : InEng (fun p => Inv p.2) (s.unitGet k ten va n ok) := h.unitReads
theorem Inv.toBar {ten k what x} (h : Inv s) : Inv (s.toBar ten k what x) := h.modTen.askNext

/-! ### The functions of Machine/Operands -/

theorem Inv.orSts {f} (h : Inv s) : Inv (s.orSts f) := h.rowPut

theorem Inv.takeElement {k v} (h : Inv s) : Inv (s.takeElement k v) := by
  unfold State.takeElement
  exact (Inv.ite h.rowPut.rowPut.modCore h).modChunk

theorem Inv.popStream {k} (h : Inv s) : InOk (fun p => Inv p.2) (s.popStream k) := by
  unfold State.popStream
  refine .skip fun _ => .ite h.orSts ?_
  split
  · trivial
  · split
    · split
      · exact .ite trivial trivial
      · trivial
    · exact h.takeElement

theorem Inv.src {a} (h : Inv s) : InOk (fun p => Inv p.2) (s.src a) :=
  .ite h (.ite (.ite trivial (.skip fun _ => h)) (.ite h.popStream (.ite trivial (.skip fun _ => h))))

theorem Inv.pushWin {v} (h : Inv s) : Inv (s.pushWin v) := h.rowPut.modThr
theorem Inv.setReg {d v} (h : Inv s) : Inv (s.setReg d v) := .ite h h.rowPut.modThr
theorem Inv.dst {d v} (h : Inv s) : InOk Inv (s.dst d v) := .ite h.setReg.pushWin trivial
theorem Inv.vsrc {a} (h : Inv s) : InOk (fun p => Inv p.2) (s.vsrc a) := .ite (.ite h (.ite trivial (.skip fun _ => h))) h.src
theorem Inv.setSeg {k v} (h : Inv s) : Inv (s.setSeg k v) := h.rowPut.modThr
theorem Inv.alone (h : Inv s) : InOk Inv s.alone := .ite h (.ite trivial (.ite h.modCur trivial))

theorem Inv.access {ea n k} (h : Inv s) : InOk (fun p => Inv p.2) (s.access ea n k) := by
  unfold State.access
  refine .ite trivial (.ite trivial ?_)
  split
  · trivial
  · trivial
  next e =>
    have h1 := h.coreXlat.ok_eq e
    refine .ite trivial (.ite trivial (.ite trivial ?_))
    split
    · trivial
    · exact h1

theorem Inv.bindNow {b n v} (h : Inv s) : InOk Inv (s.bindNow b n v) := by
  unfold State.bindNow
  split
  · exact h.dst
  · exact h.setSeg

theorem Inv.bindLater {b pa n own acq atomic} (h : Inv s) : InOk (fun p => Inv p.2) (s.bindLater b pa n own acq atomic) := by
  unfold State.bindLater
  dsimp only
  split
  · exact .bind h.tick.dst fun _ h1 => h1.modThr
  · exact h.tick.modThr.modThr

theorem Inv.trackRead {pa} (h : Inv s) : Inv (s.trackRead pa) := h.modChunk
theorem Inv.trackWrite {pa} (h : Inv s) : Inv (s.trackWrite pa) := h.modChunk

theorem Inv.reach {pa n} (h : Inv s) : InOk Inv (s.reach pa n) := by
  unfold State.reach
  split
  next e => exact h.settleAt.some_eq e
  · trivial

theorem Inv.load {ea n b acq k} (h : Inv s) : InOk Inv (s.load ea n b acq k) :=
  .bind h.access fun ⟨_, _⟩ h1 => .ite h1.bindNow (.ite (.bind h1.alone fun _ h2 => .skip fun _ => h2.bindNow) (.ite (.ite
    (.ite trivial h1.trackRead.bindNow) (.bind h1.reach fun _ h3 => h3.trackRead.bindNow)) (.ite h1.bindNow
    (.bind h1.bindLater fun ⟨_, _⟩ h4 => h4))))

theorem Inv.buffer {pa bs strong home} (h : Inv s) : InOk Inv (s.buffer pa bs strong home) := .ite trivial h.modChunk

theorem Inv.storeAt {pa bs strong} (h : Inv s) : InOk Inv (s.storeAt pa bs strong) := by
  unfold State.storeAt
  refine .ite h.clearUncorr.poke (.ite (.bind h.alone fun _ h1 => .skip fun _ => ?_) (.ite ?_ h.buffer))
  · split
    · exact h1.poke
    · exact h1.mmioWrite.getD h1
  · split
    · exact .bind h.buffer fun _ h2 => h2.trackWrite.modChunk
    · exact .ite (.ite trivial h.clearUncorr.poke.trackWrite) (.bind h.buffer fun _ h3 => h3.trackWrite)

theorem Inv.store {ea n v strong} (h : Inv s) : InOk Inv (s.store ea n v strong) := .bind h.access fun ⟨_, _⟩ h1 => h1.storeAt

theorem Inv.atomic {ea n aop x e d acq} (h : Inv s) : InOk Inv (s.atomic ea n aop x e d acq) := by
  unfold State.atomic
  refine .bind h.access fun ⟨pa, s⟩ h => .ite h.clearUncorr.poke.bindNow (.ite (.ite ?_ ?_) ?_)
  · refine .bind h.alone fun s h => .bind h.reach fun s h => ?_
    split
    · trivial
    next e => exact (h.atomHome.some_eq e).trackRead.trackWrite.bindNow
  · exact .ite (.pure h.trackWrite.trackRead.bindNow) (.bind h.storeAt fun s h => h.trackRead.bindNow)
  · exact .bind h.alone fun s h => .bind h.bindLater fun ⟨_, s⟩ h => h.tick.modClu

/-! ### The functions of Machine/Issue -/

theorem Inv.leafExit {rid} (h : Inv s) : Inv (s.leafExit rid) := by
  unfold State.leafExit
  split
  · refine .ite h.modGNode ?_
    dsimp only
    split
    · exact h.modGNode.modGNode.wakeRow
    · exact h.modGNode.modGNode
  · exact h

theorem Inv.closeTo {rid st} (h : Inv s) : Inv (s.closeTo rid st) := by
  unfold State.closeTo
  split
  · exact .ite h.endBaseHandler (.ite h.endHandler h.leafExit.closeRow.takeMark)
  · exact h.endHandler
  · exact h.closeRow.takeMark

theorem Inv.closeLater {rid} (h : Inv s) : Inv (s.closeLater rid) := by
  unfold State.closeLater
  split
  · exact h
  · exact h.modThr.closeTo

theorem Inv.endChunkNow (h : Inv s) : Inv s.endChunkNow := by
  unfold State.endChunkNow
  split
  next e => exact (h.tryCommit.done_eq e).modCur
  next e => exact (h.tryCommit.replayed_eq e).modCur
  · exact h.modCur

theorem Inv.stallNow {ask} (h : Inv s) : Inv (s.stallNow ask) := .ite h.endChunkNow h.modClu.modCur
theorem Inv.holdNow {pa ending} (h : Inv s) : Inv (s.holdNow pa ending) := (Inv.ite h h.modClu).pressAt.modCur

theorem Inv.stopTrap {c g3 report fetch} (h : Inv s) : Inv (s.stopTrap c g3 report fetch) := by
  unfold State.stopTrap
  refine .ite h.endChunkNow (.ite h.stallNow ((Inv.noteBundle ?_).takeTrap.modCur))
  split
  · exact h.hfr
  · exact h

theorem Inv.stopBlock {wait wake arg deadline} (h : Inv s) : Inv (s.stopBlock wait wake arg deadline) := by
  unfold State.stopBlock
  refine .ite h.endChunkNow (.ite h.stallNow ((Inv.ite ((Inv.noteBundle ?_).closeRow.modThr.serveLocks)
    ((Inv.noteBundle ?_).closeRow.modThr)).dropKept.takeMark.modCur))
  · split
    · exact h.rowPut
    · exact h
  · split
    · exact h.rowPut
    · exact h

theorem Inv.applyStop {st} (h : Inv s) : Inv (s.applyStop st) := by
  unfold State.applyStop
  refine .ite h.modCur ?_
  split
  · exact h.stopTrap
  · split
    · exact h.modCur
    · exact h.stopBlock
  · exact h.stallNow
  · exact h.holdNow
  · exact h.endChunkNow

theorem Inv.retire (h : Inv s) : Inv s.retire := by
  unfold State.retire
  dsimp only
  split
  · exact h.modCur
  · exact h.modCur.modCtl

theorem Inv.runWord {r} (h : Inv s) (hr : InOk Inv r) : InOut (s.runWord r) := by
  unfold State.runWord
  split
  · exact hr.retire
  · exact h.applyStop

theorem Inv.spend {n} (h : Inv s) : Inv (s.spend n) := h.modCur
theorem Inv.jumpTo {x} (h : Inv s) : Inv (s.jumpTo x) := h.modCur
theorem Inv.closeAs {st} (h : Inv s) : Inv (s.closeAs st) := h.modCur

theorem Inv.closeReady {rid} (h : Inv s) : Inv (s.closeReady rid).1 := by
  unfold State.closeReady
  split
  · exact h
  · split
    next e => exact h.boundary.fst_eq e
    next e => exact (h.boundary.fst_eq e).closeRow.takeMark

theorem Inv.boundaryWork {rid} (h : Inv s) : InOption Inv (s.boundaryWork rid) := by
  unfold State.boundaryWork
  refine .ite trivial (.ite ?_ (.ite h (.ite trivial (.ite ?_ ?_))))
  · split
    next e => exact (h.tryCommit.done_eq e).closeLater
    next e => exact h.tryCommit.replayed_eq e
    · exact h
  · split
    next e => exact h.boundary.fst_eq e
    next e => exact (h.boundary.fst_eq e).applyDeferred
  · split
    · exact .ite trivial h.closeReady
    · exact .ite h.closeReady trivial

theorem Inv.fetch {rid pc} (h : Inv s) : InOption (fun p => Inv p.2.2) (s.fetch rid pc) := by
  unfold State.fetch
  split
  next e => exact .ite trivial (h.coreXlat.ok_eq e)
  · trivial

theorem Inv.at_ {rid pc slot view} (h : Inv s) : Inv (s.at rid pc slot view) := h.same
theorem Inv.prepIllegal {rid pc report} (h : Inv s) : InPrep (s.prepIllegal rid pc report) := h.at_.same

theorem Inv.checkBundle {rid pc b} (h : Inv s) : InPrep (s.checkBundle rid pc b) := by
  unfold State.checkBundle
  dsimp only
  split
  · refine .ite h.at_.stopTrap (.ite h.prepIllegal (.ite h.prepIllegal ?_))
    split
    · exact h.prepIllegal
    · exact h.prepIllegal
    · exact h.beginChunk.at_
  · refine .ite h.prepIllegal (.ite ?_ ?_)
    · split
      · exact h.prepIllegal
      · exact h.beginChunk.at_
    · split
      · exact h.prepIllegal
      · exact h.beginChunk.at_

theorem Inv.grantFor {rid} (h : Inv s) : Inv (s.grantFor rid).2 := by
  unfold State.grantFor
  split
  · exact h
  · dsimp only
    split
    · split
      · exact h.modClu
      · exact h.modClu
    · split
      · split
        · exact h.modClu
        · exact h.modClu
      · split
        · exact h.modClu
        · exact h.modClu

theorem Inv.prep {rid} (h : Inv s) : InPrep (s.prep rid) := by
  unfold State.prep
  refine .ite h ?_
  split
  next e => exact h.boundaryWork.some_eq e
  · refine .ite h.at_.stopTrap (.ite h.at_.stopTrap (.ite h.at_.stallNow ?_))
    split
    next e => exact h.grantFor.snd_eq e
    next e =>
      have h1 := h.grantFor.snd_eq e
      split
      · exact h1.at_.same
      next e =>
        have h2 := h1.fetch.some_eq e
        split
        · exact h2.at_.stopTrap
        · split
          · exact h2.checkBundle
          · exact h2

theorem Inv.countStep {had} (h : Inv s) : Inv (s.countStep had) := by
  unfold State.countStep
  extract_lets rid core cur n starts s1 s2
  have h2 : Inv s2 := .ite h.modThr.modThr h.modThr
  clear_value s2
  split
  · exact h2.modCore
  · exact h2

theorem Inv.closeStep (h : Inv s) : Inv s.closeStep := by
  unfold State.closeStep
  split
  · exact h
  · exact h.closeTo

theorem Inv.finishStep {had} (h : Inv s) : Inv (s.finishStep had) :=
  .ite h.modThr.modBdc.closeStep (.ite (.ite h.countStep.modClu.modThr h.countStep.applyCommit.closeStep)
    (.ite h.countStep.modChunk h.countStep))

theorem Inv.finishOne {had} (h : Inv s) : Inv (s.finishOne had) := .ite h.finishStep h
theorem Inv.second (h : Inv s) : Inv s.second := h.modCur

theorem Inv.finishTwo {t had sleeps} (h : Inv s) (ht : Inv t) : Inv (s.finishTwo t had sleeps) := by
  unfold State.finishTwo
  split
  · split
    · exact h.stopBlock
    · exact ht.finishStep
  · exact (Inv.ite h.modCur h).applyStop
  · exact h.applyStop
  · exact h.applyStop
  · exact h.applyStop
  · exact h.applyStop
  · exact h

/-! ### The functions of Machine/Scalar -/

theorem Inv.op2 {d a b cost f} (h : Inv s) : InOut (s.op2 d a b cost f) :=
  h.runWord (.bind h.src fun ⟨_, _⟩ h1 => .bind h1.src fun ⟨_, _⟩ h2 => h2.spend.dst)

theorem Inv.op1 {d a cost f} (h : Inv s) : InOut (s.op1 d a cost f) := h.runWord (.bind h.src fun ⟨_, _⟩ h1 => h1.spend.dst)

theorem Inv.opD {d a cost f} (h : Inv s) : InOut (s.opD d a cost f) :=
  h.runWord (.bind h.src fun ⟨_, _⟩ h1 => .bind h1.src fun ⟨_, _⟩ h2 => h2.spend.dst)

theorem Inv.op0 {d v} (h : Inv s) : InOut (s.op0 d v) := h.runWord h.dst

/-! ### The functions of Machine/Control -/

theorem Inv.branch {a b o c} (h : Inv s) : InOut (s.branch a b o c) :=
  h.runWord (InOk.skip fun _ => InOk.bind h.src fun ⟨_, _⟩ h1 => InOk.bind h1.src fun ⟨_, _⟩ h2 => Inv.ite h2.jumpTo h2)

theorem Inv.execJal {d o} (h : Inv s) : InOut (execJal d o s) := h.runWord (.skip fun _ => .bind h.dst fun _ h1 => h1.jumpTo)

theorem Inv.execJalr {d a i} (h : Inv s) : InOut (execJalr d a i s) :=
  h.runWord (.skip fun _ => .bind h.src fun ⟨_, _⟩ h1 => .bind h1.dst fun _ h2 => h2.jumpTo)

theorem Inv.ldr {d i n signed} (h : Inv s) : InOut (s.ldr d i n signed) := h.runWord (.skip fun _ => .skip fun _ => h.dst)
theorem Inv.str {d i n} (h : Inv s) : InOut (s.str d i n) := h.runWord (.skip fun _ => .bind h.src fun ⟨_, _⟩ h1 => h1.rowPut)
theorem Inv.execNop (h : Inv s) : InOut (execNop s) := h.runWord (.skip fun _ => h)
theorem Inv.closing (h : Inv s) : InOk Inv s.closing := .bind h.alone fun _ h1 => .ite h1 trivial

theorem Inv.execTexit (h : Inv s) : InOut (execTexit s) :=
  h.runWord (.skip fun _ => .ite trivial (.bind h.closing fun _ h1 => h1.jumpTo.closeAs))

theorem Inv.execYield (h : Inv s) : InOut (execYield s) := h.runWord (.skip fun _ => .bind h.closing fun _ h1 => h1.closeAs)

theorem Inv.execSetpri {a} (h : Inv s) : InOut (execSetpri a s) :=
  h.runWord (.skip fun _ => .bind h.src fun ⟨_, _⟩ h1 => h1.modChunk)

theorem Inv.execCycle {d} (h : Inv s) : InOut (execCycle d s) := h.runWord (.skip fun _ => h.dst)
theorem Inv.execChunk (h : Inv s) : InOut (execChunk s) := h.runWord (.skip fun _ => h.alone)

theorem Inv.execHstart {d a b} (h : Inv s) : InOut (execHstart d a b s) := by
  unfold Machine.execHstart
  refine h.runWord (.skip fun _ => .bind h.src fun ⟨_, _⟩ h1 => .bind h1.src fun ⟨_, _⟩ h2 => .ite trivial ?_)
  split
  · exact h2.modLoaded.modChunk.spend.dst
  · trivial

theorem Inv.execHjoin {a} (h : Inv s) : InOut (execHjoin a s) :=
  h.runWord (.skip fun _ => .bind h.src fun ⟨_, _⟩ h1 => .bind h1.alone fun _ h2 => .ite ((Inv.ite h2 h2.modChunk).spend) trivial)

theorem Inv.execTrap {b} (h : Inv s) : InOut (execTrap b s) := h.runWord (.skip fun _ => trivial)

theorem Inv.execTret {a} (h : Inv s) : InOut (execTret a s) := by
  unfold Machine.execTret
  refine h.runWord (.skip fun _ => ?_)
  split
  · trivial
  · exact .bind h.src fun ⟨_, _⟩ h1 => .ite trivial (.ite trivial (.bind h1.closing fun _ h2 => h2.resolveFault.closeAs))

theorem Inv.execFenceI (h : Inv s) : InOut (execFenceI s) :=
  h.runWord (.skip fun _ => .bind h.alone fun _ h1 => .skip fun _ => h1)

theorem Inv.csrWrite {rid n v} (h : Inv s) : Inv (s.csrWrite rid n v) :=
  .ite h.rowPut (.ite h.modLoaded (.ite h.writeTurnlen (.ite h.modLoaded (.ite h.modLoaded (.ite h.modCore (.ite h.setTeamhdl h))))))

theorem Inv.execCsrr {d n} (h : Inv s) : InOut (execCsrr d n s) := h.runWord (.skip fun _ => .skip fun _ => h.dst)

theorem Inv.csrOp {d a n f} (h : Inv s) : InOut (s.csrOp d a n f) :=
  h.runWord (.skip fun _ => .skip fun _ => .ite trivial (.bind h.src fun ⟨_, _⟩ h1 => .ite h1.csrWrite.dst
    (.bind h1.alone fun _ h2 => h2.csrWrite.dst)))

theorem Inv.execTlbinv {a b} (h : Inv s) : InOut (execTlbinv a b s) :=
  h.runWord (.skip fun _ => .bind h.src fun ⟨_, _⟩ h1 => .bind h1.src fun ⟨_, _⟩ h2 => .ite trivial
    (.bind h2.alone fun _ h3 => .skip fun _ => .ite trivial h3.tlbRemove))

theorem Inv.gateQuad {q} (h : Inv s) : Inv (s.gateQuad q) := by
  unfold State.gateQuad
  split
  · exact h.modQuad.foldl (fun _ _ h => h.modThr)
  · exact h.modQuad
  · exact h

theorem Inv.ungateQuad {q} (h : Inv s) : Inv (s.ungateQuad q) := by
  unfold State.ungateQuad
  split
  · exact h.modQuad.same
  · exact h.modQuad
  · exact h

theorem Inv.execPgate {a} (h : Inv s) : InOut (execPgate a s) :=
  h.runWord (InOk.skip fun _ => InOk.bind h.src fun ⟨_, _⟩ h1 => InOk.ite trivial
    (InOk.bind h1.alone fun _ h2 => Inv.ite h2.gateQuad h2.ungateQuad))

/-! ### The functions of Machine/Counters -/

theorem Inv.ctrRead {k ten sk i} (h : Inv s) : InEng (fun p => Inv p.2) (s.ctrRead k ten sk i) :=
  .bind h.unitRead fun ⟨_, _⟩ h1 => h1

theorem Inv.opXlat {k ten va ok} (h : Inv s) : InEng (fun p => Inv p.2) (s.opXlat k ten va ok) :=
  .bind h.unitXlat fun ⟨_, _⟩ h1 => h1.unitXlat

theorem Inv.orSatf {k w hva flags ok} (h : Inv s) : InEng (fun p => Inv p.2) (s.orSatf k w hva flags ok) :=
  .bind h.opXlat fun ⟨_, _⟩ h1 => .bind h1.unitOp fun ⟨_, _, _⟩ h2 => h2

theorem Inv.readHeader {k ten va write ok} (h : Inv s) : InEng (fun p => Inv p.2.2) (s.readHeader k ten va write ok) := by
  unfold State.readHeader
  refine .bind h.unitXlat fun ⟨pa, s⟩ h => .ite (.bind h.unitXlat fun ⟨_, s⟩ h => ?_) (.pure ?_)
  · exact .bind h.unitReads fun ⟨_, s⟩ h => h
  · exact .bind h.unitReads fun ⟨_, s⟩ h => h

theorem Inv.sumXlat {k ten hpa va write ok} (h : Inv s) : InEng (fun p => Inv p.2) (s.sumXlat k ten hpa va write ok) := by
  unfold State.sumXlat
  split
  · refine .ite trivial ?_
    dsimp only
    split
    · exact h
    · trivial
    · trivial
    · trivial
    · trivial
  · exact h.unitXlat

theorem Inv.sumRead {k ten hpa va n ok} (h : Inv s) : InEng (fun p => Inv p.2) (s.sumRead k ten hpa va n ok) :=
  .bind h.sumXlat fun ⟨_, _⟩ h1 => h1.unitReadAt

theorem Inv.sumCounter {k w sk dpa i src ok} (h : Inv s) : InEng (fun p => Inv p.2.2.2.2) (s.sumCounter k w sk dpa i src ok) :=
  .bind h.sumXlat fun ⟨_, _⟩ h1 => .bind h1.sumXlat fun ⟨_, _⟩ h2 => .bind h2.unitOp fun ⟨_, _, _⟩ h3 => h3

/-! ### The functions of Machine/Message -/

theorem Inv.blocking (h : Inv s) : InOk Inv s.blocking := .skip fun _ => h.alone

theorem Inv.execQpush {a b} (h : Inv s) : InOut (execQpush a b s) := by
  unfold Machine.execQpush
  refine h.runWord (.skip fun _ => .bind h.src fun ⟨_, _⟩ h1 => .skip fun _ => .bind h1.alone fun _ h2 => .skip fun _ => ?_)
  split
  next e => exact h2.push.some_eq e
  · trivial

theorem Inv.execQpop {d b} (h : Inv s) : InOut (execQpop d b s) := by
  unfold Machine.execQpop
  refine h.runWord (.skip fun _ => .skip fun _ => .bind h.alone fun _ h1 => ?_)
  split
  next e => exact (h1.pop.some_eq e).dst
  · trivial

theorem Inv.qcnt {d b count} (h : Inv s) : InOut (s.qcnt d b count) := by
  unfold State.qcnt
  refine h.runWord (.skip fun _ => ?_)
  split
  · exact h.dst
  · trivial

theorem Inv.sendHead {a b close} (h : Inv s) : InOut (s.sendHead a b close) := by
  unfold State.sendHead
  refine h.runWord (.ite trivial (.ite trivial (.bind h.src fun ⟨_, _⟩ h1 => .bind h1.src fun ⟨_, _⟩ h2 => .ite trivial
    (.bind h2.alone fun _ h3 => .ite trivial ?_))))
  split
  · trivial
  · exact .ite h3.modThr.modOct.modChunk h3.modThr.modOct.modThr.modCtl

theorem Inv.sendFlit {d close} (h : Inv s) : InOut (s.sendFlit d close) := by
  unfold State.sendFlit
  refine h.runWord (.ite trivial ?_)
  split
  · exact .ite trivial (.skip fun _ => .ite h.modOct.modThr.modCtl.modChunk h.modOct)
  · trivial

theorem Inv.receive {d a b seg} (h : Inv s) : InOut (s.receive d a b seg) := by
  unfold State.receive
  refine h.runWord (.skip fun _ => .bind h.src fun ⟨f, s⟩ h => ?_)
  dsimp -zeta only
  extract_lets jp
  have hjp : ∀ x, Inv x.2 → InOk Inv (jp x) := by
    intro ⟨dl, s⟩ h
    refine .ite trivial (.bind h.alone fun s h => ?_)
    split
    · split
      · trivial
      · exact .ite trivial (h.foldl fun _ _ h => h.setSeg).modCsRow.dst
    · split
      · exact .ite h.dst trivial
      · trivial
  split
  · exact .bind (.map h.src) hjp
  · exact hjp _ h

theorem Inv.barrier {a ss} (h : Inv s) : InOut (s.barrier a ss) := by
  unfold State.barrier
  extract_lets r
  have hr : InOk (fun p => Inv p.2) r :=
    .skip fun _ => .bind h.src fun ⟨x, s⟩ h => .ite trivial
      (.bind h.alone fun s h => .skip fun _ => .ite h trivial)
  clear_value r
  split
  · exact h.applyStop
  next t =>
    have ht : Inv t := hr
    exact Inv.ite ht.arriveBar.retire ht.arriveBar.stopBlock

theorem Inv.execMbxpop {d} (h : Inv s) : InOut (execMbxpop d s) := by
  unfold Machine.execMbxpop
  refine h.runWord (.skip fun _ => ?_)
  split
  · exact h.modChunk.dst
  · exact h.dst

theorem Inv.execWaitmsg (h : Inv s) : InOut (execWaitmsg s) := by
  unfold Machine.execWaitmsg
  refine h.runWord (.bind h.blocking fun _ h1 => ?_)
  split
  · exact h1
  · trivial

theorem Inv.execSleepuntil {a} (h : Inv s) : InOut (execSleepuntil a s) := by
  unfold Machine.execSleepuntil
  refine h.runWord (.skip fun _ => .bind h.src fun ⟨_, _⟩ h1 => .bind h1.alone fun _ h2 => ?_)
  split
  · trivial
  · exact .ite h2 (.ite trivial trivial)

theorem Inv.wakeReceiver {rid} (h : Inv s) : Inv (s.wakeReceiver rid) := .ite h.wakeRow h

theorem Inv.packetIn {p core} (h : Inv s) : InOption Inv (s.packetIn p core) :=
  .ite h.modCore (.ite trivial h.modCsRow.modThr.wakeReceiver)

theorem Inv.execPacketEntry (h : Inv s) : InOut (execPacketEntry s) := by
  unfold Machine.execPacketEntry
  dsimp only
  split
  · exact h
  · refine .ite h (.ite (.ite h h.freeSendBuf.barRecheck) ?_)
    split
    next e => exact (h.packetIn.some_eq e).freeSendBuf.barRecheck
    · exact h

theorem Inv.execPacketTimeout (h : Inv s) : InOut (execPacketTimeout s) := by
  unfold Machine.execPacketTimeout
  dsimp only
  split
  · exact h
  · exact .ite h h.at_.stopTrap

theorem Inv.execBarrierWordWrite (h : Inv s) : InOut (execBarrierWordWrite s) := .ite h.barStore h
theorem Inv.execDeadlineWake (h : Inv s) : InOut (execDeadlineWake s) := .ite h.wakeRow h

/-! ### The functions of Machine/Pages -/

theorem Inv.setCount {ten f n} (h : Inv s) : Inv (s.setCount ten f n) := h.poke
theorem Inv.pushFrame {ten f} (h : Inv s) : Inv (s.pushFrame ten f) := h.poke.modTen
theorem Inv.popFrame {ten} (h : Inv s) : InOption (fun p => Inv p.2) (s.popFrame ten) := .ite trivial h.modTen

theorem Inv.popPool {ten pool} (h : Inv s) : InOption (fun p => Inv p.2) (s.popPool ten pool) := by
  unfold State.popPool
  refine .ite h.popFrame ?_
  split
  · trivial
  · exact h.modTen

theorem Inv.dropCount {ten f} (h : Inv s) : Inv (s.dropCount ten f) := by
  unfold State.dropCount
  exact .ite h.setCount.pushFrame h.setCount

theorem Inv.setLeaf {ten va addr e} (h : Inv s) : Inv (s.setLeaf ten va addr e) := h.poke.tlbPage
theorem Inv.copyFrame {src dst} (h : Inv s) : Inv (s.copyFrame src dst) := h.foldl fun _ _ h => h.poke
theorem Inv.followPage {old new} (h : Inv s) : Inv (s.followPage old new) := h.same

theorem Inv.migrate {ten va e addr pool} (h : Inv s) : InMig (s.migrate ten va e addr pool) := by
  unfold State.migrate
  refine .ite trivial ?_
  split
  next e _ =>
    have h1 := h.popPool.some_eq e
    split
    · exact .ite trivial h1.modPkg.setLeaf.followPage
    · trivial
  · trivial

theorem Inv.migFinish {i} (h : Inv s) : Inv (s.migFinish i) := by
  unfold State.migFinish
  split
  · exact h
  · exact .ite h (.ite h.setLeaf.modPkg.pushFrame h.setLeaf.modPkg.hfr)

theorem Inv.migStep {i} (h : Inv s) : Inv (s.migStep i) := by
  unfold State.migStep
  split
  · exact h
  · split
    · exact h.pullLine.migFinish
    · exact h.migFinish

theorem Inv.followCopy {ten va old new} (h : Inv s) : Inv (s.followCopy ten va old new) := h.same

theorem Inv.serveCow {ten va e addr} (h : Inv s) : InOption Inv (s.serveCow ten va e addr) := by
  unfold State.serveCow
  refine .ite trivial (.ite h.setLeaf ?_)
  split
  · trivial
  next e =>
    have h1 := h.popFrame.some_eq e
    split
    · exact h1.copyFrame.setCount.setLeaf.followCopy.dropCount
    · trivial

/-! ### The functions of Machine/Engines -/

theorem Inv.bindPromise {d pa skadd tag sum} (h : Inv s) : InOk Inv (s.bindPromise d pa skadd tag sum) :=
  .bind h.bindLater fun ⟨_, _⟩ h1 => h1.modThr

theorem Inv.engineIssue {d sg op} (h : Inv s) : InOut (s.engineIssue d sg op) := by
  unfold State.engineIssue
  refine h.runWord (.skip fun _ => .skip fun _ => .ite trivial (.bind h.alone fun _ h1 => .ite trivial (.skip fun _ => ?_)))
  split
  · trivial
  · split
    · trivial
    · refine .ite trivial (.skip fun _ => ?_)
      dsimp only
      split
      · exact h1.tick.modThr.takeSlot.addLocks.modOct.dst
      · exact h1.tick.modThr.takeSlot.addLocks.modOct.bindPromise

theorem Inv.tagRows {c ltag landed} (h : Inv s) : Inv (s.tagRows c ltag landed).2 := by
  induction landed generalizing s c ltag with
  | nil => exact h
  | cons x l ih =>
    unfold State.tagRows
    split
    · split
      · exact ih h
      · exact ih (.ite h.modCtl h)
    · exact ih h

theorem Inv.cmdPuts {k c ltag outs} (h : Inv s) : InEng (fun p => Inv p.2) (s.cmdPuts k c ltag outs) :=
  .bind h.unitPuts fun ⟨_, _⟩ h1 => h1.beatSlots.tagRows

theorem Inv.copyBeat {k c} (h : Inv s) : InEng (fun p => Inv p.2) (s.copyBeat k c) :=
  .bind h.unitGet fun ⟨_, _⟩ h1 => .bind h1.cmdPuts fun ⟨_, _⟩ h2 => h2

theorem Inv.gatherBeat {k c} (h : Inv s) : InEng (fun p => Inv p.2) (s.gatherBeat k c) := by
  unfold State.gatherBeat
  refine .bind h.unitGet fun ⟨_, _⟩ h => .ite (.pure h)
    (.ite (.bind (P := fun p : ECmd × State => Inv p.2) (.ite ?_ h) fun ⟨_, _⟩ h => h) ?_)
  · exact .bind h.cmdPuts fun ⟨_, _⟩ h => h
  · exact .bind h.unitGet fun ⟨_, _⟩ h => .bind h.cmdPuts fun ⟨_, _⟩ h => h

/-- The fold of one element over the sources of an elementwise `XREDUCE`: each source is read in turn. -/
theorem Inv.reduceSources {k i : Nat} {c : ECmd} {l : List Nat} {acc : Nat × State} (h : Inv acc.2) :
    InEng (fun p => Inv p.2) (l.foldlM (fun (acc : Nat × State) a => do
      let (b, s) ← acc.2.unitGet k c.tenant (a + i * redSize c.spec) (redSize c.spec)
      .ok (redOp (kindOf c.spec) (bits (dword c.spec 0) 26 24) acc.1 (ofBytes b), s)) acc) := by
  induction l generalizing acc with
  | nil => exact h
  | cons a l ih =>
    rw [List.foldlM_cons]
    exact .bind (P := fun p : Nat × State => Inv p.2) (.bind h.unitGet fun ⟨_, _⟩ h => h) fun _ h => ih h
theorem Inv.reduceElems {k c n i done} (h : Inv s) : InEng (fun p => Inv p.2) (State.reduceElems s k c n i done) := by
  induction n generalizing s i done with
  | zero => exact h
  | succ n ih =>
    unfold State.reduceElems
    refine .bind h.unitGet fun ⟨_, _⟩ h => .bind (Inv.reduceSources h) fun ⟨v, s⟩ h => ?_
    dsimp only
    split
    next e => exact ih (h.unitPuts.ok_eq e)
    next e => exact (h.unitPuts.dropped_eq e).beatSlots.tagPieces
    next e => exact h.unitPuts.error_eq e

theorem Inv.reduceBeat {k c} (h : Inv s) : InEng (fun p => Inv p.2) (s.reduceBeat k c) :=
  .ite h (.bind h.reduceElems fun ⟨_, _⟩ h1 => h1.beatSlots.tagRows)

theorem Inv.sumAdd {k c spa dpa i ok} (h : Inv s) : InEng (fun p => Inv p.2) (s.sumAdd k c spa dpa i ok) := by
  unfold State.sumAdd
  refine .ite (.bind h.orSatf fun ⟨_, s⟩ h => h) (.ite (.bind h.orSatf fun ⟨_, s⟩ h => h)
    (.ite (.bind h.unitRead fun ⟨_, s⟩ h => h) (.ite (.pure ?_) (.bind h.sumRead fun ⟨_, s⟩ h => ?_))))
  · exact .bind h.sumCounter fun ⟨_, _, _, _, s⟩ h => h
  · exact .bind h.sumCounter fun ⟨_, _, _, _, s⟩ h => h

theorem Inv.sumBeat {k c} (h : Inv s) : InEng (fun p => Inv p.2) (s.sumBeat k c) :=
  .bind h.readHeader fun ⟨_, _, _⟩ h1 => .bind h1.readHeader fun ⟨_, _, _⟩ h2 => .ite trivial (.ite
    (.bind h2.sumRead fun ⟨_, _⟩ h3 => .bind h3.sumXlat fun ⟨_, _⟩ h4 => h4) h2.sumAdd)

theorem Inv.pageLeaf {ten va} : InEng (fun _ => True) (s.pageLeaf ten va) := by
  unfold State.pageLeaf
  split
  · trivial
  · trivial
  · trivial
  · split
    · trivial
    · trivial

theorem Inv.pageSlot {ten va} : InEng (fun _ => True) (s.pageSlot ten va) := by
  unfold State.pageSlot
  split
  · trivial
  · split
    · trivial
    · trivial
    · exact .ite trivial trivial

theorem Inv.shareBeat {c} (h : Inv s) : InEng (fun p => Inv p.2) (s.shareBeat c) :=
  .ite h (.bind Inv.pageLeaf fun _ _ => .ite trivial (.ite trivial (.bind Inv.pageSlot fun _ _ => h.setLeaf.setLeaf.setCount)))

theorem Inv.dropBeat {c} (h : Inv s) : InEng (fun p => Inv p.2) (s.dropBeat c) := by
  unfold State.dropBeat
  refine .ite h (.bind Inv.pageLeaf fun ⟨e, a⟩ _ => .ite trivial (.ite trivial ?_))
  dsimp only [InEng]
  exact h.setLeaf.dropCount

theorem Inv.moveBeat {c} (h : Inv s) : InEng (fun p => Inv p.2) (s.moveBeat c) := by
  unfold State.moveBeat
  dsimp only
  split
  · exact .ite h h.migStep
  · exact h
  · exact h
  · trivial
  · refine .bind Inv.pageLeaf fun _ _ => .ite trivial (.ite trivial ?_)
    split
    next e => exact h.migrate.begun_eq e
    · trivial
    · trivial

theorem Inv.cmdBeat {k c} (h : Inv s) : InEng (fun p => Inv p.2) (s.cmdBeat k c) := by
  unfold State.cmdBeat
  split
  · exact .ite h.copyBeat (.ite h.shareBeat (.ite h.dropBeat h.moveBeat))
  · exact h.gatherBeat
  · exact h.gatherBeat
  · exact .ite h.sumBeat h.reduceBeat
  · exact h.sumBeat

theorem Inv.completeCmd {oct c} (h : Inv s) : Inv (s.completeCmd oct c) :=
  .ite h.freeLocks ((Inv.ite h.freeLocks.tbArrive h.freeLocks).post)

theorem Inv.abortActive {oct i cause} (h : Inv s) : Inv (s.abortActive oct i cause) := h.modOct
theorem Inv.dropActive {oct i} (h : Inv s) : Inv (s.dropActive oct i) := h.modOct

theorem Inv.afterBeat {oct i c r} (h : Inv s) (ha5 : InEng (fun p => Inv p.2) r) : Inv (s.afterBeat oct i c r) := by
  unfold State.afterBeat
  split
  · exact ha5.modOct
  · exact h.dropActive.toBar
  · exact h.abortActive
  · exact ha5.abortActive
  · exact h

theorem Inv.execCommandStart (h : Inv s) : InOut (execCommandStart s) := by
  unfold Machine.execCommandStart
  dsimp only
  split
  · exact h
  · exact .ite h h.modOct

theorem Inv.execCommandComplete (h : Inv s) : InOut (execCommandComplete s) := by
  unfold Machine.execCommandComplete
  dsimp only
  split
  · exact h
  · exact .ite h h.dropActive.completeCmd

theorem Inv.modStage {rid reg f} (h : Inv s) : Inv (s.modStage rid reg f) := h.modCore
theorem Inv.wakeReader {rid reg} (h : Inv s) : Inv (s.wakeReader rid reg) := .ite h.wakeRow h

theorem Inv.refill {st} (h : Inv s) : Inv (s.refill st) := by
  unfold State.refill
  split
  · exact h
  · dsimp only
    split
    next e => exact (h.unitGet.ok_eq e).modStage.wakeReader
    · exact h.modStage.toBar
    · exact h.modStage.wakeReader
    · exact h
    · exact h

theorem Inv.execStreamRefill (h : Inv s) : InOut (execStreamRefill s) := by
  unfold Machine.execStreamRefill
  dsimp only
  split
  · exact h.refill
  · exact h

/-- The next beat's outcome holds a state that meets the invariant. -/
theorem Inv.nextBeat {oct} (h : Inv s) : InOption (fun p => InEng (fun q => Inv q.2) p.2.2) (s.nextBeat oct) := by
  unfold State.nextBeat
  refine .findSome? fun i => ?_
  dsimp only
  split
  · trivial
  · split
    · trivial
    · exact h.cmdBeat
theorem Inv.engineStep {oct ok} (h : Inv s) : Inv (s.engineStep oct ok) := by
  unfold State.engineStep
  split
  · exact h.refill
  · split
    · exact h
    next e => exact .ite h (h.afterBeat (h.nextBeat.some_eq e)).modOct

theorem Inv.runKind {op kind} (h : Inv s) : Inv (s.runKind op kind) := .ite h.engineStep h

theorem Inv.execSbind {d sg} (h : Inv s) : InOut (execSbind d sg s) := by
  unfold Machine.execSbind
  refine h.runWord (.skip fun _ => .skip fun _ => .ite trivial (.bind h.alone fun _ h1 => .ite trivial (.ite trivial
    (.skip fun _ => ?_))))
  split
  · trivial
  · exact .ite trivial ((Inv.ite h1.unbind h1).tick.modThr.addLocks.modCore.rowPut.rowPut)

theorem Inv.execSunbind {d} (h : Inv s) : InOut (execSunbind d s) := h.runWord (.skip fun _ => .ite h h.rowZero.modChunk)

theorem Inv.execTbinit {a t} (h : Inv s) : InOut (execTbinit a t s) :=
  h.runWord (.skip fun _ => .bind h.src fun ⟨_, _⟩ h1 => .bind h1.alone fun _ h2 => h2.tbInit)

theorem Inv.execTbwait {a t} (h : Inv s) : InOut (execTbwait a t s) :=
  h.runWord (.skip fun _ => .bind h.src fun ⟨_, _⟩ h1 => .bind h1.alone fun _ h2 => .ite h2 trivial)

/-! ### The functions of Machine/Events -/

theorem Inv.ctlEvent {ok} (h : Inv s) : InOut (s.ctlEvent ok) := .ite h.ctlStore h
theorem Inv.execCtlRedirect (h : Inv s) : InOut (execCtlRedirect s) := .ite h.ctlStore h

theorem Inv.atBoundary {first} (h : Inv s) : InOut (s.atBoundary first) := by
  unfold State.atBoundary
  dsimp only
  split
  · exact h
  · refine .ite h (.ite (.ite h h.modThr.flushDeferred) ?_)
    split
    next e => exact h.boundary.fst_eq e
    next e => exact (h.boundary.fst_eq e).applyDeferred

theorem Inv.openRow {core port rid} (h : Inv s) : Inv (s.openRow core port rid) := by
  unfold State.openRow
  split
  · exact h.trapClosed
  · exact h.modCtl.moved.modThr.modCore

theorem Inv.execRowOpen (h : Inv s) : InOut (execRowOpen s) := by
  unfold Machine.execRowOpen
  refine .ite h ?_
  split
  · exact h.ctlReport
  · refine .ite h ?_
    split
    · exact h.openRow
    · exact h

theorem Inv.execOpenComplete (h : Inv s) : InOut (execOpenComplete s) := by
  unfold Machine.execOpenComplete
  dsimp only
  split
  · exact h
  · exact .ite h h.modCore.applyDeferred

theorem Inv.execCloseWriteback (h : Inv s) : InOut (execCloseWriteback s) := by
  unfold Machine.execCloseWriteback
  dsimp only
  split
  · exact h
  · exact .ite h h.modCore.backDone

theorem Inv.execTurnEnd (h : Inv s) : InOut (execTurnEnd s) := by
  unfold Machine.execTurnEnd
  dsimp only
  split
  · exact h
  · exact .ite h h.closeReady

theorem Inv.execPriorityRise (h : Inv s) : InOut (execPriorityRise s) := .ite h.modThr h

theorem Inv.execOpenlimClose (h : Inv s) : InOut (execOpenlimClose s) := by
  unfold Machine.execOpenlimClose
  refine .ite h ?_
  split
  · exact h
  · exact .ite h h.closeReady

theorem Inv.coreRegWrite {off} (h : Inv s) : InOut (s.coreRegWrite off) := .ite (h.coreWrite.getD h) h
theorem Inv.execRegisterWrite (h : Inv s) : InOut (execRegisterWrite s) := h.mmioWrite.getD h

theorem Inv.execRowHold (h : Inv s) : InOut (execRowHold s) := by
  unfold Machine.execRowHold
  dsimp only
  split
  · exact h
  · exact .ite h h.closeReady

theorem Inv.execStalemateInterval (h : Inv s) : InOut (execStalemateInterval s) :=
  .ite h (.ite (h.modClu.foldl (fun _ _ h => h.hfr)) (h.modClu.foldl (fun _ _ h => .ite h.trapClosed h)))

theorem Inv.execFqtailAdvance (h : Inv s) : InOut (execFqtailAdvance s) := by
  unfold Machine.execFqtailAdvance
  dsimp only
  split
  · exact h
  · exact h.poke.modTen.hfr

theorem Inv.execEccScrub (h : Inv s) : InOut (execEccScrub s) := .ite h.modClu h
theorem Inv.execUndecodableWord (h : Inv s) : InOut (execUndecodableWord s) := .ite h.stopTrap h
theorem Inv.execFetchFault (h : Inv s) : InOut (execFetchFault s) := .ite h h.stopTrap

/-! ### The functions of Machine/Fp -/

theorem Inv.fpDst {d cost r} (h : Inv s) : InOk Inv (s.fpDst d cost r) := InOk.bind h.spend.dst fun _ h1 => Inv.ite h1 h1.orSts

theorem Inv.fp2 {d a b cost f} (h : Inv s) : InOut (s.fp2 d a b cost f) :=
  h.runWord (.bind h.src fun ⟨_, _⟩ h1 => .bind h1.src fun ⟨_, _⟩ h2 => h2.fpDst)

theorem Inv.fp1 {d a cost f} (h : Inv s) : InOut (s.fp1 d a cost f) := h.runWord (.bind h.src fun ⟨_, _⟩ h1 => h1.fpDst)

theorem Inv.fp3 {d a b cost f} (h : Inv s) : InOut (s.fp3 d a b cost f) :=
  h.runWord (.bind h.src fun ⟨_, _⟩ h1 => .bind h1.src fun ⟨_, _⟩ h2 => .bind h2.src fun ⟨_, _⟩ h3 => h3.fpDst)

/-! ### The functions of Machine/Gambit -/

theorem Inv.gambitAlone (h : Inv s) : InOk Inv s.gambitAlone := .bind h.alone fun _ h1 => .skip fun _ => h1

theorem Inv.execGdef {d a sg} (h : Inv s) : InOut (execGdef d a sg s) :=
  h.runWord (.bind h.src fun ⟨_, _⟩ h1 => .skip fun _ => .skip fun _ => .bind h1.gambitAlone fun _ h2 => .ite trivial (.ite trivial
    (.ite trivial (.ite trivial (.ite trivial (.ite trivial (.ite trivial ((h2.poke.poke.foldl (fun _ _ h => h.setUseCount)).dst))))))))

theorem Inv.execGdel {a} (h : Inv s) : InOut (execGdel a s) :=
  h.runWord (.bind h.src fun ⟨_, _⟩ h1 => .skip fun _ => .bind h1.gambitAlone fun _ h2 => .ite trivial ((h2.foldl
    (fun _ _ h => h.setUseCount)).poke))

theorem Inv.applyNest {d a b waits} (h : Inv s) : InOut (s.applyNest d a b waits) := by
  unfold State.applyNest
  refine h.runWord (.bind h.src fun ⟨_, _⟩ h1 => .bind h1.src fun ⟨_, _⟩ h2 => .skip fun _ => .ite trivial
    (.bind h2.gambitAlone fun _ h3 => .ite h3.dst (.ite h3.dst ?_)))
  split
  · trivial
  · dsimp only
    split
    · exact .ite h3.dst (.ite trivial h3.dst)
    · exact h3.enterNest.takeSlot.modChunk.dst

theorem Inv.execNwait {d a} (h : Inv s) : InOut (execNwait d a s) := by
  unfold Machine.execNwait
  refine h.runWord (.bind h.src fun ⟨_, _⟩ h1 => .skip fun _ => .bind h1.gambitAlone fun _ h2 => ?_)
  split
  · exact h2.dst
  · trivial

theorem Inv.execNabort {a} (h : Inv s) : InOut (execNabort a s) := by
  unfold Machine.execNabort
  refine h.runWord (.bind h.src fun ⟨_, _⟩ h1 => .skip fun _ => .bind h1.gambitAlone fun _ h2 => ?_)
  split
  · exact h2
  · exact h2.nestAbort

theorem Inv.resumeLeaf {rid} (h : Inv s) : Inv (s.resumeLeaf rid) := h.ctlStore.moved

theorem Inv.execCresume {d a b} (h : Inv s) : InOut (Machine.execCresume d a b s) := by
  unfold Machine.execCresume
  extract_lets r
  have hr : InOk (fun x => match x with | .ok p => Inv p.1 | .error t => Inv t) r := by
    refine .bind h.src fun ⟨x, s⟩ h => .bind h.src fun ⟨v, s⟩ h => .skip fun _ => .bind h.gambitAlone fun s h => ?_
    dsimp only
    split
    · trivial
    · refine .ite (.bind h.modGNode.dst fun _ h => h) (.ite (.bind h.dst fun _ h => h) (.ite trivial (.ite trivial ?_)))
      exact (Inv.ite h.modGNode.rowPut h.modGNode).resumeLeaf
  clear_value r
  split
  · exact h.applyStop
  · exact Inv.retire hr
  · exact Inv.stopBlock hr

theorem Inv.execCyield {d a} (h : Inv s) : InOut (execCyield d a s) := by
  unfold Machine.execCyield
  refine h.runWord (.bind h.src fun ⟨_, _⟩ h1 => .skip fun _ => .bind h1.gambitAlone fun _ h2 => ?_)
  split
  · refine .ite trivial (.ite h2.modGNode.dst (.ite trivial ((Inv.jumpTo ?_).closeAs)))
    split
    · exact h2.modGNode.wakeRow
    · exact h2.modGNode
  · trivial

theorem Inv.nestWork {k rid} (h : Inv s) : Inv (s.nestWork k rid) := by
  unfold State.nestWork
  refine h.foldl ?_
  intro s _ h1
  split
  · exact h1
  · exact (Inv.ite h1.handlerNext h1).abortProgress

theorem Inv.execLeafEnd (h : Inv s) : InOut (execLeafEnd s) := by
  unfold Machine.execLeafEnd
  dsimp only
  split
  · exact h.nestWork
  · refine .ite h.nestWork (.ite h ?_)
    split
    · exact h.nullRow.moved
    · exact .ite h.nullRow.moved.abortProgress (.ite h.nullRow.moved.nodeEnd h)

/-! ### The functions of Machine/Matrix -/

theorem Inv.pushMatrix {ea b} (h : Inv s) : InOk Inv (s.pushMatrix ea b) := by
  unfold State.pushMatrix
  refine .ite trivial (.bind h.alone fun s h => .skip fun _ => .ite trivial (.ite trivial ?_))
  extract_lets post jp
  have hjp : ∀ tag, InOk Inv (jp tag) := by
    intro tag
    unfold jp
    split
    · trivial
    · refine .ite trivial ?_
      dsimp only [InOk]
      refine Inv.modLoaded ?_
      split
      · exact h.tick.modThr.addLocks.takeSlot.modThr
      · exact h.tick.modThr.addLocks
  clear_value jp
  refine .ite (.pure (hjp _)) ?_
  split
  · exact hjp _
  · trivial

theorem Inv.modHead {core f} (h : Inv s) : Inv (s.modHead core f) := h.modLoaded
theorem Inv.mqPop {core cmd} (h : Inv s) : Inv (s.mqPop core cmd) := h.modLoaded.freeLocks.mqServe

theorem Inv.mqStop {core e} (h : Inv s) (he : InStop e) : Inv (s.mqStop core e) := by
  unfold State.mqStop
  dsimp only
  split
  · exact h.modHead.modLoaded.toBar
  · exact h.mqAbort
  · exact he.mqAbort
  · exact h

theorem Inv.mqStart {core cmd} (h : Inv s) : InEither (s.mqStart core cmd) := .ite h (.ite h.modHead h.mqAbort)
theorem Inv.accMap {core acc f} (h : Inv s) : Inv (s.accMap core acc f) := h.foldl fun _ _ h => h.landStore.beatSlots

theorem Inv.unitGroups {k ten ok groups} (h : Inv s) : InEng (fun p => Inv p.2) (s.unitGroups k ten ok groups) := by
  induction groups generalizing s k ten ok with
  | nil => exact h
  | cons x l ih =>
    unfold State.unitGroups
    exact .bind h.unitReads fun ⟨_, _⟩ h1 => .bind (ih h1) fun ⟨_, _⟩ h2 => h2

theorem Inv.mmaBlock {core b kb} (h : Inv s) : InEng Inv (s.mmaBlock core b kb) := by
  unfold State.mmaBlock
  refine .bind h.unitGroups fun ⟨_, s⟩ h => .bind h.unitGroups fun ⟨_, s⟩ h => ?_
  dsimp -zeta only
  extract_lets jp
  have hjp : ∀ x, Inv x.2 → InEng Inv (jp x) := by
    intro ⟨_, s⟩ h
    unfold jp
    extract_lets rows jp
    have hjp : ∀ x, Inv x.2 → InEng Inv (jp x) := fun ⟨_, _⟩ h => .ite trivial h.accMap
    exact .ite (.bind h.unitReads hjp) (hjp _ h)
  exact .ite (.bind h.unitReads hjp) (hjp _ h)

theorem Inv.mmaRun {fuel core} (h : Inv s) : Inv (State.mmaRun fuel s core) := by
  induction fuel generalizing s with
  | zero => exact h
  | succ n ih =>
    unfold State.mmaRun
    split
    · exact h
    · split
      next e => exact h.mqStart.error_eq e
      next e =>
        have h1 := h.mqStart.ok_eq e
        split
        next e => exact h1.mqStop (h1.mmaBlock.error_eq e)
        next e =>
          have h2 := h1.mmaBlock.ok_eq e
          exact .ite (ih h2.modHead) h2.mqPop

theorem Inv.execMfmt (h : Inv s) : InOut (execMfmt s) := by
  unfold Machine.execMfmt
  dsimp only
  split
  · exact h
  · exact h.modLoaded.mqPop

theorem Inv.execMzero (h : Inv s) : InOut (execMzero s) := by
  unfold Machine.execMzero
  dsimp only
  split
  · exact h
  · split
    next e => exact h.mqStart.error_eq e
    next e => exact (h.mqStart.ok_eq e).accMap.mqPop

theorem Inv.moutLine {core a m} (h : Inv s) : InEng Inv (s.moutLine core a m) :=
  h.unitPut.map

theorem Inv.moutRun {fuel core cmd} (h : Inv s) : Inv (State.moutRun fuel s core cmd) := by
  induction fuel generalizing s cmd with
  | zero => exact h
  | succ n ih =>
    unfold State.moutRun
    refine .ite (Inv.ite h.accMap h).mqPop ?_
    have hl : InEng Inv (if s.accBad core (bits (dword cmd.block 1) 10 0) then .error
      (.abort .uncorr) else s.moutLine core cmd cmd.pos) :=
      .ite trivial h.moutLine
    split
    next e => exact h.mqStop (hl.error_eq e)
    next e =>
      have h1 := hl.ok_eq e
      exact .ite h1.modHead (ih h1.modHead)

theorem Inv.execMout (h : Inv s) : InOut (execMout s) := by
  unfold Machine.execMout
  dsimp only
  split
  · exact h
  · split
    next e => exact h.mqStart.error_eq e
    next e => exact (h.mqStart.ok_eq e).moutRun

theorem Inv.execMbias (h : Inv s) : InOut (Machine.execMbias s) := by
  unfold Machine.execMbias
  dsimp only
  split
  · exact h
  · split
    next e => exact h.mqStart.error_eq e
    next e =>
      have h1 := h.mqStart.ok_eq e
      split
      next e => exact h1.mqStop (h1.unitGet.error_eq e)
      next e =>
        have h2 := h1.unitGet.ok_eq e
        exact .ite (h2.mqStop trivial) h2.accMap.mqPop

theorem Inv.execMsignal (h : Inv s) : InOut (execMsignal s) := by
  unfold Machine.execMsignal
  dsimp only
  split
  · exact h
  · exact h.mqPop.mqWake

/-! ### The functions of Machine/Memory -/

theorem Inv.eaImm {a i} (h : Inv s) : InOk (fun p => Inv p.2) (s.eaImm a i) := .bind h.src fun ⟨_, _⟩ h1 => h1

theorem Inv.eaIdx {a b k} (h : Inv s) : InOk (fun p => Inv p.2) (s.eaIdx a b k) :=
  .bind h.src fun ⟨_, _⟩ h1 => .bind h1.src fun ⟨_, _⟩ h2 => h2

theorem Inv.ldOp {ea n b k} (h : Inv s) (hea : InOk (fun p => Inv p.2) ea) : InOut (s.ldOp ea n b k) :=
  h.runWord (.skip fun _ => .bind hea fun ⟨_, _⟩ h1 => h1.load)

theorem Inv.stOp {ea d n} (h : Inv s) (hea : InOk (fun p => Inv p.2) ea) : InOut (s.stOp ea d n) :=
  h.runWord (.skip fun _ => .bind hea fun ⟨_, _⟩ h1 => .bind h1.src fun ⟨_, _⟩ h2 => h2.store)

theorem Inv.stSeg {ea d k} (h : Inv s) (hea : InOk (fun p => Inv p.2) ea) : InOut (s.stSeg ea d k) := by
  unfold State.stSeg
  refine h.runWord (.skip fun _ => .bind hea fun ⟨_, _⟩ h1 => .skip fun _ => .bind h1.access fun ⟨_, _⟩ h2 => ?_)
  dsimp only
  split
  · exact h2.pushMatrix
  · exact h2.storeAt

theorem Inv.markRelease {c} (h : Inv s) : InOk Inv (s.markRelease c) := .ite trivial h.modChunk

theorem Inv.sides {c acq rel} (h : Inv s) : InOk Inv (s.sides c acq rel) :=
  .ite h (.ite (.bind h.alone fun _ h1 => .ite (.skip fun _ => h1) h1) (.ite h.markRelease h))

theorem Inv.atomOp {n aop d a b c r} (h : Inv s) : InOut (s.atomOp n aop d a b c r) := by
  unfold State.atomOp
  refine h.runWord (.skip fun _ => .bind h.src fun ⟨_, s⟩ h => .bind h.src fun ⟨_, s⟩ h => ?_)
  dsimp -zeta only
  extract_lets acq jp
  have hjp : ∀ x, Inv x.2 → InOk Inv (jp x) := fun ⟨_, _⟩ h => .bind h.sides fun _ h => h.atomic
  exact .ite (.bind h.src hjp) (hjp _ h)

theorem Inv.ldaOp {d a c n} (h : Inv s) : InOut (s.ldaOp d a c n) :=
  h.runWord (.skip fun _ => .bind h.src fun ⟨_, _⟩ h1 => .bind h1.sides fun _ h2 => h2.load)

theorem Inv.stlOp {a b c n} (h : Inv s) : InOut (s.stlOp a b c n) :=
  h.runWord (.skip fun _ => .bind h.src fun ⟨_, _⟩ h1 => .bind h1.src fun ⟨_, _⟩ h2 => .bind h2.sides fun _ h3 => h3.store)

theorem Inv.stmcOp {a b c n} (h : Inv s) : InOut (s.stmcOp a b c n) :=
  h.runWord (.skip fun _ => .bind h.src fun ⟨_, _⟩ h1 => .bind h1.src fun ⟨_, _⟩ h2 => .ite
    (.bind h2.alone fun _ h3 => h3.store) h2.store)

theorem Inv.execFence {c r} (h : Inv s) : InOut (Machine.execFence c r s) := by
  unfold Machine.execFence
  refine h.runWord (.skip fun _ => .ite (.bind h.alone fun s h => .skip fun _ => h) ?_)
  extract_lets acq rel q jp
  have hjp : ∀ s, Inv s → InOk Inv (jp s) := by
    intro s h
    unfold jp
    extract_lets s1 s2
    have h1 : Inv s1 := .ite h.modThr h
    have h2 : Inv s2 := .ite h1.modThr h1
    exact Inv.ite h2.modChunk h2
  exact .ite (.bind h.markRelease hjp) (hjp s h)

theorem Inv.execChunkCommit (h : Inv s) : InOut (execChunkCommit s) := by
  unfold Machine.execChunkCommit
  refine .ite ?_ h
  split
  next e => exact (h.tryCommit.done_eq e).closeLater
  next e => exact h.tryCommit.replayed_eq e
  · exact h

theorem Inv.execCommitGrant (h : Inv s) : InOut (execCommitGrant s) := by
  unfold Machine.execCommitGrant
  dsimp only
  split
  · exact h.modClu
  · exact h

theorem Inv.drainWord {k i j} (h : Inv s) : Inv (s.drainWord k i j) := by
  unfold State.drainWord
  dsimp only
  split
  · exact h
  · exact .ite h h.arriveStore.modClu

theorem Inv.execOutboundDrain (h : Inv s) : InOut (execOutboundDrain s) := Inv.ite h.drainWord h.drain

/-! ### The functions of Machine/Near -/

theorem Inv.execNbcmd {d b} (h : Inv s) : InOut (execNbcmd d b s) := by
  unfold Machine.execNbcmd
  refine h.runWord (.skip fun _ => .skip fun _ => .ite trivial (.bind h.alone fun _ h1 => .ite trivial (.skip fun _ => ?_)))
  split
  · trivial
  · split
    · trivial
    · exact .ite trivial h1.tick.modThr.takeSlot.addLocks.same.dst

theorem Inv.nbXlat {k ten both l} (h : Inv s) : InEng (fun p => Inv p.2) (s.nbXlat k ten both l) := by
  induction l generalizing s both with
  | nil => exact h
  | cons r rest ih =>
    have hx : InOk (fun p => Inv p.2.2) ((if both then s.engXlat k ten r.va false else .ok (0, default, s)) >>=
        fun x => x.2.2.engXlat k ten r.va r.write) :=
      .bind (.ite h.engXlat h) fun _ h => h.engXlat
    unfold State.nbXlat
    split
    next e =>
      split <;> trivial
    next e =>
      exact .bind (ih (hx.ok_eq e)) fun ⟨_, _⟩ h => h

theorem Inv.nbStart {c} (h : Inv s) : InEng (fun p => Inv p.2) (s.nbStart c) := .bind h.nbXlat fun ⟨_, _⟩ h1 => .ite trivial h1

theorem Inv.nbGet {pa n} : InEng (fun _ => True) (s.nbGet pa n) := by
  unfold State.nbGet
  split
  · trivial
  · trivial

theorem Inv.nbPut {pa bs} (h : Inv s) : Inv (s.nbPut pa bs) := h.clearUncorr.foldl fun _ _ h => h.poke

theorem Inv.nbElement {c} (h : Inv s) : InEng (fun p => Inv p.2) (s.nbElement c) :=
  InEng.ite (InEng.bind Inv.nbGet fun _ _ => InEng.bind Inv.nbGet fun _ _ => InEng.ite h.nbPut (InEng.bind Inv.nbGet fun _ _ => h.nbPut))
    (InEng.ite (InEng.bind Inv.nbGet fun _ _ => Inv.ite h.nbPut h) (InEng.ite h.nbPut (InEng.bind Inv.nbGet fun _ _ => h.nbPut)))

theorem Inv.setNb {bank c} (h : Inv s) : Inv (s.setNb bank c) := h.same

theorem Inv.nbDone {bank c status} (h : Inv s) : Inv (s.nbDone bank c status) :=
  .ite h.same.freeLocks ((Inv.ite h.same.freeLocks.tbArrive h.same.freeLocks).post)

theorem Inv.nbStep {kind} (h : Inv s) : InOut (s.nbStep kind) := by
  unfold State.nbStep
  dsimp only
  split
  · exact h
  · refine InOut.ite h ?_
    split
    · exact h.same
    · split
      next e =>
        have h1 := (InEng.ite h.nbElement h.nbStart).ok_eq e
        exact Inv.ite h1.nbDone h1.setNb
      · exact h.setNb.toBar
      · exact h.nbDone
      next e => exact ((InEng.ite h.nbElement h.nbStart).dropped_eq e).nbDone
      · exact h

theorem Inv.execNhsend {a b} (h : Inv s) : InOut (execNhsend a b s) := by
  unfold Machine.execNhsend
  refine h.runWord (.skip fun _ => .bind h.src fun ⟨_, _⟩ h1 => .ite trivial (.skip fun _ => .ite trivial
    (.bind h1.alone fun _ h2 => .skip fun _ => ?_)))
  split
  · trivial
  · exact .ite trivial h2.takeSlot.modThr.modBdc

theorem Inv.execNhHandlerStart (h : Inv s) : InOut (execNhHandlerStart s) := by
  unfold Machine.execNhHandlerStart
  dsimp only
  split
  · exact .ite h h.modBdc.serveInbound.rowZero.rowPut.rowPut.rowPut.setThr.setCtl
  · exact h

/-! ### The functions of Machine/SketchOps -/

theorem Inv.headerAt {ea write reads} (h : Inv s) : InOk (fun p => Inv p.2) (s.headerAt ea write reads) := by
  unfold State.headerAt
  refine .ite trivial (.ite trivial ?_)
  split
  · trivial
  · trivial
  next pa _ t e =>
    have ht : Inv t := h.coreXlat.ok_eq e
    extract_lets w
    have hw : InXlat w := .ite ht.coreXlat ht
    clear_value w
    split
    · trivial
    · trivial
    next u =>
      have hu : Inv u := hw
      refine .ite trivial (.ite trivial ?_)
      split
      · trivial
      · exact .bind hu.reach fun _ h => .ite trivial h

theorem Inv.sketchHead {a write} (h : Inv s) : InOk (fun p => Inv p.2.2) (s.sketchHead a write) :=
  .bind h.alone fun _ h1 => .ite trivial (.bind h1.headerAt fun ⟨_, _⟩ h2 => .ite trivial h2)

theorem Inv.postOp {opcode hva hpa hd kind} (h : Inv s) : InOk Inv (s.postOp opcode hva hpa hd kind) := by
  unfold State.postOp
  split
  · trivial
  · exact h.tick.takeSlot.same

theorem Inv.execSkdef {a sg} (h : Inv s) : InOut (execSkdef a sg s) :=
  h.runWord (.skip fun _ => .skip fun _ => .bind h.src fun ⟨_, _⟩ h1 => .bind h1.alone fun _ h2 => .ite trivial
    (.bind h2.headerAt fun ⟨_, _⟩ h3 => .ite trivial (.ite trivial (.bind h3.access fun ⟨_, _⟩ h4 => h4.storeAt))))

theorem Inv.execSkupd {a sg} (h : Inv s) : InOut (execSkupd a sg s) :=
  h.runWord (.skip fun _ => .skip fun _ => .bind h.src fun ⟨_, _⟩ h1 => .bind h1.sketchHead fun ⟨_, _, _⟩ h2 => h2.postOp)

theorem Inv.execSkupdv {a b sg} (h : Inv s) : InOut (execSkupdv a b sg s) :=
  h.runWord (.skip fun _ => .skip fun _ => .bind h.src fun ⟨_, _⟩ h1 => .bind h1.src fun ⟨_, _⟩ h2 =>
    .bind h2.sketchHead fun ⟨_, _, _⟩ h3 => h3.postOp)

theorem Inv.headerPut {hpa off bs} (h : Inv s) : Inv (s.headerPut hpa off bs) := h.landStore.beatSlots

theorem Inv.execSkscl {a b} (h : Inv s) : InOut (execSkscl a b s) :=
  h.runWord (.skip fun _ => .bind h.src fun ⟨_, _⟩ h1 => .bind h1.src fun ⟨_, _⟩ h2 => .bind h2.sketchHead fun ⟨_, _, _⟩ h3 =>
    .ite trivial (.ite trivial (.bind h3.postOp fun _ h4 => h4.headerPut)))

theorem Inv.execSkclr {a} (h : Inv s) : InOut (execSkclr a s) :=
  h.runWord (.skip fun _ => .bind h.src fun ⟨_, _⟩ h1 => .bind h1.sketchHead fun ⟨_, _, _⟩ h2 => .ite trivial
    (.bind h2.postOp fun _ h3 => h3.headerPut))

theorem Inv.execSkstat {d a c} (h : Inv s) : InOut (execSkstat d a c s) :=
  h.runWord (.skip fun _ => .bind h.src fun ⟨_, _⟩ h1 => .bind h1.sketchHead fun ⟨_, _, _⟩ h2 => .ite trivial
    ((Inv.ite h2.headerPut h2).dst))

theorem Inv.freeQuery {core order} (h : Inv s) : Inv (s.freeQuery core order) := h.modCore.serveQbufs

theorem Inv.execSkqry {d a sg} (h : Inv s) : InOut (Machine.execSkqry d a sg s) := by
  unfold Machine.execSkqry
  extract_lets s0 r
  have h0 : Inv s0 := h
  have hr : InOk (fun p => Inv p.2) r := by
    refine .skip fun _ => .skip fun x => .bind h.src fun ⟨ea, s⟩ h => ?_
    dsimp only
    split
    · refine .bind h.alone fun s h => ?_
      split
      · trivial
      · exact h.setSeg.setSeg.freeQuery
      · trivial
    · refine .skip fun ⟨_, _, _⟩ => .ite trivial (.ite trivial ?_)
      exact h0.tick.modThr.modCore
  clear_value r
  split
  · exact h.applyStop
  · exact Inv.retire hr
  · exact Inv.stopBlock hr

theorem Inv.pipStep {p} (h : Inv s) : InEng (fun p => Inv p.2) (s.pipStep p) := by
  unfold State.pipStep
  refine .ite (.bind h.orSatf fun ⟨_, _⟩ h1 => h1) ?_
  split
  · exact h
  · refine .ite (.bind h.orSatf fun ⟨_, _⟩ h2 => h2) ?_
    split
    · exact .bind h.unitPut fun ⟨_, _⟩ h3 => h3
    · exact .bind h.opXlat fun ⟨_, _⟩ h4 => .bind h4.unitOp fun ⟨_, _, _⟩ h5 => h5

theorem Inv.setPip {p} (h : Inv s) : Inv (s.setPip p) := h.same

theorem Inv.pipEnd {p cause} (h : Inv s) : Inv (s.pipEnd p cause) := by
  unfold State.pipEnd
  refine .ite h.same ?_
  split
  · exact h.same.freeSlot
  · exact h.same.post

theorem Inv.execSketchCounterOp (h : Inv s) : InOut (execSketchCounterOp s) := by
  unfold Machine.execSketchCounterOp
  split
  · exact h
  · refine InOut.ite h ?_
    split
    next e =>
      have h1 := h.pipStep.ok_eq e
      exact Inv.ite h1.pipEnd h1.setPip
    next e => exact (h.pipStep.ok_eq e).pipEnd
    · exact h.setPip.toBar
    · exact h.pipEnd
    next e => exact (h.pipStep.dropped_eq e).pipEnd
    · exact h

theorem Inv.modQuery {core order f} (h : Inv s) : Inv (s.modQuery core order f) := h.modCore
theorem Inv.queryDone {core q} (h : Inv s) : Inv (s.queryDone core q) := .ite h.freeQuery (.ite h.modQuery.wakeRow h.modQuery)

theorem Inv.queryStep {core q} (h : Inv s) : InEng (fun p => Inv p.2) (s.queryStep core q) := by
  unfold State.queryStep
  refine .ite (.bind h.orSatf fun ⟨_, _⟩ h1 => h1) ?_
  split
  · exact .bind h.ctrRead fun ⟨⟨_, _⟩, s⟩ h2 => h2
  · exact .bind h.unitRead fun ⟨_, _⟩ h3 => h3

theorem Inv.execSkqryResult (h : Inv s) : InOut (execSkqryResult s) := by
  unfold Machine.execSkqryResult
  dsimp only
  split
  · exact h
  · refine InOut.ite h ?_
    split
    next e =>
      have h1 := h.queryStep.ok_eq e
      exact Inv.ite h1.queryDone h1.modQuery
    · exact h.modQuery.toBar
    · exact h.queryDone
    next e => exact (h.queryStep.dropped_eq e).queryDone
    · exact h

/-! ### The functions of Machine/Paging -/

theorem Inv.execTlbWalk (h : Inv s) : InOut (execTlbWalk s) := .ite h.xlatCore h

theorem Inv.reenter {ten b} (h : Inv s) : Inv (s.reenter ten b) := by
  unfold State.reenter
  split
  · exact h.modOct
  · exact h.modCs
  · exact h.modStage
  · exact h.modQuery
  · exact h.same
  · split
    · exact h.setNb
    · exact h
  · exact h
  · exact h

theorem Inv.barAbort {ten b} (h : Inv s) : Inv (s.barAbort ten b) := by
  unfold State.barAbort
  split
  · exact h.completeCmd
  · exact h.mqAbort
  · exact h.modStage.wakeReader
  · split
    · exact h.queryDone
    · exact h
  · split
    · exact h.pipEnd
    · exact h
  · split
    · exact h.nbDone
    · exact h
  · exact h
  · exact h

theorem Inv.execBarReentry (h : Inv s) : InOut (execBarReentry s) := by
  unfold Machine.execBarReentry
  dsimp only
  split
  · exact h
  · refine InOut.ite h.modTen.barAbort.serveLocks (InOut.ite (Inv.ite h.serveEntry h) ?_)
    split
    next e => exact (h.barLocks.snd_eq e).modTen.reenter.serveLocks
    next e => exact h.barLocks.snd_eq e

theorem Inv.barToHost {ten i b} (h : Inv s) : Inv (s.barToHost ten i b) := h.modBarEntry.askNext

theorem Inv.execFaultIn (h : Inv s) : InOut (execFaultIn s) := by
  unfold Machine.execFaultIn
  dsimp only
  split
  · exact h
  · split
    · refine .ite h.barToHost ?_
      split
      · exact h.barToHost
      · split
        next e => exact (h.migrate.begun_eq e).serveEntry
        · exact h
        · exact h.barToHost
    · exact h.barToHost
    · exact h.serveEntry

theorem Inv.execCowService (h : Inv s) : InOut (execCowService s) := by
  unfold Machine.execCowService
  dsimp only
  split
  · exact h
  · split
    · refine .ite h.serveEntry (.ite h.barToHost (.ite h ?_))
      split
      · exact h.barToHost
      · split
        next e => exact (h.serveCow.some_eq e).serveEntry
        · exact h.barToHost
    · exact h.serveEntry

theorem Inv.execMigrationStart (h : Inv s) : InOut (execMigrationStart s) := by
  unfold Machine.execMigrationStart
  dsimp only
  split
  · exact h
  · split
    · exact .ite h (h.afterBeat h.cmdBeat)
    · exact h

theorem Inv.execLinePull (h : Inv s) : InOut (execLinePull s) := .ite h.pullLine.migFinish h

/-! ### The functions of Machine/Work -/

theorem Inv.unkeep {rid tag} (h : Inv s) : Inv (s.unkeep rid tag) := by
  unfold State.unkeep
  split
  · exact h.freeSlot
  · exact h

theorem Inv.launchWord {sg d} (h : Inv s) : InOut (s.launchWord sg d) := by
  unfold State.launchWord
  refine h.runWord (.skip fun _ => .ite trivial (.skip fun x => .ite trivial ?_))
  extract_lets jp
  have hjp : InOk Inv (jp ()) := by
    refine .bind h.alone fun s h => .skip fun _ => .ite trivial (.ite ?_ ?_)
    · split
      · trivial
      · extract_lets t
        have ht : Inv t := by
          unfold t
          split
          · exact h.unkeep
          · exact h
        exact ht.dst
    · extract_lets t u v
      have ht : Inv t := by
        unfold t
        split
        · exact h.takeSlot
        · exact h
      have hv : Inv v := ht.modThr.modTen
      split
      · exact hv
      · exact hv.dst
  split
  · trivial
  · exact hjp

theorem Inv.execSignal {a} (h : Inv s) : InOut (execSignal a s) :=
  h.runWord (.skip fun _ => .bind h.src fun ⟨_, _⟩ h1 => .ite trivial (.bind h1.alone fun _ h2 => .skip fun _ => h2.modPkg))

theorem Inv.nodeReady {n} (h : Inv s) : Inv (s.nodeReady n) := h.modNode.modTen

theorem Inv.execSignalDelivery (h : Inv s) : InOut (execSignalDelivery s) := by
  unfold Machine.execSignalDelivery
  split
  · exact h
  · exact InOut.ite h.modPkg.modTen (Inv.ite h.modPkg.modNode.nodeReady h.modPkg.modNode)

theorem Inv.discardRecord {ten n core tag status} (h : Inv s) : Inv (s.discardRecord ten n core tag status) := by
  unfold State.discardRecord
  dsimp only
  split
  · exact h.countDiscard.post
  · exact h.countDiscard

theorem Inv.execLaunchInstall (h : Inv s) : InOut (execLaunchInstall s) := by
  unfold Machine.execLaunchInstall
  dsimp only
  split
  · exact h
  · exact InOut.ite h.modTen.serveLaunch.discardRecord (Inv.ite h.modTen.serveLaunch.modNode.nodeReady h.modTen.serveLaunch.modNode)

theorem Inv.armTeam {k number n} (h : Inv s) : Inv (s.armTeam k number n) := h.modClu
theorem Inv.clearTags {b dlog} (h : Inv s) : Inv (s.clearTags b dlog) := h.foldl fun _ _ h => h.modCtl

theorem Inv.startThread {t r tmpl j b} (h : Inv s) : Inv (s.startThread t r tmpl j b) :=
  (Inv.ofMem (Memory.wf_mwrite _ _ _ (Memory.wf_msplice _ _ _ _ h))).rowPut.rowPut.rowPut.rowZero.makeThread.clearTags

theorem Inv.startTeam {t} (h : Inv s) : Inv (s.startTeam t) := (h.foldl (fun _ _ h => h.startThread)).armTeam.setTeamhdl

theorem Inv.placeTeam {n index slot k number blocks} (h : Inv s) : Inv (s.placeTeam n index slot k number blocks) :=
  h.tick.same.startTeam

theorem Inv.takeFresh {n slot} (h : Inv s) : Inv (s.takeFresh n slot) := h.modNode

theorem Inv.placeAll {n fuel i} (h : Inv s) : Inv (State.placeAll n fuel i s) := by
  -- `delta`, for Lean cannot generate the equation lemmas that `unfold` needs
  delta State.placeAll
  induction fuel generalizing i s with
  | zero => exact h
  | succ f ih =>
    refine .ite h ?_
    split
    · exact h
    next k number b _ =>
      exact ih (i := i + 1) (h.placeTeam (k := k) (number := number) (blocks := b)).modNode

theorem Inv.failNode {ten n status} (h : Inv s) : Inv (s.failNode ten n status) := h.modNode.discardRecord

theorem Inv.dispatchGrid {ten n} (h : Inv s) : Inv (s.dispatchGrid ten n) := by
  unfold State.dispatchGrid
  dsimp only
  split
  · exact h
  · split
    · exact h.failNode
    · exact h.modNode.modTen.placeAll.modNode

theorem Inv.dispatchNest {ten n} (h : Inv s) : Inv (s.dispatchNest ten n) := by
  unfold State.dispatchNest
  refine .ite h.failNode ?_
  split
  · exact h
  · exact h.modNode.enterNest.instantiate

theorem Inv.execNodeDispatch (h : Inv s) : InOut (execNodeDispatch s) := by
  unfold Machine.execNodeDispatch
  dsimp only
  split
  · exact Inv.ite h.modTen.dispatchGrid (Inv.ite h.modTen.dispatchNest h.modTen.nodeComplete)
  · exact h

theorem Inv.execTeamPlacement (h : Inv s) : InOut (execTeamPlacement s) := by
  unfold Machine.execTeamPlacement
  refine .ite h ?_
  split
  · exact h.takeFresh.placeTeam.modNode
  · exact h

theorem Inv.dropTeam {i} (h : Inv s) : Inv (s.dropTeam i) := h.same

theorem Inv.execTeamEnd (h : Inv s) : InOut (Machine.execTeamEnd s) := by
  unfold Machine.execTeamEnd
  extract_lets i
  split
  · exact h
  · refine .ite h ?_
    extract_lets s1 s2 s3 g
    have h3 : Inv s3 := (h.foldl fun _ _ h => h.nullRow.moved).armTeam.dropTeam.modNode
    exact .ite h3.modTen.nodeComplete h3

theorem Inv.castleStop {rid} (h : Inv s) : Inv (s.castleStop rid) := .ite h.dropReservations.modThr.serveLocks h.stopRow

theorem Inv.beginCastle {i t shed place} (h : Inv s) : Inv (s.beginCastle i t shed place) := by
  unfold State.beginCastle
  refine h.same.foldl ?_
  intro s _ h1
  exact h1.castleStop

theorem Inv.castleRow {t rid} (h : Inv s) : Inv (s.castleRow t rid) := by
  unfold State.castleRow
  exact h.dropPackets.abandonQueries.modCore.modCsRow.same.serveLocks

theorem Inv.reviveRow {t m i rid} (h : Inv s) : Inv (s.reviveRow t m i rid) := by
  unfold State.reviveRow
  extract_lets n at_ c s1 s2 waiting
  have h1 : Inv s1 := Memory.wf_mwrite _ _ _ (Memory.wf_msplice _ _ _ _ h)
  exact .ite h1.setCtl h1.setCtl.setThr.modCsRow

theorem Inv.askAgain {applied rid} (h : Inv s) : Inv (s.askAgain applied rid) := by
  unfold State.askAgain
  refine .ite h (.ite (.ite h.serveHub (.ite h.serveInbound ?_)) (.ite (.ite ?_ (.ite h.wakeRow h)) (.ite (.ite h.wakeRow h)
    (.ite h.mqServe (.ite (.ite h.wakeRow h) (.ite h.serveLaunch (.ite h.tbWake (.ite h.serveQbufs (.ite h.serveLocks (.ite
    (.ite h.wakeRow h) (.ite (.ite h.wakeRow h) (.ite ?_ h))))))))))))
  · split
    · exact h.serve
    · exact h
  · split
    · exact h.modCsRow.wakeRow
    · exact h
  · split
    · exact h.wakeRow
    · split
      · exact .ite h.wakeRow h
      · exact h

theorem Inv.restoreTeam {i further} (h : Inv s) : Inv (s.restoreTeam i further) := by
  unfold State.restoreTeam
  split
  · exact h
  · split
    · exact h
    · extract_lets rows s1 bars s2 s3 all
      have h3 : Inv s3 := ((h.foldl fun _ _ h => h.reviveRow).foldl fun _ _ h => h.modBar).foldl fun _ _ h => h.modCore
      clear_value s3
      split
      next o s4 e =>
        have h4 : Inv s4 := h3.tick.snd_eq e
        extract_lets slot s5 s6 s7 s8 s9 s10 s11
        have h6 : Inv s6 := .ite h4.same.modNode h4.same
        have h8 : Inv s8 := (h6.foldl fun _ _ h => h.modCsRow).foldl fun _ _ h => .ite h.wakeRow h
        have h10 : Inv s10 := (h8.foldl fun _ _ h => h.releaseRow).foldl fun _ _ h => h.askAgain
        have h11 : Inv s11 := h8.foldl fun _ _ h => .ite h.modThr h
        exact .ite h10.barsRecheck h11.barsRecheck

theorem Inv.slotNext {t} (h : Inv s) : Inv (s.slotNext t) := by
  unfold State.slotNext
  dsimp only
  split
  · exact .ite h.takeFresh.placeTeam h
  · split
    · exact h.restoreTeam
    · exact h

theorem Inv.execCastling (h : Inv s) : InOut (execCastling s) := by
  unfold Machine.execCastling
  dsimp only
  split
  · exact h
  · refine .ite h (.ite ?_ (.ite h ((h.clearUncorr.pokeLong.tick.foldl (fun _ _ h => h.castleRow)).armTeam.same.slotNext)))
    split
    · exact h
    · exact .ite h.beginCastle h

theorem Inv.execCastleRestore (h : Inv s) : InOut (execCastleRestore s) := by
  unfold Machine.execCastleRestore
  dsimp only
  split
  · exact h
  · exact .ite h.restoreTeam h

theorem Inv.beginSwitch {k new since} (h : Inv s) : Inv (s.beginSwitch k new since) := .ite h h.modClu

theorem Inv.beginNext {k} (h : Inv s) : Inv (s.beginNext k) := by
  unfold State.beginNext
  dsimp only
  split
  · exact .ite h h.modClu.beginSwitch
  · exact h

theorem Inv.execStrideChoice (h : Inv s) : InOut (execStrideChoice s) := by
  unfold Machine.execStrideChoice
  refine .ite h ?_
  dsimp only
  split
  · exact h.modClu
  · exact h.modClu.modClu.modClu.beginNext

theorem Inv.execSwitchForced (h : Inv s) : InOut (execSwitchForced s) := by
  unfold Machine.execSwitchForced
  dsimp only
  split
  · exact h
  · exact .ite h h.modClu.stopTenant

theorem Inv.loadImage {core ten} (h : Inv s) : Inv (s.loadImage core ten) := h.modCore

theorem Inv.putImage {pa bs} (h : Inv s) : Inv (s.putImage pa bs) := by
  unfold State.putImage
  split
  · exact h.clearUncorr.pokeLong
  · exact h.clearUncorr.pokeLong
  · exact h

theorem Inv.writeImage {core gang} (h : Inv s) : Inv (s.writeImage core gang) := h.tick.putImage

theorem Inv.releaseTenant {k ten} (h : Inv s) : Inv (s.releaseTenant k ten) :=
  (h.foldl (fun _ _ h => .ite h.releaseRow.modThr.dispatchTrap h.releaseRow)).foldl fun _ _ h => h.askAgain

theorem Inv.execSwitchExchange (h : Inv s) : InOut (execSwitchExchange s) := by
  unfold Machine.execSwitchExchange
  dsimp only
  split
  · exact h
  · exact .ite h (.ite h.writeImage.loadImage.modClu h.writeImage.loadImage.modClu.releaseTenant.beginNext)

theorem Inv.gangSwitch {k} (h : Inv s) : Inv (s.gangSwitch k) := by
  unfold State.gangSwitch
  extract_lets c side into s1 new change
  have h1 : Inv s1 := .ite h.modClu h
  clear_value s1 c side into new change
  exact .ite h1 h1.modClu.stopTenant

theorem Inv.execGangTick (h : Inv s) : InOut (execGangTick s) :=
  .ite h ((h.same.modPkg.foldl (fun _ _ h => h.gangSwitch)).foldl (fun _ _ h => .ite h h.modClu.beginNext))

theorem Inv.execGangSpill (h : Inv s) : InOut (execGangSpill s) := by
  unfold Machine.execGangSpill
  dsimp only
  split
  · exact h
  · refine .ite h ?_
    split
    · exact h.modCore
    · exact .ite h h.writeImage.modCore

theorem Inv.moveImage {core old} (h : Inv s) : Inv (s.moveImage core old) := .ite h (.ite h.putImage h.putImage.putImage)

theorem Inv.gangJoin {k} (h : Inv s) : Inv (s.gangJoin k) := by
  unfold State.gangJoin
  split
  · exact h
  · exact (h.foldl (fun _ _ h => h.moveImage.loadImage.modCore)).modClu.releaseTenant.beginNext

theorem Inv.execGangDieLoad (h : Inv s) : InOut (execGangDieLoad s) := by
  unfold Machine.execGangDieLoad
  refine .ite h ?_
  split
  · exact h.modPkg
  · exact .ite h (h.modPkg.foldl (fun _ _ h => h.gangJoin))

theorem Inv.execGangLate (h : Inv s) : InOut (execGangLate s) :=
  h.foldl (fun _ _ h => .ite h ((h.foldl (fun _ _ h => h.modClu)).modPkg))

theorem Inv.execGangForcedStop (h : Inv s) : InOut (execGangForcedStop s) := by
  unfold Machine.execGangForcedStop
  dsimp only
  split
  · exact h
  · refine .ite h (.ite h.stopRow.closeReady ?_)
    split
    next e => exact h.boundary.fst_eq e
    next e => exact (h.boundary.fst_eq e).cancelPacket.abandonQueries.closeRow.modThr.holdRow

theorem Inv.execGangmaskWrite (h : Inv s) : InOut (execGangmaskWrite s) := .ite (h.tenWrite.getD h) h
theorem Inv.execTicketsWrite (h : Inv s) : InOut (execTicketsWrite s) := .ite (h.tenWrite.getD h) h

/-! ### The functions of Machine/Platform -/

theorem Inv.execReset (h : Inv s) : InOut (execReset s) := Inv.ofMem (Memory.wf_filter _ _ h)
theorem Inv.execFirmwareImage (h : Inv s) : InOut (execFirmwareImage s) := .ite h (.ite h.modPkg h.modPkg)

theorem Inv.minimaOne {a t} (h : Inv a.2.2) : Inv (State.minimaOne a t).2.2 := by
  unfold State.minimaOne
  dsimp only
  split
  · exact h.modTen
  · exact .ite h.modTen h.modTen.hfr

theorem Inv.foldlMinimaOne {l : List Nat} {a : Nat × Nat × State} (h : Inv a.2.2) : Inv (l.foldl State.minimaOne a).2.2 := by
  induction l generalizing a with
  | nil => exact h
  | cons t l ih => exact ih (Inv.minimaOne h)
theorem Inv.minima (h : Inv s) : Inv s.minima := by
  unfold State.minima
  refine Inv.foldlMinimaOne ?_
  dsimp only
  exact h

theorem Inv.setReady0 {i on} (h : Inv s) : Inv (s.setReady0 i on) := .ite h (.ite h.modPkg.minima h.modPkg)
theorem Inv.reroute {e oct} (h : Inv s) : Inv (s.reroute e oct) := .ite h h.modOct

theorem Inv.retireElevator {e} (h : Inv s) : Inv (s.retireElevator e) := by
  unfold State.retireElevator
  refine .ite h ?_
  extract_lets s1 st s2
  have h2 : Inv s2 := .ite h.modPkg.hfr (.ite (h.modPkg.foldl fun _ _ h => h.reroute) h.modPkg)
  exact .ite (h2.foldl fun _ _ h => h.setReady0) h2

theorem Inv.execFunctionReady (h : Inv s) : InOut (execFunctionReady s) := .ite h (.ite h.setReady0 (.ite h.modPkg h))
theorem Inv.execFunctionRetire (h : Inv s) : InOut (execFunctionRetire s) := .ite h.setReady0 (.ite h.retireElevator h)

theorem Inv.execPacketRetry (h : Inv s) : InOut (execPacketRetry s) := by
  unfold Machine.execPacketRetry
  split
  · exact .ite h h.same
  · exact h

theorem Inv.execRouteWrite (h : Inv s) : InOut (execRouteWrite s) := .ite h.setRoute h

theorem Inv.execWavelengthDrop (h : Inv s) : InOut (Machine.execWavelengthDrop s) := by
  unfold Machine.execWavelengthDrop
  refine .ite h ?_
  extract_lets s1 s2
  have h2 : Inv s2 := .ite h.modPkg.hfr h.modPkg
  exact .ite h2.setReady0 h2

theorem Inv.execFlitRetry (h : Inv s) : InOut (execFlitRetry s) := InOut.ite h (Inv.ite h.modPkg.setReady0 h.modPkg)
theorem Inv.execQuadGated (h : Inv s) : InOut (execQuadGated s) := .ite h.modQuad h
theorem Inv.execQuadWakeDone (h : Inv s) : InOut (execQuadWakeDone s) := InOut.ite (Inv.ite h.modQuad.gateQuad h.modQuad) h

theorem Inv.shedQuads (h : Inv s) : Inv s.shedQuads :=
  h.foldl (fun _ _ h => .ite (.ite h.gateQuad.modQuad h) (.ite h.ungateQuad.modQuad h))

theorem Inv.shedTeams (h : Inv s) : Inv s.shedTeams := by
  unfold State.shedTeams
  refine .ite h.same (h.foldl ?_)
  intro s _ h1
  split
  · split
    · exact h1.beginCastle
    · exact h1
  · exact h1

theorem Inv.execPowerCompare (h : Inv s) : InOut (execPowerCompare s) := .ite h h.modPkg.shedQuads.shedTeams
theorem Inv.execPwrcapWrite (h : Inv s) : InOut (execPwrcapWrite s) := h.serviceWrite.getD h

theorem Inv.execHfrRecord (h : Inv s) : InOut (execHfrRecord s) := by
  unfold Machine.execHfrRecord
  dsimp only
  split
  · exact h
  · exact .ite h (.ite h h.poke.modPkg)

theorem Inv.execHfrrespServiced (h : Inv s) : InOut (execHfrrespServiced s) := .ite h.hfrresp h
theorem Inv.execHfrrespFailed (h : Inv s) : InOut (execHfrrespFailed s) := .ite h.hfrresp h
theorem Inv.reply {r} (h : Inv s) : Inv (s.reply r) := h.modPkg

theorem Inv.outsideRead {pa n} (h : Inv s) : InOption (fun p => Inv p.2) (s.outsideRead pa n) := by
  unfold State.outsideRead
  split
  · exact h
  · exact h
  · exact h
  · exact .ite h (.map h.settleAt)

theorem Inv.execHostAccess (h : Inv s) : InOut (execHostAccess s) := by
  unfold Machine.execHostAccess
  refine InOut.ite h.reply (InOut.ite ?_ ?_)
  · split
    next e => exact (h.outsideRead.some_eq e).reply
    · exact h
  · split
    · split
      next e => exact (h.mmioWrite.some_eq e).reply
      · exact h.reply
    · split
      next e => exact (h.mmioWrite.some_eq e).reply
      · exact h.reply
    · split
      next e => exact (h.mmioWrite.some_eq e).reply
      · exact h.reply
    · exact Inv.ite h.arriveStore h.arriveStore.reply

theorem Inv.fabReply {source r} (h : Inv s) : Inv (s.fabReply source r) := h.modPkg

theorem Inv.fabAccess {src pa n data ten} (h : Inv s) : Inv (s.fabAccess src pa n data ten) := by
  unfold State.fabAccess
  split
  · split
    next e => exact (h.outsideRead.some_eq e).fabReply
    · exact h.pressAt
  · split
    · split
      next e => exact (h.mmioWrite.some_eq e).fabReply
      · exact h.fabReply
    · split
      next e => exact (h.mmioWrite.some_eq e).fabReply
      · exact h.fabReply
    · split
      next e => exact (h.mmioWrite.some_eq e).fabReply
      · exact h.fabReply
    · exact .ite h.arriveStore h.arriveStore.fabReply

theorem Inv.fabAtomic {src pa n ten a} (h : Inv s) : Inv (s.fabAtomic src pa n ten a) := by
  unfold State.fabAtomic
  refine .ite h.slotAt.holdWrite (.ite h.fabReply ?_)
  split
  · exact h.pressAt
  next e =>
    have h1 := h.settleAt.some_eq e
    split
    · exact h1
    next e => exact (h1.atomHome.some_eq e).slotAt.fabReply

theorem Inv.fabAdd {src pa ten op} (h : Inv s) : Inv (s.fabAdd src pa ten op) := by
  unfold State.fabAdd
  refine .ite h.slotAt.holdWrite (.ite h.fabReply ?_)
  split
  · exact h.pressAt
  next e => exact (h.settleAt.some_eq e).wordOp.slotAt.fabReply

theorem Inv.farLine {pa} (h : Inv s) : Inv (s.farLine pa) := h.modPkg

theorem Inv.fabXlat_go {src ten va pa ws act} (hact : ∀ pa s, Inv s → Inv (act pa s)) (h : Inv s) :
    Inv (State.fabXlat.go src ten va act ws pa s) := by
  induction ws generalizing pa s with
  | nil =>
    unfold State.fabXlat.go
    refine .ite h.fabReply ?_
    split
    · exact h.fabReply
    · exact hact _ _ h
  | cons w ws ih =>
    unfold State.fabXlat.go
    split
    · exact .ite h.fabReply h.toBar.fabReply
    next e => exact ih (h.engXlat.ok_eq e)
theorem Inv.fabXlat {src ten va writes act} (h : Inv s) (hact : ∀ pa s, Inv s → Inv (act pa s)) :
    Inv (s.fabXlat src ten va writes act) :=
  Inv.fabXlat_go hact h

theorem Inv.execFabricRequest (h : Inv s) : InOut (execFabricRequest s) := by
  unfold Machine.execFabricRequest
  refine .ite h ?_
  dsimp only
  split
  · refine .ite h.fabReply ?_
    split
    · exact h.fabReply
    · exact (Inv.ite h h.farLine).fabAccess
  · refine .ite h.fabReply ?_
    split
    · exact h.fabReply
    · exact (Inv.ite h h.farLine).fabAccess
  · refine .ite h.fabReply ?_
    split
    · exact h.fabReply
    · exact h.fabAtomic
  · exact .ite h.fabReply (h.fabXlat (fun _ _ h1 => h1.farLine.fabAccess))
  · exact .ite h.fabReply (h.fabXlat (fun _ _ h2 => h2.farLine.fabAdd))
  · refine .ite h ?_
    split
    next e => exact h.packetIn.some_eq e
    · exact h

theorem Inv.execOctownReassign (h : Inv s) : InOut (execOctownReassign s) := .ite h.setOwner h
theorem Inv.execScrubDone (h : Inv s) : InOut (execScrubDone s) := .ite h.scrubOctet h
theorem Inv.execTenminWrite (h : Inv s) : InOut (execTenminWrite s) := .ite h.setTenmin h
theorem Inv.execFnmodeWrite (h : Inv s) : InOut (execFnmodeWrite s) := h.serviceWrite.getD h
theorem Inv.tlbKind {kind} (h : Inv s) : InOut (s.tlbKind kind) := .ite h.tlbcmd h

theorem Inv.execTlbcmdDone (h : Inv s) : InOut (execTlbcmdDone s) :=
  InOut.ite h (InOut.ite h.tlbcmdRemove (Inv.ite h.tlbcmdRemove.modPkg.modTen (Inv.ite h.tlbcmdRemove.modPkg.same h.tlbcmdRemove.modPkg)))

/-! ### The functions of Machine/Vector -/

theorem Inv.vjoin {core} (h : Inv s) : Inv (s.vjoin core) := by
  unfold State.vjoin
  dsimp only
  split
  · exact h.modCore
  · exact h

theorem Inv.vecOp {reads writes landing occupancy r} (h : Inv s) (hr : InOk Inv r) : InOut (s.vecOp reads writes landing occupancy r) :=
  h.runWord (.ite hr (.ite trivial (.bind hr fun _ h1 => h1.vjoin.tick.modThr.modCore)))

theorem Inv.putLanes {ty k l} (h : Inv s) : Inv (s.putLanes ty k l) := h.setSeg

theorem Inv.vlanes {d a b y readsD landing occ f} (h : Inv s) : InOut (s.vlanes d a b y readsD landing occ f) :=
  h.vecOp (.skip fun _ => .skip fun _ => .ite (.skip fun _ => h.putLanes) h.putLanes)

theorem Inv.vlanes1 {d a y landing occ f} (h : Inv s) : InOut (s.vlanes1 d a y landing occ f) :=
  h.vecOp (.skip fun _ => h.putLanes)

theorem Inv.vscalar {g a b y landing occ f} (h : Inv s) : InOut (s.vscalar g a b y landing occ f) :=
  h.vecOp (.skip fun _ => .skip fun _ => h.dst)

theorem Inv.execVsel {d a b y m} (h : Inv s) : InOut (execVsel d a b y m s) :=
  h.vecOp (.bind h.vsrc fun ⟨_, _⟩ h1 => .skip fun _ => .skip fun _ => h1.putLanes)

theorem Inv.execVcvt {d a p f t e u q} (h : Inv s) : InOut (execVcvt d a p f t e u q s) :=
  h.vecOp (.skip fun _ => .ite (.skip fun _ => h.putLanes) h.putLanes)

theorem Inv.vquant {d a b y slot q width f} (h : Inv s) : InOut (s.vquant d a b y slot q width f) := by
  unfold State.vquant
  refine h.vecOp (.skip fun _ => ?_)
  extract_lets jp
  have hjp : ∀ x, InOk Inv (jp x) := fun _ => .skip fun _ => .skip fun _ => h.setSeg.setSeg
  exact .ite (.skip hjp) (hjp _)

theorem Inv.execVperm {d a b y} (h : Inv s) : InOut (execVperm d a b y s) :=
  h.vecOp (.skip fun _ => .skip fun _ => .skip fun _ => h.putLanes)

theorem Inv.execVbcast {d y g} (h : Inv s) : InOut (execVbcast d y g s) := h.vecOp (.bind h.vsrc fun ⟨_, _⟩ h1 => h1.putLanes)

theorem Inv.execVins {d n y m g} (h : Inv s) : InOut (execVins d n y m g s) :=
  h.vecOp (.bind h.vsrc fun ⟨_, _⟩ h1 => .skip fun _ => h1.putLanes)

theorem Inv.vbind {fuel quad g done} (h : Inv s) : Inv (vbind fuel quad g done s) := by
  induction fuel generalizing quad g done s with
  | zero => exact h
  | succ n ih =>
    unfold Machine.vbind
    refine .ite h (.ite (ih h) ?_)
    split
    · exact h
    · split
      · exact h
      · exact ih h.modQuad.modCore

theorem Inv.execVectorLand (h : Inv s) : InOut (execVectorLand s) := h.modCore.foldl fun _ _ h => h.modThr

/-! ### The functions of Machine/Dispatch -/

/-- What an instruction or a device step does keeps the invariant. An arm says which operation it is where the unifier needs it. -/
theorem Inv.exec {i} (h : Inv s) : InOut (Machine.exec i s) := by
  cases i with
  | nop => exact h.execNop
  | texit => exact h.execTexit
  | yield => exact h.execYield
  | trap => exact h.execTrap
  | tret => exact h.execTret
  | fenceI => exact h.execFenceI
  | waitmsg => exact h.execWaitmsg
  | ssync | bar => exact h.barrier
  | setpri => exact h.execSetpri
  | sleepuntil => exact h.execSleepuntil
  | hjoin => exact h.execHjoin
  | chunk => exact h.execChunk
  | tlbinv => exact h.execTlbinv
  | pgate => exact h.execPgate
  | cycle => exact h.execCycle
  | mbxpop => exact h.execMbxpop
  | beq a b o => exact (h.branch : InOut (execBeq a b o s))
  | bne a b o => exact (h.branch : InOut (execBne a b o s))
  | blt a b o => exact (h.branch : InOut (execBlt a b o s))
  | bge a b o => exact (h.branch : InOut (execBge a b o s))
  | bltu a b o => exact (h.branch : InOut (execBltu a b o s))
  | bgeu a b o => exact (h.branch : InOut (execBgeu a b o s))
  | jal => exact h.execJal
  | jalr => exact h.execJalr
  | ldrB | ldrH | ldrW | ldrD | ldrBu | ldrHu | ldrWu => exact h.ldr
  | strB | strH | strW | strD => exact h.str
  | hstart => exact h.execHstart
  | ldaW | ldaD => exact h.ldaOp
  | stlW | stlD => exact h.stlOp
  | stmcW | stmcD => exact h.stmcOp
  | fence => exact h.execFence
  | ldb d a im => exact (h.ldOp h.eaImm : InOut (execLdb d a im s))
  | ldh d a im => exact (h.ldOp h.eaImm : InOut (execLdh d a im s))
  | ldw d a im => exact (h.ldOp h.eaImm : InOut (execLdw d a im s))
  | ldd d a im => exact (h.ldOp h.eaImm : InOut (execLdd d a im s))
  | ldbu d a im => exact (h.ldOp h.eaImm : InOut (execLdbu d a im s))
  | ldhu d a im => exact (h.ldOp h.eaImm : InOut (execLdhu d a im s))
  | ldwu d a im => exact (h.ldOp h.eaImm : InOut (execLdwu d a im s))
  | vld d a im => exact (h.ldOp h.eaImm : InOut (execVld d a im s))
  | stb sg a im => exact (h.stOp h.eaImm : InOut (execStb sg a im s))
  | sth sg a im => exact (h.stOp h.eaImm : InOut (execSth sg a im s))
  | stw sg a im => exact (h.stOp h.eaImm : InOut (execStw sg a im s))
  | std sg a im => exact (h.stOp h.eaImm : InOut (execStd sg a im s))
  | vst sg a im => exact (h.stSeg h.eaImm : InOut (execVst sg a im s))
  | ldxB d a b k => exact (h.ldOp h.eaIdx : InOut (execLdxB d a b k s))
  | ldxH d a b k => exact (h.ldOp h.eaIdx : InOut (execLdxH d a b k s))
  | ldxW d a b k => exact (h.ldOp h.eaIdx : InOut (execLdxW d a b k s))
  | ldxD d a b k => exact (h.ldOp h.eaIdx : InOut (execLdxD d a b k s))
  | ldxBu d a b k => exact (h.ldOp h.eaIdx : InOut (execLdxBu d a b k s))
  | ldxHu d a b k => exact (h.ldOp h.eaIdx : InOut (execLdxHu d a b k s))
  | ldxWu d a b k => exact (h.ldOp h.eaIdx : InOut (execLdxWu d a b k s))
  | ldxV d a b k => exact (h.ldOp h.eaIdx : InOut (execLdxV d a b k s))
  | stxB d a b k => exact (h.stOp h.eaIdx : InOut (execStxB d a b k s))
  | stxH d a b k => exact (h.stOp h.eaIdx : InOut (execStxH d a b k s))
  | stxW d a b k => exact (h.stOp h.eaIdx : InOut (execStxW d a b k s))
  | stxD d a b k => exact (h.stOp h.eaIdx : InOut (execStxD d a b k s))
  | stxV d a b k => exact (h.stSeg h.eaIdx : InOut (execStxV d a b k s))
  | atomwAdd | atomwSwap | atomwCas | atomwAnd | atomwOr | atomwXor | atomwMin | atomwMax | atomwMinu | atomwMaxu | atomdAdd
  | atomdSwap | atomdCas | atomdAnd | atomdOr | atomdXor | atomdMin | atomdMax | atomdMinu | atomdMaxu => exact h.atomOp
  | qpush => exact h.execQpush
  | qpop => exact h.execQpop
  | qcntHeld | qcntFree => exact h.qcnt
  | sendH | sendHe => exact h.sendHead
  | sendP | sendPe => exact h.sendFlit
  | recv d a sg => exact (h.receive : InOut (execRecv d a sg s))
  | recvDl d a b sg => exact (h.receive : InOut (execRecvDl d a b sg s))
  | xcopy | xgather | xscatter | xreduce | skadd => exact h.engineIssue
  | sbind => exact h.execSbind
  | sunbind => exact h.execSunbind
  | tbinit => exact h.execTbinit
  | tbwait => exact h.execTbwait
  | skdef => exact h.execSkdef
  | skupd => exact h.execSkupd
  | skupdv => exact h.execSkupdv
  | skqry => exact h.execSkqry
  | skscl => exact h.execSkscl
  | skclr => exact h.execSkclr
  | skstat => exact h.execSkstat
  | gdef => exact h.execGdef
  | gdel => exact h.execGdel
  | apply | applyq => exact h.applyNest
  | nwait => exact h.execNwait
  | nabort => exact h.execNabort
  | cyield => exact h.execCyield
  | cresume => exact h.execCresume
  | csrr => exact h.execCsrr
  | csrw d a n => exact (h.csrOp : InOut (execCsrw d a n s))
  | csrs d a n => exact (h.csrOp : InOut (execCsrs d a n s))
  | csrc d a n => exact (h.csrOp : InOut (execCsrc d a n s))
  | launch b => exact (h.launchWord : InOut (execLaunch b s))
  | launchq d b => exact (h.launchWord : InOut (execLaunchq d b s))
  | signal => exact h.execSignal
  | nbcmd => exact h.execNbcmd
  | nhsend => exact h.execNhsend
  | add d a b => exact (h.op2 : InOut (execAdd d a b s))
  | sub d a b => exact (h.op2 : InOut (execSub d a b s))
  | and d a b => exact (h.op2 : InOut (execAnd d a b s))
  | or d a b => exact (h.op2 : InOut (execOr d a b s))
  | xor d a b => exact (h.op2 : InOut (execXor d a b s))
  | andn d a b => exact (h.op2 : InOut (execAndn d a b s))
  | shl d a b => exact (h.op2 : InOut (execShl d a b s))
  | shr d a b => exact (h.op2 : InOut (execShr d a b s))
  | sar d a b => exact (h.op2 : InOut (execSar d a b s))
  | rol d a b => exact (h.op2 : InOut (execRol d a b s))
  | ror d a b => exact (h.op2 : InOut (execRor d a b s))
  | min d a b => exact (h.op2 : InOut (execMin d a b s))
  | max d a b => exact (h.op2 : InOut (execMax d a b s))
  | minu d a b => exact (h.op2 : InOut (execMinu d a b s))
  | maxu d a b => exact (h.op2 : InOut (execMaxu d a b s))
  | slt d a b => exact (h.op2 : InOut (execSlt d a b s))
  | sltu d a b => exact (h.op2 : InOut (execSltu d a b s))
  | seq d a b => exact (h.op2 : InOut (execSeq d a b s))
  | sne d a b => exact (h.op2 : InOut (execSne d a b s))
  | cmovz d a b => exact (h.op2 : InOut (execCmovz d a b s))
  | cmovnz d a b => exact (h.op2 : InOut (execCmovnz d a b s))
  | addw d a b => exact (h.op2 : InOut (execAddw d a b s))
  | subw d a b => exact (h.op2 : InOut (execSubw d a b s))
  | shlw d a b => exact (h.op2 : InOut (execShlw d a b s))
  | shrw d a b => exact (h.op2 : InOut (execShrw d a b s))
  | sarw d a b => exact (h.op2 : InOut (execSarw d a b s))
  | mul d a b => exact (h.op2 : InOut (execMul d a b s))
  | mulh d a b => exact (h.op2 : InOut (execMulh d a b s))
  | mulhu d a b => exact (h.op2 : InOut (execMulhu d a b s))
  | mulw d a b => exact (h.op2 : InOut (execMulw d a b s))
  | div d a b => exact (h.op2 : InOut (execDiv d a b s))
  | divu d a b => exact (h.op2 : InOut (execDivu d a b s))
  | rem d a b => exact (h.op2 : InOut (execRem d a b s))
  | remu d a b => exact (h.op2 : InOut (execRemu d a b s))
  | clz d a => exact (h.op1 : InOut (execClz d a s))
  | ctz d a => exact (h.op1 : InOut (execCtz d a s))
  | popc d a => exact (h.op1 : InOut (execPopc d a s))
  | brev d a => exact (h.op1 : InOut (execBrev d a s))
  | bswap d a => exact (h.op1 : InOut (execBswap d a s))
  | exts d a n p => exact (h.op1 : InOut (execExts d a n p s))
  | extz d a n p => exact (h.op1 : InOut (execExtz d a n p s))
  | ins d a n p => exact (h.opD : InOut (execIns d a n p s))
  | addi d a im => exact (h.op1 : InOut (execAddi d a im s))
  | andi d a im => exact (h.op1 : InOut (execAndi d a im s))
  | ori d a im => exact (h.op1 : InOut (execOri d a im s))
  | xori d a im => exact (h.op1 : InOut (execXori d a im s))
  | slti d a im => exact (h.op1 : InOut (execSlti d a im s))
  | sltiu d a im => exact (h.op1 : InOut (execSltiu d a im s))
  | shli d a m => exact (h.op1 : InOut (execShli d a m s))
  | shri d a m => exact (h.op1 : InOut (execShri d a m s))
  | sari d a m => exact (h.op1 : InOut (execSari d a m s))
  | rori d a m => exact (h.op1 : InOut (execRori d a m s))
  | lui | auipc => exact h.op0
  | fadd d a b p r => exact (h.fp2 : InOut (execFadd d a b p r s))
  | fsub d a b p r => exact (h.fp2 : InOut (execFsub d a b p r s))
  | fmul d a b p r => exact (h.fp2 : InOut (execFmul d a b p r s))
  | fdiv d a b p r => exact (h.fp2 : InOut (execFdiv d a b p r s))
  | fsqrt d a p r => exact (h.fp1 : InOut (execFsqrt d a p r s))
  | fmin d a b p => exact (h.fp2 : InOut (execFmin d a b p s))
  | fmax d a b p => exact (h.fp2 : InOut (execFmax d a b p s))
  | feq d a b p => exact (h.fp2 : InOut (execFeq d a b p s))
  | flt d a b p => exact (h.fp2 : InOut (execFlt d a b p s))
  | fle d a b p => exact (h.fp2 : InOut (execFle d a b p s))
  | fclass d a p => exact (h.fp1 : InOut (execFclass d a p s))
  | fsgnj d a b p => exact (h.fp2 : InOut (execFsgnj d a b p s))
  | fsgnjn d a b p => exact (h.fp2 : InOut (execFsgnjn d a b p s))
  | fsgnjx d a b p => exact (h.fp2 : InOut (execFsgnjx d a b p s))
  | ffma | ffms => exact h.fp3
  | fcvt d a sg t r => exact (h.fp1 : InOut (execFcvt d a sg t r s))
  | vadd | vsub | vmul | vmax | vmin | vfma | vfms | vand | vor | vxor | vshl | vshr | vsar | vscale => exact h.vlanes
  | vabs | vneg | vmov | vexp2 | vlog2 | vrcp | vrsq => exact h.vlanes1
  | vcmpEq | vcmpLt | vcmpLe | vredSum | vredMax | vredMin | vext | vdot => exact h.vscalar
  | vsel => exact h.execVsel
  | vcvt => exact h.execVcvt
  | vquantMx | vquantGq => exact h.vquant
  | vperm => exact h.execVperm
  | vbcast => exact h.execVbcast
  | vins => exact h.execVins
  | reset => exact h.execReset
  | firmwareImage => exact h.execFirmwareImage
  | spdmRequest => exact h.modPkg
  | functionReady => exact h.execFunctionReady
  | functionRetire => exact h.execFunctionRetire
  | hostAccess => exact h.execHostAccess
  | ctlMakeThread => exact (h.ctlEvent : InOut (execCtlMakeThread s))
  | ctlStart => exact (h.ctlEvent : InOut (execCtlStart s))
  | ctlStop => exact (h.ctlEvent : InOut (execCtlStop s))
  | ctlResume => exact (h.ctlEvent : InOut (execCtlResume s))
  | ctlMakeData => exact (h.ctlEvent : InOut (execCtlMakeData s))
  | ctlFieldWrite => exact (h.ctlEvent : InOut (execCtlFieldWrite s))
  | ctlRedirect => exact h.execCtlRedirect
  | controlRequest | outsideAccess => exact h.atBoundary
  | rowOpen => exact h.execRowOpen
  | openComplete => exact h.execOpenComplete
  | closeWriteback => exact h.execCloseWriteback
  | turnEnd => exact h.execTurnEnd
  | priorityRise => exact h.execPriorityRise
  | openlimClose => exact h.execOpenlimClose
  | openlimWrite | turnlenWrite | hpoolWrite => exact h.coreRegWrite
  | chunkCommit => exact h.execChunkCommit
  | commitGrant => exact h.execCommitGrant
  | outboundDrain => exact h.execOutboundDrain
  | loadPerform => exact h.performLoad
  | vectorBind => exact h.vbind
  | vectorLand => exact h.execVectorLand
  | packetEntry => exact h.execPacketEntry
  | packetTimeout => exact h.execPacketTimeout
  | barrierWordWrite => exact h.execBarrierWordWrite
  | deadlineWake => exact h.execDeadlineWake
  | stalemateInterval => exact h.execStalemateInterval
  | fqtailAdvance => exact h.execFqtailAdvance
  | rowHold => exact h.execRowHold
  | eccScrub => exact h.execEccScrub
  | tlbWalk => exact h.execTlbWalk
  | faultIn => exact h.execFaultIn
  | cowService => exact h.execCowService
  | barReentry => exact h.execBarReentry
  | migrationStart => exact h.execMigrationStart
  | migrationLineCopy => exact h.migStep
  | linePull => exact h.execLinePull
  | commandStart => exact h.execCommandStart
  | engineBeat => exact h.engineStep
  | commandComplete => exact h.execCommandComplete
  | copy | pageshare | pagedrop | pagemove | xreduceSum | xreduceMax | xreduceMin | sksum => exact h.runKind
  | streamRefill => exact h.execStreamRefill
  | mfmt => exact h.execMfmt
  | mzero => exact h.execMzero
  | mma | mmaKblock => exact h.mmaRun
  | mout => exact h.execMout
  | mbias => exact h.execMbias
  | msignal => exact h.execMsignal
  | sketchCounterOp => exact h.execSketchCounterOp
  | skqryResult => exact h.execSkqryResult
  | launchInstall => exact h.execLaunchInstall
  | signalDelivery => exact h.execSignalDelivery
  | nodeDispatch => exact h.execNodeDispatch
  | teamPlacement => exact h.execTeamPlacement
  | teamEnd => exact h.execTeamEnd
  | castling => exact h.execCastling
  | castleRestore => exact h.execCastleRestore
  | strideChoice => exact h.execStrideChoice
  | switchForced => exact h.execSwitchForced
  | switchExchange => exact h.execSwitchExchange
  | gangTick => exact h.execGangTick
  | gangSpill => exact h.execGangSpill
  | gangDieLoad => exact h.execGangDieLoad
  | gangLate => exact h.execGangLate
  | gangForcedStop => exact h.execGangForcedStop
  | gangmaskWrite => exact h.execGangmaskWrite
  | ticketsWrite => exact h.execTicketsWrite
  | leafEnd => exact h.execLeafEnd
  | quadGated => exact h.execQuadGated
  | quadWakeDone => exact h.execQuadWakeDone
  | powerCompare => exact h.execPowerCompare
  | pwrcapWrite => exact h.execPwrcapWrite
  | elevatorRetire => exact h.retireElevator
  | packetRetry => exact h.execPacketRetry
  | wavelengthDrop => exact h.execWavelengthDrop
  | flitRetry => exact h.execFlitRetry
  | routeWrite => exact h.execRouteWrite
  | hfrRecord => exact h.execHfrRecord
  | hfrrespServiced => exact h.execHfrrespServiced
  | hfrrespFailed => exact h.execHfrrespFailed
  | octownReassign => exact h.execOctownReassign
  | scrubDone => exact h.execScrubDone
  | tenminWrite => exact h.execTenminWrite
  | fnmodeWrite => exact h.execFnmodeWrite
  | tlbcmdPage | tlbcmdTenant | tlbcmdIpa | tlbcmdAll => exact h.tlbKind
  | tlbcmdDone => exact h.execTlbcmdDone
  | nbmac | nbred | nbfill | nbcopy => exact h.nbStep
  | nhHandlerStart => exact h.execNhHandlerStart
  | registerWrite => exact h.execRegisterWrite
  | undecodableWord => exact h.execUndecodableWord
  | fetchFault => exact h.execFetchFault
  | fabricRequest => exact h.execFabricRequest

/-! ### The functions of Machine/Policy -/

theorem Inv.attempt {rid} (h : Inv s) : InOut (s.attempt rid) := by
  unfold State.attempt
  split
  next e => exact h.prep.idle_eq e
  next i t e =>
    have hi := (h.prep.one_eq e).exec (i := i)
    split
    next e => exact (hi.next_eq e).finishOne
    · exact hi
  next i j t e =>
    have ht := h.prep.two_eq e
    have hi := ht.exec (i := i)
    split
    next u e =>
      have hu := hi.next_eq e
      have hj := hu.second.exec (i := j)
      split
      · split
        next e => exact ht.finishTwo (hj.next_eq e)
        · exact hj
      · split
        next e => exact ht.finishTwo (hj.next_eq e)
        · exact hj
      · exact hu
    · exact hi

theorem Inv.issueStep {rid} (h : Inv s) : InOut (s.issueStep rid) := .ite h h.attempt

theorem Inv.outside {pa bs} (h : Inv s) : Inv (s.outside pa bs) := by
  unfold State.outside
  split
  · exact h.poke
  · exact h.poke
  · exact h

theorem Inv.upsetWord {pa} (h : Inv s) : Inv (s.upsetWord pa) := by
  unfold State.upsetWord
  split
  · exact h.same
  · exact h.same
  · exact h.same
  · exact h.same
  · exact h.same
  · exact h

theorem Inv.perform {a} (h : Inv s) : InOut (s.perform a) := by
  cases a with
  | issue core row => exact h.issueStep
  | event i sel => exact .ite h.same.exec h
  | pass n => exact h.same
  | outside pa bs => exact h.outside
  | upset pa => exact h.upsetWord
  | cxlFrame ten f => exact h.modTen

theorem Inv.tryActions {actions} (h : Inv s) : InOut (s.tryActions actions) := by
  induction actions generalizing s with
  | nil => exact h.same
  | cons x l ih =>
    unfold State.tryActions
    split
    next e => exact .ite (ih h) (h.perform.next_eq e)
    · exact h.perform

theorem Inv.advance (h : Inv s) : InOut s.advance := by
  unfold State.advance
  split
  · exact h.same.perform
  · exact h.tryActions

/-! ### The functions of Machine/Step -/

theorem Inv.step (h : Inv s) : InOut (step s) := h.advance

end

/-! ## The obligations -/

/-- Settles O5: `Memory.wf_reset` says it of the bytes that reset leaves. -/
theorem invAtReset : Obligations.InvAtReset := by
  unfold Obligations.InvAtReset Inv
  exact Memory.wf_reset

/-- Settles O6: `Inv.step`, the lemma of the last of the functions above, read at a step that is taken. -/
theorem stepKeepsMemoryCanonical : Obligations.StepKeepsMemoryCanonical := by
  unfold Obligations.StepKeepsMemoryCanonical
  intro s t h e
  exact h.step.next_eq e

end Sys2Proof.Safety
end

/-! # Rows: what words, device steps and stores to registers do to a row and its control entry -/

section
namespace Sys2Proof.Says
open Sys2Proof.Machine

/-! ## A word that completes

The statements compare a completed word with the state that its sources leave. Between the two the model changes the scratch of the step
(issue cycles, the mark of an ending bundle), puts a result and retires the word; one lemma for each of these gives the predicates of the statements. -/

variable {s t : State} {rid : Nat} {d : BitVec 5} {v : W} {f : Cur → Cur}

/-- A change of the step's scratch that keeps the word's place. -/
structure KeepsPlace (f : Cur → Cur) (c : Cur) : Prop where
  slot : (f c).slot = c.slot
  pc : (f c).pc = c.pc
  jump : (f c).jump = c.jump

theorem KeepsPlace.cost (n : Nat) (c : Cur) : KeepsPlace (fun c => { c with cost := max c.cost n }) c := ⟨rfl, rfl, rfl⟩
theorem KeepsPlace.ending (c : Cur) : KeepsPlace (fun c => { c with ending := true }) c := ⟨rfl, rfl, rfl⟩

theorem Elsewhere.of_modCur (h : Elsewhere (s.modCur f) t) : Elsewhere s t :=
  ⟨h.cycle, h.core, h.quad, h.oct, h.clu, h.ten, h.pkg, h.nodes, h.teams, h.bdc, h.banks, h.pip, h.uncorr, h.sel, h.schedule, h.seq⟩

theorem OnlyPc.of_modCur (h : OnlyPc (s.modCur f) t rid) : OnlyPc s t rid := ⟨h.others, h.own⟩

theorem Moves.of_modCur (k : KeepsPlace f s.cur) (h : Moves (s.modCur f) t rid) : Moves s t rid := by
  have e : (s.modCur f).cur = f s.cur := rfl
  unfold Moves at *
  rwa [e, k.slot, k.pc, k.jump] at h

theorem RegisterFrame.of_modCur (h : RegisterFrame (s.modCur f) t rid d) : RegisterFrame s t rid d :=
  ⟨h.rest.of_modCur, h.ctl.of_modCur, h.thr, h.own, h.mem⟩

theorem Produced.of_modCur (h : Produced (s.modCur f) t rid d v) : Produced s t rid d v := ⟨h.reg, h.d1, h.d2, h.d3, h.d4⟩

theorem Wrote.of_modCur (h : Wrote (s.modCur f) t rid d v) : Wrote s t rid d v :=
  ⟨h.completed, h.result.of_modCur, h.frame.of_modCur⟩

theorem Writes.of_modCur (k : KeepsPlace f s.cur) (h : Writes (s.modCur f) t rid d v) : Writes s t rid d v :=
  ⟨h.toWrote.of_modCur, h.pc.of_modCur k⟩

theorem Passes.of_modCur (h : Passes (s.modCur f) t rid) : Passes s t rid :=
  ⟨h.completed, h.rest.of_modCur, h.ctl.of_modCur, h.thr, h.mem⟩

/-! ### Completion -/

theorem elsewhere_retire (h : Elsewhere s t) : Elsewhere s t.retire := by
  constructor <;> simp only [State.retire_cycle, State.retire_core, State.retire_quad, State.retire_oct, State.retire_clu, State.retire_ten,
    State.retire_pkg, State.retire_nodes, State.retire_teams, State.retire_bdc, State.retire_banks, State.retire_pip, State.retire_uncorr,
    State.retire_sel, State.retire_schedule, State.retire_seq]
  exacts [h.cycle, h.core, h.quad, h.oct, h.clu, h.ten, h.pkg, h.nodes, h.teams, h.bdc, h.banks, h.pip, h.uncorr, h.sel, h.schedule, h.seq]

/-- A word that has left the control entries alone moves its row's program counter when it retires. -/
theorem onlyPc_retire (hctl : ∀ r, t.ctlOf r = s.ctlOf r) (hme : t.me = rid) : OnlyPc s t.retire rid := by
  constructor
  · intro r hr
    rw [State.retire_ctlOf, if_neg (by rintro ⟨h, -⟩; exact hr (h.symm.trans hme)), hctl]
  · rw [State.retire_ctlOf]
    split
    · rw [hme, hctl]
    · rw [hctl]

/-- Where the program counter stands after a word that keeps its place. -/
theorem moves_retire (hctl : t.ctlOf rid = s.ctlOf rid) (hme : t.me = rid) (hs : t.cur.slot = s.cur.slot) (hp : t.cur.pc = s.cur.pc)
    (hj : t.cur.jump = s.cur.jump) : Moves s t.retire rid := by
  unfold Moves
  rw [State.retire_ctlOf, ← hs, ← hp, ← hj, ← hctl]
  cases h : t.cur.slot <;> simp [hme, Cur.next, h]

/-- A word that jumps, outside word 1 of a PAIR, leaves the program counter at its target. -/
theorem goesTo_retire {x : W} (hme : t.me = rid) (hs : t.cur.slot = s.cur.slot) (hj : t.cur.jump = some (pcOf x)) : GoesTo s t.retire rid x := by
  intro hslot
  rw [State.retire_ctlOf, if_pos ⟨hme, by rwa [hs]⟩, hj]
  rfl

theorem elsewhere_refl (s : State) : Elsewhere s s := by constructor <;> rfl

/-- A word that changes nothing but the scratch of its step. -/
theorem passes_retire (s : State) : Passes s s.retire s.me :=
  ⟨s.retire_ended, elsewhere_retire (elsewhere_refl s), onlyPc_retire (fun _ => rfl) rfl, fun r => s.retire_at_thrOf r, s.retire_mem⟩

theorem moves_retire_self (s : State) : Moves s s.retire s.me := moves_retire rfl rfl rfl rfl rfl

/-! ### Results -/

theorem elsewhere_put (s : State) (d : Nat) (v : W) : Elsewhere s (s.put d v) := by constructor <;> simp

theorem produced_put (s : State) (h : d.toNat < 28) (v : W) : Produced s (s.put d.toNat v) s.me d v := by
  constructor
  · intro hd
    have : d.toNat ≠ 0 := fun h => hd (BitVec.eq_of_toNat_eq h)
    rw [State.put_greg _ _ _ _ h, if_neg (by omega), if_neg (by omega), if_pos ⟨rfl, this⟩]
  all_goals rw [State.put_greg _ _ _ _ h]; simp

theorem produced_retire (h : Produced s t rid d v) : Produced s t.retire rid d v := by
  constructor <;> simp only [State.retire_greg]
  exacts [h.reg, h.d1, h.d2, h.d3, h.d4]

/-- The frame of a result that is put and retired. -/
theorem registerFrame_put_retire (s : State) (d : BitVec 5) (v : W) : RegisterFrame s (s.put d.toNat v).retire s.me d where
  rest := elsewhere_retire (elsewhere_put s _ v)
  ctl := onlyPc_retire (fun r => s.put_at_ctlOf _ v r) (s.put_me _ v)
  thr r hr := by rw [State.retire_at_thrOf, State.put_thrOf, if_neg (Ne.symm hr)]
  own := by rw [State.retire_at_thrOf, State.put_thrOf, if_pos rfl]
  mem a h1 h2 := by
    rw [State.retire_mem]
    refine State.put_mget s _ v a ?_ h2
    exact h1.imp_left fun h => by rw [h]; rfl

/-- A word whose one effect is a result at an open destination. -/
theorem writes_put_retire (h : s.dstOpen d.toNat = true) (v : W) : Writes s (s.put d.toNat v).retire s.me d v where
  completed := State.retire_ended _
  result := produced_retire (produced_put s ((State.dstOpen_iff _ _).1 h).1 v)
  frame := registerFrame_put_retire s d v
  pc := moves_retire (s.put_at_ctlOf _ v _) (s.put_me _ v) (by simp) (by simp) (by simp)

theorem dstOpen_modCur (k : KeepsPlace f s.cur) (hr : (f s.cur).rid = s.cur.rid) (hv : (f s.cur).view = s.cur.view) (n : Nat) :
    (s.modCur f).dstOpen n = s.dstOpen n := by
  simp [State.dstOpen, State.seenBound, State.seen, State.modCur, k.slot, hr, hv, State.rowGet]

theorem dstOpen_spend (s : State) (c n : Nat) : (s.spend c).dstOpen n = s.dstOpen n := dstOpen_modCur (.cost c _) rfl rfl n

/-- The same with issue cycles. -/
theorem writes_spend_put_retire (c : Nat) (h : s.dstOpen d.toNat = true) (v : W) : Writes s ((s.spend c).put d.toNat v).retire s.me d v :=
  (writes_put_retire (s := s.spend c) (by rwa [dstOpen_spend]) v).of_modCur (.cost c _)

end Sys2Proof.Says
end

section
namespace Sys2Proof.Says
open Sys2Proof.Machine

/-! ## Register words (04_scalar.md R82 to R88) -/

/-! ### The form of each word of the tables -/

/-- A word of two sources, of one source with or without a further field: its meaning is the form of the model, with some cost and some function. -/
def IsOp2 (i : BitVec 5 → BitVec 5 → BitVec 5 → Instr) : Prop := ∃ c f, ∀ d a b s, exec (i d a b) s = s.op2 d a b c f
def IsOp1 (i : BitVec 5 → BitVec 5 → Instr) : Prop := ∃ c f, ∀ d a s, exec (i d a) s = s.op1 d a c f

/-- `exec` gives the word the function `g`, which is a form of the model. -/
theorem IsOp2.of {i : BitVec 5 → BitVec 5 → BitVec 5 → Instr} (g : BitVec 5 → BitVec 5 → BitVec 5 → State → Out)
    (h : ∀ d a b s, exec (i d a b) s = g d a b s := by exact fun _ _ _ _ => rfl)
    (hg : ∃ c f, g = fun d a b s => s.op2 d a b c f := by exact ⟨_, _, rfl⟩) : IsOp2 i := by
  obtain ⟨c, f, rfl⟩ := hg
  exact ⟨c, f, h⟩

theorem IsOp1.of {i : BitVec 5 → BitVec 5 → Instr} (g : BitVec 5 → BitVec 5 → State → Out)
    (h : ∀ d a s, exec (i d a) s = g d a s := by exact fun _ _ _ => rfl)
    (hg : ∃ c f, g = fun d a s => s.op1 d a c f := by exact ⟨_, _, rfl⟩) : IsOp1 i := by
  obtain ⟨c, f, rfl⟩ := hg
  exact ⟨c, f, h⟩

theorem isOp2_of_mem_alu : ∀ e ∈ aluTable ++ mulDivTable, IsOp2 e.1 := by
  simp only [aluTable, mulDivTable, List.cons_append, List.nil_append, List.forall_mem_cons]
  exact ⟨.of execAdd, .of execSub, .of execAnd, .of execOr, .of execXor, .of execAndn, .of execShl, .of execShr, .of execSar, .of execRol,
    .of execRor, .of execMin, .of execMax, .of execMinu, .of execMaxu, .of execSlt, .of execSltu, .of execSeq, .of execSne, .of execCmovz,
    .of execCmovnz, .of execAddw, .of execSubw, .of execShlw, .of execShrw, .of execSarw, .of execMul, .of execMulh, .of execMulhu,
    .of execMulw, .of execDiv, .of execDivu, .of execRem, .of execRemu, by simp⟩

theorem isOp1_of_mem_bits : ∀ e ∈ bitsTable, IsOp1 e.1 := by
  simp only [bitsTable, List.forall_mem_cons]
  exact ⟨.of execClz, .of execCtz, .of execPopc, .of execBrev, .of execBswap, by simp⟩

theorem isOp1_of_mem_imm (i : BitVec 14) : ∀ e ∈ immTable, IsOp1 fun d a => e.1 d a i := by
  simp only [immTable, List.forall_mem_cons]
  exact ⟨.of (execAddi · · i), .of (execAndi · · i), .of (execOri · · i), .of (execXori · · i), .of (execSlti · · i),
    .of (execSltiu · · i), by simp⟩

theorem isOp1_of_mem_shift (m : BitVec 6) : ∀ e ∈ shiftTable, IsOp1 fun d a => e.1 d a m := by
  simp only [shiftTable, List.forall_mem_cons]
  exact ⟨.of (execShli · · m), .of (execShri · · m), .of (execSari · · m), .of (execRori · · m), by simp⟩

/-! ### What each form writes -/

variable {s s1 s2 t : State} {d a b : BitVec 5} {x y : W} {c : Nat}

theorem writes_op0 (h : s.dstOpen d.toNat = true) {v : W} (e : s.op0 d v = .next t) : Writes s t s.me d v := by
  simp only [State.op0, State.dst_open _ _ _ h, State.runWord] at e
  cases e
  exact writes_put_retire h v

theorem writes_op1 {f : W → W} (ha : s.src a.toNat = .ok (x, s1)) (h : s1.dstOpen d.toNat = true) (e : s.op1 d a c f = .next t) :
    Writes s1 t s.me d (f x) := by
  simp only [State.op1, ha, bind, Except.bind, State.dst_open _ _ _ ((dstOpen_spend s1 c _).trans h), State.runWord] at e
  cases e
  rw [← State.src_me _ _ _ _ ha]
  exact writes_spend_put_retire c h _

theorem writes_op2 {f : W → W → W} (ha : s.src a.toNat = .ok (x, s1)) (hb : s1.src b.toNat = .ok (y, s2)) (h : s2.dstOpen d.toNat = true)
    (e : s.op2 d a b c f = .next t) : Writes s2 t s.me d (f x y) := by
  simp only [State.op2, ha, hb, bind, Except.bind, State.dst_open _ _ _ ((dstOpen_spend s2 c _).trans h), State.runWord] at e
  cases e
  rw [← State.src_me _ _ _ _ ha, ← State.src_me _ _ _ _ hb]
  exact writes_spend_put_retire c h _

/-- A word whose destination is its second source too is the word of two sources with that register named twice. -/
theorem opD_eq_op2 (s : State) (d a : BitVec 5) (c : Nat) (f : W → W → W) : s.opD d a c f = s.op2 d a d c f := rfl

/-- Settles O16: each word is one of the model's forms (`isOp2_of_mem_alu` and its like), and a form writes its result and nothing else
(`writes_op0`, `writes_op1`, `writes_op2`). -/
theorem registerWordsFrame : Obligations.RegisterWordsFrame := by
  unfold Obligations.RegisterWordsFrame
  intro s s1 s2 t d a b x y n p m i u ha hb h
  refine ⟨fun q hq e => ?_, fun q hq e h1 => ?_, fun q hq e h1 => ?_, fun q hq e h1 => ?_, fun e h1 => ?_, fun e h1 => ?_, fun hbd e => ?_,
    fun e h0 => ?_, fun e h0 => ?_⟩
  · obtain ⟨c, f, hf⟩ := isOp2_of_mem_alu q hq
    exact (writes_op2 ha hb h ((hf d a b s).symm.trans e)).frame
  · obtain ⟨c, f, hf⟩ := isOp1_of_mem_bits q hq
    exact (writes_op1 ha h1 ((hf d a s).symm.trans e)).frame
  · obtain ⟨c, f, hf⟩ := isOp1_of_mem_imm i q hq
    exact (writes_op1 ha h1 ((hf d a s).symm.trans e)).frame
  · obtain ⟨c, f, hf⟩ := isOp1_of_mem_shift m q hq
    exact (writes_op1 ha h1 ((hf d a s).symm.trans e)).frame
  · exact (writes_op1 (c := 1) (f := fun x => extractS x n p) ha h1 e).frame
  · exact (writes_op1 (c := 1) (f := fun x => extractZ x n p) ha h1 e).frame
  · subst hbd
    exact (writes_op2 (c := 1) (f := fun x y => insertField x y n p) ha hb h e).frame
  · exact (writes_op0 h0 (v := upper u) e).frame
  · exact (writes_op0 h0 (v := s.pcW + upper u) e).frame

end Sys2Proof.Says
end

section
namespace Sys2Proof.Machine

/-! ## Reset (01_machine.md R12) -/

/-- A table of which the indices that pass a test are kept. -/
theorem tget_filter_index {α : Type} (d : α) (p : Nat → Bool) (i : Nat) : ∀ t : Tab α,
    tget d (t.filter fun e => p e.1) i = if p i then tget d t i else d
  | [] => by simp
  | (k, v) :: t => by
    have ih := tget_filter_index d p i t
    by_cases hk : k = i
    · subst hk
      by_cases hp : p k = true <;> simp [tget, hp, ih]
    · by_cases hp : p k = true <;> simp [tget, hp, hk, ih]

theorem mget_filter_index (m : Mem) (p : Nat → Bool) (a : Nat) : mget (m.filter fun e => p e.1) a = if p a then mget m a else unlisted :=
  tget_filter_index unlisted p a m

end Sys2Proof.Machine

namespace Sys2Proof.Says
open Sys2Proof.Machine

theorem word0_default : ({} : Ctl).word0 = 0 := by decide
theorem word1_default : ({} : Ctl).word1 = 0 := by decide

/-- Every table of the reset state lists nothing, so that each index holds the default of its record. -/
theorem resetState : ResetState :=
  ⟨rfl, fun _ => ⟨rfl, word0_default, word1_default⟩, fun _ => ⟨rfl, rfl, rfl, rfl, rfl, rfl, rfl, fun _ => rfl, rfl, rfl, rfl⟩,
    fun _ => ⟨rfl, rfl, fun _ => rfl, fun _ => rfl⟩, fun _ => ⟨rfl, rfl, rfl, rfl⟩, fun _ => ⟨rfl, rfl⟩, fun _ => rfl,
    rfl, rfl, rfl, rfl, rfl, rfl, rfl⟩

/-- RESET keeps the bytes outside the package, and every other byte reads as at reset. -/
theorem execReset_restores : Says.ResetRestores :=
  fun s => ⟨_, rfl, rfl, rfl, rfl, fun a => mget_filter_index s.mem outsidePkg a, rfl⟩

/-- Settles O4: `resetState` for the values after reset, `execReset_restores` for the step. -/
theorem resetRestores : Obligations.ResetRestores := ⟨resetState, execReset_restores⟩

end Sys2Proof.Says
end

section
namespace Sys2Proof.Says
open Sys2Proof.Machine

/-! ## Two statements that fail for states of a broken form

Both are right about the states that steps of the machine lead to. They speak of every state, though, and a state is plain data: it may let a row stand on two ports, or list a control entry twice. -/

/-- Row 0 of core 0 stands on two ports: port 0 still writes it back, until cycle 100, while it runs on port 1, where a `YIELD` has completed. -/
def twoPorts : State :=
  { core := [(0, { ports := [(0, some { row := 0, phase := .writeback, busy := 100 }), (1, some { row := 0, phase := .running, busy := 0 })] })]
    ctl := [(0, { state := .opened })]
    cur := { ended := .completed, ending := true, close := some .ready, slot := .serial1 } }

/-- The row is READY with the write-back of port 0, and not with that of the port that it closes on. -/
theorem readyAt_twoPorts : ((twoPorts.finishOne false).thrOf 0).readyAt = 99 := by decide

/-- Refutes O23, in its part on `YIELD`: for a row that stands on two ports (`twoPorts`) the end of the step takes the cycle from which it is READY from the write-back
of the first. No step of the machine opens an open row, so that no run meets such a state; the statement is about every state. -/
theorem not_threadControlAndHelpers : ¬ Obligations.ThreadControlAndHelpers := by
  unfold Obligations.ThreadControlAndHelpers
  rintro ⟨-, hyield, -, -⟩
  have h := (hyield twoPorts false 1 rfl rfl rfl rfl rfl rfl rfl rfl rfl rfl).1 rfl
  obtain ⟨-, -, -, -, hready, -, -⟩ := h
  exact absurd (readyAt_twoPorts.symm.trans hready) (by decide)

/-- Row 0 of core 0 is listed twice: as DORMANT, which is what its control entry reads as, and behind that as waiting for a reservation of queue 0, which holds an
item for it. -/
def listedTwice : State :=
  { ctl := [(0, { state := .dormant }), (0, { state := .blocked, wait := 1 })]
    core := [(0, { cs := { queues := [(0, { items := [{ value := 0, resv := some 0 }] })] } })] }

/-- A store to word 1 serves the queue, and the row that waits for it in the list becomes READY. -/
theorem state_redirect_listedTwice : ∃ t, exec .ctlRedirect listedTwice = .next t ∧ (t.ctlOf 0).state = .ready := ⟨_, rfl, by decide⟩

/-- Refutes O39, in its part on stores to word 1: for a row that the control table lists twice (`listedTwice`) such a store to a DORMANT row makes it READY.
Steps of the machine list a row once, so that no run meets such a state; the statement is about every state. -/
theorem not_controlStoresAndBoundaries : ¬ Obligations.ControlStoresAndBoundaries := by
  unfold Obligations.ControlStoresAndBoundaries
  rintro ⟨hstores, -⟩
  have hreach : StoreReaches listedTwice := ⟨by decide, by decide, by decide, by decide, by decide⟩
  obtain ⟨-, -, -, -, -, -, -, -, -, -, -, hredirect⟩ := hstores listedTwice hreach
  obtain ⟨t, e, -, hctl⟩ := hredirect (by decide) (by decide)
  obtain ⟨u, e', hready⟩ := state_redirect_listedTwice
  have hsame : t = u := by injection e.symm.trans e'
  rw [hsame] at hctl
  exact absurd (hready.symm.trans (congrArg Ctl.state hctl)) (by decide)

end Sys2Proof.Says
end

section
namespace Sys2Proof.Machine

/-! ## The service window (15_traps.md R273) -/

theorem regionOf_service {off : Nat} (h : off < 0x1000000000) : regionOf (0x1F000000000 + off) = .service off := by
  simp only [regionOf]
  rw [if_neg (by omega), if_neg (by omega), if_neg (by omega), if_neg (by omega), if_neg (by omega), if_neg (by omega), if_neg (by omega),
    if_neg (by omega), if_neg (by omega), if_neg (by omega), if_pos (by omega), Nat.add_sub_cancel_left]

theorem pkg_modPkg (s : State) (f : Package → Package) : (s.modPkg f).pkg = f s.pkg := rfl

/-! ### Registers of tenants by block and place -/

theorem tenReg_block1 {n i : Nat} (hn : n < 64) (hi : i < 4) : tenReg (0x1000 + 8 * i + 32 * n) = some (1, n, i) := by
  unfold tenReg
  rw [if_pos ⟨by omega, by omega⟩, show (0x1000 + 8 * i + 32 * n - 0x1000) / 32 = n by omega, show (0x1000 + 8 * i + 32 * n) % 32 / 8 = i by omega]

theorem tenReg_block3 {n i : Nat} (hn : n < 64) (hi : i < 8) : tenReg (0x3000 + 8 * i + 64 * n) = some (3, n, i) := by
  unfold tenReg
  rw [if_neg (by omega), if_pos ⟨by omega, by omega⟩, show (0x3000 + 8 * i + 64 * n - 0x3000) / 64 = n by omega,
    show (0x3000 + 8 * i + 64 * n) % 64 / 8 = i by omega]

theorem tenReg_block5 {n i : Nat} (hn : n < 64) (hi : i < 8) : tenReg (0x5000 + 8 * i + 64 * n) = some (5, n, i) := by
  unfold tenReg
  rw [if_neg (by omega), if_neg (by omega), if_pos ⟨by omega, by omega⟩, show (0x5000 + 8 * i + 64 * n - 0x5000) / 64 = n by omega,
    show (0x5000 + 8 * i + 64 * n) % 64 / 8 = i by omega]

theorem tenReg_block6 {n i : Nat} (hn : n < 64) (hi : i < 8) : tenReg (0x6000 + 8 * i + 64 * n) = some (6, n, i) := by
  unfold tenReg
  rw [if_neg (by omega), if_neg (by omega), if_neg (by omega), if_pos ⟨by omega, by omega⟩,
    show (0x6000 + 8 * i + 64 * n - 0x6000) / 64 = n by omega, show (0x6000 + 8 * i + 64 * n) % 64 / 8 = i by omega]

/-- Block and place of the registers of a tenant that stand below `0x6000`. -/
def tenantRegs : List (Nat × Nat) :=
  [(1, 0), (1, 2), (1, 3), (3, 0), (3, 1), (3, 2), (3, 3), (3, 4), (3, 5), (5, 0), (5, 1), (5, 2), (5, 3), (5, 4), (5, 5), (5, 6), (5, 7)]
/-- The offset of such a register of tenant `n`. -/
def tenantOff (n : Nat) (r : Nat × Nat) : Nat := 0x1000 * r.1 + 8 * r.2 + (if r.1 = 1 then 32 else 64) * n

theorem tenReg_tenantOff {n : Nat} (hn : n < 64) : ∀ r ∈ tenantRegs, tenReg (tenantOff n r) = some (r.1, n, r.2) := by
  have h1 : ∀ i < 4, tenReg (tenantOff n (1, i)) = some (1, n, i) := fun i hi => tenReg_block1 hn hi
  have h3 : ∀ i < 8, tenReg (tenantOff n (3, i)) = some (3, n, i) := fun i hi => tenReg_block3 hn hi
  have h5 : ∀ i < 8, tenReg (tenantOff n (5, i)) = some (5, n, i) := fun i hi => tenReg_block5 hn hi
  simp only [tenantRegs, List.forall_mem_cons]
  exact ⟨h1 0 (by omega), h1 2 (by omega), h1 3 (by omega), h3 0 (by omega), h3 1 (by omega), h3 2 (by omega), h3 3 (by omega), h3 4 (by omega),
    h3 5 (by omega), h5 0 (by omega), h5 1 (by omega), h5 2 (by omega), h5 3 (by omega), h5 4 (by omega), h5 5 (by omega), h5 6 (by omega),
    h5 7 (by omega), by simp⟩

theorem serviceRead_of_tenReg {s : State} {off b t i : Nat} (h : tenReg off = some (b, t, i)) : s.serviceRead off = tenRead (s.tenOf t) b i := by
  simp only [State.serviceRead, h]

theorem serviceWrite_of_tenReg {s : State} {off b t i : Nat} {v : W} (h : tenReg off = some (b, t, i)) :
    s.serviceWrite off v = s.tenWrite t b i v := by
  simp only [State.serviceWrite, h]

end Sys2Proof.Machine

namespace Sys2Proof.Says
open Sys2Proof.Machine

theorem mmioRead_serviceAt {off : Nat} (h : off < 0x1000000000) (s : State) : s.mmioRead none (serviceAt off) = s.serviceRead off := by
  simp only [State.mmioRead, serviceAt, regionOf_service h]

theorem exec_registerWrite_serviceAt {off : Nat} (h : off < 0x1000000000) {s : State} (hu : s.sel.unit = serviceAt off) :
    exec .registerWrite s = .next ((s.serviceWrite off s.sel.data).getD s) := by
  simp only [exec, execRegisterWrite, State.mmioWrite, hu, serviceAt, regionOf_service h]

/-! ### Values -/

theorem setWidth_eq_field (v : W) (k : Nat) (h : k < 64) : (v.setWidth (k + 1)).setWidth 64 = field v k 0 := by
  apply BitVec.eq_of_toNat_eq
  have : v.toNat % 2 ^ (k + 1) < 2 ^ 64 := Nat.lt_of_lt_of_le (Nat.mod_lt _ (by positivity)) (Nat.pow_le_pow_right (by omega) (by omega))
  simp [field, num, BitVec.toNat_setWidth]

theorem logOk_eq_logLegal (v : W) : logOk (bits v.toNat 4 0) = logLegal v := by
  rw [Bool.eq_iff_iff]
  simp [logOk, logLegal, bits]

theorem keep_eq_field (v : W) (hi lo : Nat) : keep v hi lo = field v hi lo := rfl

/-- Fields that stand apart make the same word whether they are added or joined. -/
theorem ofNat_add_eq_or {a b : Nat} (i : Nat) (h : b < 2 ^ i) : num (a * 2 ^ i + b) = num (a * 2 ^ i) ||| num b := by
  have e : a * 2 ^ i + b = a * 2 ^ i ||| b := by rw [Nat.mul_comm, Nat.two_pow_add_eq_or_of_lt h]
  rw [e]
  exact BitVec.ofNat_or

/-- The range of `GANGMASK`: valid with from 1 to as many gangs as there are, or not valid. -/
def gangLegal (v : W) : Bool := !v.getLsbD 63 || decide (1 ≤ v.toNat / 2 ^ 40 % 256 ∧ v.toNat / 2 ^ 40 % 256 ≤ v.toNat / 2 ^ 48 % 256)

theorem gangLegal_iff (v : W) :
    gangLegal v = true ↔ bits v.toNat 63 63 = 0 ∨ 1 ≤ bits v.toNat 55 48 ∧ 1 ≤ bits v.toNat 47 40 ∧ bits v.toNat 47 40 ≤ bits v.toNat 55 48 := by
  have h63 : v.getLsbD 63 = false ↔ v.toNat / 2 ^ 63 % 2 = 0 := by
    rw [BitVec.getLsbD, Nat.testBit_eq_decide_div_mod_eq]
    simp
  simp only [gangLegal, Bool.or_eq_true, Bool.not_eq_true', decide_eq_true_eq, h63, bits]
  omega

theorem setGangmask_eq (t : Tenant) (v : W) :
    setGangmask t v = if gangLegal v = true then { t with gangmask := field v 63 63 ||| field v 55 40 ||| field v 31 0 } else t := by
  have hsum : BitVec.ofNat 64 (bits v.toNat 63 63 * 2 ^ 63 + bits v.toNat 55 40 * 2 ^ 40 + bits v.toNat 31 0)
      = field v 63 63 ||| field v 55 40 ||| field v 31 0 := by
    have hlow : bits v.toNat 31 0 < 2 ^ 40 := by simp only [bits]; omega
    have hmid : bits v.toNat 55 40 * 2 ^ 40 + bits v.toNat 31 0 < 2 ^ 63 := by simp only [bits]; omega
    have hzero : field v 31 0 = num (bits v.toNat 31 0) := by simp [field, bits]
    calc _ = num (bits v.toNat 63 63 * 2 ^ 63 + (bits v.toNat 55 40 * 2 ^ 40 + bits v.toNat 31 0)) := by rw [Nat.add_assoc]; rfl
      _ = field v 63 63 ||| (field v 55 40 ||| field v 31 0) := by rw [ofNat_add_eq_or _ hmid, ofNat_add_eq_or _ hlow, hzero]; rfl
      _ = _ := (BitVec.or_assoc _ _ _).symm
  simp only [setGangmask, gangLegal_iff, hsum]

/-! ### What each register of the tables takes -/

/-- A store to the register `r` of tenant `n` with range `leg`, which then reads as `val`: one change of the tenant's record, which no other register of the tenant sees. -/
structure TenantWrite (r : Nat × Nat) (leg : W → Bool) (val : W → W) (v : W) (g : Tenant → Tenant) : Prop where
  write : ∀ (s : State) (n : Nat), s.tenWrite n r.1 r.2 v = some (s.modTen n g)
  reads : ∀ t, ∀ q ∈ tenantRegs, tenRead (g t) q.1 q.2 = if q = r ∧ leg v = true then some (val v) else tenRead t q.1 q.2

/-- An entry of the table of tenants: the register's offset and how it takes a store. -/
def TenantEntry (n : Nat) (e : Nat × (W → Bool) × (W → W)) : Prop :=
  ∃ r ∈ tenantRegs, e.1 = tenantOff n r ∧ ∀ v, ∃ g, TenantWrite r e.2.1 e.2.2 v g

theorem TenantEntry.of {n : Nat} {e : Nat × (W → Bool) × (W → W)} (r : Nat × Nat) (hr : r ∈ tenantRegs) (he : e.1 = tenantOff n r)
    (g : W → Tenant → Tenant) (write : ∀ (v : W) (s : State) (n : Nat), s.tenWrite n r.1 r.2 v = some (s.modTen n (g v)))
    (reads : ∀ v t, ∀ q ∈ tenantRegs, tenRead (g v t) q.1 q.2 = if q = r ∧ e.2.1 v = true then some (e.2.2 v) else tenRead t q.1 q.2) :
    TenantEntry n e := ⟨r, hr, he, fun v => ⟨g v, write v, reads v⟩⟩

theorem tenantEntry_of_mem (n : Nat) : ∀ e ∈ tenantTable n, TenantEntry n e := by
  have width (v : W) : (v.setWidth 32).setWidth 64 = field v 31 0 := setWidth_eq_field v 31 (by omega)
  have tickets (v : W) : bits v.toNat 10 0 = v.toNat % 2048 := by simp [bits]
  simp only [tenantTable, List.forall_mem_cons]
  refine ⟨.of (1, 0) (by decide) rfl _ (fun _ _ _ => rfl) fun v t => ?_,
    .of (1, 2) (by decide) rfl _ (fun _ _ _ => rfl) fun v t => ?_,
    .of (1, 3) (by decide) rfl _ (fun _ _ _ => rfl) fun v t => ?_,
    .of (3, 0) (by decide) rfl _ (fun _ _ _ => rfl) fun v t => ?_,
    .of (3, 1) (by decide) rfl _ (fun _ _ _ => rfl) fun v t => ?_,
    .of (3, 2) (by decide) rfl _ (fun _ _ _ => rfl) fun v t => ?_,
    .of (3, 3) (by decide) rfl _ (fun _ _ _ => rfl) fun v t => ?_,
    .of (3, 4) (by decide) rfl _ (fun _ _ _ => rfl) fun v t => ?_,
    .of (3, 5) (by decide) rfl _ (fun _ _ _ => rfl) fun v t => ?_,
    .of (5, 0) (by decide) rfl _ (fun _ _ _ => rfl) fun v t => ?_,
    .of (5, 1) (by decide) rfl _ (fun _ _ _ => rfl) fun v t => ?_,
    .of (5, 2) (by decide) rfl _ (fun _ _ _ => rfl) fun v t => ?_,
    .of (5, 3) (by decide) rfl _ (fun _ _ _ => rfl) fun v t => ?_,
    .of (5, 4) (by decide) rfl _ (fun _ _ _ => rfl) fun v t => ?_,
    .of (5, 5) (by decide) rfl _ (fun _ _ _ => rfl) fun v t => ?_,
    .of (5, 6) (by decide) rfl _ (fun _ _ _ => rfl) fun v t => ?_,
    .of (5, 7) (by decide) rfl _ (fun _ _ _ => rfl) fun v t => ?_, by simp⟩
  · cases h : logLegal v <;> simp [tenantRegs, tenRead, logOk_eq_logLegal, h, keep_eq_field]
  · simp [tenantRegs, tenRead, width]
  · simp [tenantRegs, tenRead, width]
  · simp [tenantRegs, tenRead, keep_eq_field]
  · simp [tenantRegs, tenRead, keep_eq_field]
  · simp [tenantRegs, tenRead, keep_eq_field]
  · simp [tenantRegs, tenRead, keep_eq_field]
  · simp [tenantRegs, tenRead, keep_eq_field]
  · simp [tenantRegs, tenRead, keep_eq_field]
  · simp [tenantRegs, tenRead, keep_eq_field]
  · by_cases h : v.toNat % 2048 ≤ 1024 <;> simp [tenantRegs, tenRead, tickets, h, keep_eq_field]
  · simp [tenantRegs, tenRead, keep_eq_field]
  · change ∀ q ∈ tenantRegs, tenRead (setGangmask t v) q.1 q.2 = if q = (5, 3) ∧ gangLegal v = true then _ else _
    rw [setGangmask_eq]
    cases h : gangLegal v <;> simp [tenantRegs, tenRead]
  · simp [tenantRegs, tenRead, keep_eq_field]
  · simp [tenantRegs, tenRead, keep_eq_field]
  · simp [tenantRegs, tenRead, keep_eq_field]
  · simp [tenantRegs, tenRead, keep_eq_field]

/-- What the registers of the package in the table read as. -/
def packageReg (p : Package) (off : Nat) : Option W :=
  if off = 0x0 then some (p.pkgid.setWidth 64) else if off = 0x40 then some (p.fnmode.setWidth 64) else if off = 0x58 then some (p.tslice.setWidth 64)
  else if off = 0x60 then some (p.gridslice.setWidth 64) else if off = 0x68 then some (p.gtick.setWidth 64) else if off = 0x78 then some p.ganglate
  else if off = 0x80 then some p.hfrbase else if off = 0x90 then some (p.hfrhead.setWidth 64) else if off = 0xA0 then some (p.pwrcap.setWidth 64) else none

theorem serviceRead_package (s : State) : ∀ f ∈ packageTable, s.serviceRead f.1 = packageReg s.pkg f.1 := by
  simp only [packageTable, List.forall_mem_cons]
  exact ⟨rfl, rfl, rfl, rfl, rfl, rfl, rfl, rfl, rfl, by simp⟩

def packageOffs : List Nat := [0x00, 0x40, 0x58, 0x60, 0x68, 0x78, 0x80, 0x90, 0xA0]
theorem packageOffs_eq : packageTable.map (·.1) = packageOffs := rfl

/-- The same for the registers of the package. -/
def PackageEntry (e : Nat × (W → Bool) × (W → W)) : Prop := ∀ v, ∃ g : Package → Package,
  (∀ s : State, s.serviceWrite e.1 v = some (s.modPkg g)) ∧
  ∀ p, ∀ off ∈ packageOffs, packageReg (g p) off = if off = e.1 ∧ e.2.1 v = true then some (e.2.2 v) else packageReg p off

theorem packageEntry_of_mem : ∀ e ∈ packageTable, PackageEntry e := by
  have w9 (v : W) : (v.setWidth 9).toNat = v.toNat % 512 := BitVec.toNat_setWidth _ _
  have w16 (v : W) : (v.setWidth 16).toNat = v.toNat % 65536 := BitVec.toNat_setWidth _ _
  have w32 (v : W) : (v.setWidth 32).toNat = v.toNat % 4294967296 := BitVec.toNat_setWidth _ _
  have r9 (v : W) : (v.setWidth 9).setWidth 64 = field v 8 0 := setWidth_eq_field v 8 (by omega)
  have r16 (v : W) : (v.setWidth 16).setWidth 64 = field v 15 0 := setWidth_eq_field v 15 (by omega)
  have r32 (v : W) : (v.setWidth 32).setWidth 64 = field v 31 0 := setWidth_eq_field v 31 (by omega)
  have r8 (v : W) : (v.setWidth 8).setWidth 64 = field v 7 0 := setWidth_eq_field v 7 (by omega)
  simp only [packageTable, List.forall_mem_cons]
  refine ⟨fun v => ⟨_, fun _ => rfl, fun p => ?_⟩, fun v => ⟨_, fun _ => rfl, fun p => ?_⟩, fun v => ⟨_, fun _ => rfl, fun p => ?_⟩,
    fun v => ⟨_, fun _ => rfl, fun p => ?_⟩, fun v => ⟨_, fun _ => rfl, fun p => ?_⟩, fun v => ⟨_, fun _ => rfl, fun p => ?_⟩,
    fun v => ⟨_, fun _ => rfl, fun p => ?_⟩, fun v => ⟨_, fun _ => rfl, fun p => ?_⟩, fun v => ⟨_, fun _ => rfl, fun p => ?_⟩, by simp⟩
  · by_cases h : v.toNat % 512 < 320 <;> simp [packageOffs, packageReg, w9, r9, h]
  · simp [packageOffs, packageReg, r8]
  · simp [packageOffs, packageReg, r32]
  · simp [packageOffs, packageReg, r32]
  · by_cases h : 65536 ≤ v.toNat % 4294967296 <;> simp [packageOffs, packageReg, w32, r32, h]
  · simp [packageOffs, packageReg, keep_eq_field]
  · cases h : logLegal v <;> simp [packageOffs, packageReg, logOk_eq_logLegal, h, keep_eq_field]
  · simp [packageOffs, packageReg, r32]
  · by_cases h : 1000 ≤ v.toNat % 65536 <;> simp [packageOffs, packageReg, w16, r16, h]

/-! ### A store to a register of the tables -/

theorem packageOffs_lt : ∀ off ∈ packageOffs, off < 0x1000 := by decide

theorem tenantOff_lt {n : Nat} (hn : n < 64) : ∀ r ∈ tenantRegs, tenantOff n r < 0x1000000000 := by
  have hr : ∀ r ∈ tenantRegs, 0x1000 * r.1 + 8 * r.2 < 0x6000 := by decide
  intro r h
  have := hr r h
  simp only [tenantOff]
  split <;> omega

theorem mmioRead_package (s : State) {f : Nat × (W → Bool) × (W → W)} (hf : f ∈ packageTable) :
    f.1 ∈ packageOffs ∧ s.mmioRead none (serviceAt f.1) = packageReg s.pkg f.1 := by
  have hoff : f.1 ∈ packageOffs := packageOffs_eq ▸ List.mem_map_of_mem hf
  exact ⟨hoff, (mmioRead_serviceAt (by have := packageOffs_lt _ hoff; omega) s).trans (serviceRead_package s f hf)⟩

theorem mmioRead_tenant (s : State) {m : Nat} (hm : m < 64) {q : Nat × Nat} (hq : q ∈ tenantRegs) :
    s.mmioRead none (serviceAt (tenantOff m q)) = tenRead (s.tenOf m) q.1 q.2 :=
  (mmioRead_serviceAt (tenantOff_lt hm q hq) s).trans (serviceRead_of_tenReg (tenReg_tenantOff hm q hq))

theorem packageReg_reads (p : Package) : ∀ off ∈ packageOffs, ∃ old, packageReg p off = some old := by
  simp only [packageOffs, List.forall_mem_cons]
  exact ⟨⟨_, rfl⟩, ⟨_, rfl⟩, ⟨_, rfl⟩, ⟨_, rfl⟩, ⟨_, rfl⟩, ⟨_, rfl⟩, ⟨_, rfl⟩, ⟨_, rfl⟩, ⟨_, rfl⟩, by simp⟩

theorem tenRead_reads (t : Tenant) : ∀ r ∈ tenantRegs, ∃ old, tenRead t r.1 r.2 = some old := by
  simp only [tenantRegs, List.forall_mem_cons]
  exact ⟨⟨_, rfl⟩, ⟨_, rfl⟩, ⟨_, rfl⟩, ⟨_, rfl⟩, ⟨_, rfl⟩, ⟨_, rfl⟩, ⟨_, rfl⟩, ⟨_, rfl⟩, ⟨_, rfl⟩, ⟨_, rfl⟩, ⟨_, rfl⟩, ⟨_, rfl⟩, ⟨_, rfl⟩,
    ⟨_, rfl⟩, ⟨_, rfl⟩, ⟨_, rfl⟩, ⟨_, rfl⟩, by simp⟩

theorem exec_registerWrite_readOnly {n : Nat} (hn : n < 64) (s : State) :
    ∀ r ∈ [0x48, 0x50, 0xA8, 0xB0, 0x88, 0x1008 + 32 * n, 0x6008 + 64 * n],
      exec .registerWrite { s with sel := { s.sel with unit := serviceAt r } } = .next { s with sel := { s.sel with unit := serviceAt r } } := by
  have of {off : Nat} (hoff : off < 0x1000000000) (h : ∀ (u : State) v, u.serviceWrite off v = none) :
      exec .registerWrite { s with sel := { s.sel with unit := serviceAt off } } = .next { s with sel := { s.sel with unit := serviceAt off } } := by
    rw [exec_registerWrite_serviceAt hoff rfl, h]
    rfl
  simp only [List.forall_mem_cons]
  refine ⟨of (by omega) fun _ _ => rfl, of (by omega) fun _ _ => rfl, of (by omega) fun _ _ => rfl, of (by omega) fun _ _ => rfl,
    of (by omega) fun _ _ => rfl, of (by omega) fun u v => ?_, of (by omega) fun u v => ?_, by simp⟩
  · exact serviceWrite_of_tenReg (tenReg_block1 hn (i := 1) (by omega))
  · exact serviceWrite_of_tenReg (tenReg_block6 hn (i := 1) (by omega))

/-- What the statement on register stores asks of the state after one. -/
def StoredTo (s t : State) (e : Nat × (W → Bool) × (W → W)) : Prop :=
  ∃ old, s.mmioRead none (serviceAt e.1) = some old ∧ t.mmioRead none (serviceAt e.1) = some (if e.2.1 s.sel.data then e.2.2 s.sel.data else old) ∧
    (∀ m, m < 64 → ∀ f ∈ packageTable ++ tenantTable m, f.1 ≠ e.1 → t.mmioRead none (serviceAt f.1) = s.mmioRead none (serviceAt f.1)) ∧
    { t with pkg := s.pkg, ten := s.ten } = s

theorem registerWrite_package (s : State) {e : Nat × (W → Bool) × (W → W)} (he : e ∈ packageTable) (hu : s.sel.unit = serviceAt e.1) :
    ∃ t, exec .registerWrite s = .next t ∧ StoredTo s t e := by
  obtain ⟨hoff, hread⟩ := mmioRead_package s he
  obtain ⟨g, hwrite, hreads⟩ := packageEntry_of_mem e he s.sel.data
  obtain ⟨old, hold⟩ := packageReg_reads s.pkg e.1 hoff
  refine ⟨s.modPkg g, ?_, old, hread.trans hold, ?_, fun m hm f hf hne => ?_, rfl⟩
  · rw [exec_registerWrite_serviceAt (by have := packageOffs_lt _ hoff; omega) hu, hwrite]
    rfl
  · rw [(mmioRead_package _ he).2, pkg_modPkg, hreads _ _ hoff, hold]
    simp only [true_and]
    split <;> rfl
  · obtain hf | hf := List.mem_append.1 hf
    · obtain ⟨hfo, hfr⟩ := mmioRead_package s hf
      rw [(mmioRead_package _ hf).2, hfr, pkg_modPkg, hreads _ _ hfo, if_neg fun h => hne h.1]
    · obtain ⟨q, hq, hfq, -⟩ := tenantEntry_of_mem m f hf
      rw [hfq, mmioRead_tenant _ hm hq, mmioRead_tenant _ hm hq]
      rfl

theorem registerWrite_tenant (s : State) {n : Nat} (hn : n < 64) {e : Nat × (W → Bool) × (W → W)} (he : e ∈ tenantTable n)
    (hu : s.sel.unit = serviceAt e.1) : ∃ t, exec .registerWrite s = .next t ∧ StoredTo s t e := by
  obtain ⟨r, hr, hoff, hall⟩ := tenantEntry_of_mem n e he
  obtain ⟨g, hwrite, hreads⟩ := hall s.sel.data
  obtain ⟨old, hold⟩ := tenRead_reads (s.tenOf n) r hr
  refine ⟨s.modTen n g, ?_, old, ?_, ?_, fun m hm f hf hne => ?_, rfl⟩
  · rw [exec_registerWrite_serviceAt (hoff ▸ tenantOff_lt hn r hr) hu, hoff, serviceWrite_of_tenReg (tenReg_tenantOff hn r hr), hwrite]
    rfl
  · rw [hoff, mmioRead_tenant _ hn hr, hold]
  · rw [hoff, mmioRead_tenant _ hn hr, State.tenOf_modTen, if_pos rfl, hreads _ _ hr, hold]
    simp only [true_and]
    split <;> rfl
  · obtain hf | hf := List.mem_append.1 hf
    · rw [(mmioRead_package _ hf).2, (mmioRead_package _ hf).2]
      rfl
    · obtain ⟨q, hq, hfq, -⟩ := tenantEntry_of_mem m f hf
      rw [hfq, mmioRead_tenant _ hm hq, mmioRead_tenant _ hm hq, State.tenOf_modTen]
      split
      · next hmn =>
        subst hmn
        rw [hreads _ _ hq, if_neg fun h => hne (by rw [hfq, hoff, h.1])]
      · rfl

theorem serviceRegisters : ServiceRegisters := by
  intro s n hn e he hu
  have hstore : ∃ t, exec .registerWrite s = .next t ∧ StoredTo s t e := by
    obtain he | he := List.mem_append.1 he
    · exact registerWrite_package s he hu
    · exact registerWrite_tenant s hn he hu
  obtain ⟨t, hexec, old, hold, hnew, hothers, hframe⟩ := hstore
  exact ⟨old, t, hold, hexec, hnew, hothers, hframe, exec_registerWrite_readOnly hn s⟩

end Sys2Proof.Says
end

section
namespace Sys2Proof.Machine

/-! ## Register writes that are device steps of their own -/

/-- A table of which every entry is changed, by a function that sees its index. -/
theorem tget_map_index {α : Type} (d : α) (f : Nat → α → α) (i : Nat) : ∀ t : Tab α,
    (∃ e ∈ t, e.1 = i) → tget d (t.map fun e => (e.1, f e.1 e.2)) i = f i (tget d t i)
  | [], h => by simp at h
  | (k, v) :: t, h => by
    by_cases hk : k = i
    · subst hk
      simp [tget]
    · have hrest : ∃ e ∈ t, e.1 = i := by simpa [hk] using h
      simpa [tget, hk] using tget_map_index d f i t hrest

/-- The same where the change leaves the values at an index alone. -/
theorem tget_map_index_same {α : Type} (d : α) (f : Nat → α → α) (i : Nat) (hf : ∀ v, f i v = v) : ∀ t : Tab α,
    tget d (t.map fun e => (e.1, f e.1 e.2)) i = tget d t i
  | [] => rfl
  | (k, v) :: t => by
    by_cases hk : k = i
    · subst hk
      simp [tget, hf]
    · simpa [tget, hk] using tget_map_index_same d f i hf t

/-! ### Registers of a core -/

theorem setOpenlim_eq (c : CState) (v : W) :
    setOpenlim c v = { c with openlim := if 1 ≤ v.toNat % 32 ∧ v.toNat % 32 ≤ 16 then BitVec.ofNat 5 v.toNat else c.openlim } := by
  have hbits : bits v.toNat 4 0 = v.toNat % 32 := by simp [bits]
  have hval : BitVec.ofNat 5 (v.toNat % 32) = BitVec.ofNat 5 v.toNat := BitVec.eq_of_toNat_eq (by simp)
  simp only [setOpenlim, hbits, hval]
  split <;> rfl

theorem setTurnlen_eq (c : CState) (v : W) :
    setTurnlen c v = { c with turnlen := if 4 ≤ v.toNat % 65536 then BitVec.ofNat 16 v.toNat else c.turnlen } := by
  have hbits : bits v.toNat 15 0 = v.toNat % 65536 := by simp [bits]
  have hval : BitVec.ofNat 16 (v.toNat % 65536) = BitVec.ofNat 16 v.toNat := BitVec.eq_of_toNat_eq (by simp)
  simp only [setTurnlen, hbits, hval]
  split <;> rfl

theorem setHpool_eq (c : CState) (v : W) :
    setHpool c v = if v.toNat / 2 ^ 16 % 64 = 0 ∨ v.toNat % 2048 + v.toNat / 2 ^ 16 % 64 ≤ 2047
      then { c with hpoolCount := BitVec.ofNat 6 (v.toNat / 2 ^ 16), hpoolBase := BitVec.ofNat 11 v.toNat } else c := by
  have hn : bits v.toNat 21 16 = v.toNat / 2 ^ 16 % 64 := by simp [bits]
  have hb : bits v.toNat 10 0 = v.toNat % 2048 := by simp [bits]
  have hvn : BitVec.ofNat 6 (v.toNat / 2 ^ 16 % 64) = BitVec.ofNat 6 (v.toNat / 2 ^ 16) := BitVec.eq_of_toNat_eq (by simp)
  have hvb : BitVec.ofNat 11 (v.toNat % 2048) = BitVec.ofNat 11 v.toNat := BitVec.eq_of_toNat_eq (by simp)
  simp only [setHpool, hn, hb, hvn, hvb]

theorem coreRegWrite_of_lt {s t : State} {off : Nat} (hc : s.sel.unit < 6144) (h : s.coreWrite s.sel.unit off s.sel.data = some t) :
    s.coreRegWrite off = .next t := by
  simp only [State.coreRegWrite, cores, if_pos hc, h, Option.getD_some]

/-! ### A new length of turns (02_rows.md R44) -/

/-- Under the new length a waiting thread has risen by as much as under the old one. -/
theorem newLength_rise (t : Thr) (now old new : Nat) (hnew : 0 < new) :
    min 3 ((t.newLength now old new).effPri + (now - (t.newLength now old new).riseAt) / (16 * new)) = min 3 (t.effPri + (now - t.riseAt) / (16 * old)) := by
  have hless : now - (t.newLength now old new).riseAt < 16 * new := by
    simp only [Thr.newLength]
    split <;> omega
  rw [Nat.div_eq_of_lt hless]
  simp [Thr.newLength]

/-- Where its time has reached the new length, it rises by one level in the next cycle. -/
theorem newLength_rise_next (t : Thr) (now old new : Nat) (hnew : 0 < new) (h : 16 * new ≤ (now - t.riseAt) % (16 * old)) :
    min 3 ((t.newLength now old new).effPri + (now + 1 - (t.newLength now old new).riseAt) / (16 * new))
      = min 3 (min 3 (t.effPri + (now - t.riseAt) / (16 * old)) + 1) := by
  have hdiv : 16 * old * ((now - t.riseAt) / (16 * old)) + (now - t.riseAt) % (16 * old) = now - t.riseAt := Nat.div_add_mod _ _
  have hlong : 16 * new ≤ now - (t.riseAt + 16 * old * ((now - t.riseAt) / (16 * old))) := by omega
  have hone : now + 1 - (t.newLength now old new).riseAt = 16 * new := by
    simp only [Thr.newLength, if_pos hlong]
    omega
  rw [hone, Nat.div_self (by omega)]
  rfl

/-- The thread record of each row after a write of `TURNLEN`. -/
def newLengthAt (s : State) (core old new r : Nat) (t : Thr) : Thr :=
  if coreOfRid r = core ∧ (s.ctlOf r).state = .ready then t.newLength s.cycle old new else t

theorem thr_writeTurnlen (s : State) (core : Nat) (f : CState → CState) : (s.writeTurnlen core f).thr
    = s.thr.map fun e => (e.1, newLengthAt s core (s.cs core).turnlen.toNat (f (s.cs core)).turnlen.toNat e.1 e.2) := by
  refine List.map_congr_left fun e _ => ?_
  simp only [newLengthAt]
  split <;> rfl

theorem thrOf_writeTurnlen_of_ready {s : State} {core r : Nat} (f : CState → CState) (hlisted : ∃ e ∈ s.thr, e.1 = r) (hc : coreOfRid r = core)
    (hr : (s.ctlOf r).state = .ready) :
    (s.writeTurnlen core f).thrOf r = (s.thrOf r).newLength s.cycle (s.cs core).turnlen.toNat (f (s.cs core)).turnlen.toNat := by
  rw [State.thrOf, thr_writeTurnlen, tget_map_index _ _ r s.thr hlisted, newLengthAt, if_pos ⟨hc, hr⟩]
  rfl

theorem thrOf_writeTurnlen_of_ne {s : State} {core r : Nat} (f : CState → CState) (h : coreOfRid r ≠ core ∨ (s.ctlOf r).state ≠ .ready) :
    (s.writeTurnlen core f).thrOf r = s.thrOf r := by
  rw [State.thrOf, thr_writeTurnlen]
  refine tget_map_index_same _ (newLengthAt s core (s.cs core).turnlen.toNat (f (s.cs core)).turnlen.toNat) r (fun v => if_neg ?_) s.thr
  rintro ⟨hc, hr⟩
  exact h.elim (· hc) (· hr)

theorem coreOf_writeTurnlen (s : State) (core k : Nat) (f : CState → CState) :
    (s.writeTurnlen core f).coreOf k = if core = k then { s.coreOf core with cs := f (s.cs core) } else s.coreOf k :=
  State.coreOf_modCore s core k fun c => { c with cs := f c.cs }

/-- A write of `TURNLEN` and the effective priority of a row that waits. -/
theorem effNow_writeTurnlen {s : State} {core r : Nat} (f : CState → CState) (hlisted : ∃ e ∈ s.thr, e.1 = r) (hc : coreOfRid r = core)
    (hr : (s.ctlOf r).state = .ready) (hnew : 0 < (f (s.cs core)).turnlen.toNat) :
    (s.writeTurnlen core f).effNow r = s.effNow r ∧
    (16 * (f (s.cs core)).turnlen.toNat ≤ (s.cycle - (s.thrOf r).riseAt) % (16 * (s.cs core).turnlen.toNat) →
      State.effNow { s.writeTurnlen core f with cycle := s.cycle + 1 } r = min 3 (s.effNow r + 1)) := by
  have hthr := thrOf_writeTurnlen_of_ready f hlisted hc hr
  have hlen : ((s.writeTurnlen core f).cs core).turnlen = (f (s.cs core)).turnlen := by rw [State.cs, coreOf_writeTurnlen, if_pos rfl]
  have hnow (now : Nat) : State.effNow { s.writeTurnlen core f with cycle := now } r
      = min 3 (((s.writeTurnlen core f).thrOf r).effPri + (now - ((s.writeTurnlen core f).thrOf r).riseAt) / (16 * (f (s.cs core)).turnlen.toNat)) := by
    rw [← hlen, ← hc]
    rfl
  have hold : s.effNow r = min 3 ((s.thrOf r).effPri + (s.cycle - (s.thrOf r).riseAt) / (16 * (s.cs core).turnlen.toNat)) := by
    rw [← hc]
    rfl
  refine ⟨(hnow s.cycle).trans ?_, fun h => (hnow (s.cycle + 1)).trans ?_⟩
  · rw [hthr, newLength_rise _ _ _ _ hnew, hold]
  · rw [hthr, newLength_rise_next _ _ _ _ hnew h, hold]

end Sys2Proof.Machine

namespace Sys2Proof.Says
open Sys2Proof.Machine

theorem tenOf_modPkg (s : State) (f : Package → Package) (n : Nat) : (s.modPkg f).tenOf n = s.tenOf n := rfl

theorem onlyCore_modLoaded (s : State) (c : Nat) (f : CState → CState) : OnlyCore s (s.modLoaded c f) c :=
  ⟨rfl, fun k hk => (State.coreOf_modCore s c k _).trans (if_neg (Ne.symm hk))⟩

theorem coreOf_modLoaded (s : State) (c : Nat) (f : CState → CState) : (s.modLoaded c f).coreOf c = { s.coreOf c with cs := f (s.cs c) } :=
  (State.coreOf_modCore s c c _).trans (if_pos rfl)

/-- The word of `TENMIN` that a store brings. -/
def tenminWord (v : W) : W := num (v.toNat / 2 ^ 32 * 2 ^ 32 + v.toNat % 64)

theorem tenminWord_eq_zero (v : W) : tenminWord v = 0 ↔ v.toNat / 2 ^ 32 = 0 ∧ v.toNat % 64 = 0 := by
  have hv := v.isLt
  rw [tenminWord, num, BitVec.ofNat_eq_ofNat, ← BitVec.toNat_inj]
  simp only [BitVec.toNat_ofNat]
  omega

theorem setTenmin_eq (s : State) (n : Nat) (v : W) : s.setTenmin n v =
    if 32 < v.toNat % 64 then s
    else if tenminWord v = 0 then s.modTen n fun t => { t with tenmin := 0, admission := 0, deg := false }
    else if (v.toNat / 2 ^ 32 ≠ 0 ∧ (s.tenOf n).tenmin.toNat / 2 ^ 32 = 0) ∨ (v.toNat % 64 ≠ 0 ∧ (s.tenOf n).tenmin.toNat % 64 = 0) then
      (s.modTen n fun t => { t with tenmin := tenminWord v, admission := s.pkg.admitNext }).modPkg fun p => { p with admitNext := p.admitNext + 1 }
    else s.modTen n fun t => { t with tenmin := tenminWord v } := by
  have hhigh (x : W) : bits x.toNat 63 32 = x.toNat / 2 ^ 32 := by have := x.isLt; simp only [bits]; omega
  have hlow (x : W) : bits x.toNat 5 0 = x.toNat % 64 := by simp [bits]
  simp only [State.setTenmin, hhigh, hlow, tenminWord_eq_zero]
  rfl

theorem setRoute_eq (s : State) (o : Nat) (v : W) : s.setRoute o v =
    if v.toNat % 64 / 4 = o / 96 ∧ v.toNat / 256 % 64 / 4 = o / 96 ∧ v.toNat % 64 ≠ v.toNat / 256 % 64
    then s.modOct o fun x => { x with route := some (BitVec.ofNat 6 v.toNat, BitVec.ofNat 6 (v.toNat / 256)) } else s := by
  have hp : bits v.toNat 5 0 = v.toNat % 64 := by simp [bits]
  have hq : bits v.toNat 13 8 = v.toNat / 256 % 64 := by simp [bits]
  have hvp : BitVec.ofNat 6 (v.toNat % 64) = BitVec.ofNat 6 v.toNat := BitVec.eq_of_toNat_eq (by simp)
  have hvq : BitVec.ofNat 6 (v.toNat / 256 % 64) = BitVec.ofNat 6 (v.toNat / 256) := BitVec.eq_of_toNat_eq (by simp)
  simp only [State.setRoute, hp, hq, hvp, hvq]

/-- A device step that stores to a register of the service window, and REGISTER_WRITE at that register. -/
theorem registerStep_of_serviceWrite {s u : State} {off : Nat} (hoff : off < 0x1000000000) (hu : s.serviceWrite off s.sel.data = some u)
    (hsel : u.sel = s.sel) (h : State.serviceWrite { s with sel := { s.sel with unit := serviceAt off } } off s.sel.data
      = some { u with sel := { s.sel with unit := serviceAt off } }) :
    ∃ t w, (.next ((s.serviceWrite off s.sel.data).getD s) : Out) = .next t ∧
      exec .registerWrite { s with sel := { s.sel with unit := serviceAt off } } = .next w ∧ t = { w with sel := s.sel } := by
  refine ⟨u, { u with sel := { s.sel with unit := serviceAt off } }, by rw [hu]; rfl, ?_, ?_⟩
  · rw [exec_registerWrite_serviceAt hoff rfl]
    exact congrArg _ (congrArg (Option.getD · _) h)
  · rw [← hsel]

theorem registerSteps : RegisterSteps := by
  intro s
  refine ⟨fun hc => ?_, ?_, fun hc => ?_, fun hc => ?_, fun hc => ?_⟩
  · have h1 : exec .openlimWrite s = .next (s.modLoaded s.sel.unit fun c => setOpenlim c s.sel.data) := coreRegWrite_of_lt hc rfl
    have h2 : exec .turnlenWrite s = .next (s.writeTurnlen s.sel.unit fun c => setTurnlen c s.sel.data) := coreRegWrite_of_lt hc rfl
    have h3 : exec .hpoolWrite s = .next (s.modLoaded s.sel.unit fun c => setHpool c s.sel.data) := coreRegWrite_of_lt hc rfl
    refine ⟨_, _, _, h1, h2, h3, onlyCore_modLoaded _ _ _, onlyCore_modLoaded _ _ _, rfl, fun k hk => ?_, fun r hr => thrOf_writeTurnlen_of_ne _ hr,
      fun e he hce hready hnew => ?_, ?_, ?_, ?_⟩
    · rw [coreOf_writeTurnlen, if_neg (Ne.symm hk)]
    · rw [State.cs, coreOf_writeTurnlen, if_pos rfl] at hnew ⊢
      exact effNow_writeTurnlen _ ⟨e, he, rfl⟩ hce hready hnew
    · rw [coreOf_modLoaded, setOpenlim_eq]
      rfl
    · rw [coreOf_writeTurnlen, if_pos rfl, setTurnlen_eq]
      rfl
    · rw [coreOf_modLoaded, setHpool_eq]
      rfl
  · simp only [List.forall_mem_cons]
    exact ⟨registerStep_of_serviceWrite (off := 0xA0) (by omega) rfl rfl rfl, registerStep_of_serviceWrite (off := 0x40) (by omega) rfl rfl rfl, by simp⟩
  · simp only [List.forall_mem_cons]
    refine ⟨?_, ?_, by simp⟩
    · have hreg := tenReg_block5 hc (i := 3) (by omega)
      rw [show exec .gangmaskWrite s = .next ((s.serviceWrite (0x5000 + 8 * 3 + 64 * s.sel.unit) s.sel.data).getD s) from
        (if_pos hc).trans (by rw [serviceWrite_of_tenReg hreg])]
      exact registerStep_of_serviceWrite (by omega) (serviceWrite_of_tenReg hreg) rfl (serviceWrite_of_tenReg hreg)
    · have hreg := tenReg_block5 hc (i := 1) (by omega)
      rw [show exec .ticketsWrite s = .next ((s.serviceWrite (0x5000 + 8 * 1 + 64 * s.sel.unit) s.sel.data).getD s) from
        (if_pos hc).trans (by rw [serviceWrite_of_tenReg hreg])]
      exact registerStep_of_serviceWrite (by omega) (serviceWrite_of_tenReg hreg) rfl (serviceWrite_of_tenReg hreg)
  · rw [show exec .tenminWrite s = .next (s.setTenmin s.sel.unit s.sel.data) from if_pos hc, setTenmin_eq]
    refine ⟨_, rfl, fun m hm => ?_, ?_, fun h => if_pos h, fun h hw => ?_, fun h hw hr => ?_, fun h hw hr => ?_⟩
    · split_ifs <;> simp [Ne.symm hm]
    · split_ifs <;> rfl
    · rw [if_neg (Nat.not_lt.2 h), if_pos (show tenminWord s.sel.data = 0 from hw)]
      exact ⟨(State.tenOf_modTen _ _ _ _).trans (if_pos rfl), rfl⟩
    · rw [if_neg (Nat.not_lt.2 h), if_neg (show tenminWord s.sel.data ≠ 0 from hw), if_neg hr]
      exact ⟨(State.tenOf_modTen _ _ _ _).trans (if_pos rfl), rfl⟩
    · rw [if_neg (Nat.not_lt.2 h), if_neg (show tenminWord s.sel.data ≠ 0 from hw), if_pos hr]
      exact ⟨by rw [tenOf_modPkg, State.tenOf_modTen, if_pos rfl]; rfl, rfl⟩
  · rw [show exec .routeWrite s = .next (s.setRoute s.sel.unit s.sel.data) from if_pos hc, setRoute_eq]
    refine ⟨_, rfl, ?_, fun o ho => ?_, ?_⟩
    · split <;> rfl
    · split
      · exact (State.octOf_modOct _ _ _ _).trans (if_neg (Ne.symm ho))
      · rfl
    · split
      · exact (State.octOf_modOct _ _ _ _).trans (if_pos rfl)
      · rfl

/-- Settles O41: the registers of the tables (`serviceRegisters`) and the device steps that store to one (`registerSteps`). -/
theorem registerStores : Obligations.RegisterStores := ⟨serviceRegisters, registerSteps⟩

end Sys2Proof.Says
end

section
namespace Sys2Proof.Says
open Sys2Proof.Machine

/-! ## Atomics, ordered accesses and fences (09_memory_sync.md R159 to R162) -/

/-! ### The new value of an atomic -/

theorem toSigned_toNat {w : Nat} (hw : 0 < w) (x : BitVec w) : toSigned w x.toNat = x.toInt := by
  have hpow : 2 ^ w = 2 * 2 ^ (w - 1) := by rw [← pow_succ', Nat.sub_add_cancel hw]
  have hmod : (x.toNat : Int) % 2 ^ w = x.toNat := Int.emod_eq_of_lt (by omega) (by exact_mod_cast x.isLt)
  have hhalf : x.toNat < 2 ^ (w - 1) ↔ 2 * x.toNat < 2 ^ w := by omega
  rw [toSigned, Nat.mod_eq_of_lt x.isLt, BitVec.toInt_eq_toNat_cond, hmod]
  simp only [hhalf, Nat.cast_pow, Nat.cast_ofNat]

theorem atomicResults : AtomicResults := by
  intro w o x e hw
  have hbytes : 8 * (w / 8) = w := by omega
  have hpos : 0 < w := by omega
  have hnew (aop : Nat) : atomNew aop (w / 8) o.toNat x.toNat e.toNat = if aop = 0 then (o.toNat + x.toNat) % 2 ^ w else if aop = 1 then x.toNat
      else if aop = 2 then (if o.toNat = e.toNat then x.toNat else o.toNat) else if aop = 3 then o.toNat &&& x.toNat
      else if aop = 4 then o.toNat ||| x.toNat else if aop = 5 then o.toNat ^^^ x.toNat
      else if aop = 6 then (if x.toInt < o.toInt then x.toNat else o.toNat) else if aop = 7 then (if o.toInt < x.toInt then x.toNat else o.toNat)
      else if aop = 8 then min o.toNat x.toNat else max o.toNat x.toNat := by
    simp only [atomNew, hbytes, Nat.mod_eq_of_lt o.isLt, Nat.mod_eq_of_lt x.isLt, Nat.mod_eq_of_lt e.isLt, toSigned_toNat hpos]
  have hlt (y : BitVec w) : BitVec.ofNat w y.toNat = y := by simp
  dsimp only
  refine ⟨?_, ?_, ?_, ?_, ?_, ?_, ?_, ?_, ?_, ?_⟩ <;> rw [hnew]
  · exact BitVec.eq_of_toNat_eq (by simp)
  · exact hlt x
  · simp [← BitVec.toNat_inj, apply_ite (BitVec.ofNat w)]
  · exact BitVec.eq_of_toNat_eq (by simp)
  · exact BitVec.eq_of_toNat_eq (by simp)
  · exact BitVec.eq_of_toNat_eq (by simp)
  · simp only [OfNat.ofNat_ne_zero, OfNat.ofNat_ne_one, Nat.reduceEqDiff, if_false, if_true]
    split <;> rw [hlt] <;> omega
  · simp only [OfNat.ofNat_ne_zero, OfNat.ofNat_ne_one, Nat.reduceEqDiff, if_false, if_true]
    split <;> rw [hlt] <;> omega
  · exact Nat.mod_eq_of_lt (Nat.lt_of_le_of_lt (Nat.min_le_left _ _) o.isLt)
  · exact Nat.mod_eq_of_lt (Nat.max_lt.2 ⟨o.isLt, x.isLt⟩)

/-! ### Words that stand alone, and ordering sides (07_memory_model.md R127, R140, R141) -/

section
variable {s t u : State} {c : BitVec 3} {acq rel : Bool}

theorem noPacket_of (h : (s.ctlOf s.me).p = false) : s.noPacket = .ok () := by simp [State.noPacket, h]

theorem threadOnly_of (h : InThread s) : s.threadOnly = .ok () := by
  obtain ⟨hbase, hp⟩ := h
  simp [State.threadOnly, hbase, noPacket_of hp]

theorem afterAll_of (h : s.drained s.me = true) : s.afterAll = .ok () := if_pos h
theorem afterAll_stall (h : s.drained s.me = false) : s.afterAll = stall := if_neg (Bool.eq_false_iff.1 h)

theorem alone_of (hbase : isBase s.me = false) (h : MayBeAlone s) : s.alone = .ok (s.modCur fun x => { x with ending := true }) := by
  obtain ⟨hsteps, hfull, hgrant⟩ := h
  unfold State.alone
  simp only [hbase, hsteps, hfull, Bool.false_eq_true, if_false, Nat.lt_irrefl, Bool.not_false, Bool.and_true]
  refine if_pos ?_
  obtain hg | ⟨hg, hq | hq⟩ := hgrant
  · simp [hg]
  · simp [hg, hq]
  · rw [hg]
    cases hl : (s.cluOf s.myCluster).grantq with
    | nil => rfl
    | cons r rest => simpa [hl] using hq

theorem wideScope_eq (c : BitVec 3) : wideScope c = decide (4 ≤ c.toNat) := rfl

/-- The sides of an access that stands in no one's way. -/
theorem sides_of (h : Sides s t c acq rel) : s.sides c acq rel = .ok t := by
  unfold Sides at h
  unfold State.sides
  split at h
  · next hbase => rw [if_pos hbase, h]
  · next hbase =>
    have hb : isBase s.me = false := by simpa using hbase
    rw [if_neg hbase]
    split at h
    · next hwide =>
      obtain ⟨halone, hdone, rfl⟩ := h
      rw [if_pos (by simpa [wideScope_eq] using hwide)]
      simp only [alone_of hb halone, bind, Except.bind]
      cases rel with
      | false => rfl
      | true =>
        have hall : (s.modCur fun x => { x with ending := true }).afterAll = .ok () := afterAll_of (hdone rfl)
        rw [if_pos rfl, hall]
    · next hnarrow =>
      rw [if_neg (by simpa [wideScope_eq] using hnarrow)]
      split at h
      · next hrel =>
        obtain ⟨hready, rfl⟩ := h
        rw [if_pos hrel, State.markRelease, if_neg]
        · rfl
        · rintro ⟨hfirst, hnot⟩
          obtain ⟨hsteps, hlimit⟩ | hready := hready
          · exact hfirst.elim hsteps hlimit
          · rw [show s.releaseNow (c != 0) = { before := s.seq, stores := c != 0 } from rfl, hready] at hnot
            simp at hnot
      · next hrel => rw [if_neg hrel, h]

/-- A wide release while an earlier access of the thread is not done, and a narrow one that must wait at once. -/
theorem sides_stall_wide (hbase : isBase s.me = false) (hwide : 4 ≤ c.toNat) (halone : MayBeAlone s) (h : s.drained s.me = false) :
    s.sides c acq true = stall := by
  unfold State.sides
  rw [if_neg (by simp [hbase]), if_pos (by simp [wideScope_eq, hwide])]
  have hall : (s.modCur fun x => { x with ending := true }).afterAll = stall := afterAll_stall h
  simp only [alone_of hbase halone, bind, Except.bind, if_true, hall]
  rfl

theorem markRelease_stall (hfirst : (s.thrOf s.me).chunk.steps = 0 ∨ (s.thrOf s.me).chunk.limit = 1)
    (h : s.releaseReady s.me { before := s.seq, stores := c != 0 } = false) : s.markRelease c = stall := by
  unfold State.markRelease
  exact if_pos ⟨hfirst, by rw [show s.releaseNow (c != 0) = { before := s.seq, stores := c != 0 } from rfl, h]; rfl⟩

theorem markRelease_of (h : s.releaseReady s.me { before := s.seq, stores := c != 0 } = true ∨
      ((s.thrOf s.me).chunk.steps ≠ 0 ∧ (s.thrOf s.me).chunk.limit ≠ 1)) :
    s.markRelease c = .ok (s.modChunk s.me fun ch => { ch with release := some (Release.both { before := s.seq, stores := c != 0 } ch.release) }) := by
  unfold State.markRelease
  refine if_neg ?_
  rintro ⟨hfirst, hnot⟩
  obtain hready | ⟨hsteps, hlimit⟩ := h
  · rw [show s.releaseNow (c != 0) = { before := s.seq, stores := c != 0 } from rfl, hready] at hnot
    simp at hnot
  · exact hfirst.elim hsteps hlimit

end

end Sys2Proof.Says
end

section
namespace Sys2Proof.Says
open Sys2Proof.Machine

/-! ### Changes that the word's own bytes and place do not see -/

/-- `u` comes from `s` by changes to records, marks and queues: memory, control entries and the word's place are those of `s`. -/
structure SameWord (s u : State) : Prop where
  mem : u.mem = s.mem
  ctl : u.ctl = s.ctl
  me : u.me = s.me
  slot : u.cur.slot = s.cur.slot
  view : u.cur.view = s.cur.view
  pc : u.cur.pc = s.cur.pc
  jump : u.cur.jump = s.cur.jump

namespace SameWord
variable {s u v t : State} {rid : Nat} {d : BitVec 5} {x : W}

theorem refl (s : State) : SameWord s s := ⟨rfl, rfl, rfl, rfl, rfl, rfl, rfl⟩

theorem trans (h : SameWord s u) (k : SameWord u v) : SameWord s v :=
  ⟨k.mem.trans h.mem, k.ctl.trans h.ctl, k.me.trans h.me, k.slot.trans h.slot, k.view.trans h.view, k.pc.trans h.pc, k.jump.trans h.jump⟩

theorem modThr (h : SameWord s u) (r : Nat) (f : Thr → Thr) : SameWord s (u.modThr r f) := ⟨h.mem, h.ctl, h.me, h.slot, h.view, h.pc, h.jump⟩
theorem modChunk (h : SameWord s u) (r : Nat) (f : Chunk → Chunk) : SameWord s (u.modChunk r f) := h.modThr r _
theorem modClu (h : SameWord s u) (k : Nat) (f : Cluster → Cluster) : SameWord s (u.modClu k f) := ⟨h.mem, h.ctl, h.me, h.slot, h.view, h.pc, h.jump⟩
theorem tick (h : SameWord s u) : SameWord s u.tick.2 := ⟨h.mem, h.ctl, h.me, h.slot, h.view, h.pc, h.jump⟩
theorem ending (h : SameWord s u) : SameWord s (u.modCur fun c => { c with ending := true }) := ⟨h.mem, h.ctl, h.me, h.slot, h.view, h.pc, h.jump⟩

theorem ctlOf (h : SameWord s u) (r : Nat) : u.ctlOf r = s.ctlOf r := by rw [State.ctlOf, h.ctl]; rfl

theorem dstOpen (h : SameWord s u) (n : Nat) : u.dstOpen n = s.dstOpen n := by
  have hrid : u.cur.rid = s.cur.rid := h.me
  simp only [State.dstOpen, State.seenBound, State.seen, State.rowGet, h.mem, h.slot, h.view, hrid]

theorem moves (h : SameWord s u) (k : Moves u t rid) : Moves s t rid := by
  unfold Moves at k ⊢
  rwa [h.slot, h.pc, h.jump, h.ctlOf] at k

theorem onlyPc (h : SameWord s u) (k : OnlyPc u t rid) : OnlyPc s t rid := by
  constructor
  · intro r hr
    rw [k.others r hr, h.ctlOf]
  · rw [← h.ctlOf]
    exact k.own

theorem produced (h : SameWord s u) (k : Produced u t rid d x) : Produced s t rid d x := by
  have hreg (n : Nat) : u.greg rid n = s.greg rid n := State.greg_congr s u h.mem rid n
  constructor
  · exact k.reg
  · exact k.d1
  · rw [k.d2, hreg]
  · rw [k.d3, hreg]
  · rw [k.d4, hreg]

end SameWord

theorem thrOf_modChunk (s : State) (r q : Nat) (f : Chunk → Chunk) :
    (s.modChunk r f).thrOf q = if r = q then { s.thrOf r with chunk := f (s.thrOf r).chunk } else s.thrOf q :=
  State.thrOf_modThr s r q _

/-- The own record after a result, but for its pending loads. -/
theorem thrOf_put_retire_chunk (s : State) (n : Nat) (v : W) (r : Nat) : ((s.put n v).retire.thrOf r).chunk = (s.thrOf r).chunk := by
  rw [State.retire_at_thrOf, State.put_thrOf]
  split
  · next h => rw [h]
  · rfl

/-! ### An atomic, its sources read and its side taken -/

section
variable {s s2 s3 s4 t : State} {d a b : BitVec 5} {c : BitVec 3} {r : BitVec 2} {ea x e : W} {pa n aop : Nat}

theorem exec_atom : ∀ f ∈ atomTable d a b c r, ∀ s, exec f.1 s = s.atomOp f.2.1 f.2.2 d a b c r := by
  simp only [atomTable, List.forall_mem_cons]
  exact ⟨fun _ => rfl, fun _ => rfl, fun _ => rfl, fun _ => rfl, fun _ => rfl, fun _ => rfl, fun _ => rfl, fun _ => rfl, fun _ => rfl, fun _ => rfl,
    fun _ => rfl, fun _ => rfl, fun _ => rfl, fun _ => rfl, fun _ => rfl, fun _ => rfl, fun _ => rfl, fun _ => rfl, fun _ => rfl, fun _ => rfl, by simp⟩

theorem atomOp_eq (ho : AtomOperands s s2 d a b aop ea x e) (hs : Sides s2 s3 c (r.getLsbD 0) (r.getLsbD 1)) :
    s.atomOp n aop d a b c r = s.runWord (s3.atomic ea n aop x.toNat e.toNat d.toNat (r.getLsbD 0)) := by
  obtain ⟨hp, u1, u2, ha, hb, hd⟩ := ho
  by_cases h2 : aop = 2
  · rw [if_pos h2] at hd
    simp only [State.atomOp, noPacket_of hp, ha, hb, bind, Except.bind, if_pos h2, hd, sides_of hs]
  · rw [if_neg h2] at hd
    obtain ⟨rfl, rfl⟩ := hd
    simp only [State.atomOp, noPacket_of hp, ha, hb, bind, Except.bind, if_neg h2, sides_of hs]

theorem bindNow_scalar (h : s.dstOpen d.toNat = true) (v : Nat) : s.bindNow (.scalar d.toNat true) n v = .ok (s.put d.toNat (extended n true v)) :=
  State.dst_open _ _ _ h

/-- A value that is bound at once is a write of the destination register. -/
theorem writes_runWord_bindNow {rid : Nat} (s : State) (hme : s4.me = rid) (h : s4.dstOpen d.toNat = true) (v : Nat) :
    ∃ t, s.runWord (s4.bindNow (.scalar d.toNat true) n v) = .next t ∧ Writes s4 t rid d (extended n true v) := by
  rw [bindNow_scalar h, ← hme]
  exact ⟨_, rfl, writes_put_retire h _⟩

variable (hacc : s3.access ea n (.atomic (aop == 2)) = .ok (pa, s4)) (X E dd : Nat) (acq : Bool)
include hacc

/-- A base-die handler performs the atomic in memory. -/
theorem atomic_base (hbase : isBase s4.me = true) : s3.atomic ea n aop X E dd acq
    = ((s4.clearUncorr pa n).poke pa (bytesOf n (atomNew aop n (s4.peek pa n) X E))).bindNow (.scalar dd true) n (s4.peek pa n) := by
  simp only [State.atomic, hacc, bind, Except.bind, if_pos hbase]

/-- On its own cluster's single-copy memory, no live row in the way, it stores and binds the old value. -/
theorem atomic_stored {s5 : State} (hbase : isBase s4.me = false) (hhome : clusterHome pa = some s4.myCluster)
    (hother : ∀ q, rowAt pa = some q → q = s4.me ∨ (s4.ctlOf q).state = .null ∨ s4.busyBank pa = true)
    (htakes : (∃ q w o, regionOf pa = .control q w o) → s4.clusterRead' pa n = E % 2 ^ (8 * n))
    (hstore : s4.storeAt pa (bytesOf n (atomNew aop n (s4.clusterRead' pa n) X E)) false = .ok s5) :
    s3.atomic ea n aop X E dd acq = (s5.trackRead pa).bindNow (.scalar dd true) n (s4.clusterRead' pa n) := by
  simp only [State.atomic, hacc, bind, Except.bind, hbase, Bool.false_eq_true, if_false, if_pos hhome]
  refine (if_neg ?_).trans ((if_neg ?_).trans ?_)
  · cases hrow : rowAt pa with
    | none => simp
    | some q => obtain hq | hq | hq := hother q hrow <;> simp [hq]
  · cases hreg : regionOf pa with
    | control q w o => simp [htakes ⟨q, w, o, hreg⟩]
    | _ => simp
  · rw [hstore]

/-- A compare and swap of a control word that does not hold the expected value stores nothing. -/
theorem atomic_failed (hbase : isBase s4.me = false) (hhome : clusterHome pa = some s4.myCluster) (hrow : rowAt pa = some s4.me)
    (hctl : ∃ q w o, regionOf pa = .control q w o) (hne : s4.clusterRead' pa n ≠ E % 2 ^ (8 * n)) :
    s3.atomic ea n aop X E dd acq = ((s4.trackWrite pa).trackRead pa).bindNow (.scalar dd true) n (s4.clusterRead' pa n) := by
  obtain ⟨q, w, o, hreg⟩ := hctl
  simp only [State.atomic, hacc, bind, Except.bind, hbase, Bool.false_eq_true, if_false, if_pos hhome]
  refine (if_neg ?_).trans (if_pos ?_)
  · simp [hrow]
  · simp [hreg, hne]

/-- Another live row is brought to its boundary first, with the word alone in its chunk. -/
theorem atomic_other {q : Nat} (hbase : isBase s4.me = false) (hhome : clusterHome pa = some s4.myCluster) (hrow : rowAt pa = some q) (hq : q ≠ s4.me)
    (hlive : (s4.ctlOf q).state ≠ .null) (hbusy : s4.busyBank pa = false) (halone : MayBeAlone s4) :
    s3.atomic ea n aop X E dd acq = (s4.modCur fun y => { y with ending := true }).reach pa n >>= fun s6 =>
      match s6.atomHome pa n aop X E (s6.rowTenant s6.me) with
      | none => stall
      | some (old, s7) => ((s7.trackRead pa).trackWrite pa).bindNow (.scalar dd true) n old := by
  simp only [State.atomic, hacc, bind, Except.bind, hbase, Bool.false_eq_true, if_false, if_pos hhome]
  refine (if_pos ?_).trans ?_
  · simp [hrow, hq, hlive, hbusy]
  · rw [alone_of hbase halone] <;> rfl

/-- A remote home: the word is alone in its chunk, its old value is pending, and it joins the outbound queue. -/
theorem atomic_remote (hbase : isBase s4.me = false) (hhome : clusterHome pa ≠ some s4.myCluster) (halone : MayBeAlone s4) :
    s3.atomic ea n aop X E dd acq = (s4.modCur fun y => { y with ending := true }).bindLater (.scalar dd true) pa n [] acq true >>= fun p =>
      .ok (p.2.tick.2.modClu p.2.myCluster fun c => { c with outq := c.outq ++ [
        { pa := pa, bytes := bytesOf n X, rid := p.2.me, order := p.2.seq, forward := false, via := p.2.viaFor p.2.me pa, atomic := some (aop, X, E),
          ret := some p.1 }] }) := by
  simp only [State.atomic, hacc, bind, Except.bind, hbase, Bool.false_eq_true, if_false, if_neg hhome]
  rw [alone_of hbase halone]
  rfl

end

/-! ### Stores at a checked address -/

section
variable {s : State} {pa : Nat} {bs : List Byte} {strong home : Bool}

/-- The store that joins the chunk's buffer. -/
def bufEntry (pa : Nat) (bs : List Byte) (strong home : Bool) : BufStore := { pa := pa, bytes := bs, strong := strong, home := home }
/-- The state with a store in the buffer of the row's chunk. -/
def buffered (s : State) (e : BufStore) : State := s.modChunk s.me fun c => { c with stores := (s.thrOf s.me).chunk.stores ++ [e] }

theorem buffer_of (h : (bufLines ((s.thrOf s.me).chunk.stores ++ [bufEntry pa bs strong home])).length ≤ 32) :
    s.buffer pa bs strong home = .ok (buffered s (bufEntry pa bs strong home)) := if_neg (Nat.not_lt.2 h)

theorem sameWord_buffered (s : State) (e : BufStore) : SameWord s (buffered s e) := (SameWord.refl s).modChunk _ _

theorem stores_buffered (s : State) (e : BufStore) : ((buffered s e).thrOf s.me).chunk.stores = (s.thrOf s.me).chunk.stores ++ [e] := by
  rw [buffered, thrOf_modChunk, if_pos rfl]

variable (hbase : isBase s.me = false)
include hbase

theorem storeAt_own (hdev : deviceHome pa = false) (hhome : clusterHome pa = some s.myCluster) (hrow : rowAt pa = some s.me)
    (hctl : ¬ ∃ q w o, regionOf pa = .control q w o) (hseg : s.segPending (pa - rowAddr s.me) bs.length = false) :
    s.storeAt pa bs strong = .ok (((s.clearUncorr pa bs.length).poke pa bs).trackWrite pa) := by
  simp only [State.storeAt, hbase, hdev, Bool.false_eq_true, if_false, if_pos hhome]
  cases hreg : regionOf pa with
  | control q w o => exact absurd ⟨q, w, o, hreg⟩ hctl
  | _ => simp only [if_pos hrow, hseg, Bool.false_eq_true, if_false]

theorem storeAt_cluster (hdev : deviceHome pa = false) (hhome : clusterHome pa = some s.myCluster) (hrow : rowAt pa ≠ some s.me)
    (hctl : ¬ ∃ q w o, regionOf pa = .control q w o)
    (hroom : (bufLines ((s.thrOf s.me).chunk.stores ++ [bufEntry pa bs strong true])).length ≤ 32) :
    s.storeAt pa bs strong = .ok ((buffered s (bufEntry pa bs strong true)).trackWrite pa) := by
  simp only [State.storeAt, hbase, hdev, Bool.false_eq_true, if_false, if_pos hhome]
  cases hreg : regionOf pa with
  | control q w o => exact absurd ⟨q, w, o, hreg⟩ hctl
  | _ => simp only [if_neg hrow, buffer_of hroom, bind, Except.bind]

theorem storeAt_control {q w o : Nat} (hdev : deviceHome pa = false) (hhome : clusterHome pa = some s.myCluster) (hreg : regionOf pa = .control q w o)
    (hroom : (bufLines ((s.thrOf s.me).chunk.stores ++ [bufEntry pa bs strong true])).length ≤ 32) :
    s.storeAt pa bs strong = .ok (((buffered s (bufEntry pa bs strong true)).trackWrite pa).modChunk s.me fun c =>
      { c with ended := c.ended || decide (q = s.me) }) := by
  simp only [State.storeAt, hbase, hdev, Bool.false_eq_true, if_false, if_pos hhome, hreg, buffer_of hroom, bind, Except.bind]
  rfl

theorem storeAt_hbm (hreg : regionOf pa = .hbm) (hroom : (bufLines ((s.thrOf s.me).chunk.stores ++ [bufEntry pa bs strong false])).length ≤ 32) :
    s.storeAt pa bs strong = .ok (buffered s (bufEntry pa bs strong false)) := by
  have hdev : deviceHome pa = false := by simp [deviceHome, hreg]
  have hhome : clusterHome pa ≠ some s.myCluster := by simp [clusterHome, hreg]
  simp only [State.storeAt, hbase, hdev, Bool.false_eq_true, if_false, if_neg hhome, buffer_of hroom]

end

/-! ### Loads that stay pending -/

section
variable (s : State) (r : Nat)
theorem tick_ctlOf : s.tick.2.ctlOf r = s.ctlOf r := rfl
theorem tick_thrOf : s.tick.2.thrOf r = s.thrOf r := rfl
theorem tick_cluOf : s.tick.2.cluOf r = s.cluOf r := rfl
theorem tick_octOf : s.tick.2.octOf r = s.octOf r := rfl
theorem tick_cur : s.tick.2.cur = s.cur := rfl
theorem tick_me : s.tick.2.me = s.me := rfl
theorem tick_pkg : s.tick.2.pkg = s.pkg := rfl
theorem tick_seq : s.tick.2.seq = s.seq + 1 := rfl
end

/-- The state after a scalar load joined the pending-load set. -/
def pending (s : State) (d : BitVec 5) (l : PLoad) : State :=
  (s.tick.2.put d.toNat 0).modThr s.me fun t => { t with loads := t.loads ++ [l] }

theorem bindLater_scalar {s : State} {d : BitVec 5} (h : s.dstOpen d.toNat = true) (signed : Bool) (pa n : Nat) (own : List (Nat × Byte)) (acq atomic : Bool) :
    s.bindLater (.scalar d.toNat signed) pa n own acq atomic = .ok (s.seq, pending s d (pendingOf s d pa n signed own acq atomic)) := by
  have hopen : s.tick.2.dstOpen d.toNat = true := ((SameWord.refl s).tick.dstOpen _).trans h
  have hreg : (if d.toNat = 0 then none else some d.toNat : Option Nat) = if d = 0 then none else some d.toNat := by
    simp only [← BitVec.toNat_inj]
    rfl
  have hput := State.dst_open s.tick.2 d.toNat 0 hopen
  simp only [State.bindLater, pending, pendingOf, ← hreg]
  simp only [State.tick] at hput ⊢
  simp only [hput, bind, Except.bind]

theorem getLast_loads_pending (s : State) (d : BitVec 5) (l : PLoad) : ((pending s d l).thrOf s.me).loads.getLast? = some l := by
  rw [pending, State.thrOf_modThr, if_pos rfl]
  exact List.getLast?_concat

section
variable (s : State) (d : BitVec 5) (l : PLoad)

theorem pending_ctlOf (r : Nat) : (pending s d l).ctlOf r = s.ctlOf r := by simp [pending, tick_ctlOf]
theorem pending_cluOf (k : Nat) : (pending s d l).cluOf k = s.cluOf k := by simp [pending, tick_cluOf]
theorem pending_octOf (k : Nat) : (pending s d l).octOf k = s.octOf k := by simp [pending, tick_octOf]
theorem pending_pkg : (pending s d l).pkg = s.pkg := by simp [pending, tick_pkg]
theorem pending_cur : (pending s d l).cur = s.cur := by simp [pending, tick_cur]
theorem pending_me : (pending s d l).me = s.me := by simp [pending, tick_me]
theorem pending_seq : (pending s d l).seq = s.seq + 1 := by simp [pending, tick_seq]
theorem pending_viaFor (r pa : Nat) : (pending s d l).viaFor r pa = s.viaFor r pa := by
  unfold State.viaFor State.sendVia State.routeOf
  rw [pending_octOf, pending_pkg]

end

theorem retire_ending (s : State) : s.retire.cur.ending = s.cur.ending := by
  unfold State.retire
  dsimp only
  split <;> rfl

/-! ### Where an atomic completes -/

/-- A word that completes from `u` with a result for register `d`, after changes that its own bytes and place do not see. -/
theorem completes_put {s u : State} {d : BitVec 5} (h : SameWord s u) (hopen : s.dstOpen d.toNat = true) (v : W) :
    (u.put d.toNat v).retire.cur.ended = .completed ∧ Moves s (u.put d.toNat v).retire s.me ∧ OnlyPc s (u.put d.toNat v).retire s.me ∧
      Produced s (u.put d.toNat v).retire s.me d v := by
  obtain ⟨hw, hpc⟩ := writes_put_retire ((h.dstOpen _).trans hopen) v
  rw [h.me] at hw hpc
  exact ⟨hw.completed, h.moves hpc, h.onlyPc hw.frame.ctl, h.produced hw.result⟩

/-- The same for a value that is bound at once. -/
theorem completes_bindNow {s0 s u : State} {d : BitVec 5} {n : Nat} (h : SameWord s u) (hopen : s.dstOpen d.toNat = true) (v : Nat) :
    ∃ t, s0.runWord (u.bindNow (.scalar d.toNat true) n v) = .next t ∧ t.cur.ended = .completed ∧ Moves s t s.me ∧ OnlyPc s t s.me ∧
      Produced s t s.me d (extended n true v) ∧ ∀ q, (t.thrOf q).chunk = (u.thrOf q).chunk := by
  obtain ⟨hended, hmoves, hpc, hres⟩ := completes_put h hopen (extended n true v)
  rw [bindNow_scalar ((h.dstOpen _).trans hopen)]
  exact ⟨_, rfl, hended, hmoves, hpc, hres, fun q => thrOf_put_retire_chunk u _ _ q⟩

theorem clearUncorr_me (s : State) (pa n : Nat) : (s.clearUncorr pa n).me = s.me := by
  unfold State.clearUncorr
  split <;> rfl

/-- The chunk under the read and write signatures that an access adds to. -/
theorem chunk_trackRead (s : State) (pa r : Nat) :
    ((s.trackRead pa).thrOf r).chunk = { (s.thrOf r).chunk with rsig := ((s.trackRead pa).thrOf r).chunk.rsig } := by
  simp only [State.trackRead, thrOf_modChunk]
  split
  · next h => rw [h]
  · rfl
theorem chunk_trackWrite (s : State) (pa r : Nat) :
    ((s.trackWrite pa).thrOf r).chunk = { (s.thrOf r).chunk with wsig := ((s.trackWrite pa).thrOf r).chunk.wsig } := by
  simp only [State.trackWrite, thrOf_modChunk]
  split
  · next h => rw [h]
  · rfl

theorem sameWord_trackRead {s u : State} (h : SameWord s u) (pa : Nat) : SameWord s (u.trackRead pa) := h.modChunk _ _
theorem sameWord_trackWrite {s u : State} (h : SameWord s u) (pa : Nat) : SameWord s (u.trackWrite pa) := h.modChunk _ _

/-- The state after a word with a pending result has put an entry in its cluster's outbound queue, and what it shows of that. -/
def posted (s : State) (d : BitVec 5) (l : PLoad) (k : Nat) (e : OutEntry) : State :=
  (pending s d l).tick.2.modClu k fun c => { c with outq := c.outq ++ [e] }

theorem completes_posted (s : State) (d : BitVec 5) (l : PLoad) (k : Nat) (e : OutEntry) :
    let t := (posted s d l k e).retire
    t.cur.ended = .completed ∧ t.cur.ending = s.cur.ending ∧ Moves s t s.me ∧ OnlyPc s t s.me ∧ (t.thrOf s.me).loads.getLast? = some l ∧
      (t.cluOf k).outq = (s.cluOf k).outq ++ [e] ∧ t.seq = s.seq + 2 := by
  have hcur : (posted s d l k e).cur = s.cur := by rw [posted, State.modClu_cur, tick_cur, pending_cur]
  have hme : (posted s d l k e).me = s.me := congrArg Cur.rid hcur
  have hctl (r : Nat) : (posted s d l k e).ctlOf r = s.ctlOf r := by rw [posted, State.modClu_at_ctlOf, tick_ctlOf, pending_ctlOf]
  refine ⟨State.retire_ended _, (retire_ending _).trans (congrArg Cur.ending hcur), moves_retire (hctl _) hme (congrArg Cur.slot hcur)
    (congrArg Cur.pc hcur) (congrArg Cur.jump hcur), onlyPc_retire hctl hme, ?_, ?_, ?_⟩
  · rw [State.retire_at_thrOf, posted, State.modClu_at_thrOf, tick_thrOf, getLast_loads_pending]
  · rw [State.retire_at_cluOf, posted, State.cluOf_modClu, if_pos rfl, tick_cluOf, pending_cluOf]
  · rw [State.retire_seq, posted, State.modClu_seq, tick_seq, pending_seq]

theorem atomics : Atomics := by
  intro s s2 s3 s4 d a b c r ea x e pa f hf n aop old bs new mine ctl hops hsides hme3 hacc hme hopen
  have hexec : exec f.1 s = s.runWord (s3.atomic ea n aop x.toNat e.toNat d.toNat (r.getLsbD 0)) := (exec_atom f hf s).trans (atomOp_eq hops hsides)
  have hcluster : s4.myCluster = s.myCluster := congrArg clusterOfRid hme
  have hlen : bs.length = n := bytesOf_length _ _
  have hhere (h : mine) : clusterHome pa = some s4.myCluster ∧ deviceHome pa = false := ⟨h.1.trans (congrArg some hcluster.symm), h.2⟩
  have hnotOwn {q : Nat} (hrow : rowAt pa = some q) (hq : q ≠ s4.me) : rowAt pa ≠ some s4.me := fun h => hq (Option.some.inj (hrow.symm.trans h))
  have honly {q : Nat} (hrow : rowAt pa = some q) {P : Nat → Prop} (h : P q) : ∀ p, rowAt pa = some p → P p :=
    fun p hp => Option.some.inj (hrow.symm.trans hp) ▸ h
  rw [hexec, ← hme, ← hcluster]
  refine ⟨?_, fun hbase => ⟨?_, ?_, ?_, ?_, ?_, ?_⟩⟩
  · intro hbase s5 h5
    rw [atomic_base hacc _ _ _ _ hbase]
    exact writes_runWord_bindNow (s4 := s5) s (clearUncorr_me s4 pa n) h5 _
  · intro hrow hmine hctl hseg s5 h5
    obtain ⟨hhome, hdev⟩ := hhere hmine
    have hstore := storeAt_own (bs := bs) (strong := false) hbase hdev hhome hrow hctl (by rwa [hlen])
    rw [hlen] at hstore
    rw [atomic_stored hacc _ _ _ _ hbase hhome (honly hrow (.inl rfl)) (fun h => absurd h hctl) hstore]
    exact writes_runWord_bindNow (s4 := s5) s (clearUncorr_me s4 pa n) h5 _
  · intro q hrow hq hfree hmine hctl hroom
    obtain ⟨hhome, hdev⟩ := hhere hmine
    rw [atomic_stored hacc _ _ _ _ hbase hhome (honly hrow (.inr hfree)) (fun h => absurd h hctl)
      (storeAt_cluster hbase hdev hhome (hnotOwn hrow hq) hctl hroom)]
    have hword := sameWord_trackRead (sameWord_trackWrite (sameWord_buffered s4 new) pa) pa
    obtain ⟨t, ht, hended, hmoves, hpc, hres, hchunk⟩ := completes_bindNow (s0 := s) hword hopen old
    refine ⟨t, ht, hended, hmoves, hpc, hres, ?_⟩
    rw [hchunk, chunk_trackRead, chunk_trackWrite, stores_buffered]
  · intro q hrow hq hlive hbusy hmine halone s5
    obtain ⟨hhome, hdev⟩ := hhere hmine
    have hother := atomic_other hacc x.toNat e.toNat d.toNat (r.getLsbD 0) hbase hhome hrow hq hlive hbusy halone
    refine ⟨fun hholds => ?_, ?_⟩
    · have hreach : s5.reach pa n = .error (.hold pa true) := by simp only [State.reach, show s5.settleAt pa n (some s5.me) = none from hholds]; rfl
      rw [hother, hreach]
      rfl
    · intro s6 s7 v hsettle hme6 hatom hme7 s8 h8
      have hreach : s5.reach pa n = .ok s6 := by simp only [State.reach, show s5.settleAt pa n (some s5.me) = some s6 from hsettle]
      rw [hother, hreach]
      simp only [bind, Except.bind, hme6, hatom]
      exact writes_runWord_bindNow (s4 := s8) s hme7 h8 _
  · intro hrow hmine hctl hne
    obtain ⟨hhome, hdev⟩ := hhere hmine
    rw [atomic_failed hacc _ _ _ _ hbase hhome hrow hctl hne]
    have hword := sameWord_trackRead (sameWord_trackWrite (SameWord.refl s4) pa) pa
    exact writes_runWord_bindNow (s4 := (s4.trackWrite pa).trackRead pa) s rfl ((hword.dstOpen _).trans hopen) _
  · intro hrow hmine hctl heq hroom
    obtain ⟨hhome, hdev⟩ := hhere hmine
    obtain ⟨q, w, o, hreg⟩ := hctl
    rw [atomic_stored hacc _ _ _ _ hbase hhome (honly hrow (.inl rfl)) (fun _ => heq) (storeAt_control hbase hdev hhome hreg hroom)]
    have hword := sameWord_trackRead ((sameWord_trackWrite (sameWord_buffered s4 new) pa).modChunk s4.me fun c =>
      { c with ended := c.ended || decide (q = s4.me) }) pa
    obtain ⟨t, ht, hended, hmoves, hpc, hres, hchunk⟩ := completes_bindNow (s0 := s) hword hopen old
    refine ⟨t, ht, hended, hmoves, hpc, hres, ?_, ?_⟩
    · rw [hchunk, chunk_trackRead, thrOf_modChunk, if_pos rfl, chunk_trackWrite, stores_buffered]
    · rintro ⟨w', o', hreg'⟩
      have hq : q = s4.me := by
        rw [hreg] at hreg'
        injection hreg'
      rw [hchunk, chunk_trackRead, thrOf_modChunk, if_pos rfl]
      simp [hq]
  · intro hhome halone
    have hopen5 : (s4.modCur fun y => { y with ending := true }).dstOpen d.toNat = true := ((SameWord.refl s4).ending.dstOpen _).trans hopen
    rw [atomic_remote hacc _ _ _ _ hbase hhome halone, bindLater_scalar hopen5]
    refine ⟨_, rfl, ?_⟩
    simp only [pending_me, pending_seq, pending_viaFor, show ∀ l, (pending (s4.modCur fun y => { y with ending := true }) d l).myCluster = s4.myCluster
      from fun l => congrArg clusterOfRid (pending_me _ d l)]
    obtain ⟨hended, hending, hmoves, hpc, hload, hout, hseq⟩ := completes_posted (s4.modCur fun y => { y with ending := true }) d
      (pendingOf s4 d pa n true [] (r.getLsbD 0) true) s4.myCluster _
    exact ⟨hended, hending, (SameWord.refl s4).ending.moves hmoves, (SameWord.refl s4).ending.onlyPc hpc, hload, hout, hseq⟩

end Sys2Proof.Says
end

section
namespace Sys2Proof.Says
open Sys2Proof.Machine

/-! ### Ordered accesses (09_memory_sync.md R161) -/

section
variable {s s1 s2 s3 s4 : State} {d a b : BitVec 5} {c : BitVec 3} {ea x : W} {pa n : Nat}

/-- A load from HBM that finds none of its bytes in the chunk's buffer stays pending. -/
theorem load_hbm (hacc : s4.access ea n .load = .ok (pa, s3)) (hbase : isBase s3.me = false) (hreg : regionOf pa = .hbm)
    (hstores : (s3.thrOf s3.me).chunk.stores = []) (hn : n ≠ 0) (hopen : s3.dstOpen d.toNat = true) (acq : Bool) :
    s4.load ea n (.scalar d.toNat true) acq = .ok (pending s3 d (pendingOf s3 d pa n true [] acq false)) := by
  have hdev : deviceHome pa = false := by simp [deviceHome, hreg]
  have hhome : clusterHome pa ≠ some s3.myCluster := by simp [clusterHome, hreg]
  have hown : (List.range n).filterMap (fun i => (bufByte (s3.thrOf s3.me).chunk.stores (pa + i)).map fun x => (i, x)) = [] := by
    rw [hstores]
    simp [bufByte]
  simp only [State.load, hacc, bind, Except.bind, hbase, hdev, Bool.false_eq_true, if_false, if_neg hhome, hown]
  rw [if_neg (by simpa using hn.symm), bindLater_scalar hopen]

/-- What a result leaves of an earlier pending load: it loses the register that the result takes, and moves in the window. -/
def movedLoad (d : BitVec 5) (x : PLoad) : PLoad :=
  { x with reg := if d ≠ 0 ∧ x.reg = some d.toNat then none else x.reg, win := match x.win with | some k => if k < 4 then some (k + 1) else none | none => none }

theorem loads_put (s : State) (d : BitVec 5) (v : W) : ((s.put d.toNat v).thrOf s.me).loads = (s.thrOf s.me).loads.map (movedLoad d) := by
  have hpush (u : State) : ((u.pushWin v).thrOf u.me).loads = pushLoads (u.thrOf u.me).loads := by simp [State.pushWin]
  rw [State.put, ← State.setReg_me s d.toNat v, hpush, State.setReg_me, pushLoads]
  by_cases hd : d = 0
  · subst hd
    rw [show s.setReg (0 : BitVec 5).toNat v = s from rfl]
    exact List.map_congr_left fun x _ => by cases hw : x.win <;> simp [movedLoad, hw]
  · have hd' : d.toNat ≠ 0 := fun h => hd (BitVec.eq_of_toNat_eq h)
    simp only [State.setReg, if_neg hd', State.thrOf_modThr, if_pos, State.rowPut_at_thrOf, List.map_map]
    have hd0 : ¬ d = 0#5 := hd
    exact List.map_congr_left fun x _ => by cases hw : x.win <;> by_cases hx : x.reg = some d.toNat <;> simp [movedLoad, hd0, hx, hw]

/-- A word whose load from `s` is pending. -/
theorem pends_retire (s : State) (d : BitVec 5) (l : PLoad) : Pends s (pending s d l).retire d l := by
  have hthr (r : Nat) (hr : r ≠ s.me) : (pending s d l).thrOf r = s.thrOf r := by
    rw [pending, State.thrOf_modThr, if_neg (Ne.symm hr), State.put_thrOf, if_neg (by exact Ne.symm hr), tick_thrOf]
  refine ⟨State.retire_ended _, moves_retire (pending_ctlOf s d l _) (pending_me s d l) ?_ ?_ ?_, onlyPc_retire (pending_ctlOf s d l) (pending_me s d l),
    ?_, fun r hr => ?_, ?_, fun i h1 h2 => ?_⟩
  · rw [pending_cur]
  · rw [pending_cur]
  · rw [pending_cur]
  · rw [State.retire_at_thrOf, pending, State.thrOf_modThr, if_pos rfl]
    exact congrArg (· ++ [l]) (loads_put s.tick.2 d 0)
  · rw [State.retire_at_thrOf, hthr r hr]
  · rw [State.retire_seq, pending_seq]
  · rw [State.retire_mem, pending, State.modThr_mem]
    refine State.put_mget _ _ _ _ ?_ h2
    exact h1.imp_left fun hd => by rw [hd]; rfl

/-- A word that leaves a store in the chunk's buffer. -/
theorem buffers_retire (pa : Nat) (bs : List Byte) (strong home : Bool) :
    Buffers s (buffered s (bufEntry pa bs strong home)).retire pa bs strong home := by
  have hword := sameWord_buffered s (bufEntry pa bs strong home)
  have hthr : (buffered s (bufEntry pa bs strong home)).thrOf s.me
      = { s.thrOf s.me with chunk := { (s.thrOf s.me).chunk with stores := (s.thrOf s.me).chunk.stores ++ [bufEntry pa bs strong home] } } := by
    rw [buffered, thrOf_modChunk, if_pos rfl]
  refine ⟨State.retire_ended _, moves_retire (hword.ctlOf _) hword.me hword.slot hword.pc hword.jump, elsewhere_retire ?_,
    onlyPc_retire hword.ctlOf hword.me, fun r hr => ?_, ?_, ?_, ?_⟩
  · constructor <;> rfl
  · rw [State.retire_at_thrOf, buffered, thrOf_modChunk, if_neg (Ne.symm hr)]
  · rw [State.retire_at_thrOf, stores_buffered]
    rfl
  · rw [State.retire_at_thrOf, hthr]
  · rw [State.retire_mem, hword.mem]

end

theorem exec_ordered (d a b : BitVec 5) (c : BitVec 3) :
    ∀ f ∈ [((.ldaW d a c : Instr), (.stlW a b c : Instr), (.stmcW a b c : Instr), 4), (.ldaD d a c, .stlD a b c, .stmcD a b c, 8)],
      (∀ s, exec f.1 s = s.ldaOp d a c f.2.2.2) ∧ (∀ s, exec f.2.1 s = s.stlOp a b c f.2.2.2) ∧ (∀ s, exec f.2.2.1 s = s.stmcOp a b c f.2.2.2) ∧
        f.2.2.2 ≠ 0 := by
  simp only [List.forall_mem_cons]
  exact ⟨⟨fun _ => rfl, fun _ => rfl, fun _ => rfl, by decide⟩, ⟨fun _ => rfl, fun _ => rfl, fun _ => rfl, by decide⟩, by simp⟩

section
variable {s s1 s2 s3 s4 : State} {d a b : BitVec 5} {c : BitVec 3} {ea x : W} {pa n : Nat}

theorem ldaOp_of (hin : InThread s) (ha : s.src a.toNat = .ok (ea, s1)) (hs : Sides s1 s4 c true false) :
    s.ldaOp d a c n = s.runWord (s4.load ea n (.scalar d.toNat true) true) := by
  simp only [State.ldaOp, threadOnly_of hin, ha, bind, Except.bind, sides_of hs]

theorem stlOp_eq (hin : InThread s) (ha : s.src a.toNat = .ok (ea, s1)) (hb : s1.src b.toNat = .ok (x, s2)) :
    s.stlOp a b c n = s.runWord (s2.sides c false true >>= fun u => u.store ea n x.toNat) := by
  simp only [State.stlOp, threadOnly_of hin, ha, hb, bind, Except.bind]

theorem stmcOp_eq (hin : InThread s) (ha : s.src a.toNat = .ok (ea, s1)) (hb : s1.src b.toNat = .ok (x, s2)) :
    s.stmcOp a b c n = s.runWord ((if wideScope c then s2.alone else .ok s2) >>= fun u => u.store ea n x.toNat (wideScope c)) := by
  simp only [State.stmcOp, threadOnly_of hin, ha, hb, bind, Except.bind]
  split <;> rfl

/-- A store to HBM that passes its checks is buffered, and the word completes. -/
theorem buffers_runWord_store (s : State) (hacc : s4.access ea n .store = .ok (pa, s3)) (hbase : isBase s3.me = false) (hreg : regionOf pa = .hbm)
    (strong : Bool) (hroom : (bufLines ((s3.thrOf s3.me).chunk.stores ++ [bufEntry pa (bytesOf n x.toNat) strong false])).length ≤ 32) :
    ∃ t, s.runWord (s4.store ea n x.toNat strong) = .next t ∧ Buffers s3 t pa (bytesOf n x.toNat) strong false ∧ t.cur.ending = s3.cur.ending := by
  simp only [State.store, hacc, bind, Except.bind, storeAt_hbm hbase hreg hroom]
  exact ⟨_, rfl, buffers_retire pa _ strong false, retire_ending _⟩

end

/-- Lines of a buffer do not depend on the marks of its stores. -/
theorem bufLines_strong (l : List BufStore) (pa : Nat) (bs : List Byte) :
    bufLines (l ++ [bufEntry pa bs true false]) = bufLines (l ++ [bufEntry pa bs false false]) := by
  simp only [bufLines, List.flatMap_append]
  rfl

/-- At a wide scope the side leaves the mark of a word that stands alone. -/
theorem ending_of_sides {s t : State} {c : BitVec 3} {acq rel : Bool} (h : Sides s t c acq rel) (hbase : isBase s.me = false) (hc : 4 ≤ c.toNat)
    (hside : acq = true ∨ rel = true) : t.cur.ending = true := by
  unfold Sides at h
  rw [if_neg (by simp [hbase]), if_pos ⟨hc, hside⟩] at h
  obtain ⟨-, -, rfl⟩ := h
  rfl

theorem orderedAccesses : OrderedAccesses := by
  intro s s1 s2 s3 s4 d a b c ea x pa hin ha hme3 hme4 hcur hreg f hf n bs room
  obtain ⟨hlda, hstl, hstmc, hn⟩ := exec_ordered d a b c f hf
  have hroom (h : room) : (bufLines ((s3.thrOf s3.me).chunk.stores ++ [bufEntry pa bs false false])).length ≤ 32 := hme3.symm ▸ h
  have hbase3 : isBase s3.me = false := hme3 ▸ hin.1
  have hme1 : s1.me = s.me := State.src_me _ _ _ _ ha
  refine ⟨fun hsides hacc hopen hstores => ?_, fun hb hme2 => ⟨fun hsides hacc hr => ?_, fun hc hacc hr => ?_, fun hc halone hs4 hacc hr => ?_,
    fun hc halone hdrained => ?_, fun hc hfirst hready => ?_⟩⟩
  · rw [hlda, ldaOp_of hin ha hsides, load_hbm hacc hbase3 hreg (hme3 ▸ hstores) hn hopen]
    refine ⟨_, rfl, pends_retire _ _ _, fun hc => ?_⟩
    rw [retire_ending, pending_cur, hcur]
    exact ending_of_sides hsides (hme1 ▸ hin.1) hc (.inl rfl)
  · obtain ⟨t, ht, hbuf, hend⟩ := buffers_runWord_store s hacc hbase3 hreg false (hroom hr)
    rw [hstl, stlOp_eq hin ha hb, sides_of hsides]
    refine ⟨t, ht, hbuf, fun hc => ?_⟩
    rw [hend, hcur]
    exact ending_of_sides hsides (hme2 ▸ hin.1) hc (.inr rfl)
  · obtain ⟨t, ht, hbuf, -⟩ := buffers_runWord_store s hacc hbase3 hreg false (hroom hr)
    have hnarrow : wideScope c = false := by simpa [wideScope_eq] using hc
    rw [hstmc, stmcOp_eq hin ha hb, hnarrow]
    exact ⟨t, ht, hbuf⟩
  · obtain ⟨t, ht, hbuf, hend⟩ := buffers_runWord_store s hacc hbase3 hreg true (by rw [bufLines_strong]; exact hroom hr)
    have hwide : wideScope c = true := by simpa [wideScope_eq] using hc
    rw [hstmc, stmcOp_eq hin ha hb, hwide, if_pos rfl, alone_of (hme2 ▸ hin.1) halone, ← hs4]
    exact ⟨t, ht, hbuf, by rw [hend, hcur, hs4]; rfl⟩
  · rw [hstl, stlOp_eq hin ha hb, sides_stall_wide (hme2 ▸ hin.1) hc halone (hme2 ▸ hdrained)]
    rfl
  · have hnarrow : s2.sides c false true = s2.markRelease c := by
      simp [State.sides, wideScope_eq, hme2, hin.1, hc]
    rw [hstl, stlOp_eq hin ha hb, hnarrow, markRelease_stall (hme2 ▸ hfirst) (hme2 ▸ hready)]
    rfl

/-! ### Fences (07_memory_model.md R143) -/

/-- Nothing but the record of the row differs, which is `g`. -/
structure OnlyRecord (s u : State) (g : Thr) : Prop where
  word : SameWord s u
  rest : Elsewhere s u
  others : ∀ p, p ≠ s.me → u.thrOf p = s.thrOf p
  own : u.thrOf s.me = g

theorem OnlyRecord.refl (s : State) : OnlyRecord s s (s.thrOf s.me) := ⟨.refl s, elsewhere_refl s, fun _ _ => rfl, rfl⟩

theorem OnlyRecord.modThr {s u : State} {g : Thr} (h : OnlyRecord s u g) (f : Thr → Thr) : OnlyRecord s (u.modThr u.me f) (f g) := by
  refine ⟨h.word.modThr _ f, ⟨h.rest.cycle, h.rest.core, h.rest.quad, h.rest.oct, h.rest.clu, h.rest.ten, h.rest.pkg, h.rest.nodes, h.rest.teams,
    h.rest.bdc, h.rest.banks, h.rest.pip, h.rest.uncorr, h.rest.sel, h.rest.schedule, h.rest.seq⟩, fun p hp => ?_, ?_⟩
  · rw [State.thrOf_modThr, h.word.me, if_neg (Ne.symm hp), h.others p hp]
  · rw [State.thrOf_modThr, h.word.me, if_pos rfl, h.own]

theorem OnlyRecord.of_eq {s u : State} {g g' : Thr} (h : OnlyRecord s u g) (e : g = g') : OnlyRecord s u g' := e ▸ h

theorem OnlyRecord.retire {s u : State} {g : Thr} (h : OnlyRecord s u g) :
    u.retire.cur.ended = .completed ∧ Moves s u.retire s.me ∧ Elsewhere s u.retire ∧ OnlyPc s u.retire s.me ∧ u.retire.mem = s.mem ∧
      (∀ p, p ≠ s.me → u.retire.thrOf p = s.thrOf p) ∧ u.retire.thrOf s.me = g := by
  refine ⟨State.retire_ended _, moves_retire (h.word.ctlOf _) h.word.me h.word.slot h.word.pc h.word.jump, elsewhere_retire h.rest,
    onlyPc_retire h.word.ctlOf h.word.me, ?_, fun p hp => ?_, ?_⟩
  · rw [State.retire_mem, h.word.mem]
  · rw [State.retire_at_thrOf, h.others p hp]
  · rw [State.retire_at_thrOf, h.own]

/-- What a fence of a scope up to `CLUSTER` makes of its row's record `t0`. -/
def fenceRecord (t0 : Thr) (q : Release) (acq rel wide : Bool) : Thr :=
  { t0 with
    loads := if acq then t0.loads.map fun l => { l with acq := l.acq || !l.vec } else t0.loads
    fence := if rel then some (q.both t0.fence) else t0.fence
    chunk := { t0.chunk with release := if rel then some (q.both t0.chunk.release) else t0.chunk.release, ended := t0.chunk.ended || (acq && rel && wide) } }

theorem fence_narrow {s : State} {c : BitVec 3} {r : BitVec 2} (hin : InThread s) (hc : c.toNat < 4)
    (hrel : r.getLsbD 1 = true → s.releaseReady s.me { before := s.seq, stores := c != 0 } = true ∨
      ((s.thrOf s.me).chunk.steps ≠ 0 ∧ (s.thrOf s.me).chunk.limit ≠ 1)) :
    ∃ u, exec (.fence c r) s = .next u.retire ∧
      OnlyRecord s u (fenceRecord (s.thrOf s.me) { before := s.seq, stores := c != 0 } (r.getLsbD 0) (r.getLsbD 1) (c != 0)) := by
  have hnarrow : wideScope c = false := by simpa [wideScope_eq] using hc
  have hexec : exec (.fence c r) s = execFence c r s := rfl
  rw [hexec]
  simp only [execFence, threadOnly_of hin, bind, Except.bind, hnarrow, Bool.false_eq_true, if_false]
  cases hacq : r.getLsbD 0 <;> cases hr : r.getLsbD 1
  · exact ⟨s, rfl, (OnlyRecord.refl s).of_eq (by simp [fenceRecord])⟩
  · simp only [if_true, markRelease_of (hrel hr), Bool.false_and, Bool.false_eq_true, if_false]
    exact ⟨_, rfl, (((OnlyRecord.refl s).modThr _).modThr _).of_eq (by simp [fenceRecord]; rfl)⟩
  · simp only [if_true, Bool.and_false, Bool.false_and, Bool.false_eq_true, if_false]
    exact ⟨_, rfl, ((OnlyRecord.refl s).modThr _).of_eq (by simp [fenceRecord])⟩
  · cases hwide : c != 0
    · simp only [if_true, markRelease_of (hrel hr), hwide, Bool.and_false, Bool.false_eq_true, if_false]
      exact ⟨_, rfl, ((((OnlyRecord.refl s).modThr _).modThr _).modThr _).of_eq (by simp [fenceRecord]; rfl)⟩
    · simp only [if_true, markRelease_of (hrel hr), hwide, Bool.and_true]
      exact ⟨_, rfl, (((((OnlyRecord.refl s).modThr _).modThr _).modThr _).modThr _).of_eq (by simp [fenceRecord]; rfl)⟩

theorem fences : Fences := by
  intro s c r hin q acq rel t0
  have hexec : exec (.fence c r) s = execFence c r s := rfl
  refine ⟨fun hc halone hdone => ?_, fun hc halone hdone => ?_, fun hc hrel hready hfirst => ?_, fun hc hrel => ?_⟩
  · have hwide : wideScope c = true := by simpa [wideScope_eq] using hc
    have hall : (s.modCur fun x => { x with ending := true }).afterAll = .ok () := afterAll_of hdone
    simp only [hexec, execFence, threadOnly_of hin, bind, Except.bind, hwide, if_true, alone_of hin.1 halone, hall]
    have k := KeepsPlace.ending s.cur
    exact ⟨_, rfl, (passes_retire _).of_modCur, (moves_retire_self _).of_modCur k, retire_ending _⟩
  · have hwide : wideScope c = true := by simpa [wideScope_eq] using hc
    have hall : (s.modCur fun x => { x with ending := true }).afterAll = stall := afterAll_stall hdone
    simp only [hexec, execFence, threadOnly_of hin, bind, Except.bind, hwide, if_true, alone_of hin.1 halone, hall]
    rfl
  · have hnarrow : wideScope c = false := by simpa [wideScope_eq] using hc
    have hmark : s.markRelease c = stall := markRelease_stall hfirst hready
    simp only [hexec, execFence, threadOnly_of hin, bind, Except.bind, hnarrow, Bool.false_eq_true, if_false, show r.getLsbD 1 = true from hrel, if_true,
      hmark]
    rfl
  · obtain ⟨u, hu, honly⟩ := fence_narrow hin hc hrel
    exact ⟨_, hu, honly.retire⟩

/-- Settles O30: results (`atomicResults`), places where an atomic completes (`atomics`), ordered accesses and fences. -/
theorem atomicsAndOrder : Obligations.AtomicsAndOrder := ⟨atomicResults, atomics, orderedAccesses, fences⟩

end Sys2Proof.Says
end

section
namespace Sys2Proof.Says
open Sys2Proof.Machine

/-! ## Rows open (02_rows.md R40, R41, R44) -/

/-! ### The turn scheduler's order -/

/-- The order by which the turn scheduler prefers rows: effective priority, the row put first, the longest READY, the lowest number. -/
theorem before_iff (s : State) (a b : Nat) : s.before a b = true ↔ s.effNow b < s.effNow a ∨ s.effNow a = s.effNow b ∧
    ((s.thrOf b).first.toNat < (s.thrOf a).first.toNat ∨ (s.thrOf a).first.toNat = (s.thrOf b).first.toNat ∧
      ((s.thrOf a).readyAt < (s.thrOf b).readyAt ∨ (s.thrOf a).readyAt = (s.thrOf b).readyAt ∧ a < b)) := by
  unfold State.before
  by_cases hpri : s.effNow a = s.effNow b
  · by_cases hready : (s.thrOf a).readyAt = (s.thrOf b).readyAt
    · cases hx : (s.thrOf a).first <;> cases hy : (s.thrOf b).first <;> simp [hpri, hx, hy, hready]
    · cases hx : (s.thrOf a).first <;> cases hy : (s.thrOf b).first <;> simp [hpri, hx, hy, hready]
  · simp [hpri]

/-- Of two rows that `a` is not preferred to by turns, the second is no worse than the first. -/
theorem before_trans {s : State} {a b c : Nat} (h : s.before a b = false) (k : s.before c b = true) : s.before a c = false := by
  rw [Bool.eq_false_iff, ne_eq, before_iff] at h ⊢
  rw [before_iff] at k
  omega

theorem before_irrefl (s : State) (a : Nat) : s.before a a = false := by
  rw [Bool.eq_false_iff, ne_eq, before_iff]
  omega

/-- The best of a list of rows so far. -/
def better (s : State) (best : Option Nat) (r : Nat) : Option Nat :=
  match best with
  | some b => if s.before r b then some r else best
  | none => some r

/-- The fold over the list keeps a row to which none seen is preferred. -/
theorem foldl_better {s : State} : ∀ (l : List Nat) (seen : List Nat) (best : Option Nat),
    (∀ b, best = some b → ∀ a ∈ seen, s.before a b = false) → (best = none → seen = []) →
    ∀ r, l.foldl (better s) best = some r → ∀ a ∈ seen ++ l, s.before a r = false
  | [], seen, best, hbest, _, r, hr, a, ha => hbest r hr a (by simpa using ha)
  | x :: l, seen, best, hbest, hnone, r, hr, a, ha => by
    refine foldl_better l (seen ++ [x]) (better s best x) (fun b hb a ha => ?_) (fun hn => ?_) r hr a (by simpa using ha)
    · cases best with
      | none =>
        obtain rfl : x = b := Option.some.inj hb
        rw [hnone rfl] at ha
        obtain rfl : a = x := by simpa using ha
        exact before_irrefl s a
      | some y =>
        have hy := hbest y rfl
        simp only [better] at hb
        split at hb
        · next hx =>
          obtain rfl : x = b := Option.some.inj hb
          obtain ha | ha := List.mem_append.1 ha
          · exact before_trans (hy a ha) hx
          · obtain rfl : a = x := by simpa using ha
            exact before_irrefl s a
        · next hx =>
          obtain rfl : y = b := Option.some.inj hb
          obtain ha | ha := List.mem_append.1 ha
          · exact hy a ha
          · obtain rfl : a = x := by simpa using ha
            simpa using hx
    · cases best with
      | none => exact absurd hn (by simp [better])
      | some y =>
        simp only [better] at hn
        split at hn <;> exact absurd hn (by simp)

/-- No row that the turn scheduler of the core may open is preferred to the one that it opens. -/
theorem not_before_nextRow {s : State} {c r : Nat} (hgood : s.uncorr = []) (hr : s.nextRow c = some r) {e : Nat × Ctl} (he : e ∈ s.ctl)
    (hready : e.2.state = .ready) (hbase : isBase e.1 = false) (hcore : coreOfRid e.1 = c) (hbank : ∀ q ∈ s.portBanks c, q ≠ rowOfRid e.1 % 64) :
    s.before e.1 r = false := by
  refine foldl_better _ [] none (by simp) (fun _ => rfl) r hr e.1 ?_
  have hfree : bankOfRow (rowOfRid e.1) ∉ s.portBanks c := fun h => hbank _ h rfl
  have hbad : (s.ctlBad e.1).isNone = true := by simp [State.ctlBad, hgood]
  simp only [List.nil_append, State.rowsWhere, List.mem_map, List.mem_filter]
  exact ⟨e, ⟨he, by simp [hready, hbase, onCore, hcore, hbad, hfree]⟩, rfl⟩

/-! ### ROW_OPEN -/

theorem mayOpen_of {s : State} {c : Nat} (hready : s.pkg.ready0.getLsbD (clusterOf c) = true)
    (hheld : (s.cluOf (clusterOf c)).holder = (s.octOf (octetOf c)).tag.toNat) (hbusy : (s.octOf (octetOf c)).busy = false)
    (hquad : (s.quadOf (quadOfCore c)).power = .running) (hswitch : (s.cluOf (clusterOf c)).switch = none) : s.mayOpen c = true := by
  simp [State.mayOpen, hready, hheld, hbusy, hquad, hswitch]

theorem mayOpen_eq_false {s : State} {c : Nat} (h : s.pkg.ready0.getLsbD (clusterOf c) = false ∨
    (s.cluOf (clusterOf c)).holder ≠ (s.octOf (octetOf c)).tag.toNat ∨ (s.quadOf (quadOfCore c)).power ≠ .running) : s.mayOpen c = false := by
  obtain h | h | h := h <;> simp [State.mayOpen, h]

/-- ROW_OPEN while no control entry is uncorrectable. -/
theorem execRowOpen_eq {s : State} (hgood : s.uncorr = []) : exec .rowOpen s =
    if !s.mayOpen s.sel.unit then .next s
    else if (s.cs s.sel.unit).openlim.toNat ≤ ((s.coreOf s.sel.unit).ports.filter fun e => e.2.isSome).length then .next s
    else match s.freePort s.sel.unit, s.nextRow s.sel.unit with
      | some p, some r => .next (s.openRow s.sel.unit p r)
      | _, _ => .next s := by
  have hnone : (s.rowsWhere fun r c => c.state == .ready && !isBase r && onCore s.sel.unit r && (s.ctlBad r).isSome && !(s.thrOf r).eccSeen) = [] := by
    simp [State.rowsWhere, State.ctlBad, hgood]
  have hexec : exec .rowOpen s = execRowOpen s := rfl
  rw [hexec]
  simp only [execRowOpen, hnone] <;> rfl

/-- The state in which a row stands open on a port. -/
theorem openRow_eq {s : State} {c p r : Nat} (hgood : s.uncorr = []) :
    s.openRow c p r = ((((s.modCtl r fun x => { x with state := .opened, wait := 0, wake := 0 }).moved r).modThr r fun t =>
      { t with effPri := (s.ctlOf r).pri.toNat, first := false }).modCore c fun x =>
        { x with ports := tset x.ports p (some { row := rowOfRid r, phase := .opening, busy := s.cycle + 4 }) }) := by
  have hnone : s.uncorrAt (rowAddr r) 320 = none := by simp [State.uncorrAt, hgood]
  simp only [State.openRow, hnone]
  simp [State.moved]

theorem onlyEntry_openRow {s : State} {c p r : Nat} (hgood : s.uncorr = []) : OnlyEntry s (s.openRow c p r) r ∧
    (s.openRow c p r).ctlOf r = { s.ctlOf r with state := .opened, wait := 0, wake := 0 } ∧
    ∀ q, (tget none ((s.openRow c p r).coreOf c).ports q : Option Port)
      = if p = q then some { row := rowOfRid r, phase := .opening, busy := s.cycle + 4 } else tget none (s.coreOf c).ports q := by
  rw [openRow_eq hgood]
  refine ⟨⟨fun q hq => ?_, ?_⟩, ?_, fun q => ?_⟩
  · simp [State.moved, Ne.symm hq]
  · simp [State.moved]
  · simp [State.moved]
  · simp [State.moved]

/-! ### OPEN_COMPLETE and PRIORITY_RISE -/

/-- A port that a step names, changed in its place. -/
theorem onlyCore_modPort (s : State) (c p : Nat) (x : Option Port) :
    OnlyCore s (s.modCore c fun k => { k with ports := tset k.ports p x }) c ∧
      (tget none ((s.modCore c fun k => { k with ports := tset k.ports p x }).coreOf c).ports p : Option Port) = x := by
  refine ⟨⟨rfl, fun k hk => ?_⟩, ?_⟩
  · rw [State.coreOf_modCore, if_neg (Ne.symm hk)]
  · simp

theorem execOpenComplete_of {s : State} {x : Port} (hx : (tget none (s.coreOf s.sel.unit).ports s.sel.sub : Option Port) = some x)
    (hphase : x.phase = .opening) (hdef : (s.thrOf (ridOf s.sel.unit x.row)).deferred = []) (hbusy : x.busy ≤ s.cycle) :
    exec .openComplete s = .next (s.modCore s.sel.unit fun k => { k with ports := tset k.ports s.sel.sub (some { x with phase := .running }) }) := by
  have hexec : exec .openComplete s = execOpenComplete s := rfl
  have hport : s.portAt s.sel.unit s.sel.sub = some x := hx
  rw [hexec]
  simp only [execOpenComplete, hport, hdef, List.length_nil, State.applyDeferred]
  exact if_neg (by simp [hphase, hbusy])

theorem execOpenComplete_early {s : State} {x : Port} (hx : (tget none (s.coreOf s.sel.unit).ports s.sel.sub : Option Port) = some x)
    (hbusy : s.cycle < x.busy) : exec .openComplete s = .next s := by
  have hexec : exec .openComplete s = execOpenComplete s := rfl
  have hport : s.portAt s.sel.unit s.sel.sub = some x := hx
  rw [hexec]
  simp only [execOpenComplete, hport]
  exact if_pos (.inr hbusy)

/-- A level counted by PRIORITY_RISE is no longer counted by the time. -/
theorem rise_div {eff now rise level : Nat} (hlevel : 0 < level) (h : level ≤ now - rise) :
    min 3 (eff + 1 + (now - (rise + level)) / level) = min 3 (eff + (now - rise) / level) := by
  have hdiv : (now - rise) / level = (now - (rise + level)) / level + 1 := by
    rw [← Nat.sub_sub, Nat.div_eq_sub_div hlevel h]
  omega

theorem rowOpens : RowOpens := by
  intro s c o
  refine ⟨fun p r hready hheld hbusy hquad hswitch hgood hlim hport hrow => ⟨fun e he hes hbase hcore hbank => ?_, ?_⟩, fun hlim hgood => ?_, fun h => ?_,
    fun x hx hphase hdef => ⟨fun hbusy => ?_, fun hbusy => execOpenComplete_early hx hbusy⟩, ?_⟩
  · have hnot := not_before_nextRow hgood hrow he hes hbase hcore hbank
    rw [Bool.eq_false_iff, ne_eq, before_iff] at hnot
    refine ⟨by omega, fun heff => ⟨fun hfirst => ?_, fun hfirst => ?_⟩⟩
    · cases hr : (s.thrOf r).first with
      | true => rfl
      | false => rw [hfirst, hr] at hnot; simp only [Bool.toNat_true, Bool.toNat_false] at hnot; omega
    · rw [hfirst] at hnot
      omega
  · obtain ⟨honly, hctl, hports⟩ := onlyEntry_openRow (c := c) (p := p) (r := r) hgood
    refine ⟨s.openRow c p r, ?_, hctl, honly, (hports p).trans (if_pos rfl), fun q hq => (hports q).trans (if_neg (Ne.symm hq))⟩
    rw [execRowOpen_eq hgood, mayOpen_of hready hheld hbusy hquad hswitch, if_neg (by simp), if_neg (Nat.not_le.2 hlim),
      show s.freePort s.sel.unit = some p from hport, show s.nextRow s.sel.unit = some r from hrow]
  · rw [execRowOpen_eq hgood, if_pos hlim]
    split <;> rfl
  · have hexec : exec .rowOpen s = execRowOpen s := rfl
    rw [hexec, execRowOpen, if_pos]
    rw [mayOpen_eq_false h]
    rfl
  · obtain ⟨honly, hat⟩ := onlyCore_modPort s c s.sel.sub (some { x with phase := .running })
    exact ⟨_, execOpenComplete_of hx hphase hdef hbusy, honly, hat⟩
  · have hexec : exec .priorityRise s = execPriorityRise s := rfl
    refine ⟨rfl, fun hready heff hlevel => ?_, fun h => ?_⟩
    · have hrise : exec .priorityRise s = .next _ := hexec.trans (if_pos ⟨hready, heff, hlevel⟩)
      refine ⟨_, hrise, rfl, (State.thrOf_modThr _ _ _ _).trans (if_pos rfl), fun hpos => ?_⟩
      rw [State.effNow, State.thrOf_modThr, if_pos (show ridOf s.sel.unit s.sel.sub = stepRow s from rfl)]
      exact rise_div hpos hlevel
    · refine hexec.trans (if_neg ?_)
      rintro ⟨hready, heff, -⟩
      exact h.elim (· hready) (fun h => absurd heff (Nat.not_lt.2 h))

end Sys2Proof.Says
end

section
namespace Sys2Proof.Machine

/-! ## A row that waits for nothing, while others are woken

Holding a row gives back what it had claimed, and other rows may be woken for that (09_memory_sync.md R164, R268). None of it concerns the row itself: it waits for nothing. -/

/-! ### Members of tables and sorted lists -/

theorem eq_of_mem_tinsert {α : Type} {i : Nat} {v : α} {e : Nat × α} : ∀ {t : Tab α}, e ∈ tinsert i v t → e = (i, v) ∨ e ∈ t
  | [], h => by simpa [tinsert] using h
  | (k, x) :: t, h => by
    simp only [tinsert] at h
    split at h
    · exact List.mem_cons.1 h
    · obtain h | h := List.mem_cons.1 h
      · exact .inr (h ▸ List.mem_cons_self)
      · exact (eq_of_mem_tinsert h).imp_right (List.mem_cons_of_mem _)

/-- An entry of a table after one index is changed: the new one, or an old one of another index. -/
theorem mem_tset {α : Type} {t : Tab α} {i : Nat} {v : α} {e : Nat × α} (h : e ∈ tset t i v) : e = (i, v) ∨ e ∈ t ∧ e.1 ≠ i :=
  (eq_of_mem_tinsert h).imp_right fun h => ⟨(List.mem_filter.1 h).1, not_mem_terase i t e h⟩

theorem mem_of_mem_insBy {key : Nat → Nat} {x y : Nat} : ∀ {l : List Nat}, y ∈ insBy key x l → y = x ∨ y ∈ l
  | [], h => by simpa [insBy] using h
  | z :: l, h => by
    simp only [insBy] at h
    split at h
    · exact List.mem_cons.1 h
    · obtain h | h := List.mem_cons.1 h
      · exact .inr (h ▸ List.mem_cons_self)
      · exact (mem_of_mem_insBy h).imp_right (List.mem_cons_of_mem _)

theorem mem_of_mem_sortBy {key : Nat → Nat} {y : Nat} : ∀ {l : List Nat}, y ∈ sortBy key l → y ∈ l
  | [], h => h
  | _ :: _, h => (mem_of_mem_insBy h).elim (fun h => h ▸ List.mem_cons_self) fun h => List.mem_cons_of_mem _ (mem_of_mem_sortBy h)

/-! ### The predicate -/

/-- What a stop and a hold leave in a row's record. -/
def Thr.mark (t : Thr) : Option StopWhy × RowState × Option StopWhy := (t.stop, t.saved, t.heldBy)

/-- A row with this control entry and these marks waits for nothing: it is not BLOCKED or SLEEPING, nor HELD over that. -/
def Awake (c : Ctl) (g : Option StopWhy × RowState × Option StopWhy) : Prop :=
  c.state ≠ .blocked ∧ c.state ≠ .sleeping ∧ (c.state = .held → g.2.1 ≠ .blocked ∧ g.2.1 ≠ .sleeping)

/-- Memory is `m`, and the row `r` has the control entry `c`, listed as nothing else, and the marks `g`. -/
structure Rests (m : Mem) (r : Nat) (c : Ctl) (g : Option StopWhy × RowState × Option StopWhy) (s : State) : Prop where
  mem : s.mem = m
  entries : ∀ e ∈ s.ctl, e.1 = r → e.2 = c
  ctl : s.ctlOf r = c
  mark : (s.thrOf r).mark = g

namespace Rests
variable {m : Mem} {r : Nat} {c : Ctl} {g : Option StopWhy × RowState × Option StopWhy} {s t : State}

/-- Changes elsewhere. -/
theorem frame (h : Rests m r c g s) (hmem : t.mem = s.mem) (hctl : t.ctl = s.ctl) (hthr : t.thr = s.thr) : Rests m r c g t :=
  ⟨hmem.trans h.mem, hctl ▸ h.entries, by rw [State.ctlOf, hctl]; exact h.ctl, by rw [State.thrOf, hthr]; exact h.mark⟩

theorem modCore (h : Rests m r c g s) (k : Nat) (f : Core → Core) : Rests m r c g (s.modCore k f) := h.frame rfl rfl rfl
theorem modLoaded (h : Rests m r c g s) (k : Nat) (f : CState → CState) : Rests m r c g (s.modLoaded k f) := h.frame rfl rfl rfl
theorem modCs (h : Rests m r c g s) (k ten : Nat) (f : CState → CState) : Rests m r c g (s.modCs k ten f) := h.frame rfl rfl rfl
theorem modClu (h : Rests m r c g s) (k : Nat) (f : Cluster → Cluster) : Rests m r c g (s.modClu k f) := h.frame rfl rfl rfl

/-- A change of any row's record that keeps its marks. -/
theorem modThr (h : Rests m r c g s) (w : Nat) (f : Thr → Thr) (hf : ∀ t, (f t).mark = t.mark) : Rests m r c g (s.modThr w f) := by
  refine ⟨h.mem, h.entries, h.ctl, ?_⟩
  rw [State.thrOf_modThr]
  split
  · next hw => rw [hf, hw, h.mark]
  · exact h.mark

/-- A change of another row's control entry. -/
theorem modCtl (h : Rests m r c g s) {w : Nat} (hw : w ≠ r) (f : Ctl → Ctl) : Rests m r c g (s.modCtl w f) := by
  refine ⟨h.mem, fun e he hr => ?_, ?_, h.mark⟩
  · obtain rfl | ⟨he, -⟩ := mem_tset he
    · exact absurd hr hw
    · exact h.entries e he hr
  · rw [State.ctlOf_modCtl, if_neg hw, h.ctl]

theorem makeReady (h : Rests m r c g s) {w : Nat} (hw : w ≠ r) : Rests m r c g (s.makeReady w) := by
  unfold State.makeReady State.enterReady State.moved
  dsimp only
  refine Rests.modThr (Rests.modThr (h.modCtl hw _) w _ ?_) w _ ?_
  all_goals exact fun _ => rfl

theorem noteIdle (h : Rests m r c g s) (w : Nat) : Rests m r c g (s.noteIdle w) := by
  unfold State.noteIdle
  split
  · exact h
  · exact h.frame rfl rfl rfl

/-! ### Waking -/

section
variable (ha : Awake c g)
include ha

theorem wakeRow (h : Rests m r c g s) (w : Nat) : Rests m r c g (s.wakeRow w) := by
  obtain ⟨hblocked, hsleeping, hheld⟩ := ha
  have hc := h.ctl
  unfold State.wakeRow
  dsimp only
  split
  · next hw =>
    refine h.makeReady ?_
    rintro rfl
    rw [hc] at hw
    simp [hblocked, hsleeping] at hw
  · split
    · next hw =>
      refine ⟨h.mem, h.entries, h.ctl, ?_⟩
      rw [State.thrOf_modThr]
      split
      · next hwr =>
        subst hwr
        have hsaved : (s.thrOf w).saved = g.2.1 := congrArg (·.2.1) h.mark
        rw [hc, hsaved] at hw
        simp only [Bool.and_eq_true, Bool.or_eq_true, beq_iff_eq] at hw
        exact absurd hw.2 (by simp [hheld hw.1])
      · exact h.mark
    · exact h

theorem wakeAll (h : Rests m r c g s) (l : List Nat) : Rests m r c g (s.wakeAll l) := by
  unfold State.wakeAll
  induction l generalizing s with
  | nil => exact h
  | cons w l ih => exact ih (h.wakeRow ha w)

/-- Rows that are BLOCKED by their own entry. -/
theorem ne_of_mem_rowsWhere (h : Rests m r c g s) {p : Nat → Ctl → Bool} (hp : ∀ i x, p i x = true → x.state = .blocked) {w : Nat} (hw : w ∈ s.rowsWhere p) :
    w ≠ r := by
  rintro rfl
  simp only [State.rowsWhere, List.mem_map, List.mem_filter] at hw
  obtain ⟨e, ⟨he, hpe⟩, hew⟩ := hw
  have hstate := hp _ _ hpe
  rw [h.entries e he hew] at hstate
  exact ha.1 hstate

theorem ne_of_mem_qWaiters (h : Rests m r c g s) {q : QRef} {push : Bool} {w : Nat} (hw : w ∈ s.qWaiters q push) : w ≠ r := by
  refine h.ne_of_mem_rowsWhere ha (fun i x hx => ?_) (mem_of_mem_sortBy hw)
  simp only [Bool.and_eq_true, beq_iff_eq] at hx
  exact hx.1.1.1

end

/-! ### Queues -/

theorem modQueue (h : Rests m r c g s) (q : QRef) (f : Queue → Queue) : Rests m r c g (s.modQueue q f) := by
  cases q with
  | core k i => exact h.frame rfl rfl rfl
  | pair k i ten => exact h.frame rfl rfl rfl
  | link k i => exact h.frame rfl rfl rfl

theorem takeRoom (h : Rests m r c g s) (q : QRef) : Rests m r c g (s.takeRoom q) := by
  cases q with
  | core k i => exact h
  | pair k i ten => exact h
  | link k i =>
    simp only [State.takeRoom]
    split
    · exact h
    · exact (h.modQueue _ _).modClu _ _

theorem giveRoom (h : Rests m r c g s) (q : QRef) : Rests m r c g (s.giveRoom q) := by
  cases q with
  | core k i => exact h
  | pair k i ten => exact h
  | link k i =>
    simp only [State.giveRoom]
    split
    · exact h
    · exact (h.modQueue _ _).modClu _ _

section
variable (ha : Awake c g)
include ha

theorem serveQueue (n : Nat) (q : QRef) (h : Rests m r c g s) : Rests m r c g (serveQueue n q s) := by
  induction n generalizing s with
  | zero => exact h
  | succ n ih =>
    unfold Machine.serveQueue
    split
    · next w l i hw hi => exact ih ((h.modQueue _ _).makeReady (h.ne_of_mem_qWaiters ha (hw ▸ List.mem_cons_self)))
    · split
      · exact h
      · next w l hw =>
        split
        · exact h
        · split
          · exact ih (((h.takeRoom _).modQueue _ _).makeReady (h.ne_of_mem_qWaiters ha (hw ▸ List.mem_cons_self)))
          · exact h

theorem serve (h : Rests m r c g s) (q : QRef) : Rests m r c g (s.serve q) := by
  unfold State.serve
  dsimp only
  refine wakeAll ha ?_ _
  split
  · exact (h.serveQueue ha _ q).wakeAll ha _
  · exact h.serveQueue ha _ q

/-! ### Claims -/

theorem serveClaims (n : Nat) (cands : State → List Nat) (inScope : Nat → Bool) (code free : Nat) (h : Rests m r c g s) :
    Rests m r c g (s.serveClaims n cands inScope code free) := by
  induction n generalizing s with
  | zero => exact h
  | succ n ih =>
    unfold State.serveClaims
    split
    · exact h
    · split
      · exact h.wakeAll ha _
      · exact ih ((h.wakeRow ha _).modThr _ _ fun _ => rfl)

theorem dropClaim (h : Rests m r c g s) (w : Nat) : Rests m r c g (s.dropClaim w) := by
  have h0 := h.modThr w (fun t => { t with claim := 0 }) fun _ => rfl
  unfold State.dropClaim
  dsimp only
  split_ifs
  · exact h0
  · exact h0.serveClaims ha _ _ _ _ _
  · exact h0.serveClaims ha _ _ _ _ _
  · exact h0.serveClaims ha _ _ _ _ _
  · exact h0.serveClaims ha _ _ _ _ _
  · exact h0.serveClaims ha _ _ _ _ _

theorem freeSlot (h : Rests m r c g s) (core ten tag : Nat) : Rests m r c g (s.freeSlot core ten tag) := by
  unfold State.freeSlot
  dsimp only
  split
  · exact (h.modCs _ _ _).wakeAll ha _
  · exact ((h.modCs _ _ _).modLoaded _ _).wakeRow ha _

theorem dropKept (h : Rests m r c g s) (w : Nat) : Rests m r c g (s.dropKept w) := by
  unfold State.dropKept
  dsimp only
  generalize List.filter _ _ = l
  induction l generalizing s with
  | nil => exact h
  | cons e l ih => exact ih (h.freeSlot ha _ _ _)

theorem dropReservations (h : Rests m r c g s) (w : Nat) : Rests m r c g (s.dropReservations w) := by
  unfold State.dropReservations
  dsimp only
  have h0 := (h.dropClaim ha w).dropKept ha w
  generalize State.qrefsOf _ _ = l
  revert h0
  generalize (s.dropClaim w).dropKept w = u
  intro h0
  induction l generalizing u with
  | nil => exact h0
  | cons q l ih =>
    refine ih _ ?_
    dsimp only
    split
    · refine serve ha (Rests.modQueue ?_ _ _) q
      split
      · exact (h0.modQueue _ _).giveRoom q
      · exact h0
    · exact h0

theorem abandonQueries (h : Rests m r c g s) (w : Nat) : Rests m r c g (s.abandonQueries w) := by
  unfold State.abandonQueries
  dsimp only
  split
  · exact h
  · exact (h.modCore _ _).serveClaims ha _ _ _ _ _

/-! ### Range locks -/

theorem serveLocks (h : Rests m r c g s) (k : Nat) : Rests m r c g (s.serveLocks k) := by
  have hlate (n : Nat) : ∀ {u : State}, Rests m r c g u → Rests m r c g (u.serveLate n k) := by
    induction n with
    | zero => exact fun hu => hu
    | succ n ih =>
      intro u hu
      unfold State.serveLate
      split
      · exact hu
      · split
        · exact ih (hu.modClu _ _)
        · exact hu
  unfold State.serveLocks
  dsimp only
  split
  · exact (hlate _ h).wakeAll ha _
  · split
    · exact (hlate _ h).wakeRow ha _
    · exact hlate _ h

end

theorem unstage (h : Rests m r c g s) (w : Nat) : Rests m r c g (s.unstage w) := h.modCore _ _

end Rests

end Sys2Proof.Machine
end

section
namespace Sys2Proof.Says
open Sys2Proof.Machine

/-! ## Rows close (02_rows.md R41 to R43; 15_traps.md R267) -/

/-- What a row's control entry is once it has closed with a state that waits for nothing. -/
def closedAs (s : State) (r : Nat) (st : RowState) : Ctl := { s.ctlOf r with state := st, wait := 0, wake := 0 }

/-! ### The boundary of a row at rest -/

theorem stepEnds_of_stepDone {s : State} {r : Nat} (h : s.stepDone r = true) : s.stepEnds r = true := by
  unfold State.stepDone State.stepOver at h
  unfold State.stepEnds State.stepOver
  cases hb : isBase r with
  | true => rfl
  | false =>
    rw [hb] at h
    rw [Bool.false_or] at h ⊢
    split at h
    · next x hx =>
      simp only [decide_eq_true_eq] at h ⊢
      exact Nat.le_succ_of_le h
    · exact absurd h (by simp)

/-- A row at rest stands at a boundary as it is. -/
theorem AtRest.boundary {s : State} {r : Nat} (h : AtRest s r) : s.boundary r = (s, true) := by
  obtain ⟨-, hrun, hchunk, hwhole, hdone, hclose, -, hvec⟩ := h
  have hreplay : s.replaying r = false := by simp [State.replaying, hwhole]
  simp [State.boundary, hrun, stepEnds_of_stepDone hdone, hclose, hchunk, hvec, hreplay]

theorem AtRest.closeReady {s : State} {r : Nat} (h : AtRest s r) : s.closeReady r = ((s.closeRow r .ready 0 0).takeMark r, true) := by
  simp [State.closeReady, h.loads, h.boundary]

/-! ### The close to READY -/

/-- The marks that a close to READY leaves: a gating asks no more than the close. -/
def closedMark (t : Thr) : Option StopWhy × RowState × Option StopWhy := (if t.stop = some .gating then none else t.stop, t.saved, t.heldBy)

/-- What a close leaves in the row's record; `n` and `now` say when. -/
def Thr.afterClose (n now : Nat) (t : Thr) : Thr :=
  { t with chunk := {}, turn := 0, blockedAt := n, blockedCycle := now, deferred := [], stop := if t.stop = some .gating then none else t.stop }

/-- A close to READY: ports, grant and the quad's clock aside, the row's record is closed and the row made READY. -/
theorem closeRow_ready_eq (s : State) (r : Nat) : ∃ (u : State) (n : Nat), u.ctl = s.ctl ∧ u.thr = s.thr ∧ u.mem = s.mem ∧
    s.closeRow r .ready 0 0 = ((u.modThr r (Thr.afterClose n u.cycle)).makeReady r).flushDeferred (u.thrOf r).deferred := by
  have hidle (t : State) : (t.noteIdle r).ctl = t.ctl ∧ (t.noteIdle r).thr = t.thr ∧ (t.noteIdle r).mem = t.mem := by
    unfold State.noteIdle
    split <;> exact ⟨rfl, rfl, rfl⟩
  unfold State.closeRow
  dsimp only
  refine ⟨State.noteIdle _ r, _, ?_, ?_, ?_, rfl⟩
  · rw [(hidle _).1]
    split <;> rfl
  · rw [(hidle _).2.1]
    split <;> rfl
  · rw [(hidle _).2.2]
    split <;> rfl

theorem closeRow_ready {s : State} {r : Nat} (hdef : (s.thrOf r).deferred = []) : OnlyEntry s (s.closeRow r .ready 0 0) r ∧
    Rests s.mem r (closedAs s r .ready) (closedMark (s.thrOf r)) (s.closeRow r .ready 0 0) ∧ ((s.closeRow r .ready 0 0).thrOf r).turn = 0 := by
  obtain ⟨u, n, hctl, hthr, hmem, heq⟩ := closeRow_ready_eq s r
  have hc : u.ctlOf r = s.ctlOf r := by rw [State.ctlOf, hctl, State.ctlOf]
  have ht : u.thrOf r = s.thrOf r := by rw [State.thrOf, hthr, State.thrOf]
  rw [heq, ht, hdef]
  have hentry : ((u.modThr r (Thr.afterClose n u.cycle)).makeReady r).ctlOf r = closedAs s r .ready := by
    simp [State.makeReady, State.enterReady, State.moved, hc, closedAs]
  refine ⟨⟨fun q hq => ?_, hmem⟩, ⟨hmem, fun e he hr => ?_, hentry, ?_⟩, ?_⟩
  · have hother : u.ctlOf q = s.ctlOf q := by rw [State.ctlOf, hctl, State.ctlOf]
    simp [State.flushDeferred, State.makeReady, State.enterReady, State.moved, Ne.symm hq, hother]
  · obtain rfl | ⟨-, hne⟩ := mem_tset (t := u.ctl) he
    · exact congrArg (fun c : Ctl => { c with state := .ready, wait := 0, wake := 0 }) hc
    · exact absurd hr hne
  · simp [State.flushDeferred, State.makeReady, State.enterReady, State.moved, ht, Thr.mark, Thr.afterClose, closedMark]
  · simp [State.flushDeferred, State.makeReady, State.enterReady, State.moved]

/-! ### A marked stop taken with the close -/

theorem takeMark_of_stop_none {s : State} {r : Nat} (h : (s.thrOf r).stop = none) : s.takeMark r = s := by
  unfold State.takeMark
  rw [h]

/-- A READY row that no abort stops is held. -/
theorem takeMark_of_ready {s : State} {r : Nat} {why : StopWhy} (h : (s.thrOf r).stop = some why) (hready : (s.ctlOf r).state = .ready)
    (habort : why ≠ .abort) (hgating : why ≠ .gating) : s.takeMark r = (s.modThr r fun t => { t with stop := none }).holdRow r why := by
  unfold State.takeMark
  rw [h, hready]
  cases why <;> simp_all [State.stopRow]

/-- A row at rest that closes for a turn end, for `OPENLIM` or for a gating is READY and no more. -/
theorem AtRest.closeReady_eq {s : State} {r : Nat} (h : AtRest s r) (hdef : (s.thrOf r).deferred = [])
    (hstop : (s.thrOf r).stop = none ∨ (s.thrOf r).stop = some .gating) : (s.closeReady r).1 = s.closeRow r .ready 0 0 := by
  obtain ⟨-, hrests, -⟩ := closeRow_ready hdef
  rw [h.closeReady]
  refine takeMark_of_stop_none ((congrArg (·.1) hrests.mark).trans ?_)
  obtain hstop | hstop := hstop <;> simp [closedMark, hstop]

section
variable {m : Mem} {r : Nat} {c : Ctl} {g : Option StopWhy × RowState × Option StopWhy} {s : State}

/-- A READY row waits for nothing. -/
theorem awake_of_ready (h : c.state = .ready) : Awake c g := by simp [Awake, h]

theorem waits_eq_false_of_ready (h : (s.ctlOf r).state = .ready) (w : Nat) : s.waits r w = false := by simp [State.waits, h]

/-- A row's record and entry as a hold rewrites them. -/
theorem rests_held (h : Rests m r c g s) {why : StopWhy} (f : Thr → Thr) (hf : ∀ t, (f t).mark = (t.stop, .ready, some why)) :
    Rests m r { c with state := .held } (g.1, .ready, some why) (((s.modThr r f).modCtl r fun c => { c with state := .held }).moved r) := by
  obtain ⟨hmem, hentries, hctl, hmark⟩ := h
  refine ⟨hmem, fun e he hr => ?_, ?_, ?_⟩
  · obtain rfl | ⟨-, hne⟩ := mem_tset (t := s.ctl) he
    · exact congrArg (fun c : Ctl => { c with state := .held }) hctl
    · exact absurd hr hne
  · simp [State.moved, hctl]
  · have hstop : (s.thrOf r).stop = g.1 := congrArg (·.1) hmark
    rw [State.moved, State.thrOf_modThr, if_pos rfl]
    change ((s.modThr r f).thrOf r).mark = _
    rw [State.thrOf_modThr, if_pos rfl, hf, hstop]

/-- A READY row held: its saved state is READY, and nothing that others are woken for reaches it. -/
theorem rests_holdRow (h : Rests m r c g s) (hready : c.state = .ready) (why : StopWhy) :
    Rests m r { c with state := .held } (g.1, .ready, some why) (s.holdRow r why) := by
  have hawake : Awake c g := awake_of_ready hready
  have hheld : Awake { c with state := .held } (g.1, .ready, some why) := by simp [Awake]
  have hstate : (s.ctlOf r).state = .ready := by rw [h.ctl, hready]
  have hleft (b : Bool) : Rests m r c g (if b = true then s.dropReservations r else s) := by
    cases b with
    | false => exact h
    | true => exact h.dropReservations hawake r
  unfold State.holdRow
  rw [hstate, if_neg (by simp)]
  dsimp only
  generalize (why == StopWhy.preempt || why == StopWhy.castle) = left
  have hu := hleft left
  generalize (if left = true then s.dropReservations r else s) = u at hu
  have hasks : u.waits r 10 = false := waits_eq_false_of_ready (by rw [hu.ctl, hready]) 10
  rw [hasks, Bool.false_and, if_neg Bool.false_ne_true]
  have hidle := ((hu.unstage r).abandonQueries hawake r).noteIdle r
  have hmoved := rests_held hidle (why := why) (fun t => { t with
    saved := .ready, heldBy := some why, turn := 0, first := false, lockClaim := if left && RowState.ready != .blocked then 0 else t.lockClaim }) fun _ => rfl
  cases left with
  | false => exact hmoved
  | true => exact hmoved.serveLocks hheld _

end

/-! ### TURN_END -/

theorem turnOver_of {s : State} {r : Nat} (hlen : (s.cs (coreOfRid r)).turnlen.toNat ≤ (s.thrOf r).turn) (hp : (s.ctlOf r).p = false)
    (hmid : (s.thrOf r).mid = false)
    (hwaits : ∃ e ∈ s.ctl, e.2.state = .ready ∧ coreOfRid e.1 = coreOfRid r ∧ s.writingBack e.1 = false ∧ (s.ctlOf r).pri.toNat ≤ s.effNow e.1) :
    s.turnOver r = true := by
  obtain ⟨e, he, hready, hcore, hback, hpri⟩ := hwaits
  have hrow : s.rowWaits (coreOfRid r) (s.ctlOf r).pri.toNat = true :=
    List.any_eq_true.2 ⟨e, he, by simp [hready, onCore, hcore, hback, hpri]⟩
  simp [State.turnOver, hlen, hp, hmid, hrow]

theorem turnOver_eq_false {s : State} {r : Nat} (h : (s.ctlOf r).p = true ∨ (s.thrOf r).mid = true ∨
    (s.thrOf r).turn < (s.cs (coreOfRid r)).turnlen.toNat) : s.turnOver r = false := by
  obtain h | h | h := h
  · simp [State.turnOver, h]
  · simp [State.turnOver, h]
  · simp [State.turnOver, Nat.not_le.2 h]

theorem execTurnEnd_eq {s : State} {x : Port} (hx : (tget none (s.coreOf s.sel.unit).ports s.sel.sub : Option Port) = some x) (hphase : x.phase = .running) :
    exec .turnEnd s = .next (if s.turnOver (ridOf s.sel.unit x.row) then (s.closeReady (ridOf s.sel.unit x.row)).1 else s) := by
  have hexec : exec .turnEnd s = execTurnEnd s := rfl
  have hport : s.portAt s.sel.unit s.sel.sub = some x := hx
  rw [hexec]
  simp only [execTurnEnd, hport, hphase]
  cases s.turnOver (ridOf s.sel.unit x.row) <;> rfl

/-! ### OPENLIM_CLOSE -/

/-- The open row with the longest turn so far, with that turn. -/
def longer (s : State) (c : Nat) (best : Option (Nat × Nat)) (e : Nat × Port) : Option (Nat × Nat) :=
  match best with
  | some b => if b.1 < (s.thrOf (ridOf c e.2.row)).turn then some ((s.thrOf (ridOf c e.2.row)).turn, e.2.row) else best
  | none => some ((s.thrOf (ridOf c e.2.row)).turn, e.2.row)

/-- `b` is the row of one of the ports seen, with its turn, and none of their rows has a longer one. -/
def Longest (s : State) (c : Nat) (seen : List (Nat × Port)) (b : Nat × Nat) : Prop :=
  b.1 = (s.thrOf (ridOf c b.2)).turn ∧ (∃ e ∈ seen, e.2.row = b.2) ∧ ∀ e ∈ seen, (s.thrOf (ridOf c e.2.row)).turn ≤ b.1

theorem longest_longer {s : State} {c : Nat} {seen : List (Nat × Port)} {best : Option (Nat × Nat)} {x : Nat × Port}
    (hbest : ∀ b, best = some b → Longest s c seen b) (hnone : best = none → seen = []) {b : Nat × Nat} (hb : longer s c best x = some b) :
    Longest s c (seen ++ [x]) b := by
  cases best with
  | none =>
    obtain rfl := Option.some.inj hb
    rw [hnone rfl]
    simp [Longest]
  | some y =>
    obtain ⟨hturn, ⟨e, he, hrow⟩, hmax⟩ := hbest y rfl
    simp only [longer] at hb
    split at hb
    · next hlt =>
      obtain rfl := Option.some.inj hb
      refine ⟨rfl, ⟨x, by simp, rfl⟩, fun e he => ?_⟩
      obtain he | he := List.mem_append.1 he
      · exact (hmax e he).trans hlt.le
      · obtain rfl : e = x := by simpa using he
        exact le_rfl
    · next hle =>
      obtain rfl := Option.some.inj hb
      refine ⟨hturn, ⟨e, List.mem_append_left _ he, hrow⟩, fun e he => ?_⟩
      obtain he | he := List.mem_append.1 he
      · exact hmax e he
      · obtain rfl : e = x := by simpa using he
        exact Nat.not_lt.1 hle

theorem longest_foldl {s : State} {c : Nat} : ∀ (l seen : List (Nat × Port)) (best : Option (Nat × Nat)),
    (∀ b, best = some b → Longest s c seen b) → (best = none → seen = []) → ∀ b, l.foldl (longer s c) best = some b → Longest s c (seen ++ l) b
  | [], seen, best, hbest, _, b, hb => by simpa using hbest b hb
  | x :: l, seen, best, hbest, hnone, b, hb => by
    have hstep := longest_foldl l (seen ++ [x]) (longer s c best x) (fun b hb => longest_longer hbest hnone hb) (fun hn => ?_) b hb
    · simpa using hstep
    · cases best with
      | none => exact absurd hn (by simp [longer])
      | some y =>
        simp only [longer] at hn
        split at hn <;> exact absurd hn (by simp)

/-- The row that a lowered `OPENLIM` closes is open, and none on the core has more bundles in its turn. -/
theorem longestTurn_spec {s : State} {c row : Nat} (h : s.longestTurn c = some row) : (∃ e ∈ s.openPorts c, e.2.row = row) ∧
    ∀ e ∈ s.openPorts c, (s.thrOf (ridOf c e.2.row)).turn ≤ (s.thrOf (ridOf c row)).turn := by
  obtain ⟨b, hb, rfl⟩ := Option.map_eq_some_iff.1 h
  obtain ⟨hturn, hex, hmax⟩ := longest_foldl (s.openPorts c) [] none (by simp) (fun _ => rfl) b hb
  exact ⟨hex, fun e he => (hmax e he).trans_eq hturn⟩

theorem execOpenlimClose_eq {s : State} {row : Nat} (hlim : (s.cs s.sel.unit).openlim.toNat < (s.openPorts s.sel.unit).length)
    (hrow : s.longestTurn s.sel.unit = some row) : exec .openlimClose s =
      .next (if (s.ctlOf (ridOf s.sel.unit row)).p then s else (s.closeReady (ridOf s.sel.unit row)).1) := by
  have hexec : exec .openlimClose s = execOpenlimClose s := rfl
  rw [hexec]
  simp only [execOpenlimClose, hrow, if_neg (Nat.not_le.2 hlim)]
  cases (s.ctlOf (ridOf s.sel.unit row)).p <;> rfl

/-! ### CLOSE_WRITEBACK -/

/-- The state in which a port is free again. -/
def freed (s : State) (c p : Nat) : State := s.modCore c fun k => { k with ports := terase k.ports p }

theorem execCloseWriteback_eq {s : State} {x : Port} (hx : (tget none (s.coreOf s.sel.unit).ports s.sel.sub : Option Port) = some x)
    (hphase : x.phase = .writeback) : exec .closeWriteback s =
      .next (if s.cycle < x.busy then s else (freed s s.sel.unit s.sel.sub).backDone (ridOf s.sel.unit x.row)) := by
  have hexec : exec .closeWriteback s = execCloseWriteback s := rfl
  have hport : s.portAt s.sel.unit s.sel.sub = some x := hx
  rw [hexec]
  by_cases hlt : s.cycle < x.busy <;> simp [execCloseWriteback, hport, hphase, hlt, freed]

section
variable (s : State) (c p : Nat)

@[simp] theorem ctlOf_freed (r : Nat) : (freed s c p).ctlOf r = s.ctlOf r := rfl
@[simp] theorem waits_freed (r w : Nat) : (freed s c p).waits r w = s.waits r w := rfl

theorem csOf_freed (k ten : Nat) : (freed s c p).csOf k ten = s.csOf k ten := by
  simp only [State.csOf, freed, State.coreOf_modCore]
  split
  · next h => rw [h]
  · rfl

theorem csRow_freed (r : Nat) : (freed s c p).csRow r = s.csRow r := csOf_freed s c p _ _

@[simp] theorem helperOf_freed (r : Nat) : (freed s c p).helperOf r = s.helperOf r := by simp only [State.helperOf, csRow_freed]
@[simp] theorem helpersOf_freed (r : Nat) : (freed s c p).helpersOf r = s.helpersOf r := by simp only [State.helpersOf, csRow_freed]

theorem onlyCore_freed : OnlyCore s (freed s c p) c := by
  refine ⟨rfl, fun k hk => ?_⟩
  rw [freed, State.coreOf_modCore, if_neg (Ne.symm hk)]

theorem ports_freed : ((freed s c p).coreOf c).ports = terase (s.coreOf c).ports p := by simp [freed]

end

/-- Once its port is free, a row that no other port names is not written back. -/
theorem writingBack_freed {s : State} {c p r : Nat} (hcore : coreOfRid r = c)
    (hother : ∀ e ∈ (s.coreOf c).ports, e.1 ≠ p → ∀ y, e.2 = some y → y.row ≠ rowOfRid r) : (freed s c p).writingBack r = false := by
  have hnone : (freed s c p).backPort r = none := by
    unfold State.backPort
    rw [hcore, ports_freed, List.findSome?_eq_none_iff]
    intro e he
    split
    · next y hy => exact if_neg fun h => hother e (List.mem_of_mem_filter he) (not_mem_terase p _ e he) y hy h.1
    · rfl
  rw [State.writingBack, hnone]
  rfl

/-- Waking a row and the end of a write-back leave ports as they are. -/
theorem ports_wakeRow (s : State) (r k : Nat) : ((s.wakeRow r).coreOf k).ports = (s.coreOf k).ports := by
  unfold State.wakeRow
  dsimp only
  split_ifs <;> rfl

theorem ports_modCsRow (s : State) (r k : Nat) (f : CState → CState) : ((s.modCsRow r f).coreOf k).ports = (s.coreOf k).ports := by
  simp only [State.modCsRow, State.modCs, State.coreOf_modCore]
  split
  · next h =>
    subst h
    split <;> rfl
  · rfl

theorem ports_wakeParent (s : State) (c p k : Nat) : ((s.wakeParent c p).coreOf k).ports = (s.coreOf k).ports := by
  unfold State.wakeParent
  dsimp only
  split
  · exact ports_wakeRow s _ k
  · rfl

theorem ports_backDone (s : State) (r k : Nat) : ((s.backDone r).coreOf k).ports = (s.coreOf k).ports := by
  unfold State.backDone
  split
  · rfl
  · dsimp only
    rw [ports_wakeParent]
    split
    · exact ports_modCsRow s r k _
    · rfl

/-- A parent that waits in `HJOIN` for the helper alone wakes with the end of its write-back. -/
theorem wakes_backDone {s : State} {r p : Nat} {h : Helper} (hhelper : s.helperOf r = some h) (hp : ridOf (coreOfRid r) h.parent = p)
    (hexited : (s.ctlOf r).state = .exited) (hwaits : s.waits p 6 = true) (hblocked : (s.ctlOf p).state = .blocked)
    (hjoin : s.joinReady p (s.ctlOf p).wake.toNat = true) : ((s.backDone r).ctlOf p).state = .ready := by
  have hback : s.backDone r = s.wakeRow p := by
    unfold State.backDone
    rw [hhelper]
    simp [hexited, State.wakeParent, hp, hwaits, hjoin]
  rw [hback]
  simp [State.wakeRow, hblocked, State.makeReady, State.enterReady, State.moved]

theorem joinReady_of {s : State} {p r mask : Nat} (hcore : coreOfRid p = coreOfRid r) (hexited : (s.ctlOf r).state = .exited) (hback : s.writingBack r = false)
    (honly : ∀ e ∈ s.helpersOf p, mask.testBit e.1 = true → e.2 = rowOfRid r) : s.joinReady p mask = true := by
  refine List.all_eq_true.2 fun e he => ?_
  cases hmask : mask.testBit e.1 with
  | false => simp
  | true =>
    have hrow : ridOf (coreOfRid p) e.2 = r := by
      rw [honly e he hmask, hcore, ridOf, coreOfRid, rowOfRid]
      omega
    simp [hrow, hexited, hback]

theorem coreOfRid_ridOf {c row : Nat} (h : row < 2048) : coreOfRid (ridOf c row) = c := by unfold coreOfRid ridOf; omega
theorem rowOfRid_ridOf {c row : Nat} (h : row < 2048) : rowOfRid (ridOf c row) = row := by unfold rowOfRid ridOf; omega

/-! ### ROW_HOLD -/

theorem execRowHold_eq {s : State} {why : StopWhy} (h : (s.thrOf (stepRow s)).stop = some why) :
    exec .rowHold s = .next (if (s.ctlOf (stepRow s)).p then s else (s.closeReady (stepRow s)).1) := by
  have hexec : exec .rowHold s = execRowHold s := rfl
  rw [hexec, execRowHold, show ridOf s.sel.unit s.sel.sub = stepRow s from rfl]
  simp only [h]
  cases (s.ctlOf (stepRow s)).p <;> rfl

/-- A stop other than an abort, taken with the close of a row at rest. -/
theorem AtRest.rests_closeReady {s : State} {r : Nat} (h : AtRest s r) (hdef : (s.thrOf r).deferred = []) {why : StopWhy}
    (hstop : (s.thrOf r).stop = some why) (habort : why ≠ .abort) (hgating : why ≠ .gating) :
    Rests s.mem r (closedAs s r .held) (none, .ready, some why) (s.closeReady r).1 := by
  obtain ⟨-, hrests, -⟩ := closeRow_ready hdef
  have hmark : ((s.closeRow r .ready 0 0).thrOf r).stop = some why := (congrArg (·.1) hrests.mark).trans (by simp [closedMark, hstop, hgating])
  rw [h.closeReady, takeMark_of_ready hmark (by rw [hrests.ctl]; rfl) habort hgating]
  refine rests_holdRow (g := (none, (s.thrOf r).saved, (s.thrOf r).heldBy)) (c := closedAs s r .ready) ?_ rfl why
  refine ⟨hrests.mem, hrests.entries, hrests.ctl, ?_⟩
  have hsaved : ((s.closeRow r .ready 0 0).thrOf r).saved = (s.thrOf r).saved := congrArg (·.2.1) hrests.mark
  have hheld : ((s.closeRow r .ready 0 0).thrOf r).heldBy = (s.thrOf r).heldBy := congrArg (·.2.2) hrests.mark
  simp [Thr.mark, hsaved, hheld]

/-! ### The parts together -/

theorem closesWriteback {s : State} {x : Port} (hx : (tget none (s.coreOf s.sel.unit).ports s.sel.sub : Option Port) = some x)
    (hphase : x.phase = .writeback) (hbusy : x.busy ≤ s.cycle) : ∃ t, exec .closeWriteback s = .next t ∧
      (tget none (t.coreOf s.sel.unit).ports s.sel.sub : Option Port) = none ∧ (s.helperOf (ridOf s.sel.unit x.row) = none → OnlyCore s t s.sel.unit) ∧
      (∀ h, s.helperOf (ridOf s.sel.unit x.row) = some h → x.row < 2048 → h.parent < 2048 →
        s.waits (ridOf s.sel.unit h.parent) 6 = true → (s.ctlOf (ridOf s.sel.unit h.parent)).state = .blocked →
        (s.ctlOf (ridOf s.sel.unit x.row)).state = .exited →
        (∀ e ∈ (s.coreOf s.sel.unit).ports, e.1 ≠ s.sel.sub → ∀ y, e.2 = some y → y.row ≠ x.row) →
        (∀ e ∈ s.helpersOf (ridOf s.sel.unit h.parent), (s.ctlOf (ridOf s.sel.unit h.parent)).wake.toNat.testBit e.1 = true → e.2 = x.row) →
        (t.ctlOf (ridOf s.sel.unit h.parent)).state = .ready) := by
  refine ⟨_, (execCloseWriteback_eq hx hphase).trans (by rw [if_neg (Nat.not_lt.2 hbusy)]), ?_, fun hnone => ?_, fun h hhelper hrow hparent hwaits hblocked hexited hports honly => ?_⟩
  · rw [ports_backDone, ports_freed, tget_terase, if_pos rfl]
  · have hback : (freed s s.sel.unit s.sel.sub).backDone (ridOf s.sel.unit x.row) = freed s s.sel.unit s.sel.sub := by
      rw [State.backDone, helperOf_freed, hnone]
    rw [hback]
    exact onlyCore_freed _ _ _
  · have hcore := coreOfRid_ridOf (c := s.sel.unit) hrow
    have hat := rowOfRid_ridOf (c := s.sel.unit) hrow
    have hfree : (freed s s.sel.unit s.sel.sub).writingBack (ridOf s.sel.unit x.row) = false :=
      writingBack_freed hcore (by rw [hat]; exact hports)
    refine wakes_backDone ((helperOf_freed _ _ _ _).trans hhelper) (by rw [hcore]) hexited hwaits hblocked ?_
    exact joinReady_of ((coreOfRid_ridOf hparent).trans hcore.symm) hexited hfree (by rw [helpersOf_freed, hat]; exact honly)

theorem rowCloses : RowCloses := by
  intro s c
  refine ⟨fun x hx => ⟨fun hphase hbusy => closesWriteback hx hphase hbusy, fun hphase hbusy => ?_,
    fun hphase hrest hdef hstop hp hmid hlen hwaits => ?_, fun h hphase => ?_⟩, fun row hlim hrow => ?_, fun hlim => ?_, fun why hstop => ⟨fun hp => ?_, fun hrest hdef hp habort => ?_⟩⟩
  · rw [execCloseWriteback_eq hx hphase, if_pos hbusy]
  · obtain ⟨honly, hrests, hturn⟩ := closeRow_ready hdef
    refine ⟨_, ?_, honly, hrests.ctl, hturn⟩
    rw [execTurnEnd_eq hx hphase, if_pos (turnOver_of hlen hp hmid hwaits), hrest.closeReady_eq hdef (.inl hstop)]
  · rw [execTurnEnd_eq hx hphase, turnOver_eq_false h, if_neg Bool.false_ne_true]
  · obtain ⟨hex, hmax⟩ := longestTurn_spec hrow
    refine ⟨hex, hmax, fun hrest hdef hstop hp => ?_, fun hp => ?_⟩
    · obtain ⟨honly, hrests, -⟩ := closeRow_ready hdef
      refine ⟨_, ?_, honly, hrests.ctl⟩
      rw [execOpenlimClose_eq hlim hrow, hp, if_neg Bool.false_ne_true, hrest.closeReady_eq hdef (.inl hstop)]
    · rw [execOpenlimClose_eq hlim hrow, if_pos hp]
  · exact if_pos hlim
  · rw [execRowHold_eq hstop, if_pos hp]
  · refine ⟨(s.closeReady (stepRow s)).1, by rw [execRowHold_eq hstop, hp, if_neg Bool.false_ne_true], ?_⟩
    by_cases hgating : why = .gating
    · subst hgating
      obtain ⟨-, hrests, -⟩ := closeRow_ready hdef
      rw [hrest.closeReady_eq hdef (.inr hstop)]
      exact ⟨hrests.mem, (congrArg (·.1) hrests.mark).trans (by simp [closedMark, hstop]), hrests.ctl, fun h => absurd rfl h⟩
    · have hrests := hrest.rests_closeReady hdef hstop habort hgating
      refine ⟨hrests.mem, congrArg (·.1) hrests.mark, hrests.ctl.trans ?_, fun _ => ⟨congrArg (·.2.1) hrests.mark, congrArg (·.2.2) hrests.mark⟩⟩
      rw [if_neg hgating]
      rfl

/-- Settles O40: the scheduler's fold keeps a row to which no other is preferred; a row at rest closes as it stands, and what its hold gives back wakes no
row that waits for nothing. -/
theorem rowsOpenAndClose : Obligations.RowsOpenAndClose := ⟨rowOpens, rowCloses⟩

end Sys2Proof.Says
end

section
namespace Sys2Proof.Says

/-! ## Decoding drops no bit of a word (03_encoding.md R58, R75) -/

/-- What a word decodes to, if anything, is encoded as that word. -/
def Encodes (w : Nat) (r : Except Reject Instr) : Prop := ∀ i, r = .ok i → encode i = some w

namespace Encodes
variable {w v : Nat} {i : Instr} {r q : Except Reject Instr} {c : Prop} [Decidable c]

theorem error (e : Reject) : Encodes w (.error e) := fun _ h => nomatch h

theorem ok (h : encode i = some v) (hv : v = w) : Encodes w (.ok i) := by
  rintro _ ⟨⟩
  rw [h, hv]

theorem ite (hr : c → Encodes w r) (hq : Encodes w q) : Encodes w (if c then r else q) := by
  split
  · next h => exact hr h
  · exact hq

end Encodes

theorem toNat_fld (n x : Nat) : (fld n x).toNat = x % 2 ^ n := BitVec.toNat_ofNat x n

/-! ### A word is the sum of its fields

One lemma per format of 03_encoding.md R60 and R69 to R73, named after its fields as Syntax.lean spells them (`s`, `i`, `n`, `m`, `p`, `c`, `k`, `r`, `y`,
`sq` are the fields that follow the registers, `I` the 19-bit immediate and `f` an index that stands in a register's place). The hypothesis is what the
decoder tests: the function is `f`, and a field that the format leaves unused is 0. -/

section
variable {w op f : Nat} (hop : w / 16777216 = op)
include hop

theorem word_none (hf : w / 1 % 16777216 = f) : op * 16777216 + f = w := by omega

theorem word_d (hf : w / 1 % 524288 = f) : op * 16777216 + f + (fld 5 (w / 524288)).toNat * 524288 = w := by simp only [toNat_fld]; omega

theorem word_a (hf : w / 1 % 16384 = f ∧ w / 524288 % 32 = 0) : op * 16777216 + f + (fld 5 (w / 16384)).toNat * 16384 = w := by
  simp only [toNat_fld]
  omega

theorem word_b (hf : w / 1 % 512 = f ∧ w / 16384 % 1024 = 0) : op * 16777216 + f + (fld 5 (w / 512)).toNat * 512 = w := by
  simp only [toNat_fld]
  omega

theorem word_da (hf : w / 1 % 16384 = f) : op * 16777216 + f + (fld 5 (w / 524288)).toNat * 524288 + (fld 5 (w / 16384)).toNat * 16384 = w := by
  simp only [toNat_fld]
  omega

theorem word_db (hf : w / 1 % 512 = f ∧ w / 16384 % 32 = 0) :
    op * 16777216 + f + (fld 5 (w / 524288)).toNat * 524288 + (fld 5 (w / 512)).toNat * 512 = w := by
  simp only [toNat_fld]
  omega

theorem word_ab (hf : w / 1 % 512 = f ∧ w / 524288 % 32 = 0) :
    op * 16777216 + f + (fld 5 (w / 16384)).toNat * 16384 + (fld 5 (w / 512)).toNat * 512 = w := by
  simp only [toNat_fld]
  omega

theorem word_dab (hf : w / 1 % 512 = f) :
    op * 16777216 + f + (fld 5 (w / 524288)).toNat * 524288 + (fld 5 (w / 16384)).toNat * 16384 + (fld 5 (w / 512)).toNat * 512 = w := by
  simp only [toNat_fld]
  omega

theorem word_ds (hf : w / 16 % 32768 = 0) : op * 16777216 + (fld 5 (w / 524288)).toNat * 524288 + (fld 4 (w / 1)).toNat = w := by
  simp only [toNat_fld]
  omega

theorem word_as (hf : w / 16 % 1024 = 0 ∧ w / 524288 % 32 = 0) : op * 16777216 + (fld 5 (w / 16384)).toNat * 16384 + (fld 4 (w / 1)).toNat = w := by
  simp only [toNat_fld]
  omega

theorem word_das (hf : w / 16 % 1024 = 0) :
    op * 16777216 + (fld 5 (w / 524288)).toNat * 524288 + (fld 5 (w / 16384)).toNat * 16384 + (fld 4 (w / 1)).toNat = w := by
  simp only [toNat_fld]
  omega

theorem word_dI : op * 16777216 + (fld 5 (w / 524288)).toNat * 524288 + (fld 19 (w / 1)).toNat = w := by simp only [toNat_fld]; omega

theorem word_dai : op * 16777216 + (fld 5 (w / 524288)).toNat * 524288 + (fld 5 (w / 16384)).toNat * 16384 + (fld 14 (w / 1)).toNat = w := by
  simp only [toNat_fld]
  omega

theorem word_dfi (hf : w / 16384 % 32 = f) : op * 16777216 + f * 16384 + (fld 5 (w / 524288)).toNat * 524288 + (fld 14 (w / 1)).toNat = w := by
  simp only [toNat_fld]
  omega

theorem word_dan (hf : w / 4096 % 4 = f) :
    op * 16777216 + f * 4096 + (fld 5 (w / 524288)).toNat * 524288 + (fld 5 (w / 16384)).toNat * 16384 + (fld 12 (w / 1)).toNat = w := by
  simp only [toNat_fld]
  omega

theorem word_dam (hf : w / 64 % 256 = f) :
    op * 16777216 + f * 64 + (fld 5 (w / 524288)).toNat * 524288 + (fld 5 (w / 16384)).toNat * 16384 + (fld 6 (w / 1)).toNat = w := by
  simp only [toNat_fld]
  omega

theorem word_danp (hf : w / 4096 % 4 = 0) :
    op * 16777216 + (fld 5 (w / 524288)).toNat * 524288 + (fld 5 (w / 16384)).toNat * 16384 + (fld 6 (w / 64)).toNat * 64 + (fld 6 (w / 1)).toNat = w := by
  simp only [toNat_fld]
  omega

theorem word_dac (hf : w / 1 % 4 = 0 ∧ w / 32 % 512 = f) :
    op * 16777216 + f * 32 + (fld 5 (w / 524288)).toNat * 524288 + (fld 5 (w / 16384)).toNat * 16384 + (fld 3 (w / 4)).toNat * 4 = w := by
  simp only [toNat_fld]
  omega

theorem word_abc (hf : w / 1 % 4 = 0 ∧ w / 32 % 16 = f ∧ w / 524288 % 32 = 0) :
    op * 16777216 + f * 32 + (fld 5 (w / 16384)).toNat * 16384 + (fld 5 (w / 512)).toNat * 512 + (fld 3 (w / 4)).toNat * 4 = w := by
  simp only [toNat_fld]
  omega

theorem word_dabk (hf : w / 1 % 8 = 0 ∧ w / 32 % 16 = f) :
    op * 16777216 + f * 32 + (fld 5 (w / 524288)).toNat * 524288 + (fld 5 (w / 16384)).toNat * 16384 + (fld 5 (w / 512)).toNat * 512 +
      (fld 2 (w / 8)).toNat * 8 = w := by
  simp only [toNat_fld]
  omega

theorem word_dabcr (hf : w / 32 % 16 = f) :
    op * 16777216 + f * 32 + (fld 5 (w / 524288)).toNat * 524288 + (fld 5 (w / 16384)).toNat * 16384 + (fld 5 (w / 512)).toNat * 512 +
      (fld 3 (w / 4)).toNat * 4 + (fld 2 (w / 1)).toNat = w := by
  simp only [toNat_fld]
  omega

theorem word_dabp (hf : w / 1 % 256 = f) :
    op * 16777216 + f + (fld 5 (w / 524288)).toNat * 524288 + (fld 5 (w / 16384)).toNat * 16384 + (fld 5 (w / 512)).toNat * 512 +
      (fld 1 (w / 256)).toNat * 256 = w := by
  simp only [toNat_fld]
  omega

theorem word_dabpr (hf : w / 1 % 32 = f) :
    op * 16777216 + f + (fld 5 (w / 524288)).toNat * 524288 + (fld 5 (w / 16384)).toNat * 16384 + (fld 5 (w / 512)).toNat * 512 +
      (fld 1 (w / 256)).toNat * 256 + (fld 3 (w / 32)).toNat * 32 = w := by
  simp only [toNat_fld]
  omega

theorem word_vday (hf : w / 1 % 512 = f ∧ w / 4096 % 16 = 0) :
    op * 16777216 + f + (fld 4 (w / 1048576)).toNat * 1048576 + (fld 4 (w / 65536)).toNat * 65536 + (fld 3 (w / 512)).toNat * 512 = w := by
  simp only [toNat_fld]
  omega

theorem word_vdaby (hf : w / 1 % 512 = f) :
    op * 16777216 + f + (fld 4 (w / 1048576)).toNat * 1048576 + (fld 4 (w / 65536)).toNat * 65536 + (fld 4 (w / 4096)).toNat * 4096 +
      (fld 3 (w / 512)).toNat * 512 = w := by
  simp only [toNat_fld]
  omega

theorem word_vdabysq (hf : w / 1 % 2 = f) :
    op * 16777216 + f + (fld 4 (w / 1048576)).toNat * 1048576 + (fld 4 (w / 65536)).toNat * 65536 + (fld 4 (w / 4096)).toNat * 4096 +
      (fld 3 (w / 512)).toNat * 512 + (fld 6 (w / 8)).toNat * 8 + (fld 2 (w / 2)).toNat * 2 = w := by
  simp only [toNat_fld]
  omega

theorem word_gay (hf : w / 1 % 256 = f ∧ w / 2048 % 16 = 0) :
    op * 16777216 + f + (fld 5 (w / 524288)).toNat * 524288 + (fld 4 (w / 32768)).toNat * 32768 + (fld 3 (w / 256)).toNat * 256 = w := by
  simp only [toNat_fld]
  omega

theorem word_gaby (hf : w / 1 % 256 = f) :
    op * 16777216 + f + (fld 5 (w / 524288)).toNat * 524288 + (fld 4 (w / 32768)).toNat * 32768 + (fld 4 (w / 2048)).toNat * 2048 +
      (fld 3 (w / 256)).toNat * 256 = w := by
  simp only [toNat_fld]
  omega
end

/-! ### Each major opcode, and the word -/

section
open Encodes
variable {w : Nat}

theorem encodes_major0 (hop : w / 16777216 = 0) : Encodes w (decodeMajor0 w) := by
  unfold decodeMajor0
  iterate 3 refine .ite (fun hf => .ok rfl (word_none hop hf)) ?_
  refine .ite (fun hf => .ok rfl (word_b hop hf)) ?_
  refine .ite (fun hf => .ok rfl (word_a hop hf)) ?_
  refine .ite (fun hf => .ok rfl (word_none hop hf)) ?_
  refine .ite (fun hf => .ok rfl (word_none hop hf)) ?_
  iterate 4 refine .ite (fun hf => .ok rfl (word_a hop hf)) ?_
  refine .ite (fun hf => .ok rfl (word_none hop hf)) ?_
  refine .ite (fun hf => .ok rfl (word_ab hop hf)) ?_
  refine .ite (fun hf => .ok rfl (word_a hop hf)) ?_
  refine .ite (fun hf => .ok rfl (word_d hop hf)) ?_
  refine .ite (fun hf => .ok rfl (word_d hop hf)) ?_
  exact .error _

theorem encodes_major9 (hop : w / 16777216 = 9) : Encodes w (decodeMajor9 w) := by
  unfold decodeMajor9
  iterate 7 refine .ite (fun hf => .ok rfl (word_dfi hop hf)) ?_
  exact .error _

theorem encodes_major10 (hop : w / 16777216 = 10) : Encodes w (decodeMajor10 w) := by
  unfold decodeMajor10
  iterate 4 refine .ite (fun hf => .ok rfl (word_dfi hop hf)) ?_
  exact .error _

theorem encodes_major11 (hop : w / 16777216 = 11) : Encodes w (decodeMajor11 w) :=
  .ite (fun hf => .ok rfl (word_dab hop hf)) (.error _)

theorem encodes_major12 (hop : w / 16777216 = 12) : Encodes w (decodeMajor12 w) := by
  unfold decodeMajor12
  refine .ite (fun hf => .ok rfl (word_dac hop hf)) ?_
  refine .ite (fun hf => .ok rfl (word_dac hop hf)) ?_
  iterate 4 refine .ite (fun hf => .ok rfl (word_abc hop hf)) ?_
  refine .ite (fun hf => .ok rfl (by simp only [toNat_fld]; omega)) ?_
  exact .error _

theorem encodes_major29 (hop : w / 16777216 = 29) : Encodes w (decodeMajor29 w) := by
  unfold decodeMajor29
  iterate 13 refine .ite (fun hf => .ok rfl (word_dabk hop hf)) ?_
  exact .error _

theorem encodes_major30 (hop : w / 16777216 = 30) : Encodes w (decodeMajor30 w) := by
  unfold decodeMajor30
  iterate 10 refine .ite (fun hf => .ok rfl (word_dabcr hop hf)) ?_
  exact .error _

theorem encodes_major31 (hop : w / 16777216 = 31) : Encodes w (decodeMajor31 w) := by
  unfold decodeMajor31
  iterate 10 refine .ite (fun hf => .ok rfl (word_dabcr hop hf)) ?_
  exact .error _

theorem encodes_major32 (hop : w / 16777216 = 32) : Encodes w (decodeMajor32 w) :=
  .ite (fun hf => .ok rfl (word_ab hop hf)) (.error _)

theorem encodes_major33 (hop : w / 16777216 = 33) : Encodes w (decodeMajor33 w) :=
  .ite (fun hf => .ok rfl (word_db hop hf)) (.error _)

theorem encodes_major34 (hop : w / 16777216 = 34) : Encodes w (decodeMajor34 w) := by
  unfold decodeMajor34
  refine .ite (fun hf => .ok rfl (word_db hop hf)) ?_
  refine .ite (fun hf => .ok rfl (word_db hop hf)) ?_
  exact .error _

theorem encodes_major35 (hop : w / 16777216 = 35) : Encodes w (decodeMajor35 w) := by
  unfold decodeMajor35
  refine .ite (fun hf => .ok rfl (word_ab hop hf)) ?_
  refine .ite (fun hf => .ok rfl (word_d hop hf)) ?_
  refine .ite (fun hf => .ok rfl (word_ab hop hf)) ?_
  refine .ite (fun hf => .ok rfl (word_d hop hf)) ?_
  exact .error _

theorem encodes_major36 (hop : w / 16777216 = 36) : Encodes w (decodeMajor36 w) := by
  unfold decodeMajor36
  refine .ite (fun hf => .ok rfl (by simp only [toNat_fld]; omega)) ?_
  refine .ite (fun hf => .ok rfl (by simp only [toNat_fld]; omega)) ?_
  exact .error _

theorem encodes_major37 (hop : w / 16777216 = 37) : Encodes w (decodeMajor37 w) :=
  .ite (fun hf => .ok rfl (word_a hop hf)) (.error _)

theorem encodes_major40 (hop : w / 16777216 = 40) : Encodes w (decodeMajor40 w) :=
  .ite (fun hf => .ok rfl (word_ds hop hf)) (.error _)

theorem encodes_major41 (hop : w / 16777216 = 41) : Encodes w (decodeMajor41 w) :=
  .ite (fun hf => .ok rfl (word_ds hop hf)) (.error _)

theorem encodes_major42 (hop : w / 16777216 = 42) : Encodes w (decodeMajor42 w) :=
  .ite (fun hf => .ok rfl (word_ds hop hf)) (.error _)

theorem encodes_major43 (hop : w / 16777216 = 43) : Encodes w (decodeMajor43 w) :=
  .ite (fun hf => .ok rfl (word_ds hop hf)) (.error _)

theorem encodes_major44 (hop : w / 16777216 = 44) : Encodes w (decodeMajor44 w) :=
  .ite (fun hf => .ok rfl (word_ds hop hf)) (.error _)

theorem encodes_major45 (hop : w / 16777216 = 45) : Encodes w (decodeMajor45 w) :=
  .ite (fun hf => .ok rfl (word_d hop hf)) (.error _)

theorem encodes_major46 (hop : w / 16777216 = 46) : Encodes w (decodeMajor46 w) :=
  .ite (fun hf => .ok rfl (word_as hop hf)) (.error _)

theorem encodes_major47 (hop : w / 16777216 = 47) : Encodes w (decodeMajor47 w) :=
  .ite (fun hf => .ok rfl (word_as hop hf)) (.error _)

theorem encodes_major48 (hop : w / 16777216 = 48) : Encodes w (decodeMajor48 w) :=
  .ite (fun hf => .ok rfl (word_as hop hf)) (.error _)

theorem encodes_major49 (hop : w / 16777216 = 49) : Encodes w (decodeMajor49 w) :=
  .ite (fun hf => .ok rfl (word_as hop hf)) (.error _)

theorem encodes_major50 (hop : w / 16777216 = 50) : Encodes w (decodeMajor50 w) :=
  .ite (fun hf => .ok rfl (by simp only [toNat_fld]; omega)) (.error _)

theorem encodes_major51 (hop : w / 16777216 = 51) : Encodes w (decodeMajor51 w) :=
  .ite (fun hf => .ok rfl (word_das hop hf)) (.error _)

theorem encodes_major52 (hop : w / 16777216 = 52) : Encodes w (decodeMajor52 w) :=
  .ite (fun hf => .ok rfl (word_ds hop hf)) (.error _)

theorem encodes_major53 (hop : w / 16777216 = 53) : Encodes w (decodeMajor53 w) :=
  .ite (fun hf => .ok rfl (word_ab hop hf)) (.error _)

theorem encodes_major54 (hop : w / 16777216 = 54) : Encodes w (decodeMajor54 w) :=
  .ite (fun hf => .ok rfl (word_a hop hf)) (.error _)

theorem encodes_major55 (hop : w / 16777216 = 55) : Encodes w (decodeMajor55 w) :=
  .ite (fun hf => .ok rfl (by simp only [toNat_fld]; omega)) (.error _)

theorem encodes_major56 (hop : w / 16777216 = 56) : Encodes w (decodeMajor56 w) :=
  .ite (fun hf => .ok rfl (word_das hop hf)) (.error _)

theorem encodes_major57 (hop : w / 16777216 = 57) : Encodes w (decodeMajor57 w) :=
  .ite (fun hf => .ok rfl (word_a hop hf)) (.error _)

theorem encodes_major58 (hop : w / 16777216 = 58) : Encodes w (decodeMajor58 w) := by
  unfold decodeMajor58
  refine .ite (fun hf => .ok rfl (word_dab hop hf)) ?_
  refine .ite (fun hf => .ok rfl (word_dab hop hf)) ?_
  exact .error _

theorem encodes_major59 (hop : w / 16777216 = 59) : Encodes w (decodeMajor59 w) :=
  .ite (fun hf => .ok rfl (word_da hop hf)) (.error _)

theorem encodes_major60 (hop : w / 16777216 = 60) : Encodes w (decodeMajor60 w) :=
  .ite (fun hf => .ok rfl (word_a hop hf)) (.error _)

theorem encodes_major61 (hop : w / 16777216 = 61) : Encodes w (decodeMajor61 w) := by
  unfold decodeMajor61
  refine .ite (fun hf => .ok rfl (word_da hop hf)) ?_
  refine .ite (fun hf => .ok rfl (word_dab hop hf)) ?_
  exact .error _

theorem encodes_major62 (hop : w / 16777216 = 62) : Encodes w (decodeMajor62 w) := by
  unfold decodeMajor62
  refine .ite (fun hf => .ok rfl (by simp only [toNat_fld]; omega)) ?_
  iterate 3 refine .ite (fun hf => .ok rfl (word_dan hop hf)) ?_
  exact .error _

theorem encodes_major63 (hop : w / 16777216 = 63) : Encodes w (decodeMajor63 w) := by
  unfold decodeMajor63
  refine .ite (fun hf => .ok rfl (word_b hop hf)) ?_
  refine .ite (fun hf => .ok rfl (word_db hop hf)) ?_
  refine .ite (fun hf => .ok rfl (word_a hop hf)) ?_
  refine .ite (fun hf => .ok rfl (word_db hop hf)) ?_
  refine .ite (fun hf => .ok rfl (word_ab hop hf)) ?_
  exact .error _

theorem encodes_major64 (hop : w / 16777216 = 64) : Encodes w (decodeMajor64 w) := by
  unfold decodeMajor64
  iterate 26 refine .ite (fun hf => .ok rfl (word_dab hop hf)) ?_
  exact .error _

theorem encodes_major65 (hop : w / 16777216 = 65) : Encodes w (decodeMajor65 w) := by
  unfold decodeMajor65
  iterate 8 refine .ite (fun hf => .ok rfl (word_dab hop hf)) ?_
  exact .error _

theorem encodes_major66 (hop : w / 16777216 = 66) : Encodes w (decodeMajor66 w) := by
  unfold decodeMajor66
  iterate 5 refine .ite (fun hf => .ok rfl (word_da hop hf)) ?_
  exact .error _

theorem encodes_major67 (hop : w / 16777216 = 67) : Encodes w (decodeMajor67 w) :=
  .ite (fun hf => .ok rfl (word_danp hop hf)) (.error _)

theorem encodes_major68 (hop : w / 16777216 = 68) : Encodes w (decodeMajor68 w) :=
  .ite (fun hf => .ok rfl (word_danp hop hf)) (.error _)

theorem encodes_major69 (hop : w / 16777216 = 69) : Encodes w (decodeMajor69 w) :=
  .ite (fun hf => .ok rfl (word_danp hop hf)) (.error _)

theorem encodes_major76 (hop : w / 16777216 = 76) : Encodes w (decodeMajor76 w) := by
  unfold decodeMajor76
  iterate 4 refine .ite (fun hf => .ok rfl (word_dam hop hf)) ?_
  exact .error _

theorem encodes_major80 (hop : w / 16777216 = 80) : Encodes w (decodeMajor80 w) := by
  unfold decodeMajor80
  iterate 4 refine .ite (fun hf => .ok rfl (word_dabpr hop hf)) ?_
  refine .ite (fun hf => .ok rfl (by simp only [toNat_fld]; omega)) ?_
  iterate 5 refine .ite (fun hf => .ok rfl (word_dabp hop hf)) ?_
  refine .ite (fun hf => .ok rfl (by simp only [toNat_fld]; omega)) ?_
  iterate 3 refine .ite (fun hf => .ok rfl (word_dabp hop hf)) ?_
  exact .error _

theorem encodes_major81 (hop : w / 16777216 = 81) : Encodes w (decodeMajor81 w) :=
  .ite (fun hf => .ok rfl (word_dabpr hop hf)) (.error _)

theorem encodes_major82 (hop : w / 16777216 = 82) : Encodes w (decodeMajor82 w) :=
  .ite (fun hf => .ok rfl (word_dabpr hop hf)) (.error _)

theorem encodes_major83 (hop : w / 16777216 = 83) : Encodes w (decodeMajor83 w) :=
  .ite (fun hf => .ok rfl (by simp only [toNat_fld]; omega)) (.error _)

theorem encodes_major96 (hop : w / 16777216 = 96) : Encodes w (decodeMajor96 w) := by
  unfold decodeMajor96
  iterate 5 refine .ite (fun hf => .ok rfl (word_vdaby hop hf)) ?_
  iterate 3 refine .ite (fun hf => .ok rfl (word_vday hop hf)) ?_
  exact .error _

theorem encodes_major97 (hop : w / 16777216 = 97) : Encodes w (decodeMajor97 w) :=
  .ite (fun hf => .ok rfl (word_vdaby hop hf)) (.error _)

theorem encodes_major98 (hop : w / 16777216 = 98) : Encodes w (decodeMajor98 w) :=
  .ite (fun hf => .ok rfl (word_vdaby hop hf)) (.error _)

theorem encodes_major99 (hop : w / 16777216 = 99) : Encodes w (decodeMajor99 w) := by
  unfold decodeMajor99
  iterate 6 refine .ite (fun hf => .ok rfl (word_vdaby hop hf)) ?_
  exact .error _

theorem encodes_major100 (hop : w / 16777216 = 100) : Encodes w (decodeMajor100 w) := by
  unfold decodeMajor100
  iterate 3 refine .ite (fun hf => .ok rfl (word_gaby hop hf)) ?_
  exact .error _

theorem encodes_major101 (hop : w / 16777216 = 101) : Encodes w (decodeMajor101 w) :=
  .ite (fun hf => .ok rfl (by simp only [toNat_fld]; omega)) (.error _)

theorem encodes_major102 (hop : w / 16777216 = 102) : Encodes w (decodeMajor102 w) := by
  unfold decodeMajor102
  iterate 3 refine .ite (fun hf => .ok rfl (word_gay hop hf)) ?_
  exact .error _

theorem encodes_major103 (hop : w / 16777216 = 103) : Encodes w (decodeMajor103 w) := by
  unfold decodeMajor103
  iterate 4 refine .ite (fun hf => .ok rfl (word_vday hop hf)) ?_
  exact .error _

theorem encodes_major104 (hop : w / 16777216 = 104) : Encodes w (decodeMajor104 w) :=
  .ite (fun hf => .ok rfl (by simp only [toNat_fld]; omega)) (.error _)

theorem encodes_major105 (hop : w / 16777216 = 105) : Encodes w (decodeMajor105 w) := by
  unfold decodeMajor105
  refine .ite (fun hf => .ok rfl (word_vdabysq hop hf)) ?_
  refine .ite (fun hf => .ok rfl (word_vdabysq hop hf)) ?_
  exact .error _

theorem encodes_major106 (hop : w / 16777216 = 106) : Encodes w (decodeMajor106 w) :=
  .ite (fun hf => .ok rfl (word_vdaby hop hf)) (.error _)

theorem encodes_major107 (hop : w / 16777216 = 107) : Encodes w (decodeMajor107 w) :=
  .ite (fun hf => .ok rfl (by simp only [toNat_fld]; omega)) (.error _)

theorem encodes_major108 (hop : w / 16777216 = 108) : Encodes w (decodeMajor108 w) :=
  .ite (fun hf => .ok rfl (by simp only [toNat_fld]; omega)) (.error _)

theorem encodes_major109 (hop : w / 16777216 = 109) : Encodes w (decodeMajor109 w) :=
  .ite (fun hf => .ok rfl (by simp only [toNat_fld]; omega)) (.error _)

theorem encodes_major110 (hop : w / 16777216 = 110) : Encodes w (decodeMajor110 w) :=
  .ite (fun hf => .ok rfl (word_gaby hop hf)) (.error _)

theorem encodes_major111 (hop : w / 16777216 = 111) : Encodes w (decodeMajor111 w) :=
  .ite (fun hf => .ok rfl (word_vdaby hop hf)) (.error _)

theorem encodes_decodeWord (hw : w < 2 ^ 31) : Encodes w (decodeWord w) := by
  have hop : w / 16777216 % 128 = w / 16777216 := by omega
  unfold decodeWord
  rw [hop]
  split
  · next h => exact encodes_major0 h
  · next h => exact .ok rfl (word_dai h)
  · next h => exact .ok rfl (word_dai h)
  · next h => exact .ok rfl (word_dai h)
  · next h => exact .ok rfl (word_dai h)
  · next h => exact .ok rfl (word_dai h)
  · next h => exact .ok rfl (word_dai h)
  · next h => exact .ok rfl (word_dI h)
  · next h => exact .ok rfl (word_dai h)
  · next h => exact encodes_major9 h
  · next h => exact encodes_major10 h
  · next h => exact encodes_major11 h
  · next h => exact encodes_major12 h
  · next h => exact .ok rfl (word_dai h)
  · next h => exact .ok rfl (word_dai h)
  · next h => exact .ok rfl (word_dai h)
  · next h => exact .ok rfl (word_dai h)
  · next h => exact .ok rfl (word_dai h)
  · next h => exact .ok rfl (word_dai h)
  · next h => exact .ok rfl (word_dai h)
  · next h => exact .ok rfl (word_dai h)
  · next h => exact .ok rfl (word_dai h)
  · next h => exact .ok rfl (word_dai h)
  · next h => exact .ok rfl (word_dai h)
  · next h => exact .ok rfl (word_dai h)
  · next h => exact .ok rfl (word_dai h)
  · next h => exact encodes_major29 h
  · next h => exact encodes_major30 h
  · next h => exact encodes_major31 h
  · next h => exact encodes_major32 h
  · next h => exact encodes_major33 h
  · next h => exact encodes_major34 h
  · next h => exact encodes_major35 h
  · next h => exact encodes_major36 h
  · next h => exact encodes_major37 h
  · next h => exact encodes_major40 h
  · next h => exact encodes_major41 h
  · next h => exact encodes_major42 h
  · next h => exact encodes_major43 h
  · next h => exact encodes_major44 h
  · next h => exact encodes_major45 h
  · next h => exact encodes_major46 h
  · next h => exact encodes_major47 h
  · next h => exact encodes_major48 h
  · next h => exact encodes_major49 h
  · next h => exact encodes_major50 h
  · next h => exact encodes_major51 h
  · next h => exact encodes_major52 h
  · next h => exact encodes_major53 h
  · next h => exact encodes_major54 h
  · next h => exact encodes_major55 h
  · next h => exact encodes_major56 h
  · next h => exact encodes_major57 h
  · next h => exact encodes_major58 h
  · next h => exact encodes_major59 h
  · next h => exact encodes_major60 h
  · next h => exact encodes_major61 h
  · next h => exact encodes_major62 h
  · next h => exact encodes_major63 h
  · next h => exact encodes_major64 h
  · next h => exact encodes_major65 h
  · next h => exact encodes_major66 h
  · next h => exact encodes_major67 h
  · next h => exact encodes_major68 h
  · next h => exact encodes_major69 h
  · next h => exact .ok rfl (word_dai h)
  · next h => exact .ok rfl (word_dai h)
  · next h => exact .ok rfl (word_dai h)
  · next h => exact .ok rfl (word_dai h)
  · next h => exact .ok rfl (word_dai h)
  · next h => exact .ok rfl (word_dai h)
  · next h => exact encodes_major76 h
  · next h => exact .ok rfl (word_dI h)
  · next h => exact .ok rfl (word_dI h)
  · next h => exact encodes_major80 h
  · next h => exact encodes_major81 h
  · next h => exact encodes_major82 h
  · next h => exact encodes_major83 h
  · next h => exact encodes_major96 h
  · next h => exact encodes_major97 h
  · next h => exact encodes_major98 h
  · next h => exact encodes_major99 h
  · next h => exact encodes_major100 h
  · next h => exact encodes_major101 h
  · next h => exact encodes_major102 h
  · next h => exact encodes_major103 h
  · next h => exact encodes_major104 h
  · next h => exact encodes_major105 h
  · next h => exact encodes_major106 h
  · next h => exact encodes_major107 h
  · next h => exact encodes_major108 h
  · next h => exact encodes_major109 h
  · next h => exact encodes_major110 h
  · next h => exact encodes_major111 h
  · exact .error _

end

/-- Settles O3: each arm of the decoder tests or keeps every field of its format, so the fields of the instruction sum up to the word. -/
theorem encodeDecode : Obligations.EncodeDecode := fun _ i hw h => encodes_decodeWord hw i h

end Sys2Proof.Says
end

section
namespace Sys2Proof.Laws.RoundTrip

/-- The round trip of each instruction, for the instruction that is given. -/
theorem statement (i : Instr) : Statement i :=
  Instr.casesOn (motive := Statement) i
    nop texit yield trap tret fenceI waitmsg ssync setpri sleepuntil hjoin chunk tlbinv pgate cycle mbxpop beq bne blt bge bltu bgeu jal jalr ldrB ldrH
    ldrW ldrD ldrBu ldrHu ldrWu strB strH strW strD hstart ldaW ldaD stlW stlD stmcW stmcD fence ldb ldh ldw ldd ldbu ldhu ldwu vld stb sth stw std vst
    ldxB ldxH ldxW ldxD ldxBu ldxHu ldxWu ldxV stxB stxH stxW stxD stxV atomwAdd atomwSwap atomwCas atomwAnd atomwOr atomwXor atomwMin atomwMax atomwMinu
    atomwMaxu atomdAdd atomdSwap atomdCas atomdAnd atomdOr atomdXor atomdMin atomdMax atomdMinu atomdMaxu qpush qpop qcntHeld qcntFree sendH sendP sendHe
    sendPe recv recvDl bar xcopy xgather xscatter xreduce sbind sunbind tbinit tbwait skdef skupd skupdv skqry skadd skscl skclr skstat gdef gdel apply
    applyq nwait nabort cyield cresume csrr csrw csrs csrc launch launchq signal nbcmd nhsend add sub and or xor andn shl shr sar rol ror min max minu
    maxu slt sltu seq sne cmovz cmovnz addw subw shlw shrw sarw mul mulh mulhu mulw div divu rem remu clz ctz popc brev bswap exts extz ins addi andi ori
    xori slti sltiu shli shri sari rori lui auipc fadd fsub fmul fdiv fsqrt fmin fmax feq flt fle fclass fsgnj fsgnjn fsgnjx ffma ffms fcvt vadd vsub vmul
    vmax vmin vabs vneg vmov vfma vfms vand vor vxor vshl vshr vsar vcmpEq vcmpLt vcmpLe vsel vredSum vredMax vredMin vexp2 vlog2 vrcp vrsq vcvt vquantMx
    vquantGq vperm vbcast vins vext vdot vscale reset firmwareImage spdmRequest functionReady functionRetire hostAccess ctlMakeThread ctlStart ctlStop
    ctlResume ctlMakeData ctlFieldWrite ctlRedirect controlRequest outsideAccess rowOpen openComplete closeWriteback turnEnd priorityRise openlimClose
    openlimWrite turnlenWrite hpoolWrite chunkCommit commitGrant outboundDrain loadPerform vectorBind vectorLand packetEntry packetTimeout
    barrierWordWrite deadlineWake stalemateInterval fqtailAdvance rowHold eccScrub tlbWalk faultIn cowService barReentry migrationStart migrationLineCopy
    linePull commandStart engineBeat commandComplete copy pageshare pagedrop pagemove xreduceSum xreduceMax xreduceMin sksum streamRefill mfmt mzero mma
    mmaKblock mout mbias msignal sketchCounterOp skqryResult launchInstall signalDelivery nodeDispatch teamPlacement teamEnd castling castleRestore
    strideChoice switchForced switchExchange gangTick gangSpill gangDieLoad gangLate gangForcedStop gangmaskWrite ticketsWrite leafEnd quadGated
    quadWakeDone powerCompare pwrcapWrite elevatorRetire packetRetry wavelengthDrop flitRetry routeWrite hfrRecord hfrrespServiced hfrrespFailed
    octownReassign scrubDone tenminWrite fnmodeWrite tlbcmdPage tlbcmdTenant tlbcmdIpa tlbcmdAll tlbcmdDone nbmac nbred nbfill nbcopy nhHandlerStart
    registerWrite undecodableWord fetchFault fabricRequest

end Sys2Proof.Laws.RoundTrip

namespace Sys2Proof.Says

/-- Settles O2, by the round trip of each instruction. -/
theorem decodeEncode : Obligations.DecodeEncode := fun i w hw he => Laws.RoundTrip.statement i hw w he

/-- Settles O1: each word is a literal, which the decoder evaluates. -/
theorem manualWordsDecode : Obligations.ManualWordsDecode := by
  unfold Obligations.ManualWordsDecode
  decide

end Sys2Proof.Says
end


section
namespace Sys2Proof.Says
open Sys2Proof.Machine

/-! ## An issue step runs the words of the bundle (03_encoding.md R51 to R56) -/

/-- The bundle that two words are: bit 31 of word 0 says its kind (03_encoding.md R52). -/
def bundleOf (w0 w1 : Nat) : Bundle := if w0 / 2 ^ 31 % 2 = 0 then .pair w0 w1 else .serial w0 w1

theorem decodeBundle_bytesOf {w0 w1 : Nat} (h0 : w0 < 2 ^ 32) (h1 : w1 < 2 ^ 32) :
    decodeBundle (bytesOf 8 (w0 + w1 * 2 ^ 32)) = .ok (bundleOf w0 w1) := by
  have hw0 : (w0 + w1 * 2 ^ 32) % 256 + 256 * ((w0 + w1 * 2 ^ 32) / 256 % 256) + 65536 * ((w0 + w1 * 2 ^ 32) / 65536 % 256) +
      16777216 * ((w0 + w1 * 2 ^ 32) / 16777216 % 256) = w0 := by omega
  have hw1 : (w0 + w1 * 2 ^ 32) / 4294967296 % 256 + 256 * ((w0 + w1 * 2 ^ 32) / 1099511627776 % 256) +
      65536 * ((w0 + w1 * 2 ^ 32) / 281474976710656 % 256) + 16777216 * ((w0 + w1 * 2 ^ 32) / 72057594037927936 % 256) = w1 := by omega
  simp only [bytesOf, decodeBundle, BitVec.toNat_ofNat, Nat.div_div_eq_div_mul, Nat.reduceMul, Nat.reducePow] at hw0 hw1 ⊢
  rw [hw0, hw1]
  exact (apply_ite Except.ok _ _ _).symm

variable {s s0 g s1 : State} {rid pc pa tt w0 w1 : Nat}

theorem fetch_of_fetched (h : Fetched g s1 rid pc pa tt w0 w1) :
    g.fetch rid pc = some (pa, bytesOf 8 (w0 + w1 * 2 ^ 32), s1) := by
  obtain ⟨hxlat, ⟨h3, h4⟩, -, hwords, -⟩ := h
  simp [State.fetch, hxlat, h3, h4, hwords]

theorem prep_of_reaches (h : Reaches s0 g rid) (hf : Fetched g s1 rid (s0.ctlOf rid).pc.toNat pa tt w0 w1) :
    s0.prep rid = s1.checkBundle rid (s0.ctlOf rid).pc.toNat (bundleOf w0 w1) := by
  obtain ⟨hissues, -, hboundary, hbudget, hpacket, hline, hgrant⟩ := h
  unfold State.prep
  rw [hissues, hboundary, if_neg (by simp)]
  dsimp only
  rw [if_neg, if_neg, hline, if_neg (by simp), hgrant]
  · dsimp only
    rw [fetch_of_fetched hf]
    dsimp only
    rw [hf.good, decodeBundle_bytesOf hf.small.1 hf.small.2]
  · split
    · next p hp =>
      obtain hlt | hmid := hpacket p hp
      · simp [hlt]
      · simp [hmid]
    · simp
  · intro hlimit
    simp only [Bool.and_eq_true, Bool.not_eq_true', decide_eq_true_eq] at hlimit
    obtain ⟨⟨hbase, hmid⟩, hle⟩ := hlimit
    obtain hmid' | hlt := hbudget hbase
    · exact absurd hmid (by simp [hmid'])
    · exact absurd hlt (Nat.not_lt.2 hle)

theorem step_of_issue {c r : Nat} {rest : List Action} (h : s.schedule = .issue c r :: rest)
    (hr : Reaches { s with schedule := rest } g (ridOf c r)) :
    step s = State.attempt { s with schedule := rest } (ridOf c r) := by
  simp [step, State.advance, h, State.perform, State.issueStep, hr.first]

theorem bundleOf_serial (h : w0 / 2 ^ 31 = 1) : bundleOf w0 w1 = .serial w0 w1 := if_neg (by rw [h]; decide)

theorem bundleOf_pair (h : w0 / 2 ^ 31 = 0) : bundleOf w0 w1 = .pair w0 w1 := if_pos (by rw [h])

/-- What an attempt makes of the step that was prepared. -/
def outcome : Prep → Out
  | .idle t => .next t
  | .one i t =>
    match exec i t with
    | .next u => .next (u.finishOne t.hadPacket)
    | o => o
  | .two i j t =>
    match exec i t with
    | .next u =>
      match u.cur.ended with
      | .completed | .sleeps _ _ =>
        match exec j u.second with
        | .next v => .next (t.finishTwo v t.hadPacket u.cur.sleeping)
        | o => o
      | _ => .next u
    | o => o

theorem attempt_eq_outcome (s : State) (rid : Nat) : s.attempt rid = outcome (s.prep rid) := rfl

/-- A step that reaches the decoder makes what check 3 and the checks after it prepare. -/
theorem step_eq_outcome {c r : Nat} {rest : List Action} (h : s.schedule = .issue c r :: rest)
    (hr : Reaches { s with schedule := rest } g (ridOf c r))
    (hf : Fetched g s1 (ridOf c r) (({ s with schedule := rest } : State).ctlOf (ridOf c r)).pc.toNat pa tt w0 w1) :
    step s = outcome (s1.checkBundle (ridOf c r) (({ s with schedule := rest } : State).ctlOf (ridOf c r)).pc.toNat (bundleOf w0 w1)) := by
  rw [step_of_issue h hr, attempt_eq_outcome, prep_of_reaches hr hf]

theorem decodeFor_eq_some (s : State) (rid w : Nat) (i : Instr) :
    s.decodeFor rid w = some i ↔ decodeChecked w = .ok i ∧ s.boundDest rid i = false := by
  unfold State.decodeFor
  split
  · next j hd =>
    rw [hd]
    split
    · next hb =>
      refine ⟨nofun, ?_⟩
      rintro ⟨⟨⟩, hi⟩
      exact absurd hb (by simp [hi])
    · next hb =>
      refine ⟨?_, ?_⟩
      · rintro ⟨⟩
        exact ⟨rfl, by simpa using hb⟩
      · rintro ⟨⟨⟩, -⟩
        rfl
  · next e hd =>
    rw [hd]
    exact ⟨nofun, nofun⟩

theorem checkBundle_serial {i : Instr} (hw1 : w1 / 2 ^ 31 = 0) (hi : s.decodeFor rid (if pc % 8 = 0 then w0 % 2 ^ 31 else w1) = some i) :
    s.checkBundle rid pc (.serial w0 w1) =
      .one i ((s.beginChunk rid).at rid pc (if pc % 8 = 0 then .serial0 else .serial1) none) := by
  unfold State.checkBundle
  dsimp only
  rw [hw1, if_neg (by simp)]
  by_cases hpc : pc % 8 = 0
  · rw [if_pos hpc] at hi ⊢
    rw [if_pos (by omega), hi]
  · rw [if_neg hpc] at hi ⊢
    rw [if_neg (by omega), hi]

/-- Settles O7: the fetch of a SERIAL bundle whose word decodes is prepared as that one word. -/
theorem stepRunsWord : Obligations.StepRunsWord := by
  unfold Obligations.StepRunsWord
  intro s g s1 c r pa tt w0 w1 rest i hs s0 pc hr hf hw0 hw1 hi hb s2
  rw [step_eq_outcome hs hr hf, bundleOf_serial hw0, checkBundle_serial hw1 ((decodeFor_eq_some _ _ _ _).2 ⟨hi, hb⟩)]
  rfl

/-! ### The two words of a PAIR -/

/-- Check 3 of a PAIR whose classes are right refuses it (03_encoding.md R56): its words name one
destination, or word 0 is a barrier word. -/
def refused (w0 w1 : Nat) : Bool :=
  match decodeChecked w0, decodeChecked w1 with
  | .ok i, .ok j => conflict i j || barrierWord i
  | .ok i, .error _ => namesDest i w1 || barrierWord i
  | .error _, _ => false

/-- A PAIR entered at word 0, of a C-class and an A-class word with their bits 31 clear (03_encoding.md R52, R56). -/
structure PairAt (pc w0 w1 : Nat) : Prop where
  entry : pc % 8 = 0
  bit1 : w1 / 2 ^ 31 = 0
  class0 : w0 / 2 ^ 30 = 0
  class1 : w1 / 2 ^ 30 = 1

/-- What a PAIR that stands together is prepared as: check 4 and check 5 (03_encoding.md R56, R75). -/
def pairPrep (s : State) (rid pc w0 w1 : Nat) : Prep :=
  match s.decodeFor rid w0, s.decodeFor rid w1 with
  | none, _ => s.prepIllegal rid pc pc
  | some _, none => s.prepIllegal rid pc (pc + 4)
  | some i, some j => .two i j ((s.beginChunk rid).at rid pc .pair0 (some (s.viewOf rid)))

theorem checkBundle_pair (h : PairAt pc w0 w1) : s.checkBundle rid pc (.pair w0 w1) =
    if refused w0 w1 then s.prepIllegal rid pc pc else pairPrep s rid pc w0 w1 := by
  obtain ⟨hpc, hbit, hc0, hc1⟩ := h
  have hbase : pc / 8 * 8 = pc := by omega
  unfold State.checkBundle refused
  simp only [hbase]
  rw [if_neg (by simp), hbit, hc0, hc1, if_neg (by decide)]
  cases decodeChecked w0 with
  | error e => rfl
  | ok i =>
    cases decodeChecked w1 with
    | error e => rfl
    | ok j => rfl

theorem Cur.sleeping_of_completed {c : Cur} (h : c.ended = .completed) : c.sleeping = none := by simp [Cur.sleeping, h]

theorem Cur.sleeping_of_sleeps {c : Cur} {a d : Nat} (h : c.ended = .sleeps a d) : c.sleeping = some (a, d) := by simp [Cur.sleeping, h]

/-- Settles O8: the fetch of a PAIR that check 3 does not refuse is prepared as its two words. -/
theorem stepRunsPair : Obligations.StepRunsPair := by
  unfold Obligations.StepRunsPair
  intro s g s1 c r pa tt w0 w1 rest i j hs s0 pc hr hf hw0 hw1 hc0 hc1 hpc hi hj hconf hbar hbi hbj s2 t ht
  have htogether : refused w0 w1 = false := by simp [refused, hi, hj, hconf, hbar]
  have hstep : step s = outcome (.two i j s2) := by
    rw [step_eq_outcome hs hr hf, bundleOf_pair hw0, checkBundle_pair ⟨hpc, hw1, hc0, hc1⟩, htogether, if_neg Bool.false_ne_true,
      pairPrep, (decodeFor_eq_some s1 _ _ _).2 ⟨hi, hbi⟩, (decodeFor_eq_some s1 _ _ _).2 ⟨hj, hbj⟩]
    rfl
  simp only [outcome, ht] at hstep
  refine ⟨fun hend hsleep => ?_, fun hend u hu => ⟨?_, fun hdone => ⟨fun hcomp => ?_, fun a d hsleeps => ?_⟩⟩⟩
  · rw [hstep]
    split
    · next h => exact absurd h hend
    · next h => exact absurd h (hsleep _ _)
    · rfl
  · have hu' : exec j t.second = .next u := hu
    rw [hstep, hu']
    obtain h | ⟨a, d, h⟩ := hend
    · rw [h]
    · rw [h]
  · simp [State.finishTwo, hdone, Cur.sleeping_of_completed hcomp]
  · simp [State.finishTwo, hdone, Cur.sleeping_of_sleeps hsleeps]

/-! ## A bundle that is no instruction (03_encoding.md R56, R75) -/

theorem checkBundle_serial_bit (h : w1 / 2 ^ 31 = 1) :
    s.checkBundle rid pc (.serial w0 w1) = s.prepIllegal rid (pc / 8 * 8) (pc / 8 * 8) :=
  if_pos (by rw [h])

theorem checkBundle_serial_none (hw1 : w1 / 2 ^ 31 = 0) (h : s.decodeFor rid (if pc % 8 = 0 then w0 % 2 ^ 31 else w1) = none) :
    s.checkBundle rid pc (.serial w0 w1) = s.prepIllegal rid pc pc := by
  unfold State.checkBundle
  dsimp only
  rw [hw1, if_neg (by decide)]
  by_cases hpc : pc % 8 = 0
  · have hbase : pc = pc / 8 * 8 := by omega
    rw [if_pos hpc] at h
    rw [if_pos hbase, h, ← hbase]
  · rw [if_neg hpc] at h
    rw [if_neg (by omega), h]

theorem checkBundle_entry (hpc : pc % 8 ≠ 0) : s.checkBundle rid pc (.pair w0 w1) =
    .idle ((s.at rid pc .serial1 none).stopTrap .entry (BitVec.ofNat 64 pc) none false) :=
  if_pos (by omega)

theorem checkBundle_class (hpc : pc % 8 = 0) (h : w1 / 2 ^ 31 = 1 ∨ w0 / 2 ^ 30 = 1 ∨ w1 / 2 ^ 30 = 0) :
    s.checkBundle rid pc (.pair w0 w1) = s.prepIllegal rid pc pc := by
  have hbase : pc / 8 * 8 = pc := by omega
  unfold State.checkBundle
  simp only [hbase]
  rw [if_neg (by simp), if_pos]
  obtain h | h | h := h
  · exact .inl (by rw [h])
  · exact .inr (.inl (by rw [h]))
  · exact .inr (.inr (by rw [h]))

theorem ended_endChunkNow (s : State) : s.endChunkNow.cur.ended = .stopped ∨ s.endChunkNow.cur.ended = .stalled := by
  unfold State.endChunkNow
  split
  · exact .inl rfl
  · exact .inl rfl
  · exact .inr rfl

theorem ended_stallNow (s : State) (ask : Bool) : (s.stallNow ask).cur.ended = .stopped ∨ (s.stallNow ask).cur.ended = .stalled := by
  unfold State.stallNow
  dsimp only
  split
  · exact ended_endChunkNow s
  · exact .inr rfl

theorem ended_stopTrap (s : State) (c : Cause) (g3 : W) (report : Option (Nat × List W)) (fetch : Bool) :
    (s.stopTrap c g3 report fetch).cur.ended = .stopped ∨ (s.stopTrap c g3 report fetch).cur.ended = .stalled := by
  unfold State.stopTrap
  split
  · exact ended_endChunkNow s
  · split
    · exact ended_stallNow s false
    · exact .inl rfl

theorem execUndecodableWord_ended {s t : State} (hs : s.cur.ended = .running) (h : exec .undecodableWord s = .next t) :
    t.cur.ended ≠ .completed := by
  have hexec : exec .undecodableWord s = execUndecodableWord s := rfl
  rw [hexec, execUndecodableWord] at h
  split at h
  · cases h
    obtain h | h := ended_stopTrap s .illegal (BitVec.ofNat 64 s.sel.unit) none false
    · simp [h]
    · simp [h]
  · cases h
    simp [hs]

/-- UNDECODABLE_WORD at a word of the row (03_encoding.md R75). -/
def reported (s : State) (rid pc word : Nat) : State :=
  { s with cur := { rid := rid, pc := BitVec.ofNat 57 (if isBase rid then word else pc), slot := .serial0 }, sel := { unit := word } }

theorem outcome_prepIllegal (s : State) (rid pc word : Nat) :
    outcome (s.prepIllegal rid pc word) = exec .undecodableWord (reported s rid pc word) := by
  have hexec : outcome (s.prepIllegal rid pc word) =
      match exec .undecodableWord (reported s rid pc word) with
      | .next u => .next (u.finishOne (reported s rid pc word).hadPacket)
      | o => o := rfl
  rw [hexec]
  split
  · next u hu => rw [hu, State.finishOne, if_neg (execUndecodableWord_ended rfl hu)]
  · rfl

theorem badBundleIsUndecodable : BadBundleIsUndecodable := by
  intro s g s1 c r pa tt w0 w1 rest hs s0 rid pc report pair hr hf
  have hstep := step_eq_outcome hs hr hf
  have hill {at' word : Nat} (h : s1.checkBundle rid pc (bundleOf w0 w1) = s1.prepIllegal rid at' word) : step s = report at' word :=
    hstep.trans ((congrArg outcome h).trans (outcome_prepIllegal s1 rid at' word))
  have hpair (h : pair) : PairAt pc w0 w1 ∧ bundleOf w0 w1 = .pair w0 w1 :=
    have ⟨hw0, hw1, hc0, hc1, hpc⟩ := h
    ⟨⟨hpc, hw1, hc0, hc1⟩, bundleOf_pair hw0⟩
  have hrefused (h : pair) (hn : refused w0 w1 = true) : step s = report pc pc := by
    obtain ⟨hp, hb⟩ := hpair h
    exact hill (by rw [hb, checkBundle_pair hp, if_pos hn])
  refine ⟨fun hw0 hw1 => hill ?_, fun hw0 hw1 hnone => hill ?_, fun hw0 hpc => hstep.trans ?_, fun hpc hw0 hclass => hill ?_,
    fun i j hp hi hj hconf => hrefused hp ?_, fun i e hp hi he hnames => hrefused hp ?_, fun i hp hi hbar => hrefused hp ?_,
    fun hp hnone => ?_,
    fun i hp hi hbar hconf hnames hnone => hill ?_, fun w i => decodeFor_eq_some s1 rid w i⟩
  · rw [bundleOf_serial hw0, checkBundle_serial_bit hw1]
  · rw [bundleOf_serial hw0, checkBundle_serial_none hw1 hnone]
  · rw [bundleOf_pair hw0, checkBundle_entry hpc]
    rfl
  · rw [bundleOf_pair hw0, checkBundle_class hpc hclass]
  · simp [refused, hi, hj, hconf]
  · simp [refused, hi, he, hnames]
  · cases hd : decodeChecked w1 <;> simp [refused, hi, hd, hbar]
  · obtain ⟨hp', hb⟩ := hpair hp
    refine hill ?_
    rw [hb, checkBundle_pair hp']
    split
    · rfl
    · rw [pairPrep, hnone]
  · obtain ⟨hp', hb⟩ := hpair hp
    have hstands : refused w0 w1 = false := by
      rw [refused, ((decodeFor_eq_some s1 rid w0 i).1 hi).1]
      cases hd : decodeChecked w1 with
      | error e => simp [hnames e hd, hbar]
      | ok j => simp [hconf j hd, hbar]
    rw [hb, checkBundle_pair hp', hstands, if_neg Bool.false_ne_true, pairPrep, hi, hnone]

end Sys2Proof.Says
end

section
namespace Sys2Proof.Machine

/-! ## A trap that goes to the fault queue (15_traps.md R259, R260)

The row closes to FAULTED, which may wake rows that wait for range-lock entries or a mailbox slot and changes no other row. -/

theorem mem_rowsWhere {s : State} {p : Nat → Ctl → Bool} {r : Nat} (h : r ∈ s.rowsWhere p) : ∃ c, p r c = true := by
  simp only [State.rowsWhere, List.mem_map, List.mem_filter] at h
  obtain ⟨e, ⟨-, hp⟩, rfl⟩ := h
  exact ⟨e.2, hp⟩

/-- From `s` to `t` memory, the row `r` and the handler addresses of teams stay as they are. -/
structure KeepsRow (r : Nat) (s t : State) : Prop where
  mem : t.mem = s.mem
  ctl : t.ctlOf r = s.ctlOf r
  thr : t.thrOf r = s.thrOf r
  handlers : ∀ k, (t.cluOf k).teamhdl = (s.cluOf k).teamhdl

/-- The row `r` waits neither for range-lock entries nor for a mailbox slot. -/
structure Unserved (r : Nat) (s : State) : Prop where
  lockClaim : (s.thrOf r).lockClaim = 0
  slot : s.waits r 3 = false

namespace KeepsRow
variable {r : Nat} {s t u : State}

theorem refl (r : Nat) (s : State) : KeepsRow r s s := ⟨rfl, rfl, rfl, fun _ => rfl⟩

theorem tick (r : Nat) (s : State) : KeepsRow r s s.tick.2 := ⟨rfl, rfl, rfl, fun _ => rfl⟩

theorem noteIdle (r : Nat) (s : State) (w : Nat) : KeepsRow r s (s.noteIdle w) := by
  unfold State.noteIdle
  split
  · exact refl r s
  · exact ⟨rfl, rfl, rfl, fun _ => rfl⟩

theorem trans (h : KeepsRow r s t) (k : KeepsRow r t u) : KeepsRow r s u :=
  ⟨k.mem.trans h.mem, k.ctl.trans h.ctl, k.thr.trans h.thr, fun i => (k.handlers i).trans (h.handlers i)⟩

theorem unserved (h : KeepsRow r s t) (hu : Unserved r s) : Unserved r t :=
  ⟨by rw [h.thr, hu.lockClaim], by rw [← hu.slot, State.waits, State.waits, h.ctl, h.thr]⟩

theorem teamHandler (h : KeepsRow r s t) : t.teamHandler r = s.teamHandler r := by
  rw [State.teamHandler, h.handlers, h.ctl, ← State.teamHandler]

theorem modClu (s : State) (k : Nat) (f : Cluster → Cluster) (hf : (f (s.cluOf k)).teamhdl = (s.cluOf k).teamhdl) :
    KeepsRow r s (s.modClu k f) := by
  refine ⟨rfl, rfl, rfl, fun i => ?_⟩
  rw [State.cluOf_modClu]
  split
  · next h => rw [hf, h]
  · rfl

theorem wakeRow (s : State) {w : Nat} (hw : w ≠ r) : KeepsRow r s (s.wakeRow w) := by
  unfold State.wakeRow
  dsimp only
  split
  · refine ⟨rfl, ?_, ?_, fun _ => rfl⟩
    · simp [State.makeReady, State.enterReady, State.moved, hw]
    · simp [State.makeReady, State.enterReady, State.moved, hw]
  · split
    · exact ⟨rfl, rfl, by simp [hw], fun _ => rfl⟩
    · exact refl r s

theorem wakeAll : ∀ (l : List Nat) (s : State), r ∉ l → KeepsRow r s (s.wakeAll l)
  | [], s, _ => refl r s
  | w :: l, s, h => by
    obtain ⟨hw, hl⟩ := List.ne_and_not_mem_of_not_mem_cons h
    exact (wakeRow s (Ne.symm hw)).trans (wakeAll l (s.wakeRow w) hl)

theorem serveLate (k : Nat) : ∀ (n : Nat) (s : State), KeepsRow r s (s.serveLate n k)
  | 0, s => refl r s
  | n + 1, s => by
    unfold State.serveLate
    split
    · exact refl r s
    · split
      · exact (modClu s k _ rfl).trans (serveLate k n _)
      · exact refl r s

/-- Range-lock entries are given to rows that claim some. -/
theorem serveLocks (k : Nat) (h : Unserved r s) : KeepsRow r s (s.serveLocks k) := by
  have hlate := serveLate (r := r) k (s.cluOf k).late.length s
  have hclaim := (hlate.unserved h).lockClaim
  refine hlate.trans ?_
  unfold State.serveLocks
  dsimp only
  generalize s.serveLate (s.cluOf k).late.length k = u at hclaim
  split
  · refine wakeAll _ _ fun hmem => ?_
    obtain ⟨c, hc⟩ := mem_rowsWhere hmem
    simp [hclaim] at hc
  · next w l hw =>
    have hmem : w ∈ u.lockClaims k := hw ▸ List.mem_cons_self
    obtain ⟨c, hc⟩ := mem_rowsWhere (mem_of_mem_sortBy hmem)
    split
    · refine wakeRow _ ?_
      rintro rfl
      simp [hclaim] at hc
    · exact refl r u

/-- A mailbox slot that is freed goes to a row that waits for one. -/
theorem freeSlot (core ten tag : Nat) (h : Unserved r s) : KeepsRow r s (s.freeSlot core ten tag) := by
  have hnot {p : Nat → Bool} : r ∉ ((s.modCs core ten fun c => { c with mbox := terase c.mbox tag }).waiters (onCore core) 3).filter p := by
    intro hmem
    obtain ⟨c, hc⟩ := mem_rowsWhere (mem_of_mem_sortBy (List.mem_of_mem_filter hmem))
    have hwaits : s.waits r 3 = true := (Bool.and_eq_true_iff.1 hc).2
    exact absurd hwaits (by simp [h.slot])
  unfold State.freeSlot
  dsimp only
  split
  · exact trans (t := s.modCs core ten _) ⟨rfl, rfl, rfl, fun _ => rfl⟩ (wakeAll _ _ fun hmem => hnot (List.mem_of_mem_filter hmem))
  · next w l hw =>
    refine trans (t := (s.modCs core ten _).modLoaded core _) ⟨rfl, rfl, rfl, fun _ => rfl⟩ (wakeRow _ ?_)
    rintro rfl
    exact hnot (List.mem_of_mem_filter (hw ▸ List.mem_cons_self : w ∈ List.filter _ _))

theorem dropKept (w : Nat) (h : Unserved r s) : KeepsRow r s (s.dropKept w) := by
  unfold State.dropKept
  dsimp only
  generalize List.filter _ _ = l
  induction l generalizing s with
  | nil => exact refl r s
  | cons e l ih =>
    have hslot := freeSlot (coreOfRid w) (s.coreOf (coreOfRid w)).loaded e.1 h
    exact hslot.trans (ih (hslot.unserved h))

end KeepsRow

/-! ### The close to FAULTED -/

/-- A close to FAULTED: ports, grant and the quad's clock aside, the row's record is closed and its entry FAULTED. -/
theorem closeRow_faulted_eq (s : State) (r : Nat) : ∃ (u : State) (n : Nat), (∀ q, KeepsRow q s u) ∧
    s.closeRow r .faulted 0 0 = (((u.modThr r (Says.Thr.afterClose n u.cycle)).modCtl r fun c =>
      { c with state := .faulted, wait := 0, wake := 0 }).moved r).flushDeferred (u.thrOf r).deferred := by
  unfold State.closeRow
  dsimp only
  refine ⟨State.noteIdle _ r, _, fun q => ?_, rfl⟩
  refine .trans ?_ (.noteIdle q _ r)
  refine .trans ?_ (.tick q _)
  refine .trans ?_ (.modClu _ _ _ rfl)
  split
  · exact ⟨rfl, rfl, rfl, fun _ => rfl⟩
  · exact .refl q s

/-- What a close to FAULTED leaves where no access waits for the boundary: every other row, and of its own the record that is closed and the entry
FAULTED. -/
theorem closeRow_faulted {s : State} {r : Nat} (hdef : (s.thrOf r).deferred = []) :
    (∀ q, q ≠ r → KeepsRow q s (s.closeRow r .faulted 0 0)) ∧ (s.closeRow r .faulted 0 0).mem = s.mem ∧
    (s.closeRow r .faulted 0 0).ctlOf r = { s.ctlOf r with state := .faulted, wait := 0, wake := 0 } ∧
    (∀ k, ((s.closeRow r .faulted 0 0).cluOf k).teamhdl = (s.cluOf k).teamhdl) ∧
    ∃ n m now, (s.closeRow r .faulted 0 0).thrOf r = { Says.Thr.afterClose n m (s.thrOf r) with movedAt := some now } := by
  obtain ⟨u, n, hu, heq⟩ := closeRow_faulted_eq s r
  have hown := hu r
  rw [heq, hown.thr, hdef]
  refine ⟨fun q hq => (hu q).trans ⟨rfl, ?_, ?_, fun _ => rfl⟩, hown.mem, ?_, hown.handlers, n, u.cycle, u.cycle, ?_⟩
  · simp [State.flushDeferred, State.moved, Ne.symm hq]
  · simp [State.flushDeferred, State.moved, Ne.symm hq]
  · simp [State.flushDeferred, State.moved, hown.ctl]
  · simp [State.flushDeferred, State.moved, hown.thr]

/-! ### A trap that goes to the fault queue -/

/-- The row `r` of a core traps with nothing else to see to: no packet, no query, no access that waits, no stop, no nest, no fault that it serves, and
no handler in its team. -/
structure TrapsAlone (s : State) (r : Nat) : Prop where
  thread : isBase r = false
  packet : (s.thrOf r).packet = none
  waiting : (s.thrOf r).deferred = []
  stop : (s.thrOf r).stop = none
  nest : (s.thrOf r).nest = none
  serves : (s.thrOf r).serves = none
  queries : (s.coreOf (coreOfRid r)).qbufs = []
  handler : s.teamHandler r = none

theorem abandonQueries_of_nil {s : State} {r : Nat} (h : (s.coreOf (coreOfRid r)).qbufs = []) : s.abandonQueries r = s := by
  unfold State.abandonQueries
  dsimp only
  rw [h]
  rfl

/-- The record of a row that has trapped, and closed. -/
def trappedThr (c : Cause) (g3 : W) (now : Nat) (fetch : Bool) (t : Thr) : Thr :=
  { t with trapCause := some c, trapG3 := g3, trapAt := now, fetchTrap := fetch, lockClaim := 0 }

/-- The row's own control entry cleared of its packet and moved to the word, and no access left that waits. -/
def trapEntry (s : State) (r : Nat) (pc : W) : State :=
  ((s.modCtl r fun x => { x with p := false }).modCtl r fun x => { x with pc := pcOf pc }).modThr r fun t => { t with deferred := [] }

/-- The row closed, with the cause in its record. -/
def trapClosed (s : State) (r : Nat) (c : Cause) (g3 pc : W) (fetch : Bool) : State :=
  let u := (trapEntry s r pc).closeRow r .faulted 0 0
  u.modThr r (trappedThr c g3 u.cycle fetch)

variable {s : State} {r : Nat} {c : Cause} {g3 pc : W} {fetch : Bool}

theorem TrapsAlone.takeTrap_eq (h : TrapsAlone s r) : s.takeTrap r c g3 pc fetch =
    (((((trapClosed s r c g3 pc fetch).serveLocks (clusterOfRid r)).dropKept r).dispatchTrap r c g3).flushDeferred []).takeMark r := by
  have hcancel : s.cancelPacket r = s.modCtl r fun x => { x with p := false } := by rw [State.cancelPacket, h.packet]
  have hwaiting : (((s.modCtl r fun x => { x with p := false }).modCtl r fun x => { x with pc := pcOf pc }).thrOf r).deferred = [] := h.waiting
  unfold State.takeTrap
  rw [h.thread, if_neg Bool.false_ne_true, hcancel, abandonQueries_of_nil (by exact h.queries)]
  dsimp only
  rw [hwaiting]
  rfl

theorem keepsRow_trapClosed {q : Nat} (hq : q ≠ r) : KeepsRow q s (trapClosed s r c g3 pc fetch) := by
  have hentry : KeepsRow q s (trapEntry s r pc) := ⟨rfl, by simp [trapEntry, Ne.symm hq], by simp [trapEntry, Ne.symm hq], fun _ => rfl⟩
  obtain ⟨hother, -⟩ := closeRow_faulted (s := trapEntry s r pc) (r := r) (by simp [trapEntry])
  refine (hentry.trans (hother q hq)).trans ⟨rfl, rfl, ?_, fun _ => rfl⟩
  simp [trapClosed, Ne.symm hq]

theorem trapClosed_own : (trapClosed s r c g3 pc fetch).mem = s.mem ∧
    (trapClosed s r c g3 pc fetch).ctlOf r = { s.ctlOf r with state := .faulted, wait := 0, wake := 0, p := false, pc := pcOf pc } ∧
    (∀ k, ((trapClosed s r c g3 pc fetch).cluOf k).teamhdl = (s.cluOf k).teamhdl) ∧
    ∃ n m k now, (trapClosed s r c g3 pc fetch).thrOf r =
      trappedThr c g3 k fetch { Says.Thr.afterClose n m { s.thrOf r with deferred := [] } with movedAt := some now } := by
  obtain ⟨-, hmem, hctl, hhdl, n, m, now, hthr⟩ := closeRow_faulted (s := trapEntry s r pc) (r := r) (by simp [trapEntry])
  refine ⟨hmem, hctl.trans ?_, hhdl, n, m, ((trapEntry s r pc).closeRow r .faulted 0 0).cycle, now, ?_⟩
  · simp [trapEntry]
  · rw [trapClosed, State.thrOf_modThr, if_pos rfl, hthr]
    simp [trapEntry]

/-- What a trap to the fault queue does to rows and memory (15_traps.md R259, R260). -/
structure TrapQueued (s t : State) (r : Nat) (c : Cause) (g3 pc : W) (fetch : Bool) : Prop where
  mem : t.mem = s.mem
  others : ∀ q, q ≠ r → Unserved q s → t.ctlOf q = s.ctlOf q
  own : t.ctlOf r = { s.ctlOf r with state := .faulted, wait := 0, wake := 0, p := false, pc := pcOf pc }
  cause : (t.thrOf r).trapCause = some c
  g3 : (t.thrOf r).trapG3 = g3
  fetch : (t.thrOf r).fetchTrap = fetch

theorem TrapsAlone.queued (h : TrapsAlone s r) : TrapQueued s (s.takeTrap r c g3 pc fetch) r c g3 pc fetch := by
  obtain ⟨hmem, hctl, hhdl, n, m, k, now, hthr⟩ := trapClosed_own (s := s) (r := r) (c := c) (g3 := g3) (pc := pc) (fetch := fetch)
  have hserved {q : Nat} (hq : Unserved q (trapClosed s r c g3 pc fetch)) : KeepsRow q (trapClosed s r c g3 pc fetch)
      (((trapClosed s r c g3 pc fetch).serveLocks (clusterOfRid r)).dropKept r) :=
    have hlocks := KeepsRow.serveLocks (clusterOfRid r) hq
    hlocks.trans (.dropKept r (hlocks.unserved hq))
  have hown := hserved (q := r) ⟨by rw [hthr]; rfl, by simp [State.waits, hctl]⟩
  have hothers {q : Nat} (hq : q ≠ r) (hu : Unserved q s) := (keepsRow_trapClosed (c := c) (g3 := g3) (pc := pc) (fetch := fetch) hq).trans
    (hserved ((keepsRow_trapClosed hq).unserved hu))
  rw [h.takeTrap_eq]
  generalize ((trapClosed s r c g3 pc fetch).serveLocks (clusterOfRid r)).dropKept r = e at hown hothers
  have hrec := hown.thr.trans hthr
  have hdispatch : ∃ x y, e.dispatchTrap r c g3 = e.queueFault r c.code 0 g3 x y := by
    have hnest : (e.thrOf r).nest = none := by rw [hrec]; exact h.nest
    have hserves : (e.thrOf r).serves = none := by rw [hrec]; exact h.serves
    have hhandler : e.teamHandler r = none := by
      rw [hown.teamHandler, State.teamHandler, hhdl, hctl]
      exact h.handler
    exact ⟨_, _, by simp only [State.dispatchTrap, hnest, hserves, hhandler]; rfl⟩
  obtain ⟨x, y, hqueue⟩ := hdispatch
  have hstop : (e.thrOf r).stop = none := by rw [hrec]; simp [trappedThr, Says.Thr.afterClose, h.stop]
  rw [hqueue, Says.takeMark_of_stop_none (by exact hstop)]
  exact ⟨hown.mem.trans hmem, fun q hq hu => (hothers hq hu).ctl, hown.ctl.trans hctl,
    congrArg Thr.trapCause hrec, congrArg Thr.trapG3 hrec, congrArg Thr.fetchTrap hrec⟩

theorem TrapsAlone.noteBundle {s : State} {r : Nat} (h : TrapsAlone s r) : TrapsAlone (s.noteBundle r) r := by
  have hthr : (s.noteBundle r).thrOf r = { s.thrOf r with bundleAt := ((s.noteBundle r).thrOf r).bundleAt } := by simp [State.noteBundle]
  obtain ⟨hthread, hpacket, hwaiting, hstop, hnest, hserves, hqueries, hhdl⟩ := h
  exact ⟨hthread, by rw [hthr, hpacket], by rw [hthr, hwaiting], by rw [hthr, hstop], by rw [hthr, hnest], by rw [hthr, hserves], hqueries, hhdl⟩

theorem TrapsAlone.hfr {s : State} {r : Nat} (h : TrapsAlone s r) (ten : Nat) (payload : List W) : TrapsAlone (s.hfr 2 ten payload) r := by
  obtain ⟨hthread, hpacket, hwaiting, hstop, hnest, hserves, hqueries, hhdl⟩ := h
  exact ⟨hthread, hpacket, hwaiting, hstop, hnest, hserves, hqueries, hhdl⟩

/-- Before it takes the trap the row notes its bundle, which concerns no other row and neither memory nor control entries. -/
theorem TrapsAlone.queued_noted {s : State} {r : Nat} (h : TrapsAlone s r) (c : Cause) (g3 pc : W) (fetch : Bool) :
    TrapQueued s ((s.noteBundle r).takeTrap r c g3 pc fetch) r c g3 pc fetch := by
  obtain ⟨hmem, hothers, hown, hcause, hg3, hfetch⟩ := h.noteBundle.queued (c := c) (g3 := g3) (pc := pc) (fetch := fetch)
  refine ⟨hmem, fun q hq hu => hothers q hq ?_, hown, hcause, hg3, hfetch⟩
  have hkeeps : KeepsRow q s (s.noteBundle r) := ⟨rfl, rfl, by simp [State.noteBundle, Ne.symm hq], fun _ => rfl⟩
  exact hkeeps.unserved hu

end Sys2Proof.Machine

namespace Sys2Proof.Says
open Sys2Proof.Machine

theorem TrapsNow.trapsAlone {s : State} (h : TrapsNow s) (hhdl : s.teamHandler s.me = none) : TrapsAlone s s.me :=
  ⟨h.thread, h.packet, h.waiting, h.stop, h.nest, h.serves, h.queries, hhdl⟩

/-- The first word of a chunk traps, with every load performed: the row is in the fault queue, whether the host gets a report or not. -/
theorem TrapsNow.queued {s : State} (h : TrapsNow s) (hhdl : s.teamHandler s.me = none) (c : Cause) (g3 : W) (report : Option (Nat × List W))
    (fetch : Bool) :
    TrapQueued s (s.stopTrap c g3 report fetch) s.me c g3 (s.cur.pc.setWidth 64) fetch := by
  have hfirst : s.firstInChunk = true := by simp [State.firstInChunk, h.first]
  have halone := h.trapsAlone hhdl
  unfold State.stopTrap
  rw [hfirst, h.quiet]
  cases report with
  | none =>
    obtain ⟨hmem, hothers, hown, hcause, hg3, hfetch⟩ := halone.queued_noted c g3 (s.cur.pc.setWidth 64) fetch
    exact ⟨hmem, hothers, hown, hcause, hg3, hfetch⟩
  | some p =>
    obtain ⟨hmem, hothers, hown, hcause, hg3, hfetch⟩ := (halone.hfr p.1 p.2).queued_noted c g3 (s.cur.pc.setWidth 64) fetch
    exact ⟨hmem, fun q hq hu => hothers q hq ⟨hu.lockClaim, hu.slot⟩, hown, hcause, hg3, hfetch⟩

theorem setWidth_eq_num (x : BitVec 57) : x.setWidth 64 = num x.toNat := BitVec.eq_of_toNat_eq (by simp [num])

theorem issuing_of_running {s : State} (hend : s.cur.ended = .running) (hrun : s.running s.me = true) : s.issuing = true := by
  simp [State.issuing, hend, hrun]

theorem execUndecodableWord_of_issuing {s : State} (h : s.issuing = true) :
    exec .undecodableWord s = .next (s.stopTrap .illegal (num s.sel.unit) none false) := if_pos h

theorem execFetchFault_of_issuing {s : State} (h : s.issuing = true) : ∃ report,
    exec .fetchFault s = .next (s.stopTrap .access (num s.sel.unit) report true) := ⟨_, if_neg (by simp [h])⟩

theorem undecodableTraps : UndecodableTraps := by
  intro s
  refine ⟨fun hend hrun hnow hhdl f hf => ?_, fun hend hrun hslot => ?_, fun hrun => ?_⟩
  · have hissuing := issuing_of_running hend hrun
    have htrap {i : Instr} {c : Cause} {report : Option (Nat × List W)} {fetch : Bool}
        (h : exec i s = .next (s.stopTrap c (num s.sel.unit) report fetch)) : ∃ t, exec i s = .next t ∧ t.mem = s.mem ∧
        (∀ r, r ≠ s.me → (s.thrOf r).lockClaim = 0 → s.waits r 3 = false → t.ctlOf r = s.ctlOf r) ∧
        t.ctlOf s.me = { s.ctlOf s.me with state := .faulted, wait := 0, wake := 0, p := false, pc := pcOf (num s.cur.pc.toNat) } ∧
        (t.thrOf s.me).trapCause = some c ∧ (t.thrOf s.me).trapG3 = num s.sel.unit ∧ (t.thrOf s.me).fetchTrap = fetch := by
      obtain ⟨hmem, hothers, hown, hcause, hg3, hfetch⟩ := hnow.queued hhdl c (num s.sel.unit) report fetch
      rw [setWidth_eq_num] at hown
      exact ⟨_, h, hmem, fun q hq hlock hwaits => hothers q hq ⟨hlock, hwaits⟩, hown, hcause, hg3, hfetch⟩
    obtain rfl | hf := List.mem_cons.1 hf
    · exact htrap (execUndecodableWord_of_issuing hissuing)
    · obtain rfl := List.mem_singleton.1 hf
      obtain ⟨report, h⟩ := execFetchFault_of_issuing hissuing
      exact htrap h
  · rw [execUndecodableWord_of_issuing (issuing_of_running hend hrun), State.applyStop, if_neg hslot]
  · have hidle : s.issuing = false := by simp [State.issuing, hrun]
    exact ⟨if_neg (by simp [hidle]), if_pos (by simp [hidle])⟩

/-- Settles O9: every check reports a word as UNDECODABLE_WORD does, and that trap, like FETCH_FAULT's, closes the row to FAULTED and queues one entry. -/
theorem badBundlesTrap : Obligations.BadBundlesTrap := ⟨badBundleIsUndecodable, undecodableTraps⟩

end Sys2Proof.Says
end

section
namespace Sys2Proof.Says
open Sys2Proof.Machine

/-! ## Scalar sources (03_encoding.md R53, R61, R66) -/

section
variable {s : State} {v : View} {a off n : Nat}

/-! ### What a word sees of its row: in word 1 of a PAIR, the row before the PAIR -/

theorem seen_of_ne_pair1 (h : s.cur.slot ≠ .pair1) : s.seen off n = s.rowGet s.me off n := by
  unfold State.seen
  split
  · next hslot _ => exact absurd hslot h
  · rfl

theorem seen_pair1 (h : s.cur.slot = .pair1) (hv : s.cur.view = some v) : s.seen off n = mread v.cells (rowAddr s.me + off) n := by
  simp only [State.seen, h, hv]
  rfl

theorem seenLoads_of_ne_pair1 (h : s.cur.slot ≠ .pair1) : s.seenLoads = (s.thrOf s.me).loads := by
  unfold State.seenLoads
  split
  · next hslot _ => exact absurd hslot h
  · rfl

theorem seenLoads_pair1 (h : s.cur.slot = .pair1) (hv : s.cur.view = some v) : s.seenLoads = v.loads := by
  simp only [State.seenLoads, h, hv]

theorem readRow_of_correctable (h : s.uncorrAt (rowAddr s.me + off) n = none) : s.readRow off n = .ok (s.seen off n) := by
  simp only [State.readRow, h]

/-! ### A source that is no stream -/

/-- A load that source code `a` waits for: of a register, or of a value of the distance window. -/
def binds (a : Nat) (l : PLoad) : Bool := if 28 ≤ a then l.win == some (a - 27) else l.reg == some a

theorem binds_eq_false {l : PLoad} (h : l.reg ≠ some a ∧ (a < 28 ∨ l.win ≠ some (a - 27))) : binds a l = false := by
  obtain ⟨hreg, hwin⟩ := h
  unfold binds
  split
  · next ha => simpa using hwin.resolve_left (Nat.not_lt.2 ha)
  · simpa using hreg

theorem binds_eq_true {l : PLoad} (h : a < 28 ∧ l.reg = some a ∨ 28 ≤ a ∧ l.win = some (a - 27)) : binds a l = true := by
  obtain ⟨ha, hreg⟩ | ⟨ha, hwin⟩ := h
  · simp [binds, Nat.not_le.2 ha, hreg]
  · simp [binds, ha, hwin]

theorem src_of_unbound (h0 : a ≠ 0) (hb : s.seenBound a = false) (hu : s.uncorrAt (rowAddr s.me + 8 * a) 8 = none) :
    s.src a = if s.seenLoads.any (binds a) then stall else .ok (num (s.seen (8 * a) 8), s) := by
  unfold State.src binds
  rw [if_neg h0, readRow_of_correctable hu, hb]
  by_cases ha : 28 ≤ a
  · simp only [if_pos ha]
    rfl
  · simp only [if_neg ha]
    rfl

theorem src_of_loaded (h0 : a ≠ 0) (hb : s.seenBound a = false) (hu : s.uncorrAt (rowAddr s.me + 8 * a) 8 = none)
    (hl : ∀ l ∈ s.seenLoads, l.reg ≠ some a ∧ (a < 28 ∨ l.win ≠ some (a - 27))) : s.src a = .ok (num (s.seen (8 * a) 8), s) := by
  have hnone : s.seenLoads.any (binds a) = false := List.any_eq_false.2 fun l hm => by simp [binds_eq_false (hl l hm)]
  rw [src_of_unbound h0 hb hu, hnone, if_neg Bool.false_ne_true]

theorem src_of_loading (h0 : a ≠ 0) (hb : s.seenBound a = false) (hu : s.uncorrAt (rowAddr s.me + 8 * a) 8 = none)
    (hl : ∃ l ∈ s.seenLoads, a < 28 ∧ l.reg = some a ∨ 28 ≤ a ∧ l.win = some (a - 27)) : s.src a = stall := by
  obtain ⟨l, hm, hl⟩ := hl
  rw [src_of_unbound h0 hb hu, if_pos (List.any_eq_true.2 ⟨l, hm, binds_eq_true hl⟩)]

/-- The operand of a word that does not complete is not taken. -/
theorem execAdd_of_src_error {d x y : BitVec 5} {e : Stop} (h : s.src x.toNat = .error e) : exec (.add d x y) s = .next (s.applyStop e) := by
  have hexec : exec (.add d x y) s = s.op2 d x y 1 fun p q => p + q := rfl
  rw [hexec, State.op2, h]
  rfl

theorem seenBound_eq_false_iff : s.seenBound a = false ↔ ¬ (24 ≤ a ∧ a ≤ 27 ∧ bits (s.seen (256 + 16 * (a - 24)) 8) 63 63 = 1) := by
  rw [← Bool.not_eq_true]
  simp only [State.seenBound, Bool.and_eq_true, decide_eq_true_eq, beq_iff_eq, and_assoc]

end

theorem scalarSources : Sources := by
  intro s a ha hb hu
  refine ⟨s.src_zero, fun h0 hslot hl => ?_, fun v h0 hslot hv hl => ?_, fun h0 hslot hl d b => ?_, ?_⟩
  · rw [src_of_loaded h0 hb hu (by rwa [seenLoads_of_ne_pair1 hslot]), seen_of_ne_pair1 hslot]
    rfl
  · rw [src_of_loaded h0 hb hu (by rwa [seenLoads_pair1 hslot hv]), seen_pair1 hslot hv]
  · have hcode : (BitVec.ofNat 5 a).toNat = a := by simp [Nat.mod_eq_of_lt ha]
    have hloading : s.src a = stall := src_of_loading h0 hb hu (by rwa [seenLoads_of_ne_pair1 (by simp [hslot])])
    exact execAdd_of_src_error (by rw [hcode, hloading, stall])
  · rw [State.dstOpen_iff, seenBound_eq_false_iff]
    refine and_congr_right fun hlt => not_congr ?_
    have hle : a ≤ 27 := by omega
    simp [hle]

/-! ## Bound stream registers (04_scalar.md R78; 13_engines.md R254, R255) -/

section
variable {s : State} {v : View} {a : Nat}

/-- The staged elements of stream register `k` of a row. -/
def stageOf (rid k : Nat) (l : List Stage) : Option Stage := l.find? fun x => x.rid == rid && x.reg == k

theorem pairPops_of_ne_pair1 (h : s.cur.slot ≠ .pair1) : s.pairPops a = 0 := by
  unfold State.pairPops
  split
  · next hslot _ => exact absurd hslot h
  · rfl

theorem seenStage_of_ne_pair1 (h : s.cur.slot ≠ .pair1) : s.seenStage a = stageOf s.me a (s.coreOf s.myCore).streams := by
  unfold State.seenStage
  split
  · next hslot _ => exact absurd hslot h
  · rfl

theorem seenStage_vals_pair1 (h : s.cur.slot = .pair1) (hv : s.cur.view = some v) :
    (s.seenStage a).map (·.vals) = (stageOf s.me a v.streams).map fun x => x.vals.drop (s.pairPops a) := by
  simp only [State.seenStage, h, hv, Option.map_map]
  rfl

theorem seenStream_of_ne_pair1 (h : s.cur.slot ≠ .pair1) :
    s.seenStream a = (s.rowGet s.me (256 + 16 * (a - 24)) 8, s.rowGet s.me (256 + 16 * (a - 24) + 8) 8) := by
  simp only [State.seenStream, pairPops_of_ne_pair1 h, streamSteps, seen_of_ne_pair1 h]

theorem seenStream_pair1 (h : s.cur.slot = .pair1) (hv : s.cur.view = some v) :
    s.seenStream a = streamSteps (s.pairPops a)
      (mread v.cells (rowAddr s.me + (256 + 16 * (a - 24))) 8, mread v.cells (rowAddr s.me + (256 + 16 * (a - 24) + 8)) 8) := by
  simp only [State.seenStream, seen_pair1 h hv]

/-! ### A read of the register -/

theorem src_of_seenBound (h : s.seenBound a = true) : s.src a = s.popStream a := by
  have hrange : 24 ≤ a ∧ a ≤ 27 := by
    simp only [State.seenBound, Bool.and_eq_true, decide_eq_true_eq] at h
    exact h.1
  unfold State.src
  rw [if_neg (by omega), if_neg (by omega), if_pos h]

section
variable (hu : s.uncorrAt (rowAddr s.me + (256 + 16 * (a - 24))) 16 = none)
include hu

theorem popStream_past_end (h : bits (s.seenStream a).2 31 0 = 0) : s.popStream a = .ok (0, s.orSts flagSX) := by
  unfold State.popStream
  rw [readRow_of_correctable hu]
  exact if_pos h

theorem popStream_unstaged (h : bits (s.seenStream a).2 31 0 ≠ 0) (hst : s.seenStage a = none) : s.popStream a = wait 4 (a - 24) 0 := by
  unfold State.popStream
  rw [readRow_of_correctable hu, hst]
  exact if_neg h

theorem popStream_staged {st : Stage} {x : W} {l : List W} (h : bits (s.seenStream a).2 31 0 ≠ 0) (hst : s.seenStage a = some st)
    (hx : st.vals = x :: l) :
    s.popStream a = .ok (streamExtend (s.seenStream a).1 x, s.takeElement a x) := by
  unfold State.popStream
  rw [readRow_of_correctable hu, hst]
  refine (if_neg h).trans ?_
  simp only [hx]

/-- With no element left, the word waits unless the refill of the element that it wants has failed. -/
theorem popStream_empty {st : Stage} (h : bits (s.seenStream a).2 31 0 ≠ 0) (hst : s.seenStage a = some st) (hx : st.vals = [])
    (hf : st.failed = none ∨ st.failedAt ≠ bits (s.seenStream a).1 56 0) : s.popStream a = wait 4 (a - 24) 0 := by
  unfold State.popStream
  rw [readRow_of_correctable hu, hst]
  refine (if_neg h).trans ?_
  simp only [hx]
  obtain hf | hf := hf
  · simp only [hf]
  · cases st.failed with
    | none => rfl
    | some f => exact if_neg hf

theorem popStream_failed {st : Stage} {f : Nat} (h : bits (s.seenStream a).2 31 0 ≠ 0) (hst : s.seenStage a = some st) (hx : st.vals = [])
    (hf : st.failed = some f) (hat : st.failedAt = bits (s.seenStream a).1 56 0) :
    s.popStream a = trap (if st.uncorr then .uncorr else .access) (num f) := by
  unfold State.popStream
  rw [readRow_of_correctable hu, hst]
  refine (if_neg h).trans ?_
  simp only [hx, hf]
  exact if_pos hat

end

/-! ### An element taken -/

theorem bits_lt (x hi lo : Nat) : bits x hi lo < 2 ^ (hi - lo + 1) := Nat.mod_lt _ (by positivity)

theorem streamStep_lt (w0 w1 : Nat) : (streamStep w0 w1).1 < 2 ^ 64 ∧ (streamStep w0 w1).2 < 2 ^ 64 := by
  have h0 : bits w0 63 57 < 128 := bits_lt w0 63 57
  have h1 : bits w1 63 32 < 4294967296 := bits_lt w1 63 32
  have h2 : bits w1 31 0 < 4294967296 := bits_lt w1 31 0
  unfold streamStep
  dsimp only
  omega

/-- A core's staged elements with the oldest of stream register `k` of a row gone. -/
def dropStaged (rid k : Nat) (l : List Stage) : List Stage :=
  l.map fun x => if x.rid = rid ∧ x.reg = k then { x with vals := x.vals.drop 1 } else x

theorem stageOf_dropStaged {rid k : Nat} {y : Stage} {l : List Stage} (h : stageOf rid k l = some y) :
    stageOf rid k (dropStaged rid k l) = some { y with vals := y.vals.drop 1 } := by
  have hy : y.rid = rid ∧ y.reg = k := by simpa using List.find?_some h
  have hsame (x : Stage) : (if x.rid = rid ∧ x.reg = k then { x with vals := x.vals.drop 1 } else x).rid = x.rid ∧
      (if x.rid = rid ∧ x.reg = k then { x with vals := x.vals.drop 1 } else x).reg = x.reg := by
    split
    · exact ⟨rfl, rfl⟩
    · exact ⟨rfl, rfl⟩
  unfold stageOf at h ⊢
  rw [dropStaged, List.find?_map]
  simp only [Function.comp_def, hsame]
  rw [h, Option.map_some, if_pos hy]

/-- The descriptor at an offset of the row set. -/
def putDescriptor (s : State) (off : Nat) (d : Nat × Nat) : State := (s.rowPut s.me off 8 d.1).rowPut s.me (off + 8) 8 d.2

theorem rowPut_myCore (s : State) (r o n v : Nat) : (s.rowPut r o n v).myCore = s.myCore := (rfl)

theorem putDescriptor_coreOf (s : State) (off : Nat) (d : Nat × Nat) (c : Nat) : (putDescriptor s off d).coreOf c = s.coreOf c := (rfl)

theorem putDescriptor_thrOf (s : State) (off : Nat) (d : Nat × Nat) (r : Nat) : (putDescriptor s off d).thrOf r = s.thrOf r := (rfl)

theorem rowGet_putDescriptor (s : State) (off : Nat) {d : Nat × Nat} (h0 : d.1 < 2 ^ 64) (h1 : d.2 < 2 ^ 64) :
    (putDescriptor s off d).rowGet s.me off 8 = d.1 ∧ (putDescriptor s off d).rowGet s.me (off + 8) 8 = d.2 := by
  refine ⟨?_, (State.rowGet_rowPut _ _ _ _ _).trans (Nat.mod_eq_of_lt h1)⟩
  exact (State.rowGet_rowPut_disjoint _ _ _ _ _ _ _ (.inl le_rfl)).trans ((State.rowGet_rowPut _ _ _ _ _).trans (Nat.mod_eq_of_lt h0))

theorem putDescriptor_mem_of_outside (s : State) {off i : Nat} (d : Nat × Nat) (h : i < rowAddr s.me + off ∨ rowAddr s.me + off + 16 ≤ i) :
    mget (putDescriptor s off d).mem i = mget s.mem i := by
  refine (mget_mwrite _ _ _ _).trans ?_
  rw [if_neg (by simp only [bytesOf_length]; omega)]
  refine (mget_mwrite _ _ _ _).trans ?_
  rw [if_neg (by simp only [bytesOf_length]; omega)]

/-- The oldest staged element of stream register `k` of the row `rid` is gone from the core `c`. -/
def unstage (s : State) (c rid k : Nat) : State := s.modCore c fun x => { x with streams := dropStaged rid k x.streams }

theorem unstage_thrOf (s : State) (c rid k r : Nat) : (unstage s c rid k).thrOf r = s.thrOf r := (rfl)

theorem unstage_rowGet (s : State) (c rid k r off n : Nat) : (unstage s c rid k).rowGet r off n = s.rowGet r off n := (rfl)

theorem unstage_coreOf (s : State) (c rid k : Nat) :
    (unstage s c rid k).coreOf c = { s.coreOf c with streams := dropStaged rid k (s.coreOf c).streams } := by
  rw [unstage, State.coreOf_modCore, if_pos rfl]

/-- Where word 0 of the PAIR has written the descriptor, its write stands, and so do the staged elements (03_encoding.md R53). -/
theorem takeElement_eq (s : State) (k : Nat) (x : W) : s.takeElement k x =
    (if s.rowGet s.me (256 + 16 * (k - 24)) 8 = (s.seenStream k).1 ∧ s.rowGet s.me (256 + 16 * (k - 24) + 8) 8 = (s.seenStream k).2 then
      unstage (putDescriptor s (256 + 16 * (k - 24)) (streamStep (s.seenStream k).1 (s.seenStream k).2)) s.myCore s.me k
    else s).modChunk s.me fun ch => { ch with pops := ch.pops ++ [(k, x)] } := by
  unfold State.takeElement
  dsimp only
  rw [rowPut_myCore, rowPut_myCore]
  rfl

theorem takeElement_pops (s : State) (a : Nat) (x : W) :
    ((s.takeElement a x).thrOf s.me).chunk.pops = (s.thrOf s.me).chunk.pops ++ [(a, x)] := by
  rw [takeElement_eq]
  split
  · rw [State.modChunk, State.thrOf_modThr, if_pos rfl, unstage_thrOf, putDescriptor_thrOf]
  · rw [State.modChunk, State.thrOf_modThr, if_pos rfl]

theorem takeElement_mem_of_outside {x : W} {i : Nat}
    (h : i < rowAddr s.me + (256 + 16 * (a - 24)) ∨ rowAddr s.me + (256 + 16 * (a - 24)) + 16 ≤ i) : mget (s.takeElement a x).mem i = mget s.mem i := by
  rw [takeElement_eq]
  split
  · exact putDescriptor_mem_of_outside s _ h
  · rfl

/-- Where word 0 has not written the descriptor, it steps on, and the oldest staged element is gone. -/
theorem takeElement_of_unwritten {x : W} {d : Nat × Nat} (hd : s.seenStream a = d) (h0 : s.rowGet s.me (256 + 16 * (a - 24)) 8 = d.1)
    (h1 : s.rowGet s.me (256 + 16 * (a - 24) + 8) 8 = d.2) :
    (s.takeElement a x).rowGet s.me (256 + 16 * (a - 24)) 8 = (streamStep d.1 d.2).1 ∧
    (s.takeElement a x).rowGet s.me (256 + 16 * (a - 24) + 8) 8 = (streamStep d.1 d.2).2 ∧
    ∀ y, stageOf s.me a (s.coreOf s.myCore).streams = some y →
      stageOf s.me a ((s.takeElement a x).coreOf s.myCore).streams = some { y with vals := y.vals.drop 1 } := by
  obtain ⟨hlt0, hlt1⟩ := streamStep_lt d.1 d.2
  obtain ⟨hget0, hget1⟩ := rowGet_putDescriptor s (256 + 16 * (a - 24)) hlt0 hlt1
  rw [takeElement_eq, hd, if_pos ⟨h0, h1⟩]
  simp only [State.modChunk_rowGet, unstage_rowGet]
  refine ⟨hget0, hget1, fun y hy => ?_⟩
  rw [State.modChunk_at_coreOf, unstage_coreOf, putDescriptor_coreOf]
  exact stageOf_dropStaged hy

end

theorem streamSources : StreamSources := by
  intro s a hb hu off d mine
  rw [src_of_seenBound hb]
  refine ⟨fun hslot => ⟨seenStream_of_ne_pair1 hslot, seenStage_of_ne_pair1 hslot⟩,
    fun v hslot hv hpops => ⟨?_, ?_⟩, fun v hslot hv hpops => ⟨?_, ?_⟩, popStream_past_end hu,
    fun hleft hstage => ?_, fun st f hleft hst hx hf hat => popStream_failed hu hleft hst hx hf hat,
    fun st x l hleft hst hx => ⟨_, popStream_staged hu hleft hst hx, takeElement_pops s a x, fun h0 h1 => ?_,
      fun i hi => takeElement_mem_of_outside hi⟩⟩
  · exact (seenStream_pair1 hslot hv).trans (by rw [hpops, streamSteps])
  · exact (seenStage_vals_pair1 hslot hv).trans (by simp only [hpops, List.drop_zero]; rfl)
  · exact (seenStream_pair1 hslot hv).trans (by rw [hpops, streamSteps, streamSteps])
  · exact (seenStage_vals_pair1 hslot hv).trans (by rw [hpops]; rfl)
  · have hwait : s.popStream a = wait 4 (a - 24) 0 := by
      obtain hst | ⟨st, hst, hx, hf⟩ := hstage
      · exact popStream_unstaged hu hleft hst
      · exact popStream_empty hu hleft hst hx hf
    refine ⟨hwait, fun hslot x b hx => ?_⟩
    exact execAdd_of_src_error (by rw [← hx, src_of_seenBound hb, hwait, wait])
  · obtain ⟨hnext, hleft', hstaged⟩ := takeElement_of_unwritten (x := x) rfl h0 h1
    exact ⟨hnext, hleft', fun y hy => hstaged y hy⟩

/-! ### The step of a descriptor -/

theorem bits_of_high {x n hi lo : Nat} (hn : n < 2 ^ lo) (hx : x < 2 ^ (hi - lo + 1)) : bits (x * 2 ^ lo + n) hi lo = x := by
  rw [bits, Nat.mul_comm, Nat.mul_add_div (by positivity), Nat.div_eq_of_lt hn, Nat.add_zero, Nat.mod_eq_of_lt hx]

theorem bits_of_low {x n hi : Nat} (hn : n < 2 ^ (hi + 1)) : bits (x * 2 ^ (hi + 1) + n) hi 0 = n := by
  rw [bits, pow_zero, Nat.div_one, Nat.sub_zero, Nat.mul_comm, Nat.mul_add_mod, Nat.mod_eq_of_lt hn]

theorem streamStep_spec (w0 w1 : Nat) : let r := streamStep w0 w1
    bits r.1 63 57 = bits w0 63 57 ∧ ((bits r.1 56 0 : Int) - (bits w0 56 0 + (BitVec.ofNat 32 (bits w1 63 32)).toInt)) % 2 ^ 57 = 0 ∧
    bits r.2 63 32 = bits w1 63 32 ∧ (bits w1 31 0 ≠ 0 → bits r.2 31 0 + 1 = bits w1 31 0) := by
  have hleft : bits w1 31 0 - 1 < 2 ^ 32 := by
    have := bits_lt w1 31 0
    omega
  have hnext : (bits w0 56 0 + (2 ^ 57 + (BitVec.ofNat 32 (bits w1 63 32)).toInt).toNat) % 2 ^ 57 < 2 ^ 57 := Nat.mod_lt _ (by positivity)
  refine ⟨bits_of_high hnext (bits_lt w0 63 57), ?_, bits_of_high hleft (bits_lt w1 63 32), fun h => ?_⟩
  · have hstride := BitVec.le_toInt (BitVec.ofNat 32 (bits w1 63 32))
    rw [streamStep, bits_of_low hnext]
    omega
  · rw [streamStep, bits_of_low hleft]
    omega

theorem elementSteps : StreamStep :=
  ⟨fun w0 w1 _ _ => streamStep_spec w0 w1, fun w0 v => ⟨fun h => if_neg (by rw [h]; decide), fun h => if_pos h⟩⟩

/-- Settles O10: a source that is no stream reads what the word sees of its row, and a bound stream register pops the descriptor that the word sees. -/
theorem sources : Obligations.Sources := ⟨scalarSources, streamSources, elementSteps⟩

end Sys2Proof.Says
end

section
namespace Sys2Proof.Says
open Sys2Proof.Machine

/-! ## Results of the integer register words (04_scalar.md R82 to R88)

The model computes with operations of bit vectors, the tables with numbers and integers. One lemma for each operation says that they agree. -/

section
variable (x y : W) (k : Nat)

/-! ### Sums, shifts and rotations -/

theorem int_toInt : int x.toInt = x := BitVec.ofInt_toInt

theorem num_toNat : num x.toNat = x := by simp [num]

theorem add_eq_num : x + y = num (x.toNat + y.toNat) := by
  apply BitVec.eq_of_toNat_eq
  simp [num]

theorem sub_eq_int : x - y = int (x.toNat - y.toNat) := by
  apply BitVec.eq_of_toNat_eq
  have := x.isLt
  have := y.isLt
  simp only [int, BitVec.toNat_sub, BitVec.toNat_ofInt]
  omega

theorem mul_eq_int : x * y = int (x.toInt * y.toInt) := by
  rw [int, BitVec.ofInt_mul, BitVec.ofInt_toInt, BitVec.ofInt_toInt]

theorem shiftLeft_eq_num : x <<< k = num (x.toNat * 2 ^ k) := by
  apply BitVec.eq_of_toNat_eq
  simp [num, Nat.shiftLeft_eq]

theorem shiftRight_eq_num : x >>> k = num (x.toNat / 2 ^ k) := by
  apply BitVec.eq_of_toNat_eq
  rw [num, BitVec.toNat_ushiftRight, BitVec.toNat_ofNat, Nat.shiftRight_eq_div_pow, Nat.mod_eq_of_lt]
  exact (Nat.div_le_self _ _).trans_lt x.isLt

theorem sshiftRight_eq_int : x.sshiftRight k = int (x.toInt / 2 ^ k) := by
  rw [BitVec.sshiftRight_eq, Int.shiftRight_eq_div_pow, int]
  norm_cast

/-- The two parts of a rotation have no bit in common, so their sum is their union. -/
theorem rotation_eq_num (h : k ≤ 64) :
    (x.toNat <<< k % 2 ^ 64 ||| x.toNat >>> (64 - k)) = (num (x.toNat * 2 ^ k + x.toNat / 2 ^ (64 - k))).toNat := by
  have hpow : 2 ^ 64 = 2 ^ (64 - k) * 2 ^ k := by rw [← pow_add, Nat.sub_add_cancel h]
  have hlow : x.toNat / 2 ^ (64 - k) < 2 ^ k := Nat.div_lt_of_lt_mul (hpow ▸ x.isLt)
  have hhigh : x.toNat * 2 ^ k % 2 ^ 64 = (x.toNat % 2 ^ (64 - k)) <<< k := by
    rw [hpow, Nat.mul_mod_mul_right, Nat.shiftLeft_eq]
  have hsum : (x.toNat % 2 ^ (64 - k)) <<< k + x.toNat / 2 ^ (64 - k) < 2 ^ 64 := by
    have hmod := Nat.mul_le_mul_right (2 ^ k) (Nat.succ_le_of_lt (Nat.mod_lt x.toNat (Nat.two_pow_pos (64 - k))))
    rw [Nat.succ_mul] at hmod
    rw [Nat.shiftLeft_eq, hpow]
    linarith
  rw [Nat.shiftLeft_eq, Nat.shiftRight_eq_div_pow, hhigh, ← Nat.shiftLeft_add_eq_or_of_lt hlow, num, BitVec.toNat_ofNat, Nat.add_mod, hhigh,
    Nat.add_mod_mod, Nat.mod_eq_of_lt hsum]

theorem amt_lt : amt y < 64 := Nat.mod_lt _ (by decide)

theorem rotateLeft_eq_num (h : k < 64) : x.rotateLeft k = num (x.toNat * 2 ^ k + x.toNat / 2 ^ (64 - k)) := by
  apply BitVec.eq_of_toNat_eq
  rw [BitVec.toNat_rotateLeft, Nat.mod_eq_of_lt h, rotation_eq_num x k h.le]

theorem rotateRight_eq_num (h : k < 64) : x.rotateRight k = num (x.toNat / 2 ^ k + x.toNat * 2 ^ (64 - k)) := by
  apply BitVec.eq_of_toNat_eq
  rw [BitVec.toNat_rotateRight, Nat.mod_eq_of_lt h, Nat.or_comm, Nat.add_comm]
  have hk := rotation_eq_num x (64 - k) (Nat.sub_le _ _)
  rwa [Nat.sub_sub_self h.le] at hk

/-! ### Comparisons and choices -/

theorem slt_eq_decide : x.slt y = decide (x.toInt < y.toInt) := rfl

theorem sne_eq_truth : one (x != y) = truth (decide (x ≠ y)) := by
  simp only [one, truth, bne_iff_ne, decide_eq_true_eq]

theorem min_eq_int : (if y.slt x then y else x) = int (min x.toInt y.toInt) := by
  simp only [slt_eq_decide, decide_eq_true_eq]
  split
  · next h => rw [min_eq_right h.le, int_toInt]
  · next h => rw [min_eq_left (not_lt.1 h), int_toInt]

theorem max_eq_int : (if x.slt y then y else x) = int (max x.toInt y.toInt) := by
  simp only [slt_eq_decide, decide_eq_true_eq]
  split
  · next h => rw [max_eq_right h.le, int_toInt]
  · next h => rw [max_eq_left (not_lt.1 h), int_toInt]

theorem minu_eq_num : (if y.ult x then y else x) = num (min x.toNat y.toNat) := by
  simp only [BitVec.ult, decide_eq_true_eq]
  split
  · next h => rw [min_eq_right h.le, num_toNat]
  · next h => rw [min_eq_left (not_lt.1 h), num_toNat]

theorem maxu_eq_num : (if x.ult y then y else x) = num (max x.toNat y.toNat) := by
  simp only [BitVec.ult, decide_eq_true_eq]
  split
  · next h => rw [max_eq_right h.le, num_toNat]
  · next h => rw [max_eq_left (not_lt.1 h), num_toNat]

/-! ### Words of 32 bits -/

theorem low_eq_ofNat : low x = BitVec.ofNat 32 x.toNat := by
  apply BitVec.eq_of_toNat_eq
  simp [low]

theorem toNat_low : (low x).toNat = x.toNat % 2 ^ 32 := by simp [low]

theorem addw_eq_wide32 : wide (low x + low y) = wide32 (x.toNat + y.toNat) := by
  rw [low_eq_ofNat, low_eq_ofNat, ← BitVec.ofNat_add]
  rfl

theorem subw_eq_wide32 : wide (low x - low y) = wide32 (2 ^ 32 + x.toNat % 2 ^ 32 - y.toNat % 2 ^ 32) := by
  have h : low x - low y = BitVec.ofNat 32 (2 ^ 32 + x.toNat % 2 ^ 32 - y.toNat % 2 ^ 32) := by
    apply BitVec.eq_of_toNat_eq
    simp only [BitVec.toNat_sub, toNat_low, BitVec.toNat_ofNat]
    omega
  rw [h]
  rfl

theorem mulw_eq_wide32 : wide (low x * low y) = wide32 (x.toNat * y.toNat) := by
  rw [low_eq_ofNat, low_eq_ofNat, ← BitVec.ofNat_mul]
  rfl

theorem shlw_eq_wide32 : wide (low x <<< k) = wide32 (x.toNat * 2 ^ k) := by
  have h : low x <<< k = BitVec.ofNat 32 (x.toNat * 2 ^ k) := by
    apply BitVec.eq_of_toNat_eq
    simp [toNat_low, Nat.shiftLeft_eq]
  rw [h]
  rfl

theorem shrw_eq_wide32 : wide (low x >>> k) = wide32 (x.toNat % 2 ^ 32 / 2 ^ k) := by
  have h : low x >>> k = BitVec.ofNat 32 (x.toNat % 2 ^ 32 / 2 ^ k) := by
    apply BitVec.eq_of_toNat_eq
    rw [BitVec.toNat_ushiftRight, toNat_low, BitVec.toNat_ofNat, Nat.shiftRight_eq_div_pow]
    exact (Nat.mod_eq_of_lt ((Nat.div_le_self _ _).trans_lt (Nat.mod_lt _ (Nat.two_pow_pos 32)))).symm
  rw [h]
  rfl

theorem sarw_eq_int : wide ((low x).sshiftRight k) = int ((BitVec.ofNat 32 x.toNat).toInt / 2 ^ k) := by
  rw [wide, BitVec.signExtend, BitVec.toInt_sshiftRight, Int.shiftRight_eq_div_pow, low_eq_ofNat, int]
  norm_cast

/-! ### Products and quotients -/

theorem quot_eq : quot x y = if y = 0 then 0xFFFFFFFFFFFFFFFF else int (x.toInt.tdiv y.toInt) := rfl

theorem quotU_eq : quotU x y = if y = 0 then 0xFFFFFFFFFFFFFFFF else num (x.toNat / y.toNat) := by
  refine if_congr Iff.rfl rfl ?_
  apply BitVec.eq_of_toNat_eq
  rw [BitVec.toNat_udiv, num, BitVec.toNat_ofNat, Nat.mod_eq_of_lt ((Nat.div_le_self _ _).trans_lt x.isLt)]

theorem remS_eq : remS x y = if y = 0 then x else int (x.toInt - y.toInt * x.toInt.tdiv y.toInt) := by
  rw [← Int.tmod_def]
  rfl

theorem remU_eq : remU x y = if y = 0 then x else num (x.toNat - y.toNat * (x.toNat / y.toNat)) := by
  refine if_congr Iff.rfl rfl ?_
  apply BitVec.eq_of_toNat_eq
  rw [← Nat.mod_eq_sub_mul_div, BitVec.toNat_umod, num, BitVec.toNat_ofNat, Nat.mod_eq_of_lt ((Nat.mod_le _ _).trans_lt x.isLt)]

end

end Sys2Proof.Says
end

section
namespace Sys2Proof.Says
open Sys2Proof.Machine

/-! ## Results of the words on bits, fields and immediates (04_scalar.md R84 to R88) -/

/-! ### Counts and reversals -/

/-- The number whose bit `n` is `p n`, for `n` below `k`. -/
def bitSum (p : Nat → Bool) (k : Nat) : Nat := ((List.range k).map fun n => (p n).toNat * 2 ^ n).sum

theorem bitSum_succ (p : Nat → Bool) (k : Nat) : bitSum p (k + 1) = 2 ^ k * (p k).toNat + bitSum p k := by
  simp [bitSum, List.range_succ, Nat.add_comm, Nat.mul_comm]

theorem bitSum_lt (p : Nat → Bool) (k : Nat) : bitSum p k < 2 ^ k := by
  induction k with
  | zero => simp [bitSum]
  | succ k ih =>
    have hbit := Nat.mul_le_mul_left (2 ^ k) (Bool.toNat_le (p k))
    rw [bitSum_succ, pow_succ]
    omega

theorem testBit_bitSum (p : Nat → Bool) (k i : Nat) : (bitSum p k).testBit i = (decide (i < k) && p i) := by
  induction k with
  | zero => simp [bitSum]
  | succ k ih =>
    rw [bitSum_succ, Nat.testBit_two_pow_mul_add _ (bitSum_lt p k), ih]
    obtain h | rfl | h := lt_trichotomy i k
    · simp [h, Nat.lt_succ_of_lt h]
    · rw [if_neg (lt_irrefl i), Nat.sub_self, Nat.testBit_bool_toNat]
      simp
    · have hsub : i - k ≠ 0 := by omega
      simp [h.not_gt, Nat.not_lt.2 (Nat.succ_le_of_lt h), Nat.testBit_bool_toNat, hsub]

theorem reverseBits_eq_num (x : W) : reverseBits x = num (((List.range 64).map fun n => (x.getLsbD (63 - n)).toNat * 2 ^ n).sum) := by
  have hsum : ((List.range 64).map fun n => (x.getLsbD (63 - n)).toNat * 2 ^ n).sum = bitSum (fun n => x.getLsbD (63 - n)) 64 := rfl
  apply BitVec.eq_of_getLsbD_eq
  intro i hi
  rw [hsum, num, BitVec.getLsbD_ofNat, testBit_bitSum, reverseBits, BitVec.getLsbD_reverse, BitVec.getMsbD_eq_getLsbD]
  simp [hi]

theorem sum_range_eight (f : Nat → Nat) : ((List.range 8).map f).sum = f 0 + f 1 + f 2 + f 3 + f 4 + f 5 + f 6 + f 7 := by
  simp [List.range_succ, Nat.add_assoc]

theorem ofBytes_reverse_bytesOf (n : Nat) :
    ofBytes (bytesOf 8 n).reverse = ((List.range 8).map fun k => n / 2 ^ (8 * (7 - k)) % 256 * 2 ^ (8 * k)).sum := by
  simp only [sum_range_eight, bytesOf, List.reverse_cons, List.reverse_nil, List.nil_append, List.cons_append, ofBytes, BitVec.toNat_ofNat,
    Nat.div_div_eq_div_mul]
  norm_num only [Nat.div_one]
  ring

theorem reverseBytes_eq_num (x : W) :
    reverseBytes x = num (((List.range 8).map fun n => x.toNat / 2 ^ (8 * (7 - n)) % 256 * 2 ^ (8 * n)).sum) :=
  congrArg num (ofBytes_reverse_bytesOf x.toNat)

theorem countOnes_eq_num (x : W) : countOnes x = num ((List.range 64).countP fun n => x.getLsbD n) := by
  rw [List.countP_eq_length_filter]
  rfl

theorem leadingZeros_eq_num (x : W) : leadingZeros x = num (((List.range 64).find? fun n => x.getMsbD n).getD 64) := by
  unfold leadingZeros
  split
  · next h =>
    have hnone : ((List.range 64).find? fun n => x.getMsbD n) = none := List.find?_range_eq_none.2 fun i _ => by simp [h]
    rw [hnone]
    rfl
  · next h =>
    have hx : x.toNat ≠ 0 := fun hx => h (BitVec.eq_of_toNat_eq hx)
    have hlog : x.toNat.log2 < 64 := (Nat.log2_lt hx).2 x.isLt
    have hfirst : ((List.range 64).find? fun n => x.getMsbD n) = some (63 - x.toNat.log2) := by
      refine List.find?_range_eq_some.2 ⟨?_, List.mem_range.2 (by omega), fun j hj => ?_⟩
      · have hsub : 63 - (63 - x.toNat.log2) = x.toNat.log2 := by omega
        have hlt : 63 - x.toNat.log2 < 64 := by omega
        simp [BitVec.getMsbD_eq_getLsbD, hlt, hsub, BitVec.getLsbD, Nat.testBit_log2 hx]
      · have hbelow : x.toNat < 2 ^ (63 - j) := (Nat.log2_lt hx).1 (by omega)
        simp [BitVec.getMsbD_eq_getLsbD, BitVec.getLsbD, Nat.testBit_lt_two_pow hbelow]
    rw [hfirst]
    rfl

/-! ### Immediates -/

theorem toInt_immOf (i : BitVec 14) : (immOf i).toInt = i.toInt := BitVec.toInt_signExtend_of_le (by decide)

theorem addi_eq_int (x : W) (i : BitVec 14) : x + immOf i = int (x.toNat + i.toInt) := by
  rw [int, BitVec.ofInt_add, BitVec.ofInt_natCast, ← num, num_toNat]
  rfl

theorem slti_eq_truth (x : W) (i : BitVec 14) : one (x.slt (immOf i)) = truth (decide (x.toInt < i.toInt)) := by
  rw [slt_eq_decide, toInt_immOf]
  rfl

theorem ult_allOnes (x : W) : decide (x.toNat < (int (-1 : BitVec 14).toInt).toNat) = decide (x ≠ 0xFFFFFFFFFFFFFFFF) := by
  have hmax : (int (-1 : BitVec 14).toInt).toNat = 0xFFFFFFFFFFFFFFFF := by decide
  have hx := x.isLt
  have heq : x = 0xFFFFFFFFFFFFFFFF ↔ x.toNat = 0xFFFFFFFFFFFFFFFF := BitVec.toNat_inj.symm
  rw [hmax, decide_eq_decide, ne_eq, heq]
  omega

/-! ### Fields and upper constants -/

theorem extractS_eq (x : W) (n p : BitVec 6) : extractS x n p = (BitVec.ofNat (n.toNat + 1) (x.toNat / 2 ^ p.toNat)).signExtend 64 := by
  rw [extractS, sext, fieldOf]
  congr 1
  apply BitVec.eq_of_toNat_eq
  simp

/-- The bits that `INS` replaces. -/
theorem getLsbD_fieldMask (n p j : Nat) (hj : j < 64) :
    (BitVec.ofNat 64 ((2 ^ (n + 1) - 1) * 2 ^ p)).getLsbD j = decide (p ≤ j ∧ j < p + n + 1) := by
  rw [BitVec.getLsbD_ofNat, Nat.testBit_mul_two_pow, Nat.testBit_two_pow_sub_one]
  simp only [hj, decide_true, Bool.true_and, Bool.decide_and]
  by_cases h : p ≤ j
  · simp only [h, decide_true, Bool.true_and, decide_eq_decide]
    omega
  · simp [h]

theorem getLsbD_insertField (x y : W) (n p : BitVec 6) {j : Nat} (hj : j < 64) :
    (insertField x y n p).getLsbD j =
      if p.toNat ≤ j ∧ j < p.toNat + n.toNat + 1 then x.getLsbD (j - p.toNat) else y.getLsbD j := by
  unfold insertField
  simp only [BitVec.getLsbD_or, BitVec.getLsbD_and, BitVec.getLsbD_not, BitVec.getLsbD_shiftLeft, getLsbD_fieldMask _ _ j hj, hj, decide_true,
    Bool.true_and]
  split
  · next h => simp only [decide_eq_true h, decide_eq_false (Nat.not_lt.2 h.1), Bool.not_true, Bool.and_false, Bool.not_false, Bool.true_and,
      Bool.and_true, Bool.false_or]
  · next h => simp only [decide_eq_false h, Bool.not_false, Bool.and_true, Bool.and_false, Bool.or_false]

theorem upper_eq_int (i : BitVec 19) : upper i = int (i.toInt * 2 ^ 14) := by
  rw [upper, int, BitVec.ofInt_mul, BitVec.shiftLeft_eq_mul_twoPow]
  rfl

theorem pcW_eq_num (s : State) : s.pcW = num s.cur.pc.toNat := by
  apply BitVec.eq_of_toNat_eq
  simp [State.pcW, num]

theorem auipc_eq_int (s : State) (i : BitVec 19) : s.pcW + upper i = int (s.cur.pc.toNat + i.toInt * 2 ^ 14) := by
  rw [pcW_eq_num, upper_eq_int, int, int, BitVec.ofInt_add, BitVec.ofInt_natCast]
  rfl

end Sys2Proof.Says
end

section
namespace Sys2Proof.Says
open Sys2Proof.Machine

/-! ## The words of the integer tables (04_scalar.md R82 to R88)

A word of a table has the encoding that its place gives, and its meaning is a form of the model with the function of the table. -/

/-! ### Words by their place in a table -/

variable {α : Type}

theorem mem_zipIdx {l : List α} {k : Nat} {e : α} (h : l[k]? = some e) : (e, k) ∈ l.zipIdx := List.mk_mem_zipIdx_iff_getElem?.2 h

/-- The word of the instruction is `w`, and the one limit on it is that of its destination `d`. -/
structure Encoded (i : Instr) (d : BitVec 5) (w : Nat) : Prop where
  word : encode i = some w
  limits : illFormed i = dstOk d

theorem Encoded.of {i : Instr} {d : BitVec 5} {v w : Nat} (he : encode i = some v) (hv : v = w) (hd : illFormed i = dstOk d) : Encoded i d w :=
  ⟨hv ▸ he, hd⟩

theorem Encoded.decodes {i : Instr} {d : BitVec 5} {w : Nat} (h : Encoded i d w) (hd : d.toNat < 28) : decodeChecked w = .ok i := by
  refine decodeEncode i w ?_ h.word
  rw [WellFormed, h.limits, dstOk, if_pos (by omega)]
  rfl

theorem encoded_alu (d a b : BitVec 5) : ∀ p ∈ aluTable.zipIdx, Encoded (p.1.1 d a b) d (wordR 0 d a b.toNat p.2) := by
  simp only [aluTable, List.zipIdx_cons, List.zipIdx_nil, List.forall_mem_cons, zero_add, Nat.reduceAdd, List.not_mem_nil, IsEmpty.forall_iff,
    implies_true, and_true]
  and_intros <;> exact .of rfl (by unfold wordR; omega) rfl

theorem encoded_mulDiv (d a b : BitVec 5) : ∀ p ∈ mulDivTable.zipIdx, Encoded (p.1.1 d a b) d (wordR 1 d a b.toNat p.2) := by
  simp only [mulDivTable, List.zipIdx_cons, List.zipIdx_nil, List.forall_mem_cons, zero_add, Nat.reduceAdd, List.not_mem_nil, IsEmpty.forall_iff,
    implies_true, and_true]
  and_intros <;> exact .of rfl (by unfold wordR; omega) rfl

theorem encoded_bits (d a : BitVec 5) : ∀ p ∈ bitsTable.zipIdx, Encoded (p.1.1 d a) d (wordR 2 d a 0 p.2) := by
  simp only [bitsTable, List.zipIdx_cons, List.zipIdx_nil, List.forall_mem_cons, zero_add, Nat.reduceAdd, List.not_mem_nil, IsEmpty.forall_iff,
    implies_true, and_true]
  and_intros <;> exact .of rfl (by unfold wordR; omega) rfl

theorem encoded_imm (d a : BitVec 5) (i : BitVec 14) : ∀ p ∈ immTable.zipIdx, Encoded (p.1.1 d a i) d (wordI (6 + p.2) d a i.toNat) := by
  simp only [immTable, List.zipIdx_cons, List.zipIdx_nil, List.forall_mem_cons, zero_add, Nat.reduceAdd, List.not_mem_nil, IsEmpty.forall_iff,
    implies_true, and_true]
  and_intros <;> exact .of rfl (by unfold wordI; omega) rfl

theorem encoded_shift (d a : BitVec 5) (m : BitVec 6) :
    ∀ p ∈ shiftTable.zipIdx, Encoded (p.1.1 d a m) d (wordI 12 d a (p.2 * 2 ^ 12 + m.toNat)) := by
  simp only [shiftTable, List.zipIdx_cons, List.zipIdx_nil, List.forall_mem_cons, zero_add, Nat.reduceAdd, List.not_mem_nil, IsEmpty.forall_iff,
    implies_true, and_true]
  and_intros <;> exact .of rfl (by unfold wordI; omega) rfl

/-! ### Words that are no instruction -/

theorem refused_of_error {w : Nat} {r : Reject} (h : decodeWord w = .error r) : Refused w := ⟨r, by rw [decodeChecked, h]⟩

section
variable {k : Nat} (d a b : BitVec 5)

/-- The fields of a word of format F-R of an A-class major opcode. -/
theorem wordR_fields (op : Nat) (hop : op < 64) (hk : k < 512) : let w := wordR op d a b.toNat k
    w / 16777216 % 128 = 64 + op ∧ w / 1 % 512 = k ∧ w / 1 % 16384 = b.toNat * 512 + k := by
  have := d.isLt
  have := a.isLt
  have := b.isLt
  unfold wordR
  omega

theorem refused_alu (hk : 26 ≤ k) (hk' : k < 512) : Refused (wordR 0 d a b.toNat k) := by
  obtain ⟨hop, hfn, -⟩ := wordR_fields d a b 0 (by decide) hk'
  refine refused_of_error (r := .unassigned 64) ?_
  rw [Laws.RoundTrip.major64 _ hop, decodeMajor64, hfn]
  simp (disch := omega) only [if_neg]

theorem refused_mulDiv (hk : 8 ≤ k) (hk' : k < 512) : Refused (wordR 1 d a b.toNat k) := by
  obtain ⟨hop, hfn, -⟩ := wordR_fields d a b 1 (by decide) hk'
  refine refused_of_error (r := .unassigned 65) ?_
  rw [Laws.RoundTrip.major65 _ hop, decodeMajor65, hfn]
  simp (disch := omega) only [if_neg]

theorem refused_bits (hk : 5 ≤ k ∨ b ≠ 0) (hk' : k < 512) : Refused (wordR 2 d a b.toNat k) := by
  obtain ⟨hop, -, hfn⟩ := wordR_fields d a b 2 (by decide) hk'
  have hb : 5 ≤ b.toNat * 512 + k := by
    obtain hk | hb := hk
    · omega
    · have : b.toNat ≠ 0 := fun h => hb (BitVec.eq_of_toNat_eq h)
      omega
  refine refused_of_error (r := .unassigned 66) ?_
  rw [Laws.RoundTrip.major66 _ hop, decodeMajor66, hfn]
  simp (disch := omega) only [if_neg]

theorem refused_shift {m n : Nat} (hk : k < 4) (hm : m < 64) (hn : n < 64) (hn0 : n ≠ 0) : Refused (wordI 12 d a (k * 2 ^ 12 + n * 2 ^ 6 + m)) := by
  have hfields : wordI 12 d a (k * 2 ^ 12 + n * 2 ^ 6 + m) / 16777216 % 128 = 76 ∧
      wordI 12 d a (k * 2 ^ 12 + n * 2 ^ 6 + m) / 64 % 256 = 64 * k + n := by
    have := d.isLt
    have := a.isLt
    unfold wordI
    omega
  obtain ⟨hop, hfn⟩ := hfields
  refine refused_of_error (r := .unassigned 76) ?_
  rw [Laws.RoundTrip.major76 _ hop, decodeMajor76, hfn]
  simp (disch := omega) only [if_neg]

end

/-! ### Meanings -/

/-- The word is the form of two sources, or of one, with some cost and the function `g`. -/
def Computes2 (i : BitVec 5 → BitVec 5 → BitVec 5 → Instr) (g : W → W → W) : Prop := ∃ c, ∀ d a b s, exec (i d a b) s = s.op2 d a b c g
def Computes1 (i : BitVec 5 → BitVec 5 → Instr) (g : W → W) : Prop := ∃ c, ∀ d a s, exec (i d a) s = s.op1 d a c g

theorem Computes2.congr {i : BitVec 5 → BitVec 5 → BitVec 5 → Instr} {f g : W → W → W} (hv : ∀ x y, f x y = g x y)
    (h : Computes2 i f := by exact ⟨_, fun _ _ _ _ => rfl⟩) : Computes2 i g :=
  (funext₂ hv : f = g) ▸ h

theorem Computes1.congr {i : BitVec 5 → BitVec 5 → Instr} {f g : W → W} (hv : ∀ x, f x = g x)
    (h : Computes1 i f := by exact ⟨_, fun _ _ _ => rfl⟩) : Computes1 i g :=
  (funext hv : f = g) ▸ h

/-! The entries of a table that name no lemma hold by definition: the model writes the same function. -/

theorem computes_alu : ∀ e ∈ aluTable, Computes2 e.1 e.2 := by
  simp only [aluTable, List.forall_mem_cons]
  exact ⟨.congr add_eq_num,
    .congr sub_eq_int,
    ⟨1, fun _ _ _ _ => rfl⟩,
    ⟨1, fun _ _ _ _ => rfl⟩,
    ⟨1, fun _ _ _ _ => rfl⟩,
    ⟨1, fun _ _ _ _ => rfl⟩,
    .congr (fun x y => shiftLeft_eq_num x (amt y)),
    .congr (fun x y => shiftRight_eq_num x (amt y)),
    .congr (fun x y => sshiftRight_eq_int x (amt y)),
    .congr (fun x y => rotateLeft_eq_num x (amt y) (amt_lt y)),
    .congr (fun x y => rotateRight_eq_num x (amt y) (amt_lt y)),
    .congr min_eq_int,
    .congr max_eq_int,
    .congr minu_eq_num,
    .congr maxu_eq_num,
    ⟨1, fun _ _ _ _ => rfl⟩,
    ⟨1, fun _ _ _ _ => rfl⟩,
    ⟨1, fun _ _ _ _ => rfl⟩,
    .congr sne_eq_truth,
    ⟨1, fun _ _ _ _ => rfl⟩,
    .congr (fun x y => (ite_not (y = 0) x 0).symm),
    .congr addw_eq_wide32,
    .congr subw_eq_wide32,
    .congr (fun x y => shlw_eq_wide32 x (amtW y)),
    .congr (fun x y => shrw_eq_wide32 x (amtW y)),
    .congr (fun x y => sarw_eq_int x (amtW y)),
    by simp⟩

theorem computes_mulDiv : ∀ e ∈ mulDivTable, Computes2 e.1 e.2 := by
  simp only [mulDivTable, List.forall_mem_cons]
  exact ⟨.congr mul_eq_int,
    ⟨3, fun _ _ _ _ => rfl⟩,
    ⟨3, fun _ _ _ _ => rfl⟩,
    .congr mulw_eq_wide32,
    .congr quot_eq,
    .congr quotU_eq,
    .congr remS_eq,
    .congr remU_eq,
    by simp⟩

theorem computes_bits : ∀ e ∈ bitsTable, Computes1 e.1 e.2 := by
  simp only [bitsTable, List.forall_mem_cons]
  exact ⟨.congr leadingZeros_eq_num,
    ⟨1, fun _ _ _ => rfl⟩,
    .congr countOnes_eq_num,
    .congr reverseBits_eq_num,
    .congr reverseBytes_eq_num,
    by simp⟩

theorem computes_imm (i : BitVec 14) : ∀ e ∈ immTable, Computes1 (fun d a => e.1 d a i) (fun x => e.2 x i) := by
  simp only [immTable, List.forall_mem_cons]
  exact ⟨.congr (addi_eq_int · i),
    ⟨1, fun _ _ _ => rfl⟩,
    ⟨1, fun _ _ _ => rfl⟩,
    ⟨1, fun _ _ _ => rfl⟩,
    .congr (slti_eq_truth · i),
    ⟨1, fun _ _ _ => rfl⟩,
    by simp⟩

theorem computes_shift (m : BitVec 6) : ∀ e ∈ shiftTable, Computes1 (fun d a => e.1 d a m) (fun x => e.2 x m) := by
  simp only [shiftTable, List.forall_mem_cons]
  exact ⟨.congr (shiftLeft_eq_num · m.toNat),
    .congr (shiftRight_eq_num · m.toNat),
    .congr (sshiftRight_eq_int · m.toNat),
    .congr (rotateRight_eq_num · m.toNat m.isLt),
    by simp⟩

end Sys2Proof.Says
end

section
namespace Sys2Proof.Says
open Sys2Proof.Machine

/-! ## What the integer words write -/

section
variable {s s1 s2 : State} {d a b : BitVec 5} {x y : W}

theorem runWord_next (s : State) (r : Res State) : ∃ t, s.runWord r = .next t := by
  cases r
  · exact ⟨_, rfl⟩
  · exact ⟨_, rfl⟩

theorem Computes2.writes {i : BitVec 5 → BitVec 5 → BitVec 5 → Instr} {g : W → W → W} (h : Computes2 i g) (ha : s.src a.toNat = .ok (x, s1))
    (hb : s1.src b.toNat = .ok (y, s2)) (hd : s2.dstOpen d.toNat = true) : ∃ t, exec (i d a b) s = .next t ∧ Writes s2 t s.me d (g x y) := by
  obtain ⟨c, h⟩ := h
  obtain ⟨t, ht⟩ : ∃ t, s.op2 d a b c g = .next t := runWord_next _ _
  exact ⟨t, (h d a b s).trans ht, writes_op2 ha hb hd ht⟩

theorem Computes1.writes {i : BitVec 5 → BitVec 5 → Instr} {g : W → W} (h : Computes1 i g) (ha : s.src a.toNat = .ok (x, s1))
    (hd : s1.dstOpen d.toNat = true) : ∃ t, exec (i d a) s = .next t ∧ Writes s1 t s.me d (g x) := by
  obtain ⟨c, h⟩ := h
  obtain ⟨t, ht⟩ : ∃ t, s.op1 d a c g = .next t := runWord_next _ _
  exact ⟨t, (h d a s).trans ht, writes_op1 ha hd ht⟩

/-- A word of no source. -/
theorem op0_writes {i : Instr} {v w : W} (h : exec i s = s.op0 d v) (hv : v = w) (hd : s.dstOpen d.toNat = true) :
    ∃ t, exec i s = .next t ∧ Writes s t s.me d w := by
  obtain ⟨t, ht⟩ : ∃ t, s.op0 d v = .next t := runWord_next _ _
  exact ⟨t, h.trans ht, writes_op0 hd (hv ▸ ht)⟩

/-- The destination of `INS` is read before it is written, and a destination that may be written is no stream. -/
theorem src_of_dstOpen (hd : s1.dstOpen d.toNat = true) (h : s1.src d.toNat = .ok (y, s2)) : s2 = s1 :=
  State.src_state _ _ _ _ h ((State.dstOpen_iff _ _).1 hd).2

end

/-- Settles O11: the words stand in the tables by their `FN` (`encoded_alu`, `encoded_mulDiv`), and each computes the function of its entry
(`computes_alu`, `computes_mulDiv`). -/
theorem aluResults : Obligations.AluResults := by
  unfold Obligations.AluResults
  refine ⟨fun k d a b hd => ⟨fun e he => (encoded_alu d a b _ (mem_zipIdx he)).decodes hd,
    fun e he => (encoded_mulDiv d a b _ (mem_zipIdx he)).decodes hd, refused_alu d a b, refused_mulDiv d a b⟩, ?_⟩
  intro s s1 s2 d a b x y ha hb hd e he
  have hcomputes : Computes2 e.1 e.2 := (List.mem_append.1 he).elim (computes_alu e) (computes_mulDiv e)
  obtain ⟨t, ht, hw⟩ := hcomputes.writes ha hb hd
  exact ⟨t, ht, hw.completed, hw.result, hw.pc⟩

/-- Settles O12: as O11, with the table of `BITS`; a nonzero `B` field makes the 14 low bits of the word exceed every `FN`. -/
theorem bitsResults : Obligations.BitsResults := by
  unfold Obligations.BitsResults
  refine ⟨fun k d a b hd hk => ⟨fun e he => (encoded_bits d a _ (mem_zipIdx he)).decodes hd, fun h => refused_bits d a b h hk⟩, ?_⟩
  intro s s1 d a x ha hd e he
  obtain ⟨t, ht, hw⟩ := (computes_bits e he).writes ha hd
  exact ⟨t, ht, hw.completed, hw.result, hw.pc⟩

/-- Settles O13: as O11, with the table of immediates; the immediate −1 is the greatest number, so `ult_allOnes` turns the last comparison into the one stated. -/
theorem immediateResults : Obligations.ImmediateResults := by
  unfold Obligations.ImmediateResults
  refine ⟨fun k e d a i he hd => (encoded_imm d a i _ (mem_zipIdx he)).decodes hd, fun s s1 d a x ha hd => ⟨fun e he i => ?_, ?_⟩⟩
  · obtain ⟨t, ht, hw⟩ := (computes_imm i e he).writes ha hd
    exact ⟨t, ht, hw.completed, hw.result, hw.pc⟩
  · have hmem : (Instr.sltiu, fun (a : W) (i : BitVec 14) => truth (decide (a.toNat < (int i.toInt).toNat))) ∈ immTable := by simp [immTable]
    obtain ⟨t, ht, hw⟩ := (computes_imm (-1) _ hmem).writes ha hd
    exact ⟨t, ht, by simpa only [ult_allOnes] using hw.result⟩

/-- A shift by a register is that by the six low bits of its second source. -/
theorem computes_shift_by_register : ∀ p ∈ shiftTable.zip [(.shl : BitVec 5 → BitVec 5 → BitVec 5 → Instr), .shr, .sar, .ror],
    ∃ f : W → Nat → W, Computes2 p.2 (fun x y => f x (amt y)) ∧ ∀ (x : W) (m : BitVec 6), f x m.toNat = p.1.2 x m := by
  simp only [shiftTable, List.zip_cons_cons, List.zip_nil_left, List.forall_mem_cons]
  exact ⟨⟨fun x k => x <<< k, ⟨1, fun _ _ _ _ => rfl⟩, fun x m => shiftLeft_eq_num x m.toNat⟩,
    ⟨fun x k => x >>> k, ⟨1, fun _ _ _ _ => rfl⟩, fun x m => shiftRight_eq_num x m.toNat⟩,
    ⟨fun x k => x.sshiftRight k, ⟨1, fun _ _ _ _ => rfl⟩, fun x m => sshiftRight_eq_int x m.toNat⟩,
    ⟨fun x k => x.rotateRight k, ⟨1, fun _ _ _ _ => rfl⟩, fun x m => rotateRight_eq_num x m.toNat m.isLt⟩,
    by simp⟩

/-- Settles O14: as O11, with the table of immediate shifts; the shift of R82 is the same function of its amount (`computes_shift_by_register`). -/
theorem shiftImmediateResults : Obligations.ShiftImmediateResults := by
  unfold Obligations.ShiftImmediateResults
  refine ⟨fun k m n d a hk hm hn hd => ⟨fun e he => ?_, refused_shift d a hk hm hn⟩, ?_⟩
  · have hamount : (BitVec.ofNat 6 m).toNat = m := Nat.mod_eq_of_lt hm
    have hword := encoded_shift d a (BitVec.ofNat 6 m) _ (mem_zipIdx he)
    rw [hamount] at hword
    exact hword.decodes hd
  · intro p hp s s1 d a m x ha hd
    obtain ⟨t, ht, hw⟩ := (computes_shift m p.1 (List.of_mem_zip hp).1).writes ha hd
    refine ⟨t, ht, hw.completed, hw.result, hw.pc, fun b s2 y hb hd2 hy => ?_⟩
    obtain ⟨f, hcomputes, hf⟩ := computes_shift_by_register p hp
    obtain ⟨u, hu, hwu⟩ := hcomputes.writes ha hb hd2
    have hresult : f x (amt y) = p.1.2 x m := by rw [← hf, amt, hy]
    exact ⟨u, hu, hresult ▸ hwu.result⟩

/-- Settles O15: a field is read by `EXTS` and `EXTZ`, and `INS` replaces its bits (`getLsbD_insertField`). -/
theorem fieldResults : Obligations.FieldResults := by
  unfold Obligations.FieldResults
  intro s s1 s2 d a x y ha hd
  refine ⟨fun n p _ => ⟨?_, ?_, fun hy => ?_⟩, fun i h0 => ⟨?_, ?_⟩⟩
  · have hexts : Computes1 (fun d a => .exts d a n p) fun x => extractS x n p := ⟨1, fun _ _ _ => rfl⟩
    obtain ⟨t, ht, hw⟩ := hexts.writes ha hd
    exact ⟨t, ht, hw.completed, hw.pc, extractS_eq x n p ▸ hw.result⟩
  · have hextz : Computes1 (fun d a => .extz d a n p) fun x => extractZ x n p := ⟨1, fun _ _ _ => rfl⟩
    obtain ⟨t, ht, hw⟩ := hextz.writes ha hd
    exact ⟨t, ht, hw.completed, hw.pc, hw.result⟩
  · obtain ⟨t, ht⟩ : ∃ t, s.op2 d a d 1 (fun x y => insertField x y n p) = .next t := runWord_next _ _
    have hw := writes_op2 ha hy (src_of_dstOpen hd hy ▸ hd) ht
    exact ⟨t, ht, hw.completed, hw.pc, _, hw.result, fun j hj => getLsbD_insertField x y n p hj⟩
  · obtain ⟨t, ht, hw⟩ := op0_writes (i := .lui d i) rfl (upper_eq_int i) h0
    exact ⟨t, ht, hw.completed, hw.result, hw.pc⟩
  · obtain ⟨t, ht, hw⟩ := op0_writes (i := .auipc d i) rfl (auipc_eq_int s i) h0
    exact ⟨t, ht, hw.completed, hw.result, hw.pc⟩

end Sys2Proof.Says
end

section
namespace Sys2Proof.Says
open Sys2Proof.Machine

/-! ## NOP (04_scalar.md R100) -/

theorem noPacket_trap {s : State} (h : (s.ctlOf s.me).p = true) : s.noPacket = Machine.trap .packet 0 := if_pos h

theorem decodeWord_of_decodeChecked {w : Nat} {i : Instr} (h : decodeChecked w = .ok i) : decodeWord w = .ok i := by
  unfold decodeChecked at h
  cases hw : decodeWord w with
  | error r =>
    rw [hw] at h
    cases h
  | ok j =>
    rw [hw] at h
    dsimp only at h
    cases hj : illFormed j with
    | some r =>
      rw [hj] at h
      cases h
    | none => rwa [hj] at h

/-- Settles O22: the one check of `NOP` is that of the open packet; two all-zero words are of the same class, which check 3 of a PAIR refuses. -/
theorem nopHasNoEffect : Obligations.NopHasNoEffect := by
  unfold Obligations.NopHasNoEffect
  refine ⟨fun s hp => ⟨s.retire, ?_, passes_retire s, moves_retire_self s⟩, fun s hp => ?_, by decide, fun w hw h => ?_, fun s rid pc hpc => ?_⟩
  · have hexec : exec .nop s = execNop s := rfl
    rw [hexec, execNop, noPacket_of hp]
    rfl
  · have hexec : exec .nop s = execNop s := rfl
    rw [Traps, hexec, execNop, noPacket_trap hp]
    rfl
  · have hword : encode .nop = some w := encodeDecode w .nop hw (decodeWord_of_decodeChecked h)
    exact (Option.some.inj hword).symm
  · rw [checkBundle_class hpc (by decide), State.prepIllegal, ite_self]
    rfl

end Sys2Proof.Says
end

section
namespace Sys2Proof.Says
open Sys2Proof.Machine

/-! ## Branches and jumps (04_scalar.md R94 to R96) -/

variable {s s1 s2 t : State} {d a b : BitVec 5} {x y v : W}

/-! ### The place of a word after its sources -/

theorem takeElement_cur (s : State) (k : Nat) (x : W) : (s.takeElement k x).cur = s.cur := by
  rw [takeElement_eq, State.modChunk_cur]
  split
  · simp only [unstage, putDescriptor, State.modCore_cur, State.rowPut_cur]
  · rfl

theorem popStream_cur {k : Nat} (h : s.popStream k = .ok (v, t)) : t.cur = s.cur := by
  unfold State.popStream at h
  cases hr : s.readRow (256 + 16 * (k - 24)) 16 with
  | error e =>
    rw [hr] at h
    cases h
  | ok n =>
    rw [hr] at h
    simp only [bind, Except.bind] at h
    split at h
    · cases h
      rfl
    split at h
    · cases h
    split at h
    · split at h
      · split at h <;> cases h
      · cases h
    · cases h
      exact takeElement_cur s k _

/-- A source changes nothing of the word's place. -/
theorem src_cur {k : Nat} (h : s.src k = .ok (v, t)) : t.cur = s.cur := by
  cases hb : s.seenBound k with
  | true => exact popStream_cur (src_of_seenBound hb ▸ h)
  | false => rw [State.src_state _ _ _ _ h hb]

/-! ### Targets -/

theorem pcW_add_words {n : Nat} (s : State) (o : BitVec n) : s.pcW + o.signExtend 64 * 4 = int (s.cur.pc.toNat + 4 * o.toInt) := by
  rw [int, BitVec.ofInt_add, BitVec.ofInt_natCast, BitVec.ofInt_mul, pcW_eq_num, mul_comm]
  rfl

theorem nextW_eq_successorOf (s : State) : s.nextW = successorOf s := by
  apply BitVec.eq_of_toNat_eq
  unfold State.nextW successorOf Cur.next
  cases s.cur.slot <;> simp [num]

/-! ### Branches -/

/-- A branch of the table is the model's branch by its condition. -/
theorem branches_of_mem : ∀ e ∈ branchTable, ∃ c : W → W → Bool, (∀ a b o s, exec (e.1 a b o) s = s.branch a b o c) ∧ ∀ x y, c x y = true ↔ e.2 x y := by
  simp only [branchTable, List.forall_mem_cons]
  exact ⟨⟨fun x y => x == y, fun _ _ _ _ => rfl, fun _ _ => beq_iff_eq⟩,
    ⟨fun x y => x != y, fun _ _ _ _ => rfl, fun _ _ => bne_iff_ne⟩,
    ⟨fun x y => x.slt y, fun _ _ _ _ => rfl, fun _ _ => BitVec.slt_iff_toInt_lt⟩,
    ⟨fun x y => !x.slt y, fun _ _ _ _ => rfl, fun x y => by simp [slt_eq_decide]⟩,
    ⟨fun x y => x.ult y, fun _ _ _ _ => rfl, fun _ _ => decide_eq_true_iff⟩,
    ⟨fun x y => !x.ult y, fun _ _ _ _ => rfl, fun x y => by simp [BitVec.ult]⟩,
    by simp⟩

theorem branch_eq {o : BitVec 14} {c : W → W → Bool} (hp : (s.ctlOf s.me).p = false) (ha : s.src a.toNat = .ok (x, s1)) (hb : s1.src b.toNat = .ok (y, s2)) :
    s.branch a b o c = .next (if c x y then s2.jumpTo (s2.pcW + o.signExtend 64 * 4) else s2).retire := by
  rw [State.branch, noPacket_of hp, ha]
  simp only [bind, Except.bind, hb, State.runWord]

theorem passes_jumpTo_retire (s : State) (x : W) : Passes s (s.jumpTo x).retire s.me := (passes_retire (s.jumpTo x)).of_modCur

theorem branches : Branches := by
  intro s s1 s2 a b o x y hp ha hb e he
  obtain ⟨c, hexec, hc⟩ := branches_of_mem e he
  have hcur : s2.cur = s.cur := (src_cur hb).trans (src_cur ha)
  have hme : s2.me = s.me := congrArg Cur.rid hcur
  have htarget := pcW_add_words s2 o
  rw [hcur] at htarget
  refine ⟨_, (hexec a b o s).trans (branch_eq hp ha hb), ?_⟩
  rw [← hc, htarget, ← hme]
  cases c x y with
  | true => exact ⟨passes_jumpTo_retire s2 _, fun _ => goesTo_retire rfl rfl rfl, fun h => absurd rfl h⟩
  | false => exact ⟨passes_retire s2, fun h => absurd h Bool.false_ne_true, fun _ => moves_retire_self s2⟩

/-! ### Jumps -/

theorem rowPut_jumpTo (s : State) (r o n v : Nat) (x : W) : (s.jumpTo x).rowPut r o n v = (s.rowPut r o n v).jumpTo x := rfl

theorem modThr_jumpTo (s : State) (r : Nat) (f : Thr → Thr) (x : W) : (s.jumpTo x).modThr r f = (s.modThr r f).jumpTo x := rfl

theorem setReg_jumpTo (s : State) (n : Nat) (v x : W) : (s.jumpTo x).setReg n v = (s.setReg n v).jumpTo x := by
  unfold State.setReg
  split
  · rfl
  · rw [State.jumpTo_me, rowPut_jumpTo, modThr_jumpTo]

/-- A jump is noted in the scratch of the step, apart from the result. -/
theorem put_jumpTo (s : State) (n : Nat) (v x : W) : (s.jumpTo x).put n v = (s.put n v).jumpTo x := by
  unfold State.put State.pushWin
  dsimp only
  rw [setReg_jumpTo, State.jumpTo_me, State.jumpTo_rowGet, rowPut_jumpTo, modThr_jumpTo]

theorem wrote_put_jumpTo_retire (h : s.dstOpen d.toNat = true) (v x : W) : Wrote s ((s.put d.toNat v).jumpTo x).retire s.me d v := by
  rw [← put_jumpTo]
  exact (writes_put_retire (s := s.jumpTo x) h v).toWrote.of_modCur

theorem jumpTo_slot (s : State) (x : W) : (s.jumpTo x).cur.slot = s.cur.slot := rfl

theorem goesTo_put_jumpTo_retire (s : State) (n : Nat) (v x : W) : GoesTo s ((s.put n v).jumpTo x).retire s.me x :=
  goesTo_retire ((State.jumpTo_me _ _).trans (s.put_me n v)) ((jumpTo_slot _ _).trans (congrArg Cur.slot (s.put_cur n v))) rfl

theorem execJal_eq (o : BitVec 19) (hp : (s.ctlOf s.me).p = false) (hd : s.dstOpen d.toNat = true) :
    exec (.jal d o) s = .next ((s.put d.toNat s.nextW).jumpTo (s.pcW + o.signExtend 64 * 4)).retire := by
  have hexec : exec (.jal d o) s = execJal d o s := rfl
  rw [hexec, execJal, noPacket_of hp]
  simp only [bind, Except.bind, State.dst_open _ _ _ hd, State.runWord]

theorem execJalr_eq (i : BitVec 14) (hp : (s.ctlOf s.me).p = false) (ha : s.src a.toNat = .ok (x, s1)) (hd : s1.dstOpen d.toNat = true) :
    exec (.jalr d a i) s = .next ((s1.put d.toNat s1.nextW).jumpTo (x + immOf i)).retire := by
  have hexec : exec (.jalr d a i) s = execJalr d a i s := rfl
  rw [hexec, execJalr, noPacket_of hp, ha]
  simp only [bind, Except.bind, State.dst_open _ _ _ hd, State.runWord]

theorem jumps : Jumps := by
  intro s s1 d a o i x hp
  refine ⟨fun hd => ⟨_, execJal_eq o hp hd, ?_, ?_⟩, fun ha hd => ⟨_, execJalr_eq i hp ha hd, ?_, ?_⟩⟩
  · rw [nextW_eq_successorOf]
    exact wrote_put_jumpTo_retire hd _ _
  · rw [pcW_add_words]
    exact goesTo_put_jumpTo_retire s _ _ _
  · have hnext : s1.nextW = successorOf s := by rw [nextW_eq_successorOf, successorOf, successorOf, src_cur ha]
    rw [hnext, ← State.src_me _ _ _ _ ha]
    exact wrote_put_jumpTo_retire hd _ _
  · rw [addi_eq_int, ← State.src_me _ _ _ _ ha]
    exact goesTo_put_jumpTo_retire s1 _ _ _

/-- Settles O20: a word that transfers control retires with a jump in the scratch of its step. -/
theorem transfersOfControl : Obligations.TransfersOfControl := ⟨branches, jumps⟩

end Sys2Proof.Says
end

section
namespace Sys2Proof.Says
open Sys2Proof.Machine

/-! ## Row-local access (04_scalar.md R97, R98) -/

variable {s s1 t : State} {off n : Nat} {store : Bool} {d : BitVec 5} {i : BitVec 14} {x : W}

theorem rowAddr_eq (rid : Nat) : rowAddr rid = 0x10000000000 + coreOfRid rid * 0x200000 + rowOfRid rid * 1024 := by
  unfold rowAddr rowStoreBase coreOfRid rowOfRid
  omega

/-! ### The checks -/

theorem rowLocal_align (h : off % n ≠ 0) : s.rowLocal off n store = Machine.trap .align (num (rowAddr s.me + off)) := if_pos h

theorem rowLocal_range (h : off % n = 0) (hb : isBase s.me = false) (hl : s.rangeLocked s.myCluster (rowAddr s.me + off) n store = true) :
    s.rowLocal off n store = Machine.trap .range (num (rowAddr s.me + off)) := by
  rw [State.rowLocal, if_neg (not_not.2 h), if_pos (by rw [hb, hl]; rfl)]
  rfl

/-- Past the two traps the access waits where a word before it is still to write its bytes. -/
theorem rowLocal_unlocked (h : off % n = 0) (hl : isBase s.me = true ∨ s.rangeLocked s.myCluster (rowAddr s.me + off) n store = false) :
    s.rowLocal off n store = if s.segPending off n then stall else .ok () := by
  have hfree : (!isBase s.me && s.rangeLocked s.myCluster (rowAddr s.me + off) n store) = false := by
    obtain hl | hl := hl
    · rw [hl]; rfl
    · rw [hl, Bool.and_false]
  rw [State.rowLocal, if_neg (not_not.2 h), hfree, if_neg Bool.false_ne_true]

/-! ### Loads -/

theorem ldr_of_mem : ∀ e ∈ ldrTable, ∀ d i s, exec (e.1 d i) s = s.ldr d i e.2.1 e.2.2 := by
  simp only [ldrTable, List.forall_mem_cons]
  exact ⟨fun _ _ _ => rfl, fun _ _ _ => rfl, fun _ _ _ => rfl, fun _ _ _ => rfl, fun _ _ _ => rfl, fun _ _ _ => rfl, fun _ _ _ => rfl, by simp⟩

theorem ldr_of_stop {e : Stop} {signed : Bool} (h : s.rowLocal i.toNat n false = .error e) : s.ldr d i n signed = .next (s.applyStop e) := by
  rw [State.ldr, h]
  rfl

theorem ldr_eq {signed : Bool} (h : s.rowLocal i.toNat n false = .ok ()) (hu : s.uncorrAt (rowAddr s.me + i.toNat) n = none)
    (hd : s.dstOpen d.toNat = true) : s.ldr d i n signed = .next (s.put d.toNat (extended n signed (s.seen i.toNat n))).retire := by
  rw [State.ldr, h]
  simp only [bind, Except.bind, readRow_of_correctable hu, State.dst_open _ _ _ hd, State.runWord]
  rfl

theorem rowLocalLoads : RowLocalLoads := by
  intro s d i e he n pa
  have hexec := ldr_of_mem e he d i s
  have hpa : rowAddr s.me + i.toNat = pa := congrArg (· + i.toNat) (rowAddr_eq s.me)
  refine ⟨fun h => ?_, fun h hb hl => ?_, fun h hl hp => ?_, fun h hl hp hu hd => ?_⟩
  · exact hexec.trans (ldr_of_stop ((rowLocal_align h).trans (by rw [hpa]; rfl)))
  · exact hexec.trans (ldr_of_stop ((rowLocal_range h hb (hpa ▸ hl)).trans (by rw [hpa]; rfl)))
  · exact hexec.trans (ldr_of_stop ((rowLocal_unlocked h (hpa ▸ hl)).trans (if_pos hp)))
  · have hfree : s.rowLocal i.toNat n false = .ok () := (rowLocal_unlocked h (hpa ▸ hl)).trans (if_neg (by simp [hp]))
    refine ⟨_, hexec.trans (ldr_eq hfree (hpa ▸ hu) hd), ?_⟩
    have hw := writes_put_retire hd (extended n e.2.2 (s.seen i.toNat n))
    rw [← hpa]
    exact hw

/-! ### Stores -/

theorem str_of_mem : ∀ e ∈ strTable, ∀ d i s, exec (e.1 d i) s = s.str d i e.2 := by
  simp only [strTable, List.forall_mem_cons]
  exact ⟨fun _ _ _ => rfl, fun _ _ _ => rfl, fun _ _ _ => rfl, fun _ _ _ => rfl, by simp⟩

theorem str_of_stop {e : Stop} (h : s.rowLocal i.toNat n true = .error e) : s.str d i n = .next (s.applyStop e) := by
  rw [State.str, h]
  rfl

theorem str_eq (h : s.rowLocal i.toNat n true = .ok ()) (hx : s.src d.toNat = .ok (x, s1)) :
    s.str d i n = .next (s1.rowPut s1.me i.toNat n x.toNat).retire := by
  rw [State.str, h]
  simp only [bind, Except.bind, hx, State.runWord]

theorem getD_bytesOf (n : Nat) : ∀ v k : Nat, k < n → (bytesOf n v).getD k 0 = BitVec.ofNat 8 (v / 2 ^ (8 * k)) := by
  induction n with
  | zero => intro v k hk; omega
  | succ n ih =>
    intro v k hk
    cases k with
    | zero => simp [bytesOf]
    | succ k =>
      have hpow : 2 ^ (8 * (k + 1)) = 256 * 2 ^ (8 * k) := by
        rw [Nat.mul_succ, pow_add]
        omega
      rw [bytesOf, List.getD_cons_succ, ih _ _ (by omega), Nat.div_div_eq_div_mul, hpow]

theorem stores_rowPut_retire (s : State) (off n : Nat) (v : W) :
    Stores s (s.rowPut s.me off n v.toNat).retire s.me (rowAddr s.me + off) n v where
  completed := State.retire_ended _
  pc := moves_retire (s.rowPut_at_ctlOf _ _ _ _ _) (s.rowPut_me _ _ _ _) rfl rfl rfl
  rest := elsewhere_retire (by constructor <;> rfl)
  ctl := onlyPc_retire (fun r => s.rowPut_at_ctlOf _ _ _ _ r) (s.rowPut_me _ _ _ _)
  thr r := by rw [State.retire_at_thrOf, State.rowPut_at_thrOf]
  stored k hk := by
    rw [State.retire_mem]
    refine (mget_mwrite _ _ _ _).trans ?_
    rw [if_pos ⟨by omega, by rw [bytesOf_length]; omega⟩, Nat.add_sub_cancel_left, getD_bytesOf n _ k hk]
  mem a h := by
    rw [State.retire_mem]
    refine (mget_mwrite _ _ _ _).trans ?_
    rw [if_neg (by rw [bytesOf_length]; omega)]

theorem rowLocalStores : RowLocalStores := by
  intro s s1 d i x e he n pa
  have hexec := str_of_mem e he d i s
  have hpa : rowAddr s.me + i.toNat = pa := congrArg (· + i.toNat) (rowAddr_eq s.me)
  refine ⟨fun h => ?_, fun h hb hl => ?_, fun h hl hp hx => ?_⟩
  · exact hexec.trans (str_of_stop ((rowLocal_align h).trans (by rw [hpa]; rfl)))
  · exact hexec.trans (str_of_stop ((rowLocal_range h hb (hpa ▸ hl)).trans (by rw [hpa]; rfl)))
  · have hfree : s.rowLocal i.toNat n true = .ok () := (rowLocal_unlocked h (hpa ▸ hl)).trans (if_neg (by simp [hp]))
    refine ⟨_, hexec.trans (str_eq hfree hx), ?_⟩
    rw [← hpa, ← State.src_me _ _ _ _ hx]
    exact stores_rowPut_retire s1 _ _ _

/-- Settles O21: both words pass the checks of `State.rowLocal`; the load then puts what the word sees of its row, the store writes the bytes of its source. -/
theorem rowLocalAccesses : Obligations.RowLocalAccesses := ⟨rowLocalLoads, rowLocalStores⟩

end Sys2Proof.Says
end

section
namespace Sys2Proof.Says
open Sys2Proof.Machine

/-! ## Floating-point words (04_scalar.md R90 to R93) -/

variable {s s1 s2 s3 t : State} {rid : Nat} {d a b : BitVec 5} {u v w : W} {c : Nat}

/-! ### Sticky flags -/

/-- Sticky flags are in one byte of the row, the last of `STS`. -/
theorem orSts_mget (s : State) (f i : Nat) : mget (s.orSts f).mem i =
    if i = rowAddr s.me + 7 then BitVec.ofNat 8 ((mget s.mem i).toNat ||| f % 64) else mget s.mem i := by
  have hbyte : s.rowGet s.me 7 1 = (mget s.mem (rowAddr s.me + 7)).toNat := by simp [State.rowGet, mread]
  refine (mget_mwrite _ _ _ _).trans ?_
  rw [bytesOf_length, hbyte]
  by_cases h : i = rowAddr s.me + 7
  · rw [if_pos (by omega), if_pos h, h, Nat.sub_self]
    rfl
  · rw [if_neg (by omega), if_neg h]

theorem orSts_zero_mget (s : State) (i : Nat) : mget (s.orSts 0).mem i = mget s.mem i := by
  rw [orSts_mget, Nat.zero_mod, Nat.or_zero, BitVec.ofNat_toNat, BitVec.setWidth_eq, ite_self]

theorem orSts_greg (s : State) (f k : Nat) (hk : k ≠ 0) : (s.orSts f).greg s.me k = s.greg s.me k :=
  State.rowGet_rowPut_disjoint s s.me 7 1 _ (8 * k) 8 (.inr (by omega))

theorem Elsewhere.orSts (f : Nat) (h : Elsewhere s t) : Elsewhere (s.orSts f) (t.orSts f) :=
  ⟨h.cycle, h.core, h.quad, h.oct, h.clu, h.ten, h.pkg, h.nodes, h.teams, h.bdc, h.banks, h.pip, h.uncorr, h.sel, h.schedule, h.seq⟩

/-- A word that sets flags besides its result: the flags are in none of the bytes that the result changes. -/
theorem Writes.orSts (f : Nat) (hme : t.me = s.me) (h : Writes s t s.me d v) : Writes (s.orSts f) (t.orSts f) s.me d v := by
  have hgreg (k : Nat) (hk : k ≠ 0) : (t.orSts f).greg s.me k = t.greg s.me k := hme ▸ orSts_greg t f k hk
  refine ⟨⟨h.completed, ⟨fun hd => ?_, ?_, ?_, ?_, ?_⟩, ⟨h.frame.rest.orSts f, ⟨h.frame.ctl.others, h.frame.ctl.own⟩, h.frame.thr, h.frame.own, ?_⟩⟩, h.pc⟩
  · rw [hgreg _ fun h0 => hd (BitVec.eq_of_toNat_eq h0), h.result.reg hd]
  · rw [hgreg _ (by decide), h.result.d1]
  · rw [hgreg _ (by decide), orSts_greg _ _ _ (by decide), h.result.d2]
  · rw [hgreg _ (by decide), orSts_greg _ _ _ (by decide), h.result.d3]
  · rw [hgreg _ (by decide), orSts_greg _ _ _ (by decide), h.result.d4]
  · intro i hd hw
    rw [orSts_mget, orSts_mget, hme, h.frame.mem i hd hw]

theorem Writes.of_orSts_zero (h : Writes s t s.me d v) : Writes (s.orSts 0) t s.me d v := by
  refine ⟨⟨h.completed, ⟨h.result.reg, h.result.d1, ?_, ?_, ?_⟩, ⟨?_, ⟨h.frame.ctl.others, h.frame.ctl.own⟩, h.frame.thr, h.frame.own, ?_⟩⟩, h.pc⟩
  · rw [orSts_greg _ _ _ (by decide), h.result.d2]
  · rw [orSts_greg _ _ _ (by decide), h.result.d3]
  · rw [orSts_greg _ _ _ (by decide), h.result.d4]
  · have hr := h.frame.rest
    exact ⟨hr.cycle, hr.core, hr.quad, hr.oct, hr.clu, hr.ten, hr.pkg, hr.nodes, hr.teams, hr.bdc, hr.banks, hr.pip, hr.uncorr, hr.sel, hr.schedule, hr.seq⟩
  · intro i hd hw
    rw [orSts_zero_mget, h.frame.mem i hd hw]

theorem rowPut_retire (s : State) (r o n v : Nat) : (s.rowPut r o n v).retire = s.retire.rowPut r o n v := by
  unfold State.retire
  dsimp only [State.rowPut, State.modCur]
  split
  · rfl
  · rfl

theorem orSts_retire (s : State) (f : Nat) : (s.orSts f).retire = s.retire.orSts f := by
  rw [State.orSts, rowPut_retire, State.orSts, State.retire_me, State.retire_rowGet]

/-! ### Results with flags -/

theorem fpDst_writes {r : FpRes} (hd : s.dstOpen d.toNat = true) :
    ∃ t, s.fpDst d c r = .ok t ∧ Writes (s.orSts r.2) t.retire s.me d r.1 := by
  have hw := writes_spend_put_retire c hd r.1
  have hput : (s.spend c).dst d.toNat r.1 = .ok ((s.spend c).put d.toNat r.1) := State.dst_open _ _ _ ((dstOpen_spend s c _).trans hd)
  rw [State.fpDst, hput]
  by_cases hf : r.2 = 0
  · refine ⟨_, congrArg Except.ok (if_pos hf), ?_⟩
    rw [hf]
    exact hw.of_orSts_zero
  · refine ⟨_, congrArg Except.ok (if_neg hf), ?_⟩
    rw [orSts_retire]
    exact hw.orSts r.2 (by rw [State.retire_me, State.put_me]; rfl)

theorem fp1_writes {f : W → FpRes} (ha : s.src a.toNat = .ok (u, s1)) (hd : s1.dstOpen d.toNat = true) :
    ∃ t, s.fp1 d a c f = .next t ∧ Writes (s1.orSts (f u).2) t s.me d (f u).1 := by
  obtain ⟨t, ht, hw⟩ := fpDst_writes (c := c) (r := f u) hd
  refine ⟨t.retire, ?_, State.src_me _ _ _ _ ha ▸ hw⟩
  simp only [State.fp1, ha, bind, Except.bind, ht, State.runWord]

theorem fp2_writes {f : W → W → FpRes} (ha : s.src a.toNat = .ok (u, s1)) (hb : s1.src b.toNat = .ok (v, s2)) (hd : s2.dstOpen d.toNat = true) :
    ∃ t, s.fp2 d a b c f = .next t ∧ Writes (s2.orSts (f u v).2) t s.me d (f u v).1 := by
  obtain ⟨t, ht, hw⟩ := fpDst_writes (c := c) (r := f u v) hd
  have hme : s2.me = s.me := (State.src_me _ _ _ _ hb).trans (State.src_me _ _ _ _ ha)
  refine ⟨t.retire, ?_, hme ▸ hw⟩
  simp only [State.fp2, ha, hb, bind, Except.bind, ht, State.runWord]

theorem fp3_writes {f : W → W → W → FpRes} (ha : s.src a.toNat = .ok (u, s1)) (hb : s1.src b.toNat = .ok (v, s2))
    (hw : s2.src d.toNat = .ok (w, s3)) (hd : s3.dstOpen d.toNat = true) :
    ∃ t, s.fp3 d a b c f = .next t ∧ Writes (s3.orSts (f u v w).2) t s.me d (f u v w).1 := by
  obtain ⟨t, ht, hwrites⟩ := fpDst_writes (c := c) (r := f u v w) hd
  have hme : s3.me = s.me := (State.src_me _ _ _ _ hw).trans ((State.src_me _ _ _ _ hb).trans (State.src_me _ _ _ _ ha))
  refine ⟨t.retire, ?_, hme ▸ hwrites⟩
  simp only [State.fp3, ha, hb, hw, bind, Except.bind, ht, State.runWord]

/-! ### The form of each word of the tables -/

theorem fp1_of_mem (p : BitVec 1) (r x y : BitVec 3) : ∀ e ∈ fp1Table p r x y, ∃ c, ∀ d a s, exec (e.1 d a) s = s.fp1 d a c e.2 := by
  simp only [fp1Table, List.forall_mem_cons]
  exact ⟨⟨if p = 0 then 14 else 28, fun _ _ _ => rfl⟩, ⟨3, fun _ _ _ => rfl⟩, ⟨3, fun _ _ _ => rfl⟩, by simp⟩

theorem fp2_of_mem (p : BitVec 1) (r : BitVec 3) : ∀ e ∈ fp2Table p r, ∃ c, ∀ d a b s, exec (e.1 d a b) s = s.fp2 d a b c e.2 := by
  simp only [fp2Table, List.forall_mem_cons]
  exact ⟨⟨4, fun _ _ _ _ => rfl⟩, ⟨4, fun _ _ _ _ => rfl⟩, ⟨4, fun _ _ _ _ => rfl⟩, ⟨if p = 0 then 12 else 24, fun _ _ _ _ => rfl⟩,
    ⟨3, fun _ _ _ _ => rfl⟩, ⟨3, fun _ _ _ _ => rfl⟩, ⟨3, fun _ _ _ _ => rfl⟩, ⟨3, fun _ _ _ _ => rfl⟩, ⟨3, fun _ _ _ _ => rfl⟩,
    ⟨3, fun _ _ _ _ => rfl⟩, ⟨3, fun _ _ _ _ => rfl⟩, ⟨3, fun _ _ _ _ => rfl⟩, by simp⟩

theorem fp3_of_mem (p : BitVec 1) (r : BitVec 3) : ∀ e ∈ fp3Table p r, ∃ c, ∀ d a b s, exec (e.1 d a b) s = s.fp3 d a b c e.2 := by
  simp only [fp3Table, List.forall_mem_cons]
  exact ⟨⟨4, fun _ _ _ _ => rfl⟩, ⟨4, fun _ _ _ _ => rfl⟩, by simp⟩

/-- Settles O17: each word is a form of one, two or three sources, and a form puts its result and then its flags (`fpDst_writes`). -/
theorem floatWordsComplete : Obligations.FloatWordsComplete := by
  unfold Obligations.FloatWordsComplete
  intro s s1 s2 s3 d a b u v w p r x y ha hb hw
  refine ⟨fun hd e he => ?_, fun hd e he => ?_, fun hd e he => ?_⟩
  · obtain ⟨c, hexec⟩ := fp1_of_mem p r x y e he
    rw [hexec]
    exact fp1_writes ha hd
  · obtain ⟨c, hexec⟩ := fp2_of_mem p r e he
    rw [hexec]
    exact fp2_writes ha hb hd
  · obtain ⟨c, hexec⟩ := fp3_of_mem p r e he
    rw [hexec]
    exact fp3_writes ha hb hw hd

end Sys2Proof.Says
end

section
namespace Sys2Proof.Says
open Sys2Proof.Machine

/-! ## Values of the scalar floating formats (04_scalar.md R89, R91; 11_formats.md R188 to R194) -/

section
variable {f : Fmt} {x y p : Nat} {u v : Val}

theorem fpFmt_kind (p : Nat) : (fpFmt p).kind = .ieee := by
  unfold fpFmt
  split
  · rfl
  · rfl

theorem fpFmt_width_le (p : Nat) : (fpFmt p).width ≤ 64 := by
  unfold fpFmt
  split
  · decide
  · decide

theorem scaled_fin (neg : Bool) (m : Nat) (e : Int) : ∃ a b, scaled neg m e = .fin neg a b ∧ 0 < b ∧ (a = 0 ↔ m = 0) := by
  unfold scaled
  split
  · exact ⟨_, _, rfl, Nat.one_pos, by simp⟩
  · exact ⟨_, _, rfl, by positivity, Iff.rfl⟩

/-- An encoding that is neither a NaN nor an infinity has a fraction for its value, with the sign bit for its sign; it is a zero where both fields are 0. -/
theorem valOf_fin (hnan : isNaN f x = false) (hinf : isInf f x = false) :
    ∃ a b, valOf f x = .fin (signBit f x) a b ∧ 0 < b ∧ (a = 0 ↔ expField f x = 0 ∧ mantField f x = 0) := by
  unfold valOf
  rw [hnan, hinf, if_neg Bool.false_ne_true, if_neg Bool.false_ne_true]
  dsimp only
  split
  · next he =>
    obtain ⟨a, b, h, hb, ha⟩ := scaled_fin (signBit f x) (mantField f x) (1 - (f.bias : Int) - f.mb)
    exact ⟨a, b, h, hb, by rw [ha, and_iff_right he]⟩
  · next he =>
    obtain ⟨a, b, h, hb, ha⟩ := scaled_fin (signBit f x) (2 ^ f.mb + mantField f x) ((expField f x : Int) - f.bias - f.mb)
    refine ⟨a, b, h, hb, ?_⟩
    have hpos : 0 < 2 ^ f.mb := by positivity
    rw [ha]
    exact ⟨fun h => by omega, fun h => absurd h.1 he⟩

theorem valOf_nan (h : isNaN f x = true) : valOf f x = .nan := if_pos h

theorem valOf_inf (hnan : isNaN f x = false) (h : isInf f x = true) : valOf f x = .inf (signBit f x) := by
  rw [valOf, hnan, if_neg Bool.false_ne_true, if_pos h]

theorem finite_valOf_iff : finite (valOf f x) ↔ isNaN f x = false ∧ isInf f x = false := by
  cases hnan : isNaN f x with
  | true => simp [valOf_nan hnan, finite]
  | false =>
    cases hinf : isInf f x with
    | true => simp [valOf_inf hnan hinf, finite]
    | false =>
      obtain ⟨a, b, h, -⟩ := valOf_fin hnan hinf
      simp [h, finite]

theorem isSNaN_of_not_isNaN (h : isNaN f x = false) : isSNaN f x = false := by
  rw [isSNaN, h, Bool.and_false, Bool.false_and]

theorem ratOf_eq_zero_iff {neg : Bool} {a b : Nat} (hb : 0 < b) : ratOf (.fin neg a b) = 0 ↔ a = 0 := by
  have hb' : (b : ℚ) ≠ 0 := by exact_mod_cast hb.ne'
  cases neg <;> simp [ratOf, hb']

/-! ### Arithmetic -/

theorem add_nan (r : Bool) (h : u = .nan ∨ v = .nan) : u.add r v = .nan := by
  obtain rfl | rfl := h
  · cases v <;> rfl
  · cases u <;> rfl

theorem mul_nan (h : u = .nan ∨ v = .nan) : u.mul v = .nan := by
  obtain rfl | rfl := h
  · cases v <;> rfl
  · cases u <;> rfl

theorem div_nan (h : u = .nan ∨ v = .nan) : u.div v = .nan := by
  obtain rfl | rfl := h
  · cases v <;> rfl
  · cases u <;> rfl

theorem val_add_comm (r : Bool) (u v : Val) : u.add r v = v.add r u := by
  cases u with
  | nan => cases v <;> rfl
  | inf a =>
    cases v with
    | nan => rfl
    | inf b => cases a <;> cases b <;> rfl
    | fin t c d => rfl
  | fin s a b =>
    cases v with
    | nan => rfl
    | inf b => rfl
    | fin t c d =>
      have hsign : (if s = t then s else r) = if t = s then t else r := by
        by_cases h : s = t
        · rw [if_pos h, if_pos h.symm, h]
        · rw [if_neg h, if_neg (Ne.symm h)]
      simp only [Val.add]
      rw [add_comm (if s = true then _ else _), hsign, Nat.mul_comm b d]

theorem val_mul_comm (u v : Val) : u.mul v = v.mul u := by
  cases u with
  | nan => cases v <;> rfl
  | inf a =>
    cases v with
    | nan => rfl
    | inf b => rw [Val.mul, Val.mul, bne_comm]
    | fin t c d => rfl
  | fin s a b =>
    cases v with
    | nan => rfl
    | inf b => rfl
    | fin t c d => rw [Val.mul, Val.mul, bne_comm, Nat.mul_comm a, Nat.mul_comm b]

/-! ### Rounding -/

theorem fpRound_nan (f : Fmt) (rm : Rm) (nv : Bool) : fpRound f rm nv false .nan = (num (canonicalNaN f), if nv then 16 else 0) := by
  cases nv <;> simp [fpRound, rnd, orFlags, rndFlags, flagNV, num]

theorem fpRound_inf_dz (hf : f.kind = .ieee) (rm : Rm) (neg : Bool) : fpRound f rm false true (.inf neg) = (num (infEnc f neg), 8) := by
  simp [fpRound, rnd, hf, orFlags, flagDZ, num]

theorem withSign_lt {k : Nat} (hk : k < 2 ^ 31) (neg : Bool) : withSign fp32 neg k < 2 ^ 32 := by
  cases neg
  · exact hk.trans (by decide)
  · have hwidth : withSign fp32 true k = 2 ^ 31 + k := rfl
    omega

theorem enc_ite_lt {c : Prop} [Decidable c] {r q : Rounded} {n : Nat} (hr : c → r.enc < n) (hq : ¬ c → q.enc < n) : (if c then r else q).enc < n := by
  split
  · next h => exact hr h
  · next h => exact hq h

/-- A rounded magnitude fits below the sign bit: it is at most the greatest finite one, or an infinity. -/
theorem rnd_fp32_lt (rm : Rm) (v : Val) : (rnd fp32 rm false v).enc < 2 ^ 32 := by
  have hmax : maxFinite fp32 < 2 ^ 31 := by decide
  cases v with
  | nan =>
    have hnan : (rnd fp32 rm false .nan).enc = 0x7FC00000 := rfl
    omega
  | inf neg => exact withSign_lt (by decide) neg
  | fin neg a b =>
    simp only [rnd, roundFin]
    have hover : infEnc fp32 neg < 2 ^ 32 := withSign_lt (by decide) neg
    exact enc_ite_lt (fun _ => withSign_lt (by decide) neg) fun _ =>
      enc_ite_lt
        (fun _ => enc_ite_lt (fun _ => withSign_lt hmax neg) fun _ => enc_ite_lt (fun _ => by decide) fun _ =>
          enc_ite_lt (fun _ => withSign_lt hmax neg) fun _ => hover)
        fun hfits => withSign_lt ((not_lt.1 hfits).trans_lt hmax) neg

theorem fpRound_fp32_lt (rm : Rm) (nv dz : Bool) (v : Val) : (fpRound fp32 rm nv dz v).1.toNat < 2 ^ 32 := by
  have h := rnd_fp32_lt rm v
  simp only [fpRound, BitVec.toNat_ofNat]
  omega

end

end Sys2Proof.Says
end

section
namespace Sys2Proof.Says
open Sys2Proof.Machine

/-! ## Special cases of floating-point results (04_scalar.md R89, R91) -/

section
variable {p op rm : Nat} {a b : W}

/-- The exact result of an arithmetic word, before it is rounded. -/
def arithVal (op : Nat) (m : Rm) (u v : Val) : Val :=
  if op = 0 then u.add (m == .rdn) v else if op = 1 then u.add (m == .rdn) v.neg else if op = 2 then u.mul v else u.div v

theorem arithVal_nan {m : Rm} {u v : Val} (h : u = .nan ∨ v = .nan) : arithVal op m u v = .nan := by
  have hneg : u = .nan ∨ v.neg = .nan := h.imp_right fun hv => by rw [hv, Val.neg]
  unfold arithVal
  split
  · exact add_nan _ h
  split
  · exact add_nan _ hneg
  split
  · exact mul_nan h
  · exact div_nan h

theorem arithVal_comm (hop : op = 0 ∨ op = 2) (m : Rm) (u v : Val) : arithVal op m u v = arithVal op m v u := by
  obtain rfl | rfl := hop
  · exact val_add_comm _ u v
  · exact val_mul_comm u v

theorem fpArith_eq (op p rm : Nat) (a b : W) : fpArith op p rm a b =
    let f := fpFmt p
    let x := fpBits p a
    let y := fpBits p b
    let z := arithVal op (rmOf rm) (valOf f x) (valOf f y)
    fpRound f (rmOf rm) ((isSNaN f x || isSNaN f y) || (!(isNaN f x || isNaN f y) && z == .nan))
      (op == 3 && !(isNaN f x || isNaN f y) && (valOf f y).isZero && (valOf f x).isFinite && !(valOf f x).isZero) z := rfl

theorem fpArith_nan (h : isNaN (fpFmt p) (fpBits p a) = true ∨ isNaN (fpFmt p) (fpBits p b) = true) : fpArith op p rm a b =
    (num (canonicalNaN (fpFmt p)), if isSNaN (fpFmt p) (fpBits p a) = true ∨ isSNaN (fpFmt p) (fpBits p b) = true then 16 else 0) := by
  have hnans : (isNaN (fpFmt p) (fpBits p a) || isNaN (fpFmt p) (fpBits p b)) = true := by simpa using h
  have hz : arithVal op (rmOf rm) (valOf (fpFmt p) (fpBits p a)) (valOf (fpFmt p) (fpBits p b)) = .nan :=
    arithVal_nan (h.imp valOf_nan valOf_nan)
  rw [fpArith_eq]
  dsimp only
  rw [hz, hnans, Bool.not_true, Bool.false_and, Bool.or_false, Bool.and_false, Bool.false_and, Bool.false_and, Bool.false_and, fpRound_nan]
  simp only [Bool.or_eq_true]

theorem fpArith_comm (hop : op = 0 ∨ op = 2) : fpArith op p rm a b = fpArith op p rm b a := by
  have hdz : (op == 3) = false := by obtain rfl | rfl := hop <;> rfl
  rw [fpArith_eq, fpArith_eq]
  dsimp only
  rw [arithVal_comm hop, hdz, Bool.or_comm (isSNaN _ (fpBits p a)), Bool.or_comm (isNaN _ (fpBits p a))]
  simp only [Bool.false_and]

/-- A finite number that is not 0, divided by 0. -/
theorem fpArith_div_zero (ha : finite (valOf (fpFmt p) (fpBits p a))) (ha0 : ratOf (valOf (fpFmt p) (fpBits p a)) ≠ 0)
    (hb : finite (valOf (fpFmt p) (fpBits p b))) (hb0 : ratOf (valOf (fpFmt p) (fpBits p b)) = 0) : fpArith 3 p rm a b =
      (num (infEnc (fpFmt p) (signBit (fpFmt p) (fpBits p a) != signBit (fpFmt p) (fpBits p b))), 8) := by
  obtain ⟨hnana, hinfa⟩ := finite_valOf_iff.1 ha
  obtain ⟨hnanb, hinfb⟩ := finite_valOf_iff.1 hb
  obtain ⟨m, d, hva, hd, -⟩ := valOf_fin hnana hinfa
  obtain ⟨k, e, hvb, he, -⟩ := valOf_fin hnanb hinfb
  rw [hva, ne_eq, ratOf_eq_zero_iff hd] at ha0
  rw [hvb, ratOf_eq_zero_iff he] at hb0
  subst hb0
  have hz : arithVal 3 (rmOf rm) (.fin (signBit (fpFmt p) (fpBits p a)) m d) (.fin (signBit (fpFmt p) (fpBits p b)) 0 e) =
      .inf (signBit (fpFmt p) (fpBits p a) != signBit (fpFmt p) (fpBits p b)) := by
    simp [arithVal, Val.div, ha0]
  have hzero : (Val.fin (signBit (fpFmt p) (fpBits p a)) m d).isZero = false := by
    cases m with
    | zero => exact absurd rfl ha0
    | succ m => rfl
  rw [fpArith_eq]
  dsimp only
  rw [hva, hvb, hz, hnana, hnanb, isSNaN_of_not_isNaN hnana, isSNaN_of_not_isNaN hnanb, hzero]
  exact fpRound_inf_dz (fpFmt_kind p) _ _

theorem fpSqrt_lt : (fpSqrt 0 rm a).1.toNat < 2 ^ 32 := fpRound_fp32_lt _ _ _ _

theorem fpArith_lt : (fpArith op 0 rm a b).1.toNat < 2 ^ 32 := fpRound_fp32_lt _ _ _ _

end

theorem floatSpecialCases : FloatSpecialCases := by
  intro p rm op a b _ _
  exact ⟨fpArith_nan, fpArith_div_zero, fpArith_comm, fun h => h ▸ ⟨fpArith_lt, fpSqrt_lt⟩⟩

end Sys2Proof.Says
end

section
namespace Sys2Proof.Says
open Sys2Proof.Machine

/-! ## Comparisons, minimum and maximum, class and sign (04_scalar.md R91) -/

/-! ### The order of finite values -/

section
variable {f : Fmt} {x y p op : Nat} {u v : Val} {a b : W}

theorem lt_nan (h : u = .nan ∨ v = .nan) : u.lt v = false := by
  obtain rfl | rfl := h
  · cases v <;> rfl
  · cases u <;> rfl

theorem eq_nan (h : u = .nan ∨ v = .nan) : u.eq v = false := by
  obtain rfl | rfl := h
  · cases v <;> rfl
  · cases u <;> rfl

theorem ratOf_fin (s : Bool) (m d : Nat) : ratOf (.fin s m d) = ((if s then -(m : Int) else m : Int) : ℚ) / d := by
  cases s <;> simp [ratOf]

/-- The model compares two fractions by their cross products. -/
theorem lt_fin (s t : Bool) (m k : Nat) {d e : Nat} (hd : 0 < d) (he : 0 < e) :
    (Val.fin s m d).lt (.fin t k e) = decide (ratOf (.fin s m d) < ratOf (.fin t k e)) := by
  have hd' : (0 : ℚ) < d := by exact_mod_cast hd
  have he' : (0 : ℚ) < e := by exact_mod_cast he
  have hcross (s : Bool) (m e : Nat) : (if s then -(m * e : Int) else m * e) = (if s then -(m : Int) else m) * e := by cases s <;> simp
  rw [Val.lt, decide_eq_decide, hcross, hcross, ratOf_fin, ratOf_fin, div_lt_div_iff₀ hd' he']
  exact_mod_cast Iff.rfl

theorem lt_valOf (hx : finite (valOf f x)) (hy : finite (valOf f y)) : (valOf f x).lt (valOf f y) = decide (ratOf (valOf f x) < ratOf (valOf f y)) := by
  obtain ⟨hnanx, hinfx⟩ := finite_valOf_iff.1 hx
  obtain ⟨hnany, hinfy⟩ := finite_valOf_iff.1 hy
  obtain ⟨m, d, hvx, hd, -⟩ := valOf_fin hnanx hinfx
  obtain ⟨k, e, hvy, he, -⟩ := valOf_fin hnany hinfy
  rw [hvx, hvy]
  exact lt_fin _ _ m k hd he

theorem eq_of_finite (hu : finite u) (hv : finite v) : u.eq v = (!u.lt v && !v.lt u) := by
  unfold Val.eq
  split
  · exact False.elim hu
  · exact False.elim hv
  · rfl

theorem eq_valOf (hx : finite (valOf f x)) (hy : finite (valOf f y)) : (valOf f x).eq (valOf f y) = decide (ratOf (valOf f x) = ratOf (valOf f y)) := by
  rw [eq_of_finite hx hy, lt_valOf hx hy, lt_valOf hy hx, ← decide_not, ← decide_not, ← Bool.decide_and, decide_eq_decide, not_lt, not_lt, and_comm]
  exact le_antisymm_iff.symm

theorem fpCompare_eq (op p : Nat) (a b : W) : fpCompare op p a b =
    let f := fpFmt p
    let x := fpBits p a
    let y := fpBits p b
    let u := valOf f x
    let v := valOf f y
    (truth (if op = 0 then u.eq v else if op = 1 then u.lt v else u.lt v || u.eq v),
      if (if op = 0 then isSNaN f x || isSNaN f y else isNaN f x || isNaN f y) then 16 else 0) := rfl

theorem fpCompare_nan (h : isNaN (fpFmt p) (fpBits p a) = true ∨ isNaN (fpFmt p) (fpBits p b) = true) :
    (fpCompare 0 p a b).1 = 0 ∧ fpCompare 1 p a b = (0, 16) ∧ fpCompare 2 p a b = (0, 16) := by
  have hnans : (isNaN (fpFmt p) (fpBits p a) || isNaN (fpFmt p) (fpBits p b)) = true := by simpa using h
  have hlt := lt_nan (h.imp valOf_nan valOf_nan)
  have heq := eq_nan (h.imp valOf_nan valOf_nan)
  simp [fpCompare_eq, hlt, heq, hnans, truth]

section
variable (ha : finite (valOf (fpFmt p) (fpBits p a))) (hb : finite (valOf (fpFmt p) (fpBits p b)))
include ha hb

theorem fpCompare_finite :
    let x := ratOf (valOf (fpFmt p) (fpBits p a))
    let y := ratOf (valOf (fpFmt p) (fpBits p b))
    fpCompare 0 p a b = (truth (decide (x = y)), 0) ∧ fpCompare 1 p a b = (truth (decide (x < y)), 0) ∧ fpCompare 2 p a b = (truth (decide (x ≤ y)), 0) := by
  obtain ⟨hnana, -⟩ := finite_valOf_iff.1 ha
  obtain ⟨hnanb, -⟩ := finite_valOf_iff.1 hb
  simp [fpCompare_eq, lt_valOf ha hb, eq_valOf ha hb, hnana, hnanb, isSNaN_of_not_isNaN hnana, isSNaN_of_not_isNaN hnanb, le_iff_lt_or_eq]

/-- The smaller and the greater of two finite numbers that differ. -/
theorem fpMinMax_finite (h : ratOf (valOf (fpFmt p) (fpBits p a)) < ratOf (valOf (fpFmt p) (fpBits p b))) :
    fpMinMax false p a b = (num (fpBits p a), 0) ∧ fpMinMax true p a b = (num (fpBits p b), 0) ∧
    fpMinMax false p b a = (num (fpBits p a), 0) ∧ fpMinMax true p b a = (num (fpBits p b), 0) := by
  obtain ⟨hnana, -⟩ := finite_valOf_iff.1 ha
  obtain ⟨hnanb, -⟩ := finite_valOf_iff.1 hb
  have hlt : (valOf (fpFmt p) (fpBits p a)).lt (valOf (fpFmt p) (fpBits p b)) = true := by rw [lt_valOf ha hb]; exact decide_eq_true h
  have hnlt : (valOf (fpFmt p) (fpBits p b)).lt (valOf (fpFmt p) (fpBits p a)) = false := by rw [lt_valOf hb ha]; exact decide_eq_false h.not_gt
  simp [fpMinMax, minMax, hnana, hnanb, isSNaN_of_not_isNaN hnana, isSNaN_of_not_isNaN hnanb, hlt, hnlt, num]

end

theorem fpMinMax_one_nan (ha : isNaN (fpFmt p) (fpBits p a) = true) (hb : isNaN (fpFmt p) (fpBits p b) = false) (m : Bool) :
    (fpMinMax m p a b).1 = num (fpBits p b) ∧ (fpMinMax m p b a).1 = num (fpBits p b) := by
  simp [fpMinMax, minMax, ha, hb, num]

theorem fpMinMax_nans (ha : isNaN (fpFmt p) (fpBits p a) = true) (hb : isNaN (fpFmt p) (fpBits p b) = true) (m : Bool) :
    (fpMinMax m p a b).1 = num (canonicalNaN (fpFmt p)) := by
  simp [fpMinMax, minMax, ha, hb, num]

/-! ### Classes -/

/-- The bit that `FCLASS` sets for an encoding. -/
def classBit (f : Fmt) (x : Nat) : Nat :=
  if isNaN f x then (if isSNaN f x then 8 else 9)
  else if isInf f x then (if signBit f x then 0 else 7)
  else if expField f x = 0 then (if mantField f x = 0 then (if signBit f x then 3 else 4) else (if signBit f x then 2 else 5))
  else (if signBit f x then 1 else 6)

theorem fpClass_eq (p : Nat) (a : W) : fpClass p a = num (2 ^ classBit (fpFmt p) (fpBits p a)) := rfl

theorem classBit_of_finite (hnan : isNaN f x = false) (hinf : isInf f x = false) :
    classBit f x < 7 ∧ classBit f x ≠ 0 ∧ (classBit f x = 3 ∨ classBit f x = 4 ↔ expField f x = 0 ∧ mantField f x = 0) := by
  unfold classBit
  rw [hnan, hinf, if_neg Bool.false_ne_true, if_neg Bool.false_ne_true]
  split
  · next he =>
    split
    · next hm => cases signBit f x <;> simp [he, hm]
    · next hm => cases signBit f x <;> simp [hm]
  · next he => cases signBit f x <;> simp [he]

theorem finite_zero_iff (hnan : isNaN f x = false) (hinf : isInf f x = false) :
    finite (valOf f x) ∧ ratOf (valOf f x) = 0 ↔ expField f x = 0 ∧ mantField f x = 0 := by
  obtain ⟨m, d, hv, hd, hm⟩ := valOf_fin hnan hinf
  rw [hv, ratOf_eq_zero_iff hd, ← hm]
  exact and_iff_right trivial

theorem isInf_of_isNaN (h : isNaN f x = true) : isInf f x = false := by
  obtain ⟨eb, mb, kind⟩ := f
  cases kind with
  | ieee =>
    have hmant : (mantField ⟨eb, mb, .ieee⟩ x != 0) = true := (Bool.and_eq_true_iff.1 h).2
    rw [isInf, beq_eq_false_iff_ne.2 (bne_iff_ne.1 hmant), Bool.and_false]
  | e4m3 => rfl
  | e2m1 => rfl

theorem classBit_spec (f : Fmt) (x : Nat) : classBit f x < 10 ∧ (classBit f x = 8 ↔ isSNaN f x = true) ∧
    (classBit f x = 9 ↔ isNaN f x = true ∧ isSNaN f x = false) ∧ (classBit f x = 0 ∨ classBit f x = 7 ↔ isInf f x = true) ∧
    (classBit f x = 3 ∨ classBit f x = 4 ↔ finite (valOf f x) ∧ ratOf (valOf f x) = 0) := by
  cases hnan : isNaN f x with
  | true =>
    have hinf : isInf f x = false := isInf_of_isNaN hnan
    have hbit : classBit f x = if isSNaN f x then 8 else 9 := if_pos hnan
    rw [hbit, valOf_nan hnan, hinf]
    cases isSNaN f x <;> simp [finite]
  | false =>
    rw [isSNaN_of_not_isNaN hnan]
    cases hinf : isInf f x with
    | true =>
      have hbit : classBit f x = if signBit f x then 0 else 7 := by rw [classBit, hnan, if_neg Bool.false_ne_true, if_pos hinf]
      rw [hbit, valOf_inf hnan hinf]
      cases signBit f x <;> simp [finite]
    | false =>
      obtain ⟨hlt, hne, hzero⟩ := classBit_of_finite hnan hinf
      rw [finite_zero_iff hnan hinf, ← hzero]
      refine ⟨by omega, ?_, ?_, ?_, Iff.rfl⟩
      all_goals simp; omega

/-! ### Signs -/

theorem signBit_eq_testBit (f : Fmt) (x : Nat) : signBit f x = x.testBit (f.eb + f.mb) := (Nat.testBit_eq_decide_div_mod_eq).symm

theorem testBit_withSign {k j : Nat} (neg : Bool) (hk : k < 2 ^ (f.eb + f.mb)) (hj : j < f.width) :
    (withSign f neg k).testBit j = if j + 1 = f.width then neg else k.testBit j := by
  have hwith : withSign f neg k = 2 ^ (f.eb + f.mb) * neg.toNat + k := by cases neg <;> simp [withSign]
  have hwidth : f.width = f.eb + f.mb + 1 := by unfold Fmt.width; omega
  rw [hwith, Nat.testBit_two_pow_mul_add _ hk]
  by_cases h : j < f.eb + f.mb
  · rw [if_pos h, if_neg (by omega)]
  · have hjeq : j = f.eb + f.mb := by omega
    rw [if_neg h, if_pos (by omega), hjeq, Nat.sub_self, Nat.testBit_bool_toNat]
    simp

theorem testBit_fpBits (p : Nat) (a : W) {j : Nat} (hj : j < (fpFmt p).width) : (fpBits p a).testBit j = a.getLsbD j := by
  rw [fpBits, Nat.testBit_mod_two_pow, decide_eq_true hj, Bool.true_and]
  rfl

theorem signBit_fpBits (p : Nat) (a : W) {j : Nat} (hj : j + 1 = (fpFmt p).width) : signBit (fpFmt p) (fpBits p a) = a.getLsbD j := by
  have hsign : (fpFmt p).eb + (fpFmt p).mb = j := by unfold Fmt.width at hj; omega
  rw [signBit_eq_testBit, hsign, testBit_fpBits p a (by omega)]

/-- A sign word takes every bit but the sign from its first source. -/
theorem getLsbD_fpSign (op p : Nat) (a b : W) {j : Nat} (hj : j < (fpFmt p).width) : (fpSign op p a b).getLsbD j =
    if j + 1 = (fpFmt p).width then (if op = 0 then b.getLsbD j else if op = 1 then !b.getLsbD j else a.getLsbD j != b.getLsbD j) else a.getLsbD j := by
  have hlow : fpBits p a % 2 ^ ((fpFmt p).eb + (fpFmt p).mb) < 2 ^ ((fpFmt p).eb + (fpFmt p).mb) := Nat.mod_lt _ (by positivity)
  have hwidth := fpFmt_width_le p
  unfold fpSign
  rw [BitVec.getLsbD_ofNat, decide_eq_true (by omega), Bool.true_and, testBit_withSign _ hlow hj]
  by_cases h : j + 1 = (fpFmt p).width
  · rw [if_pos h, if_pos h, signBit_fpBits p a h, signBit_fpBits p b h]
  · have hbelow : j < (fpFmt p).eb + (fpFmt p).mb := by unfold Fmt.width at h hj; omega
    rw [if_neg h, if_neg h, Nat.testBit_mod_two_pow, decide_eq_true hbelow, Bool.true_and, testBit_fpBits p a hj]

theorem fpSign_fp32_lt (op : Nat) (a b : W) : (fpSign op 0 a b).toNat < 2 ^ 32 := by
  have h := withSign_lt (Nat.mod_lt (fpBits 0 a) (Nat.two_pow_pos 31)) (if op = 0 then signBit fp32 (fpBits 0 b)
    else if op = 1 then !signBit fp32 (fpBits 0 b) else signBit fp32 (fpBits 0 a) != signBit fp32 (fpBits 0 b))
  exact (Nat.mod_le _ _).trans_lt h

end

theorem floatOrderAndSign : FloatOrderAndSign := by
  intro p a b _
  refine ⟨fpCompare_nan, fun ha hb => ?_, fun ha hb => ?_, fun ha hb => ⟨fpMinMax_nans ha hb false, fpMinMax_nans ha hb true⟩,
    ⟨_, (classBit_spec _ _).1, fpClass_eq p a, (classBit_spec _ _).2⟩, fun j hj => ?_, fun hp op _ => hp ▸ fpSign_fp32_lt op a b⟩
  · obtain ⟨heq, hlt, hle⟩ := fpCompare_finite ha hb
    exact ⟨heq, hlt, hle, fpMinMax_finite ha hb⟩
  · obtain ⟨hmin, hmin'⟩ := fpMinMax_one_nan ha hb false
    obtain ⟨hmax, hmax'⟩ := fpMinMax_one_nan ha hb true
    exact ⟨hmin, hmax, hmin', hmax'⟩
  · exact ⟨getLsbD_fpSign 0 p a b hj, getLsbD_fpSign 1 p a b hj, getLsbD_fpSign 2 p a b hj⟩

/-- Settles O18: a result is one rounding of an exact value (`fpArith_eq`), comparisons are those of the exact values (`lt_valOf`, `eq_valOf`), class and sign are
read from the fields of the encoding. -/
theorem floatResults : Obligations.FloatResults := ⟨floatSpecialCases, floatOrderAndSign⟩

end Sys2Proof.Says
end

section
namespace Sys2Proof.Machine

/-! ## Bytes whose home is HBM (07_memory_model.md R124; 01_machine.md R19) -/

theorem ite_ne_hbm {c : Prop} {_ : Decidable c} {x y : Region} (hx : x ≠ .hbm) (hy : y ≠ .hbm) : (if c then x else y) ≠ .hbm := by
  split
  · exact hx
  · exact hy

section
variable {pa : Nat} (h : regionOf pa = .hbm)
include h

theorem lt_of_regionOf_hbm : pa < 0x8000000000 := by
  by_contra hge
  refine absurd h ?_
  rw [regionOf, if_neg hge]
  iterate 13 refine ite_ne_hbm nofun ?_
  nofun

/-- Interleaved HBM stands at its own addresses. -/
theorem cellOf_of_hbm : cellOf pa = pa := if_neg fun hbank => absurd (lt_of_regionOf_hbm h) (Nat.not_lt.2 hbank.1)
theorem rowAt_of_hbm : rowAt pa = none := by simp [rowAt, h]
theorem clusterHome_of_hbm : clusterHome pa = none := by simp [clusterHome, h]
/-- No row of HBM is shared with another address. -/
theorem sameRow_of_hbm (a : Nat) : sameRow a pa = false := by
  rw [sameRow, rowAt_of_hbm h]
  cases rowAt a <;> rfl

variable (s : State)

theorem busyBank_of_hbm : s.busyBank pa = false := by rw [State.busyBank, rowAt_of_hbm h]
theorem slotAt_of_hbm (n : Nat) : s.slotAt pa n = s := by rw [State.slotAt, clusterHome_of_hbm h]
theorem settleAt_of_hbm (n : Nat) (self : Option Nat) : s.settleAt pa n self = some s := by rw [State.settleAt, rowAt_of_hbm h]

/-- A store that reaches HBM puts its bytes there and clears the mark of words that could not be corrected. -/
theorem arriveStore_of_hbm (bs : List Byte) (ten : Nat) (what : HeldFor) :
    s.arriveStore pa bs ten what = (s.clearUncorr pa bs.length).poke pa bs := by
  rw [State.arriveStore, slotAt_of_hbm h, State.homeStore, rowAt_of_hbm h]

/-- A load of HBM reads memory. -/
theorem homeRead_of_hbm (n : Nat) : s.homeRead pa n = mread s.mem pa n := by
  simp only [State.homeRead, busyBank_of_hbm h, Bool.false_eq_true, if_false, h, State.peekSeen, State.peek, cellOf_of_hbm h]

end

/-- Clearing the mark of a word that could not be corrected changes nothing else. -/
theorem clearUncorr_eq (s : State) (pa n : Nat) : ∃ u, s.clearUncorr pa n = { s with uncorr := u } := by
  unfold State.clearUncorr
  split
  · exact ⟨s.uncorr, rfl⟩
  · exact ⟨_, rfl⟩

/-- What a store that reaches HBM changes: its bytes, and the marks of their words. -/
theorem arriveStore_hbm_eq (s : State) {pa : Nat} (h : regionOf pa = .hbm) (bs : List Byte) (ten : Nat) (what : HeldFor) :
    ∃ u, s.arriveStore pa bs ten what = { s with mem := mwrite s.mem pa bs, uncorr := u } := by
  obtain ⟨u, hu⟩ := clearUncorr_eq s pa bs.length
  exact ⟨u, by rw [arriveStore_of_hbm h, hu, State.poke, cellOf_of_hbm h]⟩

/-! ### Bytes written and read back -/

theorem mget_mwrite_at (m : Mem) (a : Nat) (bs : List Byte) {j : Nat} (hj : j < bs.length) : some (mget (mwrite m a bs) (a + j)) = bs[j]? := by
  rw [mget_mwrite, if_pos ⟨by omega, by omega⟩, Nat.add_sub_cancel_left, List.getD_eq_getElem _ _ hj, List.getElem?_eq_getElem hj]

theorem mget_mwrite_outside (m : Mem) (a : Nat) (bs : List Byte) {c : Nat} (hc : c < a ∨ a + bs.length ≤ c) : mget (mwrite m a bs) c = mget m c := by
  rw [mget_mwrite, if_neg (by omega)]

theorem ofBytes_bytesOf : ∀ n v : Nat, ofBytes (bytesOf n v) = v % 2 ^ (8 * n)
  | 0, v => by simp [bytesOf, ofBytes, Nat.mod_one]
  | n + 1, v => by
    have hpow : 2 ^ (8 * (n + 1)) = 256 * 2 ^ (8 * n) := by rw [show 8 * (n + 1) = 8 + 8 * n by omega, Nat.pow_add]
    simp only [bytesOf, ofBytes, ofBytes_bytesOf n, BitVec.toNat_ofNat, hpow, Nat.mod_mul]

end Sys2Proof.Machine
end

section
namespace Sys2Proof.Says
open Sys2Proof.Machine

/-! ## CHUNK_COMMIT and COMMIT_GRANT (07_memory_model.md R130 to R132, R141; 12_vector_matrix.md R210, R228) -/

/-! ### How an attempt to commit ends -/

/-- The releases that a commit of the row waits for: those of its chunk and of its fences. -/
def Awaits (s : State) (r : Nat) (q : Release) : Prop := (s.thrOf r).chunk.release = some q ∨ (s.thrOf r).fence = some q

/-- Nothing but the commit grant and a conflict stands against a commit of the row. -/
structure MayCommit (s : State) (r : Nat) : Prop where
  vectors : s.vecBusy r = false
  slot : s.commitFull (clusterOfRid r) = false
  starts : s.startsBlocked r = false
  releases : ∀ q, Awaits s r q → s.releaseReady r q = true

/-- Whether a release puts the commit off, as `tryCommit` asks. -/
def releaseHoldsBack (s : State) (r : Nat) : Bool :=
  [(s.thrOf r).chunk.release, (s.thrOf r).fence].any fun q => (match q with | some q => !s.releaseReady r q | none => false)

/-- The arbiter's decision on a chunk that nothing else holds back (R130, R131). -/
def arbitrated (s : State) (r : Nat) (asker : Option Nat) : CommitRes :=
  let c := s.cluOf (clusterOfRid r)
  match c.grant with
  | none => if conflicts c (s.thrOf r).chunk then .replayed (s.replay r) else .done (s.applyCommit r)
  | some g =>
    if g = r then .done (s.applyCommit r)
    else if asker = some g then (if conflicts c (s.thrOf r).chunk then .replayed (s.replay r) else .done (s.applyCommit r))
    else .notYet

section
variable {s : State} {r : Nat}

theorem releaseHoldsBack_of_awaits {q : Release} (hq : Awaits s r q) (hwaits : s.releaseReady r q = false) : releaseHoldsBack s r = true := by
  obtain hq | hq := hq <;> simp [releaseHoldsBack, hq, hwaits]

theorem releaseHoldsBack_eq_false (h : ∀ q, Awaits s r q → s.releaseReady r q = true) : releaseHoldsBack s r = false := by
  simp only [releaseHoldsBack, List.any_cons, List.any_nil, Bool.or_false, Bool.or_eq_false_iff]
  constructor
  · cases hq : (s.thrOf r).chunk.release with
    | none => rfl
    | some q => simp [h q (.inl hq)]
  · cases hq : (s.thrOf r).fence with
    | none => rfl
    | some q => simp [h q (.inr hq)]

/-- Queued vector operations, a cycle whose commits are taken, and a release that does not hold put a commit off. -/
theorem tryCommit_notYet (h : s.vecBusy r = true ∨ s.commitFull (clusterOfRid r) = true ∨ ∃ q, Awaits s r q ∧ s.releaseReady r q = false)
    (asker : Option Nat) : s.tryCommit r asker = .notYet := by
  unfold State.tryCommit
  dsimp only
  split
  · rfl
  · next hgo =>
    refine if_pos ?_
    obtain hvec | hfull | ⟨q, hq, hwaits⟩ := h
    · simp [hvec] at hgo
    · simp [hfull] at hgo
    · exact releaseHoldsBack_of_awaits hq hwaits

/-- Another row's grant puts a commit off, unless a step of that row asks for it. -/
theorem tryCommit_of_other_grant {g : Nat} (hgrant : (s.cluOf (clusterOfRid r)).grant = some g) (hother : g ≠ r) : s.tryCommit r = .notYet := by
  unfold State.tryCommit
  dsimp only
  split
  · rfl
  · split
    · rfl
    · simp [hgrant, hother]

namespace MayCommit
variable (h : MayCommit s r)
include h

theorem tryCommit_eq (asker : Option Nat) : s.tryCommit r asker = arbitrated s r asker := by
  have hgo : (s.vecBusy r || s.commitFull (clusterOfRid r) || s.startsBlocked r) = false := by simp [h.vectors, h.slot, h.starts]
  have hrel : releaseHoldsBack s r = false := releaseHoldsBack_eq_false h.releases
  unfold State.tryCommit
  dsimp only
  rw [if_neg (by rw [hgo]; decide)]
  exact if_neg fun hheld => absurd (hrel.symm.trans hheld) (by decide)

theorem tryCommit_done (hgrant : (s.cluOf (clusterOfRid r)).grant = some r ∨
    (s.cluOf (clusterOfRid r)).grant = none ∧ conflicts (s.cluOf (clusterOfRid r)) (s.thrOf r).chunk = false) (asker : Option Nat) :
    s.tryCommit r asker = .done (s.applyCommit r) := by
  rw [h.tryCommit_eq]
  obtain hown | ⟨hfree, hclear⟩ := hgrant
  · simp [arbitrated, hown]
  · simp [arbitrated, hfree, hclear]

theorem tryCommit_replayed (hfree : (s.cluOf (clusterOfRid r)).grant = none) (hconflict : conflicts (s.cluOf (clusterOfRid r)) (s.thrOf r).chunk = true)
    (asker : Option Nat) : s.tryCommit r asker = .replayed (s.replay r) := by
  rw [h.tryCommit_eq]
  simp [arbitrated, hfree, hconflict]

/-- The holder of the grant, which waits for this chunk, has it committed. -/
theorem tryCommit_of_asker {g : Nat} (hgrant : (s.cluOf (clusterOfRid r)).grant = some g) (hclear : conflicts (s.cluOf (clusterOfRid r)) (s.thrOf r).chunk = false) :
    s.tryCommit r (some g) = .done (s.applyCommit r) := by
  rw [h.tryCommit_eq]
  simp [arbitrated, hgrant, hclear]

end MayCommit

/-! ### What a commit does -/

/-- The commit's slot taken and counted, the chunk and its grant ended, none of its stores and changes made yet. -/
def committing (s : State) (r : Nat) : State :=
  let k := clusterOfRid r
  let s1 := ((s.commitSlot k (s.thrOf r).chunk.wsig).countCommit k).modThr r fun t => { t with chunk := {}, fence := none }
  s1.modClu k fun c => { c with grant := if c.grant = some r then none else c.grant }

theorem applyCommit_eq (s : State) (r : Nat) : s.applyCommit r =
    (s.thrOf r).chunk.deferred.foldl (fun s d => s.applyAtCommit r d)
      ((s.thrOf r).chunk.stores.foldl (fun s b => s.commitStore r b) (committing s r)) := rfl

theorem closeLater_of_none (h : (s.thrOf r).closeAs = none) : s.closeLater r = s := by rw [State.closeLater, h]

section
variable (s r)

theorem committing_frame : { committing s r with thr := s.thr, clu := s.clu } = s := rfl
theorem committing_thrOf : (committing s r).thrOf r = { s.thrOf r with chunk := {}, fence := none } := by
  simp [committing, State.commitSlot, State.countCommit]
theorem committing_cluOf : (committing s r).cluOf (clusterOfRid r) =
    let c := s.cluOf (clusterOfRid r)
    let l := c.sigs ++ [(c.nextSlot, (s.thrOf r).chunk.wsig)]
    { c with sigs := if 512 < l.length then l.drop 1 else l, nextSlot := c.nextSlot + 1, commitAt := s.cycle,
             commits := if c.commitAt = s.cycle then c.commits + 1 else 1, grant := if c.grant = some r then none else c.grant } := by
  simp [committing, State.commitSlot, State.countCommit]

end

/-- The latest signature is the one of this commit, also where the oldest has left. -/
theorem getLast?_latest {α : Type} (l : List α) (x : α) {n : Nat} (hn : 0 < n) :
    (if n < (l ++ [x]).length then (l ++ [x]).drop 1 else l ++ [x]).getLast? = some x := by
  split
  · next h =>
    rw [List.length_append, List.length_singleton] at h
    rw [List.drop_append_of_le_length (by omega), List.getLast?_append, List.getLast?_singleton]
    rfl
  · rw [List.getLast?_append, List.getLast?_singleton]
    rfl

/-- Bytes stored to an OPEN row wait for its boundary (02_rows.md R46). -/
theorem homeStore_of_open {pa : Nat} (hrow : rowAt pa = some r) (hopen : (s.ctlOf r).state = .opened) (hbusy : s.busyBank pa = false)
    (hdata : ∀ q w o, regionOf pa ≠ .control q w o) (bs : List Byte) (ten : Nat) (what : HeldFor) :
    s.homeStore pa bs ten what = s.modThr r fun t => { t with deferred := t.deferred ++ [.store pa bs] } := by
  simp only [State.homeStore, hrow, hbusy, Bool.false_eq_true, if_false]
  cases hreg : regionOf pa with
  | control q w o => exact absurd hreg (hdata q w o)
  | _ => exact if_pos (.inl hopen)

/-! ### The commits of a chunk with at most one store or change -/

/-- An outbound entry for a store that leaves its cluster (R134). -/
def outEntryOf (s : State) (r : Nat) (b : BufStore) : OutEntry :=
  { pa := b.pa, bytes := b.bytes, rid := r, order := s.seq, forward := !b.strong, via := s.viaFor r b.pa }

section
variable (hdeferred : (s.thrOf r).chunk.deferred = [])
include hdeferred

theorem applyCommit_nothing (hstores : (s.thrOf r).chunk.stores = []) : s.applyCommit r = committing s r := by
  rw [applyCommit_eq, hdeferred, hstores]
  rfl

variable {b : BufStore} (hstores : (s.thrOf r).chunk.stores = [b])
include hstores

theorem applyCommit_remote_store (hhome : b.home = false) : s.applyCommit r =
    (committing s r).tick.2.modClu (clusterOfRid r) fun c => { c with outq := c.outq ++ [outEntryOf s r b] } := by
  rw [applyCommit_eq, hdeferred, hstores]
  simp only [List.foldl_cons, List.foldl_nil, State.commitStore, hhome, Bool.false_eq_true, if_false]
  rfl

/-- A store to the committing row's own bytes waits for its boundary (02_rows.md R46). -/
theorem applyCommit_own_store (hhome : b.home = true) (hrow : rowAt b.pa = some r) (hopen : (s.ctlOf r).state = .opened) (hbusy : s.busyBank b.pa = false)
    (hdata : ∀ q w o, regionOf b.pa ≠ .control q w o) :
    s.applyCommit r = (committing s r).modThr r fun t => { t with deferred := t.deferred ++ [.store b.pa b.bytes] } := by
  rw [applyCommit_eq, hdeferred, hstores]
  simp only [List.foldl_cons, List.foldl_nil, State.commitStore, hhome, if_true]
  exact homeStore_of_open (s := committing s r) hrow hopen hbusy hdata _ _ _

end

theorem applyCommit_setpri {p : BitVec 2} (hstores : (s.thrOf r).chunk.stores = []) (hdeferred : (s.thrOf r).chunk.deferred = [.setpri p]) :
    s.applyCommit r = (committing s r).modCtl r fun c => { c with pri := p } := by
  rw [applyCommit_eq, hdeferred, hstores]
  rfl

/-! ### Replays (R79, R131) -/

/-- The row's record at its checkpoint, with a smaller limit. -/
def Thr.replayed (ch : Chunk) (t : Thr) : Thr :=
  { t with chunk := { limit := if ch.limit = 256 then 32 else 1 }, loads := ch.loads, packet := ch.pkt, turn := ch.turn, mid := ch.mid }

/-- Outside an open packet, and with no deferred change, a replay changes the row and its core alone. -/
theorem replay_eq (hpkt : (s.thrOf r).chunk.pkt = none) (hdeferred : (s.thrOf r).chunk.deferred = []) : ∃ f, s.replay r =
    ((State.modCtl { s with mem := msplice s.mem (rowAddr r) 1024 (s.thrOf r).chunk.row } r fun c =>
      { c with pc := (s.thrOf r).chunk.pc, p := (s.thrOf r).chunk.p }).modThr r (Thr.replayed (s.thrOf r).chunk)).modCore (coreOfRid r) f := by
  simp only [State.replay, State.undoDeferred, hdeferred, List.foldl_nil]
  split
  · next p hp => exact absurd (hpkt.symm.trans hp) nofun
  · exact ⟨_, rfl⟩

/-! ### The device steps -/

/-- The state after an attempt to commit the row's chunk, and the close that waited for it. -/
def afterAttempt (s : State) (r : Nat) : CommitRes → State
  | .done t => t.closeLater r
  | .replayed t => t
  | .notYet => s

end

theorem execChunkCommit_eq {s : State} (hrun : s.running (stepRow s) = true) (hover : s.stepDone (stepRow s) = true)
    (hlive : (s.thrOf (stepRow s)).chunk.live = true) (hended : (s.thrOf (stepRow s)).chunk.ended = true) :
    exec .chunkCommit s = .next (afterAttempt s (stepRow s) (s.tryCommit (stepRow s))) := by
  have hexec : exec .chunkCommit s = execChunkCommit s := rfl
  rw [hexec, execChunkCommit, show ridOf s.sel.unit s.sel.sub = stepRow s from rfl]
  simp only [hrun, hover, hlive, hended, Bool.and_self, if_true]
  cases s.tryCommit (stepRow s) <;> rfl

/-- The boundary of a row whose chunk the holder of the grant waits for (R131): it commits there. -/
theorem boundary_of_asker {s : State} {r g : Nat} (h : MayCommit s r) (hrun : s.running r = true) (hover : s.stepDone r = true)
    (hlive : (s.thrOf r).chunk.live = true) (hsteps : (s.thrOf r).chunk.steps ≠ 0) (hclose : (s.thrOf r).closeAs = none)
    (hgrant : (s.cluOf (clusterOfRid r)).grant = some g) (hclear : conflicts (s.cluOf (clusterOfRid r)) (s.thrOf r).chunk = false) :
    s.boundary r (some g) = (s.applyCommit r, true) := by
  simp [State.boundary, hrun, stepEnds_of_stepDone hover, hlive, hsteps, hclose, h.tryCommit_of_asker hgrant hclear]

theorem chunkCommits : ChunkCommits := by
  intro s ch rid k hrun hover hch hlive hended
  subst hch
  have hexec : exec .chunkCommit s = .next (afterAttempt s rid (s.tryCommit rid)) := execChunkCommit_eq hrun hover hlive hended
  refine ⟨fun hwaits => ?_, fun hvec hfull hstarts hrel => ?_, fun g hgrant hother => ?_⟩
  · rw [hexec, tryCommit_notYet hwaits]
    rfl
  · have hmay : MayCommit s rid := ⟨hvec, hfull, hstarts, hrel⟩
    refine ⟨fun hgrant => ?_, fun hfree hconflict hpkt hdeferred => ?_⟩
    · have hdone : exec .chunkCommit s = .next ((s.applyCommit rid).closeLater rid) := by
        rw [hexec, hmay.tryCommit_done hgrant]
        rfl
      refine ⟨hdone, fun hclose => ⟨_, hdone, fun hstores hdeferred => ?_, fun b hstores hhome hdeferred => ?_,
        fun b hstores hhome hdeferred hrow hopen hbusy hdata => ?_, fun p hstores hdeferred => ?_⟩⟩
      · rw [applyCommit_nothing hdeferred hstores, closeLater_of_none (by rw [committing_thrOf]; exact hclose), committing_thrOf, committing_cluOf]
        exact ⟨rfl, rfl, rfl, rfl, getLast?_latest _ _ (by decide), rfl, rfl⟩
      · rw [applyCommit_remote_store hdeferred hstores hhome, closeLater_of_none]
        · refine ⟨rfl, ?_⟩
          rw [State.cluOf_modClu, if_pos rfl]
          exact congrArg (·.outq ++ [outEntryOf s rid b]) (committing_cluOf s rid)
        · exact (congrArg Thr.closeAs (committing_thrOf s rid)).trans hclose
      · rw [applyCommit_own_store hdeferred hstores hhome hrow hopen hbusy hdata, closeLater_of_none]
        · rw [State.thrOf_modThr, if_pos rfl, committing_thrOf]
          exact ⟨rfl, rfl⟩
        · rw [State.thrOf_modThr, if_pos rfl, committing_thrOf]
          exact hclose
      · rw [applyCommit_setpri hstores hdeferred, closeLater_of_none]
        · rw [State.ctlOf_modCtl, if_pos rfl]
          rfl
        · exact (congrArg Thr.closeAs (committing_thrOf s rid)).trans hclose
    · have hreplay : exec .chunkCommit s = .next (s.replay rid) := by
        rw [hexec, hmay.tryCommit_replayed hfree hconflict]
        rfl
      obtain ⟨f, hf⟩ := replay_eq hpkt hdeferred
      rw [hf] at hreplay
      refine ⟨_, hreplay, ?_, ?_, ?_, rfl, fun q hq => ⟨?_, ?_⟩⟩
      · rw [State.modCore_at_ctlOf, State.modThr_at_ctlOf, State.ctlOf_modCtl, if_pos rfl]
        rfl
      · rw [State.modCore_at_thrOf, State.thrOf_modThr, if_pos rfl]
        rfl
      · rw [State.modCore_at_thrOf, State.thrOf_modThr, if_pos rfl]
        rfl
      · rw [State.modCore_at_ctlOf, State.modThr_at_ctlOf, State.ctlOf_modCtl, if_neg (Ne.symm hq)]
        rfl
      · rw [State.modCore_at_thrOf, State.thrOf_modThr, if_neg (Ne.symm hq)]
        rfl
  · refine ⟨?_, fun hvec hfull hstarts hrel hclear hsteps hclose =>
      boundary_of_asker ⟨hvec, hfull, hstarts, hrel⟩ hrun hover hlive hsteps hclose hgrant hclear⟩
    rw [hexec, tryCommit_of_other_grant hgrant hother]
    rfl

theorem commitGrants : CommitGrants := by
  intro s
  have hexec : exec .commitGrant s = execCommitGrant s := rfl
  refine ⟨fun r rest hfree hqueue => ⟨s.modClu s.sel.unit fun c => { c with grant := some r, grantq := rest }, ?_, ?_, fun k hk => ?_, rfl⟩, fun hnone => ?_⟩
  · rw [hexec, execCommitGrant]
    simp only [hfree, hqueue]
  · rw [State.cluOf_modClu, if_pos rfl]
  · rw [State.cluOf_modClu, if_neg (Ne.symm hk)]
  · rw [hexec, execCommitGrant]
    split
    · next r rest hfree hqueue => simp [hfree, hqueue] at hnone
    · rfl

end Sys2Proof.Says
end

section
namespace Sys2Proof.Says
open Sys2Proof.Machine

/-! ## OUTBOUND_DRAIN (07_memory_model.md R134, R139, R148) -/

section
variable {s : State} {k i : Nat} {e : OutEntry}

/-- No older entry of the queue touches the first line of `e`. -/
def FirstOfLine (q : List OutEntry) (i : Nat) (e : OutEntry) : Prop :=
  ∀ j o, j < i → q[j]? = some o → o.pa / 64 ≠ e.pa / 64 ∧ (o.pa + o.bytes.length - 1) / 64 ≠ e.pa / 64

theorem exec_outboundDrain (s : State) : exec .outboundDrain s =
    .next (if s.sel.flag then s.drainWord s.sel.unit s.sel.sub s.sel.idx else s.drain s.sel.unit s.sel.sub) := rfl

variable {q : List OutEntry} (hq : q[i]? = some e)
include hq

/-- An entry of HBM drains when it is the first of its line, its elevator works and nothing of its port is to be resent before it. -/
theorem drainable_of_hbm (hhbm : regionOf e.pa = .hbm) (hfirst : FirstOfLine q i e) (hvia : s.viaReady e.via = true)
    (hheld : s.heldBack (hubOf e.rid) (destOf e.pa) e.order = false) : s.drainable q i = true := by
  have hold : ((q.take i).any fun o => o.pa / 64 == e.pa / 64 || (o.pa + o.bytes.length - 1) / 64 == e.pa / 64
      || (o.rid == e.rid && sameRow o.pa e.pa)) = false := by
    rw [List.any_eq_false]
    intro o ho
    obtain ⟨j, hj, hget⟩ := List.mem_take_iff_getElem.1 ho
    obtain ⟨hline, hlast⟩ := hfirst j o (by omega) (by rw [← hget]; simp)
    simp [hline, hlast, sameRow_of_hbm hhbm]
  simp only [State.drainable, hq, hold]
  simp [sameRow_of_hbm hhbm, hvia, hheld, hhbm]

/-- An entry stays behind an older one of its line. -/
theorem not_drainable_of_older {j : Nat} {o : OutEntry} (hj : j < i) (ho : q[j]? = some o) (hline : o.pa / 64 = e.pa / 64) : s.drainable q i = false := by
  have hmem : o ∈ q.take i := by
    obtain ⟨hlt, hget⟩ := List.getElem?_eq_some_iff.1 ho
    exact List.mem_take_iff_getElem.2 ⟨j, by omega, hget⟩
  have hold : ((q.take i).any fun o => o.pa / 64 == e.pa / 64 || (o.pa + o.bytes.length - 1) / 64 == e.pa / 64
      || (o.rid == e.rid && sameRow o.pa e.pa)) = true := List.any_eq_true.2 ⟨o, hmem, by simp [hline]⟩
  simp only [State.drainable, hq, hold]
  simp

end

section
variable {s : State} {k i : Nat} {e : OutEntry} (hq : (s.cluOf k).outq[i]? = some e)

theorem drain_of_not_drainable (h : s.drainable (s.cluOf k).outq i = false) : s.drain k i = s := by
  simp [State.drain, h]

theorem drainWord_of_not_drainable (h : s.drainable (s.cluOf k).outq i = false) (j : Nat) : s.drainWord k i j = s := by
  unfold State.drainWord
  dsimp only
  split
  · rfl
  · simp [h]

include hq

theorem drainWord_of_not_wordWise (h : s.wordWise k e = false) (j : Nat) : s.drainWord k i j = s := by
  simp [State.drainWord, hq, h]

variable (hready : s.drainable (s.cluOf k).outq i = true)
include hready

/-- A whole store drained to HBM. -/
theorem drain_store (hatomic : e.atomic = none) (hhbm : regionOf e.pa = .hbm) : ∃ u, s.drain k i =
    { s.modClu k (fun c => { c with outq := c.outq.eraseIdx i }) with mem := mwrite s.mem e.pa e.bytes, uncorr := u } := by
  obtain ⟨u, hu⟩ := arriveStore_hbm_eq (s.modClu k fun c => { c with outq := c.outq.eraseIdx i }) hhbm e.bytes (s.rowTenant e.rid) (.row e.rid)
  refine ⟨u, ?_⟩
  simp only [State.drain, hready, hq, hatomic, Bool.not_true, Bool.false_eq_true, if_false]
  exact hu

/-- What stays of an entry of which word `j` has drained. -/
def restOf (e : OutEntry) (j : Nat) : List OutEntry :=
  [{ e with bytes := e.bytes.take (8 * j) }, { e with pa := e.pa + 8 * j + 8, bytes := e.bytes.drop (8 * j + 8) }].filter fun e => !e.bytes.isEmpty

/-- One word of a store drained to HBM. -/
theorem drainWord_store {j : Nat} (hwise : s.wordWise k e = true) (halign : e.pa % 8 = 0) (hlong : 8 < e.bytes.length)
    (hword : 8 * j + 8 ≤ e.bytes.length) (hhbm : regionOf (e.pa + 8 * j) = .hbm) : ∃ u, s.drainWord k i j =
    { s.modClu k (fun c => { c with outq := c.outq.take i ++ restOf e j ++ c.outq.drop (i + 1) }) with
        mem := mwrite s.mem (e.pa + 8 * j) ((e.bytes.drop (8 * j)).take 8), uncorr := u } := by
  obtain ⟨u, hu⟩ := arriveStore_hbm_eq s hhbm ((e.bytes.drop (8 * j)).take 8) (s.rowTenant e.rid) (.row e.rid)
  refine ⟨u, ?_⟩
  have hgo : (!s.drainable (s.cluOf k).outq i || !s.wordWise k e || e.pa % 8 != 0 || decide (e.bytes.length ≤ 8)
      || decide (e.bytes.length < 8 * j + 8)) = false := by
    simp [hready, hwise, halign, hlong, hword]
  simp only [State.drainWord, hq, hgo, Bool.false_eq_true, if_false, hu]
  rfl

end

/-- The queue after entry changes of `drain_store` and `drainWord_store`. -/
theorem outq_modClu (s : State) (k : Nat) (f : Cluster → Cluster) (m : Mem) (u : List Nat) :
    (State.cluOf { s.modClu k f with mem := m, uncorr := u } k).outq = (f (s.cluOf k)).outq :=
  congrArg Cluster.outq ((State.cluOf_modClu s k k f).trans (if_pos rfl))

theorem outboundDrains : OutboundDrains := by
  intro s e k i j q clear hq hatomic hhbm hlen
  have hready (hclear : clear) : s.drainable q i = true := drainable_of_hbm hq hhbm hclear.1 hclear.2.1 hclear.2.2
  refine ⟨fun hflag hclear => ?_, fun hflag hclear hwise halign hlong hword hhbm' => ?_, fun hflag hwise => ?_, fun j' o hj ho hline => ?_⟩
  · obtain ⟨u, hu⟩ := drain_store hq (hready hclear) hatomic hhbm
    have hexec : exec .outboundDrain s = .next (s.drain k i) := by rw [exec_outboundDrain, hflag]; rfl
    exact ⟨_, hexec.trans (congrArg Host.Outcome.next hu), outq_modClu .., rfl, rfl, fun l hl => mget_mwrite_at _ _ _ hl, fun a ha => mget_mwrite_outside _ _ _ ha⟩
  · obtain ⟨u, hu⟩ := drainWord_store hq (hready hclear) hwise halign hlong hword hhbm'
    have hexec : exec .outboundDrain s = .next (s.drainWord k i j) := by rw [exec_outboundDrain, hflag]; rfl
    have hlen8 : ((e.bytes.drop (8 * j)).take 8).length = 8 := by rw [List.length_take, List.length_drop]; omega
    refine ⟨_, hexec.trans (congrArg Host.Outcome.next hu), rfl, rfl, outq_modClu .., fun l hl => ?_, fun a ha => mget_mwrite_outside _ _ _ (by rwa [hlen8])⟩
    refine (mget_mwrite_at _ _ _ (by rwa [hlen8])).trans ?_
    rw [List.getElem?_take_of_lt hl, List.getElem?_drop]
  · rw [exec_outboundDrain, hflag]
    exact congrArg Host.Outcome.next (drainWord_of_not_wordWise hq hwise j)
  · have hstays := not_drainable_of_older (s := s) hq hj ho hline
    rw [exec_outboundDrain]
    cases s.sel.flag
    · exact congrArg Host.Outcome.next (drain_of_not_drainable hstays)
    · exact congrArg Host.Outcome.next (drainWord_of_not_drainable hstays j)

end Sys2Proof.Says
end

section
namespace Sys2Proof.Says
open Sys2Proof.Machine

/-! ## LOAD_PERFORM (07_memory_model.md R135, R137; 23_stack_fabric.md R355) -/

section
variable {s : State} {r i : Nat} {l : PLoad}

theorem exec_loadPerform (s : State) : exec .loadPerform s = .next (s.performLoad (stepRow s) s.sel.idx) := rfl

/-- A load of a package that no port leads to waits. -/
theorem performLoad_unrouted (hload : (s.thrOf r).loads[i]? = some l) {p o : Nat} (hreg : regionOf l.pa = .remote p o) (hports : s.portsTo p = []) :
    s.performLoad r i = s := by
  simp only [State.performLoad, hload, hreg, hports, List.isEmpty_nil, if_true]
  split <;> rfl

/-- A load of HBM is ready behind an empty outbound queue when no older load of its line is pending. -/
theorem loadReady_of_hbm (hatomic : l.atomic = false) (hvec : l.vec = false) (hhbm : regionOf l.pa = .hbm) (hout : (s.cluOf (clusterOfRid r)).outq = [])
    (hline : ∀ o ∈ (s.thrOf r).loads, o.id < l.id → o.pa / 64 ≠ l.pa / 64) : s.loadReady r l = true := by
  have hold : ((s.thrOf r).loads.any fun o => !o.vec && decide (o.id < l.id) && (o.pa / 64 == l.pa / 64 || sameRow o.pa l.pa)) = false := by
    rw [List.any_eq_false]
    intro o ho
    simp only [sameRow_of_hbm hhbm, Bool.or_false, Bool.and_eq_true, decide_eq_true_eq, beq_iff_eq]
    exact fun hpast => hline o ho hpast.1.2 hpast.2
  simp only [State.loadReady, hatomic, hvec, hold, hout]
  rfl

theorem performLoad_of_hbm (hload : (s.thrOf r).loads[i]? = some l) (hready : s.loadReady r l = true) (hhbm : regionOf l.pa = .hbm) :
    s.performLoad r i = s.bindLoad r l (s.loadValue r l) := by
  simp only [State.performLoad, hload, hready, hhbm, settleAt_of_hbm hhbm, Bool.not_true, Bool.false_eq_true, if_false]

/-! ### What a load binds -/

/-- The value that the destinations of a load take. -/
def boundValue (l : PLoad) (v : List Byte) : Nat := if l.sext then (sext (8 * l.size) (ofBytes v)).toNat else ofBytes v

theorem map_getD_range {α : Type} (d : α) (v : List α) : ((List.range v.length).map fun i => v.getD i d) = v := by
  refine List.ext_getElem (by simp) fun i h1 h2 => ?_
  simp [List.getElem?_eq_getElem h2]

/-- Without bytes of its own chunk and without a queued store, a load takes the bytes of memory. -/
theorem loadBytes_of_hbm (hhbm : regionOf l.pa = .hbm) (hown : l.own = []) (hout : (s.cluOf (clusterOfRid r)).outq = []) :
    s.loadBytes r l = bytesOf l.size (mread s.mem l.pa l.size) := by
  simp only [State.loadBytes, hown, hout, homeRead_of_hbm hhbm, List.find?_nil, List.reverse_nil, List.findSome?_nil]
  conv_lhs => rw [← bytesOf_length l.size (mread s.mem l.pa l.size)]
  simpa using map_getD_range 0 (bytesOf l.size (mread s.mem l.pa l.size))

/-- A load of at most 8 bytes binds them extended to 64 bits. -/
theorem boundValue_extended {x : Nat} (hsize : l.size ≤ 8) (hx : x < 2 ^ (8 * l.size)) :
    boundValue l (bytesOf l.size x) = (extended l.size l.sext x).toNat := by
  have hpow : 2 ^ (8 * l.size) ≤ 2 ^ 64 := Nat.pow_le_pow_right (by decide) (by omega)
  rw [boundValue, ofBytes_bytesOf, Nat.mod_eq_of_lt hx, extended]
  cases l.sext
  · exact (Nat.mod_eq_of_lt (hx.trans_le hpow)).symm
  · rfl

/-- The promise of a sum of sketches is bound as a 64-bit word. -/
theorem boundValue_promise {tag sum : Nat} (hsext : l.sext = false) :
    boundValue l (bytesOf 8 (promiseWord tag sum)) = (num (tag % 256 * 2 ^ 56 + sum % 2 ^ 56)).toNat := by
  rw [boundValue, hsext, ofBytes_bytesOf]
  simp only [Bool.false_eq_true, if_false, promiseWord, num, BitVec.toNat_ofNat]
  omega

/-! ### The cells that a load binds -/

section
variable {m : Mem} {v : List Byte} (hseg : l.seg = none)
include hseg

/-- The register has the value; a window entry lies behind it. -/
theorem mread_bindCells_reg (hv : boundValue l v < 2 ^ 64) {k : Nat} (hreg : l.reg = some k) (hk : k ≠ 0) (hlow : k < 28)
    (hwin : ∀ w, l.win = some w → 1 ≤ w) : mread (bindCells r l v m) (rowAddr r + 8 * k) 8 = boundValue l v := by
  have hput (m : Mem) : mread (mwrite m (rowAddr r + 8 * k) (bytesOf 8 (boundValue l v))) (rowAddr r + 8 * k) 8 = boundValue l v :=
    (mread_mwrite_bytesOf 8 _ _ _).trans (Nat.mod_eq_of_lt hv)
  unfold bindCells
  simp only [hseg, hreg, if_neg hk]
  cases hw : l.win with
  | none => exact hput m
  | some w =>
    refine (mread_mwrite_of_disjoint _ _ _ _ _ ?_).trans (hput m)
    have := hwin w hw
    omega

/-- The window entry has the value. -/
theorem mread_bindCells_win (hv : boundValue l v < 2 ^ 64) {w : Nat} (hwin : l.win = some w) :
    mread (bindCells r l v m) (rowAddr r + 216 + 8 * w) 8 = boundValue l v := by
  unfold bindCells
  simp only [hseg, hwin]
  exact (mread_mwrite_bytesOf 8 _ _ _).trans (Nat.mod_eq_of_lt hv)

/-- Only bytes 0 to 255 of the row are written. -/
theorem mget_bindCells (hreg : ∀ k, l.reg = some k → k < 28) (hwin : ∀ w, l.win = some w → 1 ≤ w ∧ w ≤ 4) {a : Nat}
    (ha : a < rowAddr r ∨ rowAddr r + 256 ≤ a) : mget (bindCells r l v m) a = mget m a := by
  have houter (m : Mem) {b : Nat} (hb : b + 8 ≤ 256) (x : Nat) : mget (mwrite m (rowAddr r + b) (bytesOf 8 x)) a = mget m a :=
    mget_mwrite_outside _ _ _ (by rw [bytesOf_length]; omega)
  have hfirst : mget (match l.reg with | some k => if k = 0 then m else mwrite m (rowAddr r + 8 * k) (bytesOf 8 (boundValue l v)) | none => m) a = mget m a := by
    cases hk : l.reg with
    | none => rfl
    | some k =>
      have := hreg k hk
      dsimp only
      split
      · rfl
      · exact houter m (by omega) _
  unfold bindCells
  simp only [hseg]
  cases hw : l.win with
  | none => exact hfirst
  | some w =>
    have := hwin w hw
    refine Eq.trans ?_ hfirst
    dsimp only
    rw [Nat.add_assoc]
    exact houter _ (by omega) _

end

/-- A load binds in the row; with no chunk begun since, its checkpoint is none. -/
theorem bindLoad_eq (hcheck : (s.thrOf r).chunk.loads = []) (v : List Byte) : s.bindLoad r l v =
    State.modThr { s with mem := bindCells r l v s.mem } r fun t => { t with loads := t.loads.filter fun x => x.id != l.id } := by
  have hfind : ((State.thrOf { s with mem := bindCells r l v s.mem } r).chunk.loads.find? fun x => x.id == l.id) = none := by
    rw [show (State.thrOf { s with mem := bindCells r l v s.mem } r) = s.thrOf r from rfl, hcheck]
    rfl
  simp only [State.bindLoad, State.modThr, hfind]

end

theorem loadPerforms : LoadPerforms := by
  intro s l rid hload
  refine ⟨fun p o hreg hports => ?_, fun hatomic hvec hsext hown hhbm hout hsize hseg hcheck hline => ?_⟩
  · rw [exec_loadPerform]
    exact congrArg Host.Outcome.next (performLoad_unrouted hload hreg hports)
  intro h v
  have hready := loadReady_of_hbm hatomic hvec hhbm hout hline
  have hvalue : boundValue l (s.loadValue rid l) = v.toNat := by
    cases hp : l.promise with
    | none =>
      simp only [v, State.loadValue, hp]
      rw [loadBytes_of_hbm hhbm hown hout]
      exact boundValue_extended (hsize hp) (mread_lt _ _ _)
    | some p =>
      obtain ⟨skadd, tag, sum⟩ := p
      simp only [v, State.loadValue, hp]
      rw [homeRead_of_hbm hhbm]
      exact boundValue_promise (hsext (by simp [hp]))
  have hexec : exec .loadPerform s = .next (s.bindLoad rid l (s.loadValue rid l)) := by
    rw [exec_loadPerform]
    exact congrArg Host.Outcome.next (performLoad_of_hbm hload hready hhbm)
  have hlt : boundValue l (s.loadValue rid l) < 2 ^ 64 := hvalue ▸ v.isLt
  rw [bindLoad_eq hcheck] at hexec
  refine ⟨_, hexec, rfl, ?_, fun q hq => ?_, fun k hreg hk hlow hwin => ?_, fun w hwin _ _ => ?_, fun a ha hreg hwin => ?_⟩
  · simp [State.thrOf_modThr]; rfl
  · rw [State.thrOf_modThr, if_neg (Ne.symm hq)]; rfl
  · exact (mread_bindCells_reg hseg hlt hreg hk hlow hwin).trans hvalue
  · have haddr : rowAddr rid + 8 * (27 + w) = rowAddr rid + 216 + 8 * w := by omega
    exact (congrArg (fun a => mread _ a 8) haddr).trans ((mread_bindCells_win hseg hlt hwin).trans hvalue)
  · exact mget_bindCells hseg hreg hwin ha

/-- Settles O31: how an attempt to commit ends (`MayCommit.tryCommit_eq`) and what a commit and a replay then change (`applyCommit_eq`, `replay_eq`); a store and a load
whose home is HBM meet no row, so that each is one change of memory (`arriveStore_hbm_eq`, `bindLoad_eq`). -/
theorem memorySteps : Obligations.MemorySteps := ⟨chunkCommits, commitGrants, outboundDrains, loadPerforms⟩

end Sys2Proof.Says
end

section
namespace Sys2Proof.Says
open Sys2Proof.Machine Sys2Proof.Tests
set_option maxRecDepth 100000
set_option exponentiation.threshold 4096

/-! ## An issue that serves another command's range-lock entries (07_memory_model.md R146; 17_fault_replay.md R290)

The issue of an engine command serves the cluster's range-lock table once its own entries stand there. A command that waits for the entries of a page that has been
served takes them in that same step, where only the issuing row's own claim stood before it. The statement gives the table after the step as that before it with the
issued command's entries behind, whatever else waits. -/

/-- A `COPY` of 32 bytes from 0x1000 to 0x3000, whose page has been served: command 9. -/
def servedCopy : ECmd := { command .xcopy [0, 0x1000, 0x3000, 2 ^ 32 + 32, 32 * 2 ^ 32 + 32, 0, 0, 0] with started := true }

/-- The entries of its ranges, for which it waits. -/
def servedLocks : List Lock := [{ lo := 0x3000, hi := 0x301F, write := true, id := 9 }, { lo := 0x1000, hi := 0x101F, write := false, id := 9 }]

/-- Row 0 of `issuing`, woken for the 2 range-lock entries that it has waited for since order 0; behind its claim, since order 10, command 9 waits for its own. -/
def claimBeforeLate : State :=
  { issuing with
    seq := 11
    thr := [(0, { lockClaim := 2 })]
    oct := [(0, { queue := [servedCopy] })]
    clu := [(0, { tlb := [hbmPage], late := [(10, servedLocks)] })] }

/-- Until the row has issued, its claim stands before command 9, which gets nothing. -/
theorem locks_serveLocks_claimBeforeLate : ((claimBeforeLate.serveLocks 0).cluOf 0).locks = [] := by decide

/-- The row's command has two entries, which are granted to it. -/
theorem commandLocks_claimBeforeLate : ∃ l, claimBeforeLate.commandLocks 0 0 (fun _ => true) (claimBeforeLate.engineRanges 0 0 .xcopy (spec copyOne)) [] = .ok l ∧
    l.length = 2 ∧ claimBeforeLate.locksGrant 0 l.length = true := ⟨_, rfl, by decide, by decide⟩

theorem localSources_claimBeforeLate :
    claimBeforeLate.localSources 0 0 (claimBeforeLate.engineRanges 0 0 .xcopy (spec copyOne)) = false := by decide

/-- The step adds four entries to the empty table: the row's two, and the two of command 9. -/
theorem xcopy_claimBeforeLate : ∃ t, exec (.xcopy 6 1) claimBeforeLate = .next t ∧ (t.cluOf 0).locks.length = 4 := ⟨_, rfl, by decide⟩

theorem not_engineIssue : ¬ EngineIssue := by
  intro hissue
  have hspec : BitVec.ofNat 512 (spec copyOne).toNat = spec copyOne := BitVec.ofNat_toNat ..
  have halone : MayBeAlone claimBeforeLate := ⟨rfl, rfl, .inr ⟨rfl, .inl rfl⟩⟩
  obtain ⟨-, -, hissued, -⟩ :=
    hissue claimBeforeLate 6 1 (spec copyOne).toNat ⟨rfl, rfl⟩ rfl (.xcopy 6 1, .xcopy) (by simp [engineWords])
  have hwide (hlocal : claimBeforeLate.localSources 0 0
      (claimBeforeLate.engineRanges 0 0 .xcopy (BitVec.ofNat 512 (spec copyOne).toNat)) = true) : False := by
    rw [hspec, localSources_claimBeforeLate] at hlocal
    exact absurd hlocal (by decide)
  obtain ⟨-, htagged⟩ := hissued (by decide) halone (by decide) ((if_neg fun hlocal => hwide hlocal.2).mpr (by decide))
  obtain ⟨-, -, hgranted⟩ := htagged 0 (by decide)
  obtain ⟨locks, hlocks, htwo, hgrant⟩ := commandLocks_claimBeforeLate
  obtain ⟨t, hexec, -, -, -, -, -, -, -, -, -, -, htable⟩ := hgranted locks none (by rw [hspec]; exact hlocks) (.inr hgrant) rfl (by decide)
  obtain ⟨u, hexec', hfour⟩ := xcopy_claimBeforeLate
  have hsame : t = u := by injection hexec.symm.trans hexec'
  have hlength : (t.cluOf 0).locks.length = 2 := by
    refine (congrArg List.length htable).trans ?_
    rw [List.length_append, List.length_map, htwo]
    rfl
  exact absurd (hlength.symm.trans (hsame ▸ hfour)) (by decide)

/-- Refutes O45, in its part on the issue of engine commands: where a command waits for the range-lock entries of a served page behind the claim of the issuing row
(`claimBeforeLate`, where until then it gets none: `locks_serveLocks_claimBeforeLate`), the issue gives that command its entries too, and the table holds more than the statement says. The part on completion names this case (its
clause on the table asks for `late = []`), the part on issue does not. -/
theorem not_engines : ¬ Obligations.Engines := by
  unfold Obligations.Engines
  rintro ⟨hissue, -⟩
  exact not_engineIssue hissue

end Sys2Proof.Says
end

section
namespace Sys2Proof.Says
open Sys2Proof.Machine Sys2Proof.Tests

/-! ## Two names of one queue (09_memory_sync.md R165, R168; 23_stack_fabric.md R345)

A FIFO of a vertical pair is a queue of the loaded state of the pair's lower core, where a core queue of the same number would stand too. `QPUSH` to q8 therefore
changes what both names read, though no operand of a word spells the second. The statement lets every name but the operand's keep its values. -/

/-- Row 0 of core 0, the lower core of a vertical pair, with 9 in g6. -/
def lowerOfPair : State := row [(6, 9)]

/-- q8 names the FIFO of the pair. -/
theorem qref_lowerOfPair : lowerOfPair.qref lowerOfPair.me 8 = some (.pair 0 8 0) := by decide

/-- The push to the FIFO is also seen under the name of core queue 8, which is empty before. -/
theorem qpush_lowerOfPair : ∃ t, exec (.qpush 6 8) lowerOfPair = .next t ∧ valuesOf t (.core 0 8) = [9] := ⟨_, rfl, by decide⟩

/-- Refutes O32: `QPUSH` of q8 by a row of the lower core of a vertical pair (`lowerOfPair`) appends to `.pair 0 8 0`; `.core 0 8`, another name of the same queue,
does not keep its values. -/
theorem not_coreQueues : ¬ Obligations.CoreQueues := by
  unfold Obligations.CoreQueues
  intro hqueues
  obtain ⟨hpush, -⟩ := hqueues lowerOfPair lowerOfPair 0 6 8 9 ⟨rfl, rfl⟩ rfl
  obtain ⟨hroom, -⟩ := hpush _ qref_lowerOfPair (by decide) (w_mayBeAlone _) (by decide)
  obtain ⟨t, hexec, -, -, -, -, -, -, hothers⟩ := hroom (.inl (by decide)) (w_nobodyWaits _)
  obtain ⟨u, hexec', hnine⟩ := qpush_lowerOfPair
  have hsame : t = u := by injection hexec.symm.trans hexec'
  have hkept : valuesOf t (.core 0 8) = [] := hothers (.core 0 8) (by decide)
  exact absurd (hkept.symm.trans (hsame ▸ hnine)) (by decide)

end Sys2Proof.Says
end

section
namespace Sys2Proof.Says
open Sys2Proof.Machine Sys2Proof.Tests
set_option maxRecDepth 100000
set_option exponentiation.threshold 4096

/-! ## An `SBIND` that serves a command's range-lock entries (13_engines.md R254; 07_memory_model.md R146)

`SBIND` serves the cluster's range-lock table once its read lock stands there. A command that waits for entries behind the claim of the binding row takes them in
that same step. The statement gives the table after the step as that before it with the stream's entries behind, whatever else waits. -/

/-- Row 0 of `issuing`, woken for the range-lock entry of the stream in segment 3, for which it has waited since order 0; behind its claim, since order 10, command 9
waits for the entries of its served page. -/
def bindBehindClaim : State := { claimBeforeLate with thr := [(0, { lockClaim := 1 })] }

/-- Until the row has bound, its claim stands before command 9, which gets nothing. -/
theorem locks_serveLocks_bindBehindClaim : ((bindBehindClaim.serveLocks 0).cluOf 0).locks = [] := by decide

/-- The stream of segment 3. -/
def boundStream : Nat := (spec [2 * 2 ^ 24, 0x100, 4 * 2 ^ 32 + 5, 0, 0, 0, 0, 0]).toNat

/-- The stream has one entry, which is granted to the row. -/
theorem commandLocks_bindBehindClaim : ∃ l, bindBehindClaim.commandLocks 0 0 (fun _ => true) [streamRange (BitVec.ofNat 512 boundStream)] [] = .ok l ∧
    l.length = 1 ∧ bindBehindClaim.locksGrant 0 l.length = true := ⟨_, rfl, by decide, by decide⟩

/-- The row's earlier stores hold `SBIND` back wherever the source lies. -/
theorem storesHome_bindBehindClaim : bindBehindClaim.storesHome bindBehindClaim.me = true ∧
    bindBehindClaim.storesSeen bindBehindClaim.me = true ∧ bindBehindClaim.postedDone bindBehindClaim.me = true := by decide

/-- The step adds three entries to the empty table: the stream's, and the two of command 9. -/
theorem sbind_bindBehindClaim : ∃ t, exec (.sbind 24 3) bindBehindClaim = .next t ∧ (t.cluOf 0).locks.length = 3 := ⟨_, rfl, by decide⟩

theorem not_streamsAndTransferBarriers : ¬ StreamsAndTransferBarriers := by
  intro hstreams
  have halone : MayBeAlone bindBehindClaim := ⟨rfl, rfl, .inr ⟨rfl, .inl rfl⟩⟩
  obtain ⟨-, hregister, -⟩ := hstreams bindBehindClaim bindBehindClaim 5 24 0 3 3 ⟨rfl, rfl⟩
  obtain ⟨-, -, hbind⟩ := hregister (by decide) (by decide)
  obtain ⟨-, hvalid⟩ := hbind boundStream rfl
  obtain ⟨-, -, hplaced⟩ := hvalid (by decide) halone (by decide)
  have hunbound : ¬ bindBehindClaim.bound bindBehindClaim.me (24 : BitVec 5).toNat = true := by decide
  rw [if_neg hunbound] at hplaced
  obtain ⟨hhome, hseen, hposted⟩ := storesHome_bindBehindClaim
  obtain ⟨-, -, hbound⟩ := hplaced (by decide) (by split <;> [exact ⟨hseen, hposted⟩; exact hhome])
  obtain ⟨locks, hlocks, hone, hgrant⟩ := commandLocks_bindBehindClaim
  obtain ⟨t, hexec, -, -, -, -, -, -, -, -, htable⟩ := hbound locks hlocks (.inr hgrant)
  obtain ⟨u, hexec', hthree⟩ := sbind_bindBehindClaim
  have hsame : t = u := by injection hexec.symm.trans hexec'
  have hlength : (t.cluOf 0).locks.length = 1 := by
    refine (congrArg List.length htable).trans ?_
    rw [List.length_append, List.length_map, hone]
    rfl
  exact absurd (hlength.symm.trans (hsame ▸ hthree)) (by decide)

/-- Refutes O34, in its part on streams: where a command waits for range-lock entries behind the claim of the binding row (`bindBehindClaim`, where until then it gets
none: `locks_serveLocks_bindBehindClaim`), `SBIND` gives that command its entries too, and the table holds more than the statement says. -/
theorem not_barriersAndStreams : ¬ Obligations.BarriersAndStreams := by
  unfold Obligations.BarriersAndStreams
  rintro ⟨-, hstreams⟩
  exact not_streamsAndTransferBarriers hstreams

end Sys2Proof.Says
end

section
namespace Sys2Proof.Says
open Sys2Proof.Machine

/-! ## The checks of an access (09_memory_sync.md R152, R155; 16_translation.md R280, R282)

`State.access` is a chain of tests. One lemma per link says what follows where the links before it pass; the frame goes through the one link that changes the state,
the translation, which fills TLBs. -/

theorem bits_high_eq_zero_iff (x : W) : bits x.toNat 63 57 = 0 ↔ x.toNat < 2 ^ 57 := by
  have := x.isLt
  simp only [bits]
  omega

section
variable {s : State} {ea : W} {n : Nat} {k : AccKind}

theorem access_far (h : 2 ^ 57 ≤ ea.toNat) : s.access ea n k = .error (.trap .access ea none) :=
  if_pos fun h0 => absurd ((bits_high_eq_zero_iff ea).mp h0) (by omega)

theorem access_misaligned (h : ea.toNat < 2 ^ 57) (hn : ea.toNat % n ≠ 0) : s.access ea n k = .error (.trap .align ea none) :=
  (if_neg fun h0 => h0 ((bits_high_eq_zero_iff ea).mpr h)).trans (if_pos hn)

/-- What an access does with its translation. -/
theorem access_aligned (h : ea.toNat < 2 ^ 57) (hn : ea.toNat % n = 0) : s.access ea n k =
    match s.coreXlat s.me ea.toNat k.acc with
    | .access r => .error (.trap .access ea r)
    | .line => stall
    | .ok pa _ s =>
      if rowAddr s.me ≤ pa ∧ pa < rowAddr s.me + 320 then trap .access ea
      else if !s.targetTakes pa n k then trap .access ea
      else if !isBase s.me && s.rangeLocked s.myCluster pa n k.stores then trap .range ea
      else match if k = .store ∨ k = .indexed true then none else s.uncorrAt pa n with
        | some u => trap .uncorr (BitVec.ofNat 64 u)
        | none => .ok (pa, s) := by
  refine (if_neg fun h0 => h0 ((bits_high_eq_zero_iff ea).mpr h)).trans ((if_neg fun h0 => h0 hn).trans ?_)
  cases s.coreXlat s.me ea.toNat k.acc <;> rfl

end

theorem myCluster_eq {s t : State} (h : t.me = s.me) : t.myCluster = s.myCluster := congrArg clusterOfRid h

theorem accessChecks : AccessChecks := by
  intro s ea n k _
  refine ⟨access_far, access_misaligned, fun h hn r hx => ?_, fun h hn hx => ?_, fun h hn pa tt s1 hx hme => ?_, ?_⟩
  · rw [access_aligned h hn, hx]
  · rw [access_aligned h hn, hx]; rfl
  · rw [access_aligned h hn, hx, ← myCluster_eq hme, ← hme]
    intro far unlocked
    have hown (hfar : far) : ¬ (rowAddr s1.me ≤ pa ∧ pa < rowAddr s1.me + 320) := by simp only [far] at hfar; omega
    have hopen (hu : unlocked) : ¬ (!isBase s1.me && s1.rangeLocked s1.myCluster pa n k.stores) = true := by
      rcases hu with hu | hu <;> simp [hu]
    refine ⟨fun hlo hhi => if_pos ⟨hlo, hhi⟩, fun hfar htakes => ?_, fun hfar htakes hbase hlock => ?_,
      fun u hfar htakes hu hstore hidx huncorr => ?_, fun hfar htakes hu hread => ?_⟩
    · simp only [if_neg (hown hfar), htakes]; rfl
    · simp only [if_neg (hown hfar), htakes, hbase, hlock]; rfl
    · simp only [if_neg (hown hfar), htakes, if_neg (hopen hu), hstore, hidx, huncorr]; rfl
    · have hnone : (if k = .store ∨ k = .indexed true then none else s1.uncorrAt pa n) = none := by
        by_cases hk : k = .store ∨ k = .indexed true
        · rw [if_pos hk]
        · rw [if_neg hk]
          exact hread.resolve_left (fun hs => hk (.inl hs)) |>.resolve_left fun hi => hk (.inr hi)
      simp only [if_neg (hown hfar), htakes, if_neg (hopen hu), hnone]; rfl
  · intro pa st hhost
    simp only [State.targetTakes, hhost]
    exact ⟨by simp, by simp, by simp⟩

/-- `t` is `s` but for what the TLBs hold. -/
structure OnlyTlbs (s t : State) : Prop where
  rest : { t with core := s.core, clu := s.clu } = s
  core : ∀ c, t.coreOf c = { s.coreOf c with itlb := (t.coreOf c).itlb, dtlb := (t.coreOf c).dtlb }
  clu : ∀ q, t.cluOf q = { s.cluOf q with tlb := (t.cluOf q).tlb }

theorem OnlyTlbs.refl (s : State) : OnlyTlbs s s := ⟨rfl, fun _ => rfl, fun _ => rfl⟩

theorem OnlyTlbs.trans {s t u : State} (h : OnlyTlbs s t) (h' : OnlyTlbs t u) : OnlyTlbs s u := by
  refine ⟨?_, fun c => ?_, fun q => ?_⟩
  · exact (congrArg (fun x : State => { x with core := s.core, clu := s.clu }) h'.rest).trans h.rest
  · rw [h'.core c, h.core c]
  · rw [h'.clu q, h.clu q]

/-- An entry of the I-TLB or D-TLB of a core. -/
theorem OnlyTlbs.modCore (s : State) (core : Nat) (f : Core → Core)
    (hf : ∀ c, f c = { c with itlb := (f c).itlb, dtlb := (f c).dtlb }) : OnlyTlbs s (s.modCore core f) := by
  refine ⟨rfl, fun c => ?_, fun _ => rfl⟩
  by_cases h : core = c
  · subst h
    simpa using hf _
  · simp [h]

/-- An entry of the TLB of a cluster. -/
theorem OnlyTlbs.modClu (s : State) (k : Nat) (f : Cluster → Cluster) (hf : ∀ c, f c = { c with tlb := (f c).tlb }) : OnlyTlbs s (s.modClu k f) := by
  refine ⟨rfl, fun _ => rfl, fun q => ?_⟩
  by_cases h : k = q
  · subst h
    simpa using hf _
  · simp [h]

theorem onlyTlbs_xlatCluster (s : State) (k ten va : Nat) : OnlyTlbs s (s.xlatCluster k ten va).2 := by
  unfold State.xlatCluster
  split
  · exact .refl s
  · split
    · dsimp only
      exact .modClu s k _ fun _ => rfl
    · exact .refl s

theorem onlyTlbs_xlatCore (s : State) (core ten va : Nat) (fetch : Bool) : OnlyTlbs s (s.xlatCore core ten va fetch).2 := by
  have hcluster := onlyTlbs_xlatCluster s (clusterOf core) ten va
  simp only [State.xlatCore]
  split
  · exact .refl s
  · split
    next e u hx =>
      rw [hx] at hcluster
      dsimp only
      exact hcluster.trans (.modCore u core _ fun c => by cases fetch <;> rfl)
    next => exact hcluster

theorem onlyTlbs_coreXlat {s t : State} {rid va pa tt : Nat} {a : Acc} (h : s.coreXlat rid va a = .ok pa tt t) : OnlyTlbs s t := by
  simp only [State.coreXlat] at h
  have hstep : OnlyTlbs s (if isBase rid then s.xlatCluster (4 * ((rid - baseRid) / 8)) (s.rowTenant rid) va
      else s.xlatCore (coreOfRid rid) (s.rowTenant rid) va (a == .fetch)).2 := by
    split
    · exact onlyTlbs_xlatCluster ..
    · exact onlyTlbs_xlatCore ..
  split at h
  next e u hx =>
    rw [hx] at hstep
    split at h
    · cases h
    · split at h
      · cases h
      · cases h
        exact hstep
  next => cases h
  next => cases h

/-- An access that passes leaves what its translation leaves. -/
theorem coreXlat_of_access {s t : State} {ea : W} {n : Nat} {k : AccKind} {pa : Nat} (h : s.access ea n k = .ok (pa, t)) :
    ∃ tt, s.coreXlat s.me ea.toNat k.acc = .ok pa tt t := by
  simp only [State.access] at h
  split at h
  · cases h
  split at h
  · cases h
  split at h
  · cases h
  · cases h
  next pa' tt u hx =>
    split at h
    · cases h
    split at h
    · cases h
    split at h
    · cases h
    split at h
    · cases h
    · cases h
      exact ⟨tt, hx⟩

theorem accessLeavesOnlyTranslations : AccessLeavesOnlyTranslations := by
  intro s t ea n k pa h
  obtain ⟨tt, hx⟩ := coreXlat_of_access h
  obtain ⟨hrest, hcore, hclu⟩ := onlyTlbs_coreXlat hx
  exact ⟨hrest, hcore, hclu⟩

/-- Settles O27: the links of `State.access` in order, and the frame of the translation, its one link that changes the state (`OnlyTlbs`). -/
theorem accessChecksAndFrame : Obligations.AccessChecksAndFrame := by
  unfold Obligations.AccessChecksAndFrame
  exact ⟨accessChecks, accessLeavesOnlyTranslations⟩

end Sys2Proof.Says
end

section
namespace Sys2Proof.Says
open Sys2Proof.Machine

/-! ## Loads (09_memory_sync.md R152, R154, R156; 07_memory_model.md R124, R128, R135)

`State.load` branches on the home of its address. One equation per branch serves the scalar loads here and the segment loads below. -/

/-! ### Addresses and words -/

theorem index_eq_num (x y : W) (k : BitVec 2) : x + y * BitVec.ofNat 64 (2 ^ k.toNat) = num (x.toNat + y.toNat * 2 ^ k.toNat) := by
  apply BitVec.eq_of_toNat_eq
  simp [num]

theorem eaImm_of {s s1 : State} {ea : W} {a : BitVec 5} {i : BitVec 14} (h : AddressOf s s1 ea a (.inl i)) : s.eaImm a i = .ok (ea, s1) := by
  obtain ⟨x, ha, rfl⟩ := h
  simp only [State.eaImm, ha, bind, Except.bind, addi_eq_int]

theorem eaIdx_of {s s1 : State} {ea : W} {a b : BitVec 5} {k : BitVec 2} (h : AddressOf s s1 ea a (.inr (b, k))) : s.eaIdx a b k = .ok (ea, s1) := by
  obtain ⟨x, y, s0, ha, hb, rfl⟩ := h
  simp only [State.eaIdx, ha, hb, bind, Except.bind, index_eq_num]

theorem exec_immLoads (d a : BitVec 5) (i : BitVec 14) :
    ∀ f ∈ immLoads d a i, ∀ s, exec f.1 s = s.ldOp (s.eaImm a i) f.2.1 (.scalar d.toNat f.2.2) := by
  simp only [immLoads, List.forall_mem_cons]
  exact ⟨fun _ => rfl, fun _ => rfl, fun _ => rfl, fun _ => rfl, fun _ => rfl, fun _ => rfl, fun _ => rfl, by simp⟩

theorem exec_idxLoads (d a b : BitVec 5) (k : BitVec 2) :
    ∀ f ∈ idxLoads d a b k, ∀ s, exec f.1 s = s.ldOp (s.eaIdx a b k) f.2.1 (.scalar d.toNat f.2.2) := by
  simp only [idxLoads, List.forall_mem_cons]
  exact ⟨fun _ => rfl, fun _ => rfl, fun _ => rfl, fun _ => rfl, fun _ => rfl, fun _ => rfl, fun _ => rfl, by simp⟩

theorem ldOp_of {s s1 : State} {ea : W} {x : Res (W × State)} (hp : (s.ctlOf s.me).p = false) (hx : x = .ok (ea, s1)) (n : Nat) (b : Bind) (k : AccKind) :
    s.ldOp x n b k = s.runWord (s1.load ea n b false k) := by
  simp only [State.ldOp, noPacket_of hp, hx, bind, Except.bind]

theorem exec_loadsFrom {s s1 : State} {i : Instr} {d : BitVec 5} {n : Nat} {signed : Bool} {ea : W} (h : LoadsFrom s s1 i d n signed ea) :
    exec i s = s.runWord (s1.load ea n (.scalar d.toNat signed)) := by
  obtain ⟨hp, ⟨a, im, hi, ha⟩ | ⟨a, b, k, hi, ha⟩⟩ := h
  · exact (exec_immLoads d a im _ hi s).trans (ldOp_of hp (eaImm_of ha) ..)
  · exact (exec_idxLoads d a b k _ hi s).trans (ldOp_of hp (eaIdx_of ha) ..)

/-! ### Where a load completes -/

section
variable {s1 s2 : State} {ea : W} {pa n : Nat} {b : Bind} {k : AccKind} (hacc : s1.access ea n k = .ok (pa, s2))
include hacc

theorem load_base (hbase : isBase s2.me = true) : s1.load ea n b false k = s2.bindNow b n (s2.peek pa n) := by
  simp only [State.load, hacc, bind, Except.bind, if_pos hbase]

variable (hbase : isBase s2.me = false)
include hbase

section
variable (hdev : deviceHome pa = true) (halone : MayBeAlone s2) (hdrained : s2.drained s2.me = true)
include hdev halone hdrained

/-- A device home is read alone in a chunk, once the earlier accesses are done. -/
theorem load_device : s1.load ea n b false k = (s2.modCur fun x => { x with ending := true }).bindNow b n
    (match regionOf pa with | .host => s2.peek pa n | _ => ((s2.mmioRead (some s2.me) pa).map BitVec.toNat).getD 0) := by
  have hafter : (s2.modCur fun x => { x with ending := true }).afterAll = .ok () := afterAll_of hdrained
  simp only [State.load, hacc, bind, Except.bind, hbase, Bool.false_eq_true, if_false, if_pos hdev, alone_of hbase halone, hafter]
  rfl

theorem load_host (hhost : regionOf pa = .host) :
    s1.load ea n b false k = (s2.modCur fun x => { x with ending := true }).bindNow b n (s2.peek pa n) := by
  rw [load_device hacc hbase hdev halone hdrained, hhost]

theorem load_register (hhost : regionOf pa ≠ .host) {v : W} (hread : s2.mmioRead (some s2.me) pa = some v) :
    s1.load ea n b false k = (s2.modCur fun x => { x with ending := true }).bindNow b n v.toNat := by
  rw [load_device hacc hbase hdev halone hdrained, hread]
  split
  next h => exact absurd h hhost
  next => rfl

end

variable (hdev : deviceHome pa = false)
include hdev

theorem load_ownRow (hhome : clusterHome pa = some s2.myCluster) (hrow : rowAt pa = some s2.me) (hseg : s2.segPending (pa - rowAddr s2.me) n = false) :
    s1.load ea n b false k = (s2.trackRead pa).bindNow b n (s2.clusterRead' pa n) := by
  simp only [State.load, hacc, bind, Except.bind, hbase, hdev, Bool.false_eq_true, if_false, if_pos hhome, if_pos hrow, hseg, and_false]

theorem load_ownCluster (hhome : clusterHome pa = some s2.myCluster) (hrow : rowAt pa ≠ some s2.me) :
    s1.load ea n b false k = s2.reach pa n >>= fun s3 => (s3.trackRead pa).bindNow b n (s3.clusterRead' pa n) := by
  simp only [State.load, hacc, bind, Except.bind, hbase, hdev, Bool.false_eq_true, if_false, if_pos hhome, if_neg hrow]

/-- The bytes of an access that the chunk itself has stored, with their places. -/
def ownBytes (s : State) (pa n : Nat) : List (Nat × Byte) :=
  (List.range n).filterMap fun i => (bufByte (s.thrOf s.me).chunk.stores (pa + i)).map fun x => (i, x)

theorem load_forwarded (hhome : clusterHome pa ≠ some s2.myCluster) (hown : (ownBytes s2 pa n).length = n) :
    s1.load ea n b false k = s2.bindNow b n (ofBytes ((ownBytes s2 pa n).map (·.2))) := by
  simp only [State.load, hacc, bind, Except.bind, hbase, hdev, Bool.false_eq_true, if_false, if_neg hhome]
  exact if_pos hown

theorem load_pending (hhome : clusterHome pa ≠ some s2.myCluster) (hown : (ownBytes s2 pa n).length ≠ n) :
    s1.load ea n b false k = s2.bindLater b pa n (ownBytes s2 pa n) false false >>= fun p => .ok p.2 := by
  simp only [State.load, hacc, bind, Except.bind, hbase, hdev, Bool.false_eq_true, if_false, if_neg hhome]
  exact if_neg hown

end

/-! ### Scalar loads -/

/-- A value bound at once is a write of the destination register, sign-extended or not. -/
theorem writes_bindNow {s u : State} {rid n : Nat} {d : BitVec 5} {signed : Bool} (hme : u.me = rid) (hopen : u.dstOpen d.toNat = true) (v : Nat) :
    ∃ t, s.runWord (u.bindNow (.scalar d.toNat signed) n v) = .next t ∧ Writes u t rid d (extended n signed v) := by
  rw [← hme]
  exact ⟨_, congrArg s.runWord (State.dst_open u d.toNat _ hopen), writes_put_retire hopen _⟩

/-- The same for a word that executes alone. -/
theorem writes_bindNow_alone {s u : State} {rid n : Nat} {d : BitVec 5} {signed : Bool} (hme : u.me = rid) (hopen : u.dstOpen d.toNat = true) (v : Nat) :
    ∃ t, s.runWord ((u.modCur fun x => { x with ending := true }).bindNow (.scalar d.toNat signed) n v) = .next t ∧ Writes u t rid d (extended n signed v) := by
  obtain ⟨t, ht, hw⟩ := writes_bindNow (s := s) (signed := signed) (n := n) (u := u.modCur fun x => { x with ending := true }) hme
    (((SameWord.refl u).ending.dstOpen _).trans hopen) v
  exact ⟨t, ht, hw.of_modCur (.ending _)⟩

theorem writes_bindNow_trackRead {s u : State} {rid n : Nat} {d : BitVec 5} {signed : Bool} (hme : u.me = rid) (hopen : u.dstOpen d.toNat = true)
    (pa v : Nat) : ∃ t, s.runWord ((u.trackRead pa).bindNow (.scalar d.toNat signed) n v) = .next t ∧ Writes (u.trackRead pa) t rid d (extended n signed v) :=
  writes_bindNow (u := u.trackRead pa) hme (((sameWord_trackRead (SameWord.refl u) pa).dstOpen _).trans hopen) v

theorem scalarLoads : ScalarLoads := by
  intro s s1 s2 i d n signed ea pa hfrom hacc hme hopen
  rw [exec_loadsFrom hfrom, ← hme, ← myCluster_eq hme]
  refine ⟨fun hbase => ?_, fun hbase => ⟨fun hrow hhome hdev hseg => ?_, fun s3 hrow hhome hdev hreach hme3 hopen3 => ?_,
    fun hrow hhome hdev hsettle => ?_, fun hhome hdev => ⟨fun hown => ?_, fun hown => ?_⟩, fun hdev halone hdrained => ⟨fun hhost => ?_, fun hhost v hread => ?_⟩⟩⟩
  · rw [load_base hacc hbase]
    exact writes_bindNow rfl hopen _
  · rw [load_ownRow hacc hbase hdev hhome hrow hseg]
    exact writes_bindNow_trackRead rfl hopen _ _
  · rw [load_ownCluster hacc hbase hdev hhome hrow, hreach]
    exact writes_bindNow_trackRead hme3 hopen3 _ _
  · have hreach : s2.reach pa n = .error (.hold pa s2.cur.ending) := by simp only [State.reach, hsettle]
    rw [load_ownCluster hacc hbase hdev hhome hrow, hreach]
    rfl
  · rw [load_forwarded hacc hbase hdev hhome hown]
    exact writes_bindNow rfl hopen _
  · rw [load_pending hacc hbase hdev hhome hown, bindLater_scalar hopen]
    exact ⟨_, rfl, pends_retire ..⟩
  · rw [load_host hacc hbase hdev halone hdrained hhost]
    exact writes_bindNow_alone rfl hopen _
  · rw [load_register hacc hbase hdev halone hdrained hhost hread]
    exact writes_bindNow_alone rfl hopen _

/-! ### What a load of single-copy memory reads (07_memory_model.md R128; 02_rows.md R25) -/

theorem map_range_getD {l : List Byte} {n : Nat} (h : l.length = n) : (List.range n).map (fun i => l.getD i 0) = l := by
  subst h
  refine List.ext_getElem (by simp) fun i hi _ => ?_
  rw [List.getElem_map, List.getElem_range, List.getD_eq_getElem]

section
variable {s : State} {pa n : Nat}

theorem peek_lt (s : State) (pa n : Nat) : s.peek pa n < 2 ^ (8 * n) := mread_lt _ _ _

section
variable (hctl : ∀ r w o, regionOf pa ≠ .control r w o)
include hctl

/-- Outside the control entries, the bytes at home are those of memory, or zero where the bank is BUSY. -/
theorem clusterRead'_eq : s.clusterRead' pa n = ofBytes ((List.range n).map fun i =>
    (bufByte (s.thrOf s.me).chunk.stores (pa + i)).getD ((bytesOf n (if s.busyBank pa then 0 else s.peekSeen pa n)).getD i 0)) := by
  unfold State.clusterRead'
  dsimp only
  split
  next r w o h => exact absurd h (hctl r w o)
  next => rfl

theorem clusterRead'_of_empty (hstores : (s.thrOf s.me).chunk.stores = []) :
    s.clusterRead' pa n = (if s.busyBank pa then 0 else s.peekSeen pa n) % 2 ^ (8 * n) := by
  rw [clusterRead'_eq hctl, hstores, ← ofBytes_bytesOf]
  exact congrArg ofBytes (map_range_getD (bytesOf_length _ _))

end

theorem peekSeen_of_unreserved (h : ∀ r o, regionOf pa = .rowStore r o → 8 ≤ o ∨ o + n ≤ 7 ∨ (s.ctlOf r).state = .null) : s.peekSeen pa n = s.peek pa n := by
  unfold State.peekSeen
  dsimp only
  split
  next r o hreg =>
    refine if_neg fun ⟨hlo, hhi, hlive⟩ => ?_
    obtain ho | ho | hnull := h r o hreg
    · omega
    · omega
    · exact hlive hnull
  next => rfl

theorem peekSeen_status {r : Nat} (hreg : regionOf pa = .rowStore r 0) (hlive : (s.ctlOf r).state ≠ .null) : s.peekSeen pa 8 = s.peek pa 8 % 2 ^ 62 := by
  have hlt := peek_lt s pa 8
  simp only [State.peekSeen, hreg]
  rw [if_pos ⟨by omega, by omega, hlive⟩]
  omega

/-- The bytes of the chunk's youngest store, where it covers the access. -/
theorem bufByte_last {l : List BufStore} {b : BufStore} {i : Nat} (hi : i < b.bytes.length) : bufByte (l ++ [b]) (b.pa + i) = some (b.bytes.getD i 0) := by
  simp [bufByte, hi]

end

theorem clusterReadBytes : ClusterReadBytes := by
  intro s pa n _ hctl
  refine ⟨fun hstores hbusy hstatus => ?_, fun r hstores hbusy hreg hlive hn => ?_, fun hstores hbusy => ?_, fun b l hstores hpa hlen => ?_⟩
  · rw [clusterRead'_of_empty hctl hstores, hbusy, if_neg Bool.false_ne_true, peekSeen_of_unreserved hstatus, Nat.mod_eq_of_lt (peek_lt ..)]
  · subst hn
    rw [clusterRead'_of_empty hctl hstores, hbusy, if_neg Bool.false_ne_true, peekSeen_status hreg hlive]
    omega
  · rw [clusterRead'_of_empty hctl hstores, hbusy, if_pos rfl, Nat.zero_mod]
  · subst hpa hlen
    rw [clusterRead'_eq hctl, hstores]
    refine congrArg ofBytes ((List.map_congr_left fun i hi => ?_).trans (map_range_getD rfl))
    rw [bufByte_last (List.mem_range.mp hi), Option.getD_some]

/-- Settles O28: the branches of `State.load` by the home of the address, each bound at once or pending (`writes_bindNow`, `pends_retire`), and the bytes of
`State.clusterRead'`. -/
theorem scalarLoadsComplete : Obligations.ScalarLoadsComplete := by
  unfold Obligations.ScalarLoadsComplete
  exact ⟨scalarLoads, clusterReadBytes⟩

end Sys2Proof.Says
end

section
namespace Sys2Proof.Says
open Sys2Proof.Machine
set_option exponentiation.threshold 4096

/-! ## Stores and segment accesses (09_memory_sync.md R152, R154, R156, R158; 07_memory_model.md R124, R128)

As for the loads, an equation per branch of `State.storeAt`; then what a word shows that wrote memory, or left a store in the buffer of its chunk. -/

/-! ### Words -/

theorem exec_immStores (d a : BitVec 5) (i : BitVec 14) : ∀ f ∈ immStores d a i, ∀ s, exec f.1 s = s.stOp (s.eaImm a i) d f.2 := by
  simp only [immStores, List.forall_mem_cons]
  exact ⟨fun _ => rfl, fun _ => rfl, fun _ => rfl, fun _ => rfl, by simp⟩

theorem exec_idxStores (d a b : BitVec 5) (k : BitVec 2) : ∀ f ∈ idxStores d a b k, ∀ s, exec f.1 s = s.stOp (s.eaIdx a b k) d f.2 := by
  simp only [idxStores, List.forall_mem_cons]
  exact ⟨fun _ => rfl, fun _ => rfl, fun _ => rfl, fun _ => rfl, by simp⟩

theorem stOp_of {s s1 s2 : State} {ea v : W} {x : Res (W × State)} {d : BitVec 5} (hp : (s.ctlOf s.me).p = false) (hx : x = .ok (ea, s1))
    (hd : s1.src d.toNat = .ok (v, s2)) (n : Nat) : s.stOp x d n = s.runWord (s2.store ea n v.toNat) := by
  simp only [State.stOp, noPacket_of hp, hx, hd, bind, Except.bind]

theorem exec_storesTo {s s1 : State} {i : Instr} {n : Nat} {ea v : W} (h : StoresTo s s1 i n ea v) : exec i s = s.runWord (s1.store ea n v.toNat) := by
  obtain ⟨hp, d, s0, hd, ⟨a, im, hi, ha⟩ | ⟨a, b, k, hi, ha⟩⟩ := h
  · exact (exec_immStores d a im _ hi s).trans (stOp_of hp (eaImm_of ha) hd n)
  · exact (exec_idxStores d a b k _ hi s).trans (stOp_of hp (eaIdx_of ha) hd n)

theorem store_of {s1 s2 : State} {ea : W} {pa n : Nat} (hacc : s1.access ea n .store = .ok (pa, s2)) (v : Nat) :
    s1.store ea n v = s2.storeAt pa (bytesOf n v) false := by
  simp only [State.store, hacc, bind, Except.bind]

/-! ### Where a store completes -/

theorem cellOf_host {pa : Nat} (h : regionOf pa = .host) : cellOf pa = pa := by
  refine if_neg fun ⟨hlo, hhi⟩ => ?_
  have hbank : regionOf pa = .bankLinear := by rw [regionOf, if_neg (by omega), if_pos hhi]
  rw [hbank] at h
  cases h

theorem deviceHome_host {pa : Nat} (h : regionOf pa = .host) : deviceHome pa = true := by simp [deviceHome, h]

section
variable {s : State} {pa : Nat} {bs : List Byte} {strong : Bool}

theorem storeAt_base (hbase : isBase s.me = true) : s.storeAt pa bs strong = .ok ((s.clearUncorr pa bs.length).poke pa bs) := by
  simp only [State.storeAt, hbase, if_true]

theorem buffer_full {home : Bool} (h : 32 < (bufLines ((s.thrOf s.me).chunk.stores ++ [bufEntry pa bs strong home])).length) :
    s.buffer pa bs strong home = .error .endChunk := if_pos h

variable (hbase : isBase s.me = false)
include hbase

theorem storeAt_elsewhere (hdev : deviceHome pa = false) (hhome : clusterHome pa ≠ some s.myCluster) : s.storeAt pa bs strong = s.buffer pa bs strong false := by
  simp only [State.storeAt, hbase, hdev, Bool.false_eq_true, if_false, if_neg hhome]

section
variable (hdev : deviceHome pa = true) (halone : MayBeAlone s) (hdrained : s.drained s.me = true)
include hdev halone hdrained

/-- A device register is written alone in a chunk, once the earlier accesses are done. -/
theorem storeAt_register (hhost : regionOf pa ≠ .host) {t : State}
    (hwrite : (s.modCur fun x => { x with ending := true }).mmioWrite pa (BitVec.ofNat 64 (ofBytes bs)) = some t) : s.storeAt pa bs strong = .ok t := by
  have hafter : (s.modCur fun x => { x with ending := true }).afterAll = .ok () := afterAll_of hdrained
  simp only [State.storeAt, bind, Except.bind, hbase, Bool.false_eq_true, if_false, if_pos hdev, alone_of hbase halone, hafter, hwrite, Option.getD_some]

end

/-- So is host memory. -/
theorem storeAt_host (hhost : regionOf pa = .host) (halone : MayBeAlone s) (hdrained : s.drained s.me = true) :
    s.storeAt pa bs strong = .ok ((s.modCur fun x => { x with ending := true }).poke pa bs) := by
  have hafter : (s.modCur fun x => { x with ending := true }).afterAll = .ok () := afterAll_of hdrained
  simp only [State.storeAt, bind, Except.bind, hbase, Bool.false_eq_true, if_false, if_pos (deviceHome_host hhost), alone_of hbase halone, hafter, hhost]

end

/-! ### What a word shows that wrote memory -/

/-- `u` is the state of a word that has put `bs` in memory at `at'` from `s`, and cleared marks of uncorrectable words. -/
structure PutsBytes (s u : State) (at' : Nat) (bs : List Byte) : Prop where
  eq : u = { s with mem := mwrite s.mem at' bs, uncorr := u.uncorr }
  uncorr : ∀ x ∈ u.uncorr, x ∈ s.uncorr

theorem mem_clearUncorr {s : State} {pa n x : Nat} (h : x ∈ (s.clearUncorr pa n).uncorr) : x ∈ s.uncorr := by
  unfold State.clearUncorr at h
  split at h
  · exact h
  · exact (List.mem_filter.mp h).1

theorem putsBytes_poke (s : State) (pa : Nat) (bs : List Byte) : PutsBytes s (s.poke pa bs) (cellOf pa) bs :=
  ⟨rfl, fun _ h => h⟩

theorem putsBytes_clear (s : State) (pa n : Nat) (bs : List Byte) : PutsBytes s ((s.clearUncorr pa n).poke pa bs) (cellOf pa) bs := by
  have hsub (x : Nat) : x ∈ (s.clearUncorr pa n).uncorr → x ∈ s.uncorr := mem_clearUncorr
  obtain ⟨u, hu⟩ := clearUncorr_eq s pa n
  rw [hu] at hsub ⊢
  exact ⟨rfl, hsub⟩

namespace PutsBytes
variable {s u : State} {pa at' n v : Nat} {bs : List Byte}

/-- The write signature takes the line; seen from the state that has it already, only the bytes were put. -/
theorem trackWrite (h : PutsBytes s u at' bs) (pa : Nat) : PutsBytes (s.trackWrite pa) (u.trackWrite pa) at' bs :=
  ⟨congrArg (State.trackWrite · pa) h.eq, h.uncorr⟩

variable (h : PutsBytes s u at' (bytesOf n v))
include h

theorem mem : u.mem = mwrite s.mem at' (bytesOf n v) := congrArg State.mem h.eq
theorem cur : u.cur = s.cur := (congrArg State.cur h.eq).trans rfl
theorem ctlOf (r : Nat) : u.ctlOf r = s.ctlOf r := (congrArg (State.ctlOf · r) h.eq).trans rfl
theorem moves : Moves s u.retire s.me := moves_retire (h.ctlOf _) (congrArg Cur.rid h.cur) (congrArg Cur.slot h.cur) (congrArg Cur.pc h.cur) (congrArg Cur.jump h.cur)
theorem onlyPc : OnlyPc s u.retire s.me := onlyPc_retire h.ctlOf (congrArg Cur.rid h.cur)
theorem outside {q : Nat} (hq : q < at' ∨ at' + n ≤ q) : mget u.retire.mem q = mget s.mem q := by
  rw [State.retire_mem, h.mem]
  exact mget_mwrite_outside _ _ _ (by rwa [bytesOf_length])
theorem reads : mread u.retire.mem at' n = v % 2 ^ (8 * n) := by rw [State.retire_mem, h.mem, mread_mwrite_bytesOf]
theorem byte {i : Nat} (hi : i < n) : mget u.retire.mem (at' + i) = BitVec.ofNat 8 (v / 2 ^ (8 * i)) := by
  rw [State.retire_mem, h.mem, mget_mwrite, if_pos ⟨by omega, by rw [bytesOf_length]; omega⟩, Nat.add_sub_cancel_left, getD_bytesOf n v i hi]

end PutsBytes

theorem stores_retire {s u : State} {at' n : Nat} {v : W} (h : PutsBytes s u at' (bytesOf n v.toNat)) :
    Stores { s with uncorr := u.retire.uncorr } u.retire s.me at' n v := by
  have hrest : Elsewhere { s with uncorr := u.uncorr } u := by rw [h.eq]; constructor <;> rfl
  refine ⟨State.retire_ended _, h.moves, ?_, ⟨h.onlyPc.others, h.onlyPc.own⟩, fun r => ?_, fun i hi => h.byte hi, fun a ha => h.outside ha⟩
  · rw [State.retire_uncorr]
    exact elsewhere_retire hrest
  · rw [State.retire_at_thrOf]
    exact (congrArg (State.thrOf · r) h.eq).trans rfl

theorem stores_poke_retire (s : State) (pa n : Nat) (v : W) : Stores s (s.poke pa (bytesOf n v.toNat)).retire s.me (cellOf pa) n v := by
  have hstores := stores_retire (putsBytes_poke s pa (bytesOf n v.toNat))
  rwa [State.retire_uncorr] at hstores

/-! ### What a word shows that left a store in its chunk's buffer -/

/-- A record whose chunk has the entry in its buffer, the write signature `w`, and the mark `e` of its end. -/
def Thr.withStore (t : Thr) (b : BufStore) (w : BitVec 1024) (e : Bool) : Thr :=
  { t with chunk := { t.chunk with stores := t.chunk.stores ++ [b], wsig := w, ended := e } }

theorem OnlyRecord.modChunk {s u : State} {g : Thr} (h : OnlyRecord s u g) (f : Chunk → Chunk) :
    OnlyRecord s (u.modChunk u.me f) { g with chunk := f g.chunk } := h.modThr fun t => { t with chunk := f t.chunk }

theorem onlyRecord_buffered (s : State) (b : BufStore) : OnlyRecord s (buffered s b)
    (Thr.withStore (s.thrOf s.me) b (s.thrOf s.me).chunk.wsig (s.thrOf s.me).chunk.ended) := 
  (OnlyRecord.refl s).modChunk fun c => { c with stores := (s.thrOf s.me).chunk.stores ++ [b] }

theorem buffers_onlyRecord {s u : State} {pa : Nat} {bs : List Byte} {strong home e : Bool} {w : BitVec 1024}
    (h : OnlyRecord s u (Thr.withStore (s.thrOf s.me) (bufEntry pa bs strong home) w e)) :
    Buffers s u.retire pa bs strong home ∧ (u.retire.thrOf s.me).chunk.wsig = w ∧ (u.retire.thrOf s.me).chunk.ended = e := by
  obtain ⟨hended, hmoves, hrest, hpc, hmem, hothers, hown⟩ := h.retire
  refine ⟨⟨hended, hmoves, hrest, hpc, hothers, ?_, ?_, hmem⟩, ?_, ?_⟩ <;> rw [hown] <;> rfl

section
variable {s0 s : State} {pa : Nat} {bs : List Byte} (hbase : isBase s.me = false) (hdev : deviceHome pa = false)
include hbase hdev

/-- A store to other single-copy memory of the cluster, or to a control entry, is buffered, and its line joins the write signature. A store to the row's own control
entry ends the chunk. -/
theorem buffers_cluster (hwhere : rowAt pa ≠ some s.me ∨ ∃ r w o, regionOf pa = .control r w o) (hhome : clusterHome pa = some s.myCluster)
    (hroom : (bufLines ((s.thrOf s.me).chunk.stores ++ [bufEntry pa bs false true])).length ≤ 32) :
    ∃ t, s0.runWord (s.storeAt pa bs false) = .next t ∧ Buffers s t pa bs false true ∧
      (t.thrOf s.me).chunk.wsig = (s.thrOf s.me).chunk.wsig ||| lineSig pa ∧ ((∃ w o, regionOf pa = .control s.me w o) → (t.thrOf s.me).chunk.ended = true) := by
  have htracked : OnlyRecord s ((buffered s (bufEntry pa bs false true)).trackWrite pa)
      (Thr.withStore (s.thrOf s.me) (bufEntry pa bs false true) ((s.thrOf s.me).chunk.wsig ||| lineSig pa) (s.thrOf s.me).chunk.ended) :=
    (onlyRecord_buffered s (bufEntry pa bs false true)).modChunk fun c => { c with wsig := c.wsig ||| lineSig pa }
  by_cases hctl : ∃ r w o, regionOf pa = .control r w o
  · obtain ⟨r, w, o, hreg⟩ := hctl
    rw [storeAt_control hbase hdev hhome hreg hroom]
    have hmarked : OnlyRecord s _ (Thr.withStore (s.thrOf s.me) (bufEntry pa bs false true) ((s.thrOf s.me).chunk.wsig ||| lineSig pa)
        ((s.thrOf s.me).chunk.ended || decide (r = s.me))) := htracked.modChunk fun c => { c with ended := c.ended || decide (r = s.me) }
    obtain ⟨hbuf, hwsig, hend⟩ := buffers_onlyRecord hmarked
    refine ⟨_, rfl, hbuf, hwsig, fun ⟨w', o', hreg'⟩ => ?_⟩
    obtain ⟨rfl, -, -⟩ : r = s.me ∧ w = w' ∧ o = o' := by rw [hreg] at hreg'; injection hreg' with h1 h2 h3; exact ⟨h1, h2, h3⟩
    exact hend.trans (by simp)
  · rw [storeAt_cluster hbase hdev hhome (hwhere.resolve_right hctl) hctl hroom]
    obtain ⟨hbuf, hwsig, -⟩ := buffers_onlyRecord htracked
    exact ⟨_, rfl, hbuf, hwsig, fun ⟨w, o, hreg⟩ => absurd ⟨_, w, o, hreg⟩ hctl⟩

/-- A store to HBM or another cluster's or package's memory is buffered. -/
theorem buffers_elsewhere (hhome : clusterHome pa ≠ some s.myCluster)
    (hroom : (bufLines ((s.thrOf s.me).chunk.stores ++ [bufEntry pa bs false false])).length ≤ 32) :
    ∃ t, s0.runWord (s.storeAt pa bs false) = .next t ∧ Buffers s t pa bs false false ∧
      (t.thrOf s.me).chunk.wsig = (s.thrOf s.me).chunk.wsig ∧ (t.thrOf s.me).chunk.ended = (s.thrOf s.me).chunk.ended := by
  rw [storeAt_elsewhere hbase hdev hhome, buffer_of hroom]
  exact ⟨_, rfl, buffers_onlyRecord (onlyRecord_buffered s _)⟩

end

/-! ### Scalar stores -/

theorem Stores.of_modCur {s t : State} {f : Cur → Cur} {rid at' n : Nat} {v : W} (k : KeepsPlace f s.cur) (h : Stores (s.modCur f) t rid at' n v) :
    Stores s t rid at' n v := ⟨h.completed, h.pc.of_modCur k, h.rest.of_modCur, h.ctl.of_modCur, h.thr, h.stored, h.mem⟩

theorem scalarStores : ScalarStores := by
  intro s s1 s2 i n ea v pa hto hacc hme bs buf
  have hlen : bs.length = n := bytesOf_length _ _
  rw [exec_storesTo hto, store_of hacc, ← hme, ← myCluster_eq hme]
  refine ⟨fun hbase => ?_, fun hbase => ⟨fun hrow hhome hdev hctl hseg => ?_, fun hwhere hhome hdev hroom => ?_, fun hhome hdev hroom => ?_,
    fun hhome hdev hfull => ?_, fun hhost halone hdrained => ?_, fun hdev hhost halone hdrained s3 hwrite => ?_⟩⟩
  · rw [storeAt_base hbase]
    exact ⟨_, rfl, stores_retire (putsBytes_clear s2 pa _ bs)⟩
  · rw [storeAt_own hbase hdev hhome hrow (fun ⟨r, w, o, h⟩ => hctl r w o h) (hlen.symm ▸ hseg)]
    have hputs := (putsBytes_clear s2 pa bs.length bs).trackWrite pa
    refine ⟨_, rfl, stores_retire hputs, fun x hx => hputs.uncorr x ?_⟩
    rwa [State.retire_uncorr] at hx
  · exact buffers_cluster hbase hdev hwhere hhome (hme ▸ hroom)
  · exact buffers_elsewhere hbase hdev hhome (hme ▸ hroom)
  · rw [storeAt_elsewhere hbase hdev hhome, buffer_full (hme ▸ hfull)]
    rfl
  · rw [storeAt_host hbase hhost halone hdrained]
    have hstores := stores_poke_retire (s2.modCur fun x => { x with ending := true }) pa n v
    rw [cellOf_host hhost] at hstores
    exact ⟨_, rfl, Stores.of_modCur (.ending _) hstores⟩
  · rw [storeAt_register hbase hdev halone hdrained hhost hwrite]
    rfl

/-! ### Segment accesses (R158) -/

/-- Loads without the segment `k` as their destination. -/
def withoutSeg (k : Nat) (l : List PLoad) : List PLoad := l.map fun x => { x with seg := if x.seg = some k then none else x.seg }

theorem map_dropSeg (k : Nat) (l : List PLoad) : (l.map fun x => if x.seg = some k then { x with seg := none } else x) = withoutSeg k l :=
  List.map_congr_left fun x _ => by split <;> simp_all

theorem writesSegment_setSeg_retire (s : State) (k v : Nat) : WritesSegment s (s.setSeg k v).retire s.me k v where
  completed := State.retire_ended _
  pc := moves_retire rfl rfl rfl rfl rfl
  rest := elsewhere_retire (by constructor <;> rfl)
  ctl := onlyPc_retire (fun _ => rfl) rfl
  thr r := by
    rw [State.retire_at_thrOf, State.setSeg, State.thrOf_modThr]
    split
    next h => rw [State.rowPut_at_thrOf, h]
    next => rw [State.rowPut_at_thrOf]
  value := (congrArg (fun m => mread m _ 64) (State.retire_mem _)).trans (State.rowGet_rowPut s s.me _ 64 v)
  mem a ha := by
    rw [State.retire_mem]
    exact mget_mwrite_outside _ _ _ (by rw [bytesOf_length]; omega)

theorem WritesSegment.of_modCur {s t : State} {f : Cur → Cur} {rid k v : Nat} (hf : KeepsPlace f s.cur) (h : WritesSegment (s.modCur f) t rid k v) :
    WritesSegment s t rid k v := ⟨h.completed, h.pc.of_modCur hf, h.rest.of_modCur, h.ctl.of_modCur, h.thr, h.value, h.mem⟩

/-- The segment load that joins the pending-load set. -/
def pendingSeg (s : State) (k pa : Nat) : PLoad :=
  { id := s.seq, pa := pa, size := 64, sext := false, reg := none, win := none, seg := some k, own := [], acq := false, atomic := false }

theorem ownBytes_of_empty {s : State} (h : (s.thrOf s.me).chunk.stores = []) (pa n : Nat) : ownBytes s pa n = [] := by
  simp [ownBytes, h, bufByte]

/-- A segment load that stays pending shows itself in the pending-load set. -/
theorem pends_segment {s0 s : State} (k pa : Nat) :
    ∃ t, s0.runWord (s.bindLater (.segment k) pa 64 [] false false >>= fun p => .ok p.2) = .next t ∧ t.cur.ended = .completed ∧ Moves s t s.me ∧ OnlyPc s t s.me ∧
      t.mem = s.mem ∧ t.seq = s.seq + 1 ∧ (∀ r, r ≠ s.me → t.thrOf r = s.thrOf r) ∧
      (t.thrOf s.me).loads = withoutSeg k (s.thrOf s.me).loads ++ [pendingSeg s k pa] := by
  refine ⟨_, rfl, State.retire_ended _, moves_retire rfl rfl rfl rfl rfl, onlyPc_retire (fun _ => rfl) rfl, ?_, ?_, fun r hr => ?_, ?_⟩
  · rw [State.retire_mem]; rfl
  · rw [State.retire_seq]; rfl
  · rw [State.retire_at_thrOf, State.thrOf_modThr, if_neg (Ne.symm hr), State.thrOf_modThr, if_neg (Ne.symm hr)]
    rfl
  · rw [State.retire_at_thrOf, State.thrOf_modThr, if_pos rfl, State.thrOf_modThr, if_pos rfl]
    exact congrArg (· ++ [pendingSeg s k pa]) (map_dropSeg k _)

/-- A word that wrote the 64 bytes of a segment at their home. -/
theorem segment_putsBytes {s u : State} {pa v : Nat} (h : PutsBytes s u (cellOf pa) (bytesOf 64 v)) :
    u.retire.cur.ended = .completed ∧ Moves s u.retire s.me ∧ OnlyPc s u.retire s.me ∧ u.retire.peek pa 64 = v % 2 ^ 512 ∧
      ∀ q, q < cellOf pa ∨ cellOf pa + 64 ≤ q → mget u.retire.mem q = mget s.mem q :=
  ⟨State.retire_ended _, h.moves, h.onlyPc, h.reads, fun _ hq => h.outside hq⟩

section
variable {s s1 s2 : State} {ea : W} {x : Res (W × State)} {d : BitVec 5} {k : AccKind} {pa v : Nat}
variable (hp : (s.ctlOf s.me).p = false) (hx : x = .ok (ea, s1))
include hp hx

theorem stSeg_stall (hbusy : (s1.seenLoads.any fun l => l.seg == some d.toNat) = true) : s.stSeg x d k = .next (s.applyStop (.stall false)) := by
  have hseg : s1.seg d.toNat = .error (.stall false) := if_pos hbusy
  simp only [State.stSeg, noPacket_of hp, hx, hseg, bind, Except.bind]
  rfl

theorem stSeg_of (hseg : s1.seg d.toNat = .ok v) (hacc : s1.access ea 64 k = .ok (pa, s2)) (hmatrix : ∀ c o, regionOf pa ≠ .coreMmio c o) :
    s.stSeg x d k = s.runWord (s2.storeAt pa (bytesOf 64 v) false) := by
  simp only [State.stSeg, noPacket_of hp, hx, hseg, hacc, bind, Except.bind]
  split
  next c h => exact absurd h (hmatrix c 0)
  next => rfl

end

theorem not_coreMmio_of_memory {pa : Nat} (h : deviceHome pa = false ∨ regionOf pa = .host) (c o : Nat) : regionOf pa ≠ .coreMmio c o := by
  intro hreg
  simp [deviceHome, hreg] at h

theorem segmentAccesses : SegmentAccesses := by
  intro s s1 s2 d a b im k ea pa v hp hbase hme _ form hform haddr ld st reads stores
  -- the two forms differ in their address and in the kinds of the access only
  have hwords : ∃ x : Res (W × State), x = .ok (ea, s1) ∧ exec ld s = s.ldOp x 64 (.segment d.toNat) reads ∧ exec st s = s.stSeg x d stores := by
    obtain rfl | rfl := hform
    · exact ⟨_, eaImm_of haddr, rfl, rfl⟩
    · exact ⟨_, eaIdx_of haddr, rfl, rfl⟩
  obtain ⟨x, hx, hld, hst⟩ := hwords
  have hstore (hseg : s1.seg d.toNat = .ok v) (hacc : s1.access ea 64 stores = .ok (pa, s2)) (h : deviceHome pa = false ∨ regionOf pa = .host) :=
    stSeg_of hp hx hseg hacc (not_coreMmio_of_memory h)
  rw [hld, hst, ldOp_of hp hx, ← myCluster_eq hme]
  refine ⟨fun hacc => ?_, stSeg_stall hp hx, fun hseg hacc => ?_⟩
  all_goals rw [← hme] at hbase ⊢
  · refine ⟨fun hdev hrow hhome hseg => ?_, fun s3 hdev hrow hhome hreach hme3 => ?_, fun hdev hhome hbuf => ?_, fun hhost halone hdrained => ?_⟩
    · rw [load_ownRow hacc hbase hdev hhome hrow hseg]
      exact ⟨_, rfl, writesSegment_setSeg_retire (s2.trackRead pa) _ _⟩
    · rw [load_ownCluster hacc hbase hdev hhome hrow, hreach, ← hme3]
      exact ⟨_, rfl, writesSegment_setSeg_retire (s3.trackRead pa) _ _⟩
    · have hown := ownBytes_of_empty hbuf pa 64
      rw [load_pending hacc hbase hdev hhome (by rw [hown]; decide), hown]
      exact pends_segment d.toNat pa
    · rw [load_host hacc hbase (deviceHome_host hhost) halone hdrained hhost]
      exact ⟨_, rfl, (writesSegment_setSeg_retire _ _ _).of_modCur (.ending _)⟩
  · refine ⟨fun hdev hrow hhome hctl hpending => ?_, fun hdev hrow hhome hctl hroom => ?_, fun hdev hhome hroom => ?_, fun hhost halone hdrained => ?_⟩
    · rw [hstore hseg hacc (.inl hdev), storeAt_own hbase hdev hhome hrow (fun ⟨r, w, o, h⟩ => hctl r w o h) (by rwa [bytesOf_length])]
      obtain ⟨hended, hmoves, hpc, hreads, houtside⟩ := segment_putsBytes ((putsBytes_clear s2 pa (bytesOf 64 v).length (bytesOf 64 v)).trackWrite pa)
      have hword := sameWord_trackWrite (SameWord.refl s2) pa
      exact ⟨_, rfl, hended, hword.moves hmoves, hword.onlyPc hpc, hreads, houtside⟩
    · rw [hstore hseg hacc (.inl hdev)]
      obtain ⟨t, ht, hbuf, -⟩ := buffers_cluster (s0 := s) hbase hdev (.inl hrow) hhome hroom
      exact ⟨t, ht, hbuf⟩
    · rw [hstore hseg hacc (.inl hdev)]
      obtain ⟨t, ht, hbuf, -⟩ := buffers_elsewhere (s0 := s) hbase hdev hhome hroom
      exact ⟨t, ht, hbuf⟩
    · rw [hstore hseg hacc (.inr hhost), storeAt_host hbase hhost halone hdrained]
      obtain ⟨hended, hmoves, hpc, hreads, houtside⟩ := segment_putsBytes (putsBytes_poke (s2.modCur fun x => { x with ending := true }) pa (bytesOf 64 v))
      rw [cellOf_host hhost] at houtside
      exact ⟨_, rfl, hended, hmoves.of_modCur (.ending _), hpc.of_modCur, hreads, houtside⟩

/-- Settles O29: the branches of `State.storeAt` by the home of the address, each at once (`PutsBytes`) or in the buffer (`buffers_onlyRecord`), and the segment
accesses on the same equations as the scalar ones. -/
theorem storesAndSegments : Obligations.StoresAndSegments := by
  unfold Obligations.StoresAndSegments
  exact ⟨scalarStores, segmentAccesses⟩

end Sys2Proof.Says
end

section
namespace Sys2Proof.Says
open Sys2Proof.Machine
set_option exponentiation.threshold 4096

/-! ## SEND (09_memory_sync.md R171 to R175) -/

/-- Where the program counter stands after a word that leaves that of its row to the retirement. -/
theorem moves_retire_pc {s t : State} {rid : Nat} (hpc : (t.ctlOf rid).pc = (s.ctlOf rid).pc) (hme : t.me = rid) (hcur : t.cur.slot = s.cur.slot ∧
    t.cur.pc = s.cur.pc ∧ t.cur.jump = s.cur.jump) : Moves s t.retire rid := by
  obtain ⟨hslot, hword, hjump⟩ := hcur
  unfold Moves
  rw [State.retire_ctlOf, ← hslot, ← hword, ← hjump, ← hpc]
  cases h : t.cur.slot <;> simp [hme, Cur.next, h]

/-- A control entry of the row that a word wrote, under the program counter of the retirement. -/
theorem ctlOf_retire_own {t : State} {rid : Nat} {c : Ctl} (hme : t.me = rid) (hown : t.ctlOf rid = c) :
    t.retire.ctlOf rid = { c with pc := (t.retire.ctlOf rid).pc } := by
  rw [State.retire_ctlOf]
  split
  · rw [hme, hown]
  · rw [hown]

theorem ctlOf_retire_other {t : State} {r : Nat} (h : r ≠ t.me) : t.retire.ctlOf r = t.ctlOf r := by
  rw [State.retire_ctlOf, if_neg fun h' => h h'.1.symm]

theorem find?_range_free {hub : Tab (Option SendBuf)} {n i : Nat} (hi : i < n) (hfree : ∀ e ∈ hub, e.1 ≠ i) (htaken : ∀ j, j < i → ∃ e ∈ hub, e.1 = j) :
    ((List.range n).find? fun i => !(hub.any fun e => e.1 == i)) = some i := by
  refine List.find?_range_eq_some.2 ⟨by simpa using hfree, List.mem_range.2 hi, fun j hj => ?_⟩
  obtain ⟨e, he, rfl⟩ := htaken j hj
  simpa using ⟨e.2, he⟩

theorem find?_range_taken {hub : Tab (Option SendBuf)} {n : Nat} (htaken : ∀ i, i < n → ∃ e ∈ hub, e.1 = i) :
    ((List.range n).find? fun i => !(hub.any fun e => e.1 == i)) = none := by
  refine List.find?_range_eq_none.2 fun i hi => ?_
  obtain ⟨e, he, rfl⟩ := htaken i hi
  simpa using ⟨e.2, he⟩

/-- The state with a header in send buffer `i` of the row's hub, its claim given up. -/
def headed (s : State) (i : Nat) (dest hdr : W) : State :=
  ((s.modCur fun x => { x with ending := true }).modThr s.me fun t => { t with claim := 0 }).modOct (hubOf s.me) fun o =>
    { o with hub := tset o.hub i (some { rid := s.me, dest := dest, hdr := hdr.setWidth 32 }) }
/-- What opens the packet: the record names its buffer, and `P` is set. -/
def openedPacket (s : State) (i : Nat) : State :=
  (s.modThr s.me fun t => { t with packet := some { buf := i, bundles := 0 } }).modCtl s.me fun c => { c with p := true }
/-- What leaves the release of a packet to the commit. -/
def releasing (s : State) : State := s.modChunk s.me fun c => { c with deferred := c.deferred ++ [.release] }

section
variable {s s1 s2 : State} {a b : BitVec 5} {dest hdr : W} (hbase : isBase s.me = false)
include hbase

theorem sendHead_inPacket (hp : (s.ctlOf s.me).p = true) (close : Bool) : s.sendHead a b close = .next (s.applyStop (.trap .packet 0 none)) := by
  simp only [State.sendHead, hbase, hp, if_true]
  rfl

variable (hp : (s.ctlOf s.me).p = false) (ha : s.src a.toNat = .ok (dest, s1)) (hb : s1.src b.toNat = .ok (hdr, s2))
include hp ha hb

theorem sendHead_refused (hdest : s2.destOk dest.toNat = false) (close : Bool) :
    s.sendHead a b close = .next (s.applyStop (.trap .access dest none)) := by
  simp only [State.sendHead, hbase, hp, ha, hb, hdest, bind, Except.bind]
  rfl

variable (hdest : s2.destOk dest.toNat = true) (halone : MayBeAlone s2)
include hdest halone

/-- With the sources read and the destination granted, the word looks for a send buffer of its hub. -/
theorem sendHead_granted (close : Bool) : s.sendHead a b close = s.runWord (
    if !s2.mayTake s2.me (fun r => !isBase r && hubOf r == hubOf s2.me) 0x1A (16 - (s2.octOf (hubOf s2.me)).hub.length) then wait 1 0x1A 0 else
    match (List.range 16).find? fun i => !((s2.octOf (hubOf s2.me)).hub.any fun e => e.1 == i) with
    | none => wait 1 0x1A 0
    | some i => .ok (if close then releasing (headed s2 i dest hdr) else openedPacket (headed s2 i dest hdr) i)) := by
  have hme : s2.me = s.me := (State.src_me _ _ _ _ hb).trans (State.src_me _ _ _ _ ha)
  simp only [State.sendHead, hbase, hp, ha, hb, hdest, bind, Except.bind, alone_of (hme ▸ hbase) halone]
  cases close <;> rfl

theorem sendHead_full (hfull : s2.mayTake s2.me (fun r => !isBase r && hubOf r == hubOf s2.me) 0x1A (16 - (s2.octOf (hubOf s2.me)).hub.length) = false ∨
    ∀ i, i < 16 → ∃ e ∈ (s2.octOf (hubOf s2.me)).hub, e.1 = i) (close : Bool) : s.sendHead a b close = .next (s.applyStop (.block 1 0x1A 0 none)) := by
  rw [sendHead_granted hbase hp ha hb hdest halone]
  obtain hclaim | htaken := hfull
  · rw [hclaim]
    rfl
  · rw [find?_range_taken htaken]
    split <;> rfl

theorem sendHead_taken (hmay : s2.mayTake s2.me (fun r => !isBase r && hubOf r == hubOf s2.me) 0x1A (16 - (s2.octOf (hubOf s2.me)).hub.length) = true) {i : Nat}
    (hi : i < 16) (hfree : ∀ e ∈ (s2.octOf (hubOf s2.me)).hub, e.1 ≠ i) (htaken : ∀ j, j < i → ∃ e ∈ (s2.octOf (hubOf s2.me)).hub, e.1 = j) (close : Bool) :
    s.sendHead a b close = .next (State.retire (if close then releasing (headed s2 i dest hdr) else openedPacket (headed s2 i dest hdr) i)) := by
  rw [sendHead_granted hbase hp ha hb hdest halone, hmay, find?_range_free hi hfree htaken]
  rfl

end

theorem hub_headed (s : State) (i j : Nat) (dest hdr : W) : (tget none ((headed s i dest hdr).octOf (hubOf s.me)).hub j : Option SendBuf) =
    if i = j then some { rid := s.me, dest := dest, hdr := hdr.setWidth 32 } else tget none (s.octOf (hubOf s.me)).hub j := by
  rw [headed, State.octOf_modOct, if_pos rfl, tget_tset]
  rfl

theorem thrOf_headed (s : State) (i r : Nat) (dest hdr : W) :
    (headed s i dest hdr).thrOf r = if s.me = r then { s.thrOf s.me with claim := 0 } else s.thrOf r := by
  rw [headed, State.modOct_at_thrOf, State.thrOf_modThr]
  rfl

/-- `h`: the packet is open. -/
theorem sent_open (s : State) (i : Nat) (dest hdr : W) :
    let t := (openedPacket (headed s i dest hdr) i).retire
    t.cur.ended = .completed ∧ t.cur.ending = true ∧ Moves s t s.me ∧ t.mem = s.mem ∧
      tget none (t.octOf (hubOf s.me)).hub i = some { rid := s.me, dest := dest, hdr := hdr.setWidth 32 } ∧
      (∀ j, j ≠ i → (tget none (t.octOf (hubOf s.me)).hub j : Option SendBuf) = tget none (s.octOf (hubOf s.me)).hub j) ∧
      t.ctlOf s.me = { s.ctlOf s.me with p := true, pc := (t.ctlOf s.me).pc } ∧ (∀ r, r ≠ s.me → t.ctlOf r = s.ctlOf r ∧ t.thrOf r = s.thrOf r) ∧
      t.thrOf s.me = { s.thrOf s.me with claim := 0, packet := some { buf := i, bundles := 0 } } := by
  intro t
  have hown : (openedPacket (headed s i dest hdr) i).ctlOf s.me = { s.ctlOf s.me with p := true } := by
    rw [openedPacket, State.ctlOf_modCtl]
    exact if_pos rfl
  have hhub (j : Nat) : (tget none (t.octOf (hubOf s.me)).hub j : Option SendBuf) = tget none ((headed s i dest hdr).octOf (hubOf s.me)).hub j := by
    simp only [t, State.retire_at_octOf]
    rfl
  have hthr (r : Nat) : t.thrOf r = if s.me = r then { s.thrOf s.me with claim := 0, packet := some { buf := i, bundles := 0 } } else s.thrOf r := by
    simp only [t, State.retire_at_thrOf, openedPacket, State.modCtl_at_thrOf, State.thrOf_modThr, thrOf_headed]
    rw [show (headed s i dest hdr).me = s.me from rfl, if_pos rfl]
    split <;> rfl
  refine ⟨State.retire_ended _, retire_ending _, moves_retire_pc (by rw [hown]) rfl ⟨rfl, rfl, rfl⟩, State.retire_mem _, ?_, fun j hj => ?_,
    ctlOf_retire_own rfl hown, fun r hr => ⟨?_, ?_⟩, ?_⟩
  · rw [hhub, hub_headed, if_pos rfl]
  · rw [hhub, hub_headed, if_neg (Ne.symm hj)]
  · refine (ctlOf_retire_other (t := openedPacket (headed s i dest hdr) i) hr).trans ?_
    rw [openedPacket, State.ctlOf_modCtl]
    exact if_neg (Ne.symm hr)
  · rw [hthr, if_neg (Ne.symm hr)]
  · rw [hthr, if_pos rfl]

/-- `he`: the packet is closed, and the commit releases it. -/
theorem sent_closed (s : State) (i : Nat) (dest hdr : W) :
    let t := (releasing (headed s i dest hdr)).retire
    t.cur.ended = .completed ∧ t.cur.ending = true ∧ Moves s t s.me ∧ t.mem = s.mem ∧
      tget none (t.octOf (hubOf s.me)).hub i = some { rid := s.me, dest := dest, hdr := hdr.setWidth 32 } ∧ OnlyPc s t s.me ∧
      t.thrOf s.me = { s.thrOf s.me with claim := 0, chunk := { (s.thrOf s.me).chunk with deferred := (s.thrOf s.me).chunk.deferred ++ [.release] } } := by
  intro t
  refine ⟨State.retire_ended _, retire_ending _, moves_retire rfl rfl rfl rfl rfl, State.retire_mem _, ?_, onlyPc_retire (fun _ => rfl) rfl, ?_⟩
  · simp only [t, State.retire_at_octOf]
    exact (hub_headed s i i dest hdr).trans (if_pos rfl)
  · simp only [t, State.retire_at_thrOf, releasing, thrOf_modChunk, thrOf_headed]
    rw [show (headed s i dest hdr).me = s.me from rfl, if_pos rfl, if_pos rfl]

theorem sendHeader : SendHeader := by
  intro s s1 s2 a b dest hdr hbase ha hb oct
  have hh : exec (.sendH a b) s = s.sendHead a b false := rfl
  have hhe : exec (.sendHe a b) s = s.sendHead a b true := rfl
  have hme : s2.me = s.me := (State.src_me _ _ _ _ hb).trans (State.src_me _ _ _ _ ha)
  refine ⟨fun hp => ⟨hh.trans (sendHead_inPacket hbase hp _), hhe.trans (sendHead_inPacket hbase hp _)⟩, fun hp hdest =>
    ⟨hh.trans (sendHead_refused hbase hp ha hb hdest _), hhe.trans (sendHead_refused hbase hp ha hb hdest _)⟩, fun hp hdest halone hfull i hi => ?_,
    fun hp hdest halone hmay i hi hfree htaken => ?_⟩
  · have hwaits := sendHead_full hbase hp ha hb hdest halone (hme.symm ▸ hfull)
    obtain rfl | rfl : i = .sendH a b ∨ i = .sendHe a b := by simpa using hi
    · exact hh.trans (hwaits false)
    · exact hhe.trans (hwaits true)
  · have htakes := sendHead_taken hbase hp ha hb hdest halone (hme.symm ▸ hmay) hi (hme.symm ▸ hfree) (hme.symm ▸ htaken)
    simp only [oct]
    rw [hh, hhe, htakes, htakes, ← hme]
    obtain ⟨hended, hending, hmoves, hmem, hslot, hrest⟩ := sent_closed s2 i dest hdr
    exact ⟨⟨_, rfl, sent_open s2 i dest hdr⟩, ⟨_, rfl, hended, hending, hmoves, hmem, hslot, hrest⟩⟩

/-! ### Flits (R172, R174) -/

/-- The state with one more flit in the row's open packet. -/
def flitted (s : State) (p : OpenPacket) (v : BitVec 512) : State :=
  s.modOct (hubOf s.me) fun o => { o with hub := tset o.hub p.buf ((tget none o.hub p.buf).map fun (b : SendBuf) => { b with flits := b.flits ++ [v] }) }
/-- The open packet gone from the row's record, and `P` cleared. -/
def outsidePacket (s : State) : State := (s.modThr s.me fun t => { t with packet := none }).modCtl s.me fun c => { c with p := false }

section
variable {s : State} {d : BitVec 5} {p : OpenPacket} {x : SendBuf} {v : Nat} (hbase : isBase s.me = false)
include hbase

theorem sendFlit_outside (hp : (s.ctlOf s.me).p = false) (close : Bool) : s.sendFlit d close = .next (s.applyStop (.trap .packet 0 none)) := by
  simp only [State.sendFlit, hbase, hp]
  rfl

variable (hp : (s.ctlOf s.me).p = true) (hpkt : (s.thrOf s.me).packet = some p) (hx : tget none (s.octOf (hubOf s.me)).hub p.buf = some x)
include hp hpkt hx

theorem sendFlit_eighth (hfull : x.flits.length = 8) (close : Bool) : s.sendFlit d close = .next (s.applyStop (.trap .packet 0 none)) := by
  simp only [State.sendFlit, hbase, hp, hpkt, hx, Option.map_some, Option.getD_some, hfull, if_true]
  rfl

theorem sendFlit_room (hroom : x.flits.length ≠ 8) (hseg : s.seg d.toNat = .ok v) (close : Bool) :
    s.sendFlit d close = .next (State.retire (if close then releasing (outsidePacket (flitted s p (BitVec.ofNat 512 v))) else flitted s p (BitVec.ofNat 512 v))) := by
  simp only [State.sendFlit, hbase, hp, hpkt, hx, Option.map_some, Option.getD_some, if_neg hroom, hseg, bind, Except.bind]
  cases close <;> rfl

end

theorem hub_flitted {s : State} {p : OpenPacket} {x : SendBuf} (hx : tget none (s.octOf (hubOf s.me)).hub p.buf = some x) (v : BitVec 512) :
    (tget none ((flitted s p v).octOf (hubOf s.me)).hub p.buf : Option SendBuf) = some { x with flits := x.flits ++ [v] } := by
  rw [flitted, State.octOf_modOct, if_pos rfl, tget_tset, if_pos rfl, hx]
  rfl

theorem ctlOf_outsidePacket (s : State) : (outsidePacket s).ctlOf s.me = { s.ctlOf s.me with p := false } := by
  rw [outsidePacket, State.ctlOf_modCtl]
  exact if_pos rfl

theorem thrOf_outsidePacket (s : State) : (outsidePacket s).thrOf s.me = { s.thrOf s.me with packet := none } := by
  rw [outsidePacket, State.modCtl_at_thrOf, State.thrOf_modThr]
  exact if_pos rfl

section
variable {s : State} {p : OpenPacket} {x : SendBuf} (hx : tget none (s.octOf (hubOf s.me)).hub p.buf = some x) (v : BitVec 512)
include hx

/-- `p`: the packet stays open. -/
theorem sent_flit : let t := (flitted s p v).retire
    t.cur.ended = .completed ∧ Moves s t s.me ∧ OnlyPc s t s.me ∧ t.mem = s.mem ∧ t.thr = s.thr ∧
      tget none (t.octOf (hubOf s.me)).hub p.buf = some { x with flits := x.flits ++ [v] } := by
  refine ⟨State.retire_ended _, moves_retire rfl rfl rfl rfl rfl, onlyPc_retire (fun _ => rfl) rfl, State.retire_mem _, State.retire_thr _, ?_⟩
  rw [State.retire_at_octOf]
  exact hub_flitted hx v

/-- `pe`: the packet is closed, and the commit releases it. -/
theorem sent_last : let t := (releasing (outsidePacket (flitted s p v))).retire
    t.cur.ended = .completed ∧ Moves s t s.me ∧ t.mem = s.mem ∧ tget none (t.octOf (hubOf s.me)).hub p.buf = some { x with flits := x.flits ++ [v] } ∧
      t.ctlOf s.me = { s.ctlOf s.me with p := false, pc := (t.ctlOf s.me).pc } ∧
      t.thrOf s.me = { s.thrOf s.me with packet := none, chunk := { (s.thrOf s.me).chunk with deferred := (s.thrOf s.me).chunk.deferred ++ [.release] } } := by
  have hctl : (releasing (outsidePacket (flitted s p v))).ctlOf s.me = { s.ctlOf s.me with p := false } := ctlOf_outsidePacket (flitted s p v)
  have hthr : (outsidePacket (flitted s p v)).thrOf s.me = { s.thrOf s.me with packet := none } := thrOf_outsidePacket (flitted s p v)
  refine ⟨State.retire_ended _, moves_retire_pc (by rw [hctl]) rfl ⟨rfl, rfl, rfl⟩, State.retire_mem _, ?_, ctlOf_retire_own rfl hctl, ?_⟩
  · rw [State.retire_at_octOf]
    exact hub_flitted hx v
  · rw [State.retire_at_thrOf, releasing, thrOf_modChunk]
    refine (if_pos rfl).trans ?_
    rw [show (outsidePacket (flitted s p v)).me = s.me from rfl, hthr]

end

theorem sendFlits : SendFlits := by
  intro s d p x v hbase oct
  have hpay : exec (.sendP d) s = s.sendFlit d false := rfl
  have hlast : exec (.sendPe d) s = s.sendFlit d true := rfl
  refine ⟨fun hp => ⟨hpay.trans (sendFlit_outside hbase hp _), hlast.trans (sendFlit_outside hbase hp _)⟩, fun hp hpkt hx hfull =>
    ⟨hpay.trans (sendFlit_eighth hbase hp hpkt hx hfull _), hlast.trans (sendFlit_eighth hbase hp hpkt hx hfull _)⟩, fun hp hpkt hx hroom hseg => ?_⟩
  have htakes := sendFlit_room hbase hp hpkt hx hroom hseg
  rw [hpay, hlast, htakes, htakes]
  exact ⟨⟨_, rfl, sent_flit hx _⟩, ⟨_, rfl, sent_last hx _⟩⟩

/-! ### RECV (R177) -/

/-- `t` is `s` but for bytes `[lo, hi)` of its row and what the records hold. -/
structure OnlySegs (s t : State) (lo hi : Nat) : Prop where
  ctl : t.ctl = s.ctl
  core : t.core = s.core
  oct : t.oct = s.oct
  bdc : t.bdc = s.bdc
  cur : t.cur = s.cur
  mem : ∀ q, q < rowAddr s.me + lo ∨ rowAddr s.me + hi ≤ q → mget t.mem q = mget s.mem q

theorem OnlySegs.trans {s t u : State} {lo mid hi : Nat} (h : OnlySegs s t lo mid) (h' : OnlySegs t u mid hi) (hlo : lo ≤ mid) (hhi : mid ≤ hi) :
    OnlySegs s u lo hi := by
  have hme : t.me = s.me := congrArg Cur.rid h.cur
  refine ⟨h'.ctl.trans h.ctl, h'.core.trans h.core, h'.oct.trans h.oct, h'.bdc.trans h.bdc, h'.cur.trans h.cur, fun q hq => ?_⟩
  rw [h'.mem q (by rw [hme]; omega), h.mem q (by omega)]

theorem OnlySegs.rowGet {s t : State} {lo hi : Nat} (h : OnlySegs s t lo hi) {o n : Nat} (ho : o + n ≤ lo ∨ hi ≤ o) : t.rowGet s.me o n = s.rowGet s.me o n :=
  mread_congr _ _ _ _ fun q h1 h2 => h.mem q (by omega)

theorem onlySegs_setSeg (s : State) (k v : Nat) : OnlySegs s (s.setSeg k v) (320 + 64 * k) (320 + 64 * (k + 1)) := by
  refine ⟨rfl, rfl, rfl, rfl, rfl, fun q hq => ?_⟩
  exact mget_mwrite_outside _ _ _ (by rw [bytesOf_length]; omega)

/-- Segments from `g + k` on written one after the other. -/
def setSegs (s : State) (g k : Nat) (l : List (BitVec 512)) : State := (l.zipIdx k).foldl (fun s e => s.setSeg (g + e.2) e.1.toNat) s

theorem setSegs_cons (s : State) (g k : Nat) (x : BitVec 512) (l : List (BitVec 512)) :
    setSegs s g k (x :: l) = setSegs (s.setSeg (g + k) x.toNat) g (k + 1) l := rfl

theorem onlySegs_setSegs (g : Nat) : ∀ (l : List (BitVec 512)) (s : State) (k : Nat),
    OnlySegs s (setSegs s g k l) (320 + 64 * (g + k)) (320 + 64 * (g + k + l.length))
  | [], s, k => ⟨rfl, rfl, rfl, rfl, rfl, fun _ _ => rfl⟩
  | x :: l, s, k => by
    rw [setSegs_cons, List.length_cons, show g + k + (l.length + 1) = g + (k + 1) + l.length by omega]
    exact (onlySegs_setSeg s (g + k) x.toNat).trans (onlySegs_setSegs g l _ (k + 1)) (by omega) (by omega)

theorem rowGet_setSegs (g : Nat) : ∀ (l : List (BitVec 512)) (s : State) (k j : Nat) (v : BitVec 512), l[j]? = some v →
    (setSegs s g k l).rowGet s.me (320 + 64 * (g + k + j)) 64 = v.toNat
  | [], _, _, _, _, h => by simp at h
  | x :: l, s, k, 0, v, h => by
    obtain rfl : x = v := by simpa using h
    have hkept := (onlySegs_setSegs g l (s.setSeg (g + k) x.toNat) (k + 1)).rowGet (o := 320 + 64 * (g + k)) (n := 64) (by omega)
    rw [setSegs_cons]
    exact hkept.trans ((State.rowGet_rowPut s s.me _ 64 x.toNat).trans (Nat.mod_eq_of_lt x.isLt))
  | x :: l, s, k, j + 1, v, h => by
    rw [setSegs_cons, show g + k + (j + 1) = g + (k + 1) + j by omega]
    exact rowGet_setSegs g l (s.setSeg (g + k) x.toNat) (k + 1) j v (by simpa using h)

theorem dstOpen_onlySegs {s t : State} {lo hi : Nat} (h : OnlySegs s t lo hi) (hlo : 320 ≤ lo) (d : Nat) : t.dstOpen d = s.dstOpen d := by
  have hseen (hd : d ≤ 27) : t.seen (256 + 16 * (d - 24)) 8 = s.seen (256 + 16 * (d - 24)) 8 := by
    unfold State.seen
    rw [h.cur]
    split
    · rfl
    · exact h.rowGet (.inl (by omega))
  unfold State.dstOpen State.seenBound
  by_cases hd : d ≤ 27
  · rw [hseen hd]
  · simp [hd]

/-! What the queue shows -/

theorem csRow_congr {s t : State} (hcore : t.core = s.core) (hoct : t.oct = s.oct) (hbdc : t.bdc = s.bdc) (r : Nat) : t.csRow r = s.csRow r := by
  simp only [State.csRow, State.csOf, State.coreOf, State.rowTenant, State.tenantOf, State.octOf, State.bdcOf, hcore, hoct, hbdc]
  rfl

theorem csRow_modCsRow (s : State) (r : Nat) (f : CState → CState) : (s.modCsRow r f).csRow r = f (s.csRow r) := by
  simp only [State.csRow, State.modCsRow, State.csOf, State.modCs, State.coreOf_modCore, State.modCore_at_rowTenant, if_true]
  split <;> simp_all

/-- Whether a filter takes a packet for a row (R177). -/
def Fits (rid : Nat) (f : W) (k : Packet) : Prop :=
  k.row = rowOfRid rid ∧ (f.getLsbD 63 = true ∨ f.toNat % 2 ^ 49 = bit k.remote * 2 ^ 48 + k.pkg * 2 ^ 39 + k.core * 2 ^ 11 + k.srow)

theorem fits_iff (rid : Nat) (f : W) (k : Packet) : (k.row == rowOfRid rid && k.matches f.toNat) = true ↔ Fits rid f k := by
  have hbit : bits f.toNat 63 63 = 1 ↔ f.getLsbD 63 = true := by
    simp [bits, BitVec.getLsbD, Nat.testBit_eq_decide_div_mod_eq]
  have hname : bits f.toNat 48 0 = f.toNat % 2 ^ 49 := by simp [bits]
  simp only [Fits, Packet.matches, Packet.sender, Bool.and_eq_true, Bool.or_eq_true, beq_iff_eq, hbit, hname]

theorem findPacket_none {s : State} {rid : Nat} {f : W} (h : ∀ k ∈ (s.csRow rid).rxq, ¬ Fits rid f k) : s.findPacket rid f.toNat = none := by
  refine List.findIdx?_eq_none_iff.2 fun k hk => ?_
  rw [Bool.eq_false_iff]
  exact fun hfit => h k hk ((fits_iff rid f k).1 hfit)

theorem findPacket_some {s : State} {rid : Nat} {f : W} {l l' : List Packet} {k : Packet} (hq : (s.csRow rid).rxq = l ++ k :: l')
    (hbefore : ∀ p ∈ l, ¬ Fits rid f p) (hk : Fits rid f k) : s.findPacket rid f.toNat = some l.length := by
  have hnone : l.findIdx? (fun p => p.row == rowOfRid rid && p.matches f.toNat) = none := by
    refine List.findIdx?_eq_none_iff.2 fun p hp => ?_
    rw [Bool.eq_false_iff]
    exact fun hfit => hbefore p hp ((fits_iff rid f p).1 hfit)
  rw [State.findPacket, hq, List.findIdx?_append, hnone, List.findIdx?_cons, if_pos ((fits_iff rid f k).2 hk)]
  simp

/-! What the word does, its sources read -/

/-- `RECV` from its filter and deadline on. -/
def takePacket (s : State) (d : BitVec 5) (dl : Option Nat) (seg : Nat) (f : W) : Res State := do
  if nameReserved f.toNat then trap .access f
  let s ← s.alone
  match s.findPacket s.me f.toNat with
  | some i =>
    match (s.csRow s.me).rxq[i]? with
    | none => stall
    | some k =>
      if 11 < seg + k.flits.length then trap .queue (BitVec.ofNat 64 k.flits.length)
      let u := setSegs s seg 0 k.flits
      (u.modCsRow u.me fun c => { c with rxq := c.rxq.eraseIdx i }).dst d.toNat
        (BitVec.ofNat 64 (k.flits.length * 2 ^ 59 + bit k.remote * 2 ^ 58 + k.core * 2 ^ 45 + k.srow * 2 ^ 34 + k.hdr.toNat))
  | none =>
    match dl with
    | some t => if reached s.cycle t then s.dst d.toNat (BitVec.ofNat 64 (2 ^ 63)) else .error (.block 2 (2 ^ 35 + t % 2 ^ 35) f.toNat (some t))
    | none => wait 2 0 f.toNat

theorem me_setSegs (s : State) (g k : Nat) (l : List (BitVec 512)) : (setSegs s g k l).me = s.me := congrArg Cur.rid (onlySegs_setSegs g l s k).cur

theorem exec_recv {s s1 : State} {d a : BitVec 5} {g : BitVec 4} {f : W} (hin : InThread s) (ha : s.src a.toNat = .ok (f, s1)) :
    exec (.recv d a g) s = s.runWord (takePacket s1 d none g.toNat f) := by
  have hexec : exec (.recv d a g) s = s.receive d a none g.toNat := rfl
  rw [hexec]
  simp only [State.receive, threadOnly_of hin, ha, bind, Except.bind]
  rfl

theorem exec_recvDl {s s1 s2 : State} {d a b : BitVec 5} {g : BitVec 4} {f y : W} (hin : InThread s) (ha : s.src a.toNat = .ok (f, s1))
    (hb : s1.src b.toNat = .ok (y, s2)) : exec (.recvDl d a b g) s = s.runWord (takePacket s2 d (some (y.toNat % 2 ^ 56)) g.toNat f) := by
  have hexec : exec (.recvDl d a b g) s = s.receive d a (some b) g.toNat := rfl
  rw [hexec]
  simp only [State.receive, threadOnly_of hin, ha, hb, bind, Except.bind, Except.map]
  rfl

theorem takePacket_reserved {s : State} {d : BitVec 5} {dl : Option Nat} {seg : Nat} {f : W} (h : nameReserved f.toNat = true) :
    takePacket s d dl seg f = .error (.trap .access f none) := by
  simp only [takePacket, h, if_true]
  rfl

section
variable {s : State} {d : BitVec 5} {dl : Option Nat} {seg : Nat} {f : W} (hbase : isBase s.me = false) (hname : nameReserved f.toNat = false) (halone : MayBeAlone s)
include hbase hname halone

section
variable {l l' : List Packet} {k : Packet} (hq : (s.csRow s.me).rxq = l ++ k :: l') (hbefore : ∀ p ∈ l, ¬ Fits s.me f p) (hk : Fits s.me f k)
include hq hbefore hk

/-- The word finds the first packet that fits. -/
theorem takePacket_found : takePacket s d dl seg f =
    if 11 < seg + k.flits.length then trap .queue (BitVec.ofNat 64 k.flits.length) else
    let u := setSegs (s.modCur fun x => { x with ending := true }) seg 0 k.flits
    (u.modCsRow u.me fun c => { c with rxq := c.rxq.eraseIdx l.length }).dst d.toNat
      (BitVec.ofNat 64 (k.flits.length * 2 ^ 59 + bit k.remote * 2 ^ 58 + k.core * 2 ^ 45 + k.srow * 2 ^ 34 + k.hdr.toNat)) := by
  have hfound : (s.modCur fun x => { x with ending := true }).findPacket (s.modCur fun x => { x with ending := true }).me f.toNat = some l.length :=
    findPacket_some hq hbefore hk
  have hat : ((s.modCur fun x => { x with ending := true }).csRow (s.modCur fun x => { x with ending := true }).me).rxq[l.length]? = some k := by
    have hsame : ((s.modCur fun x => { x with ending := true }).csRow (s.modCur fun x => { x with ending := true }).me).rxq = (s.csRow s.me).rxq := rfl
    rw [hsame, hq]
    simp
  simp only [takePacket, hname, Bool.false_eq_true, if_false, alone_of hbase halone, bind, Except.bind, hfound, hat]
  rfl

end

/-- The word finds none. -/
theorem takePacket_none (hnone : ∀ k ∈ (s.csRow s.me).rxq, ¬ Fits s.me f k) : takePacket s d dl seg f =
    match dl with
    | some t => if reached s.cycle t then (s.modCur fun x => { x with ending := true }).dst d.toNat (BitVec.ofNat 64 (2 ^ 63))
        else .error (.block 2 (2 ^ 35 + t % 2 ^ 35) f.toNat (some t))
    | none => wait 2 0 f.toNat := by
  have hfound : (s.modCur fun x => { x with ending := true }).findPacket (s.modCur fun x => { x with ending := true }).me f.toNat = none := findPacket_none hnone
  simp only [takePacket, hname, Bool.false_eq_true, if_false, alone_of hbase halone, bind, Except.bind, hfound]
  rfl

end

/-! What the word shows that took a packet -/

/-- The state with a packet's flits in the segments from `g` on, and the packet out of its queue. -/
def tookPacket (s : State) (g i : Nat) (flits : List (BitVec 512)) : State :=
  (setSegs s g 0 flits).modCsRow (setSegs s g 0 flits).me fun c => { c with rxq := c.rxq.eraseIdx i }

section
variable (s : State) (g i : Nat) (flits : List (BitVec 512))

theorem me_tookPacket : (tookPacket s g i flits).me = s.me := me_setSegs s g 0 flits
theorem cur_tookPacket : (tookPacket s g i flits).cur = s.cur := (onlySegs_setSegs g flits s 0).cur
theorem ctlOf_tookPacket (r : Nat) : (tookPacket s g i flits).ctlOf r = s.ctlOf r := 
  congrArg (fun c => (tget {} c r : Ctl)) (onlySegs_setSegs g flits s 0).ctl

theorem rxq_tookPacket : ((tookPacket s g i flits).csRow s.me).rxq = (s.csRow s.me).rxq.eraseIdx i := by
  have hsegs := onlySegs_setSegs g flits s 0
  rw [tookPacket, me_setSegs, csRow_modCsRow, csRow_congr hsegs.core hsegs.oct hsegs.bdc]

theorem mget_tookPacket {q : Nat} (hq : q < rowAddr s.me + 320 + 64 * g ∨ rowAddr s.me + 320 + 64 * (g + flits.length) ≤ q) :
    mget (tookPacket s g i flits).mem q = mget s.mem q := (onlySegs_setSegs g flits s 0).mem q (by omega)

theorem greg_tookPacket {k : Nat} (hk : k < 32) : (tookPacket s g i flits).greg s.me k = s.greg s.me k :=
  (onlySegs_setSegs g flits s 0).rowGet (.inl (by omega))

theorem rowGet_tookPacket {j : Nat} {v : BitVec 512} (hv : flits[j]? = some v) : (tookPacket s g i flits).rowGet s.me (320 + 64 * (g + j)) 64 = v.toNat :=
  rowGet_setSegs g flits s 0 j v hv

theorem dstOpen_tookPacket (d : Nat) : (tookPacket s g i flits).dstOpen d = s.dstOpen d := dstOpen_onlySegs (onlySegs_setSegs g flits s 0) (by omega) d

end

/-- A word that took a packet and wrote its description to an open destination. -/
theorem completes_tookPacket {s : State} {d : BitVec 5} (hopen : s.dstOpen d.toNat = true) (g i : Nat) (flits : List (BitVec 512)) (v : W) :
    let t := ((tookPacket s g i flits).put d.toNat v).retire
    t.cur.ended = .completed ∧ t.cur.ending = s.cur.ending ∧ Moves s t s.me ∧ OnlyPc s t s.me ∧ (t.csRow s.me).rxq = (s.csRow s.me).rxq.eraseIdx i ∧
      Produced s t s.me d v ∧ (∀ j x, flits[j]? = some x → t.rowGet s.me (320 + 64 * (g + j)) 64 = x.toNat) ∧
      (∀ q, q < rowAddr s.me ∨ (rowAddr s.me + 256 ≤ q ∧ q < rowAddr s.me + 320 + 64 * g) ∨ rowAddr s.me + 320 + 64 * (g + flits.length) ≤ q →
        mget t.mem q = mget s.mem q) := by
  intro t
  have hd : d.toNat < 28 := ((State.dstOpen_iff _ _).1 hopen).1
  have hme := me_tookPacket s g i flits
  have hcur : ((tookPacket s g i flits).put d.toNat v).cur = s.cur := by rw [State.put_cur, cur_tookPacket]
  have hctl (r : Nat) : ((tookPacket s g i flits).put d.toNat v).ctlOf r = s.ctlOf r := by rw [State.put_at_ctlOf, ctlOf_tookPacket]
  have hmem {q : Nat} (hq : q < rowAddr s.me ∨ rowAddr s.me + 256 ≤ q) : mget t.mem q = mget (tookPacket s g i flits).mem q := by
    rw [State.retire_mem]
    exact State.put_mget _ _ _ _ (by rw [hme]; omega) (by rw [hme]; omega)
  have hput := produced_retire (produced_put (tookPacket s g i flits) hd v)
  rw [hme] at hput
  refine ⟨State.retire_ended _, (retire_ending _).trans (congrArg Cur.ending hcur), moves_retire (hctl _) (congrArg Cur.rid hcur) (congrArg Cur.slot hcur)
    (congrArg Cur.pc hcur) (congrArg Cur.jump hcur), onlyPc_retire hctl (congrArg Cur.rid hcur), ?_, ?_, fun j x hx => ?_, fun q hq => ?_⟩
  · rw [csRow_congr (s := tookPacket s g i flits) ((State.retire_core _).trans (State.put_core _ _ _)) ((State.retire_oct _).trans (State.put_oct _ _ _))
      ((State.retire_bdc _).trans (State.put_bdc _ _ _)), rxq_tookPacket]
  · exact ⟨hput.reg, hput.d1, hput.d2.trans (greg_tookPacket s g i flits (by omega)), hput.d3.trans (greg_tookPacket s g i flits (by omega)),
      hput.d4.trans (greg_tookPacket s g i flits (by omega))⟩
  · refine Eq.trans (mread_congr _ _ _ _ fun q h1 h2 => hmem (by omega)) (rowGet_tookPacket s g i flits hx)
  · rw [hmem (by omega), mget_tookPacket s g i flits (by omega)]

theorem eraseIdx_append_cons {α : Type} (l l' : List α) (k : α) : (l ++ k :: l').eraseIdx l.length = l ++ l' := by
  rw [List.eraseIdx_append_of_length_le (le_refl _), Nat.sub_self, List.eraseIdx_cons_zero]

/-- Both words, given what they do with their sources read. -/
theorem takes_packet {s u : State} {i : Instr} {d : BitVec 5} {dl : Option Nat} {g : BitVec 4} {f : W} (hexec : exec i s = s.runWord (takePacket u d dl g.toNat f))
    (hbase : isBase u.me = false) (hname : nameReserved f.toNat = false) (halone : MayBeAlone u) {l l' : List Packet} {k : Packet}
    (hq : (u.csRow u.me).rxq = l ++ k :: l') (hbefore : ∀ p ∈ l, ¬ Fits u.me f p) (hk : Fits u.me f k) :
    (11 < g.toNat + k.flits.length → Traps i s .queue (num k.flits.length)) ∧
    (g.toNat + k.flits.length ≤ 11 → u.dstOpen d.toNat = true →
      ∃ t, exec i s = .next t ∧ t.cur.ended = .completed ∧ t.cur.ending = true ∧ Moves u t u.me ∧ OnlyPc u t u.me ∧ (t.csRow u.me).rxq = l ++ l' ∧
        Produced u t u.me d (num (k.flits.length * 2 ^ 59 + bit k.remote * 2 ^ 58 + k.core * 2 ^ 45 + k.srow * 2 ^ 34 + k.hdr.toNat)) ∧
        (∀ j v, k.flits[j]? = some v → t.rowGet u.me (320 + 64 * (g.toNat + j)) 64 = v.toNat) ∧
        (∀ q, q < rowAddr u.me ∨ (rowAddr u.me + 256 ≤ q ∧ q < rowAddr u.me + 320 + 64 * g.toNat) ∨ rowAddr u.me + 320 + 64 * (g.toNat + k.flits.length) ≤ q →
          mget t.mem q = mget u.mem q)) := by
  have hfound := takePacket_found (d := d) (dl := dl) (seg := g.toNat) hbase hname halone hq hbefore hk
  refine ⟨fun hlong => ?_, fun hfits hopen => ?_⟩
  · rw [Traps, hexec, hfound, if_pos hlong]
    rfl
  · have hending : (u.modCur fun x => { x with ending := true }).dstOpen d.toNat = true := ((SameWord.refl u).ending.dstOpen _).trans hopen
    have hdst := State.dst_open (tookPacket (u.modCur fun x => { x with ending := true }) g.toNat l.length k.flits) d.toNat
      (num (k.flits.length * 2 ^ 59 + bit k.remote * 2 ^ 58 + k.core * 2 ^ 45 + k.srow * 2 ^ 34 + k.hdr.toNat)) ((dstOpen_tookPacket _ _ _ _ _).trans hending)
    rw [hexec, hfound, if_neg (by omega)]
    obtain ⟨hended, hend, hmoves, hpc, hrxq, hres, hsegs, hmem⟩ := completes_tookPacket hending g.toNat l.length k.flits
      (num (k.flits.length * 2 ^ 59 + bit k.remote * 2 ^ 58 + k.core * 2 ^ 45 + k.srow * 2 ^ 34 + k.hdr.toNat))
    refine ⟨_, congrArg s.runWord hdst, hended, hend, hmoves.of_modCur (.ending _), hpc.of_modCur, hrxq.trans ?_, hres.of_modCur, hsegs, hmem⟩
    exact (congrArg (List.eraseIdx · l.length) hq).trans (eraseIdx_append_cons l l' k)

theorem receive : Receive := by
  intro s s1 s2 d a b g f y hin ha hb rx fits
  have hme1 : s1.me = s.me := State.src_me _ _ _ _ ha
  have hme2 : s2.me = s.me := (State.src_me _ _ _ _ hb).trans hme1
  have hrecv := exec_recv (d := d) (g := g) hin ha
  have hrecvDl := exec_recvDl (d := d) (g := g) hin ha hb
  refine ⟨fun hname => ⟨?_, ?_⟩, fun u i hi hname halone l k l' hq hbefore hk => ?_, fun hname halone hnone => ?_, fun hname halone hnone => ⟨fun hpast hopen => ?_, fun hahead => ?_⟩⟩
  · rw [Traps, hrecv, takePacket_reserved hname]
    rfl
  · rw [Traps, hrecvDl, takePacket_reserved hname]
    rfl
  · obtain ⟨rfl, rfl⟩ | ⟨rfl, rfl⟩ := hi
    · have htakes := takes_packet hrecv (hme1 ▸ hin.1) hname halone (by rw [hme1]; exact hq) (by rw [hme1]; exact hbefore) (by rw [hme1]; exact hk)
      rwa [hme1] at htakes
    · have htakes := takes_packet hrecvDl (hme2 ▸ hin.1) hname halone (by rw [hme2]; exact hq) (by rw [hme2]; exact hbefore) (by rw [hme2]; exact hk)
      rwa [hme2] at htakes
  · rw [hrecv, takePacket_none (hme1 ▸ hin.1) hname halone (by rw [hme1]; exact hnone)]
    rfl
  · have hreached : reached s2.cycle (y.toNat % 2 ^ 56) = true := by
      simp only [reached, decide_eq_true_eq]
      omega
    have hending : (s2.modCur fun x => { x with ending := true }).dstOpen d.toNat = true := ((SameWord.refl s2).ending.dstOpen _).trans hopen
    rw [hrecvDl, takePacket_none (hme2 ▸ hin.1) hname halone (by rw [hme2]; exact hnone), ← hme2]
    simp only [hreached, if_true, State.dst_open _ _ _ hending]
    exact ⟨_, rfl, (writes_put_retire hending _).of_modCur (.ending _)⟩
  · have hnot : reached s2.cycle (y.toNat % 2 ^ 56) = false := by
      simp only [reached, decide_eq_false_iff_not]
      omega
    rw [hrecvDl, takePacket_none (hme2 ▸ hin.1) hname halone (by rw [hme2]; exact hnone)]
    simp only [hnot, Bool.false_eq_true, if_false]
    rfl

/-- Settles O33: the checks of each word in order (`sendHead_granted`, `sendFlit_room`, `takePacket_found`), and what the row, its hub's send buffers and its receive
queue show afterwards. -/
theorem packets : Obligations.Packets := by
  unfold Obligations.Packets
  exact ⟨sendHeader, sendFlits, receive⟩

end Sys2Proof.Says
end

section
namespace Sys2Proof.Says
open Sys2Proof.Machine

/-! ## Mailbox words (09_memory_sync.md R183 to R185) -/

/-- Slots with a completed message of a row that its open chunk has not popped. -/
def ownMessages (s : State) (rid : Nat) : List (Nat × MSlot) :=
  (s.cs (coreOfRid rid)).mbox.filter fun e => e.2.owner == some rid && e.2.msg.isSome && !((s.thrOf rid).chunk.deferred.contains (.mbx e.1))

theorem mem_ownMessages {s : State} {rid : Nat} {e : Nat × MSlot} : e ∈ ownMessages s rid ↔
    e ∈ (s.cs (coreOfRid rid)).mbox ∧ e.2.owner = some rid ∧ e.2.msg ≠ none ∧ AtCommit.mbx e.1 ∉ (s.thrOf rid).chunk.deferred := by
  simp [ownMessages, Option.isSome_iff_ne_none, and_assoc]

/-- One step of the search for the earliest message. -/
def earlier (m : Option (Nat × MSlot)) (e : Nat × MSlot) : Option (Nat × MSlot) :=
  match m with
  | none => some e
  | some x => if e.2.order < x.2.order then some e else some x

theorem messages_eq (s : State) (rid : Nat) : s.messages rid = ((ownMessages s rid).foldl earlier none).toList := by
  have hfirst : s.messages rid = match (ownMessages s rid).foldl earlier none with | some e => [e] | none => [] := rfl
  rw [hfirst]
  cases (ownMessages s rid).foldl earlier none <;> rfl

theorem foldl_earlier_some : ∀ (l : List (Nat × MSlot)) (x : Nat × MSlot), ∃ y, l.foldl earlier (some x) = some y
  | [], x => ⟨x, rfl⟩
  | e :: l, x => by
    rw [List.foldl_cons, earlier]
    split
    · exact foldl_earlier_some l e
    · exact foldl_earlier_some l x

theorem earlier_eq (acc : Option (Nat × MSlot)) (e : Nat × MSlot) : earlier acc e = some e ∨ earlier acc e = acc := by
  cases acc with
  | none => exact .inl rfl
  | some x =>
    rw [earlier]
    split
    · exact .inl rfl
    · exact .inr rfl

theorem earlier_least {acc : Option (Nat × MSlot)} {e e0 : Nat × MSlot} (hacc : ∀ x, acc = some x → x ≠ e0 → e0.2.order < x.2.order)
    (he : e ≠ e0 → e0.2.order < e.2.order) (hin : e = e0 ∨ acc = some e0) : earlier acc e = some e0 := by
  cases acc with
  | none => exact congrArg some (hin.resolve_right (by simp))
  | some x =>
    rw [earlier]
    by_cases hx : x = e0
    · subst hx
      by_cases hex : e = x
      · rw [hex, if_neg (Nat.lt_irrefl _)]
      · rw [if_neg (Nat.not_lt.2 (he hex).le)]
    · obtain rfl : e = e0 := hin.resolve_right fun h => hx (Option.some.inj h)
      rw [if_pos (hacc x rfl hx)]

/-- A slot that comes before all others is the earliest. -/
theorem foldl_earlier_least {e0 : Nat × MSlot} : ∀ (l : List (Nat × MSlot)) (acc : Option (Nat × MSlot)),
    (∀ e ∈ l, e ≠ e0 → e0.2.order < e.2.order) → (∀ x, acc = some x → x ≠ e0 → e0.2.order < x.2.order) → e0 ∈ l ∨ acc = some e0 →
    l.foldl earlier acc = some e0
  | [], _, _, _, hin => hin.resolve_left (by simp)
  | e :: l, acc, hl, hacc, hin => by
    rw [List.foldl_cons]
    have he := hl e List.mem_cons_self
    refine foldl_earlier_least l _ (fun x hx => hl x (List.mem_cons_of_mem e hx)) (fun x hx hne => ?_) ?_
    · obtain h | h := earlier_eq acc e
      · obtain rfl : e = x := Option.some.inj (h.symm.trans hx)
        exact he hne
      · exact hacc x (h.symm.trans hx) hne
    · by_cases hmem : e0 ∈ l
      · exact .inl hmem
      · exact .inr (earlier_least hacc he (hin.imp_left fun h => ((List.mem_cons.1 h).resolve_right hmem).symm))

section
variable {s : State} {rid : Nat}

theorem messages_nil (h : ∀ e, e ∉ ownMessages s rid) : s.messages rid = [] := by
  rw [messages_eq, List.eq_nil_iff_forall_not_mem.2 h]
  rfl

theorem messages_cons {e : Nat × MSlot} (h : e ∈ ownMessages s rid) : ∃ y, s.messages rid = [y] := by
  rw [messages_eq]
  obtain ⟨x, l, hl⟩ := List.exists_cons_of_ne_nil (List.ne_nil_of_mem h)
  obtain ⟨y, hy⟩ := foldl_earlier_some l x
  exact ⟨y, by rw [hl, List.foldl_cons, earlier, hy]; rfl⟩

theorem messages_least {e0 : Nat × MSlot} (h0 : e0 ∈ ownMessages s rid) (h : ∀ e ∈ ownMessages s rid, e ≠ e0 → e0.2.order < e.2.order) :
    s.messages rid = [e0] := by
  rw [messages_eq, foldl_earlier_least _ none h (by simp) (.inl h0)]
  rfl

end

section
variable {s : State} {d : BitVec 5} (hin : InThread s)
include hin

theorem mbxpop_none (hopen : s.dstOpen d.toNat = true) (h : s.messages s.me = []) :
    exec (.mbxpop d) s = .next (s.put d.toNat 0xFF00000000000000).retire := by
  have hexec : exec (.mbxpop d) s = execMbxpop d s := rfl
  rw [hexec, execMbxpop]
  simp only [threadOnly_of hin, bind, Except.bind, h, State.dst_open _ _ _ hopen]
  rfl

/-- The state in which the commit will free a mailbox slot. -/
def popping (s : State) (tag : Nat) : State := s.modChunk s.me fun c => { c with deferred := c.deferred ++ [.mbx tag] }

theorem mbxpop_some (hopen : s.dstOpen d.toNat = true) {tag : Nat} {m : MSlot} {v : W} (hv : m.msg = some v) (h : s.messages s.me = [(tag, m)]) :
    exec (.mbxpop d) s = .next ((popping s tag).put d.toNat v).retire := by
  have hexec : exec (.mbxpop d) s = execMbxpop d s := rfl
  have hpop : (popping s tag).dst d.toNat v = .ok ((popping s tag).put d.toNat v) :=
    State.dst_open _ _ _ ((((SameWord.refl s).modChunk _ _).dstOpen _).trans hopen)
  rw [hexec, execMbxpop]
  simp only [threadOnly_of hin, bind, Except.bind, h, hv, Option.getD_some]
  exact congrArg s.runWord hpop

end

/-- What `MBXPOP` shows: its result, and the slot left to the commit. -/
theorem pops_message {s : State} {d : BitVec 5} (hopen : s.dstOpen d.toNat = true) (tag : Nat) (v : W) :
    let t := ((popping s tag).put d.toNat v).retire
    t.cur.ended = .completed ∧ Moves s t s.me ∧ OnlyPc s t s.me ∧ Elsewhere s t ∧ Produced s t s.me d v ∧
      (t.thrOf s.me).chunk.deferred = (s.thrOf s.me).chunk.deferred ++ [.mbx tag] := by
  have hword : SameWord s (popping s tag) := (SameWord.refl s).modChunk _ _
  obtain ⟨hended, hmoves, hpc, hres⟩ := completes_put hword hopen v
  obtain ⟨hcycle, hcore, hquad, hoct, hclu, hten, hpkg, hnodes, hteams, hbdc, hbanks, hpip, huncorr, hsel, hschedule, hseq⟩ :=
    elsewhere_retire (elsewhere_put (popping s tag) d.toNat v)
  refine ⟨hended, hmoves, hpc, ⟨hcycle, hcore, hquad, hoct, hclu, hten, hpkg, hnodes, hteams, hbdc, hbanks, hpip, huncorr, hsel, hschedule, hseq⟩, hres, ?_⟩
  rw [thrOf_put_retire_chunk, popping, thrOf_modChunk, if_pos rfl]

/-- A word that executed alone and changed nothing. -/
theorem passes_alone (s : State) : let t := (s.modCur fun x => { x with ending := true }).retire
    Passes s t s.me ∧ Moves s t s.me ∧ t.cur.ending = true :=
  ⟨(passes_retire _).of_modCur, (moves_retire_self _).of_modCur (.ending _), retire_ending _⟩

theorem exec_waitmsg {s : State} (hin : InThread s) (halone : MayBeAlone s) : exec .waitmsg s = s.runWord
    (match s.messages s.me with | _ :: _ => .ok (s.modCur fun x => { x with ending := true }) | [] => wait 3 0 0) := by
  have hexec : exec .waitmsg s = execWaitmsg s := rfl
  rw [hexec, execWaitmsg]
  simp only [State.blocking, threadOnly_of hin, alone_of hin.1 halone, bind, Except.bind]
  rfl

section
variable {s s1 : State} {a : BitVec 5} {x : W} (hin : InThread s) (ha : s.src a.toNat = .ok (x, s1)) (halone : MayBeAlone s1)
include hin ha halone

/-- `SLEEPUNTIL`, its source read: what the slot of its tag holds. -/
theorem exec_sleepuntil : exec (.sleepuntil a) s = s.runWord
    (match (s1.cs s.myCore).mbox.find? fun e => e.1 == x.toNat / 2 ^ 56 && e.2.owner == some s.me && !e.2.kept with
    | none => trap .promise x
    | some e =>
      if e.2.msg.isSome then .ok (s1.modCur fun x => { x with ending := true })
      else if reached s1.cycle (x.toNat % 2 ^ 56) then trap .promise x
      else .error (.block 12 0 (x.toNat / 2 ^ 56) (some (x.toNat % 2 ^ 56)))) := by
  have hexec : exec (.sleepuntil a) s = execSleepuntil a s := rfl
  have hme : s1.me = s.me := State.src_me _ _ _ _ ha
  have hcore : s1.myCore = s.myCore := congrArg coreOfRid hme
  have htag : bits x.toNat 63 56 = x.toNat / 2 ^ 56 := by
    have := x.isLt
    simp only [bits]
    omega
  rw [hexec, execSleepuntil, ← hme, ← hcore]
  simp only [threadOnly_of hin, ha, alone_of (hme ▸ hin.1) halone, bind, Except.bind, htag]
  rfl

end

theorem mailbox : Mailbox := by
  intro s s1 d a x hin mine
  have hmine (e : Nat × MSlot) : mine e ↔ e ∈ ownMessages s s.me := mem_ownMessages.symm
  refine ⟨fun hopen hnone => ?_, fun tag m v hopen hm hv hleast => ?_, fun halone ⟨e, he⟩ => ?_, fun halone hnone => ?_, fun ha halone => ?_⟩
  · rw [mbxpop_none hin hopen (messages_nil fun e he => hnone e ((hmine e).2 he))]
    exact ⟨_, rfl, writes_put_retire hopen _⟩
  · rw [mbxpop_some hin hopen hv (messages_least ((hmine _).1 hm) fun e he => hleast e ((hmine e).2 he))]
    exact ⟨_, rfl, pops_message hopen tag v⟩
  · obtain ⟨y, hy⟩ := messages_cons ((hmine e).1 he)
    rw [exec_waitmsg hin halone, hy]
    exact ⟨_, rfl, passes_alone s⟩
  · rw [exec_waitmsg hin halone, messages_nil fun e he => hnone e ((hmine e).2 he)]
    rfl
  · have hme : s1.me = s.me := State.src_me _ _ _ _ ha
    intro tag held
    have hword := exec_sleepuntil hin ha halone
    have hheld {m : MSlot} (hm : held m) : ((s1.cs s.myCore).mbox.find? fun e => e.1 == x.toNat / 2 ^ 56 && e.2.owner == some s.me && !e.2.kept) = some (tag, m) := hm
    refine ⟨fun hnone => ?_, fun m hm hmsg => ?_, fun m hm hmsg hpast => ?_, fun m hm hmsg hahead => ?_⟩
    · have hfree : ((s1.cs s.myCore).mbox.find? fun e => e.1 == x.toNat / 2 ^ 56 && e.2.owner == some s.me && !e.2.kept) = none := by
        refine Option.eq_none_iff_forall_ne_some.2 fun e he => hnone e.2 ?_
        have htag := List.find?_some he
        simp only [Bool.and_eq_true, beq_iff_eq] at htag
        obtain ⟨⟨htag, -⟩, -⟩ := htag
        exact he.trans (congrArg some (show e = (tag, e.2) from Prod.ext htag rfl))
      rw [Traps, hword, hfree]
      rfl
    · have hsome : m.msg.isSome = true := Option.isSome_iff_ne_none.2 hmsg
      rw [hword, hheld hm]
      simp only [hsome, if_true]
      rw [← hme]
      exact ⟨_, rfl, passes_alone s1⟩
    · rw [Traps, hword, hheld hm]
      simp only [hmsg, hpast, Option.isSome_none, Bool.false_eq_true, if_false, if_true]
      rfl
    · rw [hword, hheld hm]
      simp only [hmsg, hahead, Option.isSome_none, Bool.false_eq_true, if_false]
      rfl

/-! ## Device steps of messages -/

/-! ### Barrier words and deadlines (R39, R178) -/

section
variable {s : State}

/-- A store to a barrier word changes nothing else of the machine (R178). -/
theorem barrierWordWrite_eq (hunit : s.sel.unit < 32) (hsub : s.sel.sub < 4096) (hidx : s.sel.idx < 16) :
    exec .barrierWordWrite s = .next (s.barStore s.sel.unit (s.sel.sub * 16 + s.sel.idx) s.sel.data) := by
  have hexec : exec .barrierWordWrite s = execBarrierWordWrite s := rfl
  rw [hexec]
  exact if_pos ⟨hunit, hsub, hidx⟩

theorem barOf_barStore_other (s : State) (k x y : Nat) (v : W) (h : y ≠ x) : (s.barStore k x v).barOf k y = s.barOf k y := by
  simp only [State.barStore, State.modBar, State.barOf, State.cluOf_modClu, if_true, tget_tset, if_neg (Ne.symm h)]

theorem barOf_barStore (s : State) (k x : Nat) (v : W) : (s.barStore k x v).barOf k x =
    if (s.barOf k x).count ≠ 0 then s.barOf k x
    else if v.getLsbD 63 = false then { s.barOf k x with arm := false }
    else if 1 ≤ v.toNat / 2 ^ 24 % 2 ^ 19 ∧ v.toNat / 2 ^ 24 % 2 ^ 19 ≤ 393216 then
      { s.barOf k x with arm := true, expect := BitVec.ofNat 19 (v.toNat / 2 ^ 24 % 2 ^ 19) }
    else s.barOf k x := by
  have hbit : v.toNat / 2 ^ 63 = 0 ↔ v.getLsbD 63 = false := by
    have := v.isLt
    simp only [BitVec.getLsbD, Nat.testBit_eq_decide_div_mod_eq, decide_eq_false_iff_not]
    omega
  simp only [State.barStore, State.modBar, State.barOf, State.cluOf_modClu, if_true, tget_tset, hbit]
  rfl

/-- A sleeping row whose deadline is reached is READY, and only its entry changed (R39). -/
theorem deadlineWake_eq (hwaits : s.waits (ridOf s.sel.unit s.sel.sub) 12 = true) (hsleeps : (s.ctlOf (ridOf s.sel.unit s.sel.sub)).state = .sleeping)
    (hreached : reached s.cycle (s.rowGet (ridOf s.sel.unit s.sel.sub) 0 7) = true) :
    exec .deadlineWake s = .next (s.makeReady (ridOf s.sel.unit s.sel.sub)) := by
  have hexec : exec .deadlineWake s = execDeadlineWake s := rfl
  have hwake : s.wakeRow (ridOf s.sel.unit s.sel.sub) = s.makeReady (ridOf s.sel.unit s.sel.sub) := if_pos (by simp [hsleeps])
  rw [hexec, ← hwake]
  exact if_pos (by simp [hwaits, hreached])

theorem deadlineWake_ahead (hahead : reached s.cycle (s.rowGet (ridOf s.sel.unit s.sel.sub) 0 7) = false) : exec .deadlineWake s = .next s := by
  have hexec : exec .deadlineWake s = execDeadlineWake s := rfl
  rw [hexec]
  exact if_neg (by simp [hahead])

theorem ctlOf_makeReady (s : State) (r q : Nat) :
    (s.makeReady r).ctlOf q = if r = q then { s.ctlOf r with state := .ready, wait := 0, wake := 0 } else s.ctlOf q := by
  simp [State.makeReady, State.enterReady, State.moved]

end

/-! ### Nobody waits -/

theorem tget_eq_or_mem {α : Type} (d : α) (i : Nat) : ∀ t : Tab α, tget d t i = d ∨ (i, tget d t i) ∈ t
  | [] => .inl rfl
  | (k, v) :: t => by
    rw [tget]
    split
    next h => exact .inr (h ▸ List.mem_cons_self)
    next => exact (tget_eq_or_mem d i t).imp_right (List.mem_cons_of_mem _)

theorem not_waits_of_state {s : State} {r : Nat} (w : Nat) (h : (s.ctlOf r).state ≠ .blocked ∧ (s.ctlOf r).state ≠ .sleeping ∧ (s.ctlOf r).state ≠ .held) :
    s.waits r w = false := by
  obtain ⟨hb, hs, hh⟩ := h
  simp [State.waits, hb, hs, hh]

theorem not_waits_of_nobody {s : State} (h : NobodyWaits s) (r w : Nat) : s.waits r w = false := by
  refine not_waits_of_state w ?_
  obtain hdef | hmem := tget_eq_or_mem ({} : Ctl) r s.ctl
  · rw [State.ctlOf, hdef]
    exact ⟨by decide, by decide, by decide⟩
  · exact h _ hmem

theorem waiters_of_nobody {s : State} (h : NobodyWaits s) (inScope : Nat → Bool) (w : Nat) : s.waiters inScope w = [] := by
  refine List.eq_nil_iff_forall_not_mem.2 fun r hr => ?_
  obtain ⟨c, hc⟩ := mem_rowsWhere (mem_of_mem_sortBy hr)
  simp [not_waits_of_nobody h] at hc

theorem serveClaims_of_nobody {s : State} {cands : State → List Nat} (h : cands s = []) (n : Nat) (inScope : Nat → Bool) (code free : Nat) :
    s.serveClaims n cands inScope code free = s := by
  cases n with
  | zero => rfl
  | succ n =>
    unfold State.serveClaims
    rw [h]
    split <;> rfl

/-- A send buffer that is freed serves nobody. -/
theorem freeSendBuf_of_nobody {s : State} (h : NobodyWaits s) (oct buf : Nat) :
    s.freeSendBuf oct buf = s.modOct oct fun o => { o with hub := terase o.hub buf } := by
  refine serveClaims_of_nobody ?_ _ _ _ _
  rw [waiters_of_nobody (s := s.modOct oct _) h]
  rfl

/-- No barrier holds an `SSYNC` arrival that a packet held back. -/
theorem barRecheck_of_no_ssync {s : State} (h : ∀ k y, (s.barOf k y).ss = false) (rid : Nat) : s.barRecheck rid = s := by
  unfold State.barRecheck State.barsRecheck
  generalize List.range 16 = l
  induction l with
  | nil => rfl
  | cons i l ih => rwa [List.foldl_cons, h, Bool.false_and, if_neg Bool.false_ne_true]

/-- A packet that leaves its send buffer leaves it free, where nobody waits for it. -/
theorem leaves_sendBuf {s : State} (hnobody : NobodyWaits s) (hss : ∀ k y, (s.barOf k y).ss = false) (oct buf rid : Nat) :
    (s.freeSendBuf oct buf).barRecheck rid = s.modOct oct fun o => { o with hub := terase o.hub buf } := by
  rw [freeSendBuf_of_nobody hnobody]
  exact barRecheck_of_no_ssync (s := s.modOct oct _) hss rid

theorem not_mem_hub_freed (s : State) (oct buf : Nat) :
    ∀ e ∈ ((s.modOct oct fun o => { o with hub := terase o.hub buf }).octOf oct).hub, e.1 ≠ buf := by
  rw [State.octOf_modOct, if_pos rfl]
  exact not_mem_terase buf _

/-! ### PACKET_ENTRY (R174) -/

/-- The packet that a send buffer delivers to a row of this package. -/
def packetFor (b : SendBuf) (row : Nat) : Packet :=
  { row := row, remote := false, pkg := 0, core := coreOfRid b.rid, srow := rowOfRid b.rid, hdr := b.hdr, flits := b.flits }

/-- The state with the packet in the receive queue of its row. -/
def delivered (s : State) (p : Packet) (rid : Nat) : State :=
  (s.modCsRow rid fun c => { c with rxq := c.rxq ++ [p] }).modThr rid fun t => { t with packetAt := s.cycle }

theorem packetIn_ready {s : State} {p : Packet} {core : Nat} (hready : (s.ctlOf (ridOf core p.row)).state = .ready)
    (hroom : rxFlits (s.csRow (ridOf core p.row)).rxq + 1 + p.flits.length ≤ 64) : s.packetIn p core = some (delivered s p (ridOf core p.row)) := by
  have hawake : (delivered s p (ridOf core p.row)).waits (ridOf core p.row) 2 = false :=
    not_waits_of_state (s := delivered s p (ridOf core p.row)) 2 (by
      rw [show (delivered s p (ridOf core p.row)).ctlOf (ridOf core p.row) = s.ctlOf (ridOf core p.row) from rfl, hready]
      exact ⟨by decide, by decide, by decide⟩)
  have hwake : (delivered s p (ridOf core p.row)).wakeReceiver (ridOf core p.row) = delivered s p (ridOf core p.row) := by
    rw [State.wakeReceiver, hawake]
    rfl
  unfold State.packetIn
  dsimp only
  rw [hready, if_neg (by decide), if_neg (by omega)]
  exact congrArg some hwake

/-- A row's core state is its tenant's, whatever else changes of an octet. -/
theorem csRow_modOct (s : State) (oct r : Nat) (f : Octet → Octet) (hf : ∀ o, (f o).tag = o.tag) : (s.modOct oct f).csRow r = s.csRow r := by
  have htag (q : Nat) : ((s.modOct oct f).octOf q).tag = (s.octOf q).tag := by
    rw [State.octOf_modOct]
    split
    next h => rw [hf, h]
    next => rfl
  have htenant : (s.modOct oct f).rowTenant r = s.rowTenant r := by
    simp only [State.rowTenant, State.tenantOf, htag]
    rfl
  rw [State.csRow, htenant]
  rfl

theorem rxq_delivered (s : State) (p : Packet) (rid : Nat) : ((delivered s p rid).csRow rid).rxq = (s.csRow rid).rxq ++ [p] :=
  congrArg CState.rxq (csRow_modCsRow s rid fun c => { c with rxq := c.rxq ++ [p] })

section
variable {s : State} {b : SendBuf} (hbuf : tget none (s.octOf s.sel.unit).hub s.sel.sub = some b) (hrel : b.released = true)
  (honly : (s.octOf s.sel.unit).hub = [(s.sel.sub, some b)]) (hvia : s.viaReady b.via = true)
  (hheld : s.heldBack s.sel.unit (packetDest b.dest) b.order = false)
include hbuf hrel honly hvia hheld

/-- PACKET_ENTRY of a released packet that nothing comes before and nothing holds back. -/
theorem packetEntry_eq : exec .packetEntry s =
    if bits b.dest.toNat 48 48 = 1 then
      (if !s.sel.flag || (s.portsTo (bits b.dest.toNat 47 39)).isEmpty then .next s else .next ((s.freeSendBuf s.sel.unit s.sel.sub).barRecheck b.rid))
    else match s.packetIn (packetFor b (bits b.dest.toNat 10 0)) (bits b.dest.toNat 23 11) with
      | some t => .next ((t.freeSendBuf s.sel.unit s.sel.sub).barRecheck b.rid)
      | none => .next s := by
  have hexec : exec .packetEntry s = execPacketEntry s := rfl
  rw [hexec, execPacketEntry]
  simp only [hbuf]
  rw [if_neg (by simp [hrel, hvia, hheld, honly])]
  rfl

variable (hnobody : NobodyWaits s) (hss : ∀ k y, (s.barOf k y).ss = false)
include hnobody hss

/-- A packet to a READY row of this package with room is delivered, and its buffer is free. -/
theorem packetEntry_delivers {core row : Nat} (hcore : core < 6144) (hrow : row < 2048) (hdest : b.dest = num (core * 2048 + row))
    (hready : (s.ctlOf (ridOf core row)).state = .ready) (hroom : rxFlits (s.csRow (ridOf core row)).rxq + 1 + b.flits.length ≤ 64) :
    ∃ t, exec .packetEntry s = .next t ∧ (t.csRow (ridOf core row)).rxq = (s.csRow (ridOf core row)).rxq ++ [packetFor b row] ∧
      (∀ e ∈ (t.octOf s.sel.unit).hub, e.1 ≠ s.sel.sub) ∧ t.mem = s.mem := by
  have hnat : b.dest.toNat = core * 2048 + row := by
    rw [hdest, num, BitVec.toNat_ofNat]
    omega
  have hfields : bits b.dest.toNat 48 48 ≠ 1 ∧ bits b.dest.toNat 23 11 = core ∧ bits b.dest.toNat 10 0 = row := by
    simp only [hnat, bits]
    omega
  obtain ⟨hlocal, hc, hr⟩ := hfields
  have hin : s.packetIn (packetFor b row) core = some (delivered s (packetFor b row) (ridOf core row)) := packetIn_ready hready hroom
  have hleaves := leaves_sendBuf (s := delivered s (packetFor b row) (ridOf core row)) hnobody hss s.sel.unit s.sel.sub b.rid
  rw [packetEntry_eq hbuf hrel honly hvia hheld, if_neg hlocal, hc, hr, hin]
  refine ⟨_, rfl, ?_, ?_, ?_⟩ <;> rw [hleaves]
  · have hrow' := csRow_modOct (delivered s (packetFor b row) (ridOf core row)) s.sel.unit (ridOf core row) (fun o => { o with hub := terase o.hub s.sel.sub })
      fun _ => rfl
    rw [hrow']
    exact rxq_delivered s (packetFor b row) (ridOf core row)
  · exact not_mem_hub_freed _ _ _
  · rfl

/-- A packet to another package leaves once that package has done with it. -/
theorem packetEntry_leaves (hremote : b.dest.getLsbD 48 = true) :
    (s.sel.flag = true → s.portsTo (b.dest.toNat / 2 ^ 39 % 512) ≠ [] →
      ∃ t, exec .packetEntry s = .next t ∧ (∀ e ∈ (t.octOf s.sel.unit).hub, e.1 ≠ s.sel.sub) ∧ t.mem = s.mem ∧ t.ctl = s.ctl) ∧
    (s.sel.flag = false ∨ s.portsTo (b.dest.toNat / 2 ^ 39 % 512) = [] → exec .packetEntry s = .next s) := by
  have hbit : bits b.dest.toNat 48 48 = 1 := by
    simpa [bits, BitVec.getLsbD, Nat.testBit_eq_decide_div_mod_eq] using hremote
  have hpkg : bits b.dest.toNat 47 39 = b.dest.toNat / 2 ^ 39 % 512 := rfl
  rw [packetEntry_eq hbuf hrel honly hvia hheld, if_pos hbit, hpkg]
  refine ⟨fun hflag hports => ?_, fun hstays => if_pos ?_⟩
  · have hsome : (s.portsTo (b.dest.toNat / 2 ^ 39 % 512)).isEmpty = false := by rwa [List.isEmpty_eq_false_iff]
    rw [if_neg (by rw [hflag, hsome]; decide), leaves_sendBuf hnobody hss]
    exact ⟨_, rfl, not_mem_hub_freed _ _ _, rfl, rfl⟩
  · obtain hflag | hports := hstays
    · simp [hflag]
    · rw [hports, List.isEmpty_nil, Bool.or_true]

end

end Sys2Proof.Says

namespace Sys2Proof.Machine

/-! ### PACKET_TIMEOUT (09_memory_sync.md R175; 15_traps.md R259)

The row's packet is cancelled and its queries are abandoned, which may wake rows that wait for a send buffer or a query buffer, but not the row itself, which is OPEN. -/

namespace KeepsRow
variable {r : Nat} {s : State}

/-- Places that become free go to rows that wait for them, of which the row is none. -/
theorem serveClaims {cands : State → List Nat} (inScope : Nat → Bool) (code free : Nat) (hr : ∀ u : State, u.ctlOf r = s.ctlOf r → r ∉ cands u) :
    ∀ (n : Nat) (u : State), u.ctlOf r = s.ctlOf r → KeepsRow r u (u.serveClaims n cands inScope code free)
  | 0, u, _ => refl r u
  | n + 1, u, hu => by
    unfold State.serveClaims
    split
    · exact refl r u
    · split
      · exact wakeAll _ u (hr u hu)
      next w l hw =>
        have hwr : w ≠ r := by
          rintro rfl
          exact hr u hu (List.mem_of_mem_filter (hw ▸ List.mem_cons_self : w ∈ List.filter _ _))
        have hwake : KeepsRow r u ((u.wakeRow w).modThr w fun t => { t with claim := code }) :=
          (wakeRow u hwr).trans ⟨rfl, rfl, by simp [hwr], fun _ => rfl⟩
        exact hwake.trans (serveClaims inScope code free hr n _ (hwake.ctl.trans hu))

section
variable (hopen : (s.ctlOf r).state = .opened)
include hopen

theorem not_mem_waiters {u : State} (hu : u.ctlOf r = s.ctlOf r) (inScope : Nat → Bool) (w : Nat) : r ∉ u.waiters inScope w := by
  intro hmem
  obtain ⟨c, hc⟩ := mem_rowsWhere (mem_of_mem_sortBy hmem)
  have hnot := Says.not_waits_of_state (s := u) (r := r) w (by rw [hu, hopen]; exact ⟨by decide, by decide, by decide⟩)
  simp [hnot] at hc

theorem freeSendBuf (oct buf : Nat) : KeepsRow r s (s.freeSendBuf oct buf) := by
  have hfreed : KeepsRow r s (s.modOct oct fun o => { o with hub := terase o.hub buf }) := ⟨rfl, rfl, rfl, fun _ => rfl⟩
  refine hfreed.trans ?_
  exact serveClaims (s := s) _ _ _ (fun u hu hmem => not_mem_waiters hopen hu _ _ (List.mem_of_mem_filter hmem)) _ _ hfreed.ctl

theorem serveQbufs (core : Nat) : KeepsRow r s (s.serveQbufs core) :=
  serveClaims (s := s) _ _ _ (fun _ hu hmem => not_mem_waiters hopen hu _ _ (List.mem_of_mem_filter hmem)) _ _ rfl

theorem abandonQueries (w : Nat) : KeepsRow r s (s.abandonQueries w) := by
  unfold State.abandonQueries
  dsimp only
  split
  · exact refl r s
  · have hcore (f : Core → Core) : KeepsRow r s (s.modCore (coreOfRid w) f) := ⟨rfl, rfl, rfl, fun _ => rfl⟩
    exact (hcore _).trans (serveQbufs (s := s.modCore _ _) hopen _)

end

end KeepsRow

/-- The row's packet cancelled and its queries abandoned. -/
def dropped (s : State) (r : Nat) : State := (s.cancelPacket r).abandonQueries r

/-- An OPEN row that drops its packet and its queries keeps the rest of its record and entry. -/
theorem dropped_own {s : State} {r : Nat} (hopen : (s.ctlOf r).state = .opened) : (dropped s r).ctlOf r = { s.ctlOf r with p := false } ∧
    (dropped s r).thrOf r = { s.thrOf r with packet := none } ∧ ∀ k, ((dropped s r).cluOf k).teamhdl = (s.cluOf k).teamhdl := by
  have hcancel : (s.cancelPacket r).ctlOf r = { s.ctlOf r with p := false } ∧ (s.cancelPacket r).thrOf r = { s.thrOf r with packet := none } ∧
      ∀ k, ((s.cancelPacket r).cluOf k).teamhdl = (s.cluOf k).teamhdl := by
    unfold State.cancelPacket
    split
    next h => exact ⟨by simp, by rw [← h]; rfl, fun _ => rfl⟩
    next p h =>
      have hkeeps := KeepsRow.freeSendBuf (r := r) (s := (s.modThr r fun t => { t with packet := none }).modCtl r fun c => { c with p := false })
        (by simp [hopen]) (hubOf r) p.buf
      exact ⟨hkeeps.ctl.trans (by simp), hkeeps.thr.trans (by simp), hkeeps.handlers⟩
  obtain ⟨hctl, hthr, hhdl⟩ := hcancel
  have hkeeps := KeepsRow.abandonQueries (r := r) (s := s.cancelPacket r) (by rw [hctl, hopen]) r
  exact ⟨hkeeps.ctl.trans hctl, hkeeps.thr.trans hthr, fun k => (hkeeps.handlers k).trans (hhdl k)⟩

/-- The OPEN row `r` of a core traps to the fault queue, whatever packet and queries it has: no access waits for its boundary, no stop is marked, and it has neither
nest nor handler. -/
structure TrapsOpen (s : State) (r : Nat) : Prop where
  thread : isBase r = false
  opened : (s.ctlOf r).state = .opened
  waiting : (s.thrOf r).deferred = []
  stop : (s.thrOf r).stop = none
  nest : (s.thrOf r).nest = none
  serves : (s.thrOf r).serves = none
  handler : s.teamHandler r = none

/-- The entry of a row that has dropped its packet and queries moved to the word. -/
def droppedAt (s : State) (r : Nat) (pc : W) : State := ((dropped s r).modCtl r fun x => { x with pc := pcOf pc }).modThr r fun t => { t with deferred := [] }

/-- Such a row closed, with the cause in its record. -/
def droppedClosed (s : State) (r : Nat) (c : Cause) (g3 pc : W) (fetch : Bool) : State :=
  let u := (droppedAt s r pc).closeRow r .faulted 0 0
  u.modThr r (trappedThr c g3 u.cycle fetch)

namespace TrapsOpen
variable {s : State} {r : Nat} {c : Cause} {g3 pc : W} {fetch : Bool}

theorem takeTrap_eq (h : TrapsOpen s r) : s.takeTrap r c g3 pc fetch =
    (((((droppedClosed s r c g3 pc fetch).serveLocks (clusterOfRid r)).dropKept r).dispatchTrap r c g3).flushDeferred []).takeMark r := by
  obtain ⟨-, hthr, -⟩ := dropped_own h.opened
  have hwaiting : (((dropped s r).modCtl r fun x => { x with pc := pcOf pc }).thrOf r).deferred = [] := by
    rw [State.modCtl_at_thrOf, hthr]
    exact h.waiting
  unfold State.takeTrap
  rw [h.thread, if_neg Bool.false_ne_true]
  dsimp only
  rw [show (((s.cancelPacket r).abandonQueries r).modCtl r fun x => { x with pc := pcOf pc }).thrOf r
    = ((dropped s r).modCtl r fun x => { x with pc := pcOf pc }).thrOf r from rfl, hwaiting]
  rfl

/-- The row after its close: its entry, and its record. -/
theorem closed_own (h : TrapsOpen s r) :
    (droppedClosed s r c g3 pc fetch).ctlOf r = { s.ctlOf r with state := .faulted, wait := 0, wake := 0, p := false, pc := pcOf pc } ∧
    (∀ k, ((droppedClosed s r c g3 pc fetch).cluOf k).teamhdl = (s.cluOf k).teamhdl) ∧
    ∃ n m k now, (droppedClosed s r c g3 pc fetch).thrOf r =
      trappedThr c g3 k fetch { Says.Thr.afterClose n m { s.thrOf r with packet := none, deferred := [] } with movedAt := some now } := by
  obtain ⟨hctl, hthr, hhdl⟩ := dropped_own h.opened
  obtain ⟨-, -, hentry, hteams, n, m, now, hrec⟩ := closeRow_faulted (s := droppedAt s r pc) (r := r) (by simp [droppedAt])
  refine ⟨hentry.trans ?_, fun k => (hteams k).trans (hhdl k), n, m, ((droppedAt s r pc).closeRow r .faulted 0 0).cycle, now, ?_⟩
  · simp [droppedAt, hctl]
  · rw [droppedClosed, State.thrOf_modThr, if_pos rfl, hrec]
    simp [droppedAt, hthr]

/-- The trap leaves the row FAULTED with its cause, out of its packet. -/
theorem faulted (h : TrapsOpen s r) (c : Cause) (g3 pc : W) (fetch : Bool) :
    ((s.takeTrap r c g3 pc fetch).ctlOf r).state = .faulted ∧ ((s.takeTrap r c g3 pc fetch).thrOf r).trapCause = some c ∧
      ((s.takeTrap r c g3 pc fetch).ctlOf r).p = false ∧ ((s.takeTrap r c g3 pc fetch).thrOf r).packet = none := by
  obtain ⟨hctl, hhdl, n, m, k, now, hthr⟩ := h.closed_own (c := c) (g3 := g3) (pc := pc) (fetch := fetch)
  have hunserved : Unserved r (droppedClosed s r c g3 pc fetch) := ⟨by rw [hthr]; rfl, by simp [State.waits, hctl]⟩
  have hlocks := KeepsRow.serveLocks (clusterOfRid r) hunserved
  have hown := hlocks.trans (.dropKept r (hlocks.unserved hunserved))
  rw [h.takeTrap_eq]
  generalize ((droppedClosed s r c g3 pc fetch).serveLocks (clusterOfRid r)).dropKept r = e at hown
  have hrec := hown.thr.trans hthr
  have hentry := hown.ctl.trans hctl
  have hdispatch : ∃ x y, e.dispatchTrap r c g3 = e.queueFault r c.code 0 g3 x y := by
    have hnest : (e.thrOf r).nest = none := by rw [hrec]; exact h.nest
    have hserves : (e.thrOf r).serves = none := by rw [hrec]; exact h.serves
    have hhandler : e.teamHandler r = none := by
      rw [hown.teamHandler, State.teamHandler, hhdl, hctl]
      exact h.handler
    exact ⟨_, _, by simp only [State.dispatchTrap, hnest, hserves, hhandler]; rfl⟩
  obtain ⟨x, y, hqueue⟩ := hdispatch
  have hstop : (e.thrOf r).stop = none := by rw [hrec]; simp [trappedThr, Says.Thr.afterClose, h.stop]
  rw [hqueue, Says.takeMark_of_stop_none (by exact hstop)]
  exact ⟨congrArg Ctl.state hentry, congrArg Thr.trapCause hrec, congrArg Ctl.p hentry, congrArg Thr.packet hrec⟩

theorem noteBundle (h : TrapsOpen s r) : TrapsOpen (s.noteBundle r) r := by
  have hthr : (s.noteBundle r).thrOf r = { s.thrOf r with bundleAt := ((s.noteBundle r).thrOf r).bundleAt } := by simp [State.noteBundle]
  obtain ⟨hthread, hopened, hwaiting, hstop, hnest, hserves, hhandler⟩ := h
  exact ⟨hthread, hopened, by rw [hthr, hwaiting], by rw [hthr, hstop], by rw [hthr, hnest], by rw [hthr, hserves], hhandler⟩

/-- The first word of a chunk that has no load pending and no vector operation queued. -/
theorem stopTrap (h : TrapsOpen s s.me) (hsteps : (s.thrOf s.me).chunk.steps = 0) (hloads : (s.thrOf s.me).loads = []) (hvec : s.vecBusy s.me = false) (c : Cause) (g3 : W) :
    ((s.stopTrap c g3 none false).ctlOf s.me).state = .faulted ∧ ((s.stopTrap c g3 none false).thrOf s.me).trapCause = some c ∧
      ((s.stopTrap c g3 none false).ctlOf s.me).p = false ∧ ((s.stopTrap c g3 none false).thrOf s.me).packet = none := by
  have hfirst : s.firstInChunk = true := by simp [State.firstInChunk, hsteps]
  have hquiet : s.quiet = true := by simp [State.quiet, hloads, hvec]
  unfold State.stopTrap
  rw [hfirst, hquiet]
  exact h.noteBundle.faulted c g3 _ false

end TrapsOpen

end Sys2Proof.Machine

namespace Sys2Proof.Says
open Sys2Proof.Machine

theorem packetTimeout_traps {s : State} {p : OpenPacket} (hpkt : (s.thrOf (ridOf s.sel.unit s.sel.sub)).packet = some p)
    (hrun : s.running (ridOf s.sel.unit s.sel.sub) = true) (hdone : s.stepDone (ridOf s.sel.unit s.sel.sub) = true)
    (hmid : (s.thrOf (ridOf s.sel.unit s.sel.sub)).mid = false) (hlong : 64 ≤ p.bundles) : exec .packetTimeout s = .next
      ((s.at (ridOf s.sel.unit s.sel.sub) (s.ctlOf (ridOf s.sel.unit s.sel.sub)).pc.toNat .serial0 none).stopTrap .packet 0 none false) := by
  have hexec : exec .packetTimeout s = execPacketTimeout s := rfl
  rw [hexec, execPacketTimeout]
  simp only [hpkt]
  exact if_neg (by simp [hrun, hdone, hmid, hlong])

theorem opened_of_running {s : State} {r : Nat} (h : s.running r = true) : (s.ctlOf r).state = .opened := by
  unfold State.running at h
  simpa using (Bool.and_eq_true_iff.1 h).1

theorem messageSteps : MessageSteps := by
  intro s
  refine ⟨fun b hbuf hrel honly hnobody hss hvia hheld => ⟨fun core row hcore hrow hdest hready hroom =>
      packetEntry_delivers hbuf hrel honly hvia hheld hnobody hss hcore hrow hdest hready hroom,
      packetEntry_leaves hbuf hrel honly hvia hheld hnobody hss⟩,
    fun p hpkt hrun hdone hmid hstop hlong hbase hsteps hloads hvec hnest hserves hhandler hwaiting => ?_, fun hunit hsub hidx => ?_,
    ⟨fun hwaits hsleeps hreached => ?_, deadlineWake_ahead⟩⟩
  · have htraps : TrapsOpen (s.at (ridOf s.sel.unit s.sel.sub) (s.ctlOf (ridOf s.sel.unit s.sel.sub)).pc.toNat .serial0 none) (ridOf s.sel.unit s.sel.sub) :=
      ⟨hbase, opened_of_running hrun, hwaiting, hstop, hnest, hserves, hhandler⟩
    exact ⟨_, packetTimeout_traps hpkt hrun hdone hmid hlong, htraps.stopTrap hsteps hloads hvec .packet 0⟩
  · exact ⟨_, barrierWordWrite_eq hunit hsub hidx, rfl, rfl, fun y hy => barOf_barStore_other _ _ _ _ _ hy, barOf_barStore _ _ _ _⟩
  · refine ⟨_, deadlineWake_eq hwaits hsleeps hreached, ?_, fun r hr => ?_, rfl⟩
    · rw [ctlOf_makeReady, if_pos rfl]
    · rw [ctlOf_makeReady, if_neg (Ne.symm hr)]

/-- Settles O35: the earliest message of a row (`messages_least`) and the slot of a tag decide the mailbox words; each device step is brought to the change that it
makes (`packetEntry_delivers`, `TrapsOpen.stopTrap`, `barOf_barStore`, `deadlineWake_eq`). -/
theorem mailboxAndMessages : Obligations.MailboxAndMessages := by
  unfold Obligations.MailboxAndMessages
  exact ⟨mailbox, messageSteps⟩

end Sys2Proof.Says
end

section
namespace Sys2Proof.Says
open Sys2Proof.Machine Sys2Proof.Tests
set_option maxRecDepth 100000
set_option exponentiation.threshold 4096

/-! ## A matrix push that serves another command's range-lock entries (12_vector_matrix.md R223, R229; 07_memory_model.md R146)

A push serves the cluster's range-lock table once the entries of its block stand there. A command that waits for entries behind the claim of the pushing row takes
them in that same step. The statement gives the table after the step as that before it with the block's entries behind, whatever else waits. -/

/-- Row 0 of `pushing`, with `MBIAS` in its segment, woken for the 2 range-lock entries that it has waited for since order 0; behind its claim, since order 10, command 9
waits for the entries of its served page. -/
def pushBehindClaim : State :=
  { pushing biasBlock 0 0 with
    seq := 11
    thr := [(0, { lockClaim := 2 })]
    oct := [(0, { queue := [servedCopy] })]
    clu := [(0, { tlb := [hbmPage], late := [(10, servedLocks)] })] }

/-- Until the row has pushed, its claim stands before command 9, which gets nothing. -/
theorem locks_serveLocks_pushBehindClaim : ((pushBehindClaim.serveLocks 0).cluOf 0).locks = [] := by decide

/-- The window is translated by the row's core, so the access changes nothing. -/
theorem access_pushBehindClaim : pushBehindClaim.access 0x30000 64 .store = .ok (0x10C00000000, pushBehindClaim) := ok_of (by decide)

theorem settled_pushBehindClaim : Settled pushBehindClaim := ⟨⟨rfl, rfl, .inr ⟨rfl, .inl rfl⟩⟩, by decide⟩

/-- `MBIAS` has two entries, one for its accumulator and one for its vector, which are granted to the row. -/
theorem commandLocks_pushBehindClaim :
    ∃ l, pushBehindClaim.commandLocks 0 0 (fun _ => true) (cmdRanges (ctxAfter (pushBehindClaim.cs 0).mctx []) biasBlock) (accLock 0 biasBlock) = .ok l ∧
      l.length = 2 ∧ pushBehindClaim.locksGrant 0 l.length = true := ⟨_, rfl, by decide, by decide⟩

/-- The step adds four entries to the empty table: the block's two, and the two of command 9. -/
theorem vst_pushBehindClaim : ∃ t, exec (.vst 1 5 0) pushBehindClaim = .next t ∧ (t.cluOf 0).locks.length = 4 := ⟨_, rfl, by decide⟩

theorem not_matrixPush : ¬ MatrixPush := by
  intro hpush
  have hblock : BitVec.ofNat 512 biasBlock.toNat = biasBlock := BitVec.ofNat_toNat ..
  have hnopost : ¬ (dwBits biasBlock 0 7 0 = 6 ∧ dwBits biasBlock 1 1 1 = 1) := by decide
  obtain ⟨-, hallowed⟩ := hpush pushBehindClaim pushBehindClaim pushBehindClaim 1 5 0 0 0 0x30000 0x10C00000000 biasBlock.toNat 0 rfl (by decide)
    (.inl 0) (.inl rfl) ⟨0x30000, rfl, rfl⟩ rfl access_pushBehindClaim (by decide)
  rw [hblock] at hallowed
  obtain ⟨-, hroom⟩ := hallowed (by decide) settled_pushBehindClaim (by decide)
  obtain ⟨-, -, hgranted⟩ := hroom (by decide) (by decide)
  obtain ⟨locks, hlocks, htwo, hgrant⟩ := commandLocks_pushBehindClaim
  obtain ⟨-, hjoins⟩ := hgranted none locks (fun hpost => absurd hpost hnopost) (fun _ => rfl) hlocks
  obtain ⟨t, hexec, -, -, -, -, -, -, htable, -⟩ := hjoins (.inr hgrant)
  obtain ⟨u, hexec', hfour⟩ := vst_pushBehindClaim
  have hsame : t = u := by injection hexec.symm.trans hexec'
  have hlength : (t.cluOf 0).locks.length = 2 := by
    refine (congrArg List.length htable).trans ?_
    rw [List.length_append, List.length_map, htwo]
    rfl
  exact absurd (hlength.symm.trans (hsame ▸ hfour)) (by decide)

/-- Refutes O54, in its part on the push: where a command waits for range-lock entries behind the claim of the pushing row (`pushBehindClaim`, where until then it gets
none: `locks_serveLocks_pushBehindClaim`), the push gives that command its entries too, and the table holds more than the statement says. -/
theorem not_matrixUnit : ¬ Obligations.MatrixUnit := by
  unfold Obligations.MatrixUnit
  rintro ⟨hpush, -⟩
  exact not_matrixPush hpush

end Sys2Proof.Says
end

section
namespace Sys2Proof.Says
open Sys2Proof.Machine

/-! ## Rounding (11_formats.md R188, R189, R194; 04_scalar.md R89)

The value of an encoding is its sign times an integer times a power of two, and the magnitudes of a format are the numbers below its sign bit in their order.
Rounding cuts a magnitude at the place that the format's precision and its least exponent allow, moves the quotient up or not, and packs it. -/

/-! ### Fractions by their quotient and their leading bit -/

section
variable {a b : Nat} {q l : Int}

theorem zpow_of_nonneg (h : 0 ≤ l) : (2 : ℚ) ^ l = ((2 ^ l.toNat : Nat) : ℚ) := by
  rw [Nat.cast_pow, Nat.cast_ofNat, ← zpow_natCast, Int.toNat_of_nonneg h]

theorem zpow_of_neg (h : ¬ 0 ≤ l) : (2 : ℚ) ^ l = ((2 ^ (-l).toNat : Nat) : ℚ)⁻¹ := by
  rw [← zpow_of_nonneg (by omega), zpow_neg, inv_inv]

theorem gePow_iff (hb : 0 < b) : gePow a b l = true ↔ (2 : ℚ) ^ l ≤ a / b := by
  have hb' : (0 : ℚ) < b := by exact_mod_cast hb
  unfold gePow
  split
  · next h =>
    rw [decide_eq_true_iff, zpow_of_nonneg h, le_div_iff₀ hb', mul_comm]
    exact_mod_cast Iff.rfl
  · next h =>
    have hpow : (0 : ℚ) < (2 ^ (-l).toNat : Nat) := by positivity
    rw [decide_eq_true_iff, zpow_of_neg h, le_div_iff₀ hb', inv_mul_le_iff₀ hpow, mul_comm]
    exact_mod_cast Iff.rfl

theorem log2_bounds (ha : 0 < a) : (2 : ℚ) ^ (Nat.log2 a : Int) ≤ a ∧ (a : ℚ) < 2 ^ ((Nat.log2 a : Int) + 1) := by
  have hlow := Nat.log2_self_le ha.ne'
  have hhigh := Nat.lt_log2_self (n := a)
  constructor
  · rw [zpow_natCast]
    exact_mod_cast hlow
  · rw [← Nat.cast_succ, zpow_natCast]
    exact_mod_cast hhigh

/-- The exponents of the powers of two up to a positive fraction. -/
theorem le_ilog2_iff (ha : 0 < a) (hb : 0 < b) : l ≤ ilog2 a b ↔ (2 : ℚ) ^ l ≤ a / b := by
  have ha' : (0 : ℚ) < a := by exact_mod_cast ha
  have hb' : (0 : ℚ) < b := by exact_mod_cast hb
  obtain ⟨hla, hua⟩ := log2_bounds ha
  obtain ⟨hlb, hub⟩ := log2_bounds hb
  have hbelow : (2 : ℚ) ^ ((Nat.log2 a : Int) - Nat.log2 b - 1) ≤ a / b := by
    rw [sub_sub, zpow_sub₀ two_ne_zero]
    exact div_le_div₀ ha'.le hla hb' hub.le
  have habove : (a : ℚ) / b < 2 ^ ((Nat.log2 a : Int) - Nat.log2 b + 1) := by
    rw [sub_add_eq_add_sub, zpow_sub₀ two_ne_zero]
    exact div_lt_div₀ hua hlb (by positivity) (by positivity)
  have hmono {m n : Int} (h : m ≤ n) : (2 : ℚ) ^ m ≤ 2 ^ n := zpow_le_zpow_right₀ one_le_two h
  unfold ilog2
  dsimp only
  split
  · next h =>
    refine ⟨fun hl => (hmono hl).trans ((gePow_iff hb).1 h), fun hl => ?_⟩
    exact Int.lt_add_one_iff.1 ((zpow_lt_zpow_iff_right₀ one_lt_two).1 (hl.trans_lt habove))
  · next h =>
    rw [gePow_iff hb, not_le] at h
    refine ⟨fun hl => (hmono hl).trans hbelow, fun hl => ?_⟩
    exact Int.le_sub_one_iff.2 ((zpow_lt_zpow_iff_right₀ one_lt_two).1 (hl.trans_lt h))

theorem ilog2_lt_iff (ha : 0 < a) (hb : 0 < b) : ilog2 a b < l ↔ (a : ℚ) / b < 2 ^ l := by
  rw [← not_le, ← not_le, le_ilog2_iff ha hb]

/-- A fraction at the scale of `2^q`: its quotient and a part that is less than 1. -/
theorem scaleDiv_spec (hb : 0 < b) : 0 < (scaleDiv a b q).2.2 ∧ (scaleDiv a b q).2.1 < (scaleDiv a b q).2.2 ∧
    (a : ℚ) / b = ((scaleDiv a b q).1 + (scaleDiv a b q).2.1 / (scaleDiv a b q).2.2 : ℚ) * 2 ^ q := by
  have hdiv (n d : Nat) (hd : 0 < d) : (n : ℚ) / d = (n / d : Nat) + (n % d : Nat) / d := by
    have hd' : (d : ℚ) ≠ 0 := by exact_mod_cast hd.ne'
    rw [div_eq_iff hd', add_mul, div_mul_cancel₀ _ hd']
    exact_mod_cast (Nat.div_add_mod' n d).symm
  unfold scaleDiv
  split
  · next h =>
    have hd : 0 < b * 2 ^ q.toNat := by positivity
    refine ⟨hd, Nat.mod_lt _ hd, ?_⟩
    dsimp only
    rw [← hdiv _ _ hd, zpow_of_nonneg h]
    push_cast
    field_simp
  · next h =>
    refine ⟨hb, Nat.mod_lt _ hb, ?_⟩
    dsimp only
    rw [← hdiv _ _ hb, zpow_of_neg h]
    push_cast
    field_simp

end

/-! ### The quotient moved up or not -/

/-- `a / b × 2^(-q)` as the integer that R194 rounds it to. -/
def cut (rm : Rm) (neg : Bool) (a b : Nat) (q : Int) : Nat :=
  if roundsUp rm neg (scaleDiv a b q).1 (scaleDiv a b q).2.1 (scaleDiv a b q).2.2 then (scaleDiv a b q).1 + 1 else (scaleDiv a b q).1

/-- The part of `a / b × 2^(-q)` below its quotient. -/
def cutPart (a b : Nat) (q : Int) : ℚ := (scaleDiv a b q).2.1 / (scaleDiv a b q).2.2

section
variable {a b : Nat} {q : Int} {rm : Rm} {neg : Bool}

theorem cutPart_nonneg : 0 ≤ cutPart a b q := by
  unfold cutPart
  positivity

section
variable (hb : 0 < b)
include hb

theorem div_eq_cutPart : (a : ℚ) / b = ((scaleDiv a b q).1 + cutPart a b q) * 2 ^ q := (scaleDiv_spec hb).2.2

theorem div_zpow_eq_cutPart : (a : ℚ) / b / 2 ^ q = (scaleDiv a b q).1 + cutPart a b q := by
  rw [div_eq_cutPart (q := q) hb, mul_div_cancel_right₀ _ (by positivity)]

theorem cutPart_lt_one : cutPart a b q < 1 := by
  obtain ⟨hd, hr, -⟩ := scaleDiv_spec (a := a) (q := q) hb
  rw [cutPart, div_lt_one (by exact_mod_cast hd)]
  exact_mod_cast hr

theorem cutPart_eq_zero_iff : cutPart a b q = 0 ↔ (scaleDiv a b q).2.1 = 0 := by
  obtain ⟨hd, -⟩ := scaleDiv_spec (a := a) (q := q) hb
  have hd' : ((scaleDiv a b q).2.2 : ℚ) ≠ 0 := by exact_mod_cast hd.ne'
  rw [cutPart, div_eq_zero_iff, or_iff_left hd', Nat.cast_eq_zero]

/-- Where nothing lies below the quotient, no rounding moves it. -/
theorem cut_of_exact (h : cutPart a b q = 0) : cut rm neg a b q = (scaleDiv a b q).1 := by
  obtain ⟨hd, -⟩ := scaleDiv_spec (a := a) (q := q) hb
  rw [cutPart_eq_zero_iff hb] at h
  have hstays : roundsUp rm neg (scaleDiv a b q).1 0 (scaleDiv a b q).2.2 = false := by
    cases rm with
    | rne => simp [roundsUp, hd.ne]
    | rtz => rfl
    | rdn => simp [roundsUp]
    | rup => simp [roundsUp]
    | rmm => simp [roundsUp, hd.ne']
  rw [cut, h, hstays, if_neg Bool.false_ne_true]

/-- The rounding errs by the part below the quotient, or by what that part lacks to 1. -/
theorem cut_eq_or : (cut rm neg a b q : ℚ) = a / b / 2 ^ q - cutPart a b q ∨ (cut rm neg a b q : ℚ) = a / b / 2 ^ q + (1 - cutPart a b q) := by
  rw [div_zpow_eq_cutPart hb]
  unfold cut
  split
  · right
    push_cast
    ring
  · left
    ring

theorem cut_mul_eq_iff : cut rm neg a b q * (2 : ℚ) ^ q = a / b ↔ cutPart a b q = 0 := by
  have hpow : (2 : ℚ) ^ q ≠ 0 := by positivity
  have hlt := cutPart_lt_one (a := a) (q := q) hb
  rw [← eq_div_iff hpow]
  refine ⟨fun h => ?_, fun h => ?_⟩
  · obtain hdown | hup := cut_eq_or (rm := rm) (neg := neg) (a := a) (q := q) hb
    · linarith
    · linarith
  · rw [div_eq_cutPart (q := q) hb, mul_div_cancel_right₀ _ hpow, h, cut_of_exact hb h, add_zero]

/-- A mode that never moves the quotient up. -/
theorem cut_le (h : ∀ n r d, roundsUp rm neg n r d = false) : cut rm neg a b q * (2 : ℚ) ^ q ≤ a / b := by
  rw [cut, h, if_neg Bool.false_ne_true, div_eq_cutPart (q := q) hb]
  gcongr
  exact le_add_of_nonneg_right cutPart_nonneg

/-- A mode that moves it up wherever something lies below it. -/
theorem le_cut (h : ∀ n r d, r ≠ 0 → roundsUp rm neg n r d = true) : a / b ≤ cut rm neg a b q * (2 : ℚ) ^ q := by
  by_cases hpart : cutPart a b q = 0
  · exact ((cut_mul_eq_iff hb).2 hpart).ge
  · rw [cutPart_eq_zero_iff hb] at hpart
    rw [cut, h _ _ _ hpart, if_pos rfl, div_eq_cutPart (q := q) hb]
    gcongr
    push_cast
    gcongr
    exact (cutPart_lt_one hb).le

/-- The rounding to nearest errs by at most the part below the quotient, and by at most what that part lacks to 1. -/
theorem abs_cut_rne_sub_le : |(cut .rne neg a b q : ℚ) - a / b / 2 ^ q| ≤ min (cutPart a b q) (1 - cutPart a b q) := by
  obtain ⟨hd, -⟩ := scaleDiv_spec (a := a) (q := q) hb
  have hd' : (0 : ℚ) < (scaleDiv a b q).2.2 := by exact_mod_cast hd
  have hlt := cutPart_lt_one (a := a) (q := q) hb
  have hnonneg := cutPart_nonneg (a := a) (b := b) (q := q)
  rw [div_zpow_eq_cutPart hb, cut, le_min_iff]
  split
  · next hup =>
    have hhalf : (scaleDiv a b q).2.2 ≤ 2 * (scaleDiv a b q).2.1 := by
      simp only [roundsUp, Bool.or_eq_true, Bool.and_eq_true, decide_eq_true_eq] at hup
      omega
    have hpart : 1 ≤ 2 * cutPart a b q := by
      rw [cutPart, ← mul_div_assoc, one_le_div hd']
      exact_mod_cast hhalf
    push_cast
    rw [add_sub_add_left_eq_sub, abs_of_pos (by linarith)]
    exact ⟨by linarith, le_rfl⟩
  · next hdown =>
    have hhalf : 2 * (scaleDiv a b q).2.1 ≤ (scaleDiv a b q).2.2 := by
      simp only [roundsUp, Bool.or_eq_true, decide_eq_true_eq, not_or] at hdown
      omega
    have hpart : 2 * cutPart a b q ≤ 1 := by
      rw [cutPart, ← mul_div_assoc, div_le_one hd']
      exact_mod_cast hhalf
    rw [sub_add_cancel_left, abs_neg, abs_of_nonneg hnonneg]
    exact ⟨le_rfl, by linarith⟩

/-- No integer is nearer. -/
theorem cut_rne_nearest (k : Int) : |(cut .rne neg a b q : ℚ) - a / b / 2 ^ q| ≤ |(k : ℚ) - a / b / 2 ^ q| := by
  refine (abs_cut_rne_sub_le hb).trans ?_
  rw [div_zpow_eq_cutPart hb]
  obtain h | h := le_or_gt k (scaleDiv a b q).1
  · have hk : (k : ℚ) ≤ (scaleDiv a b q).1 := by exact_mod_cast h
    refine (min_le_left _ _).trans (le_abs.2 (.inr ?_))
    linarith
  · have hk : ((scaleDiv a b q).1 : ℚ) + 1 ≤ k := by exact_mod_cast h
    refine (min_le_right _ _).trans (le_abs.2 (.inl ?_))
    linarith

end

end

/-! ### Magnitudes: the encodings without their sign -/

/-- The formats with a NaN: those as binary64 is, and E4M3. -/
def HasNaN (f : Fmt) : Prop := f.kind = .ieee ∧ 0 < f.eb ∨ f = e4m3

/-- The encoding without its sign. -/
def magnitude (f : Fmt) (x : Nat) : Nat := x % 2 ^ (f.eb + f.mb)

/-- The integer of a magnitude, its leading bit made explicit. -/
def sigOf (f : Fmt) (k : Nat) : Nat := if k / 2 ^ f.mb = 0 then k % 2 ^ f.mb else 2 ^ f.mb + k % 2 ^ f.mb

/-- The exponent of the last place of a magnitude. -/
def placeOf (f : Fmt) (k : Nat) : Int := max (k / 2 ^ f.mb : Nat) 1 - (f.bias : Int) - f.mb

def signum (neg : Bool) : ℚ := if neg then -1 else 1

section
variable {f : Fmt} {x k : Nat}

theorem ratOf_fin_eq (neg : Bool) (a b : Nat) : ratOf (.fin neg a b) = signum neg * (a / b) := mul_div_assoc ..

theorem abs_signum_mul (neg : Bool) (v : ℚ) : |signum neg * v| = |v| := by
  cases neg <;> simp [signum]

theorem signum_mul_signum_mul (neg : Bool) (v : ℚ) : signum neg * (signum neg * v) = v := by
  cases neg <;> simp [signum]

theorem scaled_eq (neg : Bool) (m : Nat) (e : Int) : ∃ a b, scaled neg m e = .fin neg a b ∧ 0 < b ∧ (a : ℚ) / b = m * 2 ^ e := by
  unfold scaled
  split
  · next h => exact ⟨_, _, rfl, Nat.one_pos, by rw [zpow_of_nonneg h]; push_cast; ring⟩
  · next h => exact ⟨_, _, rfl, by positivity, by rw [zpow_of_neg h, div_eq_mul_inv]⟩

theorem expField_eq (f : Fmt) (x : Nat) : expField f x = magnitude f x / 2 ^ f.mb := by
  rw [expField, magnitude, Nat.add_comm, Nat.pow_add, Nat.mod_mul_right_div_self]

theorem mantField_eq (f : Fmt) (x : Nat) : mantField f x = magnitude f x % 2 ^ f.mb := by
  rw [mantField, magnitude, Nat.add_comm, Nat.pow_add, Nat.mod_mul_right_mod]

theorem magnitude_div_lt (f : Fmt) (x : Nat) : magnitude f x / 2 ^ f.mb < 2 ^ f.eb := by
  rw [Nat.div_lt_iff_lt_mul (by positivity), ← Nat.pow_add]
  exact Nat.mod_lt _ (by positivity)

/-- The finite encodings are those up to the greatest finite magnitude. -/
theorem finite_iff_magnitude_le (hf : HasNaN f) : finite (valOf f x) ↔ magnitude f x ≤ maxFinite f := by
  rw [finite_valOf_iff]
  obtain ⟨hkind, heb⟩ | rfl := hf
  · have hexp : (isNaN f x = false ∧ isInf f x = false) ↔ expField f x ≠ 2 ^ f.eb - 1 := by
      simp only [isNaN, isInf, hkind]
      by_cases he : expField f x = 2 ^ f.eb - 1
      · simp [he]
      · simp [he]
    have htop := magnitude_div_lt f x
    have hpos : 0 < (2 ^ f.eb - 1) * 2 ^ f.mb := Nat.mul_pos (Nat.sub_pos_of_lt (Nat.one_lt_two_pow heb.ne')) (by positivity)
    have hmax : maxFinite f = (2 ^ f.eb - 1) * 2 ^ f.mb - 1 := by simp only [maxFinite, hkind]
    rw [hexp, expField_eq, hmax, Nat.le_sub_one_iff_lt hpos, ← Nat.div_lt_iff_lt_mul (by positivity)]
    omega
  · have hmag : magnitude e4m3 x < 128 := Nat.mod_lt _ (by decide)
    have hexp : expField e4m3 x = magnitude e4m3 x / 8 := expField_eq _ _
    have hmant : mantField e4m3 x = magnitude e4m3 x % 8 := mantField_eq _ _
    have hnan : isNaN e4m3 x = (expField e4m3 x == 15 && mantField e4m3 x == 7) := rfl
    have hmax : maxFinite e4m3 = 126 := rfl
    have hinf : isInf e4m3 x = false := rfl
    rw [hnan, hinf, and_iff_left rfl, hmax, hexp, hmant, Bool.and_eq_false_iff, beq_eq_false_iff_ne, beq_eq_false_iff_ne]
    omega

theorem valOf_eq (h : finite (valOf f x)) : valOf f x = scaled (signBit f x) (sigOf f (magnitude f x)) (placeOf f (magnitude f x)) := by
  obtain ⟨hnan, hinf⟩ := finite_valOf_iff.1 h
  rw [valOf, hnan, hinf, if_neg Bool.false_ne_true, if_neg Bool.false_ne_true, expField_eq, mantField_eq, sigOf, placeOf]
  dsimp only
  split
  · next he => rw [he]; rfl
  · next he => rw [max_eq_left (Nat.one_le_iff_ne_zero.2 he)]

theorem ratOf_valOf (h : finite (valOf f x)) :
    ratOf (valOf f x) = signum (signBit f x) * (sigOf f (magnitude f x) * 2 ^ placeOf f (magnitude f x)) := by
  obtain ⟨a, b, hv, -, hval⟩ := scaled_eq (signBit f x) (sigOf f (magnitude f x)) (placeOf f (magnitude f x))
  rw [valOf_eq h, hv, ratOf_fin_eq, hval]

theorem magnitude_withSign (hk : k < 2 ^ (f.eb + f.mb)) (neg : Bool) : magnitude f (withSign f neg k) = k := by
  cases neg
  · exact Nat.mod_eq_of_lt hk
  · exact (Nat.add_mod_left _ _).trans (Nat.mod_eq_of_lt hk)

theorem signBit_withSign (hk : k < 2 ^ (f.eb + f.mb)) (neg : Bool) : signBit f (withSign f neg k) = neg := by
  cases neg
  · simp [signBit, withSign, Nat.div_eq_of_lt hk]
  · simp [signBit, withSign, Nat.div_eq_of_lt hk, Nat.add_div_left]

/-- An encoding is its magnitude under its sign. -/
theorem withSign_magnitude (hx : x < 2 ^ f.width) : withSign f (signBit f x) (magnitude f x) = x := by
  have hsum := Nat.div_add_mod x (2 ^ (f.eb + f.mb))
  have htop : x / 2 ^ (f.eb + f.mb) < 2 := by
    rw [Nat.div_lt_iff_lt_mul (by positivity), ← Nat.pow_succ']
    rwa [Fmt.width, Nat.add_assoc, Nat.add_comm 1] at hx
  unfold withSign magnitude signBit
  obtain h | h := Nat.le_one_iff_eq_zero_or_eq_one.1 (Nat.lt_succ_iff.1 htop)
  · rw [h] at hsum ⊢
    simpa using hsum
  · rw [h] at hsum ⊢
    simpa using hsum

theorem maxFinite_lt (hf : HasNaN f) : maxFinite f < 2 ^ (f.eb + f.mb) := by
  obtain ⟨hkind, heb⟩ | rfl := hf
  · have hmax : maxFinite f = (2 ^ f.eb - 1) * 2 ^ f.mb - 1 := by simp only [maxFinite, hkind]
    have hpow : 0 < 2 ^ (f.eb + f.mb) := by positivity
    rw [hmax, Nat.sub_mul, ← Nat.pow_add]
    omega
  · decide

theorem sigOf_lt (f : Fmt) (k : Nat) : sigOf f k < 2 ^ (f.mb + 1) := by
  have hmod : k % 2 ^ f.mb < 2 ^ f.mb := Nat.mod_lt _ (by positivity)
  rw [sigOf, Nat.pow_succ]
  split
  · omega
  · omega

theorem le_placeOf (f : Fmt) (k : Nat) : 1 - (f.bias : Int) - f.mb ≤ placeOf f k := by
  unfold placeOf
  omega

end

/-! ### Packing, and what a rounding gives -/

/-- The exponent of the last place that `a / b` is cut at: the precision's, but not below the least of the format. -/
def cutPlace (f : Fmt) (a b : Nat) : Int := max (ilog2 a b) (1 - f.bias) - f.mb

/-- The magnitude of `n × 2^q`. -/
def packed (f : Fmt) (n : Nat) (q : Int) : Nat :=
  let carry := n == 2 ^ (f.mb + 1)
  let m := if carry then n / 2 else n
  let qe := if carry then q + 1 else q
  if m < 2 ^ f.mb then m else (qe + f.mb + f.bias).toNat * 2 ^ f.mb + (m - 2 ^ f.mb)

section
variable {f : Fmt} {x k a b n : Nat} {q : Int} {rm : Rm} {neg : Bool}

theorem packed_of_lt (h : n < 2 ^ f.mb) : packed f n q = n := by
  have hcarry : n ≠ 2 ^ (f.mb + 1) := by
    rw [Nat.pow_succ]
    omega
  simp [packed, hcarry, h]

theorem packed_of_le (hlow : 2 ^ f.mb ≤ n) (hhigh : n < 2 ^ (f.mb + 1)) : packed f n q = (q + f.mb + f.bias).toNat * 2 ^ f.mb + (n - 2 ^ f.mb) := by
  simp [packed, hhigh.ne, hlow.not_gt]

/-- A carry out of the precision is the power of two above. -/
theorem packed_of_carry : packed f (2 ^ (f.mb + 1)) q = packed f (2 ^ f.mb) (q + 1) := by
  have hhalf : 2 ^ (f.mb + 1) / 2 = 2 ^ f.mb := by rw [Nat.pow_succ, Nat.mul_div_cancel _ two_pos]
  have hne : 2 ^ f.mb ≠ 2 ^ (f.mb + 1) := by
    have hpos : 0 < 2 ^ f.mb := by positivity
    rw [Nat.pow_succ]
    omega
  simp [packed, hhalf, hne]

/-- Packing a magnitude's own integer at its own place gives it back. -/
theorem packed_sigOf : packed f (sigOf f k) (placeOf f k) = k := by
  have hmod : k % 2 ^ f.mb < 2 ^ f.mb := Nat.mod_lt _ (by positivity)
  have hsum := Nat.div_add_mod' k (2 ^ f.mb)
  by_cases he : k / 2 ^ f.mb = 0
  · rw [sigOf, if_pos he, packed_of_lt hmod]
    rwa [he, zero_mul, zero_add] at hsum
  · rw [sigOf, if_neg he, packed_of_le (by omega) (by rw [Nat.pow_succ]; omega), placeOf, max_eq_left (Nat.one_le_iff_ne_zero.2 he)]
    rw [sub_add_cancel, sub_add_cancel, Int.toNat_natCast, Nat.add_sub_cancel_left, hsum]

theorem value_packed_of_le (hlow : 2 ^ f.mb ≤ n) (hhigh : n < 2 ^ (f.mb + 1)) (hq : 1 - (f.bias : Int) - f.mb ≤ q) :
    sigOf f (packed f n q) = n ∧ placeOf f (packed f n q) = q := by
  rw [packed_of_le hlow hhigh]
  have hpos : 0 < 2 ^ f.mb := by positivity
  have hrest : n - 2 ^ f.mb < 2 ^ f.mb := by
    rw [Nat.pow_succ] at hhigh
    omega
  have hdiv : ((q + f.mb + f.bias).toNat * 2 ^ f.mb + (n - 2 ^ f.mb)) / 2 ^ f.mb = (q + f.mb + f.bias).toNat := by
    rw [Nat.add_comm, Nat.add_mul_div_right _ _ hpos, Nat.div_eq_of_lt hrest, zero_add]
  have hmod : ((q + f.mb + f.bias).toNat * 2 ^ f.mb + (n - 2 ^ f.mb)) % 2 ^ f.mb = n - 2 ^ f.mb := by
    rw [Nat.add_comm, Nat.add_mul_mod_self_right, Nat.mod_eq_of_lt hrest]
  rw [sigOf, placeOf, hdiv, hmod, if_neg (by omega)]
  omega

/-- The value of a packed magnitude. -/
theorem value_packed (hn : n ≤ 2 ^ (f.mb + 1)) (hq : 1 - (f.bias : Int) - f.mb ≤ q) (hsub : n < 2 ^ f.mb → q = 1 - (f.bias : Int) - f.mb) :
    (sigOf f (packed f n q) : ℚ) * 2 ^ placeOf f (packed f n q) = n * 2 ^ q := by
  obtain h | h := lt_or_ge n (2 ^ f.mb)
  · rw [packed_of_lt h, sigOf, placeOf, Nat.div_eq_of_lt h, if_pos rfl, Nat.mod_eq_of_lt h, hsub h]
    rfl
  obtain rfl | hlt := hn.eq_or_lt
  · have hpow : 2 ^ f.mb < 2 ^ (f.mb + 1) := Nat.pow_lt_pow_succ one_lt_two
    obtain ⟨hsig, hplace⟩ := value_packed_of_le (q := q + 1) le_rfl hpow (by omega)
    rw [packed_of_carry, hsig, hplace, zpow_add_one₀ two_ne_zero]
    push_cast
    ring
  · obtain ⟨hsig, hplace⟩ := value_packed_of_le h hlt hq
    rw [hsig, hplace]

/-- A rounding either overflows or gives the packed magnitude under the sign. -/
theorem roundFin_eq (ha : a ≠ 0) : ∃ (big : Rounded) (tiny : Bool), big.overflow = true ∧ roundFin f rm false neg a b =
    if maxFinite f < packed f (cut rm neg a b (cutPlace f a b)) (cutPlace f a b) then big
    else { enc := withSign f neg (packed f (cut rm neg a b (cutPlace f a b)) (cutPlace f a b)),
           inexact := (scaleDiv a b (cutPlace f a b)).2.1 != 0, tiny := tiny } := by
  refine ⟨_, _, ?_, if_neg ha⟩
  split
  · rfl
  split
  · rfl
  split
  · rfl
  · rfl

theorem roundFin_zero : roundFin f rm false neg 0 b = { enc := withSign f neg 0 } := rfl

/-- Only a number below the least normal one is cut to fewer than the precision's bits. -/
theorem le_quotient_of_normal (ha : a ≠ 0) (hb : 0 < b) (hq : cutPlace f a b ≠ 1 - (f.bias : Int) - f.mb) : 2 ^ f.mb ≤ (scaleDiv a b (cutPlace f a b)).1 := by
  have hplace : ilog2 a b = f.mb + cutPlace f a b := by
    unfold cutPlace at hq ⊢
    omega
  have hlow : (2 : ℚ) ^ ilog2 a b ≤ a / b := (le_ilog2_iff (Nat.pos_of_ne_zero ha) hb).1 le_rfl
  rw [hplace, zpow_add₀ two_ne_zero, zpow_natCast, ← le_div_iff₀ (by positivity), div_zpow_eq_cutPart hb] at hlow
  have hlt := cutPart_lt_one (a := a) (q := cutPlace f a b) hb
  rw [← Nat.lt_succ_iff]
  exact_mod_cast hlow.trans_lt (add_lt_add_right hlt _)

theorem quotient_lt (ha : a ≠ 0) (hb : 0 < b) : (scaleDiv a b (cutPlace f a b)).1 < 2 ^ (f.mb + 1) := by
  have hplace : ilog2 a b < (f.mb + 1 : Nat) + cutPlace f a b := by
    unfold cutPlace
    omega
  have hhigh := (ilog2_lt_iff (Nat.pos_of_ne_zero ha) hb).1 hplace
  rw [zpow_add₀ two_ne_zero, zpow_natCast, ← div_lt_iff₀ (by positivity), div_zpow_eq_cutPart hb] at hhigh
  exact_mod_cast (le_add_of_nonneg_right cutPart_nonneg).trans_lt hhigh

theorem quotient_le_cut : (scaleDiv a b q).1 ≤ cut rm neg a b q := by
  unfold cut
  split
  · exact Nat.le_succ _
  · exact le_rfl

theorem cut_le_quotient_succ : cut rm neg a b q ≤ (scaleDiv a b q).1 + 1 := by
  unfold cut
  split
  · exact le_rfl
  · exact Nat.le_succ _

theorem scaleDiv_zero (b : Nat) (q : Int) : (scaleDiv 0 b q).1 = 0 ∧ (scaleDiv 0 b q).2.1 = 0 := by
  unfold scaleDiv
  split
  · simp
  · simp

theorem cutPart_zero (hb : 0 < b) : cutPart 0 b q = 0 := (cutPart_eq_zero_iff hb).2 (scaleDiv_zero b q).2

theorem sigOf_zero (f : Fmt) : sigOf f 0 = 0 := by simp [sigOf]

theorem eq_zero_of_sigOf (h : sigOf f k = 0) : k = 0 := by
  have hpack := packed_sigOf (f := f) (k := k)
  rw [h, packed_of_lt (by positivity)] at hpack
  exact hpack.symm

/-- A rounding that does not overflow: the integer that the magnitude was cut to, at its place, under the sign. -/
theorem roundFin_value (hf : HasNaN f) (hb : 0 < b) (hover : (roundFin f rm false neg a b).overflow = false) :
    ratOf (valOf f (roundFin f rm false neg a b).enc) = signum neg * (cut rm neg a b (cutPlace f a b) * 2 ^ cutPlace f a b) ∧
    ((roundFin f rm false neg a b).inexact = true ↔ cutPart a b (cutPlace f a b) ≠ 0) := by
  have hvalue {k : Nat} (hk : k ≤ maxFinite f) : ratOf (valOf f (withSign f neg k)) = signum neg * (sigOf f k * 2 ^ placeOf f k) := by
    have hlt := hk.trans_lt (maxFinite_lt hf)
    have hfinite : finite (valOf f (withSign f neg k)) := (finite_iff_magnitude_le hf).2 ((magnitude_withSign hlt neg).trans_le hk)
    rw [ratOf_valOf hfinite, magnitude_withSign hlt, signBit_withSign hlt]
  by_cases ha : a = 0
  · subst ha
    have hexact := cutPart_zero (q := cutPlace f 0 b) hb
    rw [roundFin_zero, hvalue (Nat.zero_le _), sigOf_zero, cut_of_exact hb hexact, hexact, (scaleDiv_zero b _).1]
    simp
  · obtain ⟨big, tiny, hbig, heq⟩ := roundFin_eq (f := f) (rm := rm) (neg := neg) (b := b) ha
    rw [heq] at hover ⊢
    split at hover
    · exact absurd (hbig.symm.trans hover) Bool.true_eq_false.mp
    next hfits =>
    rw [if_neg hfits]
    dsimp only
    rw [hvalue (not_lt.1 hfits), value_packed (cut_le_quotient_succ.trans (quotient_lt ha hb))]
    · exact ⟨rfl, by rw [bne_iff_ne, ne_eq, ne_eq, cutPart_eq_zero_iff hb]⟩
    · unfold cutPlace
      omega
    · intro hsmall
      by_contra hq
      exact absurd (hsmall.trans_le (le_quotient_of_normal ha hb hq)) (not_lt.2 quotient_le_cut)

/-! ### A value that an encoding holds -/

/-- A magnitude is cut at its own place. -/
theorem cutPlace_of_magnitude (ha : a ≠ 0) (hb : 0 < b) (hval : (a : ℚ) / b = sigOf f k * 2 ^ placeOf f k) : cutPlace f a b = placeOf f k := by
  have hpos := Nat.pos_of_ne_zero ha
  have hupto (n : Nat) (h : sigOf f k < 2 ^ n) : ilog2 a b < n + placeOf f k := by
    rw [ilog2_lt_iff hpos hb, hval, zpow_add₀ two_ne_zero, zpow_natCast]
    gcongr
    exact_mod_cast h
  have hmod : k % 2 ^ f.mb < 2 ^ f.mb := Nat.mod_lt _ (by positivity)
  by_cases he : k / 2 ^ f.mb = 0
  · have hlt := hupto f.mb (by rwa [sigOf, if_pos he])
    rw [placeOf, he] at hlt ⊢
    unfold cutPlace
    omega
  · have hlt := hupto (f.mb + 1) (sigOf_lt f k)
    have hle : (f.mb : Int) + placeOf f k ≤ ilog2 a b := by
      rw [le_ilog2_iff hpos hb, hval, zpow_add₀ two_ne_zero, zpow_natCast]
      gcongr
      rw [sigOf, if_neg he]
      exact_mod_cast Nat.le_add_right _ _
    have hplace := le_placeOf f k
    unfold cutPlace
    omega

/-- A finite value of the format keeps its encoding under every rounding. -/
theorem roundFin_of_magnitude (hb : 0 < b) (hval : (a : ℚ) / b = sigOf f k * 2 ^ placeOf f k) (hk : k ≤ maxFinite f) :
    (roundFin f rm false neg a b).enc = withSign f neg k ∧ (roundFin f rm false neg a b).inexact = false ∧ (roundFin f rm false neg a b).overflow = false := by
  by_cases ha : a = 0
  · subst ha
    have hsig : sigOf f k = 0 := by
      rw [Nat.cast_zero, zero_div, eq_comm, mul_eq_zero, or_iff_left (by positivity)] at hval
      exact_mod_cast hval
    rw [eq_zero_of_sigOf hsig, roundFin_zero]
    exact ⟨rfl, rfl, rfl⟩
  · obtain ⟨big, tiny, -, heq⟩ := roundFin_eq (f := f) (rm := rm) (neg := neg) (b := b) ha
    have hplace := cutPlace_of_magnitude ha hb hval
    have hsum : (sigOf f k : ℚ) = (scaleDiv a b (placeOf f k)).1 + cutPart a b (placeOf f k) := by
      rw [← div_zpow_eq_cutPart hb, hval, mul_div_cancel_right₀ _ (by positivity)]
    have hnonneg := cutPart_nonneg (a := a) (b := b) (q := placeOf f k)
    have hlt := cutPart_lt_one (a := a) (q := placeOf f k) hb
    have hquot : sigOf f k = (scaleDiv a b (placeOf f k)).1 := by
      have hlow : ((scaleDiv a b (placeOf f k)).1 : ℚ) ≤ sigOf f k := by linarith
      have hhigh : (sigOf f k : ℚ) < (scaleDiv a b (placeOf f k)).1 + 1 := by linarith
      norm_cast at hlow hhigh
      omega
    have hexact : cutPart a b (placeOf f k) = 0 := by
      rw [hquot] at hsum
      linarith
    rw [hplace, cut_of_exact hb hexact, ← hquot, packed_sigOf, if_neg hk.not_gt, (cutPart_eq_zero_iff hb).1 hexact] at heq
    rw [heq]
    exact ⟨rfl, rfl, rfl⟩

/-- R189, R194: what a value that is no NaN rounds to. -/
theorem rnd_valOf (hf : HasNaN f) (hx : x < 2 ^ f.width) (hnan : isNaN f x = false) :
    (rnd f rm false (valOf f x)).enc = x ∧ (rnd f rm false (valOf f x)).inexact = false ∧ (rnd f rm false (valOf f x)).overflow = false := by
  cases hinf : isInf f x with
  | true =>
    have hinf' := hinf
    simp only [isInf, Bool.and_eq_true, beq_iff_eq, expField_eq, mantField_eq] at hinf'
    obtain ⟨⟨hkind, hexp⟩, hmant⟩ := hinf'
    have hmag := Nat.div_add_mod' (magnitude f x) (2 ^ f.mb)
    rw [hexp, hmant, add_zero] at hmag
    have henc : infEnc f (signBit f x) = x := by rw [infEnc, hmag, withSign_magnitude hx]
    rw [valOf_inf hnan hinf]
    simp [rnd, hkind, henc]
  | false =>
    have hfinite : finite (valOf f x) := finite_valOf_iff.2 ⟨hnan, hinf⟩
    obtain ⟨a, b, hv, hb, hval⟩ := scaled_eq (signBit f x) (sigOf f (magnitude f x)) (placeOf f (magnitude f x))
    obtain ⟨henc, hflags⟩ := roundFin_of_magnitude (rm := rm) (neg := signBit f x) hb hval ((finite_iff_magnitude_le hf).1 hfinite)
    rw [valOf_eq hfinite, hv, rnd, henc, withSign_magnitude hx]
    exact ⟨rfl, hflags⟩

/-! ### The nearest encoding -/

/-- No multiple of a place of the format with fewer bits than its precision is nearer than the integer of a rounding to nearest: at the place of the cut or above
it is a multiple of that place, and below it, it is at most the power of two that the cut keeps. -/
theorem cut_rne_le_place (hb : 0 < b) (j E : Int) (hj : |j| < 2 ^ (f.mb + 1)) (hE : 1 - (f.bias : Int) - f.mb ≤ E) :
    |cut .rne neg a b (cutPlace f a b) * (2 : ℚ) ^ cutPlace f a b - a / b| ≤ |(j : ℚ) * 2 ^ E - a / b| := by
  set q := cutPlace f a b with hq
  have hpow : (0 : ℚ) < 2 ^ q := by positivity
  have hscale (y : ℚ) : |y * 2 ^ q - a / b| = |y - a / b / 2 ^ q| * 2 ^ q := by
    rw [← abs_of_pos hpow, ← abs_mul, abs_of_pos hpow, sub_mul, div_mul_cancel₀ _ hpow.ne']
  obtain h | h := le_or_gt q E
  · have hmul : (j : ℚ) * 2 ^ E = ((j * 2 ^ (E - q).toNat : Int) : ℚ) * 2 ^ q := by
      push_cast
      rw [mul_assoc, ← zpow_natCast, Int.toNat_of_nonneg (sub_nonneg.2 h), ← zpow_add₀ two_ne_zero, sub_add_cancel]
    rw [hmul, hscale, hscale]
    exact mul_le_mul_of_nonneg_right (cut_rne_nearest hb _) hpow.le
  by_cases ha : a = 0
  · subst ha
    have hexact := cutPart_zero (q := q) hb
    rw [cut_of_exact hb hexact, (scaleDiv_zero b q).1, Nat.cast_zero, zero_mul, zero_div, sub_zero, abs_zero]
    exact abs_nonneg _
  · have hnormal := le_quotient_of_normal (f := f) ha hb (by omega)
    rw [← hq] at hnormal
    have hquot : (2 : ℚ) ^ f.mb ≤ a / b / 2 ^ q := by
      rw [div_zpow_eq_cutPart hb]
      exact le_add_of_le_of_nonneg (by exact_mod_cast hnormal) cutPart_nonneg
    have hsmall : (j : ℚ) * 2 ^ E ≤ 2 ^ f.mb * 2 ^ q := by
      have hj' : (j : ℚ) ≤ 2 ^ (f.mb + 1) := by exact_mod_cast (le_abs_self j).trans hj.le
      calc (j : ℚ) * 2 ^ E ≤ 2 ^ (f.mb + 1) * 2 ^ (q - 1) := by
            gcongr
            · exact one_le_two
            · omega
        _ = 2 ^ f.mb * 2 ^ q := by rw [zpow_sub_one₀ two_ne_zero]; ring
    have hbelow : (2 : ℚ) ^ f.mb * 2 ^ q ≤ a / b := by rwa [le_div_iff₀ hpow] at hquot
    have hnear := cut_rne_nearest (neg := neg) (a := a) (q := q) hb (2 ^ f.mb)
    push_cast at hnear
    calc |cut .rne neg a b q * (2 : ℚ) ^ q - a / b| ≤ |(2 : ℚ) ^ f.mb * 2 ^ q - a / b| := by
          rw [hscale, hscale]
          exact mul_le_mul_of_nonneg_right hnear hpow.le
      _ = (a : ℚ) / b - 2 ^ f.mb * 2 ^ q := by rw [abs_of_nonpos (by linarith), neg_sub]
      _ ≤ (a : ℚ) / b - j * 2 ^ E := by linarith
      _ ≤ |(j : ℚ) * 2 ^ E - a / b| := by rw [abs_sub_comm]; exact le_abs_self _

/-- No finite encoding is nearer than the one a rounding to nearest gives. -/
theorem cut_rne_le_encoding (hb : 0 < b) (hx : finite (valOf f x)) :
    |signum neg * (cut .rne neg a b (cutPlace f a b) * 2 ^ cutPlace f a b) - signum neg * (a / b)| ≤ |ratOf (valOf f x) - signum neg * (a / b)| := by
  have hy : ratOf (valOf f x) = signum neg * ((if neg = signBit f x then sigOf f (magnitude f x) else -sigOf f (magnitude f x) : Int) * 2 ^ placeOf f (magnitude f x)) := by
    rw [ratOf_valOf hx]
    cases neg <;> cases signBit f x <;> simp [signum]
  rw [hy, ← mul_sub, ← mul_sub, abs_signum_mul, abs_signum_mul]
  refine cut_rne_le_place hb _ _ ?_ (le_placeOf f _)
  have habs : |(if neg = signBit f x then sigOf f (magnitude f x) else -sigOf f (magnitude f x) : Int)| = sigOf f (magnitude f x) := by
    split
    · exact abs_of_nonneg (by positivity)
    · rw [abs_neg, abs_of_nonneg (by positivity)]
  rw [habs]
  exact_mod_cast sigOf_lt f _

/-! ### The statement -/

theorem hasNaN_of_mem (h : f ∈ [fp64, fp32, fp16, bf16, e4m3, e5m2]) : HasNaN f := by
  simp only [List.mem_cons, List.not_mem_nil, or_false] at h
  obtain rfl | rfl | rfl | rfl | rfl | rfl := h
  · exact .inl ⟨rfl, by decide⟩
  · exact .inl ⟨rfl, by decide⟩
  · exact .inl ⟨rfl, by decide⟩
  · exact .inl ⟨rfl, by decide⟩
  · exact .inr rfl
  · exact .inl ⟨rfl, by decide⟩

/-- The directed roundings, of a magnitude under its sign. -/
theorem cut_directed (hb : 0 < b) :
    signum neg * (cut .rdn neg a b q * 2 ^ q) ≤ signum neg * (a / b) ∧ signum neg * (a / b) ≤ signum neg * (cut .rup neg a b q * 2 ^ q) := by
  cases neg with
  | false =>
    simp only [signum, if_neg Bool.false_ne_true, one_mul]
    exact ⟨cut_le hb fun _ _ _ => rfl, le_cut hb fun _ _ _ hr => by simpa [roundsUp] using hr⟩
  | true =>
    simp only [signum, if_true, neg_one_mul, neg_le_neg_iff]
    exact ⟨le_cut hb fun _ _ _ hr => by simpa [roundsUp] using hr, cut_le hb fun _ _ _ => rfl⟩

end

/-- Settles O19: a rounding is the integer that the magnitude is cut to (`roundFin_value`), which errs by less than a place and in the mode's direction
(`cut_rne_le_encoding`, `cut_directed`, `cut_le`); a value of the format is cut at its own place and packs to itself (`rnd_valOf`). -/
theorem roundingIsCorrect : Obligations.RoundingIsCorrect := by
  unfold Obligations.RoundingIsCorrect
  intro f hmem rm neg a b x hb hx
  have hf := hasNaN_of_mem hmem
  refine ⟨rnd_valOf hf hx, ?_⟩
  have hvalue (m : Rm) (hover : (rnd f m false (.fin neg a b)).overflow = false) := roundFin_value (neg := neg) hf hb hover
  dsimp only
  rw [ratOf_fin_eq]
  refine ⟨fun hover hfinite => ?_, fun hover => ?_, fun hover => ?_, fun hover => ?_, fun hover => ?_⟩
  · rw [rnd, (hvalue .rne hover).1]
    exact cut_rne_le_encoding hb hfinite
  · rw [rnd, (hvalue .rdn hover).1]
    exact (cut_directed hb).1
  · rw [rnd, (hvalue .rup hover).1]
    exact (cut_directed hb).2
  · rw [rnd, (hvalue .rtz hover).1, abs_signum_mul, abs_signum_mul, abs_of_nonneg (by positivity), abs_of_nonneg (by positivity)]
    exact cut_le hb fun _ _ _ => rfl
  · obtain ⟨hval, hinexact⟩ := hvalue rm hover
    rw [rnd, hval, hinexact, ne_eq, ne_eq, not_iff_not, ← cut_mul_eq_iff hb]
    refine ⟨fun h => by rw [h], fun h => ?_⟩
    rw [← signum_mul_signum_mul neg (_ * _), h, signum_mul_signum_mul]

end Sys2Proof.Says
end

section
namespace Sys2Proof.Says
open Sys2Proof.Machine

/-! ## Vector words (12_vector_matrix.md R205, R208, R209, R211)

A vector word computes a result, a state that differs from its own in the row's bytes and pending loads alone (`VectorResult`), and joins the queue of its core.
The queue and the retirement are said once (`issues_vecOp`); each word then has to say only what its result is. -/

variable {s s0 s1 u w : State} {reads writes : List Nat} {landing occ : Nat}

/-! ### What a vector word's result changes -/

/-- `u` is `s` but for memory and the pending loads of the word's row. -/
structure VectorResult (s u : State) : Prop where
  cur : u.cur = s.cur
  cycle : u.cycle = s.cycle
  seq : u.seq = s.seq
  ctl : u.ctl = s.ctl
  core : u.core = s.core
  clu : u.clu = s.clu
  ten : u.ten = s.ten
  thr : ∀ r, r ≠ s.me → u.thrOf r = s.thrOf r
  own : u.thrOf s.me = { s.thrOf s.me with loads := (u.thrOf s.me).loads }

theorem VectorResult.me (h : VectorResult s u) : u.me = s.me := congrArg Cur.rid h.cur

theorem VectorResult.myCore (h : VectorResult s u) : u.myCore = s.myCore := congrArg (fun c : Cur => coreOfRid c.rid) h.cur

theorem VectorResult.trans (h : VectorResult s u) (h' : VectorResult u w) : VectorResult s w where
  cur := h'.cur.trans h.cur
  cycle := h'.cycle.trans h.cycle
  seq := h'.seq.trans h.seq
  ctl := h'.ctl.trans h.ctl
  core := h'.core.trans h.core
  clu := h'.clu.trans h.clu
  ten := h'.ten.trans h.ten
  thr r hr := (h'.thr r (h.me ▸ hr)).trans (h.thr r hr)
  own := by
    have hown := h'.own
    rw [h.me] at hown
    rw [hown, h.own]

theorem vectorResult_setSeg (s : State) (k v : Nat) : VectorResult s (s.setSeg k v) where
  cur := State.setSeg_cur s k v
  cycle := State.setSeg_cycle s k v
  seq := State.setSeg_seq s k v
  ctl := State.setSeg_ctl s k v
  core := State.setSeg_core s k v
  clu := State.setSeg_clu s k v
  ten := State.setSeg_ten s k v
  thr r hr := by rw [State.setSeg, State.thrOf_modThr, if_neg (Ne.symm hr), State.rowPut_at_thrOf]
  own := by rw [State.setSeg, State.thrOf_modThr, if_pos rfl, State.rowPut_at_thrOf]

theorem vectorResult_put (s : State) (d : Nat) (v : W) : VectorResult s (s.put d v) where
  cur := State.put_cur s d v
  cycle := State.put_cycle s d v
  seq := State.put_seq s d v
  ctl := State.put_ctl s d v
  core := State.put_core s d v
  clu := State.put_clu s d v
  ten := State.put_ten s d v
  thr r hr := by rw [State.put_thrOf, if_neg (Ne.symm hr)]
  own := by rw [State.put_thrOf, if_pos rfl]

/-! ### The queue of the core -/

/-- An empty queue may raise its core's pass; nothing else changes (R206). -/
theorem vjoin_cases (s : State) (c : Nat) : s.vjoin c = s ∨ ∃ p, s.vjoin c = s.modCore c fun x => { x with vpass := p } := by
  unfold State.vjoin
  dsimp only
  split
  · exact .inr ⟨_, rfl⟩
  · exact .inl rfl

/-- What no change of a core touches, joining a queue leaves. -/
theorem vjoin_outside {α : Type} (s : State) (c : Nat) (part : State → α) (h : ∀ f, part (s.modCore c f) = part s) : part (s.vjoin c) = part s := by
  obtain hj | ⟨p, hj⟩ := vjoin_cases s c
  · rw [hj]
  · rw [hj, h]

theorem vjoin_coreOf_other (s : State) {c c' : Nat} (h : c' ≠ c) : (s.vjoin c).coreOf c' = s.coreOf c' :=
  vjoin_outside s c (·.coreOf c') fun f => by rw [State.coreOf_modCore, if_neg (Ne.symm h)]

theorem vjoin_coreOf_own (s : State) (c : Nat) : (s.vjoin c).coreOf c = { s.coreOf c with vpass := ((s.vjoin c).coreOf c).vpass } := by
  obtain hj | ⟨p, hj⟩ := vjoin_cases s c
  · rw [hj]
  · rw [hj, State.coreOf_modCore, if_pos rfl]

/-- The operation that a vector word queues, with what it reads and writes; a result for code 0 is no write of a register (R61). -/
def queuedOp (s : State) (reads writes : List Nat) (landing occ : Nat) : VOp :=
  { id := s.seq, rid := s.me, writes := writes.filter fun w => w != 32, reads := reads.filter fun w => w != 32, landing := landing, occupancy := occ, issued := s.cycle }

/-- The operation stands in the queue, and its row's readers wait for it (R205, R209). -/
def enqueued (s : State) (reads writes : List Nat) (landing occ : Nat) : State :=
  (s.tick.2.modThr s.me fun t => { t with loads := t.loads ++ vecLoads s.seq writes }).modCore s.myCore fun c =>
    { c with vq := c.vq ++ [queuedOp s reads writes landing occ] }

/-- The state that a vector word with the result `u` leaves: a base-die core has no queue. -/
def withResult (u : State) (reads writes : List Nat) (landing occ : Nat) : State :=
  if isBase u.me then u else enqueued (u.vjoin u.myCore) reads writes landing occ

theorem vecOp_ok (hroom : RoomForVector s) (hu : u.me = s.me) :
    s.vecOp reads writes landing occ (.ok u) = .next (withResult u reads writes landing occ).retire := by
  unfold State.vecOp withResult
  rw [hu]
  cases hb : isBase s.me with
  | true => rfl
  | false =>
    have hspace : ¬ 8 ≤ (s.coreOf s.myCore).vq.length := Nat.not_le.2 (hroom.resolve_left (by simp [hb]))
    rw [if_neg hspace]
    rfl

theorem vecOp_full {r : Res State} (hbase : isBase s.me = false) (hfull : 8 ≤ (s.coreOf s.myCore).vq.length) :
    s.vecOp reads writes landing occ r = .next (s.applyStop (.stall false)) := by
  unfold State.vecOp
  rw [hbase, if_pos hfull]
  rfl

theorem vjoin_cur (s : State) (c : Nat) : (s.vjoin c).cur = s.cur := vjoin_outside s c (·.cur) fun _ => rfl

/-- Joining the queue keeps the word's row and place. -/
theorem withResult_cur (u : State) (reads writes : List Nat) (landing occ : Nat) : (withResult u reads writes landing occ).cur = u.cur := by
  unfold withResult
  split
  · rfl
  · exact vjoin_cur u _

/-- The parts of the state that neither a core, nor a thread record, nor an order number is. -/
theorem withResult_outside {α : Type} (u : State) (reads writes : List Nat) (landing occ : Nat) (part : State → α)
    (hcore : ∀ v c f, part (State.modCore v c f) = part v) (hthr : ∀ v r f, part (State.modThr v r f) = part v) (htick : ∀ v : State, part v.tick.2 = part v) :
    part (withResult u reads writes landing occ) = part u := by
  unfold withResult enqueued
  split
  · rfl
  · rw [hcore, hthr, htick, vjoin_outside u _ part (hcore u _)]

theorem withResult_thrOf (u : State) (reads writes : List Nat) (landing occ r : Nat) : (withResult u reads writes landing occ).thrOf r =
    if isBase u.me = false ∧ r = u.me then { u.thrOf r with loads := (u.thrOf r).loads ++ vecLoads u.seq writes } else u.thrOf r := by
  have hcur : (u.vjoin u.myCore).me = u.me := congrArg Cur.rid (vjoin_cur u _)
  have hseq : (u.vjoin u.myCore).seq = u.seq := vjoin_outside u _ (·.seq) fun _ => rfl
  have hthr (r : Nat) : (u.vjoin u.myCore).thrOf r = u.thrOf r := vjoin_outside u _ (·.thrOf r) fun _ => rfl
  unfold withResult enqueued
  split
  next h => simp [h]
  next h =>
    have hthr' (r : Nat) : (u.vjoin u.myCore).tick.2.thrOf r = u.thrOf r := hthr r
    rw [State.modCore_at_thrOf, State.thrOf_modThr, hcur, hseq, hthr', hthr']
    by_cases hr : r = u.me <;> simp [h, hr, eq_comm]

theorem withResult_coreOf_other {c : Nat} (h : c ≠ u.myCore) : (withResult u reads writes landing occ).coreOf c = u.coreOf c := by
  have hcur : (u.vjoin u.myCore).myCore = u.myCore := congrArg (fun c : Cur => coreOfRid c.rid) (vjoin_cur u _)
  unfold withResult enqueued
  split
  · rfl
  · rw [State.coreOf_modCore, hcur, if_neg (Ne.symm h)]
    exact vjoin_coreOf_other u h

theorem withResult_coreOf_own (hbase : isBase u.me = false) : (withResult u reads writes landing occ).coreOf u.myCore = { u.coreOf u.myCore with
    vpass := ((withResult u reads writes landing occ).coreOf u.myCore).vpass, vq := (u.coreOf u.myCore).vq ++ [queuedOp u reads writes landing occ] } := by
  have hcur : (u.vjoin u.myCore).cur = u.cur := vjoin_cur u _
  have hop : queuedOp (u.vjoin u.myCore) reads writes landing occ = queuedOp u reads writes landing occ := by
    unfold queuedOp State.me
    rw [hcur, vjoin_outside u _ (·.seq) fun _ => rfl, vjoin_outside u _ (·.cycle) fun _ => rfl]
  have hmine : (u.vjoin u.myCore).myCore = u.myCore := congrArg (fun c : Cur => coreOfRid c.rid) hcur
  have hown (c : Nat) : ((u.vjoin u.myCore).tick.2.modThr (u.vjoin u.myCore).me fun t => { t with loads := t.loads ++ vecLoads (u.vjoin u.myCore).seq writes }).coreOf c =
    (u.vjoin u.myCore).coreOf c := rfl
  rw [withResult, hbase, if_neg Bool.false_ne_true, enqueued, State.coreOf_modCore, if_pos hmine, hown, hmine, vjoin_coreOf_own, hop]

/-- What every vector word shows, its result known: `s` is the state that its sources left. -/
theorem issues_vecOp (hroom : RoomForVector s0) (hme : s.me = s0.me) (h : VectorResult s u) : ∃ t, s0.vecOp reads writes landing occ (.ok u) = .next t ∧
    VectorIssued s t reads writes landing occ ∧ t.mem = u.mem := by
  refine ⟨_, vecOp_ok hroom (h.me.trans hme), ?_, ?_⟩
  · have hcur := (withResult_cur u reads writes landing occ).trans h.cur
    have hctl (r : Nat) : (withResult u reads writes landing occ).ctlOf r = s.ctlOf r :=
      (withResult_outside u _ _ _ _ (·.ctlOf r) (fun _ _ _ => rfl) (fun _ _ _ => rfl) fun _ => rfl).trans (congrArg (fun m => tget ({} : Ctl) m r) h.ctl)
    have hcore (c : Nat) : u.coreOf c = s.coreOf c := congrArg (fun m => tget ({} : Core) m c) h.core
    constructor
    case completed => exact State.retire_ended _
    case pc => exact moves_retire (hctl _) (congrArg Cur.rid hcur) (congrArg Cur.slot hcur) (congrArg Cur.pc hcur) (congrArg Cur.jump hcur)
    case ctl => exact onlyPc_retire hctl (congrArg Cur.rid hcur)
    case clu => rw [State.retire_clu]; exact (withResult_outside u _ _ _ _ (·.clu) (fun _ _ _ => rfl) (fun _ _ _ => rfl) fun _ => rfl).trans h.clu
    case ten => rw [State.retire_ten]; exact (withResult_outside u _ _ _ _ (·.ten) (fun _ _ _ => rfl) (fun _ _ _ => rfl) fun _ => rfl).trans h.ten
    case others =>
      intro c hc
      rw [State.retire_at_coreOf, withResult_coreOf_other (by rwa [h.myCore]), hcore]
    case queue =>
      intro hbase
      have hown := withResult_coreOf_own (reads := reads) (writes := writes) (landing := landing) (occ := occ) (h.me ▸ hbase)
      simp only [queuedOp, h.me, h.myCore, h.seq, h.cycle, hcore] at hown
      rw [State.retire_at_coreOf]
      exact hown
    case thr =>
      intro r hr
      rw [State.retire_at_thrOf, withResult_thrOf, if_neg (by rw [h.me]; exact fun ⟨_, h'⟩ => hr h'), h.thr r hr]
    case own =>
      rw [State.retire_at_thrOf, withResult_thrOf]
      split
      · rw [h.own]
      · exact h.own
    case waits =>
      intro hbase l hl
      rw [State.retire_at_thrOf, withResult_thrOf, h.me, if_pos ⟨hbase, rfl⟩, h.seq]
      exact List.mem_append_right _ hl
  · rw [State.retire_mem]
    exact withResult_outside u _ _ _ _ (·.mem) (fun _ _ _ => rfl) (fun _ _ _ => rfl) fun _ => rfl

end Sys2Proof.Says
end

section
namespace Sys2Proof.Says
open Sys2Proof.Machine
set_option exponentiation.threshold 4096

/-! ## The lanes of a segment (12_vector_matrix.md R204) -/

variable {s s0 s1 : State} {reads writes : List Nat} {landing occ : Nat} {y : BitVec 3} {d a b : BitVec 4} {x z j w : Nat} {l : List Nat}

/-! ### Lanes put together and taken apart -/

theorem laneBits_pos (ty : Nat) : 0 < laneBits ty := by
  unfold laneBits
  split
  · decide
  · split <;> decide

theorem laneBits_mul_laneCount (ty : Nat) : laneBits ty * laneCount ty = 512 := by
  unfold laneCount laneBits
  split
  · rfl
  · split <;> rfl

theorem laneCount_pos (ty : Nat) : 0 < laneCount ty :=
  Nat.pos_of_mul_pos_left (by rw [laneBits_mul_laneCount]; decide)

theorem joinLanes_lt (w : Nat) : ∀ l : List Nat, joinLanes w l < 2 ^ (w * l.length)
  | [] => by simp [joinLanes]
  | v :: l => by
    have hl := joinLanes_lt w l
    have hv : v % 2 ^ w < 2 ^ w := Nat.mod_lt _ (by positivity)
    rw [joinLanes, List.length_cons, Nat.mul_add_one, Nat.add_comm (w * l.length), Nat.pow_add]
    calc v % 2 ^ w + 2 ^ w * joinLanes w l < 2 ^ w * (joinLanes w l + 1) := by rw [Nat.mul_add_one]; omega
      _ ≤ 2 ^ w * 2 ^ (w * l.length) := Nat.mul_le_mul_left _ hl

theorem joinLanes_lane (w : Nat) : ∀ (l : List Nat) (j : Nat), joinLanes w l / 2 ^ (w * j) % 2 ^ w = l.getD j 0 % 2 ^ w
  | [], j => by simp [joinLanes]
  | v :: l, 0 => by simp [joinLanes]
  | v :: l, j + 1 => by
    have hv : v % 2 ^ w < 2 ^ w := Nat.mod_lt _ (by positivity)
    rw [joinLanes, Nat.mul_add_one, Nat.add_comm (w * j), Nat.pow_add, ← Nat.div_div_eq_div_mul, Nat.add_mul_div_left _ _ (by positivity), Nat.div_eq_of_lt hv,
      Nat.zero_add, joinLanes_lane w l j, List.getD_cons_succ]

/-- The lanes of a word's segment, as a function of their place. -/
theorem lanesOfSeg_eq (y : BitVec 3) (x : Nat) : lanesOfSeg y.toNat x = (List.range (laneCount y.toNat)).map (laneAt y x) := rfl

theorem lanesOfSeg_length (ty x : Nat) : (lanesOfSeg ty x).length = laneCount ty := by simp [lanesOfSeg]

theorem lanesOfSeg_getD (hj : j < laneCount y.toNat) : (lanesOfSeg y.toNat x).getD j 0 = laneAt y x j := by
  simp [lanesOfSeg_eq, List.getD_eq_getElem?_getD, hj]

theorem laneAt_lt (y : BitVec 3) (x j : Nat) : laneAt y x j < 2 ^ laneBits y.toNat := Nat.mod_lt _ (by positivity)

theorem laneAt_joinLanes (h : l.length = laneCount y.toNat) (j : Nat) :
    laneAt y (joinLanes (laneBits y.toNat) l % 2 ^ 512) j = l.getD j 0 % 2 ^ laneBits y.toNat := by
  have hlt := joinLanes_lt (laneBits y.toNat) l
  rw [h, laneBits_mul_laneCount] at hlt
  rw [Nat.mod_eq_of_lt hlt]
  exact joinLanes_lane _ l j

/-! ### A segment written -/

theorem segOf_setSeg (s : State) (k v : Nat) : segOf s (s.setSeg k v) k = v % 2 ^ 512 := State.rowGet_rowPut s s.me _ 64 v

theorem segOf_setSeg_other (s : State) {k k' : Nat} (h : k' ≠ k) (v : Nat) : segOf s (s.setSeg k v) k' = segOf s s k' :=
  (onlySegs_setSeg s k v).rowGet (by omega)

theorem segOf_congr {t u : State} (hme : s.me = s0.me) (h : t.mem = u.mem) (k : Nat) : segOf s0 t k = segOf s u k := by
  unfold segOf
  rw [State.rowGet_congr u t h, hme]

/-- A vector word whose result is the lanes `l` in segment `d`: `s` is the state that its sources left. -/
theorem vectorWrites_putLanes (hroom : RoomForVector s0) (hme : s.me = s0.me) (hl : l.length = laneCount y.toNat) :
    ∃ t, s0.vecOp reads writes landing occ (.ok (s.putLanes y d l)) = .next t ∧ VectorWrites s t d.toNat reads writes landing occ ∧
      ∀ j, laneAt y (segOf s0 t d.toNat) j = l.getD j 0 % 2 ^ laneBits y.toNat := by
  obtain ⟨t, ht, hissued, hmem⟩ := issues_vecOp hroom hme (vectorResult_setSeg s d.toNat (joinLanes (laneBits y.toNat) l))
  refine ⟨t, ht, ⟨hissued, fun q hq => ?_⟩, fun j => ?_⟩
  · rw [hmem]
    exact (onlySegs_setSeg s d.toNat _).mem q (by omega)
  · rw [segOf_congr hme hmem, segOf_setSeg, laneAt_joinLanes hl]

/-- The same where the lanes are given as a function of their place. -/
theorem vectorWrites_lanes {f : Nat → Nat} (hroom : RoomForVector s0) (hme : s.me = s0.me) (hl : l = (List.range (laneCount y.toNat)).map f) :
    ∃ t, s0.vecOp reads writes landing occ (.ok (s.putLanes y d l)) = .next t ∧ VectorWrites s t d.toNat reads writes landing occ ∧
      ∀ j, j < laneCount y.toNat → laneAt y (segOf s0 t d.toNat) j = f j % 2 ^ laneBits y.toNat := by
  obtain ⟨t, ht, hwrites, hlanes⟩ := vectorWrites_putLanes (reads := reads) (writes := writes) (landing := landing) (occ := occ) (d := d) (y := y) (l := l)
    hroom hme (by simp [hl])
  refine ⟨t, ht, hwrites, fun j hj => ?_⟩
  rw [hlanes, hl]
  simp [List.getD_eq_getElem?_getD, hj]

/-! ## Operations lane by lane (12_vector_matrix.md R212, R213, R218) -/

theorem lanes_ok (h : s.vseg a.toNat = .ok x) : s.lanes y a = .ok (lanesOfSeg y.toNat x) := by
  simp [State.lanes, h, bind, Except.bind]

theorem zip3_map {α : Type} (f : Nat → Nat → Nat → Nat) (p q r : α → Nat) : ∀ l : List α, zip3 f (l.map p) (l.map q) (l.map r) = l.map fun i => f (p i) (q i) (r i)
  | [] => rfl
  | i :: l => congrArg (f (p i) (q i) (r i) :: ·) (zip3_map f p q r l)

/-- A word on the lanes of wA. -/
theorem vlanes1_writes (f : Nat → Nat) (hroom : RoomForVector s) (hx : s.vseg a.toNat = .ok x) : ∃ t, s.vlanes1 d a y landing occ f = .next t ∧
    VectorWrites s t d.toNat [a.toNat] [d.toNat] landing occ ∧ ∀ j, j < laneCount y.toNat → laneAt y (segOf s t d.toNat) j = f (laneAt y x j) % 2 ^ laneBits y.toNat := by
  rw [State.vlanes1, lanes_ok hx]
  exact vectorWrites_lanes (f := fun j => f (laneAt y x j)) hroom rfl (by rw [lanesOfSeg_eq, List.map_map]; rfl)

/-- A word on the lanes of wA and wB. -/
theorem vlanes_writes (f : Nat → Nat → Nat → Nat) (hroom : RoomForVector s) (hx : s.vseg a.toNat = .ok x) (hz : s.vseg b.toNat = .ok z) :
    ∃ t, s.vlanes d a b y false landing occ f = .next t ∧ VectorWrites s t d.toNat [a.toNat, b.toNat] [d.toNat] landing occ ∧
      ∀ j, j < laneCount y.toNat → laneAt y (segOf s t d.toNat) j = f (laneAt y x j) (laneAt y z j) (laneAt y x j) % 2 ^ laneBits y.toNat := by
  rw [State.vlanes, lanes_ok hx, lanes_ok hz]
  exact vectorWrites_lanes (f := fun j => f (laneAt y x j) (laneAt y z j) (laneAt y x j)) hroom rfl (zip3_map f _ _ _ _)

/-- A word on the lanes of wA, wB and wD. -/
theorem vlanes_reading_writes (f : Nat → Nat → Nat → Nat) (hroom : RoomForVector s) (hx : s.vseg a.toNat = .ok x) (hz : s.vseg b.toNat = .ok z)
    (hw : s.vseg d.toNat = .ok w) : ∃ t, s.vlanes d a b y true landing occ f = .next t ∧ VectorWrites s t d.toNat [a.toNat, b.toNat, d.toNat] [d.toNat] landing occ ∧
      ∀ j, j < laneCount y.toNat → laneAt y (segOf s t d.toNat) j = f (laneAt y x j) (laneAt y z j) (laneAt y w j) % 2 ^ laneBits y.toNat := by
  rw [State.vlanes, lanes_ok hx, lanes_ok hz, lanes_ok hw]
  exact vectorWrites_lanes (f := fun j => f (laneAt y x j) (laneAt y z j) (laneAt y w j)) hroom rfl (zip3_map f _ _ _ _)

/-- The entry of a table of words on wA names the word, its latencies and, in each lane, its function. -/
def Maps1 (d a : BitVec 4) (y : BitVec 3) (e : Instr × Nat × Nat × (Nat → Nat)) : Prop :=
  ∃ f, (∀ s, exec e.1 s = s.vlanes1 d a y e.2.1 e.2.2.1 f) ∧ ∀ p, f p % 2 ^ laneBits y.toNat = e.2.2.2 p % 2 ^ laneBits y.toNat

def Maps2 (d a b : BitVec 4) (y : BitVec 3) (e : Instr × Nat × (Nat → Nat → Nat)) : Prop :=
  ∃ f, (∀ s, exec e.1 s = s.vlanes d a b y false e.2.1 1 f) ∧ ∀ p q, f p q p % 2 ^ laneBits y.toNat = e.2.2 p q % 2 ^ laneBits y.toNat

theorem maps_laneOps1 (d a : BitVec 4) (y : BitVec 3) : ∀ e ∈ laneOps1 d a y, Maps1 d a y e := by
  simp only [laneOps1, List.forall_mem_cons]
  exact ⟨⟨_, fun _ => rfl, fun _ => rfl⟩, ⟨_, fun _ => rfl, fun _ => rfl⟩, ⟨_, fun _ => rfl, fun _ => rfl⟩, ⟨_, fun _ => rfl, fun _ => rfl⟩, ⟨_, fun _ => rfl, fun _ => rfl⟩,
    ⟨_, fun _ => rfl, fun _ => rfl⟩, ⟨_, fun _ => rfl, fun _ => rfl⟩, by simp⟩

theorem maps_laneOps2 (d a b : BitVec 4) (y : BitVec 3) : ∀ e ∈ laneOps2 d a b y, Maps2 d a b y e := by
  simp only [laneOps2, List.forall_mem_cons]
  exact ⟨⟨_, fun _ => rfl, fun _ _ => rfl⟩, ⟨_, fun _ => rfl, fun _ _ => rfl⟩, ⟨_, fun _ => rfl, fun _ _ => rfl⟩, ⟨_, fun _ => rfl, fun _ _ => rfl⟩, ⟨_, fun _ => rfl, fun _ _ => rfl⟩,
    ⟨_, fun _ => rfl, fun _ _ => rfl⟩, ⟨_, fun _ => rfl, fun _ _ => rfl⟩, ⟨_, fun _ => rfl, fun _ _ => rfl⟩, ⟨_, fun _ => rfl, fun _ _ => rfl⟩,
    ⟨_, fun _ => rfl, fun _ _ => Nat.mod_mod _ _⟩, ⟨_, fun _ => rfl, fun _ _ => rfl⟩, ⟨_, fun _ => rfl, fun _ _ => rfl⟩, by simp⟩

theorem laneOps3_eq (d a b : BitVec 4) (y : BitVec 3) : ∀ e ∈ laneOps3 d a b y, ∀ s, exec e.1 s = s.vlanes d a b y true 4 1 e.2 := by
  simp only [laneOps3, List.forall_mem_cons]
  exact ⟨fun _ => rfl, fun _ => rfl, by simp⟩

theorem vlanes1_full {f : Nat → Nat} (hbase : isBase s.me = false) (hfull : 8 ≤ (s.coreOf s.myCore).vq.length) :
    s.vlanes1 d a y landing occ f = .next (s.applyStop (.stall false)) := vecOp_full hbase hfull

theorem vlanes_full {f : Nat → Nat → Nat → Nat} {readsD : Bool} (hbase : isBase s.me = false) (hfull : 8 ≤ (s.coreOf s.myCore).vq.length) :
    s.vlanes d a b y readsD landing occ f = .next (s.applyStop (.stall false)) := vecOp_full hbase hfull

theorem vectorLaneWords : VectorLanes := by
  intro s d a b y x z w
  refine ⟨fun hbase hfull i hi => ?_, fun hroom hx => ⟨fun e he => ?_, fun hz e he => ?_, fun hz hw e he => ?_⟩⟩
  · simp only [List.mem_append, List.mem_map] at hi
    obtain (⟨e, he, rfl⟩ | ⟨e, he, rfl⟩) | ⟨e, he, rfl⟩ := hi
    · obtain ⟨f, hexec, -⟩ := maps_laneOps1 d a y e he
      rw [hexec, vlanes1_full hbase hfull]
    · obtain ⟨f, hexec, -⟩ := maps_laneOps2 d a b y e he
      rw [hexec, vlanes_full hbase hfull]
    · rw [laneOps3_eq d a b y e he, vlanes_full hbase hfull]
  · obtain ⟨f, hexec, hf⟩ := maps_laneOps1 d a y e he
    obtain ⟨t, ht, hwrites, hlanes⟩ := vlanes1_writes f hroom hx
    exact ⟨t, (hexec s).trans ht, hwrites, fun j hj => (hlanes j hj).trans (hf _)⟩
  · obtain ⟨f, hexec, hf⟩ := maps_laneOps2 d a b y e he
    obtain ⟨t, ht, hwrites, hlanes⟩ := vlanes_writes f hroom hx hz
    exact ⟨t, (hexec s).trans ht, hwrites, fun j hj => (hlanes j hj).trans (hf _ _)⟩
  · rw [laneOps3_eq d a b y e he]
    exact vlanes_reading_writes e.2 hroom hx hz hw

end Sys2Proof.Says
end

section
namespace Sys2Proof.Says
open Sys2Proof.Machine

/-! ## Integer lanes (12_vector_matrix.md R212, R214, R216, R217; 11_formats.md R201)

A lane of `n` bits is read as the `BitVec n` of its number: `toSigned` is its `toInt`, `ofInt` the number of a `BitVec.ofInt`. -/

variable {n : Nat} {y : BitVec 3} {a b : Nat}

theorem laneFmt_of_integer (h3 : 3 ≤ y.toNat) (h5 : y.toNat ≤ 5) : laneFmt y.toNat = none := by
  unfold laneFmt
  rw [if_neg (by omega), if_neg (by omega), if_neg (by omega), if_neg (by omega), if_neg (by omega)]

/-! ### Patterns and integers -/

theorem toSigned_eq_toInt (hn : 0 < n) (a : Nat) : toSigned n a = (BitVec.ofNat n a).toInt := by
  rw [← toSigned_toNat hn, BitVec.toNat_ofNat]
  simp only [toSigned, Nat.mod_mod]
  push_cast
  rw [Int.emod_emod]

theorem ofInt_eq_toNat (n : Nat) (v : Int) : ofInt n v = (BitVec.ofInt n v).toNat := by
  rw [ofInt, BitVec.toNat_ofInt]
  push_cast
  rfl

theorem ofNat_ofInt (n : Nat) (v : Int) : BitVec.ofNat n (ofInt n v) = BitVec.ofInt n v := by rw [ofInt_eq_toNat, BitVec.ofNat_toNat, BitVec.setWidth_eq]

theorem ofInt_add (n : Nat) (u v : Int) : ofInt n (u + v) = (ofInt n u + ofInt n v) % 2 ^ n := by
  simp only [ofInt_eq_toNat, BitVec.ofInt_add, BitVec.toNat_add]

theorem ofInt_lt (n : Nat) (v : Int) : ofInt n v < 2 ^ n := by
  rw [ofInt_eq_toNat]
  exact BitVec.isLt _

theorem ofInt_toSigned (hn : 0 < n) (a : Nat) : ofInt n (toSigned n a) = a % 2 ^ n := by
  rw [toSigned_eq_toInt hn, ofInt_eq_toNat, BitVec.ofInt_toInt, BitVec.toNat_ofNat]

/-! ### Sums, products and differences -/

theorem ofInt_sum (hn : 0 < n) : ofInt n (toSigned n a + toSigned n b) = (a + b) % 2 ^ n := by
  rw [ofInt_add, ofInt_toSigned hn, ofInt_toSigned hn, ← Nat.add_mod]

theorem ofInt_product (hn : 0 < n) : ofInt n (toSigned n a * toSigned n b) = a * b % 2 ^ n := by
  rw [toSigned_eq_toInt hn, toSigned_eq_toInt hn, ofInt_eq_toNat, BitVec.ofInt_mul, BitVec.ofInt_toInt, BitVec.ofInt_toInt, BitVec.toNat_mul, BitVec.toNat_ofNat,
    BitVec.toNat_ofNat, ← Nat.mul_mod]

theorem ofInt_neg (hn : 0 < n) (ha : a < 2 ^ n) : ofInt n (-toSigned n a) = (2 ^ n - a) % 2 ^ n := by
  rw [toSigned_eq_toInt hn, ofInt_eq_toNat, BitVec.ofInt_neg, BitVec.ofInt_toInt, BitVec.toNat_neg, BitVec.toNat_ofNat, Nat.mod_eq_of_lt ha]

theorem ofInt_difference (hn : 0 < n) (hb : b < 2 ^ n) : ofInt n (toSigned n a - toSigned n b) = (2 ^ n + a - b) % 2 ^ n := by
  rw [Int.sub_eq_add_neg, ofInt_add, ofInt_toSigned hn, ofInt_neg hn hb, ← Nat.add_mod, Nat.add_comm (2 ^ n), Nat.add_sub_assoc hb.le]

theorem ofInt_product_added (hn : 0 < n) {d : Nat} : ofInt n (toSigned n d + toSigned n a * toSigned n b) = (d + a * b) % 2 ^ n := by
  rw [ofInt_add, ofInt_toSigned hn, ofInt_product hn, ← Nat.add_mod]

/-! ### Order and magnitude -/

theorem laneMinMax_integer (hf : laneFmt y.toNat = none) (most : Bool) : laneMinMax y.toNat most a b =
    if toSigned (laneBits y.toNat) a < toSigned (laneBits y.toNat) b then (if most then b else a) else (if most then a else b) := by
  simp only [laneMinMax, hf]

theorem toSigned_laneMax (hf : laneFmt y.toNat = none) :
    toSigned (laneBits y.toNat) (laneMinMax y.toNat true a b) = max (toSigned (laneBits y.toNat) a) (toSigned (laneBits y.toNat) b) := by
  rw [laneMinMax_integer hf]
  split
  next h => exact (max_eq_right h.le).symm
  next h => exact (max_eq_left (not_lt.1 h)).symm

theorem toSigned_laneMin (hf : laneFmt y.toNat = none) :
    toSigned (laneBits y.toNat) (laneMinMax y.toNat false a b) = min (toSigned (laneBits y.toNat) a) (toSigned (laneBits y.toNat) b) := by
  rw [laneMinMax_integer hf]
  split
  next h => exact (min_eq_left h.le).symm
  next h => exact (min_eq_right (not_lt.1 h)).symm

/-- The magnitude of every number but the least stands in the lane. -/
theorem toSigned_magnitude (hn : 0 < n) (ha : a < 2 ^ n) (hleast : a ≠ 2 ^ (n - 1)) : toSigned n (ofInt n (toSigned n a).natAbs) = |toSigned n a| := by
  have hpow : 2 ^ n = 2 * 2 ^ (n - 1) := by rw [← pow_succ', Nat.sub_add_cancel hn]
  have habs : |toSigned n a| < 2 ^ (n - 1) := by
    have hcast : ((2 ^ (n - 1) : Nat) : Int) = 2 ^ (n - 1) := by push_cast; rfl
    unfold toSigned
    rw [Nat.mod_eq_of_lt ha, Int.emod_eq_of_lt (by omega) (by exact_mod_cast ha), abs_lt]
    have hpow' : (2 ^ n : Int) = 2 * 2 ^ (n - 1) := by exact_mod_cast hpow
    split <;> omega
  rw [toSigned_eq_toInt hn, ofNat_ofInt, Int.natCast_natAbs, BitVec.toInt_ofInt]
  refine Int.bmod_eq_of_le ?_ ?_
  all_goals
    rw [hpow]
    push_cast
    have := abs_nonneg (toSigned n a)
    omega

theorem signed_natAbs (u : Int) : (if decide (u < 0) = true then -(u.natAbs * (1 : Nat) : Int) else u.natAbs * (1 : Nat)) = u := by
  simp only [decide_eq_true_eq]
  omega

theorem lt_ofIntVal (u v : Int) : (ofIntVal u).lt (ofIntVal v) = decide (u < v) := by
  unfold ofIntVal
  rw [Val.lt, signed_natAbs, signed_natAbs]

theorem eq_ofIntVal (u v : Int) : (ofIntVal u).eq (ofIntVal v) = decide (u = v) := by
  have heq : (ofIntVal u).eq (ofIntVal v) = (!(ofIntVal u).lt (ofIntVal v) && !(ofIntVal v).lt (ofIntVal u)) := rfl
  rw [heq, lt_ofIntVal, lt_ofIntVal, Bool.eq_iff_iff]
  simp only [Bool.and_eq_true, Bool.not_eq_true', decide_eq_false_iff_not, decide_eq_true_eq]
  omega

theorem laneVal_integer (hf : laneFmt y.toNat = none) (a : Nat) : laneVal y.toNat a = ofIntVal (toSigned (laneBits y.toNat) a) := by
  simp only [laneVal, hf]

theorem laneCompare_integer (hf : laneFmt y.toNat = none) (a b : Nat) :
    laneCompare y.toNat 0 a b = decide (toSigned (laneBits y.toNat) a = toSigned (laneBits y.toNat) b) ∧
    laneCompare y.toNat 1 a b = decide (toSigned (laneBits y.toNat) a < toSigned (laneBits y.toNat) b) ∧
    laneCompare y.toNat 2 a b = decide (toSigned (laneBits y.toNat) a ≤ toSigned (laneBits y.toNat) b) := by
  simp only [laneCompare, laneVal_integer hf, lt_ofIntVal, eq_ofIntVal]
  refine ⟨rfl, rfl, ?_⟩
  rw [Bool.eq_iff_iff]
  simp [le_iff_lt_or_eq]

/-! ### Sums over the lanes -/

/-- Addition modulo `m`, the operation of the tree. -/
theorem pairUp_sum (m : Nat) (l : List Nat) : (pairUp (fun p q => (p + q) % m) l).sum % m = l.sum % m := by
  induction l using pairUp.induct with
  | case1 p q l ih =>
    rw [pairUp, List.sum_cons, List.sum_cons, List.sum_cons, ← Nat.add_assoc, Nat.add_mod, ih, Nat.mod_mod, ← Nat.add_mod]
  | case2 l h => rw [pairUp]; exact h

theorem pairUp_lt {m : Nat} (hm : 0 < m) (l : List Nat) (h : ∀ v ∈ l, v < m) : ∀ v ∈ pairUp (fun p q => (p + q) % m) l, v < m := by
  induction l using pairUp.induct with
  | case1 p q l ih =>
    rw [pairUp, List.forall_mem_cons]
    exact ⟨Nat.mod_lt _ hm, ih fun v hv => h v (by simp [hv])⟩
  | case2 l hl => rw [pairUp]; exacts [h, hl]

theorem pairUp_length {α : Type} (op : α → α → α) (l : List α) : (pairUp op l).length = (l.length + 1) / 2 := by
  induction l using pairUp.induct with
  | case1 p q l ih =>
    rw [pairUp, List.length_cons, ih, List.length_cons, List.length_cons]
    omega
  | case2 l h =>
    rw [pairUp]
    · match l, h with
      | [], _ => simp
      | [_], _ => simp
      | p :: q :: l, h => exact absurd rfl (h p q l)
    · exact h

/-- The tree of additions gives the sum, whatever its order (R201). -/
theorem tree_sum {m : Nat} (hm : 0 < m) : ∀ (k : Nat) (l : List Nat), l.length = 2 ^ k → (∀ v ∈ l, v < m) → tree 0 (fun p q => (p + q) % m) k l = l.sum % m
  | 0, l, hlen, hlt => by
    obtain ⟨v, rfl⟩ := List.length_eq_one_iff.1 hlen
    simpa [tree] using (Nat.mod_eq_of_lt (hlt v (by simp))).symm
  | k + 1, l, hlen, hlt => by
    have hhalf : (pairUp (fun p q => (p + q) % m) l).length = 2 ^ k := by
      rw [pairUp_length, hlen, pow_succ]
      omega
    rw [tree, tree_sum hm k _ hhalf (pairUp_lt hm l hlt), pairUp_sum]

theorem ofInt_list_sum (n : Nat) : ∀ l : List Int, (l.map (ofInt n)).sum % 2 ^ n = ofInt n l.sum
  | [] => by simp [ofInt]
  | v :: l => by rw [List.map_cons, List.sum_cons, List.sum_cons, ofInt_add, Nat.add_mod, ofInt_list_sum n l, Nat.mod_eq_of_lt (ofInt_lt n v)]

theorem laneCount_eq_pow (ty : Nat) : laneCount ty = 2 ^ treeLevels ty := by
  unfold treeLevels laneCount laneBits
  split
  · decide
  · split <;> decide

theorem redSum_integer (hf : laneFmt y.toNat = none) {l : List Nat} (hl : l.length = laneCount y.toNat) :
    redSum y.toNat l = ofInt 64 (l.map (toSigned (laneBits y.toNat))).sum := by
  have hmap : (l.map fun v => ofInt 64 (toSigned (laneBits y.toNat) v)) = (l.map (toSigned (laneBits y.toNat))).map (ofInt 64) := by
    rw [List.map_map]
    rfl
  simp only [redSum, hf]
  rw [hmap, tree_sum (by decide) _ _ (by rw [List.length_map, List.length_map, hl, laneCount_eq_pow]), ofInt_list_sum]
  simp only [List.mem_map]
  rintro _ ⟨v, -, rfl⟩
  exact ofInt_lt 64 v

theorem dotOf_integer (hf : laneFmt y.toNat = none) (l m : List Nat) :
    dotOf y.toNat l m = ofInt 64 (l.zipWith (fun u v => toSigned (laneBits y.toNat) u * toSigned (laneBits y.toNat) v) m).sum := by
  simp only [dotOf, hf]
  rw [List.sum_eq_foldl]

theorem arith_integer (hf : laneFmt y.toNat = none) (f : Val → Val → Val → Val) (g : Int → Int → Int → Int) (a b d : Nat) : arith y.toNat f g a b d =
    ofInt (laneBits y.toNat) (g (toSigned (laneBits y.toNat) a) (toSigned (laneBits y.toNat) b) (toSigned (laneBits y.toNat) d)) := by
  simp only [arith, hf]

theorem laneAbs_integer (hf : laneFmt y.toNat = none) (a : Nat) : laneAbs y.toNat a = ofInt (laneBits y.toNat) (toSigned (laneBits y.toNat) a).natAbs := by
  simp only [laneAbs, hf]

theorem laneNeg_integer (hf : laneFmt y.toNat = none) (a : Nat) : laneNeg y.toNat a = ofInt (laneBits y.toNat) (-toSigned (laneBits y.toNat) a) := by
  simp only [laneNeg, hf]

theorem vectorIntegerLanes : VectorIntegerLanes := by
  intro y a b d l m h3 h5
  have hf := laneFmt_of_integer h3 h5
  have hn := laneBits_pos y.toNat
  simp only [← toSigned_eq_toInt hn]
  intro ha hb _ hl _ _
  obtain ⟨heq, hlt, hle⟩ := laneCompare_integer hf a b
  refine ⟨?_, ?_, ?_, ?_, toSigned_laneMax hf, toSigned_laneMin hf, fun hleast => ?_, ?_, heq, hlt, hle, redSum_integer hf hl, dotOf_integer hf l m⟩
  · rw [arith_integer hf, ofInt_sum hn]
  · rw [arith_integer hf, ofInt_difference hn hb]
  · rw [arith_integer hf, ofInt_product hn]
  · rw [arith_integer hf, ofInt_product_added hn]
  · rw [laneAbs_integer hf, toSigned_magnitude hn ha hleast]
  · rw [laneNeg_integer hf, ofInt_neg hn ha]

/-- Settles O36: a word lane by lane writes, in each lane, its function of the lanes (`vectorWrites_lanes`), and every entry of the tables is such a word; an integer lane
is a `BitVec` of its width, and the tree of additions is their sum (`tree_sum`). -/
theorem vectorLanes : Obligations.VectorLanes := ⟨vectorLaneWords, vectorIntegerLanes⟩

end Sys2Proof.Says
end

section
namespace Sys2Proof.Says
open Sys2Proof.Machine

/-! ## Vector words with a scalar result (12_vector_matrix.md R214, R216, R217, R221) -/

variable {s s0 s1 t : State} {reads writes : List Nat} {landing occ : Nat} {y : BitVec 3} {d a b : BitVec 4} {g : BitVec 5} {x z j w : Nat} {k v : W}

/-- A vector word whose result is a value at an open destination. -/
theorem vectorIssued_dst (hroom : RoomForVector s) (hopen : s.dstOpen g.toNat = true) (v : W) : ∃ t, s.vecOp reads writes landing occ (s.dst g.toNat v) = .next t ∧
    VectorIssued s t reads writes landing occ ∧ Produced s t s.me g v ∧ OnlyRegister s t g := by
  obtain ⟨t, ht, hissued, hmem⟩ := issues_vecOp (reads := reads) (writes := writes) (landing := landing) (occ := occ) hroom rfl (vectorResult_put s g.toNat v)
  have hput := produced_put s ((State.dstOpen_iff _ _).1 hopen).1 v
  have hgreg (k : Nat) : t.greg s.me k = (s.put g.toNat v).greg s.me k := State.greg_congr _ _ hmem _ k
  refine ⟨t, by rw [State.dst_open s _ v hopen, ht], hissued, ?_, fun q hreg hwindow => ?_⟩
  · constructor <;> simp only [hgreg]
    exacts [hput.reg, hput.d1, hput.d2, hput.d3, hput.d4]
  · rw [hmem]
    exact State.put_mget s g.toNat v q (hreg.imp_left fun h => by rw [h]; rfl) hwindow

theorem vscalar_issued (f : List Nat → List Nat → Nat) (hroom : RoomForVector s) (hopen : s.dstOpen g.toNat = true) (hx : s.vseg a.toNat = .ok x) (hz : s.vseg b.toNat = .ok z) :
    ∃ t, s.vscalar g a b y landing occ f = .next t ∧ VectorIssued s t [a.toNat, b.toNat] [32 + g.toNat] landing occ ∧
      Produced s t s.me g (num (f (lanesOfSeg y.toNat x) (lanesOfSeg y.toNat z))) ∧ OnlyRegister s t g := by
  rw [State.vscalar, lanes_ok hx, lanes_ok hz]
  exact vectorIssued_dst hroom hopen _

theorem scalarOps_eq (g : BitVec 5) (a b : BitVec 4) (y : BitVec 3) : ∀ e ∈ scalarOps g a b y, ∀ s, exec e.1 s = s.vscalar g a b y e.2.1 1 e.2.2 := by
  simp only [scalarOps, List.forall_mem_cons]
  exact ⟨fun _ => rfl, fun _ => rfl, fun _ => rfl, fun _ => rfl, by simp⟩

/-- The floating lane types are those outside 3 to 5. -/
theorem laneFmt_isSome_iff (y : BitVec 3) : (laneFmt y.toNat).isSome = true ↔ y.toNat < 3 ∨ 5 < y.toNat := by
  revert y
  decide

/-- The lane that `VEXT` takes, with its sign on an integer type. -/
theorem execVext_eq (g : BitVec 5) (a : BitVec 4) (y : BitVec 3) (n : BitVec 6) (s : State) : exec (.vext g a y n) s =
    s.vscalar g a a y 3 1 fun l _ => if y.toNat < 3 ∨ 5 < y.toNat then l.getD n.toNat 0 else (toSigned (laneBits y.toNat) (l.getD n.toNat 0) % 2 ^ 64).toNat := by
  have hexec : exec (.vext g a y n) s =
    s.vscalar g a a y 3 1 fun l _ => if (laneFmt y.toNat).isSome then l.getD n.toNat 0 else ofInt 64 (toSigned (laneBits y.toNat) (l.getD n.toNat 0)) := rfl
  rw [hexec]
  simp only [laneFmt_isSome_iff]
  rfl

theorem scalarOps1_eq (g : BitVec 5) (a : BitVec 4) (y : BitVec 3) (n : BitVec 6) :
    ∀ e ∈ scalarOps1 g a y n, ∀ s, exec e.1 s = s.vscalar g a a y e.2.1 1 fun l _ => e.2.2 l := by
  simp only [scalarOps1, List.forall_mem_cons]
  exact ⟨fun _ => rfl, fun _ => rfl, fun _ => rfl, execVext_eq g a y n, by simp⟩

/-! ### Masks -/

theorem testBit_maskOf : ∀ (l : List Bool) (j : Nat), (maskOf l).testBit j = l.getD j false
  | [], j => by simp [maskOf]
  | p :: l, 0 => by cases p <;> simp [maskOf, bit, Nat.testBit_zero, Nat.add_mod]
  | p :: l, j + 1 => by
    have hhalf : (bit p + 2 * maskOf l) / 2 = maskOf l := by cases p <;> simp [bit]; omega
    rw [maskOf, Nat.testBit_succ, hhalf, testBit_maskOf l j, List.getD_cons_succ]

theorem laneCount_le (ty : Nat) : laneCount ty ≤ 64 := by
  unfold laneCount laneBits
  split
  · decide
  · split <;> decide

/-- Bit `j` of the mask of a comparison is that of lanes `j`. -/
theorem mask_getLsbD (f : Nat → Nat → Bool) (x z : Nat) (hj : j < laneCount y.toNat) :
    (num (maskOf ((lanesOfSeg y.toNat x).zipWith f (lanesOfSeg y.toNat z)))).getLsbD j = f (laneAt y x j) (laneAt y z j) := by
  have hword : j < 64 := hj.trans_le (laneCount_le _)
  rw [num, BitVec.getLsbD_ofNat, testBit_maskOf, lanesOfSeg_eq, lanesOfSeg_eq]
  simp [List.getD_eq_getElem?_getD, hword, hj]

theorem vectorToScalar : VectorToScalar := by
  intro s g a b y n x z hroom hx hopen
  refine ⟨fun e he => ?_, fun hz e he => ?_⟩
  · rw [scalarOps1_eq g a y n e he]
    exact vscalar_issued (fun l _ => e.2.2 l) hroom hopen hx hx
  · obtain ⟨t, ht, hissued, hproduced, hframe⟩ := vscalar_issued e.2.2 hroom hopen hx hz
    refine ⟨t, (scalarOps_eq g a b y e he s).trans ht, hissued, hproduced, hframe, ?_⟩
    rw [scalarOps] at he
    simp only [List.mem_cons, List.not_mem_nil, or_false] at he
    obtain rfl | rfl | rfl | rfl := he
    · exact fun _ j => mask_getLsbD (laneCompare y.toNat 0) x z
    · exact fun _ j => mask_getLsbD (laneCompare y.toNat 1) x z
    · exact fun _ j => mask_getLsbD (laneCompare y.toNat 2) x z
    · simp

/-! ## Selection and lane movement (R215, R221) -/

/-- A scalar source of a vector word keeps the word's place. -/
theorem vsrc_me {r : Nat} (h : s.vsrc r = .ok (k, s1)) : s1.me = s.me := by
  unfold State.vsrc at h
  split at h
  · split at h
    · cases h
      rfl
    split at h
    · cases h
    cases hr : s.readRow (8 * r) 8 with
    | error e =>
      rw [hr] at h
      cases h
    | ok v =>
      rw [hr] at h
      cases h
      rfl
  · exact State.src_me _ _ _ _ h

theorem select_lanes (y : BitVec 3) (x z k : Nat) :
    ((lanesOfSeg y.toNat x).zip (lanesOfSeg y.toNat z)).zipIdx.map (fun e => if k.testBit e.2 then e.1.1 else e.1.2) =
      (List.range (laneCount y.toNat)).map fun j => if k.testBit j then laneAt y x j else laneAt y z j := by
  apply List.ext_getElem
  · simp [lanesOfSeg]
  · simp [lanesOfSeg_eq]

theorem replicate_lanes (n v : Nat) : List.replicate n v = (List.range n).map fun _ => v := by simp

theorem insert_lane (y : BitVec 3) (w i v : Nat) : (lanesOfSeg y.toNat w).set i v = (List.range (laneCount y.toNat)).map fun j => if j = i then v else laneAt y w j := by
  apply List.ext_getElem
  · simp [lanesOfSeg]
  · simp [lanesOfSeg_eq, List.getElem_set, eq_comm]

/-- Lane `i` of two segments side by side. -/
theorem getD_two_segments (y : BitVec 3) (x w : Nat) {i : Nat} (hi : i < 2 * laneCount y.toNat) :
    (lanesOfSeg y.toNat x ++ lanesOfSeg y.toNat w).getD i 0 = if i < laneCount y.toNat then laneAt y x i else laneAt y w (i - laneCount y.toNat) := by
  split
  next h => rw [List.getD_append _ _ _ _ (by rwa [lanesOfSeg_length]), lanesOfSeg_getD h]
  next h => rw [List.getD_append_right _ _ _ _ (by rw [lanesOfSeg_length]; omega), lanesOfSeg_length, lanesOfSeg_getD (by omega)]

theorem vsel_writes (hroom : RoomForVector s) (hk : s.vsrc g.toNat = .ok (k, s1)) (hx : s1.vseg a.toNat = .ok x) (hz : s1.vseg b.toNat = .ok z) :
    ∃ t, exec (.vsel d a b y g) s = .next t ∧ VectorWrites s1 t d.toNat [a.toNat, b.toNat, 32 + g.toNat] [d.toNat] 2 1 ∧
      ∀ j, j < laneCount y.toNat → laneAt y (segOf s t d.toNat) j = (if k.toNat.testBit j then laneAt y x j else laneAt y z j) % 2 ^ laneBits y.toNat := by
  have hexec : exec (.vsel d a b y g) s = execVsel d a b y g s := rfl
  rw [hexec, execVsel, hk]
  simp only [bind, Except.bind, lanes_ok hx, lanes_ok hz]
  exact vectorWrites_lanes hroom (vsrc_me hk) (select_lanes y x z k.toNat)

theorem vbcast_writes (hroom : RoomForVector s) (hk : s.vsrc g.toNat = .ok (k, s1)) : ∃ t, exec (.vbcast d y g) s = .next t ∧
    VectorWrites s1 t d.toNat [32 + g.toNat] [d.toNat] 2 1 ∧ ∀ j, j < laneCount y.toNat → laneAt y (segOf s t d.toNat) j = k.toNat % 2 ^ laneBits y.toNat := by
  have hexec : exec (.vbcast d y g) s = execVbcast d y g s := rfl
  rw [hexec, execVbcast, hk]
  exact vectorWrites_lanes hroom (vsrc_me hk) (replicate_lanes _ k.toNat)

theorem vins_writes {n : BitVec 2} {m : BitVec 4} (hroom : RoomForVector s) (hk : s.vsrc g.toNat = .ok (k, s1)) (hw : s1.vseg d.toNat = .ok w) :
    ∃ t, exec (.vins d n y m g) s = .next t ∧ VectorWrites s1 t d.toNat [d.toNat, 32 + g.toNat] [d.toNat] 2 1 ∧ ∀ j, j < laneCount y.toNat →
      laneAt y (segOf s t d.toNat) j = (if j = n.toNat * 16 + m.toNat then k.toNat % 2 ^ laneBits y.toNat else laneAt y w j) % 2 ^ laneBits y.toNat := by
  have hexec : exec (.vins d n y m g) s = execVins d n y m g s := rfl
  rw [hexec, execVins, hk]
  simp only [bind, Except.bind, lanes_ok hw]
  exact vectorWrites_lanes hroom (vsrc_me hk) (insert_lane y w _ _)

theorem vperm_writes (hroom : RoomForVector s) (hx : s.vseg a.toNat = .ok x) (hz : s.vseg b.toNat = .ok z) (hw : s.vseg d.toNat = .ok w) :
    ∃ t, exec (.vperm d a b y) s = .next t ∧ VectorWrites s t d.toNat [a.toNat, b.toNat, d.toNat] [d.toNat] 2 1 ∧ ∀ j, j < laneCount y.toNat →
      laneAt y (segOf s t d.toNat) j = (lanesOfSeg y.toNat x ++ lanesOfSeg y.toNat w).getD (laneAt y z j % (2 * laneCount y.toNat)) 0 % 2 ^ laneBits y.toNat := by
  have hexec : exec (.vperm d a b y) s = execVperm d a b y s := rfl
  rw [hexec, execVperm]
  simp only [bind, Except.bind, lanes_ok hx, lanes_ok hz, lanes_ok hw]
  exact vectorWrites_lanes hroom rfl (by rw [lanesOfSeg_eq y z, List.map_map]; rfl)

/-- What a lane holds already fits the lane. -/
theorem laneAt_mod (y : BitVec 3) (x j : Nat) : laneAt y x j % 2 ^ laneBits y.toNat = laneAt y x j := Nat.mod_eq_of_lt (laneAt_lt y x j)

theorem vectorMoveWords : VectorMoves := by
  intro s s1 d a b m y g n k x z w hroom hk
  refine ⟨fun hx hz => ?_, vbcast_writes hroom hk, fun hw => ?_, fun hx hz hw => ?_⟩
  · obtain ⟨t, ht, hwrites, hlanes⟩ := vsel_writes hroom hk hx hz
    refine ⟨t, ht, hwrites, fun j hj => ?_⟩
    rw [hlanes j hj, apply_ite (· % _), laneAt_mod, laneAt_mod]
    rfl
  · obtain ⟨t, ht, hwrites, hlanes⟩ := vins_writes (n := n) (m := m) hroom hk hw
    refine ⟨t, ht, hwrites, fun j hj => ?_⟩
    rw [hlanes j hj, apply_ite (· % _), laneAt_mod, Nat.mod_mod]
  · obtain ⟨t, ht, hwrites, hlanes⟩ := vperm_writes hroom hx hz hw
    refine ⟨t, ht, hwrites, fun j hj => ?_⟩
    have hpos := laneCount_pos y.toNat
    rw [hlanes j hj, getD_two_segments y x w (Nat.mod_lt _ (by omega)), apply_ite (· % _), laneAt_mod, laneAt_mod]

/-- Settles O37: a word with a scalar result puts it as every word does (`vectorIssued_dst`); a movement writes the lanes of a list that is a function of their place
(`vectorWrites_lanes`). -/
theorem vectorMoves : Obligations.VectorMoves := ⟨vectorToScalar, vectorMoveWords⟩

end Sys2Proof.Says
end

section
namespace Sys2Proof.Says
open Sys2Proof.Machine
set_option exponentiation.threshold 4096

/-! ## Conversions (12_vector_matrix.md R219; 11_formats.md R202, R203) -/

variable {s : State} {d a b : BitVec 4} {f o : BitVec 3} {p e u q1 : BitVec 1} {x w z : Nat}

theorem feedback_length (dst : Nat) (sat fromInt : Bool) : ∀ (vs : List Val) (carry : Val), (feedback dst sat fromInt carry vs).length = vs.length
  | [], _ => rfl
  | v :: vs, carry => by
    simp only [feedback, List.length_cons]
    rw [feedback_length dst sat fromInt vs]

theorem cvtBlock_length (dst : Nat) (sat ef fromInt : Bool) (vs : List Val) : (cvtBlock dst sat ef fromInt vs).length = vs.length := by
  unfold cvtBlock
  split
  · exact feedback_length dst sat fromInt vs _
  · exact List.length_map _

/-- The lanes of one part of a segment, each converted. -/
theorem part_lanes (f : BitVec 3) (x part n : Nat) (g : Nat → Nat) (h : (part + 1) * n ≤ laneCount f.toNat) :
    (((lanesOfSeg f.toNat x).drop (part * n)).take n).map g = (List.range n).map fun j => g (laneAt f x (part * n + j)) := by
  rw [Nat.add_one_mul] at h
  apply List.ext_getElem
  · simp only [List.length_map, List.length_take, List.length_drop, lanesOfSeg_length, List.length_range]
    omega
  · simp [lanesOfSeg_eq]

/-- A list with a stretch replaced. -/
theorem getD_splice {l out : List Nat} {n : Nat} (h : n + out.length ≤ l.length) (j : Nat) : (l.take n ++ out ++ l.drop (n + out.length)).getD j 0 =
    if n ≤ j ∧ j < n + out.length then out.getD (j - n) 0 else l.getD j 0 := by
  have hn : (l.take n).length = n := by rw [List.length_take]; omega
  have hboth : (l.take n ++ out).length = n + out.length := by rw [List.length_append, hn]
  by_cases hlow : j < n
  · rw [List.append_assoc, List.getD_append _ _ _ _ (by omega), if_neg (by omega), List.getD_eq_getElem?_getD, List.getElem?_take_of_lt hlow, List.getD_eq_getElem?_getD]
  by_cases hmid : j < n + out.length
  · rw [List.getD_append _ _ _ _ (by omega), List.getD_append_right _ _ _ _ (by omega), if_pos ⟨by omega, hmid⟩, hn]
  · rw [List.getD_append_right _ _ _ _ (by omega), if_neg (by omega), hboth, List.getD_eq_getElem?_getD, List.getElem?_drop, List.getD_eq_getElem?_getD,
      Nat.add_sub_cancel' (by omega)]

/-- From more lanes to fewer: the lanes of one part of wA. -/
theorem vcvt_widens (hroom : RoomForVector s) (hx : s.vseg a.toNat = .ok x) (hfewer : laneCount o.toNat < laneCount f.toNat)
    (hpart : (p.toNat * 2 + q1.toNat + 1) * laneCount o.toNat ≤ laneCount f.toNat) : ∃ t, exec (.vcvt d a p f o e u q1) s = .next t ∧
      VectorWrites s t d.toNat [a.toNat] [d.toNat] 3 1 ∧ ∀ j, j < laneCount o.toNat → laneAt o (segOf s t d.toNat) j =
        (cvtLane o.toNat (u == 1) (laneFmt f.toNat).isNone (laneVal f.toNat (laneAt f x ((p.toNat * 2 + q1.toNat) * laneCount o.toNat + j)))).1 % 2 ^ laneBits o.toNat := by
  have hexec : exec (.vcvt d a p f o e u q1) s = execVcvt d a p f o e u q1 s := rfl
  rw [hexec, execVcvt]
  simp only [bind, Except.bind, lanes_ok hx, if_neg (Nat.lt_asymm hfewer)]
  exact vectorWrites_lanes hroom rfl (by simpa only [convert, if_pos hfewer] using part_lanes f x _ _ _ hpart)

/-- Otherwise: all of wA, converted as a block, in one part of wD. Where the lanes are as many, that part is all of it, and what wD held is not read. -/
theorem convert_splices (hmore : laneCount f.toNat ≤ laneCount o.toNat) {part : Nat} (hpart : (part + 1) * laneCount f.toNat ≤ laneCount o.toNat) (ef sat : Bool) (l : List Nat)
    (w : Nat) : convert f.toNat o.toNat part ef sat l (if laneCount f.toNat < laneCount o.toNat then lanesOfSeg o.toNat w else []) =
      (lanesOfSeg o.toNat w).take (part * laneCount f.toNat) ++ cvtBlock o.toNat sat ef (laneFmt f.toNat).isNone (l.map (laneVal f.toNat)) ++
        (lanesOfSeg o.toNat w).drop ((part + 1) * laneCount f.toNat) := by
  simp only [convert, if_neg (Nat.not_lt.2 hmore)]
  split
  next => rfl
  next h =>
    have heq : laneCount f.toNat = laneCount o.toNat := by omega
    have hfirst : part = 0 := by
      have hpos := laneCount_pos o.toNat
      rw [heq] at hpart
      have := Nat.le_of_mul_le_mul_right (hpart.trans_eq (Nat.one_mul _).symm) hpos
      omega
    subst hfirst
    rw [List.drop_eq_nil_of_le (as := lanesOfSeg o.toNat w) (by rw [lanesOfSeg_length]; omega)]
    simp

/-- The word on the lanes that it reads: wD only where it has more lanes than wA. -/
theorem execVcvt_eq (hx : s.vseg a.toNat = .ok x) (hw : s.vseg d.toNat = .ok w) : exec (.vcvt d a p f o e u q1) s =
    s.vecOp (if laneCount f.toNat < laneCount o.toNat then [a.toNat, d.toNat] else [a.toNat]) [d.toNat] 3 1 (.ok (s.putLanes o d
      (convert f.toNat o.toNat (p.toNat * 2 + q1.toNat) (e == 1) (u == 1) (lanesOfSeg f.toNat x) (if laneCount f.toNat < laneCount o.toNat then lanesOfSeg o.toNat w else [])))) := by
  have hexec : exec (.vcvt d a p f o e u q1) s = execVcvt d a p f o e u q1 s := rfl
  rw [hexec, execVcvt]
  by_cases h : laneCount f.toNat < laneCount o.toNat
  · simp only [bind, Except.bind, lanes_ok hx, lanes_ok hw, if_pos h]
  · simp only [bind, Except.bind, lanes_ok hx, if_neg h]

theorem vcvt_narrows (hroom : RoomForVector s) (hx : s.vseg a.toNat = .ok x) (hw : s.vseg d.toNat = .ok w) (hmore : laneCount f.toNat ≤ laneCount o.toNat)
    (hpart : (p.toNat * 2 + q1.toNat + 1) * laneCount f.toNat ≤ laneCount o.toNat) : ∃ t, exec (.vcvt d a p f o e u q1) s = .next t ∧
      VectorWrites s t d.toNat (if laneCount f.toNat < laneCount o.toNat then [a.toNat, d.toNat] else [a.toNat]) [d.toNat] 3 1 ∧
      ∀ j, laneAt o (segOf s t d.toNat) j =
        if (p.toNat * 2 + q1.toNat) * laneCount f.toNat ≤ j ∧ j < (p.toNat * 2 + q1.toNat + 1) * laneCount f.toNat then
          (cvtBlock o.toNat (u == 1) (e == 1) (laneFmt f.toNat).isNone ((lanesOfSeg f.toNat x).map (laneVal f.toNat))).getD (j - (p.toNat * 2 + q1.toNat) * laneCount f.toNat) 0 %
            2 ^ laneBits o.toNat
        else (lanesOfSeg o.toNat w).getD j 0 % 2 ^ laneBits o.toNat := by
  rw [execVcvt_eq hx hw, convert_splices hmore hpart]
  generalize p.toNat * 2 + q1.toNat = part at *
  generalize hout : cvtBlock o.toNat (u == 1) (e == 1) (laneFmt f.toNat).isNone ((lanesOfSeg f.toNat x).map (laneVal f.toNat)) = out
  have hlen : laneCount f.toNat = out.length := by rw [← hout, cvtBlock_length, List.length_map, lanesOfSeg_length]
  have hend : (part + 1) * laneCount f.toNat = part * laneCount f.toNat + out.length := by rw [Nat.add_one_mul, hlen]
  rw [hend] at hpart ⊢
  obtain ⟨t, ht, hwrites, hlanes⟩ := vectorWrites_putLanes (reads := if laneCount f.toNat < laneCount o.toNat then [a.toNat, d.toNat] else [a.toNat]) (writes := [d.toNat])
    (landing := 3) (occ := 1) (d := d) (y := o)
    (l := (lanesOfSeg o.toNat w).take (part * laneCount f.toNat) ++ out ++ (lanesOfSeg o.toNat w).drop (part * laneCount f.toNat + out.length)) hroom rfl (by
      simp only [List.length_append, List.length_take, List.length_drop, lanesOfSeg_length]
      omega)
  refine ⟨t, ht, hwrites, fun j => ?_⟩
  rw [hlanes, getD_splice (by rwa [lanesOfSeg_length]), apply_ite (· % _)]

/-! ## Quantization (12_vector_matrix.md R220) -/

/-- The replaced bits of a segment, those below and those above. -/
theorem segInsert_fields (x pos n v : Nat) : segInsert x pos n v / 2 ^ pos % 2 ^ n = v % 2 ^ n ∧ segInsert x pos n v % 2 ^ pos = x % 2 ^ pos ∧
    segInsert x pos n v / 2 ^ (pos + n) = x / 2 ^ (pos + n) := by
  have hpos : 0 < 2 ^ pos := by positivity
  have hn : 0 < 2 ^ n := by positivity
  have hlow : x % 2 ^ pos < 2 ^ pos := Nat.mod_lt _ hpos
  have hmid : v % 2 ^ n < 2 ^ n := Nat.mod_lt _ hn
  have hform : segInsert x pos n v = x % 2 ^ pos + 2 ^ pos * (v % 2 ^ n + 2 ^ n * (x / 2 ^ (pos + n))) := by
    rw [segInsert, Nat.pow_add]
    ring
  have hdiv : segInsert x pos n v / 2 ^ pos = v % 2 ^ n + 2 ^ n * (x / 2 ^ (pos + n)) := by
    rw [hform, Nat.add_mul_div_left _ _ hpos, Nat.div_eq_of_lt hlow, Nat.zero_add]
  refine ⟨?_, ?_, ?_⟩
  · rw [hdiv, Nat.add_mul_mod_self_left, Nat.mod_mod]
  · rw [hform, Nat.add_mul_mod_self_left, Nat.mod_mod]
  · rw [Nat.pow_add, ← Nat.div_div_eq_div_mul, hdiv, ← Nat.pow_add, Nat.add_mul_div_left _ _ hn, Nat.div_eq_of_lt hmid, Nat.zero_add]

theorem segInsert_lt {x pos n : Nat} (v : Nat) {m : Nat} (hx : x < 2 ^ m) (h : pos + n ≤ m) : segInsert x pos n v < 2 ^ m := by
  obtain ⟨k, rfl⟩ := Nat.exists_eq_add_of_le h
  obtain ⟨-, -, habove⟩ := segInsert_fields x pos n v
  rw [Nat.pow_add, Nat.mul_comm, ← Nat.div_lt_iff_lt_mul (by positivity)] at hx ⊢
  rwa [habove]

theorem vseg_lt {k v : Nat} (h : s.vseg k = .ok v) : v < 2 ^ 512 := by
  have hseen : s.seen (320 + 64 * k) 64 < 2 ^ 512 := by
    unfold State.seen
    split
    · exact mread_lt _ _ _
    · exact State.rowGet_lt s _ _ _
  unfold State.vseg State.readRow at h
  split at h
  · cases h
  split at h
  · cases h
  · cases h
    exact hseen

/-- A value written over some of a segment's bits: those bits, and what the segment keeps. -/
theorem segInsert_stands {x pos n : Nat} (v : Nat) (hx : x < 2 ^ 512) (h : pos + n ≤ 512) : segInsert x pos n v % 2 ^ 512 = segInsert x pos n v :=
  Nat.mod_eq_of_lt (segInsert_lt v hx h)

/-- The source segments of a quantization: two where the lanes are FP32. -/
def quantSources (a : BitVec 4) (f : BitVec 3) : List Nat := if f = 0 then [a.toNat, a.toNat + 1] else [a.toNat]

/-- The 32 values that a quantization takes, `x'` the segment after wA. -/
def quantValues (f : BitVec 3) (x x' : Nat) : List Val := ((lanesOfSeg f.toNat x ++ if f = 0 then lanesOfSeg 0 x' else []).take 32).map (laneVal f.toNat)

variable {x' width : Nat} {n : BitVec 6} {q : BitVec 2} {quant : List Val → List Nat × Nat}

theorem vquant_eq (hx : s.vseg a.toNat = .ok x) (hx' : f = 0 → s.vseg (a.toNat + 1) = .ok x') (hw : s.vseg d.toNat = .ok w) (hz : s.vseg b.toNat = .ok z) :
    s.vquant d a b f n q width quant = s.vecOp (quantSources a f ++ [d.toNat, b.toNat]) [d.toNat, b.toNat] 6 2
      (.ok ((s.setSeg d.toNat (segInsert w (128 * q.toNat) 128 (joinLanes 4 (quant (quantValues f x x')).1))).setSeg b.toNat
        (segInsert z (width * n.toNat) width (quant (quantValues f x x')).2))) := by
  unfold State.vquant quantSources quantValues
  by_cases h : f = 0
  · simp only [bind, Except.bind, lanes_ok hx, if_pos h, hx' h, hw, hz, Except.map]
  · simp only [bind, Except.bind, lanes_ok hx, if_neg h, hw, hz]

theorem vquant_issued (hroom : RoomForVector s) (hne : d ≠ b) (hx : s.vseg a.toNat = .ok x) (hx' : f = 0 → s.vseg (a.toNat + 1) = .ok x') (hw : s.vseg d.toNat = .ok w)
    (hz : s.vseg b.toNat = .ok z) (hslot : width * n.toNat + width ≤ 512) : ∃ t, s.vquant d a b f n q width quant = .next t ∧
      VectorIssued s t (quantSources a f ++ [d.toNat, b.toNat]) [d.toNat, b.toNat] 6 2 ∧
      segOf s t d.toNat = segInsert w (128 * q.toNat) 128 (joinLanes 4 (quant (quantValues f x x')).1) ∧
      segOf s t b.toNat = segInsert z (width * n.toNat) width (quant (quantValues f x x')).2 := by
  have hother : d.toNat ≠ b.toNat := fun h => hne (BitVec.eq_of_toNat_eq h)
  rw [vquant_eq hx hx' hw hz]
  generalize hcodes : segInsert w (128 * q.toNat) 128 (joinLanes 4 (quant (quantValues f x x')).1) = codes
  generalize hscale : segInsert z (width * n.toNat) width (quant (quantValues f x x')).2 = scale
  have hcodes' : codes % 2 ^ 512 = codes := hcodes ▸ segInsert_stands _ (vseg_lt hw) (by omega)
  have hscale' : scale % 2 ^ 512 = scale := hscale ▸ segInsert_stands _ (vseg_lt hz) hslot
  obtain ⟨t, ht, hissued, hmem⟩ := issues_vecOp (reads := quantSources a f ++ [d.toNat, b.toNat]) (writes := [d.toNat, b.toNat]) (landing := 6) (occ := 2) hroom rfl
    ((vectorResult_setSeg s d.toNat codes).trans (vectorResult_setSeg _ b.toNat scale))
  have hme : (s.setSeg d.toNat codes).me = s.me := State.setSeg_me s _ _
  refine ⟨t, ht, hissued, ?_, ?_⟩
  · rw [segOf_congr hme hmem, segOf_setSeg_other _ hother, segOf_congr (s := s) hme.symm rfl, segOf_setSeg, hcodes']
  · rw [segOf_congr hme hmem, segOf_setSeg, hscale']

theorem vectorConversions : VectorConversions := by
  intro s d a b f o p e u q1 n q x x' w z hroom hx hw hz
  refine ⟨vcvt_widens hroom hx, fun hmore hpart => ?_, fun hne _ hx' v hv hslot => ?_⟩
  · obtain ⟨t, ht, hwrites, hlanes⟩ := vcvt_narrows (e := e) (u := u) hroom hx hw hmore hpart
    refine ⟨t, ht, hwrites, fun he i hi => ?_, fun j hj => ?_⟩
    · subst he
      simp [cvtBlock, lanesOfSeg_eq, List.getD_eq_getElem?_getD, hi]
    · rw [hlanes, lanesOfSeg_getD hj, laneAt_mod]
  · have hexec : exec v.1 s = s.vquant d a b f n q v.2.1 v.2.2 := by
      simp only [List.mem_cons, List.not_mem_nil, or_false] at hv
      obtain rfl | rfl := hv
      · rfl
      · rfl
    obtain ⟨t, ht, hissued, hd, hb⟩ := vquant_issued (q := q) (quant := v.2.2) hroom hne hx hx' hw hz hslot
    obtain ⟨hcodes, hlow, hhigh⟩ := segInsert_fields w (128 * q.toNat) 128 (joinLanes 4 (v.2.2 (quantValues f x x')).1)
    obtain ⟨hscale, hbelow, habove⟩ := segInsert_fields z (v.2.1 * n.toNat) v.2.1 (v.2.2 (quantValues f x x')).2
    rw [← hd] at hcodes hlow hhigh
    rw [← hb] at hscale hbelow habove
    exact ⟨t, hexec.trans ht, hissued, hcodes, hlow, hhigh, hscale, hbelow, habove⟩

end Sys2Proof.Says
end

section
namespace Sys2Proof.Says
open Sys2Proof.Machine

/-! ## The quad's vector unit (12_vector_matrix.md R206 to R209) -/

variable {s : State} {c quad g : Nat} {v : VOp}

/-! ### VECTOR_BIND (R206, R207) -/

theorem vhead_of_empty (h : (s.coreOf c).vq = []) : s.vhead c = none := by simp [State.vhead, h]

theorem vhead_of_single (hq : (s.coreOf c).vq = [v]) (hbound : v.bound = none) (hissued : v.issued < s.cycle) : s.vhead c = some 0 := by
  simp [State.vhead, hq, hbound, List.findIdx?_cons, Nat.not_le.2 hissued]

/-- The four cores of a quad. -/
def quadCores (quad : Nat) : List Nat := (List.range 4).map fun i => 4 * quad + i

theorem mem_quadCores : c ∈ quadCores quad ↔ c / 4 = quad := by
  simp only [quadCores, List.mem_map, List.mem_range]
  constructor
  · rintro ⟨i, hi, rfl⟩
    omega
  · intro h
    exact ⟨c % 4, by omega, by omega⟩

theorem nodup_quadCores (quad : Nat) : (quadCores quad).Nodup := List.nodup_range.map fun _ _ h => Nat.add_left_cancel h

/-- A list of which one member alone has an image. -/
theorem filterMap_eq_singleton {α β : Type} {f : α → Option β} {l : List α} {a : α} {b : β} (hnodup : l.Nodup) (ha : a ∈ l) (hb : f a = some b)
    (hothers : ∀ a' ∈ l, a' ≠ a → f a' = none) : l.filterMap f = [b] := by
  obtain ⟨l1, l2, rfl⟩ := List.append_of_mem ha
  rw [List.nodup_middle, List.nodup_cons, List.mem_append, not_or] at hnodup
  obtain ⟨⟨hl1, hl2⟩, -⟩ := hnodup
  have hbefore : l1.filterMap f = [] := List.filterMap_eq_nil_iff.2 fun a' h => hothers a' (by simp [h]) fun e => hl1 (e ▸ h)
  have hafter : l2.filterMap f = [] := List.filterMap_eq_nil_iff.2 fun a' h => hothers a' (by simp [h]) fun e => hl2 (e ▸ h)
  rw [List.filterMap_append, List.filterMap_cons_some hb, hbefore, hafter, List.nil_append]

/-- The cores of the quad that may bind, with the places of their heads. -/
def bindable (s : State) (quad : Nat) (done : List Nat) : List (Nat × Nat) :=
  (quadCores quad).filterMap fun c => if done.contains c then none else (s.vhead c).map fun i => (c, i)

/-- With one core that may bind, of a share that is not 0, the arbiter takes it. -/
theorem vnext_of_single {i : Nat} {done : List Nat} (h : bindable s quad done = [(c, i)]) (hshare : (s.cs c).vshare ≠ 0) : s.vnext quad done = some (c, i) := by
  have hkey : (s.vkey c).1 = 0 := if_neg hshare
  have hpool : (bindable s quad done).filter (fun x => (s.vkey x.1).1 == 0) = [(c, i)] := by simp [h, hkey]
  unfold bindable quadCores at hpool
  simp only [State.vnext, hpool]
  rfl

/-- With none, nothing binds. -/
theorem vnext_of_none {done : List Nat} (h : bindable s quad done = []) : s.vnext quad done = none := by
  unfold bindable quadCores at h
  simp only [State.vnext, h]
  simp

theorem vbind_of_none {done : List Nat} (h : bindable s quad done = []) : ∀ fuel g : Nat, vbind fuel quad g done s = s
  | 0, _ => rfl
  | fuel + 1, g => by
    simp only [vbind, vnext_of_none h, vbind_of_none h fuel, ite_self]

/-- The head of a core's queue bound to the lane group `g` (R206). -/
def bindHead (s : State) (quad g c : Nat) (v : VOp) : State :=
  (s.modQuad quad fun q => { q with groups := q.groups.set g (s.cycle + v.occupancy) }).modCore c fun x =>
    { x with vq := modAt x.vq 0 fun v => { v with bound := some s.cycle }, vpass := x.vpass + v.occupancy * (256 / max (s.cs c).vshare.toNat 1) }

theorem vbind_of_head {fuel : Nat} {done : List Nat} (hg : g < 4) (hfree : (s.quadOf quad).groups.getD g 0 ≤ s.cycle) (hnext : s.vnext quad done = some (c, 0))
    (hv : (s.coreOf c).vq[0]? = some v) : vbind (fuel + 1) quad g done s = vbind fuel quad (g + 1) (c :: done) (bindHead s quad g c v) := by
  simp only [vbind, if_neg (Nat.not_le.2 hg), if_neg (Nat.not_lt.2 hfree), hnext, hv]
  rfl

theorem execVectorBind_of_single (hc : c / 4 = s.sel.unit) (hq : (s.coreOf c).vq = [v]) (hbound : v.bound = none) (hissued : v.issued < s.cycle)
    (hothers : ∀ c', c' / 4 = s.sel.unit → c' ≠ c → (s.coreOf c').vq = []) (hshare : (s.cs c).vshare ≠ 0)
    (hfree : (s.quadOf s.sel.unit).groups.getD 0 0 ≤ s.cycle) : exec .vectorBind s = .next (bindHead s s.sel.unit 0 c v) := by
  have hnone : (quadCores s.sel.unit).filter (fun c => (s.coreOf c).vq.any fun v => v.bound == some s.cycle) = [] := by
    refine List.filter_eq_nil_iff.2 fun c' hc' => ?_
    by_cases h : c' = c
    · simp [h, hq, hbound]
    · simp [hothers c' (mem_quadCores.1 hc') h]
  have hone : bindable s s.sel.unit [] = [(c, 0)] := by
    refine filterMap_eq_singleton (nodup_quadCores _) (mem_quadCores.2 hc) ?_ fun c' hc' hne => ?_
    · simp [vhead_of_single hq hbound hissued]
    · simp [vhead_of_empty (hothers c' (mem_quadCores.1 hc') hne)]
  have hrest : bindable (bindHead s s.sel.unit 0 c v) s.sel.unit [c] = [] := by
    refine List.filterMap_eq_nil_iff.2 fun c' hc' => ?_
    by_cases h : c' = c
    · simp [h]
    · have hempty : ((bindHead s s.sel.unit 0 c v).coreOf c').vq = [] := by
        rw [bindHead, State.coreOf_modCore, if_neg (Ne.symm h)]
        exact hothers c' (mem_quadCores.1 hc') h
      simp [vhead_of_empty hempty]
  have hexec : exec .vectorBind s = .next (vbind 5 s.sel.unit 0 ((quadCores s.sel.unit).filter fun c => (s.coreOf c).vq.any fun v => v.bound == some s.cycle) s) := rfl
  rw [hexec, hnone, vbind_of_head (by decide) hfree (vnext_of_single hone hshare) (by rw [hq]; rfl), vbind_of_none hrest]

theorem bindHead_shows (hq : (s.coreOf c).vq = [v]) (hshare : (s.cs c).vshare ≠ 0) :
    ((bindHead s quad 0 c v).coreOf c).vq = [{ v with bound := some s.cycle }] ∧
    ((bindHead s quad 0 c v).coreOf c).vpass = (s.coreOf c).vpass + v.occupancy * (256 / (s.cs c).vshare.toNat) ∧
    ((bindHead s quad 0 c v).quadOf quad).groups = (s.quadOf quad).groups.set 0 (s.cycle + v.occupancy) := by
  have hcore : (bindHead s quad 0 c v).coreOf c = { s.coreOf c with
      vq := modAt (s.coreOf c).vq 0 fun v => { v with bound := some s.cycle }, vpass := (s.coreOf c).vpass + v.occupancy * (256 / max (s.cs c).vshare.toNat 1) } := by
    rw [bindHead, State.coreOf_modCore, if_pos rfl]
    rfl
  have hquad : (bindHead s quad 0 c v).quadOf quad = { s.quadOf quad with groups := (s.quadOf quad).groups.set 0 (s.cycle + v.occupancy) } := by
    rw [bindHead, State.modCore_at_quadOf, State.quadOf_modQuad, if_pos rfl]
  have hone : 1 ≤ (s.cs c).vshare.toNat := Nat.pos_of_ne_zero fun h => hshare (BitVec.eq_of_toNat_eq h)
  rw [hcore, hquad, hq, Nat.max_eq_left hone]
  exact ⟨rfl, rfl, rfl⟩

/-! ### VECTOR_LAND (R208, R209) -/

/-- The operations `gone` no longer keep anything of their rows waiting. -/
def release (gone : List VOp) (s : State) : State := gone.foldl (fun s v => s.modThr v.rid fun t => { t with loads := t.loads.filter fun l => l.id != v.id }) s

theorem release_outside : ∀ (gone : List VOp) (s : State), { release gone s with thr := s.thr } = s
  | [], _ => rfl
  | v :: gone, s => by
    have ih := release_outside gone (s.modThr v.rid fun t => { t with loads := t.loads.filter fun l => l.id != v.id })
    exact congrArg (fun u : State => { u with thr := s.thr }) ih

theorem release_thrOf (r : Nat) : ∀ (gone : List VOp) (s : State), (release gone s).thrOf r = { s.thrOf r with loads := ((release gone s).thrOf r).loads } ∧
    ∀ l, l ∈ ((release gone s).thrOf r).loads ↔ l ∈ (s.thrOf r).loads ∧ ∀ v ∈ gone, v.rid = r → v.id ≠ l.id
  | [], s => by simp [release]
  | v :: gone, s => by
    obtain ⟨hrest, hloads⟩ := release_thrOf r gone (s.modThr v.rid fun t => { t with loads := t.loads.filter fun l => l.id != v.id })
    have hstep : release (v :: gone) s = release gone (s.modThr v.rid fun t => { t with loads := t.loads.filter fun l => l.id != v.id }) := rfl
    rw [hstep]
    rw [State.thrOf_modThr] at hrest hloads
    by_cases h : v.rid = r
    · subst h
      rw [if_pos rfl] at hrest hloads
      refine ⟨hrest, fun l => ?_⟩
      have hkept : (l.id != v.id) = true ↔ v.id ≠ l.id := by rw [bne_iff_ne, ne_comm]
      rw [hloads, List.mem_filter, List.forall_mem_cons, and_assoc, hkept]
      simp only [true_imp_iff]
    · rw [if_neg h] at hrest hloads
      refine ⟨hrest, fun l => ?_⟩
      rw [hloads, List.forall_mem_cons]
      simp [h]

theorem landed_iff (v : VOp) (now : Nat) : VOp.landed v now = true ↔ ∃ b, v.bound = some b ∧ b + v.landing ≤ now := by
  unfold VOp.landed
  cases v.bound <;> simp

/-- The operations of a core that have landed leave its queue. -/
def withoutLanded (s : State) (c : Nat) : State := s.modCore c fun x => { x with vq := x.vq.filter fun v => !(VOp.landed v s.cycle) }

theorem vectorLand_shows (s : State) : ∃ t, exec .vectorLand s = .next t ∧ { t with core := s.core, thr := s.thr } = s ∧ (∀ c, c ≠ s.sel.unit → t.coreOf c = s.coreOf c) ∧
    t.coreOf s.sel.unit = { s.coreOf s.sel.unit with vq := (t.coreOf s.sel.unit).vq } ∧
    (∀ v, v ∈ (t.coreOf s.sel.unit).vq ↔ v ∈ (s.coreOf s.sel.unit).vq ∧ ¬ ∃ b, v.bound = some b ∧ b + v.landing ≤ s.cycle) ∧
    ∀ r, t.thrOf r = { s.thrOf r with loads := (t.thrOf r).loads } ∧ ∀ l, l ∈ (t.thrOf r).loads ↔ l ∈ (s.thrOf r).loads ∧
      ∀ v ∈ (s.coreOf s.sel.unit).vq, (∃ b, v.bound = some b ∧ b + v.landing ≤ s.cycle) → v.rid = r → v.id ≠ l.id := by
  have hexec : exec .vectorLand s = .next (release ((s.coreOf s.sel.unit).vq.filter fun v => VOp.landed v s.cycle) (withoutLanded s s.sel.unit)) := rfl
  generalize hgone : ((s.coreOf s.sel.unit).vq.filter fun v => VOp.landed v s.cycle) = gone at hexec
  have houtside := release_outside gone (withoutLanded s s.sel.unit)
  have hcore (c : Nat) : (release gone (withoutLanded s s.sel.unit)).coreOf c = (withoutLanded s s.sel.unit).coreOf c := congrArg (·.coreOf c) houtside
  have hown : (withoutLanded s s.sel.unit).coreOf s.sel.unit = { s.coreOf s.sel.unit with vq := (s.coreOf s.sel.unit).vq.filter fun v => !(VOp.landed v s.cycle) } := by
    rw [withoutLanded, State.coreOf_modCore, if_pos rfl]
  refine ⟨_, hexec, congrArg (fun u : State => { u with core := s.core }) houtside, fun c hc => ?_, ?_, fun v => ?_, fun r => ?_⟩
  · rw [hcore, withoutLanded, State.coreOf_modCore, if_neg (Ne.symm hc)]
  · rw [hcore, hown]
  · rw [hcore, hown, List.mem_filter, Bool.not_eq_true', ← Bool.not_eq_true, landed_iff]
  · obtain ⟨hrest, hloads⟩ := release_thrOf r gone (withoutLanded s s.sel.unit)
    refine ⟨hrest, fun l => ?_⟩
    rw [hloads, ← hgone]
    simp only [List.mem_filter, landed_iff, and_imp]
    rfl

/-! ### What a vector word and other words wait for (R209) -/

theorem vseg_of_unloaded {k : Nat} (hu : s.uncorrAt (rowAddr s.me + (320 + 64 * k)) 64 = none) (hslot : s.cur.slot ≠ .pair1)
    (h : ∀ l ∈ (s.thrOf s.me).loads, l.seg = some k → l.vec = true) : s.vseg k = .ok (s.rowGet s.me (320 + 64 * k) 64) := by
  have hnone : (s.seenLoads.any fun l => l.seg == some k && !l.vec) = false := by
    rw [seenLoads_of_ne_pair1 hslot]
    exact List.any_eq_false.2 fun l hl => by simpa using h l hl
  rw [State.vseg, hnone, if_neg Bool.false_ne_true, readRow_of_correctable hu, seen_of_ne_pair1 hslot]

theorem seg_of_unloaded {k : Nat} (hu : s.uncorrAt (rowAddr s.me + (320 + 64 * k)) 64 = none) (hslot : s.cur.slot ≠ .pair1)
    (h : ∀ l ∈ (s.thrOf s.me).loads, l.seg ≠ some k) : s.seg k = .ok (s.rowGet s.me (320 + 64 * k) 64) := by
  have hnone : (s.seenLoads.any fun l => l.seg == some k) = false := by
    rw [seenLoads_of_ne_pair1 hslot]
    exact List.any_eq_false.2 fun l hl => by simpa using h l hl
  rw [State.seg, hnone, if_neg Bool.false_ne_true, readRow_of_correctable hu, seen_of_ne_pair1 hslot]

theorem seg_of_loading {k : Nat} (hslot : s.cur.slot ≠ .pair1) (h : ∃ l ∈ (s.thrOf s.me).loads, l.seg = some k) : s.seg k = .error (.stall false) := by
  refine if_pos ?_
  rw [seenLoads_of_ne_pair1 hslot]
  simpa using h

theorem vsrc_of_unloaded {a : Nat} (h0 : 0 < a) (ha : a < 28) (hu : s.uncorrAt (rowAddr s.me + 8 * a) 8 = none) (hslot : s.cur.slot ≠ .pair1) (hb : s.seenBound a = false)
    (h : ∀ l ∈ (s.thrOf s.me).loads, l.reg = some a → l.vec = true) : s.vsrc a = .ok (num (s.greg s.me a), s) := by
  have hnone : (s.seenLoads.any fun l => l.reg == some a && !l.vec) = false := by
    rw [seenLoads_of_ne_pair1 hslot]
    exact List.any_eq_false.2 fun l hl => by simpa using h l hl
  rw [State.vsrc, if_pos ⟨ha, by simp [hb]⟩, if_neg (by omega), hnone, if_neg Bool.false_ne_true, readRow_of_correctable hu, seen_of_ne_pair1 hslot]
  rfl

theorem vectorUnit : VectorUnit := by
  intro s
  refine ⟨fun c v hc hq hbound hissued hothers hshare hfree => ?_, vectorLand_shows s, fun k _ hu hslot => ?_, fun a h0 ha hu hslot hb => vsrc_of_unloaded h0 ha hu hslot hb⟩
  · obtain ⟨hqueue, hpass, hgroups⟩ := bindHead_shows (quad := s.sel.unit) hq hshare
    exact ⟨_, execVectorBind_of_single hc hq hbound hissued hothers hshare hfree, hqueue, hpass, hgroups, rfl, rfl, rfl⟩
  · exact ⟨vseg_of_unloaded hu hslot, seg_of_unloaded hu hslot, seg_of_loading hslot⟩

/-- Settles O38: a conversion replaces a stretch of lanes (`getD_splice`) and a quantization a stretch of bits (`segInsert_fields`); one bindable head is the arbiter's whole
choice (`vnext_of_single`), and landings only take loads away (`release_thrOf`). -/
theorem vectorConversionsAndUnit : Obligations.VectorConversionsAndUnit := ⟨vectorConversions, vectorUnit⟩

end Sys2Proof.Says
end
